-- ==== Sys2Proof/Word.lean ====
section
/-!
DEFINITION. The word types of the module: registers, packet words, descriptor words and bytes are bits (R6, R286).
-/
namespace Sys2Proof

/-- A 64-bit word: a register, a packet word, a descriptor word. -/
abbrev Word := BitVec 64

/-- A byte of memory. -/
abbrev Byte := BitVec 8

/-- The bit pattern of an FP32 number (R69). -/
abbrev F32 := BitVec 32

end Sys2Proof
end

