-- ==== Sys2Proof/Syntax.lean ====
section
/-!
DEFINITION. The commands of the block: one constructor per row of spec/opcode_table.json, with the operands of the row.
A host command carries its request header (R286) and its parameter words P0 to P6 as R289 lays them out; a descriptor its 64-bit words;
a register write its function, BAR0 offset, size and value; an event the readings or results that the hardware meets there.
-/
namespace Sys2Proof

/-- A physical core site D`die`.C`site` (R2, R3). -/
structure Site where
  die : Fin 12
  site : Fin 68
  deriving DecidableEq, Repr

/-- The header of a command packet (R286): its submission ring, TAG, PARTITION and flags. The issuer is the ring's owner (R282). -/
structure Req where
  ring : Fin 64
  tag : BitVec 16
  part : Fin 16
  ordered : Bool
  quiet : Bool
  interrupt : Bool
  earlyAck : Bool
  deriving DecidableEq, Repr

/-- The regulated resources (R210). -/
inductive RegRes where
  | marsh (m : Fin 12)
  | cache
  | peat
  | dma
  deriving DecidableEq, Repr

/-- A slice or a marsh stack: the units that keep refresh (R113, R198). -/
inductive MemUnit where
  | fen (c : Site)
  | marsh (m : Fin 12)
  deriving DecidableEq, Repr

/-- A Zyneno link or a marsh port (R238, R242). -/
inductive LinkUnit where
  | zyn (l : Fin 24)
  | marsh (m : Fin 12)
  deriving DecidableEq, Repr

/-- The kinds of thermal sensors of the module (R340). -/
inductive SensorKind where
  | logic
  | layer0
  | ioDie
  | marsh
  | peat
  deriving DecidableEq, Repr

/-- An error of the hardware in a pass (R49 to R53): in the exact sum of a block in a physical column, in units of its least significant bit (of a checksum column, in
its residue); in the weight, or of a checksum column the residue, that the cell of a row and physical column holds; in an element queued for a row of K after its
residue was taken; or a disagreement of the tail's adders in a logical column. -/
inductive PassFault where
  | sum (phys : Fin 67) (block : Fin 4) (err : Int)
  | weight (k : Fin 128) (phys : Fin 67) (bits : BitVec 16)
  | element (k : Fin 128) (bits : BitVec 16)
  | tail (n : Fin 64)
  deriving DecidableEq, Repr

/-- An error of one array, from or at one data vector of a pass: a weight stays wrong until its cell is loaded again. -/
structure PassError where
  array : Fin 4
  vector : Fin 512
  fault : PassFault
  deriving DecidableEq, Repr

/-- What a NAND operation met (R222, R223): the planes that reported a fail, and for a read, per codeword in order, the level of the ladder
that corrected it (none: uncorrectable at every level). -/
structure NandResult where
  failed : List (Fin 4)
  levels : List (Option (Fin 9))
  deriving DecidableEq, Repr

/-- A mismatch that an array's checks find in a pass of an attention operation (R52, R163): array, location code, vector or group. -/
structure AttMismatch where
  array : Fin 4
  loc : Fin 128
  index : Fin 512
  deriving DecidableEq, Repr

/-- What the end of an attention operation met: the flash's results for its side-path pages in the peat, in order of position, and the mismatches found in the passes of the
array path. -/
structure AttEnd where
  flash : List NandResult
  found : List AttMismatch
  deriving DecidableEq, Repr

/-- The buffer classes of packets (R241, R263). -/
inductive PktClass where
  | request
  | response
  | management
  deriving DecidableEq, Repr

/-- Whose packet travels on a Zyneno link (R241): network request `num` of a core, a host command by its ring and TAG, or other traffic of a partition. -/
inductive ZynOwner where
  | core (c : Site) (num : Nat)
  | host (ring : Fin 64) (tag : BitVec 16)
  | part (p : Fin 12)
  deriving DecidableEq, Repr

/-- A packet whose header a Zyneno flit carries (R240, R241): its owner, its buffer class and whether it is on its second ring hop. The further fields of a
header are those of the request it belongs to. -/
structure ZynPkt where
  owner : ZynOwner
  cls : PktClass
  second : Bool
  deriving DecidableEq, Repr

/-- A Zyneno flit as its receiver takes it from the wires (R240): its 1,024 bytes as 128 little-endian words, the packets that its sender put into it, the
data wires that the eye monitor finds wrong (R245), and in ns the latencies of the packets it completes (R403). -/
structure ZynFlit where
  words : List Word
  packets : List ZynPkt
  eye : List (Fin 1024)
  latencies : List Nat
  deriving DecidableEq, Repr

/-- What the other end of a Zyneno link sends in NEGOTIATE (R244): its version and its capability mask. -/
structure LinkFar where
  version : Nat
  caps : Nat
  deriving DecidableEq, Repr

/-- What one end of a Zyneno link meets in a full training (R242, R244): the data wires that fail (direction, wire), and the other end. -/
structure LinkTrain where
  bad : List (Bool × Nat)
  far : LinkFar
  deriving DecidableEq, Repr

/-- What the two ends of a Xeunni port exchange in NEGOTIATE (R260): module identifier, version, capabilities. -/
structure XniNego where
  id : Nat
  version : Nat
  caps : Nat
  deriving DecidableEq, Repr

/-- What a Xeunni port meets in a training state (R260): a signal, the lanes that fail (direction, lane), whether the far end has a spare for each, the delay
measured, and what the far end sends in NEGOTIATE. -/
structure PortTrain where
  signal : Bool
  bad : List (Bool × Fin 8)
  farSpares : Bool
  delay : Nat
  far : XniNego
  deriving DecidableEq, Repr

/-- A mailbox write as it arrives (R266 to R268): the sender and its engine, the destination partition and mailbox, the plan step it belongs to, the bytes and their
offset in the slot. -/
structure MboxPkt where
  srcModule : Nat
  srcPart : Nat
  engine : Fin 32
  part : Fin 12
  mbox : Nat
  step : Nat
  offset : Nat
  data : List Byte
  deriving DecidableEq, Repr

/-- A packet carried by Xeunni flits (R262, R266 to R269). -/
inductive XniPacket where
  | write (p : MboxPkt)
  | ack (engine : Fin 32) (status : Nat)
  | commit (part : Fin 12) (mbox : Fin 64) (srcModule : Nat) (srcPart : Nat) (step : Nat)
  | release (part : Fin 12) (mbox : Fin 64) (srcModule : Nat) (srcPart : Nat) (step : Nat)
  | /-- The far end of a port has a SPARE_ENABLE for the lane, transmit or receive at its own end, from the gust named (R258). -/
    spare (lane : Fin 8) (transmit : Bool) (gust : Nat)
  | /-- Of NEGOTIATE (R260). -/
    negotiate (n : XniNego)
  deriving DecidableEq, Repr

/-- A codeword pair of a port direction (R261): its header's pair number, its five 256-byte flits, and the symbols that arrive wrong, by their place in the
pair and what is added to them on the way. -/
structure XniPair where
  number : BitVec 16
  flits : List (List Byte)
  errors : List (Fin 1088 × BitVec 10)
  deriving DecidableEq, Repr

/-- A received Xeunni flit (R261 to R264): the pair it comes in and its place there, the packets whose last unit it holds (module each is for, hops made,
packet), and for a gust marker in ps the time from the flit's receive reference to the follower's own coming boundary, and the time it spends in the module. -/
structure XniFlit where
  pair : XniPair
  place : Fin 5
  packets : List (Nat × Nat × XniPacket)
  own : Int
  dwell : Nat
  deriving DecidableEq, Repr

/-- What one 1 ms tick measures (R362): of each rail whose measurement works, its number, voltage in mV, current in 0.1 A and power in 0.1 W. -/
structure TickIn where
  rails : List (Fin 58 × Nat × Nat × Nat)
  deriving DecidableEq, Repr

/-- The form in which the host link comes up: FLIT mode, reduced width (L0p, R274), and VF Enable as the host's configuration then has it (R275). -/
structure HostForm where
  flit : Bool
  l0p : Bool
  vfs : Bool
  deriving DecidableEq, Repr

/-- What a module measures of a gust marker it receives (R269): the time from its receive reference to the boundary that it expects itself, and the time that the
marker spends in it before it is relayed, in ps. -/
structure MarkerTimes where
  own : Int
  dwell : Nat
  deriving DecidableEq, Repr

/-- What a bring-up meets (R377 to R387): whether the identity is reconstructed; whether the factory record, the licence record and the hours count have a good
copy; whether the vote on the SVN floor is lost; the repair-map entries whose vote is lost; the links and ports that stay DOWN; what a Zyneno link's training
meets where it is not that no wire fails and every end offers its own version and capabilities; the data bonds of slices and data wires of stacks that are found failed (R104, R198); failures of the self-test (TEST, UNIT, INDEX, DETAIL); the straps; whether REFCLK runs; of the UCIe sites, modules trained, RATE code and whether redundant lanes are in use (R254). -/
structure BootIn where
  pufOk : Bool
  factoryOk : Bool
  licenceOk : Bool
  hoursOk : Bool
  floorLost : Bool
  lost : List Nat
  down : List LinkUnit
  trains : List (Fin 24 × LinkTrain)
  wires : List Nat
  failures : List (Fin 8 × Nat × Nat × Nat)
  straps : Fin 8
  refclk : Bool
  ucie : List (Fin 4 × Fin 5 × Fin 7 × Bool)
  deriving DecidableEq, Repr

/-- The commands. -/
inductive Instr where

  /-- PLAN_LOAD (R21): Host command that checks and stores a plan header and stages each core's segment into its standby instruction bank. -/
  | planLoad (q : Req) (p0 : Word)
  /-- SEGMENT_STAGED (R94): Every core of the partition has finished staging and checking its segment, so PLAN_LOAD completes. -/
  | segmentStaged (p : Fin 12)
  /-- PLAN_ARM (R21): Host command that makes the loaded plan the armed plan from a later gust boundary. -/
  | planArm (q : Req) (p0 : Word)
  /-- PLAN_DISARM (R21): Host command that disarms the plan at the next boundary and leaves the job at its last commit. -/
  | planDisarm (q : Req)
  /-- GUST_SET (R18): Host command that sets the gust period and lull, and optionally renumbers the gust count, from a named gust. -/
  | gustSet (q : Req) (p0 : Word) (p1 : Word) (p2 : Word)
  /-- JOB_START (R31): Host command that starts or resumes a partition's job from its last commit at a boundary. -/
  | jobStart (q : Req) (p0 : Word)
  /-- JOB_STOP (R31): Host command that stops a partition's job at the next boundary. -/
  | jobStop (q : Req)
  /-- JOB_REWIND (R29): Host command that sets the partition's fault flag so that its running job rewinds. -/
  | jobRewind (q : Req)
  /-- KV_ROOT_SET (R191): Host command that writes a KV root record in three copies, applied through the commit path. -/
  | kvRootSet (q : Req) (p0 : Word) (p1 : Word) (p2 : Word) (p3 : Word)
  /-- KV_FORK (R191): Host command that shares a source root's committed pages below F with a destination root and raises their fork counts. -/
  | kvFork (q : Req) (p0 : Word) (p1 : Word)
  /-- KV_TRIM (R191): Host command that sets a root's length and TRIM_BELOW and clears the entries outside them. -/
  | kvTrim (q : Req) (p0 : Word) (p1 : Word) (p2 : Word)
  /-- KV_EVICT (R192): Host command that copies pages to a lower store as background traffic and changes their entries at commit. -/
  | kvEvict (q : Req) (p0 : Word) (p1 : Word) (p2 : Word) (p3 : Word) (p4 : Word)
  /-- KV_PREFETCH (R192): Host command that copies pages to a higher store as background traffic and changes their entries at commit. -/
  | kvPrefetch (q : Req) (p0 : Word) (p1 : Word) (p2 : Word) (p3 : Word) (p4 : Word)
  /-- KV_PAGE_COPY_DONE (R192): The copy of one page for KV_EVICT or KV_PREFETCH completes, and its entry change waits for the next commit. -/
  | kvPageCopyDone (p : Fin 12)
  /-- MEM_READ (R289): Host command that reads device memory as it stands and writes it to host memory. -/
  | memRead (q : Req) (p0 : Word) (p1 : Word) (p2 : Word)
  /-- MEM_WRITE (R289): Host command that writes host data into device memory, using a read-modify-write for partial transfers. -/
  | memWrite (q : Req) (p0 : Word) (p1 : Word) (p2 : Word)
  /-- MEM_FENCE (R142): Host command that completes once the reed descriptors writing rows inside its range have completed. -/
  | memFence (q : Req) (p0 : Word) (p1 : Word)
  /-- PEAT_READ (R231): Host command that reads and decodes peat pages or KV slots into device memory. -/
  | peatRead (q : Req) (p0 : Word) (p1 : Word) (p2 : Word)
  /-- PEAT_PROGRAM (R231): Host command that programs one pseudo-SLC page or one TLC wordline on each of the named planes. -/
  | peatProgram (q : Req) (p0 : Word) (p1 : Word) (p2 : Word)
  /-- PEAT_ERASE (R231): Host command that erases peat blocks and sets their mode. -/
  | peatErase (q : Req) (p0 : Word) (p1 : Word)
  /-- PEAT_STATUS (R231): Host command that writes block records for a range of peat blocks. -/
  | peatStatus (q : Req) (p0 : Word) (p1 : Word) (p2 : Word)
  /-- PEAT_NAND_DONE (R222): A NAND read, program or erase issued to a peat die finishes, and the module decodes or records its result. -/
  | peatNandDone (ch : Fin 16) (die : Fin 8) (res : NandResult)
  /-- RETIRE_PAGE (R329): Host command that withdraws a 2 KiB chunk of fen or marsh from a gust boundary. -/
  | retirePage (q : Req) (p0 : Word) (p1 : Word)
  /-- RETIRE_BANK (R119): Host command that withdraws a fen bank and its reed from a gust boundary. -/
  | retireBank (q : Req) (p0 : Word) (p1 : Word)
  /-- SPARE_ENABLE_COLUMN (R55): SPARE_ENABLE of kind 1, which assigns an array's spare column to a logical column at a boundary. -/
  | spareEnableColumn (q : Req) (p1 : Word) (p2 : Word)
  /-- SPARE_ENABLE_ROW (R118): SPARE_ENABLE of kind 2, which copies a fen row to a spare row in the lull and remaps it. -/
  | spareEnableRow (q : Req) (p1 : Word) (p2 : Word)
  /-- SPARE_ENABLE_BOND (R104): SPARE_ENABLE of kind 3, which deskews a spare data bond and switches it in at a boundary. -/
  | spareEnableBond (q : Req) (p1 : Word) (p2 : Word)
  /-- SPARE_ENABLE_SITE (R331): SPARE_ENABLE of kind 4, which migrates a core site's slice to a spare site, rebinds the logical index and resets the partition. -/
  | spareEnableSite (q : Req) (p1 : Word) (p2 : Word)
  /-- SPARE_ENABLE_CHANNEL (R203): SPARE_ENABLE of kind 5, which migrates a marsh channel to the spare channel and then switches to it. -/
  | spareEnableChannel (q : Req) (p1 : Word) (p2 : Word)
  /-- SPARE_ENABLE_WIRE (R245): SPARE_ENABLE of kind 6, which trains a spare Zyneno wire and switches it in at a boundary. -/
  | spareEnableWire (q : Req) (p1 : Word) (p2 : Word)
  /-- SPARE_ENABLE_LANE (R258): SPARE_ENABLE of kind 7, which trains a spare Xeunni lane and switches it in at a named boundary once the far end confirms. `far`: the
  far end has its matching command, and its confirmation comes with this one; otherwise it may come later, as a packet. -/
  | spareEnableLane (q : Req) (p1 : Word) (p2 : Word) (far : Bool)
  /-- SITE_MIGRATION_DONE (R331): The copy of a failing core site's slice completes, and the switch and partition reset follow at the next boundary. -/
  | siteMigrationDone (c : Site)
  /-- MARSH_MIGRATION_DONE (R203): The copy of a marsh channel to the spare completes, and the switch follows at the next boundary. -/
  | marshMigrationDone (m : Fin 12)
  /-- REPAIR_MAP_READ (R328): Host command that writes the repair map header and entries to host memory. -/
  | repairMapRead (q : Req) (p0 : Word) (p1 : Word)
  /-- REPAIR_MAP_SAVE (R328): A repair-map change is saved to the configuration flash, which sets SAVED. -/
  | repairMapSave
  /-- PART_CREATE (R316): Host command that checks a parameter block and creates a partition with its dies, shares, engines, regulators and VF. -/
  | partCreate (q : Req) (p0 : Word) (p1 : Word)
  /-- PART_CREATE_DONE (R316): The creation of a partition finishes after its cores are reset and loaded, and the command completes. -/
  | partCreateDone (p : Fin 12)
  /-- PART_RESET (R317): Partition command that abandons the current gust, resets the cores and keeps committed state. -/
  | partReset (q : Req)
  /-- PART_RESET_DONE (R317): A partition reset finishes and its partition reaches state 0 with the job stopped at its last commit. -/
  | partResetDone (p : Fin 12)
  /-- PART_RESET_TIMEOUT (R317): A partition reset that has not finished within 2 s completes with ST_TARGET_RESETTING and leaves the partition lost. -/
  | partResetTimeout (p : Fin 12)
  /-- PART_DESTROY (R318): PF command that stops a partition's engines, unbinds its resources and zeroes its memories. -/
  | partDestroy (q : Req)
  /-- PART_DESTROY_DONE (R318): The zeroing of a destroyed partition's memories finishes, and the command completes. -/
  | partDestroyDone (p : Fin 12)
  /-- POWER_STATE (R367): Host command that moves the whole module between Run, Idle, Sleep, Deep and Off. -/
  | powerState (q : Req) (p0 : Word)
  /-- DIE_POWER_STATE (R369): POWER_STATE with scope 1 or 2, which powers a die's cores and slices, or its transit domain, down or up. -/
  | diePowerState (q : Req) (p0 : Word)
  /-- POWER_STATE_ENTERED (R367): A power-state transition reaches its target once its preconditions have ended, and POWER_STATE completes. -/
  | powerStateEntered
  /-- THERM_LIMIT_SET (R365): Host command that lowers thermal thresholds and sets the module power limit. -/
  | thermLimitSet (q : Req) (p0 : Word)
  /-- CLEAR_TRIP (R353): The CLEAR_TRIP operation of THERM_LIMIT_SET, which clears a latched trip and starts a cold power-on when every sensor is cool. -/
  | clearTrip (q : Req) (p0 : Word)
  /-- MON_CONFIG (R404): Command that configures a monitor or contract class from the next boundary. -/
  | monConfig (q : Req) (p0 : Word) (p1 : Word) (p2 : Word) (p3 : Word)
  /-- MON_READ (R405): Command that writes a monitor's record to host memory and clears the accumulators of a free-running monitor. -/
  | monRead (q : Req) (p0 : Word) (p1 : Word) (p2 : Word)
  /-- LINK_RETRAIN (R242): Host command that retrains a Zyneno link, a marsh port or a Xeunni port, in part or in full. -/
  | linkRetrain (q : Req) (p0 : Word)
  /-- FREEZE (R410): Host command that stops the module's clocks after its completion is written, for state read-out. -/
  | freeze (q : Req)
  /-- LICENCE_LOAD (R395): Host command that verifies and stores a licence record or a service record. -/
  | licenceLoad (q : Req) (p0 : Word) (p1 : Word)
  /-- ATTEST (R296): Command that carries an in-band SPDM request to the responder and returns its response. -/
  | attest (q : Req) (p0 : Word) (p1 : Word) (p2 : Word)
  /-- FW_LOAD (R391): Host command that authenticates a firmware image and writes it to the configuration flash slot. -/
  | fwLoad (q : Req) (p0 : Word) (p1 : Word)
  /-- FW_WRITE_DONE (R391): The erase, write and read-back of the firmware slot finish, and FW_LOAD completes. -/
  | fwWriteDone
  /-- DOLDRUMS_ENTER (R335): Host command that puts the module into Doldrums mode. -/
  | doldrumsEnter (q : Req)
  /-- DOLDRUMS_EXIT (R337): Host command that leaves Doldrums mode when every held cause allows it, and resets every partition. -/
  | doldrumsExit (q : Req)
  /-- SQ_TAIL (R283): Host doorbell write that publishes new packets on a submission ring. -/
  | sqTail (r : Fin 64) (v : Word)
  /-- CQ_HEAD (R283): Host doorbell write that consumes completions from a completion ring. -/
  | cqHead (r : Fin 64) (v : Word)
  /-- PACKET_FETCH (R284): The command processor fetches, validates and starts the next packet of an enabled ring. -/
  | packetFetch
  /-- COALESCE_TIMEOUT (R285): COALESCE_US elapses after the first uncounted completion, which fires the ring's MSI-X vector. -/
  | coalesceTimeout (r : Fin 64)
  /-- WINDOW_READ (R281): Host read through the BAR2 window, served as background traffic of the owning partition. -/
  | windowRead (f : Fin 13) (off : Nat) (n : Nat)
  /-- WINDOW_WRITE (R281): Host write through the BAR2 window, served as background traffic of the owning partition. -/
  | windowWrite (f : Fin 13) (off : Nat) (bytes : List Byte)
  /-- VF_FLR (R275): A function-level reset of a VF clears its rings and window and starts a reset of its partition. -/
  | vfFlr (v : Fin 12)
  /-- PF_FLR (R275): A function-level reset of the PF stops host transfers, clears every ring and window and stops the running jobs. -/
  | pfFlr
  /-- HOT_RESET (R275): A PCIe hot reset has the effects of a PF FLR. -/
  | hotReset
  /-- LINK_DOWN (R275): The PCIe link goes down, or PERST_N is asserted, with the effects of a PF FLR. -/
  | linkDown (perst : Bool)
  /-- REGISTER_WRITE (R6): Host write to a register with no row of its own, applying RW, W1C, W1S and reserved-value rules. -/
  | registerWrite (f : Fin 13) (off : Nat) (size : Nat) (v : Word) (fw : Option Word)
  /-- REGISTER_READ_CLEAR (R5): Host read of an RC field, which returns the value and then clears the field. -/
  | registerReadClear (f : Fin 13) (off : Nat) (size : Nat)
  /-- HST_RING_ENABLE (R298): A write of HST_RING_CTL.ENABLE starts or stops a ring and, when set, resets its indices and PHASE. -/
  | hstRingEnable (f : Fin 13) (r : Fin 64) (v : Word)
  /-- EVT_LOG_ENABLE (R339): A write of EVT_LOG_CTL.ENABLE restarts a log and flushes the records held since bring-up. -/
  | evtLogEnable (f : Fin 13) (v : Word)
  /-- EVT_HOLDOFF (R324): HOLDOFF_US elapses, and the event-log vector held back during it fires. -/
  | evtHoldoff (f : Fin 13)
  /-- ARR_CTL_ENABLE (R63): A write of ARR_CTL.ENABLE, which enables or disables an array from the next gust boundary. -/
  | arrCtlEnable (c : Site) (a : Fin 4) (v : Word)
  /-- REED_CTL_ENABLE (R144): A write of REED_CTL.ENABLE, which enables or disables a slice's reeds from the next gust boundary. -/
  | reedCtlEnable (c : Site) (v : Word)
  /-- ATT_CTL_ENABLE (R171): A write of ATT_CTL.ENABLE, which enables or disables the attention engine from the next boundary. -/
  | attCtlEnable (c : Site) (v : Word)
  /-- KVW_CTL_ENABLE (R194): A write of KVW_CTL.ENABLE, which enables or disables the walker from the next boundary. -/
  | kvwCtlEnable (c : Site) (v : Word)
  /-- PEAT_CTL_ENABLE (R234): A write of PEAT_CTL.ENABLE, which enables or disables peat commands from the next boundary. -/
  | peatCtlEnable (v : Word)
  /-- XNI_PORT_ENABLE (R271): A write of XNI_PORT_CTL.ENABLE, which enables a port within the licence limit, or disables it, from the next boundary. -/
  | xniPortEnable (k : Fin 16) (v : Word)
  /-- XNI_PORT_RETRAIN (R273): A write of 1 to XNI_PORT_CTL.RETRAIN, which starts port training as LINK_RETRAIN does. -/
  | xniPortRetrain (k : Fin 16)
  /-- DMA_CH_ENABLE (R308): A write of DMA_CH_CTL.ENABLE, which starts an engine at head 0 or disables it at its descriptor boundary. -/
  | dmaChEnable (e : Fin 32) (v : Word)
  /-- DMA_CH_STOP (R308): A write of DMA_CH_CTL.STOP, which halts an engine after writing back its owned descriptors. -/
  | dmaChStop (e : Fin 32) (v : Word)
  /-- ARR_INJECT_ARM (R64): A write of ARR_INJECT.ARM, which corrupts the next pass that starts in order to test the checks. -/
  | arrInjectArm (c : Site) (a : Fin 4) (v : Word)
  /-- FEN_FLIP_ARM (R121): A write of FEN_FLIP_CTL.ARM, which XORs a pattern into the slice's next host-path write. -/
  | fenFlipArm (c : Site) (v : Word)
  /-- MRS_FLIP_ARM (R202): A write of MRS_FLIP_CTL.ARM, which XORs a pattern into the next host-path write to a marsh channel. -/
  | mrsFlipArm (m : Fin 12) (v : Word)
  /-- REGULATOR_WRITE (R213): A write of a regulator control word, checked against the guarantee limits and applied at the next boundary. -/
  | regulatorWrite (g : RegRes) (p : Fin 12) (v : Word)
  /-- PEAT_MAP_WRITE (R221): A host write to the peat region map, stored in three copies and applied at the next boundary. -/
  | peatMapWrite (i : Nat) (v : Word)
  /-- PWR_WAKE_CTL_WRITE (R370): A write of the wake enables, ignored when it would clear all three. -/
  | pwrWakeCtlWrite (v : Word)
  /-- WARM_RESET (R389): A write of BOOT_CTL.WARM_RESET, which starts the warm-reset fast path unless a plan is armed. -/
  | warmReset (v : Word) (kept : Bool)
  /-- GUST_BOUNDARY (R24): At the boundary edge the gust number increments, boundary commands take effect, each core starts its slot and the per-gust accounts reset. -/
  | gustBoundary
  /-- LULL_START (R24): The work window ends: cores stop issuing, the squall check is taken and the refresh catch-up begins. -/
  | lullStart
  /-- COMMIT_DECISION (R29): At the decision point each partition commits or, with its fault flag set, rewinds, and the notices of the lull are sent. -/
  | commitDecision
  /-- COMMIT_COMPLETE (R27): The commit word's vote returns the gust, so the staged set becomes committed and the tokens leave the module. -/
  | commitComplete (p : Fin 12)
  /-- GUARD_INTERVAL (R24): At 2 µs before the boundary, scrub stops, sync correction is applied and configuration records are written. -/
  | guardInterval
  /-- GUST_SYNC_EDGE (R33): A rising edge on the GUST_SYNC pin marks a boundary 200 ns later, or is ignored and sets PIN_REJECT. -/
  | gustSyncEdge (off : Int)
  /-- MARKER_SEND (R269): At MARKER_LEAD before a boundary, a master sends a gust marker on every relay port. -/
  | markerSend
  /-- GUST_MARKER (R269): A received gust marker sets the follower's boundary, is relayed, and may adopt its gust number. -/
  | gustMarker (k : Fin 16) (num : Nat) (hops : Nat) (lead : Nat) (at_ : MarkerTimes)
  /-- REGULATOR_REFILL (R211): Every 1 µs each regulator adds to its guaranteed and ceiling token counts. -/
  | regulatorRefill
  /-- PLAN_CODE_INSTRUCTION (R92): The control core executes one RV64 instruction of plan code in user mode. -/
  | planCodeInstruction (c : Site)
  /-- WAIT_LOAD (R95): A load from the wait port returns 0 once all work issued to the masked units has completed. -/
  | waitLoad (c : Site) (m : Fin 64) (rd : Fin 32)
  /-- SLOT_END (R96): A store to the slot-end address marks the end of the slot's code. -/
  | slotEnd (c : Site)
  /-- PASS (R60): Array descriptor, OP 1, that queues a weight-stationary pass with a shadow load of its tile. -/
  | pass (c : Site) (w0 : Word) (w1 : Word) (w2 : Word) (w3 : Word)
  /-- ELEMENTWISE (R56): Array descriptor, OP 2, that folds an element-wise product into the accumulator. -/
  | elementwise (c : Site) (w0 : Word) (w1 : Word) (w2 : Word) (w3 : Word)
  /-- DRAIN (R60): Array descriptor, OP 3, that sends accumulator entries to the vector unit. -/
  | drain (c : Site) (w0 : Word) (w1 : Word) (w2 : Word) (w3 : Word)
  /-- PASS_START (R46): A queued pass starts once its shadows are full, the previous pass has ended and the spacing is met, and then it streams and checks its slots. -/
  | passStart (c : Site) (errs : List PassError)
  /-- VLD (R86): Vector load from the pool or the fen, converted to FP32. -/
  | vld (c : Site) (w0 : Word) (w1 : Word)
  /-- VST (R86): Vector store, converted with block scales. -/
  | vst (c : Site) (w0 : Word) (w1 : Word)
  /-- VDRAIN (R86): Takes the next output row delivered by the arrays into a vector register. -/
  | vdrain (c : Site) (w0 : Word) (w1 : Word)
  /-- VADD (R86): Lane-wise FP32 addition. -/
  | vadd (c : Site) (w0 : Word) (w1 : Word)
  /-- VSUB (R86): Lane-wise FP32 subtraction. -/
  | vsub (c : Site) (w0 : Word) (w1 : Word)
  /-- VMUL (R86): Lane-wise FP32 multiplication. -/
  | vmul (c : Site) (w0 : Word) (w1 : Word)
  /-- VFMA (R86): Lane-wise fused multiply-add with one rounding. -/
  | vfma (c : Site) (w0 : Word) (w1 : Word)
  /-- VMAX (R86): Lane-wise maximum. -/
  | vmax (c : Site) (w0 : Word) (w1 : Word)
  /-- VMIN (R86): Lane-wise minimum. -/
  | vmin (c : Site) (w0 : Word) (w1 : Word)
  /-- VMULS (R86): Lane-wise multiplication by a scalar. -/
  | vmuls (c : Site) (w0 : Word) (w1 : Word)
  /-- VADDS (R86): Lane-wise addition of a scalar. -/
  | vadds (c : Site) (w0 : Word) (w1 : Word)
  /-- VCMPGT (R86): Lane-wise greater-than comparison into a mask register. -/
  | vcmpgt (c : Site) (w0 : Word) (w1 : Word)
  /-- VSEL (R86): Lane-wise selection by a mask. -/
  | vsel (c : Site) (w0 : Word) (w1 : Word)
  /-- VIOTA (R86): Writes the lane index plus a base into each lane. -/
  | viota (c : Site) (w0 : Word) (w1 : Word)
  /-- VRND (R86): Rounds each lane to BF16 precision. -/
  | vrnd (c : Site) (w0 : Word) (w1 : Word)
  /-- VEXP2 (R86): Lane-wise exp2. -/
  | vexp2 (c : Site) (w0 : Word) (w1 : Word)
  /-- VRCP (R86): Lane-wise reciprocal. -/
  | vrcp (c : Site) (w0 : Word) (w1 : Word)
  /-- VRSQRT (R86): Lane-wise reciprocal square root. -/
  | vrsqrt (c : Site) (w0 : Word) (w1 : Word)
  /-- VLOGI (R86): Lane-wise logistic function. -/
  | vlogi (c : Site) (w0 : Word) (w1 : Word)
  /-- VRSUM (R87): Fixed-order sum reduction over registers, broadcast to all lanes. -/
  | vrsum (c : Site) (w0 : Word) (w1 : Word)
  /-- VRMAX (R87): Fixed-order maximum reduction over registers. -/
  | vrmax (c : Site) (w0 : Word) (w1 : Word)
  /-- VPREFIX (R87): Inclusive prefix sum over the lanes. -/
  | vprefix (c : Site) (w0 : Word) (w1 : Word)
  /-- VFIRST (R86): Writes the lowest set lane of a mask to VEC_RESULT. -/
  | vfirst (c : Site) (w0 : Word) (w1 : Word)
  /-- VLAST (R86): Writes the highest set lane of a mask to VEC_RESULT. -/
  | vlast (c : Site) (w0 : Word) (w1 : Word)
  /-- TCLR (R88): Empties the top-k list and sets k. -/
  | tclr (c : Site) (w0 : Word) (w1 : Word)
  /-- TFEED (R88): Offers lane values with consecutive indices to the top-k list. -/
  | tfeed (c : Site) (w0 : Word) (w1 : Word)
  /-- TFEEDX (R88): Offers lane values with raw indices to the top-k list. -/
  | tfeedx (c : Site) (w0 : Word) (w1 : Word)
  /-- TREAD (R88): Writes the top-k list in rank order to two registers. -/
  | tread (c : Site) (w0 : Word) (w1 : Word)
  /-- VRAND (R89): Generates counter-based Philox random words. -/
  | vrand (c : Site) (w0 : Word) (w1 : Word)
  /-- MATVEC (R129): Reed descriptor that forms matrix-vector products against weights in each reed's bank. -/
  | matvec (c : Site) (w0 : Word) (w1 : Word) (w2 : Word) (w3 : Word) (w4 : Word) (w5 : Word)
  /-- BCAST (R134): Reed descriptor that broadcasts BF16 activations from the pool to the reeds' buffers. -/
  | bcast (c : Site) (w0 : Word) (w1 : Word) (w2 : Word) (w3 : Word) (w4 : Word) (w5 : Word)
  /-- GATHER (R134): Reed descriptor that writes reed accumulator entries, raw or summed in bank order, to the pool. -/
  | gather (c : Site) (w0 : Word) (w1 : Word) (w2 : Word) (w3 : Word) (w4 : Word) (w5 : Word)
  /-- COPY (R132): Reed row operation that copies a row within each reed's bank. -/
  | copy (c : Site) (w0 : Word) (w1 : Word) (w2 : Word) (w3 : Word) (w4 : Word) (w5 : Word)
  /-- COPY_X (R132): Reed row operation that copies a row to another bank over the slice bus. -/
  | copyX (c : Site) (w0 : Word) (w1 : Word) (w2 : Word) (w3 : Word) (w4 : Word) (w5 : Word)
  /-- INIT (R132): Reed row operation that fills rows with a repeated pattern. -/
  | init (c : Site) (w0 : Word) (w1 : Word) (w2 : Word) (w3 : Word) (w4 : Word) (w5 : Word)
  /-- LOGIC (R132): Reed row operation that forms AND, OR, XOR or NOT of rows. -/
  | logic (c : Site) (w0 : Word) (w1 : Word) (w2 : Word) (w3 : Word) (w4 : Word) (w5 : Word)
  /-- LATCH (R132): Reed operation that loads a row into the row latch. -/
  | latch (c : Site) (w0 : Word) (w1 : Word) (w2 : Word) (w3 : Word) (w4 : Word) (w5 : Word)
  /-- POPC (R132): Reed operation that adds the population count of rows to accumulator entries. -/
  | popc (c : Site) (w0 : Word) (w1 : Word) (w2 : Word) (w3 : Word) (w4 : Word) (w5 : Word)
  /-- POPC_AND (R133): Reed operation that adds the weighted popcount of the latch ANDed with bit-plane rows. -/
  | popcAnd (c : Site) (w0 : Word) (w1 : Word) (w2 : Word) (w3 : Word) (w4 : Word) (w5 : Word)
  /-- GRAIN_BOUNDARY (R135): A reed grain ends, and the bank serves forced refreshes, waiting requests and then the next grain. -/
  | grainBoundary (c : Site) (b : Fin 128)
  /-- FORWARD (R148): Attention descriptor that computes attention outputs over a stream's pages. -/
  | forward (c : Site) (w0 : Word) (w1 : Word) (w2 : Word) (w3 : Word) (w4 : Word) (w5 : Word) (w6 : Word) (w7 : Word)
  /-- BACKWARD (R166): Attention descriptor, under LIC-TUNE, that computes the gradients dQ, dK and dV. -/
  | backward (c : Site) (w0 : Word) (w1 : Word) (w2 : Word) (w3 : Word) (w4 : Word) (w5 : Word) (w6 : Word) (w7 : Word)
  /-- ATTENTION_OP_START (R165): An attention operation starts when a slot is free and its resources are clear, and it checks the root and the format floor. -/
  | attentionOpStart (c : Site)
  /-- ATTENTION_OP_COMPLETE (R154): An attention operation finishes, writing its outputs, statistics and status word. -/
  | attentionOpComplete (c : Site) (op : Fin 4 × AttEnd)
  /-- APPEND (R186): Walker descriptor that quantises and writes new KV positions, staging new or copied page entries. -/
  | append (c : Site) (w0 : Word) (w1 : Word) (w2 : Word) (w3 : Word)
  /-- LENGTH (R185): Walker descriptor that stages a root's new LENGTH. -/
  | length (c : Site) (w0 : Word) (w1 : Word) (w2 : Word) (w3 : Word)
  /-- TOUCH (R185): Walker descriptor that resolves pages into the look-aside buffer. -/
  | touch (c : Site) (w0 : Word) (w1 : Word) (w2 : Word) (w3 : Word)
  /-- READ (R251): Network descriptor that copies bytes from a slice, stack or shared cache into the pool. -/
  | netRead (c : Site) (w0 : Word) (w1 : Word) (w2 : Word) (w3 : Word) (w4 : Word) (w5 : Word)
  /-- WRITE (R251): Network descriptor that copies bytes from the pool to a target. -/
  | netWrite (c : Site) (w0 : Word) (w1 : Word) (w2 : Word) (w3 : Word) (w4 : Word) (w5 : Word)
  /-- ATOMIC (R251): Network descriptor that sends an atomic operation to a shared-cache word. -/
  | netAtomic (c : Site) (w0 : Word) (w1 : Word) (w2 : Word) (w3 : Word) (w4 : Word) (w5 : Word)
  /-- CONTRIB (R251): Network descriptor that delivers a contribution to a reduction group. -/
  | netContrib (c : Site) (w0 : Word) (w1 : Word) (w2 : Word) (w3 : Word) (w4 : Word) (w5 : Word)
  /-- FENCE (R252): Network descriptor that completes when every earlier request of the core has completed. -/
  | netFence (c : Site) (w0 : Word) (w1 : Word) (w2 : Word) (w3 : Word) (w4 : Word) (w5 : Word)
  /-- WAIT (R251): Network descriptor that the cache holds until a 64-bit word reaches a threshold. -/
  | netWait (c : Site) (w0 : Word) (w1 : Word) (w2 : Word) (w3 : Word) (w4 : Word) (w5 : Word)
  /-- ADD (R205): Shared-cache atomic add, which returns the old value. -/
  | atomAdd (p : Fin 12) (wide : Bool) (off : Nat) (v : Word)
  /-- SMIN (R205): Shared-cache atomic signed minimum. -/
  | atomSmin (p : Fin 12) (wide : Bool) (off : Nat) (v : Word)
  /-- SMAX (R205): Shared-cache atomic signed maximum. -/
  | atomSmax (p : Fin 12) (wide : Bool) (off : Nat) (v : Word)
  /-- UMIN (R205): Shared-cache atomic unsigned minimum. -/
  | atomUmin (p : Fin 12) (wide : Bool) (off : Nat) (v : Word)
  /-- UMAX (R205): Shared-cache atomic unsigned maximum. -/
  | atomUmax (p : Fin 12) (wide : Bool) (off : Nat) (v : Word)
  /-- CAS (R205): Shared-cache atomic compare-and-swap. -/
  | atomCas (p : Fin 12) (wide : Bool) (off : Nat) (cmp : Word) (v : Word)
  /-- DMA_POLL (R301): The poll interval expires, and an engine reads its head descriptor again. -/
  | dmaPoll (e : Fin 32)
  /-- DMA_COPY (R303): DMA descriptor kind COPY, which moves strided rows unchanged, locally or to a remote mailbox. -/
  | dmaCopy (e : Fin 32) (w0 : Word) (w1 : Word) (w2 : Word) (w3 : Word) (w4 : Word) (w5 : Word) (w6 : Word) (w7 : Word)
  /-- SPLIT (R306): DMA descriptor kind that splits 4-bit or 8-bit elements into bit planes. -/
  | dmaSplit (e : Fin 32) (w0 : Word) (w1 : Word) (w2 : Word) (w3 : Word) (w4 : Word) (w5 : Word) (w6 : Word) (w7 : Word)
  /-- MERGE (R306): DMA descriptor kind that merges bit planes back into packed elements. -/
  | dmaMerge (e : Fin 32) (w0 : Word) (w1 : Word) (w2 : Word) (w3 : Word) (w4 : Word) (w5 : Word) (w6 : Word) (w7 : Word)
  /-- FILL (R303): DMA descriptor kind that fills destination rows with a 64-bit pattern. -/
  | dmaFill (e : Fin 32) (w0 : Word) (w1 : Word) (w2 : Word) (w3 : Word) (w4 : Word) (w5 : Word) (w6 : Word) (w7 : Word)
  /-- DMA_CONTRIB (R303): DMA descriptor kind that delivers a contribution to a reduction group. -/
  | dmaContrib (e : Fin 32) (w0 : Word) (w1 : Word) (w2 : Word) (w3 : Word) (w4 : Word) (w5 : Word) (w6 : Word) (w7 : Word)
  /-- DMA_ATOMIC (R303): DMA descriptor kind that performs a shared-cache atomic operation. -/
  | dmaAtomic (e : Fin 32) (w0 : Word) (w1 : Word) (w2 : Word) (w3 : Word) (w4 : Word) (w5 : Word) (w6 : Word) (w7 : Word)
  /-- DMA_WRITE_BACK (R301): A descriptor's data writes are accepted, so the engine writes back its result and status, updates DONE and advances its head. -/
  | dmaWriteBack (e : Fin 32)
  /-- REFRESH_INTERVAL_DUE (R110): A fen bank's refresh interval falls due, so its debt rises and it refreshes, postpones or is forced. -/
  | refreshIntervalDue (c : Site) (b : Fin 128) (busy : Bool)
  /-- MARSH_REFRESH_DUE (R201): A marsh bank's refresh interval falls due, and it refreshes 16 rows when idle or at POSTPONE_MAX. -/
  | marshRefreshDue (m : Fin 12) (ch : Fin 16) (b : Fin 48) (busy : Bool)
  /-- SELF_REFRESH_EXIT (R113): A slice or stack leaves self-refresh after its clock returns, with every debt at zero. -/
  | selfRefreshExit (u : MemUnit)
  /-- ZYN_FLIT_RECEIVE (R241): A Zyneno flit is received, its CRC and SEQ are checked, and it is accepted or a NAK and replay follow. -/
  | zynFlitReceive (u : LinkUnit) (dir : Bool) (fl : ZynFlit)
  /-- LINK_TRAINING_STATE (R242): A Zyneno link or marsh port finishes a training state and moves to the next, assigning spares in REPAIR. -/
  | linkTrainingState (u : LinkUnit) (bad : List (Bool × Nat)) (far : LinkFar)
  /-- ZYN_GROUP_RETRAIN (R243): One wire group of an active link finishes its background retraining. -/
  | zynGroupRetrain (l : Fin 24)
  /-- XNI_FLIT_RECEIVE (R264): A Xeunni flit is received, its FEC, CRC and SEQ are checked, and its packets are delivered or forwarded. -/
  | xniFlitReceive (k : Fin 16) (fl : XniFlit)
  /-- ALIGNMENT_LOST (R264): Alignment on a port stays lost for 1 µs, which counts as retry exhaustion. -/
  | alignmentLost (k : Fin 16)
  /-- PORT_TRAINING_STATE (R260): A Xeunni port finishes a training state and moves to the next, or stays DOWN. -/
  | portTrainingState (k : Fin 16) (tr : PortTrain)
  /-- MAILBOX_WRITE (R268): A mailbox write arrives, is checked and stored in its slot, or is refused. -/
  | mailboxWrite (k : Fin 16) (pkt : MboxPkt)
  /-- MAILBOX_ACK (R268): A write acknowledgement or refusal returns to the sender and completes the write. -/
  | mailboxAck (e : Fin 32) (status : Nat)
  /-- MAILBOX_TIMEOUT (R264): A write's acknowledgement has not arrived within TIMEOUT, so the sender is flagged as for retry exhaustion. -/
  | mailboxTimeout (e : Fin 32)
  /-- COMMIT_NOTICE (R268): A commit notice raises a mailbox's STEP to the peer's committed step. -/
  | commitNotice (p : Fin 12) (mb : Fin 64) (src : Nat) (srcPart : Fin 16) (step : Nat)
  /-- RELEASE_NOTICE (R268): A release notice raises XNI_OUTBOX_REL and releases held writes. -/
  | releaseNotice (p : Fin 12) (n : Fin 64) (step : Nat)
  /-- SENSOR_SAMPLE (R341): A thermal sensor is sampled and compared with the shutdown threshold, and the refresh band is set from it. -/
  | sensorSample (k : SensorKind) (i : Nat) (t : Option Int)
  /-- MS_TICK (R348): The 1 ms tick runs the forecast, throttle levels, power limiter, coolant responses and notices. -/
  | msTick (inp : TickIn)
  /-- TRAY_READ (R427): Every 100 ms the tray bus reads the inlet, outlet and flow sensors. -/
  | trayRead (inlet : Option (BitVec 32)) (outlet : Option (BitVec 32)) (flow : Option (BitVec 32))
  /-- FLOW_PULSE (R354): A pulse on FLOW_PULSE is counted for the sliding flow estimate. -/
  | flowPulse
  /-- TRAY_PRESENCE_CHANGE (R427): TRAY_PRSNT_N going high makes all tray sensors lost, which brings a coolant stop. -/
  | trayPresenceChange (present : Bool)
  /-- CURRENT_CLAMP (R364): Input current above 135 A for 20 µs sets every die's limiter level to 15. -/
  | currentClamp
  /-- CLAMP_RELEASE (R364): After 10 ms at or below 120 A the clamp releases. -/
  | clampRelease
  /-- INPUT_OUT_OF_RANGE (R360): The input voltage leaves 36 to 45 V, which raises event subcode 64. -/
  | inputOutOfRange
  /-- INPUT_RANGE_TIMEOUT (R360): The input has stayed out of range for 1 s, so the module enters Doldrums mode with cause 4. -/
  | inputRangeTimeout
  /-- POWER_FAIL (R360): The input lies outside 33 to 48 V for 100 µs, so the rails switch off. -/
  | powerFail
  /-- ALWAYS_ON_BROWNOUT (R372): The always-on regulator browns out, which latches BROWNOUT and starts a cold power-on. -/
  | alwaysOnBrownout
  /-- WAKE_N (R370): WAKE_N held low for 100 µs wakes the module from Deep or Off. -/
  | wakeN (kept : Bool)
  /-- SMBUS_ADDRESS_MATCH (R370): An SMBus address byte matching the strapped address wakes the module. -/
  | smbusAddressMatch (kept : Bool)
  /-- PERST_N (R370): PERST_N rising after 100 µs low wakes the module. -/
  | perstN (kept : Bool)
  /-- REFCLK_LOST (R423): REFCLK stops, so the host link is treated as down and timing runs from the internal oscillator. -/
  | refclkLost
  /-- COLD_POWER_ON (R377): The module runs ROM, PUF, authentication, training, self-test and zeroing to READY. -/
  | coldPowerOn (inp : BootIn)
  /-- PEAT_COUNTER_SAVE (R228): Every 60 s the peat counters are saved to the counter journal. -/
  | peatCounterSave
  /-- WEAR_MINUTE (R230): The wear regulator's one-minute count window advances. -/
  | wearMinute
  /-- POWERED_HOUR (R396): LIC_HOURS increments and is saved, and features past EXPIRY_HOURS lapse. -/
  | poweredHour
  /-- STILL_N (R410): STILL_N held low with PIN_EN set starts a freeze. -/
  | stillN
  /-- FREEZE_RELEASE (R413): A TAP write of FRZ_CTL.RELEASE ends the freeze with a warm reset. -/
  | freezeRelease (kept : Bool)
  /-- BYPASS (R430): TAP instruction BYPASS. -/
  | bypass (bits : List Bool)
  /-- IDCODE (R430): TAP instruction that shifts out the IDCODE. -/
  | idcode
  /-- SAMPLE_PRELOAD (R430): TAP boundary-scan sample and preload. -/
  | samplePreload (preload : List Bool)
  /-- EXTEST (R430): TAP boundary-scan test while frozen. -/
  | extest (bits : List Bool)
  /-- REG_ACCESS (R430): TAP 64-bit access to the FRZ registers and BOOT_PINS. -/
  | regAccess (v : Word) (wr : Bool) (off : Nat)
  /-- DUMP_SEL (R412): TAP instruction that starts the segmented state read-out while frozen. -/
  | dumpSel
  /-- SET_ENDPOINT_ID (R294): MCTP control message that assigns the module's endpoint ID. -/
  | setEndpointId (eid : Fin 256)
  /-- GET_TID (R295): PLDM base command GetTID. -/
  | getTid
  /-- SET_TID (R295): PLDM base command SetTID. -/
  | setTid (tid : Fin 256)
  /-- GET_PLDM_VERSION (R295): PLDM base command GetPLDMVersion. -/
  | getPldmVersion
  /-- GET_PLDM_TYPES (R295): PLDM base command GetPLDMTypes. -/
  | getPldmTypes
  /-- GET_PLDM_COMMANDS (R295): PLDM base command GetPLDMCommands. -/
  | getPldmCommands
  /-- STATE_EFFECTER_SET (R368): PLDM state effecter request to enter Deep or Off, under the same conditions as POWER_STATE. -/
  | stateEffecterSet (v : Fin 256)
  /-- REQUEST_UPDATE (R295): PLDM firmware update sequence that writes the image slot under the checks of FW_LOAD. -/
  | requestUpdate (image : List Byte)
  /-- ACTIVATE_FIRMWARE (R392): PLDM ActivateFirmware, which starts a warm reset unless a plan is armed. -/
  | activateFirmware (kept : Bool)
  /-- GET_VERSION (R296): SPDM GET_VERSION request. -/
  | getVersion (req : List Byte)
  /-- GET_CAPABILITIES (R296): SPDM GET_CAPABILITIES request. -/
  | getCapabilities (req : List Byte)
  /-- NEGOTIATE_ALGORITHMS (R296): SPDM NEGOTIATE_ALGORITHMS request. -/
  | negotiateAlgorithms (req : List Byte)
  /-- GET_DIGESTS (R296): SPDM GET_DIGESTS request. -/
  | getDigests (req : List Byte)
  /-- GET_CERTIFICATE (R296): SPDM GET_CERTIFICATE request for slot 0. -/
  | getCertificate (req : List Byte)
  /-- CHALLENGE (R296): SPDM CHALLENGE signed with the device key. -/
  | challenge (req : List Byte)
  /-- GET_MEASUREMENTS (R398): SPDM GET_MEASUREMENTS returning the signed measurement blocks. -/
  | getMeasurements (req : List Byte)
  /-- REFCLK_STABLE (R423): REFCLK returns and has been stable for 100 µs, so the module moves its timing back from the internal oscillator to REFCLK at the next gust boundary. -/
  | refclkStable
  /-- INPUT_BACK_WITHIN_RANGE (R360): The input voltage returns within 36 to 45 V and, after 10 ms, raises event subcode 65 and ends the out-of-range response; after 10 s it allows a cause-4 Doldrums exit. -/
  | inputBackWithinRange
  /-- HOST_LINK_UP (R275): The PCIe link finishes training and becomes active after a reset, a link down or PERST_N rising, and the host may then set up rings again. -/
  | hostLinkUp (width : Fin 17) (speed : Fin 7) (form : HostForm)
  /-- TRANSIT_FAULT (R248): A fault in a die's transit domain puts the domain out, so routes fall back and its marsh stack becomes unreachable. -/
  | transitFault (d : Fin 12)
  /-- NUMERIC_SENSOR_READ (R295): A PLDM type 2 request reads a numeric sensor of the repository, such as input power, rail power, coolant or a class count. -/
  | numericSensorRead (id : Nat)
  /-- STATE_SENSOR_READ (R295): A PLDM type 2 request reads a state sensor, such as power state, Doldrums mode, coolant stop or trip latched. -/
  | stateSensorRead (id : Nat)
  /-- PDR_REPOSITORY_READ (R295): A PLDM type 2 request reads records from the PDR repository. -/
  | pdrRepositoryRead (handle : Nat)
  /-- PLATFORM_EVENT_POLL (R295): A PLDM request polls the module for pending platform event messages, such as class 11 and 14 records. -/
  | platformEventPoll
  /-- FRU_DATA_READ (R295): A PLDM type 4 request reads the module's FRU data. -/
  | fruDataRead
  /-- CHUNKING (R296): An SPDM chunk message carries one part of a large request or response between the responder and the requester. -/
  | chunking (chunk : List Byte) (last : Bool)
  deriving DecidableEq, Repr

end Sys2Proof
end

