-- ==== Sys2Proof/Decode.lean ====
section
/-!
DEFINITION. Words of the opcode table: no row of spec/opcode_table.json gives its command any bits, since commands reach the block as packets, doorbells, register
accesses, descriptors and events. The layouts that the spec gives (packets R286, descriptors R60 to R307) are read where they are used.
-/
namespace Sys2Proof

/-- The command that a table word spells: none, for no row gives bits. -/
def decodeTableWord (_nbits _w : Nat) : Option Instr := none

end Sys2Proof
end

