-- ==== Sys2Proof/Config.lean ====
section
/-!
DEFINITION. What the spec leaves free: constants with no body. No proof can see what they are, so a claim is true whatever they are
(DESIGN CHOICE: notes/assumptions/3.md, 8.md, 9.md, 10.md, 24.md, 51.md). Constants that the spec fixes stand where they are used.
-/
namespace Sys2Proof.Config

/-- Free value number `n` of a run (notes/assumptions/3.md): the spec gives the command its effect and leaves this one value open. State.freeCtr counts them. -/
opaque freeWord : Nat → BitVec 64

/-- Which of the FP32 numbers within the bound of R79 each special function gives for an operand: as the reference model supplied with Pyrfin, which spec/ does not
give (R79, notes/assumptions/8.md). -/
opaque exp2Pick : BitVec 32 → Nat
opaque recipPick : BitVec 32 → Nat
opaque rsqrtPick : BitVec 32 → Nat
opaque logisticPick : BitVec 32 → Nat

/-- The same for the cosine and sine of a rotation angle (R155), a position times an FP32 frequency. -/
opaque cosinePick : Nat → BitVec 32 → Nat
opaque sinePick : Nat → BitVec 32 → Nat

/-- Cosine and sine for a frequency that is not finite, which R155 does not state. -/
opaque cosine : Nat → BitVec 32 → BitVec 32
opaque sine : Nat → BitVec 32 → BitVec 32

/-- SHA-384 of a byte list, as a number (R379, R394 to R398; the algorithm is named, not given). -/
opaque sha384 : List (BitVec 8) → Nat

/-- Verification of an ECDSA P-384 signature: key digest, signed bytes, signature bytes (R379, R394). -/
opaque ecdsaVerify : Nat → List (BitVec 8) → List (BitVec 8) → Bool

/-- Which SPDM request a message is (R296; the codes of DSP0274 are not in spec/): 0 none of those supported, then GET_VERSION, GET_CAPABILITIES,
NEGOTIATE_ALGORITHMS, GET_DIGESTS, GET_CERTIFICATE, CHALLENGE, GET_MEASUREMENTS, a chunk that is not the last, a last chunk. -/
opaque spdmKind : List (BitVec 8) → Fin 10

/-- The responder's answer to a request, from its conversation state and the measured content (R296 to R398), and the state it leaves. -/
opaque spdmAnswer : List (BitVec 8) → Nat → List Nat → List (BitVec 8)
opaque spdmNext : List (BitVec 8) → Nat → Nat

/-- The SPDM error Unspecified as bytes (R397). -/
opaque spdmUnspecified : List (BitVec 8)

/-- The ROM and the factory record as measured (R398), and the FRU data of the module (R295). -/
opaque romDigest : Nat
opaque factoryDigest : Nat
opaque fruData : List (BitVec 8)

/-- On-die code (R114): the bit of a 136-bit word that the syndrome of a pattern of two or more wrong bits matches, if any. The check matrix is
not published; bits 0 to 127 are data, 128 to 135 check bits. -/
opaque onDieMatch : Nat → Option (Fin 136)

/-- SECDED of a 72-bit or 39-bit word with three or more bits in error (R97, R204): detected (none), or the pattern left on the data. -/
opaque secdedMany : Nat → Option Nat

/-- The thermal forecast (R346) in 1/8 °C: the starting coefficients of R13 (PLATE_RTH and STACK_RTH by die), forecast number, point (numbered as its sensor is
in R403), throttle level. The network's other coefficients come from the factory record, which spec/ does not give. -/
opaque forecast : List (Nat × Nat) → Nat → Nat → Nat → Int

/-- The 30 check symbols of an RS(544,514) codeword with these 514 data symbols (R261; its generator is not in spec/). -/
opaque rsCheck : List (BitVec 10) → List (BitVec 10)

/-- The forecast's estimate of the present temperature of a point in 1/8 °C (R345), and of a rail's power in 0.1 W where its measurement fails (R362). -/
opaque estimate : Nat → Nat → Int
opaque railEstimate : Nat → Nat → Nat

/-- The level needed at a site where no level's forecast holds it below its thresholds (R349 states none). -/
opaque needUnmet : Nat → Nat → Fin 16

/-- Whether two I/O die sensors lie within 10 mm of each other (R345; their places are not given). -/
opaque ioNear : Nat → Nat → Bool

/-- The core site nearest a Zyneno link's port, at the link's first or second end, and the I/O die sensor nearest a spoke's port (R340; their places are not given). -/
opaque nearSite : Nat → Bool → Fin 68
opaque nearIo : Nat → Fin 16

/-- Whether ROM holds the hash of a signing key, by role: 0 firmware, 1 factory, 2 licence, 3 service (R380, R382, R395). -/
opaque romKey : Nat → Nat → Bool

/-- SHA-384 of the module's device public key, which a licence record names (R394). -/
opaque deviceId : Nat

end Sys2Proof.Config
end

