-- ==== Sys2Proof/Machine/Bits.lean ====
section
/-!
DEFINITION. Bit fields, byte order, sign extension and CRC-32: the helpers every layout of the spec is read with.
-/
namespace Sys2Proof.Machine

/-- Bits `[hi:lo]` of a number, as a number. -/
def bitsOf (n hi lo : Nat) : Nat := n / 2 ^ lo % 2 ^ (hi - lo + 1)

/-- Bit `b` of a number. -/
def bitOf (n b : Nat) : Bool := n / 2 ^ b % 2 = 1

/-- Bits `[hi:lo]` of a word. -/
def fieldOf (w : Word) (hi lo : Nat) : Nat := bitsOf w.toNat hi lo

/-- Bit `b` of a word. -/
def flagOf (w : Word) (b : Nat) : Bool := bitOf w.toNat b

/-- A truth value as the bit 0 or 1. -/
def Bool.bit (b : Bool) : Nat := if b then 1 else 0

/-- The number with value `v` in bits from `lo` up. -/
def placed (v lo : Nat) : Nat := v * 2 ^ lo

/-- A number capped at `2^w − 1`: the counters that saturate. -/
def saturate (w v : Nat) : Nat := if v < 2 ^ w then v else 2 ^ w - 1

/-- The low byte first: `n` bytes of a number, least significant byte first (R6: little-endian). -/
def toBytesLE : Nat → Nat → List Byte
  | 0, _ => []
  | n + 1, v => BitVec.ofNat 8 v :: toBytesLE n (v / 256)

/-- The number that a list of bytes spells, least significant byte first. -/
def ofBytesLE : List Byte → Nat
  | [] => 0
  | b :: bs => b.toNat + 256 * ofBytesLE bs

/-- The bytes of a list of 64-bit words, each little-endian, the first word first. -/
def wordsToBytes (ws : List Word) : List Byte := ws.flatMap fun w => toBytesLE 8 w.toNat

/-- Groups of `k` bytes as numbers, while whole groups remain; `fuel` bounds the count. -/
def groupsLE (k : Nat) : Nat → List Byte → List Nat
  | 0, _ => []
  | fuel + 1, bs => ofBytesLE (bs.take k) :: groupsLE k fuel (bs.drop k)

/-- `n` 64-bit words from a list of bytes. -/
def bytesToWords (n : Nat) (bs : List Byte) : List Word := (groupsLE 8 n bs).map (BitVec.ofNat 64)

/-- Element `k` of a list of words; zero past its end (R286: words past LENGTH read as zero). -/
def wordAt (ws : List Word) (k : Nat) : Word := ws.getD k 0

/-- The number of a `w`-bit two's complement pattern. -/
def signedOf (w v : Nat) : Int := if v % 2 ^ w < 2 ^ (w - 1) then (v % 2 ^ w : Nat) else (v % 2 ^ w : Nat) - (2 ^ w : Nat)

/-- The `w`-bit two's complement pattern of an integer. -/
def ofSigned (w : Nat) (v : Int) : Nat := (v % (2 ^ w : Nat)).toNat

/-- A bit-by-bit step of CRC-32, IEEE 802.3 polynomial, reflected form. -/
def crcStep (c : Nat) : Nat := if c % 2 = 1 then (c / 2) ^^^ 0xEDB88320 else c / 2

/-- CRC-32 (IEEE 802.3) over one byte. -/
def crcByte (c : Nat) (b : Byte) : Nat := Nat.repeat crcStep 8 (c ^^^ b.toNat)

/-- The same step with the polynomial of CRC-32C, 0x1EDC_6F41. -/
def crcStepC (c : Nat) : Nat := if c % 2 = 1 then (c / 2) ^^^ 0x82F63B78 else c / 2

/-- CRC-32C of a list of bytes (R262), with the initial value and the inversion of that code. -/
def crc32c (bs : List Byte) : Nat := (bs.foldl (fun c b => Nat.repeat crcStepC 8 (c ^^^ b.toNat)) 0xFFFFFFFF) ^^^ 0xFFFFFFFF

/-- A step of CRC-64, polynomial 0x42F0_E1EB_A9EA_3693, most significant bit first. -/
def crc64Step (c : BitVec 64) : BitVec 64 := if c.msb then (c <<< 1) ^^^ 0x42F0E1EBA9EA3693 else c <<< 1

/-- CRC-64 of a list of 64-bit words, their bytes in address order (R240), from zero. -/
def crc64 (ws : List (BitVec 64)) : BitVec 64 :=
  ws.foldl (fun (c w : BitVec 64) => (List.range 8).foldl (fun (c : BitVec 64) j => Nat.repeat crc64Step 8 (c ^^^ ((w >>> (8 * j) &&& 0xFF) <<< 56))) c) 0

/-- CRC-32 of a list of bytes (R22, R23, R176): initial value and final inversion of all ones. -/
def crc32 (bs : List Byte) : Nat := (bs.foldl crcByte 0xFFFFFFFF) ^^^ 0xFFFFFFFF

/-- Population count of the low `w` bits. -/
def popcount : Nat → Nat → Nat
  | 0, _ => 0
  | w + 1, v => v % 2 + popcount w (v / 2)

/-- The positions of the set bits among the low `w` bits, lowest first. -/
def setBits (w v : Nat) : List Nat := (List.range w).filter fun k => bitOf v k

end Sys2Proof.Machine
end

