-- ==== Sys2Proof/Machine/Registers.lean ====
section
/-!
DEFINITION. The registers of the module: their names, fields, access codes, reset values and places, as the register
tables of spec/ give them (R5, R6, R7; offsets R277, R278). One `Fld` per field of a table; reserved fields have no `Fld` and so read zero (R6).
A field whose Reset column is a dash ("loaded from calibration or repair data during bring-up", R7) has a value of
notes/assumptions/4.md (DESIGN CHOICE).
-/
namespace Sys2Proof.Machine

/-- The register names of the spec. -/
inductive RegName where
  | HST_ID
  | HST_LINK_STATUS
  | HST_CP_STATUS
  | HST_FUNC_CTL
  | HST_WIN
  | HST_BAD_LAST
  | HST_RING_BASE
  | HST_RING_CQ_BASE
  | HST_RING_CTL
  | HST_RING_STATUS
  | GST_PERIOD
  | GST_LULL
  | GST_NUMBER
  | GST_SYNC_CTL
  | GST_SYNC_STATUS
  | GST_PART_STATE
  | GST_PART_STEP
  | GST_PART_COMMIT
  | GST_PART_REWINDS
  | BOOT_PKG_ID
  | BOOT_DIE_INFO
  | BOOT_THERM_PATH
  | BOOT_CTL
  | BOOT_STATUS
  | BOOT_FW
  | BOOT_SERIAL
  | BOOT_BIST
  | BOOT_BIST_COUNT
  | BOOT_BIST_ENTRY
  | BOOT_PINS
  | LIC_STATE
  | LIC_RECORD
  | LIC_HOURS
  | PART_STATUS
  | PART_SHC
  | PART_DMA
  | PART_MARSH
  | PART_LOST
  | PART_VOTE_STATS
  | PART_REPAIR
  | PART_FW
  | PART_DOLDRUMS
  | EVT_LOG_BASE
  | EVT_LOG_CTL
  | EVT_LOG_STATUS
  | DMA_REG
  | DMA_REG_ACC
  | DMA_CH_CTL
  | DMA_CH_RING
  | DMA_CH_DONE_ADDR
  | DMA_CH_STATUS
  | DMA_CH_COMMIT
  | DMA_CH_COUNT
  | SHC_CTL
  | SHC_ECC_COUNT
  | SHC_GROUP_BASE
  | SHC_STATS
  | SHC_REG
  | SHC_REG_ACC
  | MRS_CTL
  | MRS_STATUS
  | MRS_SPARE
  | MRS_ECC_COUNT
  | MRS_ECC_LAST
  | MRS_FLIP_DATA
  | MRS_FLIP_CHECK
  | MRS_FLIP_CTL
  | MRS_REG
  | MRS_REG_ACC
  | PEAT_REG
  | PEAT_REG_ACC
  | PEAT_CTL
  | PEAT_STATE
  | PEAT_TEMP
  | PEAT_WEAR_CTL
  | PEAT_WEAR_STATUS
  | PEAT_LDPC_COUNT
  | PEAT_LDPC_LAST
  | PEAT_DIE_OWNER
  | PEAT_MAP_STATUS
  | ZYN_LINK_CTL
  | ZYN_LINK_STATUS
  | ZYN_LINK_ERR
  | ZYN_WIRE_SPARE
  | ZYN_WIRE_WORST
  | ZYN_ROUTE
  | ZYN_TRANSIT
  | ZYN_UCIE_STATUS
  | XNI_CTL
  | XNI_MODULE_ID
  | XNI_PORT_CTL
  | XNI_PORT_STATUS
  | XNI_PORT_DELAY
  | XNI_PORT_ERR
  | XNI_LANE_SPARE
  | XNI_ROUTE
  | XNI_MBOX_BASE
  | XNI_OUTBOX
  | XNI_OUTBOX_REL
  | XNI_STATS
  | THM_CTL
  | THM_LIMITS
  | THM_STATUS
  | THM_COOLANT
  | THM_SITE
  | THM_SENSOR_FAIL
  | THM_IO_FAIL
  | THM_IO_TEMP
  | THM_CAL_RANGE
  | THM_CAL_STATUS
  | THM_TRIP
  | THM_STATS
  | THM_TRAY_CTL
  | PWR_STATE
  | PWR_STATUS
  | PWR_LIMIT
  | PWR_LIMITER
  | PWR_RAIL
  | PWR_WAKE
  | PWR_WAKE_CTL
  | PWR_AO
  | PWR_ENERGY
  | MON_TIME
  | MON_OUT_RING
  | MON_OUT_PROD
  | MON_SLOT_BASE
  | MON_OUT_STAMP
  | MON_OUT_STATUS
  | MON_CLASS
  | MON_CLASS_COUNT
  | MON_CLASS_STATUS
  | FRZ_CTL
  | FRZ_STATUS
  | FRZ_DUMP
  | KVW_ROOT_BASE
  | KVW_ROOT_COUNT
  | KVW_MOVE_STATUS
  | KVW_STAGE
  | CORE_SITE
  | CORE_ARR_STATUS
  | CORE_FEEDER_STATS
  | CORE_NUM_FLAGS
  | CORE_PROG_STATUS
  | CORE_TRAP_INFO
  | CORE_POOL_ECC
  | ARR_CTL
  | ARR_COL_MAP
  | ARR_CHK_STATUS
  | ARR_CHK_COUNT
  | ARR_INJECT
  | VEC_RNG_KEY
  | VEC_RESULT
  | VEC_STATUS
  | FEN_CTL
  | FEN_REFRESH_STATUS
  | FEN_BANK_CTL
  | FEN_BOND_SPARE
  | FEN_ECC_COUNT
  | FEN_ECC_LAST
  | FEN_SYMBOL_LAST
  | FEN_SCRUB_STATUS
  | FEN_FLIP_CTL
  | FEN_FLIP_DATA
  | FEN_FLIP_CHECK
  | FEN_STATS
  | REED_CTL
  | REED_STATUS
  | REED_STATS
  | REED_BUS_STATS
  | REED_FAULT
  | ATT_CTL
  | ATT_STATUS
  | ATT_ROPE_FREQ
  | ATT_STATS
  | ATT_ROW_STATS
  | ATT_FAULT
  | KVW_CTL
  | KVW_STATUS
  | KVW_LB_STATS
  | KVW_APPEND_STATS
  | KVW_PAGE_STATS
  | KVW_FAULT
  | KVW_FAULT_ROOT
  | ZYN_NET_STATS
  deriving DecidableEq, Repr

/-- Access codes of R5. `plan` is the code "Plan" of R100: written by configuration records and configuration writes of plan
code only; the host reads it. -/
inductive Acc where
  | rw | ro | w1c | w1s | rc | wo | plan
  deriving DecidableEq, Repr

/-- One field of a register table: its number among all fields, its register, its bits `[hi:lo]`, its access code, its reset value,
and the range of values a host write may give it (R6: a value outside leaves the field unchanged). -/
structure Fld where
  id : Nat
  reg : RegName
  hi : Nat
  lo : Nat
  acc : Acc
  rst : Nat
  okLo : Nat
  okHi : Nat
  deriving DecidableEq, Repr

/-- How many bits the field has. -/
def Fld.width (f : Fld) : Nat := f.hi - f.lo + 1

def Fld.HST_ID_DEVICE : Fld := ⟨0, .HST_ID, 31, 16, .ro, 4722, 0, 65535⟩
def Fld.HST_ID_REV : Fld := ⟨1, .HST_ID, 15, 8, .ro, 0, 0, 255⟩
def Fld.HST_LINK_STATUS_WIDTH : Fld := ⟨2, .HST_LINK_STATUS, 20, 16, .ro, 0, 0, 31⟩
def Fld.HST_LINK_STATUS_SPEED : Fld := ⟨3, .HST_LINK_STATUS, 15, 12, .ro, 0, 0, 15⟩
def Fld.HST_LINK_STATUS_FLIT : Fld := ⟨4, .HST_LINK_STATUS, 2, 2, .ro, 0, 0, 1⟩
def Fld.HST_LINK_STATUS_L0P : Fld := ⟨5, .HST_LINK_STATUS, 1, 1, .ro, 0, 0, 1⟩
def Fld.HST_LINK_STATUS_UP : Fld := ⟨6, .HST_LINK_STATUS, 0, 0, .ro, 0, 0, 1⟩
def Fld.HST_CP_STATUS_IN_PROGRESS : Fld := ⟨7, .HST_CP_STATUS, 26, 16, .ro, 0, 0, 2047⟩
def Fld.HST_CP_STATUS_DOLDRUMS : Fld := ⟨8, .HST_CP_STATUS, 1, 1, .ro, 0, 0, 1⟩
def Fld.HST_CP_STATUS_READY : Fld := ⟨9, .HST_CP_STATUS, 0, 0, .ro, 0, 0, 1⟩
def Fld.HST_FUNC_CTL_BOUND : Fld := ⟨10, .HST_FUNC_CTL, 31, 31, .ro, 0, 0, 1⟩
def Fld.HST_FUNC_CTL_PARTITION : Fld := ⟨11, .HST_FUNC_CTL, 27, 24, .ro, 0, 0, 15⟩
def Fld.HST_FUNC_CTL_NOTICE_RING : Fld := ⟨12, .HST_FUNC_CTL, 21, 16, .rw, 0, 0, 63⟩
def Fld.HST_FUNC_CTL_ENABLE_NOTICES : Fld := ⟨13, .HST_FUNC_CTL, 0, 0, .rw, 0, 0, 1⟩
def Fld.HST_WIN_BASE : Fld := ⟨14, .HST_WIN, 51, 36, .rw, 0, 0, 65535⟩
def Fld.HST_WIN_ENABLE : Fld := ⟨15, .HST_WIN, 0, 0, .rw, 0, 0, 1⟩
def Fld.HST_BAD_LAST_VALID : Fld := ⟨16, .HST_BAD_LAST, 63, 63, .w1c, 0, 0, 1⟩
def Fld.HST_BAD_LAST_RING : Fld := ⟨17, .HST_BAD_LAST, 62, 57, .ro, 0, 0, 63⟩
def Fld.HST_BAD_LAST_TAG : Fld := ⟨18, .HST_BAD_LAST, 47, 32, .ro, 0, 0, 65535⟩
def Fld.HST_BAD_LAST_REASON : Fld := ⟨19, .HST_BAD_LAST, 23, 16, .ro, 0, 0, 255⟩
def Fld.HST_BAD_LAST_OPCODE : Fld := ⟨20, .HST_BAD_LAST, 7, 0, .ro, 0, 0, 255⟩
def Fld.HST_RING_BASE_BASE : Fld := ⟨21, .HST_RING_BASE, 63, 12, .rw, 0, 0, 4503599627370495⟩
def Fld.HST_RING_CQ_BASE_BASE : Fld := ⟨22, .HST_RING_CQ_BASE, 63, 12, .rw, 0, 0, 4503599627370495⟩
def Fld.HST_RING_CTL_ENABLE : Fld := ⟨23, .HST_RING_CTL, 31, 31, .rw, 0, 0, 1⟩
def Fld.HST_RING_CTL_SQ_DEVICE : Fld := ⟨24, .HST_RING_CTL, 30, 30, .rw, 0, 0, 1⟩
def Fld.HST_RING_CTL_CQ_DEVICE : Fld := ⟨25, .HST_RING_CTL, 29, 29, .rw, 0, 0, 1⟩
def Fld.HST_RING_CTL_OWNER : Fld := ⟨26, .HST_RING_CTL, 28, 25, .rw, 0, 0, 12⟩
def Fld.HST_RING_CTL_PRIORITY : Fld := ⟨27, .HST_RING_CTL, 24, 23, .rw, 0, 0, 3⟩
def Fld.HST_RING_CTL_SIZE : Fld := ⟨28, .HST_RING_CTL, 22, 19, .rw, 0, 0, 12⟩
def Fld.HST_RING_CTL_VECTOR : Fld := ⟨29, .HST_RING_CTL, 18, 12, .rw, 0, 0, 127⟩
def Fld.HST_RING_CTL_COALESCE_COUNT : Fld := ⟨30, .HST_RING_CTL, 11, 4, .rw, 0, 0, 255⟩
def Fld.HST_RING_CTL_COALESCE_US : Fld := ⟨31, .HST_RING_CTL, 3, 0, .rw, 0, 0, 15⟩
def Fld.HST_RING_STATUS_ERROR : Fld := ⟨32, .HST_RING_STATUS, 31, 31, .w1c, 0, 0, 1⟩
def Fld.HST_RING_STATUS_ERR_KIND : Fld := ⟨33, .HST_RING_STATUS, 30, 29, .ro, 0, 0, 3⟩
def Fld.HST_RING_STATUS_IN_PROGRESS : Fld := ⟨34, .HST_RING_STATUS, 22, 16, .ro, 0, 0, 127⟩
def Fld.HST_RING_STATUS_SQ_HEAD : Fld := ⟨35, .HST_RING_STATUS, 15, 0, .ro, 0, 0, 65535⟩
def Fld.GST_PERIOD_PERIOD : Fld := ⟨36, .GST_PERIOD, 17, 0, .ro, 10000, 0, 262143⟩
def Fld.GST_LULL_LULL : Fld := ⟨37, .GST_LULL, 15, 0, .ro, 300, 0, 65535⟩
def Fld.GST_NUMBER_NUMBER : Fld := ⟨38, .GST_NUMBER, 47, 0, .ro, 0, 0, 281474976710655⟩
def Fld.GST_SYNC_CTL_RELAY_MASK : Fld := ⟨39, .GST_SYNC_CTL, 23, 8, .rw, 0, 0, 65535⟩
def Fld.GST_SYNC_CTL_UPSTREAM_PORT : Fld := ⟨40, .GST_SYNC_CTL, 7, 4, .rw, 0, 0, 15⟩
def Fld.GST_SYNC_CTL_MASTER : Fld := ⟨41, .GST_SYNC_CTL, 2, 2, .rw, 0, 0, 1⟩
def Fld.GST_SYNC_CTL_SRC : Fld := ⟨42, .GST_SYNC_CTL, 1, 0, .rw, 0, 0, 3⟩
def Fld.GST_SYNC_STATUS_OFFSET : Fld := ⟨43, .GST_SYNC_STATUS, 31, 16, .ro, 0, 0, 65535⟩
def Fld.GST_SYNC_STATUS_PIN_REJECT : Fld := ⟨44, .GST_SYNC_STATUS, 3, 3, .w1c, 0, 0, 1⟩
def Fld.GST_SYNC_STATUS_NUM_MISMATCH : Fld := ⟨45, .GST_SYNC_STATUS, 2, 2, .w1c, 0, 0, 1⟩
def Fld.GST_SYNC_STATUS_LOSS : Fld := ⟨46, .GST_SYNC_STATUS, 1, 1, .w1c, 0, 0, 1⟩
def Fld.GST_SYNC_STATUS_LOCKED : Fld := ⟨47, .GST_SYNC_STATUS, 0, 0, .ro, 0, 0, 1⟩
def Fld.GST_PART_STATE_REWINDS_IN_WINDOW : Fld := ⟨48, .GST_PART_STATE, 9, 8, .ro, 0, 0, 3⟩
def Fld.GST_PART_STATE_LAST_CAUSE : Fld := ⟨49, .GST_PART_STATE, 6, 4, .ro, 0, 0, 7⟩
def Fld.GST_PART_STATE_RERUN : Fld := ⟨50, .GST_PART_STATE, 3, 3, .ro, 0, 0, 1⟩
def Fld.GST_PART_STATE_STATE : Fld := ⟨51, .GST_PART_STATE, 2, 0, .ro, 0, 0, 7⟩
def Fld.GST_PART_STEP_STEP : Fld := ⟨52, .GST_PART_STEP, 47, 0, .ro, 0, 0, 281474976710655⟩
def Fld.GST_PART_COMMIT_GUST : Fld := ⟨53, .GST_PART_COMMIT, 47, 0, .ro, 0, 0, 281474976710655⟩
def Fld.GST_PART_REWINDS_COUNT : Fld := ⟨54, .GST_PART_REWINDS, 31, 0, .ro, 0, 0, 4294967295⟩
def Fld.BOOT_PKG_ID_PKG_REV : Fld := ⟨55, .BOOT_PKG_ID, 31, 24, .ro, 0, 0, 255⟩
def Fld.BOOT_PKG_ID_COMPUTE_DIES : Fld := ⟨56, .BOOT_PKG_ID, 23, 20, .ro, 12, 0, 15⟩
def Fld.BOOT_PKG_ID_SITES_PER_DIE : Fld := ⟨57, .BOOT_PKG_ID, 19, 12, .ro, 68, 0, 255⟩
def Fld.BOOT_PKG_ID_MARSH_STACKS : Fld := ⟨58, .BOOT_PKG_ID, 11, 8, .ro, 12, 0, 15⟩
def Fld.BOOT_PKG_ID_OPT_ENGINES : Fld := ⟨59, .BOOT_PKG_ID, 7, 4, .ro, 4, 0, 15⟩
def Fld.BOOT_PKG_ID_BASE_DIES : Fld := ⟨60, .BOOT_PKG_ID, 3, 0, .ro, 6, 0, 15⟩
def Fld.BOOT_DIE_INFO_DIE_STEP : Fld := ⟨61, .BOOT_DIE_INFO, 15, 8, .ro, 0, 0, 255⟩
def Fld.BOOT_DIE_INFO_STACK_STEP : Fld := ⟨62, .BOOT_DIE_INFO, 7, 4, .ro, 0, 0, 15⟩
def Fld.BOOT_DIE_INFO_BASE_DIE : Fld := ⟨63, .BOOT_DIE_INFO, 3, 0, .ro, 0, 0, 15⟩
def Fld.BOOT_THERM_PATH_PLATE_RTH : Fld := ⟨64, .BOOT_THERM_PATH, 31, 16, .ro, 440, 0, 65535⟩
def Fld.BOOT_THERM_PATH_STACK_RTH : Fld := ⟨65, .BOOT_THERM_PATH, 15, 0, .ro, 550, 0, 65535⟩
def Fld.BOOT_CTL_WARM_RESET : Fld := ⟨66, .BOOT_CTL, 0, 0, .wo, 0, 0, 1⟩
def Fld.BOOT_STATUS_DURATION : Fld := ⟨67, .BOOT_STATUS, 31, 16, .ro, 0, 0, 65535⟩
def Fld.BOOT_STATUS_WARM_REFUSED : Fld := ⟨68, .BOOT_STATUS, 11, 11, .w1c, 0, 0, 1⟩
def Fld.BOOT_STATUS_RETENTION_BAD : Fld := ⟨69, .BOOT_STATUS, 10, 10, .ro, 0, 0, 1⟩
def Fld.BOOT_STATUS_PUF_FAIL : Fld := ⟨70, .BOOT_STATUS, 9, 9, .ro, 0, 0, 1⟩
def Fld.BOOT_STATUS_UNMAPPED : Fld := ⟨71, .BOOT_STATUS, 8, 8, .ro, 0, 0, 1⟩
def Fld.BOOT_STATUS_START : Fld := ⟨72, .BOOT_STATUS, 5, 4, .ro, 0, 0, 3⟩
def Fld.BOOT_STATUS_STEP : Fld := ⟨73, .BOOT_STATUS, 3, 0, .ro, 0, 0, 15⟩
def Fld.BOOT_FW_SVN_FLOOR : Fld := ⟨74, .BOOT_FW, 63, 48, .ro, 0, 0, 65535⟩
def Fld.BOOT_FW_SVN : Fld := ⟨75, .BOOT_FW, 47, 32, .ro, 0, 0, 65535⟩
def Fld.BOOT_FW_CORE_VERSION : Fld := ⟨76, .BOOT_FW, 31, 16, .ro, 0, 0, 65535⟩
def Fld.BOOT_FW_CP_VERSION : Fld := ⟨77, .BOOT_FW, 15, 0, .ro, 0, 0, 65535⟩
def Fld.BOOT_SERIAL_SERIAL : Fld := ⟨78, .BOOT_SERIAL, 63, 0, .ro, 0, 0, 18446744073709551615⟩
def Fld.BOOT_BIST_SITES : Fld := ⟨79, .BOOT_BIST, 63, 56, .ro, 0, 0, 255⟩
def Fld.BOOT_BIST_COLUMNS : Fld := ⟨80, .BOOT_BIST, 55, 48, .ro, 0, 0, 255⟩
def Fld.BOOT_BIST_FEN_ROWS : Fld := ⟨81, .BOOT_BIST, 47, 32, .ro, 0, 0, 65535⟩
def Fld.BOOT_BIST_MARSH_ROWS : Fld := ⟨82, .BOOT_BIST, 31, 16, .ro, 0, 0, 65535⟩
def Fld.BOOT_BIST_SRAM_WORDS : Fld := ⟨83, .BOOT_BIST, 15, 0, .ro, 0, 0, 65535⟩
def Fld.BOOT_BIST_COUNT_OVERFLOW : Fld := ⟨84, .BOOT_BIST_COUNT, 31, 31, .ro, 0, 0, 1⟩
def Fld.BOOT_BIST_COUNT_ENTRIES : Fld := ⟨85, .BOOT_BIST_COUNT, 10, 0, .ro, 0, 0, 2047⟩
def Fld.BOOT_BIST_ENTRY_TEST : Fld := ⟨86, .BOOT_BIST_ENTRY, 63, 56, .ro, 0, 0, 255⟩
def Fld.BOOT_BIST_ENTRY_UNIT : Fld := ⟨87, .BOOT_BIST_ENTRY, 55, 52, .ro, 0, 0, 15⟩
def Fld.BOOT_BIST_ENTRY_INDEX : Fld := ⟨88, .BOOT_BIST_ENTRY, 51, 24, .ro, 0, 0, 268435455⟩
def Fld.BOOT_BIST_ENTRY_DETAIL : Fld := ⟨89, .BOOT_BIST_ENTRY, 23, 0, .ro, 0, 0, 16777215⟩
def Fld.BOOT_PINS_REFCLK_LOST : Fld := ⟨90, .BOOT_PINS, 31, 31, .w1c, 0, 0, 1⟩
def Fld.BOOT_PINS_REFCLK_OK : Fld := ⟨91, .BOOT_PINS, 30, 30, .ro, 0, 0, 1⟩
def Fld.BOOT_PINS_TRAY_PRESENT : Fld := ⟨92, .BOOT_PINS, 29, 29, .ro, 0, 0, 1⟩
def Fld.BOOT_PINS_PERST_N : Fld := ⟨93, .BOOT_PINS, 28, 28, .ro, 0, 0, 1⟩
def Fld.BOOT_PINS_STILL_N : Fld := ⟨94, .BOOT_PINS, 27, 27, .ro, 1, 0, 1⟩
def Fld.BOOT_PINS_GUST_SYNC : Fld := ⟨95, .BOOT_PINS, 26, 26, .ro, 0, 0, 1⟩
def Fld.BOOT_PINS_TRIP_DRIVEN : Fld := ⟨96, .BOOT_PINS, 25, 25, .ro, 0, 0, 1⟩
def Fld.BOOT_PINS_SMB_ADDR : Fld := ⟨97, .BOOT_PINS, 6, 0, .ro, 95, 0, 127⟩
def Fld.LIC_STATE_LAPSED : Fld := ⟨98, .LIC_STATE, 11, 8, .ro, 0, 0, 15⟩
def Fld.LIC_STATE_IN_RECORD : Fld := ⟨99, .LIC_STATE, 7, 4, .ro, 0, 0, 15⟩
def Fld.LIC_STATE_IN_FORCE : Fld := ⟨100, .LIC_STATE, 3, 0, .ro, 0, 0, 15⟩
def Fld.LIC_RECORD_EXPIRY_HOURS : Fld := ⟨101, .LIC_RECORD, 63, 32, .ro, 0, 0, 4294967295⟩
def Fld.LIC_RECORD_SEQUENCE : Fld := ⟨102, .LIC_RECORD, 31, 0, .ro, 0, 0, 4294967295⟩
def Fld.LIC_HOURS_HOURS : Fld := ⟨103, .LIC_HOURS, 31, 0, .ro, 0, 0, 4294967295⟩
def Fld.PART_STATUS_STATE : Fld := ⟨104, .PART_STATUS, 31, 28, .ro, 0, 0, 15⟩
def Fld.PART_STATUS_VF : Fld := ⟨105, .PART_STATUS, 27, 24, .ro, 0, 0, 15⟩
def Fld.PART_STATUS_FW_SLOT : Fld := ⟨106, .PART_STATUS, 22, 22, .ro, 0, 0, 1⟩
def Fld.PART_STATUS_LIC : Fld := ⟨107, .PART_STATUS, 21, 16, .ro, 0, 0, 63⟩
def Fld.PART_STATUS_DIE_MASK : Fld := ⟨108, .PART_STATUS, 11, 0, .ro, 0, 0, 4095⟩
def Fld.PART_SHC_BYTES : Fld := ⟨109, .PART_SHC, 63, 32, .ro, 0, 0, 4294967295⟩
def Fld.PART_SHC_BASE : Fld := ⟨110, .PART_SHC, 28, 0, .ro, 0, 0, 536870911⟩
def Fld.PART_DMA_MASK : Fld := ⟨111, .PART_DMA, 31, 0, .ro, 0, 0, 4294967295⟩
def Fld.PART_MARSH_SHARE : Fld := ⟨112, .PART_MARSH, 63, 0, .ro, 0, 0, 18446744073709551615⟩
def Fld.PART_LOST_IN_WINDOW : Fld := ⟨113, .PART_LOST, 17, 16, .ro, 0, 0, 3⟩
def Fld.PART_LOST_TOTAL : Fld := ⟨114, .PART_LOST, 15, 0, .ro, 0, 0, 65535⟩
def Fld.PART_VOTE_STATS_REPAIRED : Fld := ⟨115, .PART_VOTE_STATS, 63, 32, .rc, 0, 0, 4294967295⟩
def Fld.PART_VOTE_STATS_LOST : Fld := ⟨116, .PART_VOTE_STATS, 31, 0, .rc, 0, 0, 4294967295⟩
def Fld.PART_REPAIR_VERSION : Fld := ⟨117, .PART_REPAIR, 31, 16, .ro, 0, 0, 65535⟩
def Fld.PART_REPAIR_SAVED : Fld := ⟨118, .PART_REPAIR, 15, 15, .ro, 1, 0, 1⟩
def Fld.PART_REPAIR_MIGRATING : Fld := ⟨119, .PART_REPAIR, 11, 0, .ro, 0, 0, 4095⟩
def Fld.PART_FW_CURRENT : Fld := ⟨120, .PART_FW, 31, 16, .ro, 0, 0, 65535⟩
def Fld.PART_FW_PREVIOUS : Fld := ⟨121, .PART_FW, 15, 0, .ro, 0, 0, 65535⟩
def Fld.PART_DOLDRUMS_ACTIVE : Fld := ⟨122, .PART_DOLDRUMS, 31, 31, .ro, 0, 0, 1⟩
def Fld.PART_DOLDRUMS_HELD : Fld := ⟨123, .PART_DOLDRUMS, 28, 24, .ro, 0, 0, 31⟩
def Fld.PART_DOLDRUMS_CAUSE : Fld := ⟨124, .PART_DOLDRUMS, 23, 16, .ro, 0, 0, 255⟩
def Fld.PART_DOLDRUMS_ENTRIES : Fld := ⟨125, .PART_DOLDRUMS, 15, 0, .ro, 0, 0, 65535⟩
def Fld.EVT_LOG_BASE_BASE : Fld := ⟨126, .EVT_LOG_BASE, 63, 12, .rw, 0, 0, 4503599627370495⟩
def Fld.EVT_LOG_CTL_ENABLE : Fld := ⟨127, .EVT_LOG_CTL, 31, 31, .rw, 0, 0, 1⟩
def Fld.EVT_LOG_CTL_DEVICE : Fld := ⟨128, .EVT_LOG_CTL, 30, 30, .rw, 0, 0, 1⟩
def Fld.EVT_LOG_CTL_SIZE : Fld := ⟨129, .EVT_LOG_CTL, 20, 16, .rw, 0, 0, 14⟩
def Fld.EVT_LOG_CTL_HOLDOFF_US : Fld := ⟨130, .EVT_LOG_CTL, 15, 0, .rw, 0, 0, 65535⟩
def Fld.EVT_LOG_STATUS_DROPPED : Fld := ⟨131, .EVT_LOG_STATUS, 63, 32, .rc, 0, 0, 4294967295⟩
def Fld.EVT_LOG_STATUS_PHASE : Fld := ⟨132, .EVT_LOG_STATUS, 31, 31, .ro, 0, 0, 1⟩
def Fld.EVT_LOG_STATUS_WRITE : Fld := ⟨133, .EVT_LOG_STATUS, 19, 0, .ro, 0, 0, 1048575⟩
def Fld.DMA_REG_CEILING : Fld := ⟨134, .DMA_REG, 31, 16, .rw, 0, 0, 65535⟩
def Fld.DMA_REG_GUARANTEE : Fld := ⟨135, .DMA_REG, 15, 0, .rw, 0, 0, 65535⟩
def Fld.DMA_REG_ACC_BYTES_KIB : Fld := ⟨136, .DMA_REG_ACC, 63, 32, .ro, 0, 0, 4294967295⟩
def Fld.DMA_REG_ACC_WAIT_US : Fld := ⟨137, .DMA_REG_ACC, 31, 16, .ro, 0, 0, 65535⟩
def Fld.DMA_REG_ACC_CEILING_HIT : Fld := ⟨138, .DMA_REG_ACC, 1, 1, .ro, 0, 0, 1⟩
def Fld.DMA_REG_ACC_REJECT : Fld := ⟨139, .DMA_REG_ACC, 0, 0, .w1c, 0, 0, 1⟩
def Fld.DMA_CH_CTL_ENABLE : Fld := ⟨140, .DMA_CH_CTL, 31, 31, .rw, 0, 0, 1⟩
def Fld.DMA_CH_CTL_STOP : Fld := ⟨141, .DMA_CH_CTL, 30, 30, .rw, 0, 0, 1⟩
def Fld.DMA_CH_CTL_PLAN_MODE : Fld := ⟨142, .DMA_CH_CTL, 29, 29, .rw, 0, 0, 1⟩
def Fld.DMA_CH_CTL_RING_HOST : Fld := ⟨143, .DMA_CH_CTL, 28, 28, .rw, 0, 0, 1⟩
def Fld.DMA_CH_CTL_PARTITION : Fld := ⟨144, .DMA_CH_CTL, 27, 24, .ro, 15, 0, 15⟩
def Fld.DMA_CH_CTL_SIZE : Fld := ⟨145, .DMA_CH_CTL, 23, 20, .rw, 0, 0, 12⟩
def Fld.DMA_CH_CTL_VECTOR : Fld := ⟨146, .DMA_CH_CTL, 19, 13, .rw, 0, 0, 127⟩
def Fld.DMA_CH_CTL_POLL : Fld := ⟨147, .DMA_CH_CTL, 11, 0, .rw, 10, 0, 4095⟩
def Fld.DMA_CH_RING_BASE : Fld := ⟨148, .DMA_CH_RING, 63, 12, .rw, 0, 0, 4503599627370495⟩
def Fld.DMA_CH_DONE_ADDR_VALID : Fld := ⟨149, .DMA_CH_DONE_ADDR, 63, 63, .rw, 0, 0, 1⟩
def Fld.DMA_CH_DONE_ADDR_OFFSET : Fld := ⟨150, .DMA_CH_DONE_ADDR, 28, 3, .rw, 0, 0, 67108863⟩
def Fld.DMA_CH_STATUS_HEAD : Fld := ⟨151, .DMA_CH_STATUS, 63, 48, .ro, 0, 0, 65535⟩
def Fld.DMA_CH_STATUS_LAST_STATUS : Fld := ⟨152, .DMA_CH_STATUS, 47, 32, .ro, 0, 0, 65535⟩
def Fld.DMA_CH_STATUS_LAST_TAG : Fld := ⟨153, .DMA_CH_STATUS, 31, 24, .ro, 0, 0, 255⟩
def Fld.DMA_CH_STATUS_ABANDONED : Fld := ⟨154, .DMA_CH_STATUS, 3, 3, .w1c, 0, 0, 1⟩
def Fld.DMA_CH_STATUS_SUSPENDED : Fld := ⟨155, .DMA_CH_STATUS, 2, 2, .ro, 0, 0, 1⟩
def Fld.DMA_CH_STATUS_STATE : Fld := ⟨156, .DMA_CH_STATUS, 1, 0, .ro, 0, 0, 3⟩
def Fld.DMA_CH_COMMIT_DONE : Fld := ⟨157, .DMA_CH_COMMIT, 63, 16, .ro, 0, 0, 281474976710655⟩
def Fld.DMA_CH_COMMIT_HEAD : Fld := ⟨158, .DMA_CH_COMMIT, 15, 0, .ro, 0, 0, 65535⟩
def Fld.DMA_CH_COUNT_DESCRIPTORS : Fld := ⟨159, .DMA_CH_COUNT, 63, 32, .rc, 0, 0, 4294967295⟩
def Fld.DMA_CH_COUNT_KIB : Fld := ⟨160, .DMA_CH_COUNT, 31, 0, .rc, 0, 0, 4294967295⟩
def Fld.SHC_CTL_SCRUB_KIB : Fld := ⟨161, .SHC_CTL, 31, 16, .rw, 4096, 0, 65535⟩
def Fld.SHC_ECC_COUNT_UNCORRECTABLE : Fld := ⟨162, .SHC_ECC_COUNT, 31, 16, .ro, 0, 0, 65535⟩
def Fld.SHC_ECC_COUNT_CORRECTED : Fld := ⟨163, .SHC_ECC_COUNT, 15, 0, .ro, 0, 0, 65535⟩
def Fld.SHC_GROUP_BASE_BASE : Fld := ⟨164, .SHC_GROUP_BASE, 28, 5, .rw, 0, 0, 16777215⟩
def Fld.SHC_STATS_ATOMICS : Fld := ⟨165, .SHC_STATS, 63, 32, .rc, 0, 0, 4294967295⟩
def Fld.SHC_STATS_GROUPS : Fld := ⟨166, .SHC_STATS, 31, 0, .rc, 0, 0, 4294967295⟩
def Fld.SHC_REG_CEILING : Fld := ⟨167, .SHC_REG, 31, 16, .rw, 0, 0, 65535⟩
def Fld.SHC_REG_GUARANTEE : Fld := ⟨168, .SHC_REG, 15, 0, .rw, 0, 0, 65535⟩
def Fld.SHC_REG_ACC_BYTES_KIB : Fld := ⟨169, .SHC_REG_ACC, 63, 32, .ro, 0, 0, 4294967295⟩
def Fld.SHC_REG_ACC_WAIT_US : Fld := ⟨170, .SHC_REG_ACC, 31, 16, .ro, 0, 0, 65535⟩
def Fld.SHC_REG_ACC_CEILING_HIT : Fld := ⟨171, .SHC_REG_ACC, 1, 1, .ro, 0, 0, 1⟩
def Fld.SHC_REG_ACC_REJECT : Fld := ⟨172, .SHC_REG_ACC, 0, 0, .w1c, 0, 0, 1⟩
def Fld.MRS_CTL_SCRUB_ROWS : Fld := ⟨173, .MRS_CTL, 31, 16, .rw, 256, 0, 65535⟩
def Fld.MRS_CTL_POSTPONE_MAX : Fld := ⟨174, .MRS_CTL, 11, 8, .rw, 8, 2, 8⟩
def Fld.MRS_CTL_FORCE_BAND : Fld := ⟨175, .MRS_CTL, 3, 2, .rw, 0, 0, 3⟩
def Fld.MRS_STATUS_TEMP1 : Fld := ⟨176, .MRS_STATUS, 31, 24, .ro, 0, 0, 255⟩
def Fld.MRS_STATUS_TEMP0 : Fld := ⟨177, .MRS_STATUS, 23, 16, .ro, 0, 0, 255⟩
def Fld.MRS_STATUS_MAX_DEBT : Fld := ⟨178, .MRS_STATUS, 11, 8, .rc, 0, 0, 15⟩
def Fld.MRS_STATUS_SENSOR1_FAILED : Fld := ⟨179, .MRS_STATUS, 5, 5, .ro, 0, 0, 1⟩
def Fld.MRS_STATUS_SENSOR0_FAILED : Fld := ⟨180, .MRS_STATUS, 4, 4, .ro, 0, 0, 1⟩
def Fld.MRS_STATUS_BAND : Fld := ⟨181, .MRS_STATUS, 1, 0, .ro, 0, 0, 3⟩
def Fld.MRS_SPARE_UNCORR_COPIED : Fld := ⟨182, .MRS_SPARE, 31, 16, .ro, 0, 0, 65535⟩
def Fld.MRS_SPARE_PROGRESS : Fld := ⟨183, .MRS_SPARE, 15, 8, .ro, 0, 0, 255⟩
def Fld.MRS_SPARE_STATE : Fld := ⟨184, .MRS_SPARE, 7, 6, .ro, 0, 0, 3⟩
def Fld.MRS_SPARE_TARGET : Fld := ⟨185, .MRS_SPARE, 3, 0, .ro, 0, 0, 15⟩
def Fld.MRS_ECC_COUNT_ONDIE_CORRECTED : Fld := ⟨186, .MRS_ECC_COUNT, 63, 48, .ro, 0, 0, 65535⟩
def Fld.MRS_ECC_COUNT_SLICE_CORRECTED : Fld := ⟨187, .MRS_ECC_COUNT, 47, 32, .ro, 0, 0, 65535⟩
def Fld.MRS_ECC_COUNT_UNCORRECTABLE : Fld := ⟨188, .MRS_ECC_COUNT, 31, 16, .ro, 0, 0, 65535⟩
def Fld.MRS_ECC_COUNT_SCRUB_CORRECTED : Fld := ⟨189, .MRS_ECC_COUNT, 15, 0, .ro, 0, 0, 65535⟩
def Fld.MRS_ECC_LAST_VALID : Fld := ⟨190, .MRS_ECC_LAST, 63, 63, .w1c, 0, 0, 1⟩
def Fld.MRS_ECC_LAST_UNCORR : Fld := ⟨191, .MRS_ECC_LAST, 62, 62, .ro, 0, 0, 1⟩
def Fld.MRS_ECC_LAST_SCRUB : Fld := ⟨192, .MRS_ECC_LAST, 61, 61, .ro, 0, 0, 1⟩
def Fld.MRS_ECC_LAST_SYMBOL : Fld := ⟨193, .MRS_ECC_LAST, 60, 54, .ro, 0, 0, 127⟩
def Fld.MRS_ECC_LAST_CHANNEL : Fld := ⟨194, .MRS_ECC_LAST, 52, 49, .ro, 0, 0, 15⟩
def Fld.MRS_ECC_LAST_TRANSFER : Fld := ⟨195, .MRS_ECC_LAST, 36, 6, .ro, 0, 0, 2147483647⟩
def Fld.MRS_FLIP_DATA_MASK : Fld := ⟨196, .MRS_FLIP_DATA, 63, 0, .rw, 0, 0, 18446744073709551615⟩
def Fld.MRS_FLIP_CHECK_MASK : Fld := ⟨197, .MRS_FLIP_CHECK, 31, 0, .rw, 0, 0, 4294967295⟩
def Fld.MRS_FLIP_CTL_CHANNEL : Fld := ⟨198, .MRS_FLIP_CTL, 7, 4, .rw, 0, 0, 15⟩
def Fld.MRS_FLIP_CTL_DONE : Fld := ⟨199, .MRS_FLIP_CTL, 2, 2, .w1c, 0, 0, 1⟩
def Fld.MRS_FLIP_CTL_TARGET : Fld := ⟨200, .MRS_FLIP_CTL, 1, 1, .rw, 0, 0, 1⟩
def Fld.MRS_FLIP_CTL_ARM : Fld := ⟨201, .MRS_FLIP_CTL, 0, 0, .w1s, 0, 0, 1⟩
def Fld.MRS_REG_CEILING : Fld := ⟨202, .MRS_REG, 31, 16, .rw, 0, 0, 65535⟩
def Fld.MRS_REG_GUARANTEE : Fld := ⟨203, .MRS_REG, 15, 0, .rw, 0, 0, 65535⟩
def Fld.MRS_REG_ACC_BYTES_KIB : Fld := ⟨204, .MRS_REG_ACC, 63, 32, .ro, 0, 0, 4294967295⟩
def Fld.MRS_REG_ACC_WAIT_US : Fld := ⟨205, .MRS_REG_ACC, 31, 16, .ro, 0, 0, 65535⟩
def Fld.MRS_REG_ACC_CEILING_HIT : Fld := ⟨206, .MRS_REG_ACC, 1, 1, .ro, 0, 0, 1⟩
def Fld.MRS_REG_ACC_REJECT : Fld := ⟨207, .MRS_REG_ACC, 0, 0, .w1c, 0, 0, 1⟩
def Fld.PEAT_REG_CEILING : Fld := ⟨208, .PEAT_REG, 31, 16, .rw, 0, 0, 65535⟩
def Fld.PEAT_REG_GUARANTEE : Fld := ⟨209, .PEAT_REG, 15, 0, .rw, 0, 0, 65535⟩
def Fld.PEAT_REG_ACC_BYTES_KIB : Fld := ⟨210, .PEAT_REG_ACC, 63, 32, .ro, 0, 0, 4294967295⟩
def Fld.PEAT_REG_ACC_WAIT_US : Fld := ⟨211, .PEAT_REG_ACC, 31, 16, .ro, 0, 0, 65535⟩
def Fld.PEAT_REG_ACC_CEILING_HIT : Fld := ⟨212, .PEAT_REG_ACC, 1, 1, .ro, 0, 0, 1⟩
def Fld.PEAT_REG_ACC_REJECT : Fld := ⟨213, .PEAT_REG_ACC, 0, 0, .w1c, 0, 0, 1⟩
def Fld.PEAT_CTL_ACTIVE_MAX : Fld := ⟨214, .PEAT_CTL, 15, 8, .rw, 64, 1, 64⟩
def Fld.PEAT_CTL_DISTURB_EVENT : Fld := ⟨215, .PEAT_CTL, 1, 1, .rw, 1, 0, 1⟩
def Fld.PEAT_CTL_ENABLE : Fld := ⟨216, .PEAT_CTL, 0, 0, .rw, 1, 0, 1⟩
def Fld.PEAT_STATE_COUNTERS_STALE : Fld := ⟨217, .PEAT_STATE, 16, 16, .w1c, 0, 0, 1⟩
def Fld.PEAT_STATE_ACTIVE : Fld := ⟨218, .PEAT_STATE, 13, 8, .ro, 0, 0, 63⟩
def Fld.PEAT_STATE_READ_OK : Fld := ⟨219, .PEAT_STATE, 7, 4, .ro, 15, 0, 15⟩
def Fld.PEAT_STATE_WRITE_OK : Fld := ⟨220, .PEAT_STATE, 3, 0, .ro, 15, 0, 15⟩
def Fld.PEAT_TEMP_T3 : Fld := ⟨221, .PEAT_TEMP, 31, 24, .ro, 0, 0, 255⟩
def Fld.PEAT_TEMP_T2 : Fld := ⟨222, .PEAT_TEMP, 23, 16, .ro, 0, 0, 255⟩
def Fld.PEAT_TEMP_T1 : Fld := ⟨223, .PEAT_TEMP, 15, 8, .ro, 0, 0, 255⟩
def Fld.PEAT_TEMP_T0 : Fld := ⟨224, .PEAT_TEMP, 7, 0, .ro, 0, 0, 255⟩
def Fld.PEAT_WEAR_CTL_RATE : Fld := ⟨225, .PEAT_WEAR_CTL, 8, 0, .rw, 100, 1, 400⟩
def Fld.PEAT_WEAR_STATUS_USED_GB : Fld := ⟨226, .PEAT_WEAR_STATUS, 63, 32, .ro, 0, 0, 4294967295⟩
def Fld.PEAT_WEAR_STATUS_REFUSED : Fld := ⟨227, .PEAT_WEAR_STATUS, 31, 0, .rc, 0, 0, 4294967295⟩
def Fld.PEAT_LDPC_COUNT_UNCORRECTABLE : Fld := ⟨228, .PEAT_LDPC_COUNT, 63, 48, .ro, 0, 0, 65535⟩
def Fld.PEAT_LDPC_COUNT_SOFT : Fld := ⟨229, .PEAT_LDPC_COUNT, 47, 32, .ro, 0, 0, 65535⟩
def Fld.PEAT_LDPC_COUNT_RETRY : Fld := ⟨230, .PEAT_LDPC_COUNT, 31, 16, .ro, 0, 0, 65535⟩
def Fld.PEAT_LDPC_LAST_VALID : Fld := ⟨231, .PEAT_LDPC_LAST, 63, 63, .w1c, 0, 0, 1⟩
def Fld.PEAT_LDPC_LAST_LEVEL : Fld := ⟨232, .PEAT_LDPC_LAST, 59, 56, .ro, 0, 0, 15⟩
def Fld.PEAT_LDPC_LAST_ADDRESS : Fld := ⟨233, .PEAT_LDPC_LAST, 31, 0, .ro, 0, 0, 4294967295⟩
def Fld.PEAT_DIE_OWNER_OWNER : Fld := ⟨234, .PEAT_DIE_OWNER, 31, 0, .rw, 4294967295, 0, 4294967295⟩
def Fld.PEAT_MAP_STATUS_REPAIRED : Fld := ⟨235, .PEAT_MAP_STATUS, 31, 16, .ro, 0, 0, 65535⟩
def Fld.PEAT_MAP_STATUS_PENDING : Fld := ⟨236, .PEAT_MAP_STATUS, 0, 0, .ro, 0, 0, 1⟩
def Fld.ZYN_LINK_CTL_TEMP_DELTA : Fld := ⟨237, .ZYN_LINK_CTL, 15, 8, .rw, 15, 5, 30⟩
def Fld.ZYN_LINK_CTL_BG_RETRAIN : Fld := ⟨238, .ZYN_LINK_CTL, 0, 0, .rw, 1, 0, 1⟩
def Fld.ZYN_LINK_STATUS_TRAIN_TEMP : Fld := ⟨239, .ZYN_LINK_STATUS, 31, 24, .ro, 0, 0, 255⟩
def Fld.ZYN_LINK_STATUS_GROUP : Fld := ⟨240, .ZYN_LINK_STATUS, 21, 16, .ro, 63, 0, 63⟩
def Fld.ZYN_LINK_STATUS_CAPS : Fld := ⟨241, .ZYN_LINK_STATUS, 15, 12, .ro, 0, 0, 15⟩
def Fld.ZYN_LINK_STATUS_VERSION : Fld := ⟨242, .ZYN_LINK_STATUS, 11, 8, .ro, 0, 0, 15⟩
def Fld.ZYN_LINK_STATUS_STATE : Fld := ⟨243, .ZYN_LINK_STATUS, 2, 0, .ro, 0, 0, 7⟩
def Fld.ZYN_LINK_ERR_EXHAUSTED : Fld := ⟨244, .ZYN_LINK_ERR, 63, 48, .ro, 0, 0, 65535⟩
def Fld.ZYN_LINK_ERR_REPLAYS : Fld := ⟨245, .ZYN_LINK_ERR, 47, 32, .rc, 0, 0, 65535⟩
def Fld.ZYN_LINK_ERR_CRC_ERRORS : Fld := ⟨246, .ZYN_LINK_ERR, 31, 0, .rc, 0, 0, 4294967295⟩
def Fld.ZYN_WIRE_SPARE_VALID : Fld := ⟨247, .ZYN_WIRE_SPARE, 31, 31, .ro, 0, 0, 1⟩
def Fld.ZYN_WIRE_SPARE_NEW : Fld := ⟨248, .ZYN_WIRE_SPARE, 30, 30, .ro, 0, 0, 1⟩
def Fld.ZYN_WIRE_SPARE_TARGET : Fld := ⟨249, .ZYN_WIRE_SPARE, 9, 0, .ro, 0, 0, 1023⟩
def Fld.ZYN_WIRE_WORST_COUNT : Fld := ⟨250, .ZYN_WIRE_WORST, 31, 16, .rc, 0, 0, 65535⟩
def Fld.ZYN_WIRE_WORST_DIR : Fld := ⟨251, .ZYN_WIRE_WORST, 10, 10, .ro, 0, 0, 1⟩
def Fld.ZYN_WIRE_WORST_WIRE : Fld := ⟨252, .ZYN_WIRE_WORST, 9, 0, .ro, 0, 0, 1023⟩
def Fld.ZYN_ROUTE_ROUTE : Fld := ⟨253, .ZYN_ROUTE, 23, 0, .rw, 0, 0, 16777215⟩
def Fld.ZYN_TRANSIT_ANSWERED : Fld := ⟨254, .ZYN_TRANSIT, 31, 16, .rc, 0, 0, 65535⟩
def Fld.ZYN_TRANSIT_STATE : Fld := ⟨255, .ZYN_TRANSIT, 1, 0, .ro, 0, 0, 3⟩
def Fld.ZYN_UCIE_STATUS_PORTS : Fld := ⟨256, .ZYN_UCIE_STATUS, 15, 12, .ro, 0, 0, 15⟩
def Fld.ZYN_UCIE_STATUS_RATE : Fld := ⟨257, .ZYN_UCIE_STATUS, 11, 8, .ro, 0, 0, 15⟩
def Fld.ZYN_UCIE_STATUS_MODULES : Fld := ⟨258, .ZYN_UCIE_STATUS, 4, 2, .ro, 0, 0, 7⟩
def Fld.ZYN_UCIE_STATUS_REPAIRED : Fld := ⟨259, .ZYN_UCIE_STATUS, 1, 1, .ro, 0, 0, 1⟩
def Fld.ZYN_UCIE_STATUS_UP : Fld := ⟨260, .ZYN_UCIE_STATUS, 0, 0, .ro, 0, 0, 1⟩
def Fld.XNI_CTL_MARKER_LEAD : Fld := ⟨261, .XNI_CTL, 31, 16, .rw, 200, 50, 500⟩
def Fld.XNI_CTL_TIMEOUT : Fld := ⟨262, .XNI_CTL, 7, 0, .rw, 50, 10, 255⟩
def Fld.XNI_MODULE_ID_ID : Fld := ⟨263, .XNI_MODULE_ID, 10, 0, .rw, 0, 0, 2047⟩
def Fld.XNI_PORT_CTL_RETRAIN : Fld := ⟨264, .XNI_PORT_CTL, 1, 1, .wo, 0, 0, 1⟩
def Fld.XNI_PORT_CTL_ENABLE : Fld := ⟨265, .XNI_PORT_CTL, 0, 0, .rw, 0, 0, 1⟩
def Fld.XNI_PORT_STATUS_PEER_ID : Fld := ⟨266, .XNI_PORT_STATUS, 31, 21, .ro, 0, 0, 2047⟩
def Fld.XNI_PORT_STATUS_SPARES : Fld := ⟨267, .XNI_PORT_STATUS, 7, 4, .ro, 0, 0, 15⟩
def Fld.XNI_PORT_STATUS_STATE : Fld := ⟨268, .XNI_PORT_STATUS, 2, 0, .ro, 0, 0, 7⟩
def Fld.XNI_PORT_DELAY_DELAY : Fld := ⟨269, .XNI_PORT_DELAY, 31, 0, .ro, 0, 0, 4294967295⟩
def Fld.XNI_PORT_ERR_EXHAUSTED : Fld := ⟨270, .XNI_PORT_ERR, 63, 48, .ro, 0, 0, 65535⟩
def Fld.XNI_PORT_ERR_REPLAYS : Fld := ⟨271, .XNI_PORT_ERR, 47, 32, .rc, 0, 0, 65535⟩
def Fld.XNI_PORT_ERR_FEC_UNCORR : Fld := ⟨272, .XNI_PORT_ERR, 31, 16, .rc, 0, 0, 65535⟩
def Fld.XNI_PORT_ERR_FEC_SYMBOLS : Fld := ⟨273, .XNI_PORT_ERR, 15, 0, .rc, 0, 0, 65535⟩
def Fld.XNI_LANE_SPARE_VALID : Fld := ⟨274, .XNI_LANE_SPARE, 31, 31, .ro, 0, 0, 1⟩
def Fld.XNI_LANE_SPARE_NEW : Fld := ⟨275, .XNI_LANE_SPARE, 30, 30, .ro, 0, 0, 1⟩
def Fld.XNI_LANE_SPARE_LANE : Fld := ⟨276, .XNI_LANE_SPARE, 5, 3, .ro, 0, 0, 7⟩
def Fld.XNI_LANE_SPARE_PORT : Fld := ⟨277, .XNI_LANE_SPARE, 2, 0, .ro, 0, 0, 7⟩
def Fld.XNI_ROUTE_VALID : Fld := ⟨278, .XNI_ROUTE, 4, 4, .rw, 0, 0, 1⟩
def Fld.XNI_ROUTE_PORT : Fld := ⟨279, .XNI_ROUTE, 3, 0, .rw, 0, 0, 15⟩
def Fld.XNI_MBOX_BASE_BASE : Fld := ⟨280, .XNI_MBOX_BASE, 28, 5, .rw, 0, 0, 16777215⟩
def Fld.XNI_OUTBOX_VALID : Fld := ⟨281, .XNI_OUTBOX, 31, 31, .rw, 0, 0, 1⟩
def Fld.XNI_OUTBOX_MAILBOX : Fld := ⟨282, .XNI_OUTBOX, 20, 15, .rw, 0, 0, 63⟩
def Fld.XNI_OUTBOX_DEST_PART : Fld := ⟨283, .XNI_OUTBOX, 14, 11, .rw, 0, 0, 11⟩
def Fld.XNI_OUTBOX_DEST_MODULE : Fld := ⟨284, .XNI_OUTBOX, 10, 0, .rw, 0, 0, 2047⟩
def Fld.XNI_OUTBOX_REL_RELEASED : Fld := ⟨285, .XNI_OUTBOX_REL, 47, 0, .rw, 0, 0, 281474976710655⟩
def Fld.XNI_STATS_DROPPED : Fld := ⟨286, .XNI_STATS, 63, 48, .rc, 0, 0, 65535⟩
def Fld.XNI_STATS_REFUSED : Fld := ⟨287, .XNI_STATS, 47, 32, .rc, 0, 0, 65535⟩
def Fld.XNI_STATS_MARKERS_IGNORED : Fld := ⟨288, .XNI_STATS, 31, 16, .rc, 0, 0, 65535⟩
def Fld.XNI_STATS_LIC_REFUSED : Fld := ⟨289, .XNI_STATS, 0, 0, .w1c, 0, 0, 1⟩
def Fld.THM_CTL_INLET_WARN : Fld := ⟨290, .THM_CTL, 15, 8, .rw, 40, 25, 60⟩
def Fld.THM_CTL_NOTICES : Fld := ⟨291, .THM_CTL, 0, 0, .rw, 1, 0, 1⟩
def Fld.THM_LIMITS_MEM_THROTTLE : Fld := ⟨292, .THM_LIMITS, 31, 24, .ro, 95, 0, 255⟩
def Fld.THM_LIMITS_LOGIC_THROTTLE : Fld := ⟨293, .THM_LIMITS, 23, 16, .ro, 95, 0, 255⟩
def Fld.THM_LIMITS_MEM_SHUTDOWN : Fld := ⟨294, .THM_LIMITS, 15, 8, .ro, 105, 0, 255⟩
def Fld.THM_LIMITS_LOGIC_SHUTDOWN : Fld := ⟨295, .THM_LIMITS, 7, 0, .ro, 110, 0, 255⟩
def Fld.THM_STATUS_HOT_DIE : Fld := ⟨296, .THM_STATUS, 31, 24, .ro, 0, 0, 255⟩
def Fld.THM_STATUS_HOT_SITE : Fld := ⟨297, .THM_STATUS, 23, 17, .ro, 0, 0, 127⟩
def Fld.THM_STATUS_TRIPS_24H : Fld := ⟨298, .THM_STATUS, 14, 12, .ro, 0, 0, 7⟩
def Fld.THM_STATUS_THROTTLED : Fld := ⟨299, .THM_STATUS, 11, 8, .ro, 0, 0, 15⟩
def Fld.THM_STATUS_GUARD : Fld := ⟨300, .THM_STATUS, 4, 4, .ro, 0, 0, 1⟩
def Fld.THM_STATUS_SLEEP_HEAT : Fld := ⟨301, .THM_STATUS, 3, 3, .ro, 0, 0, 1⟩
def Fld.THM_STATUS_STOP : Fld := ⟨302, .THM_STATUS, 2, 2, .ro, 0, 0, 1⟩
def Fld.THM_STATUS_WARN_55 : Fld := ⟨303, .THM_STATUS, 1, 1, .ro, 0, 0, 1⟩
def Fld.THM_STATUS_WARN_60 : Fld := ⟨304, .THM_STATUS, 0, 0, .ro, 0, 0, 1⟩
def Fld.THM_COOLANT_FLOW : Fld := ⟨305, .THM_COOLANT, 63, 48, .ro, 0, 0, 65535⟩
def Fld.THM_COOLANT_OUTLET : Fld := ⟨306, .THM_COOLANT, 47, 32, .ro, 0, 0, 65535⟩
def Fld.THM_COOLANT_INLET : Fld := ⟨307, .THM_COOLANT, 31, 16, .ro, 0, 0, 65535⟩
def Fld.THM_COOLANT_PULSE_FLOW : Fld := ⟨308, .THM_COOLANT, 15, 3, .ro, 0, 0, 8191⟩
def Fld.THM_COOLANT_FLOW_LOST : Fld := ⟨309, .THM_COOLANT, 2, 2, .ro, 0, 0, 1⟩
def Fld.THM_COOLANT_OUTLET_LOST : Fld := ⟨310, .THM_COOLANT, 1, 1, .ro, 0, 0, 1⟩
def Fld.THM_COOLANT_INLET_LOST : Fld := ⟨311, .THM_COOLANT, 0, 0, .ro, 0, 0, 1⟩
def Fld.THM_SITE_DIODE0 : Fld := ⟨312, .THM_SITE, 63, 56, .ro, 0, 0, 255⟩
def Fld.THM_SITE_DIODE1 : Fld := ⟨313, .THM_SITE, 55, 48, .ro, 0, 0, 255⟩
def Fld.THM_SITE_L0 : Fld := ⟨314, .THM_SITE, 47, 40, .ro, 0, 0, 255⟩
def Fld.THM_SITE_FORECAST : Fld := ⟨315, .THM_SITE, 39, 32, .ro, 0, 0, 255⟩
def Fld.THM_SITE_LEVEL : Fld := ⟨316, .THM_SITE, 31, 28, .ro, 0, 0, 15⟩
def Fld.THM_SITE_FIT : Fld := ⟨317, .THM_SITE, 27, 24, .ro, 0, 0, 15⟩
def Fld.THM_SITE_NEED : Fld := ⟨318, .THM_SITE, 23, 20, .ro, 0, 0, 15⟩
def Fld.THM_SITE_FLOOR : Fld := ⟨319, .THM_SITE, 3, 3, .ro, 0, 0, 1⟩
def Fld.THM_SITE_L0_FAILED : Fld := ⟨320, .THM_SITE, 2, 2, .w1c, 0, 0, 1⟩
def Fld.THM_SITE_DIODE1_FAILED : Fld := ⟨321, .THM_SITE, 1, 1, .w1c, 0, 0, 1⟩
def Fld.THM_SITE_DIODE0_FAILED : Fld := ⟨322, .THM_SITE, 0, 0, .w1c, 0, 0, 1⟩
def Fld.THM_SENSOR_FAIL_PEAT : Fld := ⟨323, .THM_SENSOR_FAIL, 31, 24, .w1c, 0, 0, 255⟩
def Fld.THM_SENSOR_FAIL_MARSH : Fld := ⟨324, .THM_SENSOR_FAIL, 23, 0, .w1c, 0, 0, 16777215⟩
def Fld.THM_IO_FAIL_FAILED : Fld := ⟨325, .THM_IO_FAIL, 15, 0, .w1c, 0, 0, 65535⟩
def Fld.THM_IO_TEMP_TEMP : Fld := ⟨326, .THM_IO_TEMP, 31, 0, .ro, 0, 0, 4294967295⟩
def Fld.THM_CAL_RANGE_P_HI : Fld := ⟨327, .THM_CAL_RANGE, 31, 24, .ro, 0, 0, 255⟩
def Fld.THM_CAL_RANGE_P_LO : Fld := ⟨328, .THM_CAL_RANGE, 23, 16, .ro, 0, 0, 255⟩
def Fld.THM_CAL_RANGE_FLOW_HI : Fld := ⟨329, .THM_CAL_RANGE, 15, 12, .ro, 0, 0, 15⟩
def Fld.THM_CAL_RANGE_FLOW_LO : Fld := ⟨330, .THM_CAL_RANGE, 11, 8, .ro, 0, 0, 15⟩
def Fld.THM_CAL_RANGE_INLET_HI : Fld := ⟨331, .THM_CAL_RANGE, 7, 4, .ro, 0, 0, 15⟩
def Fld.THM_CAL_RANGE_INLET_LO : Fld := ⟨332, .THM_CAL_RANGE, 3, 0, .ro, 0, 0, 15⟩
def Fld.THM_CAL_STATUS_RMS_ERROR : Fld := ⟨333, .THM_CAL_STATUS, 15, 8, .ro, 0, 0, 255⟩
def Fld.THM_CAL_STATUS_REFITTED : Fld := ⟨334, .THM_CAL_STATUS, 1, 1, .ro, 0, 0, 1⟩
def Fld.THM_CAL_STATUS_GUARD : Fld := ⟨335, .THM_CAL_STATUS, 0, 0, .ro, 0, 0, 1⟩
def Fld.THM_TRIP_VALID : Fld := ⟨336, .THM_TRIP, 63, 63, .w1c, 0, 0, 1⟩
def Fld.THM_TRIP_READING : Fld := ⟨337, .THM_TRIP, 55, 48, .ro, 0, 0, 255⟩
def Fld.THM_TRIP_INDEX : Fld := ⟨338, .THM_TRIP, 27, 0, .ro, 0, 0, 268435455⟩
def Fld.THM_STATS_THROTTLE_MS : Fld := ⟨339, .THM_STATS, 63, 32, .rc, 0, 0, 4294967295⟩
def Fld.THM_STATS_NOTICES : Fld := ⟨340, .THM_STATS, 31, 16, .rc, 0, 0, 65535⟩
def Fld.THM_STATS_DISAGREE : Fld := ⟨341, .THM_STATS, 15, 0, .rc, 0, 0, 65535⟩
def Fld.THM_TRAY_CTL_K_FACTOR : Fld := ⟨342, .THM_TRAY_CTL, 31, 16, .rw, 12000, 1000, 60000⟩
def Fld.THM_TRAY_CTL_BUS_400K : Fld := ⟨343, .THM_TRAY_CTL, 0, 0, .rw, 0, 0, 1⟩
def Fld.PWR_STATE_STATE : Fld := ⟨344, .PWR_STATE, 31, 29, .ro, 0, 0, 7⟩
def Fld.PWR_STATE_TARGET : Fld := ⟨345, .PWR_STATE, 28, 26, .ro, 0, 0, 7⟩
def Fld.PWR_STATE_BUSY : Fld := ⟨346, .PWR_STATE, 25, 25, .ro, 0, 0, 1⟩
def Fld.PWR_STATE_CORES_OFF : Fld := ⟨347, .PWR_STATE, 23, 12, .ro, 0, 0, 4095⟩
def Fld.PWR_STATE_TRANSIT_OFF : Fld := ⟨348, .PWR_STATE, 11, 0, .ro, 0, 0, 4095⟩
def Fld.PWR_STATUS_CLAMP : Fld := ⟨349, .PWR_STATUS, 7, 7, .ro, 0, 0, 1⟩
def Fld.PWR_STATUS_OUT_OF_RANGE : Fld := ⟨350, .PWR_STATUS, 6, 6, .ro, 0, 0, 1⟩
def Fld.PWR_LIMIT_EFFECTIVE : Fld := ⟨351, .PWR_LIMIT, 31, 16, .ro, 4800, 0, 65535⟩
def Fld.PWR_LIMIT_LIMIT : Fld := ⟨352, .PWR_LIMIT, 15, 0, .ro, 4800, 0, 65535⟩
def Fld.PWR_LIMITER_LEVEL : Fld := ⟨353, .PWR_LIMITER, 47, 0, .ro, 0, 0, 281474976710655⟩
def Fld.PWR_RAIL_VOLTAGE : Fld := ⟨354, .PWR_RAIL, 63, 48, .ro, 0, 0, 65535⟩
def Fld.PWR_RAIL_CURRENT : Fld := ⟨355, .PWR_RAIL, 47, 32, .ro, 0, 0, 65535⟩
def Fld.PWR_RAIL_POWER : Fld := ⟨356, .PWR_RAIL, 31, 16, .ro, 0, 0, 65535⟩
def Fld.PWR_RAIL_ALLOWANCE : Fld := ⟨357, .PWR_RAIL, 15, 0, .ro, 0, 0, 65535⟩
def Fld.PWR_WAKE_BROWNOUT : Fld := ⟨358, .PWR_WAKE, 31, 31, .w1c, 0, 0, 1⟩
def Fld.PWR_WAKE_FROM_STATE : Fld := ⟨359, .PWR_WAKE, 11, 8, .ro, 0, 0, 15⟩
def Fld.PWR_WAKE_SOURCE : Fld := ⟨360, .PWR_WAKE, 3, 0, .ro, 0, 0, 15⟩
def Fld.PWR_WAKE_CTL_PERST_EN : Fld := ⟨361, .PWR_WAKE_CTL, 2, 2, .rw, 1, 0, 1⟩
def Fld.PWR_WAKE_CTL_SMBUS_EN : Fld := ⟨362, .PWR_WAKE_CTL, 1, 1, .rw, 1, 0, 1⟩
def Fld.PWR_WAKE_CTL_WAKEN_EN : Fld := ⟨363, .PWR_WAKE_CTL, 0, 0, .rw, 1, 0, 1⟩
def Fld.PWR_AO_OFF_LOAD : Fld := ⟨364, .PWR_AO, 31, 16, .ro, 0, 0, 65535⟩
def Fld.PWR_ENERGY_JOULES : Fld := ⟨365, .PWR_ENERGY, 63, 0, .rc, 0, 0, 18446744073709551615⟩
def Fld.MON_TIME_NS : Fld := ⟨366, .MON_TIME, 63, 0, .ro, 0, 0, 18446744073709551615⟩
def Fld.MON_OUT_RING_SIZE : Fld := ⟨367, .MON_OUT_RING, 35, 32, .rw, 0, 0, 15⟩
def Fld.MON_OUT_RING_BASE : Fld := ⟨368, .MON_OUT_RING, 28, 4, .rw, 0, 0, 33554431⟩
def Fld.MON_OUT_RING_ENABLE : Fld := ⟨369, .MON_OUT_RING, 0, 0, .rw, 0, 0, 1⟩
def Fld.MON_OUT_PROD_OFFSET : Fld := ⟨370, .MON_OUT_PROD, 28, 3, .rw, 0, 0, 67108863⟩
def Fld.MON_SLOT_BASE_BASE : Fld := ⟨371, .MON_SLOT_BASE, 28, 20, .rw, 0, 0, 511⟩
def Fld.MON_OUT_STAMP_STAMP : Fld := ⟨372, .MON_OUT_STAMP, 63, 0, .ro, 0, 0, 18446744073709551615⟩
def Fld.MON_OUT_STATUS_UNMETERED : Fld := ⟨373, .MON_OUT_STATUS, 63, 32, .rc, 0, 0, 4294967295⟩
def Fld.MON_OUT_STATUS_BAD_ADVANCE : Fld := ⟨374, .MON_OUT_STATUS, 0, 0, .w1c, 0, 0, 1⟩
def Fld.MON_CLASS_BOUND : Fld := ⟨375, .MON_CLASS, 63, 32, .ro, 0, 0, 4294967295⟩
def Fld.MON_CLASS_OWNER : Fld := ⟨376, .MON_CLASS, 31, 28, .ro, 0, 0, 15⟩
def Fld.MON_CLASS_OWNER_VALID : Fld := ⟨377, .MON_CLASS, 27, 27, .ro, 0, 0, 1⟩
def Fld.MON_CLASS_COUNT_OVER : Fld := ⟨378, .MON_CLASS_COUNT, 63, 32, .ro, 0, 0, 4294967295⟩
def Fld.MON_CLASS_COUNT_TOKENS : Fld := ⟨379, .MON_CLASS_COUNT, 31, 0, .ro, 0, 0, 4294967295⟩
def Fld.MON_CLASS_STATUS_WARN_GUSTS : Fld := ⟨380, .MON_CLASS_STATUS, 31, 16, .ro, 0, 0, 65535⟩
def Fld.MON_CLASS_STATUS_AT_RISK : Fld := ⟨381, .MON_CLASS_STATUS, 0, 0, .ro, 0, 0, 1⟩
def Fld.FRZ_CTL_RELEASE : Fld := ⟨382, .FRZ_CTL, 1, 1, .wo, 0, 0, 1⟩
def Fld.FRZ_CTL_PIN_EN : Fld := ⟨383, .FRZ_CTL, 0, 0, .rw, 1, 0, 1⟩
def Fld.FRZ_STATUS_GUST : Fld := ⟨384, .FRZ_STATUS, 63, 16, .ro, 0, 0, 281474976710655⟩
def Fld.FRZ_STATUS_COUNT : Fld := ⟨385, .FRZ_STATUS, 15, 8, .ro, 0, 0, 255⟩
def Fld.FRZ_STATUS_SOURCE : Fld := ⟨386, .FRZ_STATUS, 2, 1, .ro, 0, 0, 3⟩
def Fld.FRZ_STATUS_FROZEN : Fld := ⟨387, .FRZ_STATUS, 0, 0, .ro, 0, 0, 1⟩
def Fld.FRZ_DUMP_MIB : Fld := ⟨388, .FRZ_DUMP, 63, 32, .ro, 0, 0, 4294967295⟩
def Fld.FRZ_DUMP_SEGMENTS : Fld := ⟨389, .FRZ_DUMP, 31, 8, .ro, 0, 0, 16777215⟩
def Fld.FRZ_DUMP_ACTIVE : Fld := ⟨390, .FRZ_DUMP, 0, 0, .ro, 0, 0, 1⟩
def Fld.KVW_ROOT_BASE_BASE : Fld := ⟨391, .KVW_ROOT_BASE, 51, 12, .rw, 0, 0, 1099511627775⟩
def Fld.KVW_ROOT_COUNT_COUNT : Fld := ⟨392, .KVW_ROOT_COUNT, 23, 0, .rw, 0, 0, 16777215⟩
def Fld.KVW_MOVE_STATUS_PAGES_MOVED : Fld := ⟨393, .KVW_MOVE_STATUS, 63, 32, .rc, 0, 0, 4294967295⟩
def Fld.KVW_MOVE_STATUS_IN_FLIGHT : Fld := ⟨394, .KVW_MOVE_STATUS, 15, 0, .ro, 0, 0, 65535⟩
def Fld.KVW_STAGE_MAX_WORDS : Fld := ⟨395, .KVW_STAGE, 63, 32, .rc, 0, 0, 4294967295⟩
def Fld.KVW_STAGE_WORDS : Fld := ⟨396, .KVW_STAGE, 18, 0, .ro, 0, 0, 524287⟩
def Fld.CORE_SITE_LOGICAL : Fld := ⟨397, .CORE_SITE, 15, 8, .ro, 0, 0, 255⟩
def Fld.CORE_SITE_SPARE_SITE : Fld := ⟨398, .CORE_SITE, 7, 7, .ro, 0, 0, 1⟩
def Fld.CORE_SITE_SITE : Fld := ⟨399, .CORE_SITE, 6, 0, .ro, 0, 0, 127⟩
def Fld.CORE_ARR_STATUS_QUEUE : Fld := ⟨400, .CORE_ARR_STATUS, 11, 8, .ro, 0, 0, 15⟩
def Fld.CORE_ARR_STATUS_LOADING : Fld := ⟨401, .CORE_ARR_STATUS, 7, 4, .ro, 0, 0, 15⟩
def Fld.CORE_ARR_STATUS_STREAMING : Fld := ⟨402, .CORE_ARR_STATUS, 3, 0, .ro, 0, 0, 15⟩
def Fld.CORE_FEEDER_STATS_SLOTS : Fld := ⟨403, .CORE_FEEDER_STATS, 63, 32, .rc, 0, 0, 4294967295⟩
def Fld.CORE_FEEDER_STATS_STALL_CYCLES : Fld := ⟨404, .CORE_FEEDER_STATS, 31, 0, .rc, 0, 0, 4294967295⟩
def Fld.CORE_NUM_FLAGS_NONFINITE_IN : Fld := ⟨405, .CORE_NUM_FLAGS, 6, 6, .w1c, 0, 0, 1⟩
def Fld.CORE_NUM_FLAGS_SCALE_NAN : Fld := ⟨406, .CORE_NUM_FLAGS, 5, 5, .w1c, 0, 0, 1⟩
def Fld.CORE_NUM_FLAGS_UNDERFLOW : Fld := ⟨407, .CORE_NUM_FLAGS, 4, 4, .w1c, 0, 0, 1⟩
def Fld.CORE_NUM_FLAGS_NAN_TO_INT : Fld := ⟨408, .CORE_NUM_FLAGS, 3, 3, .w1c, 0, 0, 1⟩
def Fld.CORE_NUM_FLAGS_SATURATED : Fld := ⟨409, .CORE_NUM_FLAGS, 2, 2, .w1c, 0, 0, 1⟩
def Fld.CORE_NUM_FLAGS_OVERFLOW : Fld := ⟨410, .CORE_NUM_FLAGS, 1, 1, .w1c, 0, 0, 1⟩
def Fld.CORE_NUM_FLAGS_INVALID : Fld := ⟨411, .CORE_NUM_FLAGS, 0, 0, .w1c, 0, 0, 1⟩
def Fld.CORE_PROG_STATUS_SLOT : Fld := ⟨412, .CORE_PROG_STATUS, 19, 8, .ro, 0, 0, 4095⟩
def Fld.CORE_PROG_STATUS_STAGED : Fld := ⟨413, .CORE_PROG_STATUS, 4, 4, .ro, 0, 0, 1⟩
def Fld.CORE_PROG_STATUS_BANK : Fld := ⟨414, .CORE_PROG_STATUS, 3, 3, .ro, 0, 0, 1⟩
def Fld.CORE_PROG_STATUS_STATE : Fld := ⟨415, .CORE_PROG_STATUS, 2, 0, .ro, 0, 0, 7⟩
def Fld.CORE_TRAP_INFO_CAUSE : Fld := ⟨416, .CORE_TRAP_INFO, 63, 60, .ro, 0, 0, 15⟩
def Fld.CORE_TRAP_INFO_PC : Fld := ⟨417, .CORE_TRAP_INFO, 47, 0, .ro, 0, 0, 281474976710655⟩
def Fld.CORE_POOL_ECC_UNCORRECTABLE : Fld := ⟨418, .CORE_POOL_ECC, 31, 16, .ro, 0, 0, 65535⟩
def Fld.CORE_POOL_ECC_CORRECTED : Fld := ⟨419, .CORE_POOL_ECC, 15, 0, .ro, 0, 0, 65535⟩
def Fld.ARR_CTL_BUSY : Fld := ⟨420, .ARR_CTL, 1, 1, .ro, 0, 0, 1⟩
def Fld.ARR_CTL_ENABLE : Fld := ⟨421, .ARR_CTL, 0, 0, .rw, 1, 0, 1⟩
def Fld.ARR_COL_MAP_SPARE_USED : Fld := ⟨422, .ARR_COL_MAP, 7, 7, .ro, 0, 0, 1⟩
def Fld.ARR_COL_MAP_SPARE_FOR : Fld := ⟨423, .ARR_COL_MAP, 6, 0, .ro, 127, 0, 127⟩
def Fld.ARR_CHK_STATUS_VECTOR : Fld := ⟨424, .ARR_CHK_STATUS, 40, 32, .ro, 0, 0, 511⟩
def Fld.ARR_CHK_STATUS_TAG : Fld := ⟨425, .ARR_CHK_STATUS, 31, 24, .ro, 0, 0, 255⟩
def Fld.ARR_CHK_STATUS_LOC : Fld := ⟨426, .ARR_CHK_STATUS, 22, 16, .ro, 0, 0, 127⟩
def Fld.ARR_CHK_STATUS_PHYS : Fld := ⟨427, .ARR_CHK_STATUS, 8, 2, .ro, 0, 0, 127⟩
def Fld.ARR_CHK_STATUS_OVERFLOW : Fld := ⟨428, .ARR_CHK_STATUS, 1, 1, .w1c, 0, 0, 1⟩
def Fld.ARR_CHK_STATUS_VALID : Fld := ⟨429, .ARR_CHK_STATUS, 0, 0, .w1c, 0, 0, 1⟩
def Fld.ARR_CHK_COUNT_MISMATCHES : Fld := ⟨430, .ARR_CHK_COUNT, 31, 16, .ro, 0, 0, 65535⟩
def Fld.ARR_CHK_COUNT_ACC_CORRECTED : Fld := ⟨431, .ARR_CHK_COUNT, 15, 0, .ro, 0, 0, 65535⟩
def Fld.ARR_INJECT_ARM : Fld := ⟨432, .ARR_INJECT, 31, 31, .wo, 0, 0, 1⟩
def Fld.ARR_INJECT_STREAM : Fld := ⟨433, .ARR_INJECT, 30, 30, .rw, 0, 0, 1⟩
def Fld.ARR_INJECT_PHYS_COLUMN : Fld := ⟨434, .ARR_INJECT, 22, 16, .rw, 0, 0, 66⟩
def Fld.ARR_INJECT_DELTA : Fld := ⟨435, .ARR_INJECT, 15, 0, .rw, 1, 0, 65535⟩
def Fld.VEC_RNG_KEY_K1 : Fld := ⟨436, .VEC_RNG_KEY, 63, 32, .plan, 0, 0, 4294967295⟩
def Fld.VEC_RNG_KEY_K0 : Fld := ⟨437, .VEC_RNG_KEY, 31, 0, .plan, 0, 0, 4294967295⟩
def Fld.VEC_RESULT_LANE : Fld := ⟨438, .VEC_RESULT, 8, 0, .ro, 0, 0, 511⟩
def Fld.VEC_STATUS_ISSUED : Fld := ⟨439, .VEC_STATUS, 63, 32, .rc, 0, 0, 4294967295⟩
def Fld.VEC_STATUS_TOPK_COUNT : Fld := ⟨440, .VEC_STATUS, 13, 7, .ro, 0, 0, 127⟩
def Fld.VEC_STATUS_QUEUE : Fld := ⟨441, .VEC_STATUS, 4, 0, .ro, 0, 0, 31⟩
def Fld.FEN_CTL_SCRUB_ROWS : Fld := ⟨442, .FEN_CTL, 23, 16, .rw, 128, 0, 255⟩
def Fld.FEN_CTL_POSTPONE_MAX : Fld := ⟨443, .FEN_CTL, 11, 8, .rw, 8, 2, 8⟩
def Fld.FEN_CTL_FORCE_BAND : Fld := ⟨444, .FEN_CTL, 3, 2, .rw, 0, 0, 3⟩
def Fld.FEN_REFRESH_STATUS_MAX_DEBT : Fld := ⟨445, .FEN_REFRESH_STATUS, 27, 24, .rc, 0, 0, 15⟩
def Fld.FEN_REFRESH_STATUS_L0_TEMP : Fld := ⟨446, .FEN_REFRESH_STATUS, 15, 8, .ro, 0, 0, 255⟩
def Fld.FEN_REFRESH_STATUS_SENSOR_FAILED : Fld := ⟨447, .FEN_REFRESH_STATUS, 3, 3, .ro, 0, 0, 1⟩
def Fld.FEN_REFRESH_STATUS_BAND : Fld := ⟨448, .FEN_REFRESH_STATUS, 1, 0, .ro, 0, 0, 3⟩
def Fld.FEN_BANK_CTL_SPARE_ROWS_USED : Fld := ⟨449, .FEN_BANK_CTL, 15, 8, .ro, 0, 0, 255⟩
def Fld.FEN_BANK_CTL_DEBT : Fld := ⟨450, .FEN_BANK_CTL, 7, 4, .ro, 0, 0, 15⟩
def Fld.FEN_BANK_CTL_GRAIN : Fld := ⟨451, .FEN_BANK_CTL, 2, 2, .ro, 0, 0, 1⟩
def Fld.FEN_BANK_CTL_RETIRED : Fld := ⟨452, .FEN_BANK_CTL, 1, 1, .ro, 0, 0, 1⟩
def Fld.FEN_BOND_SPARE_VALID : Fld := ⟨453, .FEN_BOND_SPARE, 31, 31, .ro, 0, 0, 1⟩
def Fld.FEN_BOND_SPARE_TARGET : Fld := ⟨454, .FEN_BOND_SPARE, 7, 0, .ro, 0, 0, 255⟩
def Fld.FEN_ECC_COUNT_ONDIE_CORRECTED : Fld := ⟨455, .FEN_ECC_COUNT, 63, 48, .ro, 0, 0, 65535⟩
def Fld.FEN_ECC_COUNT_SLICE_CORRECTED : Fld := ⟨456, .FEN_ECC_COUNT, 47, 32, .ro, 0, 0, 65535⟩
def Fld.FEN_ECC_COUNT_UNCORRECTABLE : Fld := ⟨457, .FEN_ECC_COUNT, 31, 16, .ro, 0, 0, 65535⟩
def Fld.FEN_ECC_COUNT_SCRUB_CORRECTED : Fld := ⟨458, .FEN_ECC_COUNT, 15, 0, .ro, 0, 0, 65535⟩
def Fld.FEN_ECC_LAST_VALID : Fld := ⟨459, .FEN_ECC_LAST, 63, 63, .w1c, 0, 0, 1⟩
def Fld.FEN_ECC_LAST_UNCORR : Fld := ⟨460, .FEN_ECC_LAST, 62, 62, .ro, 0, 0, 1⟩
def Fld.FEN_ECC_LAST_SCRUB : Fld := ⟨461, .FEN_ECC_LAST, 61, 61, .ro, 0, 0, 1⟩
def Fld.FEN_ECC_LAST_SYMBOL : Fld := ⟨462, .FEN_ECC_LAST, 60, 54, .ro, 0, 0, 127⟩
def Fld.FEN_ECC_LAST_TRANSFER : Fld := ⟨463, .FEN_ECC_LAST, 30, 6, .ro, 0, 0, 33554431⟩
def Fld.FEN_SYMBOL_LAST_REPEAT : Fld := ⟨464, .FEN_SYMBOL_LAST, 31, 16, .ro, 0, 0, 65535⟩
def Fld.FEN_SYMBOL_LAST_SYMBOL : Fld := ⟨465, .FEN_SYMBOL_LAST, 6, 0, .ro, 0, 0, 127⟩
def Fld.FEN_SCRUB_STATUS_PASSES : Fld := ⟨466, .FEN_SCRUB_STATUS, 31, 16, .ro, 0, 0, 65535⟩
def Fld.FEN_SCRUB_STATUS_ROW : Fld := ⟨467, .FEN_SCRUB_STATUS, 12, 0, .ro, 0, 0, 8191⟩
def Fld.FEN_FLIP_CTL_DONE : Fld := ⟨468, .FEN_FLIP_CTL, 2, 2, .w1c, 0, 0, 1⟩
def Fld.FEN_FLIP_CTL_TARGET : Fld := ⟨469, .FEN_FLIP_CTL, 1, 1, .rw, 0, 0, 1⟩
def Fld.FEN_FLIP_CTL_ARM : Fld := ⟨470, .FEN_FLIP_CTL, 0, 0, .w1s, 0, 0, 1⟩
def Fld.FEN_FLIP_DATA_MASK : Fld := ⟨471, .FEN_FLIP_DATA, 63, 0, .rw, 0, 0, 18446744073709551615⟩
def Fld.FEN_FLIP_CHECK_MASK : Fld := ⟨472, .FEN_FLIP_CHECK, 31, 0, .rw, 0, 0, 4294967295⟩
def Fld.FEN_STATS_CONFLICTS : Fld := ⟨473, .FEN_STATS, 63, 32, .rc, 0, 0, 4294967295⟩
def Fld.FEN_STATS_REFRESH_WAIT_NS : Fld := ⟨474, .FEN_STATS, 31, 0, .rc, 0, 0, 4294967295⟩
def Fld.REED_CTL_GRAIN_MAX : Fld := ⟨475, .REED_CTL, 12, 8, .rw, 16, 2, 16⟩
def Fld.REED_CTL_ENABLE : Fld := ⟨476, .REED_CTL, 0, 0, .rw, 1, 0, 1⟩
def Fld.REED_STATUS_BANKS_HELD : Fld := ⟨477, .REED_STATUS, 23, 16, .ro, 0, 0, 255⟩
def Fld.REED_STATUS_THROTTLE : Fld := ⟨478, .REED_STATUS, 15, 12, .ro, 0, 0, 15⟩
def Fld.REED_STATUS_QUEUE : Fld := ⟨479, .REED_STATUS, 4, 0, .ro, 0, 0, 31⟩
def Fld.REED_STATS_GRAINS : Fld := ⟨480, .REED_STATS, 63, 32, .rc, 0, 0, 4294967295⟩
def Fld.REED_STATS_BOUNDARY_WAIT_NS : Fld := ⟨481, .REED_STATS, 31, 0, .rc, 0, 0, 4294967295⟩
def Fld.REED_BUS_STATS_BUSY_NS : Fld := ⟨482, .REED_BUS_STATS, 63, 32, .rc, 0, 0, 4294967295⟩
def Fld.REED_BUS_STATS_TRANSFERS : Fld := ⟨483, .REED_BUS_STATS, 31, 0, .rc, 0, 0, 4294967295⟩
def Fld.REED_FAULT_VALID : Fld := ⟨484, .REED_FAULT, 63, 63, .w1c, 0, 0, 1⟩
def Fld.REED_FAULT_BANK : Fld := ⟨485, .REED_FAULT, 62, 56, .ro, 0, 0, 127⟩
def Fld.REED_FAULT_TAG : Fld := ⟨486, .REED_FAULT, 55, 48, .ro, 0, 0, 255⟩
def Fld.REED_FAULT_OP : Fld := ⟨487, .REED_FAULT, 47, 44, .ro, 0, 0, 15⟩
def Fld.REED_FAULT_REASON : Fld := ⟨488, .REED_FAULT, 43, 41, .ro, 0, 0, 7⟩
def Fld.REED_FAULT_ROW : Fld := ⟨489, .REED_FAULT, 12, 0, .ro, 0, 0, 8191⟩
def Fld.ATT_CTL_ENABLE : Fld := ⟨490, .ATT_CTL, 0, 0, .rw, 1, 0, 1⟩
def Fld.ATT_STATUS_RUNNING : Fld := ⟨491, .ATT_STATUS, 6, 4, .ro, 0, 0, 7⟩
def Fld.ATT_STATUS_QUEUE : Fld := ⟨492, .ATT_STATUS, 3, 0, .ro, 0, 0, 15⟩
def Fld.ATT_ROPE_FREQ_FREQ : Fld := ⟨493, .ATT_ROPE_FREQ, 31, 0, .plan, 0, 0, 4294967295⟩
def Fld.ATT_STATS_OPS : Fld := ⟨494, .ATT_STATS, 63, 32, .rc, 0, 0, 4294967295⟩
def Fld.ATT_STATS_SIDE_PAGES : Fld := ⟨495, .ATT_STATS, 31, 0, .rc, 0, 0, 4294967295⟩
def Fld.ATT_ROW_STATS_EMPTY_ROWS : Fld := ⟨496, .ATT_ROW_STATS, 63, 32, .rc, 0, 0, 4294967295⟩
def Fld.ATT_ROW_STATS_NONFINITE_ROWS : Fld := ⟨497, .ATT_ROW_STATS, 31, 0, .rc, 0, 0, 4294967295⟩
def Fld.ATT_FAULT_VALID : Fld := ⟨498, .ATT_FAULT, 63, 63, .w1c, 0, 0, 1⟩
def Fld.ATT_FAULT_REASON : Fld := ⟨499, .ATT_FAULT, 62, 60, .ro, 0, 0, 7⟩
def Fld.ATT_FAULT_TAG : Fld := ⟨500, .ATT_FAULT, 59, 52, .ro, 0, 0, 255⟩
def Fld.ATT_FAULT_STREAM : Fld := ⟨501, .ATT_FAULT, 47, 32, .ro, 0, 0, 65535⟩
def Fld.ATT_FAULT_POSITION : Fld := ⟨502, .ATT_FAULT, 31, 0, .ro, 0, 0, 4294967295⟩
def Fld.KVW_CTL_ENABLE : Fld := ⟨503, .KVW_CTL, 0, 0, .rw, 1, 0, 1⟩
def Fld.KVW_STATUS_LB_VALID : Fld := ⟨504, .KVW_STATUS, 23, 16, .ro, 0, 0, 255⟩
def Fld.KVW_STATUS_WALKS : Fld := ⟨505, .KVW_STATUS, 11, 8, .ro, 0, 0, 15⟩
def Fld.KVW_STATUS_QUEUE : Fld := ⟨506, .KVW_STATUS, 4, 0, .ro, 0, 0, 31⟩
def Fld.KVW_LB_STATS_HITS : Fld := ⟨507, .KVW_LB_STATS, 63, 32, .rc, 0, 0, 4294967295⟩
def Fld.KVW_LB_STATS_MISSES : Fld := ⟨508, .KVW_LB_STATS, 31, 0, .rc, 0, 0, 4294967295⟩
def Fld.KVW_APPEND_STATS_PAIRS : Fld := ⟨509, .KVW_APPEND_STATS, 63, 32, .rc, 0, 0, 4294967295⟩
def Fld.KVW_APPEND_STATS_SATURATED : Fld := ⟨510, .KVW_APPEND_STATS, 31, 0, .rc, 0, 0, 4294967295⟩
def Fld.KVW_PAGE_STATS_NEW_PAGES : Fld := ⟨511, .KVW_PAGE_STATS, 63, 32, .rc, 0, 0, 4294967295⟩
def Fld.KVW_PAGE_STATS_COPIES : Fld := ⟨512, .KVW_PAGE_STATS, 31, 0, .rc, 0, 0, 4294967295⟩
def Fld.KVW_FAULT_VALID : Fld := ⟨513, .KVW_FAULT, 63, 63, .w1c, 0, 0, 1⟩
def Fld.KVW_FAULT_REASON : Fld := ⟨514, .KVW_FAULT, 62, 60, .ro, 0, 0, 7⟩
def Fld.KVW_FAULT_TAG : Fld := ⟨515, .KVW_FAULT, 59, 52, .ro, 0, 0, 255⟩
def Fld.KVW_FAULT_STREAM : Fld := ⟨516, .KVW_FAULT, 47, 32, .ro, 0, 0, 65535⟩
def Fld.KVW_FAULT_POSITION : Fld := ⟨517, .KVW_FAULT, 31, 0, .ro, 0, 0, 4294967295⟩
def Fld.KVW_FAULT_ROOT_ROOT : Fld := ⟨518, .KVW_FAULT_ROOT, 31, 0, .ro, 0, 0, 4294967295⟩
def Fld.ZYN_NET_STATS_REQUESTS : Fld := ⟨519, .ZYN_NET_STATS, 63, 32, .rc, 0, 0, 4294967295⟩
def Fld.ZYN_NET_STATS_FALLBACK : Fld := ⟨520, .ZYN_NET_STATS, 31, 0, .rc, 0, 0, 4294967295⟩

/-- The fields of a register, as its table lists them. -/
def RegName.fields : RegName → List Fld
  | .HST_ID => [.HST_ID_DEVICE, .HST_ID_REV]
  | .HST_LINK_STATUS => [.HST_LINK_STATUS_WIDTH, .HST_LINK_STATUS_SPEED, .HST_LINK_STATUS_FLIT, .HST_LINK_STATUS_L0P, .HST_LINK_STATUS_UP]
  | .HST_CP_STATUS => [.HST_CP_STATUS_IN_PROGRESS, .HST_CP_STATUS_DOLDRUMS, .HST_CP_STATUS_READY]
  | .HST_FUNC_CTL => [.HST_FUNC_CTL_BOUND, .HST_FUNC_CTL_PARTITION, .HST_FUNC_CTL_NOTICE_RING, .HST_FUNC_CTL_ENABLE_NOTICES]
  | .HST_WIN => [.HST_WIN_BASE, .HST_WIN_ENABLE]
  | .HST_BAD_LAST => [.HST_BAD_LAST_VALID, .HST_BAD_LAST_RING, .HST_BAD_LAST_TAG, .HST_BAD_LAST_REASON, .HST_BAD_LAST_OPCODE]
  | .HST_RING_BASE => [.HST_RING_BASE_BASE]
  | .HST_RING_CQ_BASE => [.HST_RING_CQ_BASE_BASE]
  | .HST_RING_CTL => [.HST_RING_CTL_ENABLE, .HST_RING_CTL_SQ_DEVICE, .HST_RING_CTL_CQ_DEVICE, .HST_RING_CTL_OWNER, .HST_RING_CTL_PRIORITY, .HST_RING_CTL_SIZE, .HST_RING_CTL_VECTOR, .HST_RING_CTL_COALESCE_COUNT, .HST_RING_CTL_COALESCE_US]
  | .HST_RING_STATUS => [.HST_RING_STATUS_ERROR, .HST_RING_STATUS_ERR_KIND, .HST_RING_STATUS_IN_PROGRESS, .HST_RING_STATUS_SQ_HEAD]
  | .GST_PERIOD => [.GST_PERIOD_PERIOD]
  | .GST_LULL => [.GST_LULL_LULL]
  | .GST_NUMBER => [.GST_NUMBER_NUMBER]
  | .GST_SYNC_CTL => [.GST_SYNC_CTL_RELAY_MASK, .GST_SYNC_CTL_UPSTREAM_PORT, .GST_SYNC_CTL_MASTER, .GST_SYNC_CTL_SRC]
  | .GST_SYNC_STATUS => [.GST_SYNC_STATUS_OFFSET, .GST_SYNC_STATUS_PIN_REJECT, .GST_SYNC_STATUS_NUM_MISMATCH, .GST_SYNC_STATUS_LOSS, .GST_SYNC_STATUS_LOCKED]
  | .GST_PART_STATE => [.GST_PART_STATE_REWINDS_IN_WINDOW, .GST_PART_STATE_LAST_CAUSE, .GST_PART_STATE_RERUN, .GST_PART_STATE_STATE]
  | .GST_PART_STEP => [.GST_PART_STEP_STEP]
  | .GST_PART_COMMIT => [.GST_PART_COMMIT_GUST]
  | .GST_PART_REWINDS => [.GST_PART_REWINDS_COUNT]
  | .BOOT_PKG_ID => [.BOOT_PKG_ID_PKG_REV, .BOOT_PKG_ID_COMPUTE_DIES, .BOOT_PKG_ID_SITES_PER_DIE, .BOOT_PKG_ID_MARSH_STACKS, .BOOT_PKG_ID_OPT_ENGINES, .BOOT_PKG_ID_BASE_DIES]
  | .BOOT_DIE_INFO => [.BOOT_DIE_INFO_DIE_STEP, .BOOT_DIE_INFO_STACK_STEP, .BOOT_DIE_INFO_BASE_DIE]
  | .BOOT_THERM_PATH => [.BOOT_THERM_PATH_PLATE_RTH, .BOOT_THERM_PATH_STACK_RTH]
  | .BOOT_CTL => [.BOOT_CTL_WARM_RESET]
  | .BOOT_STATUS => [.BOOT_STATUS_DURATION, .BOOT_STATUS_WARM_REFUSED, .BOOT_STATUS_RETENTION_BAD, .BOOT_STATUS_PUF_FAIL, .BOOT_STATUS_UNMAPPED, .BOOT_STATUS_START, .BOOT_STATUS_STEP]
  | .BOOT_FW => [.BOOT_FW_SVN_FLOOR, .BOOT_FW_SVN, .BOOT_FW_CORE_VERSION, .BOOT_FW_CP_VERSION]
  | .BOOT_SERIAL => [.BOOT_SERIAL_SERIAL]
  | .BOOT_BIST => [.BOOT_BIST_SITES, .BOOT_BIST_COLUMNS, .BOOT_BIST_FEN_ROWS, .BOOT_BIST_MARSH_ROWS, .BOOT_BIST_SRAM_WORDS]
  | .BOOT_BIST_COUNT => [.BOOT_BIST_COUNT_OVERFLOW, .BOOT_BIST_COUNT_ENTRIES]
  | .BOOT_BIST_ENTRY => [.BOOT_BIST_ENTRY_TEST, .BOOT_BIST_ENTRY_UNIT, .BOOT_BIST_ENTRY_INDEX, .BOOT_BIST_ENTRY_DETAIL]
  | .BOOT_PINS => [.BOOT_PINS_REFCLK_LOST, .BOOT_PINS_REFCLK_OK, .BOOT_PINS_TRAY_PRESENT, .BOOT_PINS_PERST_N, .BOOT_PINS_STILL_N, .BOOT_PINS_GUST_SYNC, .BOOT_PINS_TRIP_DRIVEN, .BOOT_PINS_SMB_ADDR]
  | .LIC_STATE => [.LIC_STATE_LAPSED, .LIC_STATE_IN_RECORD, .LIC_STATE_IN_FORCE]
  | .LIC_RECORD => [.LIC_RECORD_EXPIRY_HOURS, .LIC_RECORD_SEQUENCE]
  | .LIC_HOURS => [.LIC_HOURS_HOURS]
  | .PART_STATUS => [.PART_STATUS_STATE, .PART_STATUS_VF, .PART_STATUS_FW_SLOT, .PART_STATUS_LIC, .PART_STATUS_DIE_MASK]
  | .PART_SHC => [.PART_SHC_BYTES, .PART_SHC_BASE]
  | .PART_DMA => [.PART_DMA_MASK]
  | .PART_MARSH => [.PART_MARSH_SHARE]
  | .PART_LOST => [.PART_LOST_IN_WINDOW, .PART_LOST_TOTAL]
  | .PART_VOTE_STATS => [.PART_VOTE_STATS_REPAIRED, .PART_VOTE_STATS_LOST]
  | .PART_REPAIR => [.PART_REPAIR_VERSION, .PART_REPAIR_SAVED, .PART_REPAIR_MIGRATING]
  | .PART_FW => [.PART_FW_CURRENT, .PART_FW_PREVIOUS]
  | .PART_DOLDRUMS => [.PART_DOLDRUMS_ACTIVE, .PART_DOLDRUMS_HELD, .PART_DOLDRUMS_CAUSE, .PART_DOLDRUMS_ENTRIES]
  | .EVT_LOG_BASE => [.EVT_LOG_BASE_BASE]
  | .EVT_LOG_CTL => [.EVT_LOG_CTL_ENABLE, .EVT_LOG_CTL_DEVICE, .EVT_LOG_CTL_SIZE, .EVT_LOG_CTL_HOLDOFF_US]
  | .EVT_LOG_STATUS => [.EVT_LOG_STATUS_DROPPED, .EVT_LOG_STATUS_PHASE, .EVT_LOG_STATUS_WRITE]
  | .DMA_REG => [.DMA_REG_CEILING, .DMA_REG_GUARANTEE]
  | .DMA_REG_ACC => [.DMA_REG_ACC_BYTES_KIB, .DMA_REG_ACC_WAIT_US, .DMA_REG_ACC_CEILING_HIT, .DMA_REG_ACC_REJECT]
  | .DMA_CH_CTL => [.DMA_CH_CTL_ENABLE, .DMA_CH_CTL_STOP, .DMA_CH_CTL_PLAN_MODE, .DMA_CH_CTL_RING_HOST, .DMA_CH_CTL_PARTITION, .DMA_CH_CTL_SIZE, .DMA_CH_CTL_VECTOR, .DMA_CH_CTL_POLL]
  | .DMA_CH_RING => [.DMA_CH_RING_BASE]
  | .DMA_CH_DONE_ADDR => [.DMA_CH_DONE_ADDR_VALID, .DMA_CH_DONE_ADDR_OFFSET]
  | .DMA_CH_STATUS => [.DMA_CH_STATUS_HEAD, .DMA_CH_STATUS_LAST_STATUS, .DMA_CH_STATUS_LAST_TAG, .DMA_CH_STATUS_ABANDONED, .DMA_CH_STATUS_SUSPENDED, .DMA_CH_STATUS_STATE]
  | .DMA_CH_COMMIT => [.DMA_CH_COMMIT_DONE, .DMA_CH_COMMIT_HEAD]
  | .DMA_CH_COUNT => [.DMA_CH_COUNT_DESCRIPTORS, .DMA_CH_COUNT_KIB]
  | .SHC_CTL => [.SHC_CTL_SCRUB_KIB]
  | .SHC_ECC_COUNT => [.SHC_ECC_COUNT_UNCORRECTABLE, .SHC_ECC_COUNT_CORRECTED]
  | .SHC_GROUP_BASE => [.SHC_GROUP_BASE_BASE]
  | .SHC_STATS => [.SHC_STATS_ATOMICS, .SHC_STATS_GROUPS]
  | .SHC_REG => [.SHC_REG_CEILING, .SHC_REG_GUARANTEE]
  | .SHC_REG_ACC => [.SHC_REG_ACC_BYTES_KIB, .SHC_REG_ACC_WAIT_US, .SHC_REG_ACC_CEILING_HIT, .SHC_REG_ACC_REJECT]
  | .MRS_CTL => [.MRS_CTL_SCRUB_ROWS, .MRS_CTL_POSTPONE_MAX, .MRS_CTL_FORCE_BAND]
  | .MRS_STATUS => [.MRS_STATUS_TEMP1, .MRS_STATUS_TEMP0, .MRS_STATUS_MAX_DEBT, .MRS_STATUS_SENSOR1_FAILED, .MRS_STATUS_SENSOR0_FAILED, .MRS_STATUS_BAND]
  | .MRS_SPARE => [.MRS_SPARE_UNCORR_COPIED, .MRS_SPARE_PROGRESS, .MRS_SPARE_STATE, .MRS_SPARE_TARGET]
  | .MRS_ECC_COUNT => [.MRS_ECC_COUNT_ONDIE_CORRECTED, .MRS_ECC_COUNT_SLICE_CORRECTED, .MRS_ECC_COUNT_UNCORRECTABLE, .MRS_ECC_COUNT_SCRUB_CORRECTED]
  | .MRS_ECC_LAST => [.MRS_ECC_LAST_VALID, .MRS_ECC_LAST_UNCORR, .MRS_ECC_LAST_SCRUB, .MRS_ECC_LAST_SYMBOL, .MRS_ECC_LAST_CHANNEL, .MRS_ECC_LAST_TRANSFER]
  | .MRS_FLIP_DATA => [.MRS_FLIP_DATA_MASK]
  | .MRS_FLIP_CHECK => [.MRS_FLIP_CHECK_MASK]
  | .MRS_FLIP_CTL => [.MRS_FLIP_CTL_CHANNEL, .MRS_FLIP_CTL_DONE, .MRS_FLIP_CTL_TARGET, .MRS_FLIP_CTL_ARM]
  | .MRS_REG => [.MRS_REG_CEILING, .MRS_REG_GUARANTEE]
  | .MRS_REG_ACC => [.MRS_REG_ACC_BYTES_KIB, .MRS_REG_ACC_WAIT_US, .MRS_REG_ACC_CEILING_HIT, .MRS_REG_ACC_REJECT]
  | .PEAT_REG => [.PEAT_REG_CEILING, .PEAT_REG_GUARANTEE]
  | .PEAT_REG_ACC => [.PEAT_REG_ACC_BYTES_KIB, .PEAT_REG_ACC_WAIT_US, .PEAT_REG_ACC_CEILING_HIT, .PEAT_REG_ACC_REJECT]
  | .PEAT_CTL => [.PEAT_CTL_ACTIVE_MAX, .PEAT_CTL_DISTURB_EVENT, .PEAT_CTL_ENABLE]
  | .PEAT_STATE => [.PEAT_STATE_COUNTERS_STALE, .PEAT_STATE_ACTIVE, .PEAT_STATE_READ_OK, .PEAT_STATE_WRITE_OK]
  | .PEAT_TEMP => [.PEAT_TEMP_T3, .PEAT_TEMP_T2, .PEAT_TEMP_T1, .PEAT_TEMP_T0]
  | .PEAT_WEAR_CTL => [.PEAT_WEAR_CTL_RATE]
  | .PEAT_WEAR_STATUS => [.PEAT_WEAR_STATUS_USED_GB, .PEAT_WEAR_STATUS_REFUSED]
  | .PEAT_LDPC_COUNT => [.PEAT_LDPC_COUNT_UNCORRECTABLE, .PEAT_LDPC_COUNT_SOFT, .PEAT_LDPC_COUNT_RETRY]
  | .PEAT_LDPC_LAST => [.PEAT_LDPC_LAST_VALID, .PEAT_LDPC_LAST_LEVEL, .PEAT_LDPC_LAST_ADDRESS]
  | .PEAT_DIE_OWNER => [.PEAT_DIE_OWNER_OWNER]
  | .PEAT_MAP_STATUS => [.PEAT_MAP_STATUS_REPAIRED, .PEAT_MAP_STATUS_PENDING]
  | .ZYN_LINK_CTL => [.ZYN_LINK_CTL_TEMP_DELTA, .ZYN_LINK_CTL_BG_RETRAIN]
  | .ZYN_LINK_STATUS => [.ZYN_LINK_STATUS_TRAIN_TEMP, .ZYN_LINK_STATUS_GROUP, .ZYN_LINK_STATUS_CAPS, .ZYN_LINK_STATUS_VERSION, .ZYN_LINK_STATUS_STATE]
  | .ZYN_LINK_ERR => [.ZYN_LINK_ERR_EXHAUSTED, .ZYN_LINK_ERR_REPLAYS, .ZYN_LINK_ERR_CRC_ERRORS]
  | .ZYN_WIRE_SPARE => [.ZYN_WIRE_SPARE_VALID, .ZYN_WIRE_SPARE_NEW, .ZYN_WIRE_SPARE_TARGET]
  | .ZYN_WIRE_WORST => [.ZYN_WIRE_WORST_COUNT, .ZYN_WIRE_WORST_DIR, .ZYN_WIRE_WORST_WIRE]
  | .ZYN_ROUTE => [.ZYN_ROUTE_ROUTE]
  | .ZYN_TRANSIT => [.ZYN_TRANSIT_ANSWERED, .ZYN_TRANSIT_STATE]
  | .ZYN_UCIE_STATUS => [.ZYN_UCIE_STATUS_PORTS, .ZYN_UCIE_STATUS_RATE, .ZYN_UCIE_STATUS_MODULES, .ZYN_UCIE_STATUS_REPAIRED, .ZYN_UCIE_STATUS_UP]
  | .XNI_CTL => [.XNI_CTL_MARKER_LEAD, .XNI_CTL_TIMEOUT]
  | .XNI_MODULE_ID => [.XNI_MODULE_ID_ID]
  | .XNI_PORT_CTL => [.XNI_PORT_CTL_RETRAIN, .XNI_PORT_CTL_ENABLE]
  | .XNI_PORT_STATUS => [.XNI_PORT_STATUS_PEER_ID, .XNI_PORT_STATUS_SPARES, .XNI_PORT_STATUS_STATE]
  | .XNI_PORT_DELAY => [.XNI_PORT_DELAY_DELAY]
  | .XNI_PORT_ERR => [.XNI_PORT_ERR_EXHAUSTED, .XNI_PORT_ERR_REPLAYS, .XNI_PORT_ERR_FEC_UNCORR, .XNI_PORT_ERR_FEC_SYMBOLS]
  | .XNI_LANE_SPARE => [.XNI_LANE_SPARE_VALID, .XNI_LANE_SPARE_NEW, .XNI_LANE_SPARE_LANE, .XNI_LANE_SPARE_PORT]
  | .XNI_ROUTE => [.XNI_ROUTE_VALID, .XNI_ROUTE_PORT]
  | .XNI_MBOX_BASE => [.XNI_MBOX_BASE_BASE]
  | .XNI_OUTBOX => [.XNI_OUTBOX_VALID, .XNI_OUTBOX_MAILBOX, .XNI_OUTBOX_DEST_PART, .XNI_OUTBOX_DEST_MODULE]
  | .XNI_OUTBOX_REL => [.XNI_OUTBOX_REL_RELEASED]
  | .XNI_STATS => [.XNI_STATS_DROPPED, .XNI_STATS_REFUSED, .XNI_STATS_MARKERS_IGNORED, .XNI_STATS_LIC_REFUSED]
  | .THM_CTL => [.THM_CTL_INLET_WARN, .THM_CTL_NOTICES]
  | .THM_LIMITS => [.THM_LIMITS_MEM_THROTTLE, .THM_LIMITS_LOGIC_THROTTLE, .THM_LIMITS_MEM_SHUTDOWN, .THM_LIMITS_LOGIC_SHUTDOWN]
  | .THM_STATUS => [.THM_STATUS_HOT_DIE, .THM_STATUS_HOT_SITE, .THM_STATUS_TRIPS_24H, .THM_STATUS_THROTTLED, .THM_STATUS_GUARD, .THM_STATUS_SLEEP_HEAT, .THM_STATUS_STOP, .THM_STATUS_WARN_55, .THM_STATUS_WARN_60]
  | .THM_COOLANT => [.THM_COOLANT_FLOW, .THM_COOLANT_OUTLET, .THM_COOLANT_INLET, .THM_COOLANT_PULSE_FLOW, .THM_COOLANT_FLOW_LOST, .THM_COOLANT_OUTLET_LOST, .THM_COOLANT_INLET_LOST]
  | .THM_SITE => [.THM_SITE_DIODE0, .THM_SITE_DIODE1, .THM_SITE_L0, .THM_SITE_FORECAST, .THM_SITE_LEVEL, .THM_SITE_FIT, .THM_SITE_NEED, .THM_SITE_FLOOR, .THM_SITE_L0_FAILED, .THM_SITE_DIODE1_FAILED, .THM_SITE_DIODE0_FAILED]
  | .THM_SENSOR_FAIL => [.THM_SENSOR_FAIL_PEAT, .THM_SENSOR_FAIL_MARSH]
  | .THM_IO_FAIL => [.THM_IO_FAIL_FAILED]
  | .THM_IO_TEMP => [.THM_IO_TEMP_TEMP]
  | .THM_CAL_RANGE => [.THM_CAL_RANGE_P_HI, .THM_CAL_RANGE_P_LO, .THM_CAL_RANGE_FLOW_HI, .THM_CAL_RANGE_FLOW_LO, .THM_CAL_RANGE_INLET_HI, .THM_CAL_RANGE_INLET_LO]
  | .THM_CAL_STATUS => [.THM_CAL_STATUS_RMS_ERROR, .THM_CAL_STATUS_REFITTED, .THM_CAL_STATUS_GUARD]
  | .THM_TRIP => [.THM_TRIP_VALID, .THM_TRIP_READING, .THM_TRIP_INDEX]
  | .THM_STATS => [.THM_STATS_THROTTLE_MS, .THM_STATS_NOTICES, .THM_STATS_DISAGREE]
  | .THM_TRAY_CTL => [.THM_TRAY_CTL_K_FACTOR, .THM_TRAY_CTL_BUS_400K]
  | .PWR_STATE => [.PWR_STATE_STATE, .PWR_STATE_TARGET, .PWR_STATE_BUSY, .PWR_STATE_CORES_OFF, .PWR_STATE_TRANSIT_OFF]
  | .PWR_STATUS => [.PWR_STATUS_CLAMP, .PWR_STATUS_OUT_OF_RANGE]
  | .PWR_LIMIT => [.PWR_LIMIT_EFFECTIVE, .PWR_LIMIT_LIMIT]
  | .PWR_LIMITER => [.PWR_LIMITER_LEVEL]
  | .PWR_RAIL => [.PWR_RAIL_VOLTAGE, .PWR_RAIL_CURRENT, .PWR_RAIL_POWER, .PWR_RAIL_ALLOWANCE]
  | .PWR_WAKE => [.PWR_WAKE_BROWNOUT, .PWR_WAKE_FROM_STATE, .PWR_WAKE_SOURCE]
  | .PWR_WAKE_CTL => [.PWR_WAKE_CTL_PERST_EN, .PWR_WAKE_CTL_SMBUS_EN, .PWR_WAKE_CTL_WAKEN_EN]
  | .PWR_AO => [.PWR_AO_OFF_LOAD]
  | .PWR_ENERGY => [.PWR_ENERGY_JOULES]
  | .MON_TIME => [.MON_TIME_NS]
  | .MON_OUT_RING => [.MON_OUT_RING_SIZE, .MON_OUT_RING_BASE, .MON_OUT_RING_ENABLE]
  | .MON_OUT_PROD => [.MON_OUT_PROD_OFFSET]
  | .MON_SLOT_BASE => [.MON_SLOT_BASE_BASE]
  | .MON_OUT_STAMP => [.MON_OUT_STAMP_STAMP]
  | .MON_OUT_STATUS => [.MON_OUT_STATUS_UNMETERED, .MON_OUT_STATUS_BAD_ADVANCE]
  | .MON_CLASS => [.MON_CLASS_BOUND, .MON_CLASS_OWNER, .MON_CLASS_OWNER_VALID]
  | .MON_CLASS_COUNT => [.MON_CLASS_COUNT_OVER, .MON_CLASS_COUNT_TOKENS]
  | .MON_CLASS_STATUS => [.MON_CLASS_STATUS_WARN_GUSTS, .MON_CLASS_STATUS_AT_RISK]
  | .FRZ_CTL => [.FRZ_CTL_RELEASE, .FRZ_CTL_PIN_EN]
  | .FRZ_STATUS => [.FRZ_STATUS_GUST, .FRZ_STATUS_COUNT, .FRZ_STATUS_SOURCE, .FRZ_STATUS_FROZEN]
  | .FRZ_DUMP => [.FRZ_DUMP_MIB, .FRZ_DUMP_SEGMENTS, .FRZ_DUMP_ACTIVE]
  | .KVW_ROOT_BASE => [.KVW_ROOT_BASE_BASE]
  | .KVW_ROOT_COUNT => [.KVW_ROOT_COUNT_COUNT]
  | .KVW_MOVE_STATUS => [.KVW_MOVE_STATUS_PAGES_MOVED, .KVW_MOVE_STATUS_IN_FLIGHT]
  | .KVW_STAGE => [.KVW_STAGE_MAX_WORDS, .KVW_STAGE_WORDS]
  | .CORE_SITE => [.CORE_SITE_LOGICAL, .CORE_SITE_SPARE_SITE, .CORE_SITE_SITE]
  | .CORE_ARR_STATUS => [.CORE_ARR_STATUS_QUEUE, .CORE_ARR_STATUS_LOADING, .CORE_ARR_STATUS_STREAMING]
  | .CORE_FEEDER_STATS => [.CORE_FEEDER_STATS_SLOTS, .CORE_FEEDER_STATS_STALL_CYCLES]
  | .CORE_NUM_FLAGS => [.CORE_NUM_FLAGS_NONFINITE_IN, .CORE_NUM_FLAGS_SCALE_NAN, .CORE_NUM_FLAGS_UNDERFLOW, .CORE_NUM_FLAGS_NAN_TO_INT, .CORE_NUM_FLAGS_SATURATED, .CORE_NUM_FLAGS_OVERFLOW, .CORE_NUM_FLAGS_INVALID]
  | .CORE_PROG_STATUS => [.CORE_PROG_STATUS_SLOT, .CORE_PROG_STATUS_STAGED, .CORE_PROG_STATUS_BANK, .CORE_PROG_STATUS_STATE]
  | .CORE_TRAP_INFO => [.CORE_TRAP_INFO_CAUSE, .CORE_TRAP_INFO_PC]
  | .CORE_POOL_ECC => [.CORE_POOL_ECC_UNCORRECTABLE, .CORE_POOL_ECC_CORRECTED]
  | .ARR_CTL => [.ARR_CTL_BUSY, .ARR_CTL_ENABLE]
  | .ARR_COL_MAP => [.ARR_COL_MAP_SPARE_USED, .ARR_COL_MAP_SPARE_FOR]
  | .ARR_CHK_STATUS => [.ARR_CHK_STATUS_VECTOR, .ARR_CHK_STATUS_TAG, .ARR_CHK_STATUS_LOC, .ARR_CHK_STATUS_PHYS, .ARR_CHK_STATUS_OVERFLOW, .ARR_CHK_STATUS_VALID]
  | .ARR_CHK_COUNT => [.ARR_CHK_COUNT_MISMATCHES, .ARR_CHK_COUNT_ACC_CORRECTED]
  | .ARR_INJECT => [.ARR_INJECT_ARM, .ARR_INJECT_STREAM, .ARR_INJECT_PHYS_COLUMN, .ARR_INJECT_DELTA]
  | .VEC_RNG_KEY => [.VEC_RNG_KEY_K1, .VEC_RNG_KEY_K0]
  | .VEC_RESULT => [.VEC_RESULT_LANE]
  | .VEC_STATUS => [.VEC_STATUS_ISSUED, .VEC_STATUS_TOPK_COUNT, .VEC_STATUS_QUEUE]
  | .FEN_CTL => [.FEN_CTL_SCRUB_ROWS, .FEN_CTL_POSTPONE_MAX, .FEN_CTL_FORCE_BAND]
  | .FEN_REFRESH_STATUS => [.FEN_REFRESH_STATUS_MAX_DEBT, .FEN_REFRESH_STATUS_L0_TEMP, .FEN_REFRESH_STATUS_SENSOR_FAILED, .FEN_REFRESH_STATUS_BAND]
  | .FEN_BANK_CTL => [.FEN_BANK_CTL_SPARE_ROWS_USED, .FEN_BANK_CTL_DEBT, .FEN_BANK_CTL_GRAIN, .FEN_BANK_CTL_RETIRED]
  | .FEN_BOND_SPARE => [.FEN_BOND_SPARE_VALID, .FEN_BOND_SPARE_TARGET]
  | .FEN_ECC_COUNT => [.FEN_ECC_COUNT_ONDIE_CORRECTED, .FEN_ECC_COUNT_SLICE_CORRECTED, .FEN_ECC_COUNT_UNCORRECTABLE, .FEN_ECC_COUNT_SCRUB_CORRECTED]
  | .FEN_ECC_LAST => [.FEN_ECC_LAST_VALID, .FEN_ECC_LAST_UNCORR, .FEN_ECC_LAST_SCRUB, .FEN_ECC_LAST_SYMBOL, .FEN_ECC_LAST_TRANSFER]
  | .FEN_SYMBOL_LAST => [.FEN_SYMBOL_LAST_REPEAT, .FEN_SYMBOL_LAST_SYMBOL]
  | .FEN_SCRUB_STATUS => [.FEN_SCRUB_STATUS_PASSES, .FEN_SCRUB_STATUS_ROW]
  | .FEN_FLIP_CTL => [.FEN_FLIP_CTL_DONE, .FEN_FLIP_CTL_TARGET, .FEN_FLIP_CTL_ARM]
  | .FEN_FLIP_DATA => [.FEN_FLIP_DATA_MASK]
  | .FEN_FLIP_CHECK => [.FEN_FLIP_CHECK_MASK]
  | .FEN_STATS => [.FEN_STATS_CONFLICTS, .FEN_STATS_REFRESH_WAIT_NS]
  | .REED_CTL => [.REED_CTL_GRAIN_MAX, .REED_CTL_ENABLE]
  | .REED_STATUS => [.REED_STATUS_BANKS_HELD, .REED_STATUS_THROTTLE, .REED_STATUS_QUEUE]
  | .REED_STATS => [.REED_STATS_GRAINS, .REED_STATS_BOUNDARY_WAIT_NS]
  | .REED_BUS_STATS => [.REED_BUS_STATS_BUSY_NS, .REED_BUS_STATS_TRANSFERS]
  | .REED_FAULT => [.REED_FAULT_VALID, .REED_FAULT_BANK, .REED_FAULT_TAG, .REED_FAULT_OP, .REED_FAULT_REASON, .REED_FAULT_ROW]
  | .ATT_CTL => [.ATT_CTL_ENABLE]
  | .ATT_STATUS => [.ATT_STATUS_RUNNING, .ATT_STATUS_QUEUE]
  | .ATT_ROPE_FREQ => [.ATT_ROPE_FREQ_FREQ]
  | .ATT_STATS => [.ATT_STATS_OPS, .ATT_STATS_SIDE_PAGES]
  | .ATT_ROW_STATS => [.ATT_ROW_STATS_EMPTY_ROWS, .ATT_ROW_STATS_NONFINITE_ROWS]
  | .ATT_FAULT => [.ATT_FAULT_VALID, .ATT_FAULT_REASON, .ATT_FAULT_TAG, .ATT_FAULT_STREAM, .ATT_FAULT_POSITION]
  | .KVW_CTL => [.KVW_CTL_ENABLE]
  | .KVW_STATUS => [.KVW_STATUS_LB_VALID, .KVW_STATUS_WALKS, .KVW_STATUS_QUEUE]
  | .KVW_LB_STATS => [.KVW_LB_STATS_HITS, .KVW_LB_STATS_MISSES]
  | .KVW_APPEND_STATS => [.KVW_APPEND_STATS_PAIRS, .KVW_APPEND_STATS_SATURATED]
  | .KVW_PAGE_STATS => [.KVW_PAGE_STATS_NEW_PAGES, .KVW_PAGE_STATS_COPIES]
  | .KVW_FAULT => [.KVW_FAULT_VALID, .KVW_FAULT_REASON, .KVW_FAULT_TAG, .KVW_FAULT_STREAM, .KVW_FAULT_POSITION]
  | .KVW_FAULT_ROOT => [.KVW_FAULT_ROOT_ROOT]
  | .ZYN_NET_STATS => [.ZYN_NET_STATS_REQUESTS, .ZYN_NET_STATS_FALLBACK]

/-- Width in bits: 32 unless the register's table states 64 (R6). -/
def RegName.width : RegName → Nat
  | .HST_WIN | .HST_BAD_LAST | .HST_RING_BASE | .HST_RING_CQ_BASE | .GST_NUMBER | .GST_PART_STEP | .GST_PART_COMMIT | .BOOT_FW | .BOOT_SERIAL | .BOOT_BIST | .BOOT_BIST_ENTRY | .LIC_RECORD | .PART_SHC | .PART_MARSH | .PART_VOTE_STATS | .EVT_LOG_BASE | .EVT_LOG_STATUS | .DMA_REG_ACC | .DMA_CH_RING | .DMA_CH_DONE_ADDR | .DMA_CH_STATUS | .DMA_CH_COMMIT | .DMA_CH_COUNT | .SHC_GROUP_BASE | .SHC_STATS | .SHC_REG_ACC | .MRS_ECC_COUNT | .MRS_ECC_LAST | .MRS_FLIP_DATA | .MRS_REG_ACC | .PEAT_REG_ACC | .PEAT_WEAR_STATUS | .PEAT_LDPC_COUNT | .PEAT_LDPC_LAST | .ZYN_LINK_ERR | .XNI_PORT_ERR | .XNI_MBOX_BASE | .XNI_OUTBOX_REL | .XNI_STATS | .THM_COOLANT | .THM_SITE | .THM_TRIP | .THM_STATS | .PWR_LIMITER | .PWR_RAIL | .PWR_ENERGY | .MON_TIME | .MON_OUT_RING | .MON_OUT_STAMP | .MON_OUT_STATUS | .MON_CLASS | .MON_CLASS_COUNT | .FRZ_STATUS | .FRZ_DUMP | .KVW_ROOT_BASE | .KVW_MOVE_STATUS | .KVW_STAGE | .CORE_FEEDER_STATS | .CORE_TRAP_INFO | .ARR_CHK_STATUS | .VEC_RNG_KEY | .VEC_STATUS | .FEN_ECC_COUNT | .FEN_ECC_LAST | .FEN_FLIP_DATA | .FEN_STATS | .REED_STATS | .REED_BUS_STATS | .REED_FAULT | .ATT_STATS | .ATT_ROW_STATS | .ATT_FAULT | .KVW_LB_STATS | .KVW_APPEND_STATS | .KVW_PAGE_STATS | .KVW_FAULT | .ZYN_NET_STATS => 64
  | _ => 32

/-- How many of the register one block holds (a module block, or the block of one site). -/
def RegName.count : RegName → Nat
  | .ZYN_UCIE_STATUS | .THM_IO_TEMP | .ARR_CTL | .ARR_COL_MAP | .ARR_CHK_STATUS | .ARR_CHK_COUNT | .ARR_INJECT | .FEN_SYMBOL_LAST => 4
  | .FEN_FLIP_DATA => 8
  | .GST_PART_STATE | .GST_PART_STEP | .GST_PART_COMMIT | .GST_PART_REWINDS | .BOOT_DIE_INFO | .BOOT_THERM_PATH | .BOOT_BIST | .PART_STATUS | .PART_SHC | .PART_DMA | .DMA_REG | .DMA_REG_ACC | .SHC_GROUP_BASE | .SHC_REG | .SHC_REG_ACC | .MRS_CTL | .MRS_STATUS | .MRS_SPARE | .MRS_ECC_COUNT | .MRS_ECC_LAST | .MRS_FLIP_CHECK | .MRS_FLIP_CTL | .PEAT_REG | .PEAT_REG_ACC | .ZYN_ROUTE | .ZYN_TRANSIT | .XNI_MBOX_BASE | .THM_CAL_RANGE | .THM_CAL_STATUS | .MON_OUT_RING | .MON_OUT_PROD | .MON_SLOT_BASE | .MON_OUT_STAMP | .MON_OUT_STATUS | .KVW_ROOT_BASE | .KVW_ROOT_COUNT | .KVW_MOVE_STATUS | .KVW_STAGE => 12
  | .HST_FUNC_CTL | .HST_WIN | .EVT_LOG_BASE | .EVT_LOG_CTL | .EVT_LOG_STATUS => 13
  | .PEAT_DIE_OWNER | .XNI_PORT_CTL | .XNI_PORT_STATUS | .XNI_PORT_DELAY | .XNI_PORT_ERR | .XNI_LANE_SPARE => 16
  | .ZYN_LINK_CTL | .ZYN_LINK_STATUS | .ZYN_LINK_ERR | .ZYN_WIRE_WORST => 24
  | .DMA_CH_CTL | .DMA_CH_RING | .DMA_CH_DONE_ADDR | .DMA_CH_STATUS | .DMA_CH_COMMIT | .DMA_CH_COUNT => 32
  | .PWR_RAIL => 58
  | .HST_RING_BASE | .HST_RING_CQ_BASE | .HST_RING_CTL | .HST_RING_STATUS | .MON_CLASS | .MON_CLASS_COUNT | .MON_CLASS_STATUS | .FEN_BOND_SPARE => 64
  | .MRS_FLIP_DATA => 96
  | .FEN_BANK_CTL | .ATT_ROPE_FREQ => 128
  | .MRS_REG | .MRS_REG_ACC => 144
  | .PART_MARSH => 192
  | .XNI_OUTBOX | .XNI_OUTBOX_REL => 768
  | .THM_SITE => 816
  | .BOOT_BIST_ENTRY => 1024
  | .ZYN_WIRE_SPARE => 1536
  | .XNI_ROUTE => 2048
  | _ => 1

/-- The registers of module block `n` of BAR0, in the order in which they take offsets from 0 (R277, R278); the ring registers of
the HST block lie apart, at 0x1000 (`ringRegs`). -/
def moduleBlock : Nat → List RegName
  | 0 => [.HST_ID, .HST_LINK_STATUS, .HST_CP_STATUS, .HST_FUNC_CTL, .HST_WIN, .HST_BAD_LAST]
  | 1 => [.GST_PERIOD, .GST_LULL, .GST_NUMBER, .GST_SYNC_CTL, .GST_SYNC_STATUS, .GST_PART_STATE, .GST_PART_STEP, .GST_PART_COMMIT, .GST_PART_REWINDS]
  | 2 => [.BOOT_PKG_ID, .BOOT_DIE_INFO, .BOOT_THERM_PATH, .BOOT_CTL, .BOOT_STATUS, .BOOT_FW, .BOOT_SERIAL, .BOOT_BIST, .BOOT_BIST_COUNT, .BOOT_BIST_ENTRY, .BOOT_PINS]
  | 3 => [.LIC_STATE, .LIC_RECORD, .LIC_HOURS]
  | 4 => [.PART_STATUS, .PART_SHC, .PART_DMA, .PART_MARSH, .PART_LOST, .PART_VOTE_STATS, .PART_REPAIR, .PART_FW, .PART_DOLDRUMS]
  | 5 => [.EVT_LOG_BASE, .EVT_LOG_CTL, .EVT_LOG_STATUS]
  | 6 => [.DMA_REG, .DMA_REG_ACC, .DMA_CH_CTL, .DMA_CH_RING, .DMA_CH_DONE_ADDR, .DMA_CH_STATUS, .DMA_CH_COMMIT, .DMA_CH_COUNT]
  | 7 => [.SHC_CTL, .SHC_ECC_COUNT, .SHC_GROUP_BASE, .SHC_STATS, .SHC_REG, .SHC_REG_ACC]
  | 8 => [.MRS_CTL, .MRS_STATUS, .MRS_SPARE, .MRS_ECC_COUNT, .MRS_ECC_LAST, .MRS_FLIP_DATA, .MRS_FLIP_CHECK, .MRS_FLIP_CTL, .MRS_REG, .MRS_REG_ACC]
  | 9 => [.PEAT_REG, .PEAT_REG_ACC, .PEAT_CTL, .PEAT_STATE, .PEAT_TEMP, .PEAT_WEAR_CTL, .PEAT_WEAR_STATUS, .PEAT_LDPC_COUNT, .PEAT_LDPC_LAST, .PEAT_DIE_OWNER, .PEAT_MAP_STATUS]
  | 10 => [.ZYN_LINK_CTL, .ZYN_LINK_STATUS, .ZYN_LINK_ERR, .ZYN_WIRE_SPARE, .ZYN_WIRE_WORST, .ZYN_ROUTE, .ZYN_TRANSIT, .ZYN_UCIE_STATUS]
  | 11 => [.XNI_CTL, .XNI_MODULE_ID, .XNI_PORT_CTL, .XNI_PORT_STATUS, .XNI_PORT_DELAY, .XNI_PORT_ERR, .XNI_LANE_SPARE, .XNI_ROUTE, .XNI_MBOX_BASE, .XNI_OUTBOX, .XNI_OUTBOX_REL, .XNI_STATS]
  | 12 => [.THM_CTL, .THM_LIMITS, .THM_STATUS, .THM_COOLANT, .THM_SITE, .THM_SENSOR_FAIL, .THM_IO_FAIL, .THM_IO_TEMP, .THM_CAL_RANGE, .THM_CAL_STATUS, .THM_TRIP, .THM_STATS, .THM_TRAY_CTL]
  | 13 => [.PWR_STATE, .PWR_STATUS, .PWR_LIMIT, .PWR_LIMITER, .PWR_RAIL, .PWR_WAKE, .PWR_WAKE_CTL, .PWR_AO, .PWR_ENERGY]
  | 14 => [.MON_TIME, .MON_OUT_RING, .MON_OUT_PROD, .MON_SLOT_BASE, .MON_OUT_STAMP, .MON_OUT_STATUS, .MON_CLASS, .MON_CLASS_COUNT, .MON_CLASS_STATUS]
  | 15 => [.FRZ_CTL, .FRZ_STATUS, .FRZ_DUMP]
  | 16 => [.KVW_ROOT_BASE, .KVW_ROOT_COUNT, .KVW_MOVE_STATUS, .KVW_STAGE]
  | _ => []

/-- The registers of a site block by unit, in order (R277): CORE, ARR, VEC, FEN, REED, ATT, KVW, ZYN at 0x1000 × unit. -/
def siteBlock : Nat → List RegName
  | 0 => [.CORE_SITE, .CORE_ARR_STATUS, .CORE_FEEDER_STATS, .CORE_NUM_FLAGS, .CORE_PROG_STATUS, .CORE_TRAP_INFO, .CORE_POOL_ECC]
  | 1 => [.ARR_CTL, .ARR_COL_MAP, .ARR_CHK_STATUS, .ARR_CHK_COUNT, .ARR_INJECT]
  | 2 => [.VEC_RNG_KEY, .VEC_RESULT, .VEC_STATUS]
  | 3 => [.FEN_CTL, .FEN_REFRESH_STATUS, .FEN_BANK_CTL, .FEN_BOND_SPARE, .FEN_ECC_COUNT, .FEN_ECC_LAST, .FEN_SYMBOL_LAST, .FEN_SCRUB_STATUS, .FEN_FLIP_CTL, .FEN_FLIP_DATA, .FEN_FLIP_CHECK, .FEN_STATS]
  | 4 => [.REED_CTL, .REED_STATUS, .REED_STATS, .REED_BUS_STATS, .REED_FAULT]
  | 5 => [.ATT_CTL, .ATT_STATUS, .ATT_ROPE_FREQ, .ATT_STATS, .ATT_ROW_STATS, .ATT_FAULT]
  | 6 => [.KVW_CTL, .KVW_STATUS, .KVW_LB_STATS, .KVW_APPEND_STATS, .KVW_PAGE_STATS, .KVW_FAULT, .KVW_FAULT_ROOT]
  | 7 => [.ZYN_NET_STATS]
  | _ => []

/-- Per-site registers: one block of them for each of the 816 physical sites. -/
def RegName.perSite : RegName → Bool
  | .CORE_SITE | .CORE_ARR_STATUS | .CORE_FEEDER_STATS | .CORE_NUM_FLAGS | .CORE_PROG_STATUS | .CORE_TRAP_INFO | .CORE_POOL_ECC | .ARR_CTL | .ARR_COL_MAP | .ARR_CHK_STATUS | .ARR_CHK_COUNT | .ARR_INJECT | .VEC_RNG_KEY | .VEC_RESULT | .VEC_STATUS | .FEN_CTL | .FEN_REFRESH_STATUS | .FEN_BANK_CTL | .FEN_BOND_SPARE | .FEN_ECC_COUNT | .FEN_ECC_LAST | .FEN_SYMBOL_LAST | .FEN_SCRUB_STATUS | .FEN_FLIP_CTL | .FEN_FLIP_DATA | .FEN_FLIP_CHECK | .FEN_STATS | .REED_CTL | .REED_STATUS | .REED_STATS | .REED_BUS_STATS | .REED_FAULT | .ATT_CTL | .ATT_STATUS | .ATT_ROPE_FREQ | .ATT_STATS | .ATT_ROW_STATS | .ATT_FAULT | .KVW_CTL | .KVW_STATUS | .KVW_LB_STATS | .KVW_APPEND_STATS | .KVW_PAGE_STATS | .KVW_FAULT | .KVW_FAULT_ROOT | .ZYN_NET_STATS => true
  | _ => false

/-- The four ring registers of one 64-byte group, with their offsets in the group (R278). -/
def ringRegs : List (Nat × RegName) :=
  [(0x00, .HST_RING_BASE), (0x08, .HST_RING_CQ_BASE), (0x10, .HST_RING_CTL), (0x14, .HST_RING_STATUS)]

/-- Allowances of R361 by rail; rail 0 is the input. Each row of R361's table that names several rails of one kind gives its
figure per rail where it is written n × W, and its whole figure to each rail where it is not (PRESUMED, notes/assumptions/4.md). -/
def railAllowance (r : Nat) : Nat :=
  if r = 0 then 4800
  else if r ≤ 12 then 270
  else if r ≤ 24 then 40
  else if r ≤ 26 then 260
  else if r ≤ 38 then 22
  else if r ≤ 42 then 45
  else if r = 43 then 40
  else if r ≤ 45 then 30
  else 270

/-- The default route word of die `d` (R246): field e is 0 east, 1 west or 2 spoke by k = (e − d) mod 12; field d is 0. -/
def defaultRoute (d : Nat) : Nat :=
  (List.range 12).foldl (fun acc e =>
    let k := (e + 12 - d % 12) % 12
    acc + (if k = 0 then 0 else if k ≤ 2 then 0 else if k ≥ 10 then 1 else 2) * 4 ^ e) 0

/-- The reset value of field `f` in the copy `i` of its register (R7); `i` counts the copies in the order of R278, and for a per-site
register is site × count + copy. The copy number matters for the few fields that name their own position. -/
def Fld.resetAt (f : Fld) (i : Nat) : Nat :=
  match f.reg with
  | .BOOT_DIE_INFO => if f.lo = 0 then i / 2 else f.rst
  | .CORE_SITE =>
    let c := i % 68
    if f.lo = 0 then c else if f.lo = 7 then (if c ≥ 64 then 1 else 0) else (if c ≥ 64 then 0xFF else c)
  | .PWR_RAIL => if f.lo = 0 then railAllowance i else f.rst
  | .ZYN_ROUTE => defaultRoute i
  | .HST_FUNC_CTL => if f.lo = 31 ∧ i = 0 then 1 else f.rst
  | _ => f.rst

end Sys2Proof.Machine
end

