-- ==== Sys2Proof/Machine/Sparse.lean ====
section
/-!
DEFINITION. Sparse maps as plain data: a list of (key, value) pairs in one canonical form, keys strictly rising and no entry equal
to what an unlisted key reads as, so that equal maps are equal lists. Registers, memories and the arrays of the units are held so.
-/
namespace Sys2Proof.Machine

/-- A sparse map from numbers to values. Host.Cell lists are the case of bytes. -/
abbrev SMap (β : Type) := List (Nat × β)

/-- The value at a key; `d` where the key is not listed. -/
def SMap.get {β : Type} (m : SMap β) (k : Nat) (d : β) : β :=
  match m with
  | [] => d
  | (a, v) :: r => if a = k then v else SMap.get r k d

/-- The map without the key. -/
def SMap.erase {β : Type} (m : SMap β) (k : Nat) : SMap β :=
  match m with
  | [] => []
  | (a, v) :: r => if a = k then SMap.erase r k else (a, v) :: SMap.erase r k

/-- The map with the pair in its place. -/
def SMap.insert {β : Type} (m : SMap β) (k : Nat) (v : β) : SMap β :=
  match m with
  | [] => [(k, v)]
  | (a, x) :: r => if a < k then (a, x) :: SMap.insert r k v else if a = k then (k, v) :: r else (k, v) :: (a, x) :: r

/-- Writing: the value that an unlisted key reads as (`d`) removes the entry. -/
def SMap.set {β : Type} [DecidableEq β] (m : SMap β) (k : Nat) (v d : β) : SMap β :=
  if v = d then m.erase k else m.insert k v

/-- Every entry with a key from `lo` up to below `hi` removed: the range then reads as unlisted. -/
def SMap.clearRange {β : Type} (m : SMap β) (lo hi : Nat) : SMap β := m.filter fun e => e.1 < lo || hi ≤ e.1

/-- The entries with keys from `lo` up to below `hi`. -/
def SMap.range {β : Type} (m : SMap β) (lo hi : Nat) : SMap β := m.filter fun e => lo ≤ e.1 && e.1 < hi

/-- Keys strictly rising. -/
def SMap.rising {β : Type} : SMap β → Bool
  | [] => true
  | (a, _) :: r => (match r with | [] => true | (b, _) :: _ => decide (a < b)) && SMap.rising r

/-- The canonical form: keys strictly rising, no entry that holds what its key reads as unlisted. -/
def SMap.wf {β : Type} [DecidableEq β] (m : SMap β) (d : Nat → β) : Bool :=
  SMap.rising m && m.all fun e => !decide (e.2 = d e.1)

/-- Writing a list of values at consecutive keys. -/
def SMap.setList {β : Type} [DecidableEq β] (d : β) (m : SMap β) (k : Nat) : List β → SMap β
  | [] => m
  | v :: r => SMap.setList d (m.set k v d) (k + 1) r

/-- Reading `n` values at consecutive keys. -/
def SMap.getList {β : Type} (d : β) (m : SMap β) (k : Nat) : Nat → List β
  | 0 => []
  | n + 1 => m.get k d :: SMap.getList d m (k + 1) n

/-- The range of `n` keys from `src` copied onto the range from `dst`; what `dst` held is replaced. -/
def SMap.copyRange {β : Type} [DecidableEq β] (d : β) (m : SMap β) (src dst n : Nat) : SMap β :=
  (m.range src (src + n)).foldl (fun acc e => acc.set (dst + (e.1 - src)) e.2 d) (m.clearRange dst (dst + n))

end Sys2Proof.Machine
end

