-- ==== Sys2Proof/Machine/State.lean ====
section
/-!
DEFINITION. The state of the block: everything the spec gives the module, as plain data, and the machine right after reset.
Registers are held field by field (`State.flds`); what the spec names besides registers has a field or a structure of its own; maps are in the
canonical form of Machine/Sparse.lean. Numbers of units (site, partition, engine …) are keys; a site's number is 68 × die + site.
-/
namespace Sys2Proof.Machine

/-- Why a step stops with a fault. -/
inductive Fault where
  /-- Raised by a meaning whose operand names no unit of the module, or whose words are not those of its row (a descriptor with another OP,
  a sensor that does not exist). Safe: no such command can be sent, so no behaviour of the hardware is lost. -/
  | illFormed
  deriving DecidableEq, Repr

/-- Why a step is refused. -/
inductive Refusal where
  /-- Raised by an arm of `exec` that has no meaning yet. Safe: the machine stops. -/
  | notModelled (mnemonic : String)
  deriving DecidableEq, Repr

/-- The flat number of a site, 0 to 815 (R277). -/
def siteNo (c : Site) : Nat := 68 * c.die.val + c.site.val

/-- Where a byte of device memory lies (R280): the slice of a physical site, a marsh stack, the shared cache, the pool of a physical site. -/
inductive Store where
  | fen (site : Nat)
  | marsh (m : Nat)
  | cache
  | pool (site : Nat)
  deriving DecidableEq, Repr

/-- Three copies of a critical word (R325); `none` is a damaged copy (R326). -/
structure Tri (α : Type) where
  c0 : Option α
  c1 : Option α
  c2 : Option α
  deriving DecidableEq, Repr

/-- Three equal intact copies. -/
def Tri.of {α : Type} (v : α) : Tri α := ⟨some v, some v, some v⟩

/-- The error patterns of one 64-byte transfer (R114, R115): `slicePat` is XORed on the 67 symbols of the slice code (symbol s in bits 8s to 8s + 7),
`diePat` on the stored bits of the four on-die words (data bits 0 to 511, check bits 8 per word from 512), and `cells` says that the cells
themselves have failed, so that rewriting does not clear the patterns (R117). -/
structure MemFault where
  slicePat : Nat
  diePat : Nat
  cells : Bool
  deriving DecidableEq, Repr

/-- No fault. -/
def MemFault.clean : MemFault := ⟨0, 0, false⟩

/-- A completion entry (R287), before it is written. -/
structure Comp where
  ring : Nat
  tag : Nat
  status : Nat
  gust : Nat
  r0 : Nat
  r1 : Nat
  intr : Bool
  deriving DecidableEq, Repr

/-- A submission and completion ring pair beyond its registers (R283 to R285): submission tail, completion producer and consumer, full and phase,
completions waiting for room, completions not yet signalled, and whether an error has stopped the ring since it was enabled. -/
structure Ring where
  tail : Nat
  prod : Nat
  cons : Nat
  full : Bool
  phase : Bool
  waiting : List Comp
  uncounted : Nat
  stopped : Bool
  deriving DecidableEq, Repr

def Ring.fresh : Ring := ⟨0, 0, 0, false, true, [], 0, false⟩

/-- One page of KV_EVICT or KV_PREFETCH, from its choice to its commit (R192): the directory slot's device address, the entry found there, the destination
store and frame address or peat slot, the page header's address, the CRC that goes into the header, and whether a NAND operation of it is issued or
finished. -/
structure KvMove where
  slot : Nat
  old : Word
  store : Nat
  dest : Nat
  header : Nat
  crc : Option Nat
  issued : Bool
  finished : Bool
  deriving DecidableEq, Repr

/-- A NAND operation issued to a die (R218, R222): 0 read, 1 program, 2 erase; block keys by plane, first page, pages per plane, and for an erase the
mode it sets. -/
structure NandOp where
  kind : Nat
  blocks : List Nat
  page : Nat
  pages : Nat
  mode : Nat
  deriving DecidableEq, Repr

/-- A peat block (R220, R228, R232): counters, write pointer, mode, flags, whether written or erased since the last save, and page ranges whose
contents the spec does not give (skipped pages, a failed program, an UNDEFINED block). -/
structure PeatBlock where
  erases : Nat
  reads : Nat
  ptr : Nat
  mode : Nat
  progFail : Bool
  eraseFail : Bool
  disturb : Bool
  undef : Bool
  dirty : Bool
  gaps : List (Nat × Nat)
  deriving DecidableEq, Repr

def PeatBlock.fresh : PeatBlock := ⟨0, 0, 0, 0, false, false, false, false, false, []⟩

/-- A command that takes effect at a gust boundary (R284, R290). `gust` is the gust named, 0 for the next boundary; of a spare,
how many transfers the copy of a row carried over as uncorrectable. -/
inductive BCmd where
  | planArm (gust : Nat)
  | planDisarm
  | gustSet (gust period lull : Nat) (renumber : Option Nat)
  | jobStart (gust : Nat)
  | jobStop
  | retirePage (gust : Nat) (addr : Nat)
  | retireBank (gust : Nat) (loc : Nat)
  | spare (gust kind loc : Nat) (copied : Option Nat)
  | monConfig (monitor : Nat) (w : List Word)
  deriving DecidableEq, Repr

/-- What is left to do of a command in progress (R284). -/
inductive CmdKind where
  | boundary (b : BCmd)
  | planLoad (hdr : List Word) (bad : Bool)
  | /-- A command, by opcode and parameters, that waits for tokens before it reads memory (R211). -/
    start (op : Nat) (w : List Word)
  | kvRootSet (root : Nat) (w : List Word)
  | kvFork (src dst below : Nat) (left shared : List Nat)
  | kvTrim (root t b : Nat) (keep : Bool)
  | kvMove (root : Nat) (left : List KvMove) (copied : List KvMove) (moved : Nat) (stop : Option Nat) (gust : Nat)
  | memRead (addr n host done : Nat)
  | memWrite (addr n host done : Nat)
  | memFence (ops : List (Nat × Nat))
  | peatRead (addr planes count at_ dest done lvl : Nat) (issued : Bool)
  | peatProgram (addr planes src : Nat) (issued : Bool)
  | peatErase (addr planes : Nat) (slc issued : Bool)
  | peatStatus (blocks : List Nat) (dest : Nat)
  | /-- `switched` is 0 before the switch, then the gust of the switch plus 1. -/
    migrateSite (gust loc : Nat) (started : Bool) (copied : Option Nat) (switched : Nat)
  | migrateChannel (gust loc : Nat) (started : Bool) (copied : Option Nat)
  | partCreate (p : Nat) (block : List Word)
  | partReset (p : Nat)
  | partDestroy (p : Nat)
  | powerState (target : Nat)
  | /-- POWER_STATE of a die's cores and slices (scope 1) or transit domain (scope 2). -/
    diePower (scope die : Nat) (on : Bool)
  | linkRetrain (unit : Nat) (group : Nat)
  | fwLoad (image : List Byte) (version : Nat)
  | doldrumsExit
  | windowRead (f : Nat) (addr n : Nat)
  | windowWrite (f : Nat) (addr : Nat) (bytes : List Byte)
  deriving DecidableEq, Repr

/-- A command in progress: its request, the function that issued it, its opcode, what is left, and whether its completion is discarded (R275). -/
structure Cmd where
  q : Req
  fn : Nat
  op : Nat
  kind : CmdKind
  discard : Bool
  deriving DecidableEq, Repr

/-- The token counts, the gust account and the bytes since the last refill of one regulator (R211, R213, R403). -/
structure Reg where
  guar : Int
  ceil : Int
  bytes : Nat
  interval : Nat
  waitUs : Nat
  hit : Bool
  waits : Bool
  next : Option Nat
  deriving DecidableEq, Repr

def Reg.zero : Reg := ⟨0, 0, 0, 0, 0, false, false, none⟩

/-- A partition beyond its registers (R20 to R32, R325): plan headers in three copies, BASE, the boundary at which PLAN_ARM is due, the fault flag
with its cause and status, counted rewinds, the commit word and the words its commit writes have replaced, the decision taken in this lull, the copies of the
carried regions, the input snapshot with its plan step, the background bytes used per store, the partition map entry, the core firmware it runs, whether a mailbox write of the gust was
refused or a die's stage was full (R184), the scratch written in the gust (R26), the PART_STATUS.STATE and the
GST_PART_STATE.STATE before a reset began, the roots with a minority copy to rewrite (R326), whether the job stops at the next boundary by the link rule (R275), and whether the commit of this lull is complete (R27). -/
structure Part where
  loaded : Option (Tri (List Word))
  armed : Option (Tri (List Word))
  base : Nat
  running : Bool
  flag : Option (Nat × Nat)
  lastStatus : Nat
  rewinds : List Nat
  commitWord : Tri Nat
  undo : List (Nat × Word)
  decision : Option Bool
  carried : List (Nat × Nat × List Byte)
  snapshot : Option (Nat × List (Nat × Nat))
  bgUsed : SMap Nat
  map : Tri (List Word)
  mapLost : Bool
  fwVersion : Nat
  refused : Bool
  wrote : List (Store × Nat × Nat)
  prior : Nat
  priorJob : Nat
  rewrites : List Nat
  linkStop : Bool
  committed : Bool
  deriving DecidableEq, Repr

def Part.fresh : Part :=
  ⟨none, none, 0, false, none, 0, [], Tri.of 0, [], none, [], none, [], Tri.of [], false, 0, false, [], 0, 0, [], false, false⟩

/-- A weight tile of one array (R40, R46, R50): formats and scale use of its pairing, ARRAY_MASK, the element patterns of its K_t rows (64 columns each),
the scale codes of its blocks, and the residues that columns S and T hold for each row of K. -/
structure Tile where
  wFmt : Nat
  aFmt : Nat
  wMx : Bool
  aMx : Bool
  mask : Nat
  rows : List (List Nat)
  scales : List (List Nat)
  sRes : List Nat
  tRes : List Nat
  deriving DecidableEq, Repr

/-- A reed descriptor at the reed port (R137, R138): its issue number, its six words, whether it has started, per bank still at work the bursts or rows
done, and whether the work after the grains in progress is dropped (R144). -/
structure ReedOp where
  num : Nat
  w : List Word
  started : Bool
  left : List (Nat × Nat)
  stop : Bool
  deriving DecidableEq, Repr

/-- An attention operation (R165, R168): issue number, words, the banks it holds on the reed path, and, once started, the pages it resolved: first position,
entry, header address; `due` is its end, with what the flash and the arrays met, where that waits for a bank, a port or tokens. -/
structure AttOp where
  num : Nat
  w : List Word
  banks : List Nat
  pages : List (Nat × Word × Nat)
  due : Option AttEnd
  deriving DecidableEq, Repr

/-- A look-aside buffer entry (R183): root, stream, span group, page entry, header address. -/
structure LbEntry where
  root : Nat
  stream : Nat
  span : Nat
  slot : Nat
  entry : Word
  header : Nat
  deriving DecidableEq, Repr

/-- A write of a unit that the core's other units are not yet held to see (R95): the unit, the place, and the number of waits completed when the first that covers
the unit had; none before that. -/
structure UnitWrite where
  unit : Nat
  st : Store
  off : Nat
  n : Nat
  seenFrom : Option Nat
  deriving DecidableEq, Repr

/-- What the metered work at hand takes (R32, R141, R198, R211): bytes by regulator and by background store, and whether a held bank or a training port stops it. -/
structure Meter where
  charges : List (Nat × Nat)
  uses : List (Nat × Nat)
  blocked : Bool
  deriving DecidableEq, Repr

/-- A core site beyond its registers: control core (R92 to R98; `resv` is the address and size of a reservation, `trapPc` the store that issued the
descriptor at work, `atWork` its unit and the waits completed when it was issued; issued words keep both behind them; `waits` counts the waits completed in the
slot and `unseen` the writes of R95), vector unit (R84 to R88; `flow` is the mask of the arrays
that deliver the rows of `drain`), arrays (R39 to R63; `shadow` is by array, none a load that met bad data; `passDue` is a start that waits for a bank), reeds
(R125 to R143; accumulators and activations not written since a rewind are free values from `lost` on, R26, R144), attention engine (R165), walker (R183, R185; `kvDone` and
`kvUsed` are the pairs handled and frames taken by the descriptor at the head), network port (R250 to R252). -/
structure Core where
  x : SMap Word
  pc : Nat
  resv : Option (Nat × Nat)
  trapHalt : Bool
  trapPc : Option Nat
  atWork : Option (Nat × Nat)
  waits : Nat
  unseen : List UnitWrite
  slotEnd : Bool
  segment : List Byte
  active : List Byte
  ports : SMap Word
  waitReg : Option (Nat × Nat)
  netSeq : Nat
  v : SMap F32
  k : SMap (BitVec 256)
  vq : List (List Word)
  topk : List (F32 × Nat)
  topN : Nat
  drain : List (List F32)
  flow : Nat
  aq : List (List Word)
  tiles : SMap Tile
  shadow : SMap (Option Tile)
  injectArmed : SMap Bool
  passDue : Option (List PassError)
  acc : SMap (Option F32)
  accFault : SMap Nat
  latch : SMap Byte
  latchLost : SMap Bool
  scaleLatch : SMap Byte
  act : SMap (Option Nat)
  racc : SMap (Option F32)
  lost : Option Nat
  rq : List ReedOp
  rseq : Nat
  attq : List AttOp
  attRun : List AttOp
  kvq : List (List Word)
  kvDone : Nat
  kvUsed : Nat
  lb : List LbEntry
  rootCache : List (Nat × List Word)
  netq : List (Nat × List Word)
  deriving DecidableEq, Repr

def Core.fresh : Core where
  x := []
  pc := 0
  resv := none
  trapHalt := false
  trapPc := none
  atWork := none
  waits := 0
  unseen := []
  slotEnd := false
  segment := []
  active := []
  ports := []
  waitReg := none
  netSeq := 0
  v := []
  k := []
  vq := []
  topk := []
  topN := 1
  drain := []
  flow := 0
  aq := []
  tiles := []
  shadow := []
  injectArmed := []
  passDue := none
  acc := []
  accFault := []
  latch := []
  latchLost := []
  scaleLatch := []
  act := []
  racc := []
  lost := none
  rq := []
  rseq := 0
  attq := []
  attRun := []
  kvq := []
  kvDone := 0
  kvUsed := 0
  lb := []
  rootCache := []
  netq := []

/-- A descriptor in progress at a DMA engine (R301): its words, the next row, destination bytes completed, acknowledgements awaited, whether its rows
overlap (R304), once it has ended the status to write back, and the destination bytes of the row whose requests have issued (R32). -/
structure DmaCur where
  w : List Word
  row : Nat
  bytes : Nat
  acks : Nat
  overlap : Bool
  result : Option Nat
  status : Option Nat
  asked : Nat
  deriving DecidableEq, Repr

/-- A DMA engine beyond its registers (R301, R308, R310): the descriptor in progress, and the status with which owned descriptors are being written back,
and the destination bytes moved beyond whole KiB. -/
structure DmaEng where
  cur : Option DmaCur
  flush : Option Nat
  odd : Nat
  deriving DecidableEq, Repr

def DmaEng.idle : DmaEng := ⟨none, none, 0⟩

/-- One direction of a Zyneno link (R240, R241): at the receiver the SEQ of the flit awaited, its failures in a row and its words as they last failed; at the
sender the replay buffer (SEQ and packets of each flit not yet acknowledged, oldest first) and the credits in use, by buffer class and hop. -/
structure LinkDir where
  rx : Nat
  fails : Nat
  failed : List Word
  sent : List (Nat × List ZynPkt)
  used : SMap Nat
  deriving DecidableEq, Repr

def LinkDir.fresh : LinkDir := ⟨0, 0, [], [], []⟩

/-- A Zyneno link or a marsh port beyond its registers (R241 to R245): its two directions; groups still to retrain, the first at work; a full retraining that
waits for it; errors located by direction and wire; wires that failed the test; the marsh port's state, its temperature at training and the channels still to
retrain in lulls (R198); replays of the gust (R403). -/
structure Link where
  d0 : LinkDir
  d1 : LinkDir
  groups : List Nat
  fullDue : Bool
  located : SMap Nat
  bad : List (Bool × Nat)
  port : Nat
  temp : Int
  chLeft : Nat
  replays : Nat
  deriving DecidableEq, Repr

def Link.down : Link := ⟨LinkDir.fresh, LinkDir.fresh, [], false, [], [], 0, 0, 0, 0⟩

/-- A packet on its way: the module it is for, the hop it makes, and what it carries. -/
abbrev XniSent := Nat × Nat × XniPacket

/-- A Xeunni port beyond its registers (R258 to R264): SEQ of the flit awaited, its failures in a row, the number of the last codeword pair; next SEQ to send,
the replay buffer (flits not yet acknowledged, with the packet each belongs to) and the credits in use, by class and hop; lanes failed in training; spares that
the far end has confirmed (lane, transmit at its end, gust); symbols corrected below a thousand; replays of the gust (R403). -/
structure XPort where
  rx : Nat
  fails : Nat
  pairNo : Nat
  tx : Nat
  sent : List (Nat × Option XniSent)
  used : SMap Nat
  bad : List (Bool × Fin 8)
  confirmed : List (Fin 8 × Bool × Nat)
  symbols : Nat
  replays : Nat
  deriving DecidableEq, Repr

def XPort.down : XPort := ⟨0, 0, 0, 0, [], [], [], [], 0, 0⟩

/-- A flit, or the flits of one packet, sent on a Xeunni port (R262): the port, the SEQ of the first, ACK and NAK, the packet. -/
structure XniOut where
  port : Nat
  seq : Nat
  ack : Nat
  nak : Bool
  packet : Option XniSent
  deriving DecidableEq, Repr

/-- A mailbox write that waits at the sender under the release hold (R268): outbox and packet, of a partition's engine. -/
structure HeldWrite where
  part : Nat
  outbox : Nat
  pkt : MboxPkt
  deriving DecidableEq, Repr

/-- Alignment to a master (R33, R34, R269): markers or edges in a row within 25 ns, markers missed in a row, whether one came for the coming boundary,
the correction still to apply in ns, and the gust number to adopt. -/
structure Sync where
  good : Nat
  missed : Nat
  seen : Bool
  pendingNs : Int
  adopt : Option Nat
  deriving DecidableEq, Repr

/-- What a monitor accumulates over a window (R401, R405): first and last gust, COUNT, MIN, MAX, SUM, bins, and a class's TOKENS and OVER. -/
structure MonRec where
  first : Nat
  last : Nat
  count : Nat
  low : Int
  high : Int
  sum : Int
  bins : SMap Nat
  tokens : Nat
  overs : Nat
  deriving DecidableEq, Repr

def MonRec.start (gust : Nat) : MonRec := ⟨gust, gust, 0, 0, 0, 0, [], 0, 0⟩

/-- A monitor (R402, R404): its parameters, live accumulators, boundaries left in its window, latched record. -/
structure Mon where
  enable : Bool
  log : Bool
  window : Nat
  width : Nat
  lowest : Int
  live : MonRec
  left : Nat
  latched : Option MonRec
  deriving DecidableEq, Repr

def Mon.off : Mon := ⟨false, false, 0, 0, 0, MonRec.start 0, 0, none⟩

/-- A thermal sensor (R341 to R344, R352): latest reading in 1/8 °C, samples in a row out of range and above the shutdown threshold, ticks it has kept
one code and, over these, the least and greatest readings of the other diode and of the forecast's estimate; ticks a pair has disagreed in a row, and
ticks of agreement still due before a disagreement is raised again. -/
structure Sens where
  t : Int
  bad : Nat
  overs : Nat
  kept : Nat
  otherLo : Int
  otherHi : Int
  estLo : Int
  estHi : Int
  apart : Nat
  settle : Nat
  deriving DecidableEq, Repr

def Sens.fresh : Sens := ⟨0, 0, 0, 0, 0, 0, 0, 0, 0, 0⟩

/-- A re-plan notice (R350) to be written in the next lull: partition, reason, status, result words without kind and partition. -/
structure Replan where
  part : Nat
  reason : Nat
  status : Nat
  r0 : Nat
  r1 : Nat
  deriving DecidableEq, Repr

/-- The thermal controller (R340 to R357) and the power limiter (R361 to R364) beyond their registers. -/
structure Therm where
  /-- Sensors by the numbers of R403. -/
  sens : SMap Sens
  /-- Which forecast of `Config.forecast` the last tick made, and the forecasts and thermal levels of the ticks before, newest first. -/
  forecast : Nat
  past : List (Nat × SMap Nat)
  /-- Thermal level by site. -/
  level : SMap Nat
  /-- Levels that fit, over the last 64 gusts of a site, newest first. -/
  fits : SMap (List Nat)
  /-- Sensors at their alert threshold. -/
  alerts : List Nat
  /-- Readings of the tray bus, 0.01 °C and 0.01 L/min; failed reads in a row; lost sensors already reported. -/
  inlet : Option Int
  outlet : Option Int
  flow : Option Nat
  trayBad : Nat × Nat × Nat
  lostTold : List Nat
  /-- Pulses since the last tick, pulses of the last ten ticks, ticks in a row below the stop threshold. -/
  pulse : Nat
  pulses : List Nat
  pulseLow : Nat
  /-- The inlet warning, and ticks in a row at which each warning's or the stop's end condition has held. -/
  inletWarn : Bool
  okInlet : Nat
  ok60 : Nat
  ok55 : Nat
  okStop : Nat
  /-- Notices due, and by partition and reason, while its condition holds, the gust of the last notice plus 1 and its WARN_GUSTS. -/
  due : List Replan
  sent : SMap (Nat × Nat)
  /-- Squared forecast errors with their counts, by die, newest first (10 s); ticks within ±2 °C. -/
  errors : SMap (List (Nat × Nat))
  good : SMap Nat
  /-- Rails: powers of the last ten ticks; rails over their allowance; rails whose measurement fails. -/
  rails : SMap (List Nat)
  railOver : List Nat
  railFail : List Nat
  /-- Ticks in a row below 0.98 L_eff, and input energy below a joule in 0.1 mJ. -/
  calm : Nat
  energy : Nat
  /-- The hottest governing readings of kinds 0 to 3 at the last tick, as PLDM shows them (R409), in 1/8 °C. -/
  shown : List Int
  deriving DecidableEq, Repr

def Therm.fresh : Therm :=
  ⟨[], 0, [], [], [], [], none, none, none, (0, 0, 0), [], 0, [], 0, false, 0, 0, 0, 0, [], [], [], [], [], [], [], 0, 0, []⟩

/-- What the always-on domain and the power input keep (R352, R353, R360, R370 to R373): why the rails are off (0 on, 1 trip, 2 power-fail, 3 a cold
power-on is due), SOURCE of the wake due, a CLEAR_TRIP accepted, records to raise after the restart, ticks of the trips, since when the input is in range,
a wake met while Deep or Off is entered, REFCLK stable again (R423), an image authenticated while cause 2 is held (R337), and WAKE_N driven low (R370, R431). -/
structure AlwaysOn where
  shut : Nat
  source : Nat
  cleared : Bool
  tripReport : Bool
  failReport : Bool
  brownReport : Bool
  wakeReport : Bool
  trips : List Nat
  inSince : Option Nat
  wakePend : Option (Nat × Bool)
  refBack : Bool
  fwAuth : Bool
  wakeLow : Bool
  deriving DecidableEq, Repr

def AlwaysOn.fresh : AlwaysOn := ⟨0, 0, false, false, false, false, false, [], none, none, false, false, false⟩

/-- What the factory test record says of the package (R17): package revision, and by die the stepping, the stack's build revision and the two thermal
resistances in 0.0001 K/W. -/
structure Factory where
  pkgRev : Nat
  dieStep : List Nat
  stackStep : List Nat
  plateRth : List Nat
  stackRth : List Nat
  deriving DecidableEq, Repr

/-- What the configuration flash holds beside the repair map (R17, R379, R382, R394 to R396), and the firmware that runs: factory record, image slot, SVN
floor, licence and service records, the powered hours as saved, the running image. -/
structure Flash where
  factory : Factory
  image : List Byte
  svnFloor : Tri Nat
  licence : List Byte
  service : List Byte
  hours : Nat
  running : List Byte
  deriving DecidableEq, Repr

/-- A flash with no image and no record but the factory's; its contents are notes/assumptions/4.md. -/
def Flash.blank : Flash :=
  ⟨⟨0, List.replicate 12 0, List.replicate 12 0, List.replicate 12 440, List.replicate 12 550⟩, [], Tri.of 0, [], [], 0, []⟩

/-- The debug TAP and the freeze (R398, R410 to R413, R430): boundary-scan cells preloaded, whether boundary scan has been used and a freeze has occurred,
EXTEST driving the pins. -/
structure Tap where
  cells : List Bool
  extest : Bool
  scanned : Bool
  froze : Bool
  deriving DecidableEq, Repr

def Tap.idle : Tap := ⟨[], false, false, false⟩

/-- The management endpoint (R294 to R296, R368): endpoint identifier, terminus identifier, the SPDM responder's conversation state (numbered by
`Config.spdmNext`), chunks of a large SPDM request, the image of a PLDM update being written, whether the state effecter began the power transition in progress. -/
structure Mgmt where
  eid : Nat
  tid : Nat
  spdm : Nat
  chunks : List Byte
  update : Option (List Byte)
  effecter : Bool
  deriving DecidableEq, Repr

def Mgmt.fresh : Mgmt := ⟨0, 0, 0, [], none, false⟩

/-- The PLDM base commands (R295). -/
inductive PldmBase where
  | getTid
  | setTid
  | getPldmVersion
  | getPldmTypes
  | getPldmCommands
  deriving DecidableEq, Repr

/-- A response of the management endpoint (R294 to R296, R368, R392, R398), by what the spec says it carries: the message formats of DMTF are not in spec/
(notes/assumptions/50.md). `refused` is a completion code that the spec does not name, a free value. -/
inductive Reply where
  | endpointId (eid : Nat)
  | tid (t : Nat)
  | done
  | /-- Type, major and minor version of its specification. -/
    versions (vs : List (Nat × Nat × Nat))
  | types (ts : List Nat)
  | commands (cs : List PldmBase)
  | notReady
  | invalidStateValue
  | refused (code : Nat)
  | numeric (id : Nat) (reading : Int)
  | stateOf (id : Nat) (v : Nat)
  | /-- A record of the PDR repository: whether the sensor is numeric, and its number; the last is the state effecter. -/
    pdr (handle : Nat) (numeric : Bool) (id : Nat)
  | event (record : Option (List Word))
  | fru (bytes : List Byte)
  | spdm (bytes : List Byte)
  | /-- Measurement blocks (index, DMTF value type, content) and the response that carries them, signed. -/
    measurements (blocks : List (Nat × Nat × List Nat)) (bytes : List Byte)
  | spdmUnspecified
  | chunkTaken
  deriving DecidableEq, Repr

/-- What goes back to a requester outside the command rings: a register read, an Unsupported Request, window data (none: Completer Abort), the old value
of an atomic (none: uncorrectable), bits shifted out of the TAP, the headers of a read-out stream. -/
inductive Answer where
  | reg (f v : Nat)
  | unsupported (f : Nat)
  | window (f : Nat) (bytes : Option (List Byte))
  | atomic (p : Nat) (old : Option Nat)
  | tap (v : Nat)
  | dump (headers : List (List Word))
  deriving DecidableEq, Repr

/-- The module. -/
structure State where
  /-- Commands waiting, first in first out. -/
  pending : List Instr
  /-- The model's count of free values used (notes/assumptions/3.md). -/
  freeCtr : Nat
  /-- Register fields, by `Fld.key`. -/
  flds : SMap Nat
  /-- Field values still in force where a write takes effect only at the next gust boundary, by `Fld.key`. -/
  eff : SMap (Option Nat)
  /-- VF Enable of the host's configuration (R275): while it is clear no VF answers. -/
  vfEnable : Bool
  /-- Device memory by physical key (Machine/Mem.lean). -/
  mem : SMap Byte
  /-- Error patterns of fen and marsh transfers, by transfer key. -/
  faults : SMap MemFault
  /-- Failed data bonds of slices (R104) and data wires of stacks (R198): 512 × channel + bond or wire, slice channels by 4 × site + channel, stack channels
  by 2^15 + 17 × stack + physical channel; bonds from 256 on are the spares. -/
  deadWires : List Nat
  /-- Transfers of a migrating channel that the spare holds otherwise than a copy of the old channel would (R203), with the pattern there, by transfer key. -/
  spareCopy : SMap (Option MemFault)
  /-- Error patterns of SECDED words of pool and shared cache (72 bits), by word key. -/
  sram : SMap Nat
  /-- On-die corrections not yet gathered (R124), by slice or stack. -/
  ondie : SMap Nat
  /-- Spare rows in use (R118): logical row to spare 1 or 2, by row key. -/
  rowSpares : SMap Nat
  /-- Retired 2 KiB chunks (R329), by chunk key. -/
  retired : List Nat
  /-- Memory of the host, outside the module. -/
  hostMem : SMap Byte
  /-- The host's memory answers (false: reads return no data and writes fail). -/
  hostOk : Bool
  /-- Commands in progress, in start order. -/
  cmds : List Cmd
  /-- Rings. -/
  rings : SMap Ring
  /-- Last ring served at each PRIORITY, for round-robin (R284). -/
  lastRing : SMap Nat
  /-- MSI-X messages sent: function and vector, newest first. -/
  msix : List (Nat × Nat)
  /-- Notices, responses and events handed to the management path, newest first (R295). -/
  mgmtOut : List (List Word)
  /-- Event log beyond its registers: next SEQ, LOST mark, hold-off running, interrupt held, by function (R324). -/
  logSeq : SMap Nat
  logLost : SMap Bool
  holdoff : SMap Bool
  heldIrq : SMap Bool
  /-- Records held since bring-up until the PF log is first enabled (R388), and whether it has been. -/
  heldRecs : List (List Word)
  pfLogOpened : Bool
  /-- Partitions. -/
  parts : SMap Part
  /-- Regulators, by resource and partition. -/
  regs : SMap Reg
  /-- Staged words of each die (R184): by device address, whether a directory entry, value; by die. -/
  stage : SMap (SMap (Bool × Word))
  /-- Slices that received commit writes in this lull (R120). -/
  commitSites : List Nat
  /-- Where patrol scrub stands (R120, R202, R204): of a slice by site (physical row × 128 + bank), of a stack from 816 (row), of the cache at 828 (KiB). -/
  scrubPos : SMap Nat
  /-- Gust settings in three copies: period, lull, sync control (R325, kind 7). -/
  gustWords : Tri (List Nat)
  /-- 1 ms ticks counted since reset, and the ticks at which partitions were lost (R320, R334). -/
  msClock : Nat
  losses : List Nat
  /-- How far the gust has come (R24): 0 work window, 1 lull begun, 2 decision taken, 3 guard interval. -/
  phase : Nat
  /-- Core sites. -/
  cores : SMap Core
  /-- Reduction groups in progress (R207, R209), by partition and group: contributor, first element and end of what has been delivered. -/
  groups : SMap (List (Nat × Nat × Nat))
  /-- The meter of a walker's or plan read's work in a step (R211); none between steps. -/
  metering : Option Meter
  /-- Groups that an invalid request has kept from a result in this gust (R209), by key. -/
  badGroups : List Nat
  /-- Atomic operations that wait for tokens, in order of arrival: partition, AOP code, offset, operand, compare (R205, R211). -/
  atomHeld : List (Nat × Nat × Nat × Word × Word)
  /-- DMA engines. -/
  engines : SMap DmaEng
  /-- Zyneno links 0 to 23 and marsh ports 24 to 35. -/
  links : SMap Link
  /-- Dies whose transit domain has a fault (R248). -/
  transitFaults : List Nat
  /-- Refresh debts of marsh banks (R201), and units in self-refresh: a slice by site, a stack from 816 (R113). -/
  marshDebt : SMap Nat
  selfRefresh : SMap Bool
  /-- Xeunni ports. -/
  xports : SMap XPort
  /-- Mailbox writes held, writes sent and not yet acknowledged (engine, port), flits sent, newest first. -/
  xniHeld : List HeldWrite
  xniWait : List (Nat × Nat)
  /-- Mailbox writes that arrived and wait for the receiver's shared-cache tokens. -/
  xniIn : List MboxPkt
  xniOut : List XniOut
  /-- Gust markers sent: port, gust, hops, LEAD in ps, newest first. -/
  markersOut : List (Nat × Nat × Nat × Nat)
  /-- Alignment. -/
  sync : Sync
  /-- Answers to requesters, newest first. -/
  answers : List Answer
  /-- The peat: blocks and the counters last saved, factory bad blocks, page data, region map and its pending writes, operations at the dies, bytes
  programmed per minute (newest first) and as last saved (R216 to R230). -/
  peatBlocks : SMap PeatBlock
  peatSaved : SMap PeatBlock
  peatBad : List Nat
  peatData : SMap Byte
  peatMap : SMap (Tri Nat)
  peatMapNew : SMap Nat
  nand : SMap NandOp
  wear : List Nat
  wearSaved : List Nat
  /-- The repair map in service, in three copies per entry, its version, and the version saved to the configuration flash (R325, R328). -/
  repairMap : List (Tri (List Word))
  repairVer : Nat
  flashMap : List (List Word)
  flashVer : Nat
  /-- Licences in force, in three copies (R325). -/
  licWord : Tri Nat
  /-- Temperature of a slice's last bond deskew and channels still to deskew in lulls (R105), by site. -/
  deskew : SMap (Int × Nat)
  /-- Temperature at which a group of peat channels was last trained (R218), in 1/8 °C, by group. -/
  peatTrained : SMap Int
  /-- Monitors by index (R403), and the producer count last seen of each output ring in service (R407). -/
  mons : SMap Mon
  prodSeen : SMap (Option Nat)
  /-- Heat and power. -/
  therm : Therm
  always : AlwaysOn
  /-- Firmware and records; debug; management endpoint, and its responses, newest first. -/
  flash : Flash
  tapState : Tap
  mgmt : Mgmt
  mctpOut : List Reply
  deriving DecidableEq, Repr

/-- The machine right after reset: every register field at its reset value, no command waiting, nothing stored (notes/assumptions/5.md, 6.md). -/
def State.reset : State where
  pending := []
  freeCtr := 0
  flds := []
  eff := []
  mem := []
  faults := []
  deadWires := []
  vfEnable := false
  spareCopy := []
  sram := []
  ondie := []
  rowSpares := []
  retired := []
  hostMem := []
  hostOk := true
  cmds := []
  rings := []
  lastRing := []
  msix := []
  mgmtOut := []
  logSeq := []
  logLost := []
  holdoff := []
  heldIrq := []
  heldRecs := []
  pfLogOpened := false
  parts := []
  regs := []
  stage := []
  commitSites := []
  scrubPos := []
  gustWords := Tri.of [10000, 300, 0]
  msClock := 0
  losses := []
  phase := 0
  cores := []
  groups := []
  metering := none
  badGroups := []
  atomHeld := []
  engines := []
  links := []
  transitFaults := []
  marshDebt := []
  selfRefresh := []
  xports := []
  xniHeld := []
  xniWait := []
  xniIn := []
  xniOut := []
  markersOut := []
  sync := ⟨0, 0, false, 0, none⟩
  answers := []
  peatBlocks := []
  peatSaved := []
  peatBad := []
  peatData := []
  peatMap := []
  peatMapNew := []
  nand := []
  wear := []
  wearSaved := []
  repairMap := []
  repairVer := 0
  flashMap := []
  flashVer := 0
  licWord := Tri.of 0
  deskew := []
  peatTrained := []
  mons := []
  prodSeen := []
  therm := Therm.fresh
  always := AlwaysOn.fresh
  flash := Flash.blank
  tapState := Tap.idle
  mgmt := Mgmt.fresh
  mctpOut := []

end Sys2Proof.Machine
end

