-- ==== Sys2Proof/Machine/Regs.lean ====
section
/-!
DEFINITION. Reading and writing state by name: register fields, cores, partitions, rings, free values. Everything else goes through these.
-/
namespace Sys2Proof.Machine

/-- Where a field's copy `i` is held; the field and the copy that a key stands for. Fields are numbered below 4,096. -/
def Fld.key (f : Fld) (i : Nat) : Nat := i * 4096 + f.id
def keyField (k : Nat) : Nat := k % 4096
def keyCopy (k : Nat) : Nat := k / 4096

/-- The value of a field (R5), copy `i` of its register. -/
def State.get (s : State) (f : Fld) (i : Nat) : Nat := SMap.get s.flds (f.key i) (f.resetAt i)

/-- The field written, cut to its width. -/
def State.put (s : State) (f : Fld) (i v : Nat) : State :=
  { s with flds := SMap.set s.flds (f.key i) (v % 2 ^ f.width) (f.resetAt i) }

/-- Whether a one-bit field is set. -/
def State.on (s : State) (f : Fld) (i : Nat) : Bool := s.get f i == 1

/-- A counter raised by `n`, saturating at the field's width. -/
def State.bump (s : State) (f : Fld) (i n : Nat) : State := s.put f i (saturate f.width (s.get f i + n))

/-- The largest value a field has held: raised to `v` where it is less. -/
def State.raise (s : State) (f : Fld) (i v : Nat) : State := if s.get f i < v then s.put f i v else s

/-- Several fields of one register copy written in order. -/
def State.puts (s : State) (i : Nat) (fs : List (Fld × Nat)) : State := fs.foldl (fun t f => t.put f.1 i f.2) s

/-- Every field of a register copy returned to its reset value. -/
def State.resetReg (s : State) (r : RegName) (i : Nat) : State :=
  r.fields.foldl (fun t f => t.put f i (f.resetAt i)) s

/-- Only the RC fields of a register copy returned to their reset values. -/
def State.resetRc (s : State) (r : RegName) (i : Nat) : State :=
  (r.fields.filter fun f => f.acc == .rc).foldl (fun t f => t.put f i (f.resetAt i)) s

/-- The value of a field in force: the register's value, or the value it held before a write that takes effect at the next gust boundary. -/
def State.inForce (s : State) (f : Fld) (i : Nat) : Nat := (SMap.get s.eff (f.key i) none).getD (s.get f i)

/-- A field written whose change takes effect at the next gust boundary (R124, R213, R215, R332). -/
def State.putLater (s : State) (f : Fld) (i v : Nat) : State :=
  let old := s.inForce f i
  { s with eff := SMap.set s.eff (f.key i) (some old) none }.put f i v

/-- Index of an element of a register with two indices, the last varying fastest (R278). -/
def ix2 (n i j : Nat) : Nat := i * n + j

/-- The same with three indices. -/
def ix3 (n m i j k : Nat) : Nat := (i * n + j) * m + k

def State.core (s : State) (c : Nat) : Core := SMap.get s.cores c Core.fresh
def State.setCore (s : State) (c : Nat) (k : Core) : State := { s with cores := SMap.set s.cores c k Core.fresh }
def State.modCore (s : State) (c : Nat) (f : Core → Core) : State := s.setCore c (f (s.core c))

def State.part (s : State) (p : Nat) : Part := SMap.get s.parts p Part.fresh
def State.setPart (s : State) (p : Nat) (v : Part) : State := { s with parts := SMap.set s.parts p v Part.fresh }
def State.modPart (s : State) (p : Nat) (f : Part → Part) : State := s.setPart p (f (s.part p))

def State.ring (s : State) (r : Nat) : Ring := SMap.get s.rings r Ring.fresh
def State.setRing (s : State) (r : Nat) (v : Ring) : State := { s with rings := SMap.set s.rings r v Ring.fresh }

def State.engine (s : State) (e : Nat) : DmaEng := SMap.get s.engines e DmaEng.idle
def State.setEngine (s : State) (e : Nat) (v : DmaEng) : State := { s with engines := SMap.set s.engines e v DmaEng.idle }

def State.link (s : State) (l : Nat) : Link := SMap.get s.links l Link.down
def State.setLink (s : State) (l : Nat) (v : Link) : State := { s with links := SMap.set s.links l v Link.down }

def State.xport (s : State) (k : Nat) : XPort := SMap.get s.xports k XPort.down
def State.setXport (s : State) (k : Nat) (v : XPort) : State := { s with xports := SMap.set s.xports k v XPort.down }

/-- An answer sent. -/
def State.answer (s : State) (a : Answer) : State := { s with answers := a :: s.answers }

/-- A free value (notes/assumptions/3.md), and the state that has used it. -/
def State.free (s : State) : Word × State := (Config.freeWord s.freeCtr, { s with freeCtr := s.freeCtr + 1 })

/-- `n` free values in a row. -/
def State.frees (s : State) (n : Nat) : List Word × State :=
  ((List.range n).map fun k => Config.freeWord (s.freeCtr + k), { s with freeCtr := s.freeCtr + n })

/-- The current gust number (R20). -/
def State.gust (s : State) : Nat := s.get .GST_NUMBER_NUMBER 0

/-- Whether the lull has begun and the boundary has not come (R24). -/
def State.inLull (s : State) : Bool := s.phase != 0

/-- The die of a flat site number, and the site on its die. -/
def dieOf (c : Nat) : Nat := c / 68
def siteIn (c : Nat) : Nat := c % 68

/-- The physical site that die `d`'s logical index `c` is bound to (R3, R328), if any. -/
def State.siteOf (s : State) (d c : Nat) : Option Nat :=
  ((List.range 68).find? fun k => s.get .CORE_SITE_LOGICAL (68 * d + k) == c).map fun k => 68 * d + k

/-- The partition that holds die `d`: PART_STATUS.STATE not free and the die in DIE_MASK (R314). -/
def State.dieOwner (s : State) (d : Nat) : Option Nat :=
  (List.range 12).find? fun p => s.get .PART_STATUS_STATE p != 0 && bitOf (s.get .PART_STATUS_DIE_MASK p) d

/-- The dies of a partition. -/
def State.partDies (s : State) (p : Nat) : List Nat := setBits 12 (s.get .PART_STATUS_DIE_MASK p)

/-- The sites that hold the logical cores of a partition, in order of die and logical index (R22). -/
def State.partSites (s : State) (p : Nat) : List Nat :=
  (s.partDies p).flatMap fun d => (List.range 64).filterMap fun c => s.siteOf d c

/-- Every physical site of a partition's dies. -/
def State.partAllSites (s : State) (p : Nat) : List Nat :=
  (s.partDies p).flatMap fun d => (List.range 68).map fun k => 68 * d + k

/-- The partition a function acts for: none for the PF, its bound partition for a VF (R276). -/
def State.fnPart (s : State) (f : Nat) : Option Nat :=
  if f = 0 then none else if s.on .HST_FUNC_CTL_BOUND f then some (s.get .HST_FUNC_CTL_PARTITION f) else none

/-- The VF bound to a partition; 0 for none. -/
def State.partVf (s : State) (p : Nat) : Nat := s.get .PART_STATUS_VF p

end Sys2Proof.Machine
end

