-- ==== Sys2Proof/Machine/Mem.lean ====
section
/-!
DEFINITION. Device memory: the address maps (R102, R197, R280), the two error codes (R114, R115), reads and writes of whole and partial transfers
(R116, R117), the SECDED memories (R97, R204), the flip masks (R121), withdrawn chunks and banks (R119, R329).
-/
namespace Sys2Proof.Machine

/-! ### Addresses -/

/-- Bank of a chunk of a slice (R102). -/
def bankOfChunk (chunk : Nat) : Nat := 32 * (chunk % 4) + chunk / 4 % 32

/-- Slice offset of a row of a bank (R126), burst 0. -/
def rowOffset (bank row : Nat) : Nat := (128 * row + 4 * (bank % 32) + bank / 32) * 2048

/-- Key of a logical row in the row repair map. -/
def rowKey (site bank row : Nat) : Nat := (site * 128 + bank) * 8192 + row

/-- Physical row of a logical row (R118): spare k of its 64-row group stands at rows 4,608 up. -/
def State.physRow (s : State) (site bank row : Nat) : Nat :=
  let k := SMap.get s.rowSpares (rowKey site bank row) 0
  if k = 0 then row else 4608 + 2 * (row / 64) + (k - 1)

/-- Bytes a store holds (R101, R196, R204, R84). -/
def Store.size : Store → Nat
  | .fen _ => 0x48000000
  | .marsh _ => 0x1800000000
  | .cache => 0x18000000
  | .pool _ => 0x400000

/-- Physical key of a byte (notes/assumptions/6.md). -/
def State.physKey (s : State) (st : Store) (off : Nat) : Nat :=
  match st with
  | .fen site =>
    let chunk := off / 2048
    let row := s.physRow site (bankOfChunk chunk) (chunk / 128)
    site * 2 ^ 31 + (row * 128 + chunk % 128) * 2048 + off % 2048
  | .marsh m => 0x20000000000 + m * 2 ^ 37 + off
  | .cache => 0x40000000000 + off
  | .pool site => 0x50000000000 + site * 2 ^ 22 + off

/-- A device address resolved to a store and an offset in it (R280); none where nothing is mapped. -/
def State.devLoc (s : State) (a : Nat) : Option (Store × Nat) :=
  if a < 0x18000000000 then
    let u := a / 2 ^ 31
    let off := a % 2 ^ 31
    if off < 0x48000000 then (s.siteOf (u / 64) (u % 64)).map fun c => (.fen c, off) else none
  else if 0x20000000000 ≤ a ∧ a < 0x20000000000 + 12 * 2 ^ 37 then
    let off := (a - 0x20000000000) % 2 ^ 37
    if off < 0x1800000000 then some (.marsh ((a - 0x20000000000) / 2 ^ 37), off) else none
  else if 0x40000000000 ≤ a ∧ a < 0x40000000000 + 0x18000000 then some (.cache, a - 0x40000000000)
  else if 0x50000000000 ≤ a ∧ a < 0x50000000000 + 768 * 2 ^ 22 then
    let u := (a - 0x50000000000) / 2 ^ 22
    (s.siteOf (u / 64) (u % 64)).map fun c => (.pool c, (a - 0x50000000000) % 2 ^ 22)
  else none

/-- The device range of `n` bytes from `a`, as one run in one store. -/
def State.devRange (s : State) (a n : Nat) : Option (Store × Nat) :=
  match s.devLoc a with
  | some (st, off) => if off + n ≤ st.size then some (st, off) else none
  | none => none

/-- The device range of `n` bytes from `a` as runs in one store each, in order (R280): the pools of consecutive logical cores lie one after another. -/
def State.devRuns (s : State) (a n : Nat) : Option (List (Store × Nat × Nat)) :=
  match s.devRange a n with
  | some (st, off) => some [(st, off, n)]
  | none =>
    if a < 0x50000000000 ∨ 0x50000000000 + 768 * 2 ^ 22 < a + n then none
    else (List.range ((a + n - 1) / 2 ^ 22 + 1 - a / 2 ^ 22)).mapM fun k =>
      let b := max a ((a / 2 ^ 22 + k) * 2 ^ 22)
      (s.devLoc b).map fun x => (x.1, x.2, min (a + n) ((a / 2 ^ 22 + k + 1) * 2 ^ 22) - b)

/-- The partition that owns a byte of a store (R314); none where no partition owns it. -/
def State.ownerOf (s : State) (st : Store) (off : Nat) : Option Nat :=
  match st with
  | .fen c | .pool c => s.dieOwner (dieOf c)
  | .cache => (List.range 12).find? fun p =>
      s.get .PART_STATUS_STATE p != 0 && s.get .PART_SHC_BASE p ≤ off && off < s.get .PART_SHC_BASE p + s.get .PART_SHC_BYTES p
  | .marsh m => (List.range 12).find? fun p =>
      s.get .PART_STATUS_STATE p != 0 && (List.range 16).any fun k =>
        let w := s.get .PART_MARSH_SHARE (ix2 16 p k)
        bitOf w 4 && bitsOf w 3 0 == m && bitsOf w 22 16 * 2 ^ 30 ≤ off && off < (bitsOf w 22 16 + bitsOf w 38 32) * 2 ^ 30

/-- Whether a whole range lies in partition `p`'s resources. -/
def State.ownsRange (s : State) (p : Nat) (st : Store) (off n : Nat) : Bool :=
  off + n ≤ st.size && s.ownerOf st off == some p &&
    (match st with
     | .marsh _ => (List.range (n / 2 ^ 30 + 1)).all fun k => s.ownerOf st (min (off + k * 2 ^ 30) (off + n - 1)) == some p
     | _ => true) && (n == 0 || s.ownerOf st (off + n - 1) == some p)

/-! ### Withdrawn chunks and banks (R119, R329) -/

/-- Key of a chunk in the list of retired chunks. -/
def chunkKey (st : Store) (off : Nat) : Nat :=
  match st with
  | .fen site => site * 2 ^ 20 + off / 2048
  | .marsh m => 2 ^ 31 + m * 2 ^ 26 + off / 2048
  | _ => 0

/-- Whether a byte lies in a retired chunk or in a retired bank. -/
def State.withdrawn (s : State) (st : Store) (off : Nat) : Bool :=
  match st with
  | .fen site => s.on .FEN_BANK_CTL_RETIRED (ix2 128 site (bankOfChunk (off / 2048))) || s.retired.contains (chunkKey st off)
  | .marsh _ => s.retired.contains (chunkKey st off)
  | _ => false

/-- Offsets of the chunks that a range touches. -/
def chunkOffs (off n : Nat) : List Nat := (List.range ((off + n - 1) / 2048 + 1 - off / 2048)).map fun k => (off / 2048 + k) * 2048

/-- Whether any byte of a range is withdrawn. -/
def State.anyWithdrawn (s : State) (st : Store) (off n : Nat) : Bool := (chunkOffs off n).any fun o => s.withdrawn st o

/-- Whether any byte of some runs is withdrawn. -/
def State.runsWithdrawn (s : State) (rs : List (Store × Nat × Nat)) : Bool := rs.any fun x => s.anyWithdrawn x.1 x.2.1 x.2.2

/-- The runs of a range that partition `p` may name (R280): mapped, and in its resources; any mapped range for no partition. -/
def State.cmdRuns (s : State) (p a n : Nat) : Option (List (Store × Nat × Nat)) :=
  match s.devRuns a n with
  | some rs => if p ≥ 12 || rs.all (fun x => s.ownsRange p x.1 x.2.1 x.2.2) then some rs else none
  | none => none

/-- Whether a reed grain holds a bank that the range touches (R107, R141). -/
def State.bankHeld (s : State) (st : Store) (off n : Nat) : Bool :=
  match st with
  | .fen site => (chunkOffs off (min n (128 * 2048))).any fun o => s.on .FEN_BANK_CTL_GRAIN (ix2 128 site (bankOfChunk (o / 2048)))
  | _ => false

/-! ### The codes (R114, R115) -/

/-- Multiplication by α in GF(2^8), polynomial x^8 + x^4 + x^3 + x^2 + 1. -/
def gfTimesAlpha (a : Nat) : Nat := let b := 2 * a; if b ≥ 256 then b ^^^ 0x11D else b

/-- a × α^k. -/
def gfShift (a k : Nat) : Nat := Nat.repeat gfTimesAlpha k a

/-- Product in GF(2^8). -/
def gfMul (a b : Nat) : Nat := (List.range 8).foldl (fun acc k => if bitOf b k then acc ^^^ gfShift a k else acc) 0

/-- Symbol `i` of a pattern over 67 symbols. -/
def symbolOf (p i : Nat) : Nat := p / 256 ^ i % 256

/-- Syndrome j of an error pattern: Σ e_s α^(j (66 − s)). -/
def syndrome (p j : Nat) : Nat :=
  (List.range 67).foldl (fun acc i => acc ^^^ gfShift (symbolOf p i) (j * (66 - i) % 255)) 0

/-- What the slice code makes of an error pattern: none where it sees no error, the symbol and value it corrects, or uncorrectable. -/
inductive SliceVerdict where
  | clean
  | corrects (symbol value : Nat)
  | bad
  deriving DecidableEq, Repr

def sliceDecode (p : Nat) : SliceVerdict :=
  let s0 := syndrome p 0
  let s1 := syndrome p 1
  let s2 := syndrome p 2
  if s0 = 0 ∧ s1 = 0 ∧ s2 = 0 then .clean
  else if s0 = 0 then .bad
  else match (List.range 67).find? fun i => gfShift s0 (66 - i) == s1 && gfShift s0 (2 * (66 - i) % 255) == s2 with
    | some i => .corrects i s0
    | none => .bad

/-- Word `w` of an on-die pattern: 128 data bits, then its 8 check bits. -/
def onDieWord (p w : Nat) : Nat := p / 2 ^ (128 * w) % 2 ^ 128 + p / 2 ^ (512 + 8 * w) % 256 * 2 ^ 128

/-- The report of a layer on one word: detected (none), or the pattern left on its data with whether it was corrected. -/
def onDieReport (p : Nat) : Option (Nat × Bool) :=
  if p = 0 then some (0, false)
  else if popcount 136 p = 1 then some (0, true)
  else match Config.onDieMatch p with
    | none => none
    | some b => some ((p ^^^ 2 ^ b.val) % 2 ^ 128, true)

/-- The outcome of reading one transfer: uncorrectable or not, words corrected on die, the symbol the slice code corrected, and the pattern left
on the data that the requester receives. -/
structure TransferOutcome where
  bad : Bool
  onDie : Nat
  symbol : Option Nat
  left : Nat
  deriving DecidableEq, Repr

def TransferOutcome.clean : TransferOutcome := ⟨false, 0, none, 0⟩

/-- Both codes at work on a transfer (R115). -/
def MemFault.outcome (f : MemFault) : TransferOutcome :=
  let reports := (List.range 4).map fun w => onDieReport (onDieWord f.diePat w)
  let corrected := (reports.filter fun r => match r with | some (_, c) => c | none => false).length
  if reports.any Option.isNone then ⟨true, corrected, none, 0⟩
  else
    let afterDie := (List.range 4).foldl (fun acc w => acc + (match reports.getD w none with | some (r, _) => r | none => 0) * 2 ^ (128 * w)) 0
    let e := afterDie ^^^ f.slicePat
    match sliceDecode e with
    | .bad => ⟨true, corrected, none, 0⟩
    | .clean => ⟨false, corrected, none, e % 2 ^ 512⟩
    | .corrects i v =>
      if i < 64 && (match reports.getD (i / 16) none with | some (_, c) => c | none => false) then ⟨true, corrected, none, 0⟩
      else ⟨false, corrected, some i, (e ^^^ (v * 256 ^ i)) % 2 ^ 512⟩

/-- A check pattern that the slice code reports as uncorrectable (R118, R203): two symbols wrong. -/
def uncorrectableMark : MemFault := ⟨2 ^ 512 + 2 ^ 520, 0, false⟩

/-! ### Counting (R124, R215) -/

/-- An event that a transfer was found corrected or uncorrectable, for the caller to raise (R319, R323). -/
inductive EccNote where
  | corrected (st : Store) (off symbol rep : Nat)
  | uncorrectable (st : Store) (off : Nat) (scrub : Bool)
  deriving DecidableEq, Repr

/-- The counters of a slice or a stack after a transfer with a fault has been read. -/
def State.countEcc (s : State) (st : Store) (off : Nat) (o : TransferOutcome) (scrub : Bool) : State :=
  match st with
  | .fen c =>
    let s := { s with ondie := SMap.set s.ondie c (SMap.get s.ondie c 0 + o.onDie) 0 }
    if o.bad then
      (s.bump .FEN_ECC_COUNT_UNCORRECTABLE c 1).puts c
        [(.FEN_ECC_LAST_VALID, 1), (.FEN_ECC_LAST_UNCORR, 1), (.FEN_ECC_LAST_SCRUB, Bool.bit scrub), (.FEN_ECC_LAST_SYMBOL, 127), (.FEN_ECC_LAST_TRANSFER, off / 64)]
    else match o.symbol with
      | none => s
      | some y =>
        let ch := off / 2048 % 4
        let i := ix2 4 c ch
        let rep := if s.get .FEN_SYMBOL_LAST_SYMBOL i = y ∧ s.get .FEN_SYMBOL_LAST_REPEAT i ≠ 0 then s.get .FEN_SYMBOL_LAST_REPEAT i + 1 else 1
        (((s.bump .FEN_ECC_COUNT_SLICE_CORRECTED c 1).puts c
          [(.FEN_ECC_LAST_VALID, 1), (.FEN_ECC_LAST_UNCORR, 0), (.FEN_ECC_LAST_SCRUB, Bool.bit scrub), (.FEN_ECC_LAST_SYMBOL, y), (.FEN_ECC_LAST_TRANSFER, off / 64)]).put
          .FEN_SYMBOL_LAST_SYMBOL i y).put .FEN_SYMBOL_LAST_REPEAT i (saturate 16 rep)
  | .marsh m =>
    let s := { s with ondie := SMap.set s.ondie (816 + m) (SMap.get s.ondie (816 + m) 0 + o.onDie) 0 }
    let ch := off / 2048 % 16
    if o.bad then
      (s.bump .MRS_ECC_COUNT_UNCORRECTABLE m 1).puts m
        [(.MRS_ECC_LAST_VALID, 1), (.MRS_ECC_LAST_UNCORR, 1), (.MRS_ECC_LAST_SCRUB, Bool.bit scrub), (.MRS_ECC_LAST_SYMBOL, 127), (.MRS_ECC_LAST_TRANSFER, off / 64), (.MRS_ECC_LAST_CHANNEL, ch)]
    else match o.symbol with
      | none => s
      | some y => (s.bump .MRS_ECC_COUNT_SLICE_CORRECTED m 1).puts m
        [(.MRS_ECC_LAST_VALID, 1), (.MRS_ECC_LAST_UNCORR, 0), (.MRS_ECC_LAST_SCRUB, Bool.bit scrub), (.MRS_ECC_LAST_SYMBOL, y), (.MRS_ECC_LAST_TRANSFER, off / 64), (.MRS_ECC_LAST_CHANNEL, ch)]
  | _ => s

/-- The event notes of one faulty transfer: uncorrectable, or 64 corrections in a row of one symbol (R319). -/
def State.eccNotes (after : State) (st : Store) (off : Nat) (o : TransferOutcome) (scrub : Bool) : List EccNote :=
  if o.bad then [.uncorrectable st off scrub]
  else match st, o.symbol with
    | .fen c, some y =>
      let i := ix2 4 c (off / 2048 % 4)
      if after.get .FEN_SYMBOL_LAST_REPEAT i = 64 then [.corrected st off y 64] else []
    | _, _ => []

/-- SECDED of one 64-bit word (R97, R204): corrected, uncorrectable, or the pattern left on it. -/
inductive SecdedVerdict where
  | clean
  | corrected
  | bad
  | leaves (pattern : Nat)
  deriving DecidableEq, Repr

def secded (w p : Nat) : SecdedVerdict :=
  if p = 0 then .clean
  else if popcount w p = 1 then .corrected
  else if popcount w p = 2 then .bad
  else match Config.secdedMany p with
    | none => .bad
    | some q => if q = 0 then .corrected else .leaves q

/-- Counters of the pool of a core and of the shared cache. -/
def State.countSram (s : State) (st : Store) (v : SecdedVerdict) : State :=
  match st, v with
  | .pool c, .corrected => s.bump .CORE_POOL_ECC_CORRECTED c 1
  | .pool c, .bad => s.bump .CORE_POOL_ECC_UNCORRECTABLE c 1
  | .cache, .corrected => s.bump .SHC_ECC_COUNT_CORRECTED 0 1
  | .cache, .bad => s.bump .SHC_ECC_COUNT_UNCORRECTABLE 0 1
  | _, _ => s

def Store.isSram : Store → Bool
  | .cache | .pool _ => true
  | _ => false

/-! ### Reading -/

/-- Physical channel of a marsh stack's logical channel: 16 where the spare carries it (R203). -/
def State.marshPhys (s : State) (m ch : Nat) : Nat :=
  if s.get .MRS_SPARE_STATE m = 2 ∧ s.get .MRS_SPARE_TARGET m = ch then 16 else ch

/-- Symbols of a transfer whose data bond or wire has failed (R104, R198): four bonds of a slice, or two wires of a stack, carry one byte. A bond with a
spare in its place does no damage, and a failed spare damages what it stands in for. -/
def State.deadSymbols (s : State) (st : Store) (off : Nat) : List Nat :=
  match st with
  | .fen c =>
    let ch := off / 2048 % 4
    (s.deadWires.filterMap fun w =>
      if w / 512 ≠ 4 * c + ch then none
      else
        let b := w % 512
        let spare (k : Nat) : Nat := ix2 64 c (16 * ch + k)
        if 256 ≤ b then (if s.on .FEN_BOND_SPARE_VALID (spare (b - 256)) then some (s.get .FEN_BOND_SPARE_TARGET (spare (b - 256)) / 4) else none)
        else if (List.range 16).any fun k => s.on .FEN_BOND_SPARE_VALID (spare k) && s.get .FEN_BOND_SPARE_TARGET (spare k) == b then none
        else some (b / 4)).eraseDups
  | .marsh m =>
    (s.deadWires.filterMap fun w =>
      if w / 512 ≠ 2 ^ 15 + 17 * m + s.marshPhys m (off / 2048 % 16) then none
      else if w % 512 < 134 then some (w % 512 / 2) else none).eraseDups
  | _ => []

/-- What failed bonds and wires do to a transfer that crosses them: one free byte on each symbol (notes/assumptions/57.md). -/
def State.wireDamage (s : State) (st : Store) (off : Nat) : Nat × State :=
  (s.deadSymbols st off).foldl (fun acc y => let (w, t) := acc.2.free; (acc.1 ^^^ (w.toNat % 256 * 256 ^ y), t)) (0, s)

/-- The pattern that a read of a transfer meets: what is stored at its physical key, and the damage on its way. -/
def State.met (s : State) (st : Store) (off key : Nat) : MemFault × State :=
  let (p, s) := s.wireDamage st off
  let f := SMap.get s.faults key MemFault.clean
  ({ f with slicePat := f.slicePat ^^^ p }, s)

/-- A transfer written across failed bonds or wires is stored damaged, under the codes of what was sent. -/
def State.layDamage (s : State) (st : Store) (off key : Nat) : State :=
  let (p, s) := s.wireDamage st off
  let f := SMap.get s.faults key MemFault.clean
  { s with faults := SMap.set s.faults key { f with slicePat := f.slicePat ^^^ p } MemFault.clean }

/-- Keys of a range whose transfers may be met with an error. -/
def State.metKeys (s : State) (lo hi : Nat) : List Nat :=
  if s.deadWires.isEmpty then (s.faults.range lo hi).map Prod.fst else (List.range (hi - lo)).map (lo + ·)

/-- The slice as its reeds see it: beside the banks, no bond is crossed (R125). -/
def State.atBanks (s : State) : State := { s with deadWires := [] }

/-- Back across the bonds: `s` with the bonds of `t`. -/
def State.overBonds (s t : State) : State := { s with deadWires := t.deadWires }

/-- Whether no transfer can hold an error. -/
def State.noFaults (s : State) : Bool := s.faults.isEmpty && s.deadWires.isEmpty

/-- A read: the bytes (R6: lowest offset first), whether any transfer or word of the range was uncorrectable (R116: then there are no data), the
state with its counters, and the events found. -/
structure ReadRes where
  bytes : List Byte
  bad : Bool
  st : State
  notes : List EccNote

/-- The bytes as stored, by physical key. -/
def State.rawBytes (s : State) (st : Store) (off n : Nat) : List Byte :=
  (List.range n).map fun k => SMap.get s.mem (s.physKey st (off + k)) 0

/-- A pattern XORed on the bytes of a range: bit 0 of the pattern is bit 0 of the byte at offset `base`. -/
def xorPattern (bs : List Byte) (off base p : Nat) : List Byte :=
  bs.zipIdx.map fun (b, k) => if off + k < base then b else b ^^^ BitVec.ofNat 8 (p / 256 ^ (off + k - base))

/-- One transfer of fen or marsh met by a read. -/
def readTransfer (st : Store) (off : Nat) (r : ReadRes) (t : Nat) : ReadRes :=
  let (f, s) := r.st.met st (64 * t) (r.st.physKey st (64 * t) / 64)
  if f = MemFault.clean then { r with st := s }
  else
    let o := f.outcome
    let s := s.countEcc st (64 * t) o false
    { bytes := xorPattern r.bytes off (64 * t) o.left, bad := r.bad || o.bad, st := s,
      notes := r.notes ++ s.eccNotes st (64 * t) o false }

/-- One SECDED word of pool or cache met by a read. -/
def readSramWord (st : Store) (off : Nat) (r : ReadRes) (t : Nat) : ReadRes :=
  let v := secded 72 (SMap.get r.st.sram (r.st.physKey st (8 * t) / 8) 0)
  let s := r.st.countSram st v
  match v with
  | .clean => r
  | .corrected => { r with st := s }
  | .bad => { r with bad := true, st := s, notes := r.notes ++ [.uncorrectable st (8 * t) false] }
  | .leaves p => { r with st := s, bytes := xorPattern r.bytes off (8 * t) p }

/-- A read of `n` bytes at an offset of a store. -/
def State.readMem (s : State) (st : Store) (off n : Nat) : ReadRes :=
  let r : ReadRes := ⟨s.rawBytes st off n, false, s, []⟩
  if st.isSram then
    if s.sram.isEmpty then r
    else (List.range ((off + n + 7) / 8 - off / 8)).foldl (fun r k => readSramWord st off r (off / 8 + k)) r
  else
    if s.noFaults then r
    else (List.range ((off + n + 63) / 64 - off / 64)).foldl (fun r k => readTransfer st off r (off / 64 + k)) r

/-- The bytes that a read returns where it is not uncorrectable, without counting: for state that only looks. -/
def State.peek (s : State) (st : Store) (off n : Nat) : List Byte := (s.readMem st off n).bytes

/-! ### Writing -/

/-- Bytes of a store's unit of writing: a transfer of fen or marsh (R117), a SECDED word of pool or cache (R97). -/
def Store.unit (st : Store) : Nat := if st.isSram then 8 else 64

/-- Whether a stack's channel is migrating to the spare (R203). -/
def State.migrating (s : State) (m ch : Nat) : Bool := s.get .MRS_SPARE_STATE m == 1 && s.get .MRS_SPARE_TARGET m == ch

/-- A transfer rewritten whole: its patterns go, unless the cells have failed (R117), and failed bonds or wires leave new ones. A transfer of a migrating
channel is written to the spare too (R203). -/
def State.clearFault (s : State) (st : Store) (t : Nat) : State :=
  let k := s.physKey st (64 * t) / 64
  let f := SMap.get s.faults k MemFault.clean
  let s := if f.cells then s else { s with faults := SMap.set s.faults k MemFault.clean MemFault.clean }
  let s := s.layDamage st (64 * t) k
  match st with
  | .marsh m => if s.migrating m (64 * t / 2048 % 16) then { s with spareCopy := SMap.set s.spareCopy k (some MemFault.clean) none } else s
  | _ => s

/-- A unit rewritten whole: valid codes again. -/
def State.recode (s : State) (st : Store) (t : Nat) : State :=
  if st.isSram then { s with sram := SMap.set s.sram (s.physKey st (8 * t) / 8) 0 0 } else s.clearFault st t

/-- A reservation on bytes of a pool that are written is lost (notes/assumptions/12.md). -/
def State.breakResv (s : State) (st : Store) (off n : Nat) : State :=
  match st with
  | .pool c =>
    match (s.core c).resv with
    | some (a, k) => if a < off + n ∧ off < a + k then s.modCore c fun x => { x with resv := none } else s
    | none => s
  | _ => s

/-- The bytes stored, by physical key. -/
def State.rawWrite (s : State) (st : Store) (off : Nat) (bs : List Byte) : State :=
  let t : State := { s with mem := bs.zipIdx.foldl (fun m e => SMap.set m (s.physKey st (off + e.2)) e.1 0) s.mem }
  t.breakResv st off bs.length

/-- A write: the state with its counters, the offset of the transfer or word whose read was uncorrectable (R117: from it on nothing is written), and the
events found. -/
structure WriteRes where
  st : State
  refused : Option Nat
  notes : List EccNote

/-- A range of a store cut at the bounds of its units: offset and bytes of each piece. -/
def unitPieces (u off : Nat) (bs : List Byte) : List (Nat × List Byte) :=
  (List.range ((off + bs.length + u - 1) / u - off / u)).map fun k =>
    let a := max off ((off / u + k) * u)
    (a, (bs.drop (a - off)).take (min (off + bs.length) ((off / u + k + 1) * u) - a))

/-- One piece written: a whole unit, or a read, a merge with the bytes it delivers and a write of the whole unit (R117). -/
def writeUnit (st : Store) (r : WriteRes) (e : Nat × List Byte) : WriteRes :=
  let t := e.1 / st.unit
  if r.refused.isSome then r
  else if e.2.length = st.unit then { r with st := (r.st.recode st t).rawWrite st e.1 e.2 }
  else
    let x := r.st.readMem st (t * st.unit) st.unit
    if x.bad then ⟨x.st, some (t * st.unit), r.notes ++ x.notes⟩
    else
      let at_ := e.1 % st.unit
      ⟨(x.st.recode st t).rawWrite st (t * st.unit) (x.bytes.take at_ ++ e.2 ++ x.bytes.drop (at_ + e.2.length)), none, r.notes ++ x.notes⟩

/-- A write of bytes at an offset of a store (R117, R97). -/
def State.writeMem (s : State) (st : Store) (off : Nat) (bs : List Byte) : WriteRes :=
  if bs.isEmpty then ⟨s, none, []⟩
  else if (if st.isSram then s.sram.isEmpty else s.noFaults) then ⟨s.rawWrite st off bs, none, []⟩
  else (unitPieces st.unit off bs).foldl (writeUnit st) ⟨s, none, []⟩

/-- The pattern of a flip mask from its registers: 512 data bits. -/
def State.flipData (s : State) (f : Fld) (u : Nat) : Nat :=
  (List.range 8).foldl (fun acc k => acc + s.get f (ix2 8 u k) * 2 ^ (64 * k)) 0

/-- The patterns that a flip mask lays on a transfer (R121): TARGET 0 on the slice code's symbols, TARGET 1 on the bits stored in the layer. -/
def flipFault (old : MemFault) (target data check : Nat) : MemFault :=
  if target = 0 then { old with slicePat := old.slicePat ^^^ (data + check % 2 ^ 24 * 2 ^ 512) }
  else { old with diePat := old.diePat ^^^ (data + check % 2 ^ 32 * 2 ^ 512) }

/-- A flip mask's pattern laid on a transfer, on the spare's copy of a migrating channel too. -/
def State.layFlip (s : State) (st : Store) (t target data check : Nat) : State :=
  let k := s.physKey st (64 * t) / 64
  let s := { s with faults := SMap.set s.faults k (flipFault (SMap.get s.faults k MemFault.clean) target data check) MemFault.clean }
  match SMap.get s.spareCopy k none with
  | some f => { s with spareCopy := SMap.set s.spareCopy k (some (flipFault f target data check)) none }
  | none => s

/-- A write from the host path (R121): MEM_WRITE, a DMA engine, or the BAR2 window. An armed flip mask of the slice, or of the stack for the channel it
names, takes the first transfer written. -/
def State.hostWriteMem (s : State) (st : Store) (off : Nat) (bs : List Byte) : WriteRes :=
  let r := s.writeMem st off bs
  let t := r.st
  let first := off / 64
  let written := (match r.refused with | some a => a / 64 | none => (off + bs.length + 63) / 64) - first
  match st with
  | .fen c =>
    if t.on .FEN_FLIP_CTL_ARM c && written != 0 && !bs.isEmpty then
      let t := t.layFlip st first (t.get .FEN_FLIP_CTL_TARGET c) (t.flipData .FEN_FLIP_DATA_MASK c) (t.get .FEN_FLIP_CHECK_MASK c)
      { r with st := (t.put .FEN_FLIP_CTL_ARM c 0).put .FEN_FLIP_CTL_DONE c 1 }
    else r
  | .marsh m =>
    if t.on .MRS_FLIP_CTL_ARM m && !bs.isEmpty then
      match (List.range written).find? fun k => 64 * (first + k) / 2048 % 16 == t.get .MRS_FLIP_CTL_CHANNEL m with
      | some k =>
        let t := t.layFlip st (first + k) (t.get .MRS_FLIP_CTL_TARGET m) (t.flipData .MRS_FLIP_DATA_MASK m) (t.get .MRS_FLIP_CHECK_MASK m)
        { r with st := (t.put .MRS_FLIP_CTL_ARM m 0).put .MRS_FLIP_CTL_DONE m 1 }
      | none => r
    else r
  | _ => r

/-- A range of a store set to zero with valid codes (R318): patterns go with it. -/
def State.zeroStore (s : State) (st : Store) (off n : Nat) : State :=
  match st with
  | .fen _ =>
    -- spare rows lie above the logical rows: a whole slice is cleared as built
    let lo := s.physKey st off
    let hi := if off = 0 ∧ n = 0x48000000 then lo + 4752 * 128 * 2048 else lo + n
    { s with mem := s.mem.clearRange lo hi, faults := s.faults.filter fun e => e.1 < lo / 64 || hi / 64 ≤ e.1 || e.2.cells }
  | _ =>
    let lo := s.physKey st off
    { s with mem := s.mem.clearRange lo (lo + n), faults := s.faults.filter fun e => e.1 < lo / 64 || (lo + n) / 64 ≤ e.1 || e.2.cells,
             sram := s.sram.filter fun e => e.1 < lo / 8 || (lo + n) / 8 ≤ e.1 }

/-- The canonical form of a memory (device memory, host memory, peat pages): keys strictly rising, no entry that holds 0, which an unlisted byte reads as
(notes/assumptions/6.md). -/
def Memory.wf (m : SMap Byte) : Bool := SMap.wf m fun _ => 0

/-- A 64-bit word of memory (R22: little-endian). -/
def State.peekWord (s : State) (st : Store) (off : Nat) : Word := BitVec.ofNat 64 (ofBytesLE (s.peek st off 8))

/-! ### Host memory -/

/-- Bytes of host memory at a bus address. -/
def State.hostRead (s : State) (a n : Nat) : List Byte := SMap.getList 0 s.hostMem a n

/-- Bytes written to host memory. -/
def State.hostStore (s : State) (a : Nat) (bs : List Byte) : State := { s with hostMem := SMap.setList 0 s.hostMem a bs }

end Sys2Proof.Machine
end

