-- ==== Sys2Proof/Machine/Ops.lean ====
section
/-!
DEFINITION. The operations that every family shares: statuses, event records and logs (R319 to R324), interrupts (R285), completions and notices
(R287, R288), partition fault flags (R29), what uncorrectable data do (R116, R319), background allowances and regulators (R32, R211), votes (R326).
-/
namespace Sys2Proof.Machine

/-! ### Status values (R293) -/

def stOk : Nat := 0
def stQueued : Nat := 1
def stBadPacket : Nat := 2
def stFormatFloor : Nat := 3
def stTargetResetting : Nat := 4
def stSquall : Nat := 5
def stChecksum : Nat := 6
def stUncorrectable : Nat := 7
def stVoteLost : Nat := 8
def stNotCommitted : Nat := 9
def stLicence : Nat := 10
def stTempWindow : Nat := 11
def stWearBudget : Nat := 12
def stDisabled : Nat := 13
def stStopped : Nat := 14
def stBusy : Nat := 15
def stDoldrums : Nat := 16

/-! ### The host side -/

/-- Whether the module reaches host memory: the link is active (R275) and the memory answers. -/
def State.hostUp (s : State) : Bool := s.on .HST_LINK_STATUS_UP 0 && s.hostOk

/-- A module write to a ring or log address: in device memory or in host memory (R282, R339). False where it fails. -/
def State.busWrite (s : State) (device : Bool) (a : Nat) (bs : List Byte) : State × Bool :=
  if device then
    match s.devRange a bs.length with
    | some (st, off) =>
      if s.anyWithdrawn st off bs.length then (s, false)
      else let r := s.writeMem st off bs; (r.st, r.refused.isNone)
    | none => (s, false)
  else if s.hostUp then (s.hostStore a bs, true) else (s, false)

/-- MSI-X vectors of a function (R274). -/
def vectorsOf (f : Nat) : Nat := if f = 0 then 66 else 9

/-- An interrupt message (R285): a vector outside the function's table fires nothing. -/
def State.fire (s : State) (f v : Nat) : State := if v < vectorsOf f then { s with msix := (f, v) :: s.msix } else s

/-! ### Event records (R321 to R324) -/

/-- What a record says before it is placed in a log. -/
structure Rec where
  level : Nat
  unit : Nat
  index : Nat
  cls : Nat
  part : Nat
  code : Nat
  p0 : Nat
  p1 : Nat
  deriving DecidableEq, Repr

/-- The record's words with SEQ, LOST and PHASE zero; OFFSET_NS is the free value `off` (notes/assumptions/2.md). -/
def State.recWords (s : State) (r : Rec) (off : Nat) : List Word :=
  let rerun := r.part < 12 && s.on .GST_PART_STATE_RERUN r.part
  [BitVec.ofNat 64 s.gust,
   BitVec.ofNat 64 (off % 20000000 + placed (Bool.bit rerun) 25 + placed r.level 28 + placed r.unit 32 + placed (r.index % 2 ^ 28) 36),
   BitVec.ofNat 64 (r.cls + placed r.part 8 + placed r.code 16 + placed (r.p0 % 2 ^ 32) 32),
   BitVec.ofNat 64 r.p1]

/-- Vector of a function's event log (R285). -/
def logVector (f : Nat) : Nat := if f = 0 then 64 else 8

/-- The interrupt of a record, held off while HOLDOFF_US runs (R324). -/
def State.logInterrupt (s : State) (f : Nat) : State :=
  if s.get .EVT_LOG_CTL_HOLDOFF_US f = 0 then s.fire f (logVector f)
  else if SMap.get s.holdoff f false then { s with heldIrq := SMap.set s.heldIrq f true false }
  else { s.fire f (logVector f) with holdoff := SMap.set s.holdoff f true false }

/-- A record that cannot be written (R324). -/
def State.logDrop (s : State) (f : Nat) : State :=
  { s.bump .EVT_LOG_STATUS_DROPPED f 1 with logLost := SMap.set s.logLost f true false }

/-- A record written to the log of a function, or dropped. -/
def State.logWrite (s : State) (f : Nat) (ws : List Word) : State :=
  if !s.on .EVT_LOG_CTL_ENABLE f then s.logDrop f
  else
    let n := s.get .EVT_LOG_STATUS_WRITE f
    let seq := SMap.get s.logSeq f 0
    let phase := s.get .EVT_LOG_STATUS_PHASE f
    let lost := Bool.bit (SMap.get s.logLost f false)
    let w0 := wordAt ws 0 + BitVec.ofNat 64 (placed seq 48)
    let w1 := wordAt ws 1 + BitVec.ofNat 64 (placed lost 26 + placed phase 27)
    let a := s.get .EVT_LOG_BASE_BASE f * 4096 + 32 * n
    let (t, ok) := s.busWrite (s.on .EVT_LOG_CTL_DEVICE f) a (wordsToBytes [w0, w1, wordAt ws 2, wordAt ws 3])
    if !ok then t.logDrop f
    else
      let n' := (n + 1) % 2 ^ (t.get .EVT_LOG_CTL_SIZE f + 6)
      let t := (t.put .EVT_LOG_STATUS_WRITE f n').put .EVT_LOG_STATUS_PHASE f (if n' = 0 then 1 - phase else phase)
      { t with logSeq := SMap.set t.logSeq f ((seq + 1) % 65536) 0, logLost := SMap.set t.logLost f false false }.logInterrupt f

/-- An event record raised: to the PF log, or held until that log is first enabled (R388); to the log of the VF bound to its partition; classes 11
and 14 also to the management path (R324). -/
def State.event (s : State) (r : Rec) : State :=
  let (w, s) := s.free
  let ws := s.recWords r w.toNat
  let s :=
    if s.pfLogOpened || s.on .EVT_LOG_CTL_ENABLE 0 then s.logWrite 0 ws
    else if s.heldRecs.length < 1024 then { s with heldRecs := s.heldRecs ++ [ws] }
    else s.logDrop 0
  let vf := if r.part < 12 then s.partVf r.part else 0
  let s := if vf = 0 then s else s.logWrite vf ws
  if r.cls = 11 ∨ r.cls = 14 then { s with mgmtOut := ws :: s.mgmtOut } else s

/-- A record whose CODE the spec does not give: a free value (notes/assumptions/3.md). -/
def State.eventFree (s : State) (r : Rec) : State :=
  let (w, s) := s.free
  s.event { r with code := w.toNat % 65536 }

/-- INDEX of a record of a site (R322). -/
def siteIdx (c : Nat) : Nat := dieOf c + placed (siteIn c) 4

/-- The partition of a die, 15 for none: the PARTITION of a record. -/
def State.diePart (s : State) (d : Nat) : Nat := (s.dieOwner d).getD 15

/-- A record of a partition's job or map (class 8; kinds of R323), from gust control. -/
def State.jobEvent (s : State) (p kind code : Nat) : State :=
  s.event ⟨5, 12, 0, 8, p, code, kind, s.get .GST_PART_STEP_STEP p⟩

/-! ### The fault flag of a partition (R29, R30) -/

/-- A detected fault: the first of a gust is the one reported (R31). -/
def State.flagPart (s : State) (p cause status : Nat) : State :=
  if p < 12 then s.modPart p fun x => if x.flag.isNone then { x with flag := some (cause, status) } else x else s

/-- The partition of a die flagged. -/
def State.flagDie (s : State) (d cause status : Nat) : State :=
  match s.dieOwner d with
  | some p => s.flagPart p cause status
  | none => s

/-! ### Faulty memory (R116, R319) -/

/-- UNIT, LEVEL, INDEX and store code of a place in memory (R322, R323). -/
def State.memSource (s : State) (st : Store) (off : Nat) : Nat × Nat × Nat × Nat :=
  match st with
  | .fen c =>
    let b := bankOfChunk (off / 2048)
    (2, 3, siteIdx c + placed b 11 + placed 1 18 + placed (b / 32) 19, 0)
  | .marsh m => (5, 5, m + placed (s.marshPhys m (off / 2048 % 16)) 4, 1)
  | .cache => (6, 5, off / 64 % 16, 2)
  | .pool c => (1, 3, siteIdx c + placed 2 11, 3)

/-- Device address of a byte of a slice (R280); its offset where the site is bound to no logical core. -/
def State.devAddr (s : State) (st : Store) (off : Nat) : Nat :=
  match st with
  | .fen c =>
    let l := s.get .CORE_SITE_LOGICAL c
    if l < 64 then 0x80000000 * (64 * dieOf c + l) + off else off
  | .marsh m => 0x20000000000 + 0x2000000000 * m + off
  | .cache => 0x40000000000 + off
  | .pool c =>
    let l := s.get .CORE_SITE_LOGICAL c
    if l < 64 then 0x50000000000 + 0x400000 * (64 * dieOf c + l) + off else off

/-- The record of one ECC note (classes 2 and 3). For a row read by a reed, `who` puts OP and TAG of its descriptor above the store code (R143, notes/assumptions/33.md). -/
def State.eccEventOf (s : State) (who : Nat) (n : EccNote) : State :=
  match n with
  | .corrected st off y rep =>
    let (u, l, i, _) := s.memSource st off
    s.event ⟨l, u, i, 2, (s.ownerOf st off).getD 15, stOk, y + placed rep 7, s.devAddr st (off / 64 * 64)⟩
  | .uncorrectable st off scrub =>
    let (u, l, i, code) := s.memSource st off
    s.event ⟨l, u, i, 3, (s.ownerOf st off).getD 15, stUncorrectable, Bool.bit scrub + placed code 1 + placed who 4, off⟩

def State.eccEvent (s : State) (n : EccNote) : State := s.eccEventOf 0 n

def State.eccEvents (s : State) (ns : List EccNote) : State := ns.foldl State.eccEvent s

/-- A write with its events raised: the state after it, and whether it was refused (R117). -/
def WriteRes.settle (r : WriteRes) : State × Bool := (r.st.eccEvents r.notes, r.refused.isSome)

/-- A write of bytes at an offset of a store. -/
def State.store (s : State) (st : Store) (off : Nat) (bs : List Byte) : State × Bool := (s.writeMem st off bs).settle

/-- A write from the host path. -/
def State.hostWrite (s : State) (st : Store) (off : Nat) (bs : List Byte) : State × Bool := (s.hostWriteMem st off bs).settle

/-- Destination rows of a reed descriptor (R138, R139): banks, first row, rows. -/
def ReedOp.dest (o : ReedOp) : List Nat × Nat × Nat :=
  let op := fieldOf (wordAt o.w 0) 3 0
  let mask := (wordAt o.w 1).toNat + placed (wordAt o.w 2).toNat 64
  let row := fieldOf (wordAt o.w 4) 12 0
  let n := fieldOf (wordAt o.w 0) 47 32
  if op = 5 then ([fieldOf (wordAt o.w 4) 19 13], row, n) else if op = 4 ∨ op = 6 ∨ op = 7 then (setBits 128 mask, row, n) else ([], 0, 0)

/-- Whether the descriptor names a destination row that a range of its slice touches. -/
def ReedOp.writes (o : ReedOp) (off n : Nat) : Bool :=
  let (banks, row, rows) := o.dest
  !banks.isEmpty && (chunkOffs off n).any fun x =>
    banks.contains (bankOfChunk (x / 2048)) && row ≤ x / 2048 / 128 && x / 2048 / 128 < row + rows

/-- Whether a range touches a row that a reed descriptor not yet complete will write: such a row has no defined value (R141). -/
def State.rowUndefined (s : State) (st : Store) (off n : Nat) : Bool :=
  match st with
  | .fen c => (s.core c).rq.any fun o => o.writes off n
  | _ => false

/-- The bytes that a read returns: free values where the range has no defined value. -/
def State.defined (s : State) (st : Store) (off : Nat) (bs : List Byte) : List Byte × State :=
  if s.rowUndefined st off bs.length then
    let (ws, s) := s.frees ((bs.length + 7) / 8)
    ((wordsToBytes ws).take bs.length, s)
  else (bs, s)

/-- A read for a plan unit of a partition: uncorrectable data flag it (R116, R319). None where the data are uncorrectable. -/
def State.planRead (s : State) (p : Nat) (st : Store) (off n : Nat) : Option (List Byte) × State :=
  let r := s.readMem st off n
  let t := r.st.eccEvents r.notes
  if r.bad then (none, t.flagPart p 3 stUncorrectable)
  else
    let (bs, t) := t.defined st off r.bytes
    (some bs, t)

/-- A read for a host command: no data where they are uncorrectable. -/
def State.hostSideRead (s : State) (st : Store) (off n : Nat) : Option (List Byte) × State :=
  let r := s.readMem st off n
  let t := r.st.eccEvents r.notes
  if r.bad then (none, t)
  else
    let (bs, t) := t.defined st off r.bytes
    (some bs, t)

/-- The data of some runs, one after another; none where any of them is uncorrectable. -/
def State.readPieces (s : State) : List (Store × Nat × Nat) → Option (List Byte) × State
  | [] => (some [], s)
  | x :: r =>
    match s.hostSideRead x.1 x.2.1 x.2.2 with
    | (none, s) => (none, s)
    | (some bs, s) => let (rest, s) := s.readPieces r; (rest.map (bs ++ ·), s)

/-- Scratch that a partition writes in a gust: on a rewind it is undefined (R26). -/
def State.noteWrite (s : State) (p : Nat) (st : Store) (off n : Nat) : State :=
  if p < 12 && (s.part p).running then s.modPart p fun x => { x with wrote := (st, off, n) :: x.wrote } else s

/-- A write of a plan unit: a partial write whose read is uncorrectable leaves the transfer and flags the partition (R117). -/
def State.planWrite (s : State) (p : Nat) (st : Store) (off : Nat) (bs : List Byte) : State :=
  let (t, refused) := (s.noteWrite p st off bs.length).store st off bs
  if refused then t.flagPart p 3 stUncorrectable else t

/-! ### The commit path (R24, R27, R120) -/

/-- A word written by the commit path: its slice carries commit writes in this lull. -/
def State.commitWrite (s : State) (a : Nat) (w : Word) : State :=
  match s.devRange a 8 with
  | some (st, off) =>
    let s := match st with | .fen c => if s.commitSites.contains c then s else { s with commitSites := c :: s.commitSites } | _ => s
    (s.store st off (toBytesLE 8 w.toNat)).1
  | none => s

def State.commitWrites (s : State) (ws : List (Nat × Word)) : State := ws.foldl (fun s e => s.commitWrite e.1 e.2) s

/-- The word now at a device address. -/
def State.wordNow (s : State) (a : Nat) : Word :=
  match s.devRange a 8 with
  | some (st, off) => s.peekWord st off
  | none => 0

/-! ### Votes (R325, R326) -/

/-- The result of a vote: the value if known, whether a minority copy was rewritten, and the copies after it. -/
def Tri.vote {α : Type} [DecidableEq α] (t : Tri α) : Option α × Bool × Tri α :=
  match t.c0, t.c1, t.c2 with
  | some a, some b, c => if a = b then (some a, !decide (c = some a), Tri.of a)
    else match c with
      | some c => if c = a then (some a, true, Tri.of a) else if c = b then (some b, true, Tri.of b) else (none, false, t)
      | none => (none, false, t)
  | some a, none, some c => if a = c then (some a, true, Tri.of a) else (none, false, t)
  | none, some b, some c => if b = c then (some b, true, Tri.of b) else (none, false, t)
  | _, _, _ => (none, false, t)

/-- The record and counts of a vote on a word of a kind (R326, R319): a repaired minority or a lost vote. -/
def State.voteOutcome (s : State) (p kind index : Nat) (known repaired : Bool) : State :=
  if !known then (s.bump .PART_VOTE_STATS_LOST 0 1).event ⟨5, 12, 0, 4, p, stVoteLost, kind, index⟩
  else if repaired then (s.bump .PART_VOTE_STATS_REPAIRED 0 1).event ⟨5, 12, 0, 4, p, stOk, kind, index⟩
  else s

/-- Words of a triplicated entry as the first intact copy shows them: what a lost entry concerns (R438). -/
def Tri.shown {α : Type} (t : Tri α) : Option α := t.c0 <|> t.c1 <|> t.c2

/-- Entries of the repair map of a kind whose vote is lost, by their location words (R327, R438). -/
def State.lostEntries (s : State) (kind : Nat) : List Word :=
  s.repairMap.filterMap fun t => if t.vote.1.isNone then t.shown.bind fun w => if fieldOf (wordAt w 0) 3 0 = kind then some (wordAt w 1) else none else none

/-! ### Interrupts and completions (R284, R285, R287) -/

/-- Entries of a ring: 2^(SIZE + 4). -/
def State.ringSize (s : State) (r : Nat) : Nat := 2 ^ (s.get .HST_RING_CTL_SIZE r + 4)

/-- A completion counted towards its ring's interrupt. -/
def State.coalesce (s : State) (r : Nat) (intr : Bool) : State :=
  let g := s.ring r
  let cnt := s.get .HST_RING_CTL_COALESCE_COUNT r
  let us := s.get .HST_RING_CTL_COALESCE_US r
  let v := s.get .HST_RING_CTL_VECTOR r
  let f := s.get .HST_RING_CTL_OWNER r
  if intr || cnt = 0 || us = 0 || g.uncounted + 1 ≥ cnt then (s.setRing r { g with uncounted := 0 }).fire f v
  else s.setRing r { g with uncounted := g.uncounted + 1 }

/-- A ring stopped by an error (R283, R298), with its class 13 record. -/
def State.ringError (s : State) (r kind a : Nat) : State :=
  let s := (s.put .HST_RING_STATUS_ERROR r 1).put .HST_RING_STATUS_ERR_KIND r kind
  let s := s.setRing r { s.ring r with stopped := true }
  let p := (s.fnPart (s.get .HST_RING_CTL_OWNER r)).getD 15
  s.event ⟨5, 10, r + placed 1 6, 13, p, if kind = 1 then stBadPacket else stUncorrectable, 3, a⟩

/-- The words of a completion entry (R287). -/
def State.compWords (s : State) (c : Comp) : List Word :=
  let g := s.ring c.ring
  [BitVec.ofNat 64 (c.tag + placed c.status 16 + placed c.ring 32 + placed (Bool.bit g.phase) 63),
   BitVec.ofNat 64 (c.gust % 2 ^ 48 + placed (s.get .HST_RING_STATUS_SQ_HEAD c.ring) 48),
   BitVec.ofNat 64 c.r0, BitVec.ofNat 64 c.r1]

/-- A completion written at the producer index. Without the link to a ring in host memory it is discarded (R275). -/
def State.writeComp (s : State) (c : Comp) : State :=
  let r := c.ring
  let g := s.ring r
  let device := s.on .HST_RING_CTL_CQ_DEVICE r
  if !device && !s.on .HST_LINK_STATUS_UP 0 then s
  else
    let a := s.get .HST_RING_CQ_BASE_BASE r * 4096 + 32 * g.prod
    let (t, ok) := s.busWrite device a (wordsToBytes (s.compWords c))
    if !ok then t.ringError r 3 a
    else
      let n := (g.prod + 1) % t.ringSize r
      let t := t.setRing r { g with prod := n, full := n == g.cons, phase := if n = 0 then !g.phase else g.phase }
      t.coalesce r c.intr

/-- A completion for a ring: written, or left waiting while the completion ring is full (R284). -/
def State.postComp (s : State) (c : Comp) : State :=
  let g := s.ring c.ring
  if g.full || !g.waiting.isEmpty then s.setRing c.ring { g with waiting := g.waiting ++ [c] } else s.writeComp c

/-- Waiting completions written while there is room; `fuel` bounds the count. -/
def State.flushComps : Nat → State → Nat → State
  | 0, s, _ => s
  | fuel + 1, s, r =>
    let g := s.ring r
    match g.waiting with
    | [] => s
    | c :: cs => if g.full then s else (State.writeComp (s.setRing r { g with waiting := cs }) c).flushComps fuel r

/-- The completion of a command (R286, R287): none with QUIET and ST_OK, none once discarded (R275). -/
def State.complete (s : State) (q : Req) (discard : Bool) (status gust r0 r1 : Nat) : State :=
  if discard || (q.quiet && status == stOk) then s
  else s.postComp ⟨q.ring.val, q.tag.toNat, status, gust, r0, r1, q.interrupt⟩

/-- A command completes in the current gust. -/
def State.done (s : State) (q : Req) (status : Nat) (r0 : Nat := 0) (r1 : Nat := 0) : State := s.complete q false status s.gust r0 r1

/-- The interim completion of a boundary command that asked for one (R290). -/
def State.ackEarly (s : State) (q : Req) : State :=
  if q.earlyAck then s.postComp ⟨q.ring.val, q.tag.toNat, stQueued, s.gust, 0, 0, q.interrupt⟩ else s

/-- A packet refused as malformed (R286, R298): HST_BAD_LAST latches the case. -/
def State.badPacket (s : State) (q : Req) (op reason : Nat) : State :=
  let s := s.puts 0 [(.HST_BAD_LAST_VALID, 1), (.HST_BAD_LAST_RING, q.ring.val), (.HST_BAD_LAST_TAG, q.tag.toNat),
    (.HST_BAD_LAST_REASON, reason), (.HST_BAD_LAST_OPCODE, op)]
  s.done q stBadPacket

/-- A notice to one function (R288): dropped with a class 13 record where its notice ring is not the function's or not enabled. A re-plan notice
waiting for room is replaced by a newer one of its partition and reason (R350). -/
def State.noticeTo (s : State) (f p kind status r0 r1 : Nat) : State :=
  if !s.on .HST_FUNC_CTL_ENABLE_NOTICES f then s
  else
    let r := s.get .HST_FUNC_CTL_NOTICE_RING f
    if s.get .HST_RING_CTL_OWNER r ≠ f ∨ !s.on .HST_RING_CTL_ENABLE r then
      s.event ⟨5, 10, r + placed 1 6, 13, p, stDisabled, 4, r⟩
    else
      let c : Comp := ⟨r, 0xFFFF, status, s.gust, r0 + kind + placed p 8, r1, false⟩
      let g := s.ring r
      let keep := g.waiting.filter fun x => !(kind == 2 && x.tag == 0xFFFF && x.r0 % 65536 == c.r0 % 65536)
      (s.setRing r { g with waiting := keep }).postComp c

/-- A notice to the PF and to the VF bound to the partition. -/
def State.notice (s : State) (p kind status r0 r1 : Nat) : State :=
  let s := s.noticeTo 0 p kind status r0 r1
  let f := s.partVf p
  if f = 0 then s else s.noticeTo f p kind status r0 r1

/-! ### Commands in progress (R284) -/

/-- A command added to those in progress, in start order. -/
def State.startCmd (s : State) (q : Req) (op : Nat) (k : CmdKind) : State :=
  { s with cmds := s.cmds ++ [⟨q, s.get .HST_RING_CTL_OWNER q.ring.val, op, k, false⟩] }

/-- A command of those in progress completed and taken out. -/
def State.endCmd (s : State) (c : Cmd) (status gust r0 r1 : Nat) : State :=
  { s with cmds := s.cmds.erase c }.complete c.q c.discard status gust r0 r1

/-- Every command in progress that `f` selects completed with a status. -/
def State.endCmds (s : State) (f : Cmd → Bool) (status : Nat) : State :=
  (s.cmds.filter f).foldl (fun t c => t.endCmd c status t.gust 0 0) s

/-- A command in progress replaced by its later form. -/
def State.replaceCmd (s : State) (old new : Cmd) : State := { s with cmds := s.cmds.map fun c => if c = old then new else c }

/-! ### Background allowances and regulators (R32, R210 to R213) -/

/-- Stores of the background allowances of a plan header (R22), by their field: word 5 bits [15:0], [31:16], [47:32], [63:48], word 6 bits [15:0]. -/
def bgField (hdr : List Word) (store : Nat) : Nat :=
  if store < 4 then fieldOf (wordAt hdr 5) (16 * store + 15) (16 * store) else fieldOf (wordAt hdr 6) 15 0

/-- Numbers of those stores. -/
def bgFen : Nat := 0
def bgMarsh : Nat := 1
def bgCache : Nat := 2
def bgDma : Nat := 3
def bgPeat : Nat := 4

/-- The plan header armed in a partition, as its vote gives it. -/
def State.armedHdr (s : State) (p : Nat) : Option (List Word) := (s.part p).armed.bind fun t => t.vote.1

/-- Whether a partition has an armed plan. -/
def State.armed (s : State) (p : Nat) : Bool := (s.part p).armed.isSome

/-- Whether a background request of `n` bytes may issue on a store of a partition with an armed plan (R32). -/
def State.bgAllows (s : State) (p store n : Nat) : Bool :=
  match (s.part p).armed with
  | none => true
  | some _ =>
    let a := bgField ((s.armedHdr p).getD []) store * 65536
    let u := SMap.get (s.part p).bgUsed store 0
    !s.inLull && a != 0 && (if n ≤ a then u + n ≤ a else u = 0)

/-- The request charged to the store's allowance. -/
def State.bgCharge (s : State) (p store n : Nat) : State :=
  if (s.part p).armed.isSome then
    s.modPart p fun x => { x with bgUsed := SMap.set x.bgUsed store (SMap.get x.bgUsed store 0 + n) 0 }
  else s

/-- Numbers of the regulated resources: a marsh stack, the shared cache, the peat, the DMA engines. -/
def resMarsh (m : Nat) : Nat := m
def resCache : Nat := 12
def resPeat : Nat := 13
def resDma : Nat := 14

def regKey (res p : Nat) : Nat := res * 16 + p

def State.reg (s : State) (res p : Nat) : Reg := SMap.get s.regs (regKey res p) Reg.zero
def State.setReg (s : State) (res p : Nat) (r : Reg) : State := { s with regs := SMap.set s.regs (regKey res p) r Reg.zero }

/-- The CEILING and GUARANTEE of a resource for a partition, in GB/s (R213). -/
def State.regCeiling (s : State) (res p : Nat) : Nat :=
  if res < 12 then s.inForce .MRS_REG_CEILING (ix2 12 res p)
  else if res = 12 then s.inForce .SHC_REG_CEILING p
  else if res = 13 then s.inForce .PEAT_REG_CEILING p
  else s.inForce .DMA_REG_CEILING p

def State.regGuarantee (s : State) (res p : Nat) : Nat :=
  if res < 12 then s.inForce .MRS_REG_GUARANTEE (ix2 12 res p)
  else if res = 12 then s.inForce .SHC_REG_GUARANTEE p
  else if res = 13 then s.inForce .PEAT_REG_GUARANTEE p
  else s.inForce .DMA_REG_GUARANTEE p

/-- A request of `n` bytes charged to a regulator (R211): the ceiling may go negative; class A also pays from the guaranteed count. -/
def State.regCharge (s : State) (res p n : Nat) : State :=
  let r := s.reg res p
  s.setReg res p { r with
    ceil := r.ceil - n
    guar := if r.guar > 0 then r.guar - n else r.guar
    bytes := r.bytes + n
    interval := r.interval + n
    hit := r.hit || decide (r.ceil - n ≤ 0) }

/-- A request that must hold tokens on every resource it crosses and every store allowance it uses: some state once charged, none while it waits. The
regulators that made it wait note so. Traffic that no partition owns (p = 15) is not limited (R281). -/
def State.grant (s : State) (p : Nat) (stores : List Nat) (res : List Nat) (n : Nat) : Option State × State :=
  if p ≥ 12 then (some s, s)
  else
    let short := res.filter fun r => decide ((s.reg r p).ceil ≤ 0)
    if !(stores.all fun b => s.bgAllows p b n) then (none, s)
    else if !short.isEmpty then
      (none, short.foldl (fun t r => let x := t.reg r p; t.setReg r p { x with waits := true, hit := true }) s)
    else
      let t := stores.foldl (fun t b => t.bgCharge p b n) s
      let t := res.foldl (fun t r => t.regCharge r p n) t
      (some t, t)

/-- The allowance and the regulator of a store for background traffic. -/
def Store.bgOf : Store → List Nat
  | .fen _ => [bgFen]
  | .marsh _ => [bgMarsh]
  | .cache => [bgCache]
  | .pool _ => []

def Store.resOf : Store → List Nat
  | .marsh m => [resMarsh m]
  | .cache => [resCache]
  | _ => []

/-! ### Refresh bands (R109, R201) -/

/-- The band after a reading: a hotter band at once, a cooler one 3 °C below its edge. -/
def bandNext (band : Nat) (t : Int) : Nat :=
  let up := if 95 < t then 2 else if 85 < t then 1 else 0
  let down := if t ≤ 82 then 0 else if t ≤ 92 then 1 else 2
  if band < up then up else min band down

/-- FORCE_BAND raises the band and never lowers it; 3 counts as 0. -/
def bandForced (band force : Nat) : Nat := if force = 3 then band else max band force

def State.fenBand (s : State) (c : Nat) : Nat := bandForced (s.get .FEN_REFRESH_STATUS_BAND c) (s.inForce .FEN_CTL_FORCE_BAND c)
def State.marshBand (s : State) (m : Nat) : Nat := bandForced (s.get .MRS_STATUS_BAND m) (s.inForce .MRS_CTL_FORCE_BAND m)

/-! ### The module as a whole -/

/-- Whether the module is in Doldrums mode (R334). -/
def State.inDoldrums (s : State) : Bool := s.on .PART_DOLDRUMS_ACTIVE 0

/-- Whether the module's clocks run: not frozen (R410) and not in Deep or Off (R366). -/
def State.clocked (s : State) : Bool := s.always.shut == 0 && !s.on .FRZ_STATUS_FROZEN 0 && s.get .PWR_STATE_STATE 0 < 3

/-- Whether DMA engines and NAND operations are held at their next boundary: in Sleep, and on the way to Sleep, Deep or Off (R367). -/
def State.powerHeld (s : State) : Bool := 2 ≤ s.get .PWR_STATE_STATE 0 || (s.on .PWR_STATE_BUSY 0 && 2 ≤ s.get .PWR_STATE_TARGET 0)

/-- Whether gust boundaries come: not in Sleep, Deep or Off (R366). -/
def State.gustsRun (s : State) : Bool := s.get .PWR_STATE_STATE 0 < 2

/-- Power state of the PCIe and UCIe links (R254, R366): L0, L1 in Sleep, L2 in Deep and Off. -/
inductive LinkPower where
  | l0
  | l1
  | l2
  deriving DecidableEq, Repr

def State.linkPower (s : State) : LinkPower :=
  if 3 ≤ s.get .PWR_STATE_STATE 0 then .l2 else if s.get .PWR_STATE_STATE 0 = 2 then .l1 else .l0

/-- An effect that needs the module's clocks; nothing happens where they are stopped. -/
def State.whenClocked (s : State) (f : State → State) : State := if s.clocked then f s else s

end Sys2Proof.Machine
end

