-- ==== Sys2Proof/Machine/RegSpace.lean ====
section
/-!
DEFINITION. The register space of BAR0 (R277 to R279): which register lies at an offset, a register's value from its fields, and what a write does to the
fields by their access codes (R5, R6). What a write does beyond that stands with the unit it belongs to.
Readings taken by inference (DEDUCED): notes/assumptions/36.md.
-/
namespace Sys2Proof.Machine

/-- Bytes of a register. -/
def RegName.bytes (r : RegName) : Nat := r.width / 8

/-- The next multiple of `w`. -/
def alignUp (n w : Nat) : Nat := (n + w - 1) / w * w

/-- The register at an offset of a block whose registers stand in order from `at_` (R278): name, copy in the block, byte within the register. -/
def layoutFind (off : Nat) : List RegName → Nat → Option (RegName × Nat × Nat)
  | [], _ => none
  | r :: rs, at_ =>
    let a := alignUp at_ r.bytes
    let e := a + r.bytes * r.count
    if a ≤ off ∧ off < e then some (r, (off - a) / r.bytes, (off - a) % r.bytes) else layoutFind off rs e

/-- A register of a ring group at an offset of the group. -/
def ringFind (r off : Nat) : Option (RegName × Nat × Nat) :=
  (ringRegs.find? fun e => e.1 ≤ off && off < e.1 + e.2.bytes).map fun e => (e.2, r, off - e.1)

/-- A register of a site block (R277): unit k at 0x1000 × k. -/
def siteFind (c off : Nat) : Option (RegName × Nat × Nat) :=
  (layoutFind (off % 0x1000) (siteBlock (off / 0x1000)) 0).map fun (r, k, b) => (r, c * r.count + k, b)

/-- What lies at an offset of the PF's BAR0 (R277). -/
inductive Place where
  | reg (r : RegName) (i byte : Nat)
  | peatMap (entry : Nat)
  | nothing
  | outside
  deriving DecidableEq, Repr

/-- Where a found register stands. -/
def Place.of : Option (RegName × Nat × Nat) → Place
  | some (r, i, b) => .reg r i b
  | none => .nothing

/-- The PF's map (R277, R278). -/
def placePf (off : Nat) : Place :=
  if off < 0x200000 then
    let n := off / 0x10000
    let o := off % 0x10000
    if n = 0 ∧ 0x1000 ≤ o ∧ o < 0x2000 then .of (ringFind ((o - 0x1000) / 0x40) (o % 0x40))
    else .of (layoutFind o (moduleBlock n) 0)
  else if off < 0x300000 then .peatMap ((off - 0x200000) / 2)
  else if off < 0x400000 then .nothing
  else if off < 0x400000 + 0x10000 * 816 then .of (siteFind ((off - 0x400000) / 0x10000) (off % 0x10000))
  else if off < 0x4000000 then .nothing
  else .outside

/-- The rings that a function owns, in increasing number. -/
def State.ringsOf (s : State) (f : Nat) : List Nat := (List.range 64).filter fun r => s.get .HST_RING_CTL_OWNER r == f

/-- A VF's map (R279); everything else is an Unsupported Request. An unbound VF reaches the same places: R276 names what it reads, and
the packets it submits (DEDUCED, notes/assumptions/11.md). -/
def State.placeVf (s : State) (f off : Nat) : Place :=
  if off < 4 then .reg .HST_ID 0 off
  else if off < 8 then .reg .HST_FUNC_CTL f (off - 4)
  else if 0x1000 ≤ off then
    match (s.ringsOf f)[(off - 0x1000) / 0x40]? with
    | some r => if off % 0x40 < 0x18 then .of (ringFind r (off % 0x40)) else .nothing
    | none => .outside
  else .outside

/-- A function's map. -/
def State.place (s : State) (f off : Nat) : Place := if f = 0 then placePf off else s.placeVf f off

/-- A register's value from its fields; reserved bits are zero and WO fields read as zero (R5, R6). -/
def State.regValue (s : State) (r : RegName) (i : Nat) : Nat :=
  r.fields.foldl (fun acc f => if f.acc == .wo then acc else acc + placed (s.get f i) f.lo) 0

/-- Bits `[hi:lo]` of the field that a write of `v` with byte mask `m` gives (both over the whole register): the written bits over those held. -/
def Fld.merged (f : Fld) (old v m : Nat) : Nat :=
  (List.range f.width).foldl (fun acc b => acc + placed (Bool.bit (if bitOf m (f.lo + b) then bitOf v (f.lo + b) else bitOf old b)) b) 0

/-- Whether a write touches the field. -/
def Fld.touched (f : Fld) (m : Nat) : Bool := bitsOf m f.hi f.lo != 0

/-- The field's part of a written value, zero where the mask leaves it out. -/
def Fld.written (f : Fld) (v m : Nat) : Nat := bitsOf (v &&& m) f.hi f.lo

/-- One field under a host write (R5, R6): RW takes a value in its range, W1C and W1S act bit by bit, RO, RC and plan fields ignore it. -/
def State.writeField (s : State) (f : Fld) (i v m : Nat) : State :=
  if !f.touched m then s
  else match f.acc with
    | .rw =>
      let n := f.merged (s.get f i) v m
      if f.okLo ≤ n ∧ n ≤ f.okHi then s.put f i n else s
    | .w1c => s.put f i (s.get f i - (s.get f i &&& f.written v m))
    | .w1s => s.put f i (s.get f i ||| f.written v m)
    | _ => s

/-- The same where a change of the field takes effect at the next gust boundary. -/
def State.writeFieldLater (s : State) (f : Fld) (i v m : Nat) : State :=
  if f.touched m && f.acc == .rw then
    let n := f.merged (s.get f i) v m
    if f.okLo ≤ n ∧ n ≤ f.okHi then s.putLater f i n else s
  else s.writeField f i v m

/-- Every field of a register under a host write. -/
def State.writeFields (s : State) (r : RegName) (i v m : Nat) : State := r.fields.foldl (fun t f => t.writeField f i v m) s

def State.writeFieldsLater (s : State) (r : RegName) (i v m : Nat) : State := r.fields.foldl (fun t f => t.writeFieldLater f i v m) s

/-- The RC fields that a read of some bits of a register clears (R5). -/
def State.clearRead (s : State) (r : RegName) (i m : Nat) : State :=
  (r.fields.filter fun f => f.acc == .rc && f.touched m).foldl (fun t f => t.put f i (f.resetAt i)) s

end Sys2Proof.Machine
end

