-- ==== Sys2Proof/Machine/Frames.lean ====
section
/-!
DEFINITION. What travels on the links as data: Zyneno flits and their control slot (R240, R241), Xeunni codeword pairs, flits, packets and their headers (R261 to
R263), and what a link's training meets at bring-up where nothing else is said (R244).
Readings taken by inference (DEDUCED): notes/assumptions/38.md, notes/assumptions/43.md.
-/
namespace Sys2Proof

open Sys2Proof.Machine

/-! ### Zyneno flits (R240, R241) -/

/-- The control slot of a flit (R240), but for its CRC: CREDITS as six counts, by class and hop. -/
structure ZynCtl where
  seq : Nat
  ack : Nat
  nak : Bool
  slots : List Nat
  credits : List Nat
  mgmt : List Word
  deriving DecidableEq, Repr

def ZynCtl.ofWords (w : List Word) : ZynCtl where
  seq := fieldOf (wordAt w 0) 11 0
  ack := fieldOf (wordAt w 0) 23 12
  nak := flagOf (wordAt w 0) 24
  slots := (List.range 15).map fun k => fieldOf (wordAt w 0) (33 + 2 * k) (32 + 2 * k)
  credits := (List.range 6).map fun k => fieldOf (wordAt w 1) (10 * k + 9) (10 * k)
  mgmt := (w.drop 2).take 5

/-- Whether a flit's CRC holds (R240): CRC word 7 over the flit with that word read as zero. -/
def zynCrcOk (w : List Word) : Bool := crc64 (((List.range 128).map (wordAt w)).set 7 0) == wordAt w 7

/-- Buffer set of a packet (R241). -/
def PktClass.num : PktClass → Nat
  | .request => 0
  | .response => 1
  | .management => 2

def ZynPkt.set (k : ZynPkt) : Nat := 2 * k.cls.num + Bool.bit k.second

/-- The wires on which two flits differ: bit i of a flit crosses on data wire i mod 1,024 (notes/assumptions/38.md). -/
def differWires (a b : List Word) : List Nat :=
  (List.range 1024).filter fun w => (List.range 8).any fun u =>
    bitOf (wordAt a (16 * u + w / 64)).toNat (w % 64) != bitOf (wordAt b (16 * u + w / 64)).toNat (w % 64)

/-- Whether a command beat of a marsh port is intact: its parity (R198, notes/assumptions/38.md). -/
def beatOk (w : List Word) : Bool := (setBits 64 ((w.foldl (· ^^^ ·) (0 : Word)).toNat)).length % 2 == 0

/-- What a link's training meets at bring-up: no failed wire and the version and capabilities of its ends (R244), where the command names nothing else. -/
def BootIn.train (inp : BootIn) (l : Nat) : LinkTrain :=
  match inp.trains.find? fun e => e.1.val == l with
  | some e => e.2
  | none => ⟨[], ⟨if l < 12 then 2 else 1, if l < 12 then 3 else 0⟩⟩

/-! ### Codeword pairs (R261) -/

/-- The 10,280 data bits of a pair: a 40-bit header whose low half is the pair number, then the five flits. -/
def XniPair.data (p : XniPair) : Nat := p.number.toNat + placed (ofBytesLE (((List.range 5).map fun k => ((p.flits.getD k []) ++ List.replicate 256 0).take 256).flatten)) 40

/-- Symbols of a codeword as sent: 514 of data, then 30 of the code. -/
def XniPair.codeword (p : XniPair) (c : Nat) : List (BitVec 10) :=
  let d := (List.range 514).map fun j => BitVec.ofNat 10 (p.data / 2 ^ (10 * (514 * c + j)))
  d ++ (Config.rsCheck d).take 30

/-- Symbol n of a pair, counted across both codewords, as sent and as it arrives, and the lane it travels on. -/
def XniPair.symbol (p : XniPair) (n : Nat) : BitVec 10 := (p.codeword (n / 544)).getD (n % 544) 0
def XniPair.added (p : XniPair) (n : Nat) : BitVec 10 := p.errors.foldl (fun x e => if e.1.val = n then x ^^^ e.2 else x) 0
def XniPair.arrived (p : XniPair) (n : Nat) : BitVec 10 := p.symbol n ^^^ p.added n
def laneOf (n : Nat) : Nat := n % 8

/-- Symbols of a codeword that arrive wrong, and whether its code corrects them. -/
def XniPair.wrong (p : XniPair) (c : Nat) : Nat := ((List.range 544).filter fun j => p.added (544 * c + j) != 0).length
def XniPair.corrects (p : XniPair) (c : Nat) : Bool := decide (p.wrong c ≤ 15)

/-- The codewords that hold bits of the flit in a place, and those whose first flit it is. -/
def flitCodewords (place : Nat) : List Nat := if place < 2 then [0] else if place = 2 then [0, 1] else [1]
def flitStarts (place : Nat) : List Nat := if place = 0 then [0] else if place = 2 then [1] else []

/-! ### Flits and packets (R262, R263) -/

/-- The control words of a flit (R262), and its first payload unit as two words. -/
structure XniCtl where
  seq : Nat
  ack : Nat
  nak : Bool
  marker : Bool
  credits : List Nat
  set : Nat
  crc : Nat
  unit0 : Word × Word
  deriving DecidableEq, Repr

def XniCtl.ofBytes (b : List Byte) : XniCtl :=
  let w := bytesToWords 4 (b.take 32)
  let w0 := wordAt w 0
  ⟨fieldOf w0 11 0, fieldOf w0 23 12, flagOf w0 24, flagOf w0 25, [fieldOf w0 39 32, fieldOf w0 47 40, fieldOf w0 55 48], fieldOf w0 57 56,
   fieldOf (wordAt w 1) 31 0, (wordAt w 2, wordAt w 3)⟩

/-- Whether a flit's CRC holds: CRC-32C over its 256 bytes with the field read as zero. -/
def xniCrcOk (b : List Byte) : Bool := crc32c (b.take 8 ++ [0, 0, 0, 0] ++ b.drop 12) == (XniCtl.ofBytes b).crc

/-- The header fields of a packet (R262). -/
structure XniHdr where
  kind : Nat
  cls : PktClass
  hops : Nat
  srcModule : Nat
  dstModule : Nat
  srcPart : Nat
  dstPart : Nat
  mailbox : Nat
  step : Nat
  offset : Nat
  length : Nat
  tag : Nat
  status : Nat
  deriving DecidableEq, Repr

/-- The class of a packet (R263). -/
def XniPacket.cls : XniPacket → PktClass
  | .write _ => .request
  | .ack _ _ => .response
  | _ => .management

/-- The header of a packet from module `src` to `dst` on its hop `hops`; kinds are numbered in the order of `XniPacket`, since R262 gives no codes. -/
def XniPacket.header (p : XniPacket) (src dst hops : Nat) : XniHdr :=
  match p with
  | .write w => ⟨0, p.cls, hops, w.srcModule, dst, w.srcPart, w.part.val, w.mbox, w.step, w.offset, w.data.length, w.engine.val, 0⟩
  | .ack e st => ⟨1, p.cls, hops, src, dst, 0, 0, 0, 0, 0, 0, e.val, st⟩
  | .commit q m sm sp step => ⟨2, p.cls, hops, sm, dst, sp, q.val, m.val, step, 0, 0, 0, 0⟩
  | .release q m sm sp step => ⟨3, p.cls, hops, sm, dst, sp, q.val, m.val, step, 0, 0, 0, 0⟩
  | .spare lane tx gust => ⟨4, p.cls, hops, src, dst, 0, 0, 0, gust, 0, 0, lane.val + 8 * Bool.bit tx, 0⟩
  | .negotiate n => ⟨5, p.cls, hops, n.id, dst, 0, 0, 0, 0, 0, 0, n.version, n.caps⟩

/-- Bytes of a packet on the wire: its 32-byte header and its data in 16-byte units; the flits it fills and the 256-byte credits it takes. -/
def XniPacket.bytes (p : XniPacket) : Nat := 32 + ((p.header 0 0 0).length + 15) / 16 * 16
def XniPacket.flits (p : XniPacket) : Nat := (p.bytes + 239) / 240
def XniPacket.credits (p : XniPacket) : Nat := (p.bytes + 255) / 256

end Sys2Proof
end

