-- ==== Sys2Proof/Machine/Float.lean ====
section
/-!
DEFINITION. Numbers (R65 to R79): every format as an exact dyadic number, exact products and sums, one rounding to nearest even.
Flags are a mask in the layout of CORE_NUM_FLAGS (R83).
-/
namespace Sys2Proof.Machine

/-- An exact finite number (−1)^neg × man × 2^exp; a zero keeps its sign. -/
structure Dy where
  neg : Bool
  man : Nat
  exp : Int
  deriving DecidableEq, Repr

/-- A number of a floating-point format: finite, infinite or NaN (no NaN payload is ever carried, R69). -/
inductive Num where
  | fin (d : Dy)
  | inf (neg : Bool)
  | nan
  deriving DecidableEq, Repr

/-- A rounded or converted result: its bit pattern, and the flags it raises (layout of CORE_NUM_FLAGS, R83). -/
structure Rnd where
  bits : Nat
  flags : Nat
  deriving DecidableEq, Repr

/-- Bits of CORE_NUM_FLAGS (R83). -/
def flInvalid : Nat := 1
def flOverflow : Nat := 2
def flSaturated : Nat := 4
def flNanToInt : Nat := 8
def flUnderflow : Nat := 16
def flScaleNan : Nat := 32
def flNonfiniteIn : Nat := 64

/-- Zero with a sign. -/
def Num.zero (neg : Bool) : Num := .fin ⟨neg, 0, 0⟩

def Num.isNan : Num → Bool
  | .nan => true
  | _ => false

def Num.isFinite : Num → Bool
  | .fin _ => true
  | _ => false

def Num.isZero : Num → Bool
  | .fin d => d.man == 0
  | _ => false

/-- A binary pattern with `e` exponent bits and `m` mantissa bits and the given bias, every exponent field a number (R65). -/
def decodeBits (e m : Nat) (bias : Int) (v : Nat) : Dy :=
  let E := v / 2 ^ m % 2 ^ e
  let M := v % 2 ^ m
  let neg := bitOf v (e + m)
  if E = 0 then ⟨neg, M, 1 - bias - m⟩ else ⟨neg, 2 ^ m + M, (E : Int) - bias - m⟩

/-- FP32 and BF16 patterns: exponent all ones is an infinity or a NaN (R65). -/
def decodeIeee (e m : Nat) (bias : Int) (v : Nat) : Num :=
  if v / 2 ^ m % 2 ^ e = 2 ^ e - 1 then
    if v % 2 ^ m = 0 then .inf (bitOf v (e + m)) else .nan
  else .fin (decodeBits e m bias v)

/-- The element formats, by the codes of R61 with FP32 as the vector unit's code 6 (R85). -/
inductive Fmt where
  | e4m3 | e5m2 | fp4 | int8 | int4 | bf16 | fp32
  deriving DecidableEq, Repr

/-- Format code (R61); codes 6 to 15 are reserved in array and reed descriptors. -/
def Fmt.ofCode : Nat → Option Fmt
  | 0 => some .e4m3
  | 1 => some .e5m2
  | 2 => some .fp4
  | 3 => some .int8
  | 4 => some .int4
  | 5 => some .bf16
  | _ => none

/-- Bits of one element. -/
def Fmt.bits : Fmt → Nat
  | .e4m3 | .e5m2 | .int8 => 8
  | .fp4 | .int4 => 4
  | .bf16 => 16
  | .fp32 => 32

def Fmt.isInt : Fmt → Bool
  | .int8 | .int4 => true
  | _ => false

/-- The number an element's bits stand for (R65). -/
def Fmt.decode (f : Fmt) (v : Nat) : Num :=
  match f with
  | .fp32 => decodeIeee 8 23 127 v
  | .bf16 => decodeIeee 8 7 127 v
  | .e5m2 => decodeIeee 5 2 15 v
  | .e4m3 => if v % 128 = 127 then .nan else .fin (decodeBits 4 3 7 v)
  | .fp4 => .fin (decodeBits 2 1 1 v)
  | .int8 => let i := signedOf 8 v; .fin ⟨decide (i < 0), i.natAbs, 0⟩
  | .int4 => let i := signedOf 4 v; .fin ⟨decide (i < 0), i.natAbs, 0⟩

def ofF32 (v : F32) : Num := Fmt.fp32.decode v.toNat

/-- Value of an E8M0 block scale (R67): 2^(code − 127), 0xFF is NaN. -/
def scaleNum (code : Nat) : Num := if code = 255 then .nan else .fin ⟨false, 1, (code : Int) - 127⟩

/-- The integer a dyadic number is in units of 2^e, for e at most its exponent. -/
def Dy.units (d : Dy) (e : Int) : Int :=
  let n := d.man * 2 ^ (d.exp - e).toNat
  if d.neg then -(n : Int) else n

/-- Exact product. -/
def Dy.mul (a b : Dy) : Dy := ⟨a.neg != b.neg, a.man * b.man, a.exp + b.exp⟩

/-- Exact sum of finite numbers; an exact zero is +0, but −0 where every term is −0 (R69). -/
def Dy.sum (ds : List Dy) : Dy :=
  let e := ds.foldl (fun m d => min m d.exp) 0
  let t : Int := ds.foldl (fun acc d => acc + d.units e) 0
  if t = 0 then ⟨!ds.isEmpty && ds.all fun d => d.neg && d.man == 0, 0, 0⟩
  else ⟨decide (t < 0), t.natAbs, e⟩

/-- Comparison of finite numbers: a < b. -/
def Dy.lt (a b : Dy) : Bool :=
  let e := min a.exp b.exp
  decide (a.units e < b.units e)

/-- Product of two numbers: zero times infinity is NaN (R76). -/
def Num.mul : Num → Num → Num
  | .nan, _ => .nan
  | _, .nan => .nan
  | .inf a, .inf b => .inf (a != b)
  | .inf a, .fin d => if d.man = 0 then .nan else .inf (a != d.neg)
  | .fin d, .inf b => if d.man = 0 then .nan else .inf (d.neg != b)
  | .fin a, .fin b => .fin (a.mul b)

/-- Exact sum of terms with the non-finite rules of R76. -/
def Num.sum (ts : List Num) : Num :=
  if ts.any Num.isNan then .nan
  else
    let pos := ts.any fun t => t == .inf false
    let neg := ts.any fun t => t == .inf true
    if pos && neg then .nan
    else if pos then .inf false
    else if neg then .inf true
    else .fin (Dy.sum (ts.filterMap fun t => match t with | .fin d => some d | _ => none))

def Num.negate : Num → Num
  | .fin d => .fin { d with neg := !d.neg }
  | .inf n => .inf (!n)
  | .nan => .nan

/-- Division of a non-negative number by 2^k, to nearest with ties to even (R70). -/
def roundShift (man k : Nat) : Nat :=
  if k = 0 then man
  else
    let q := man / 2 ^ k
    let r := man % 2 ^ k
    let h := 2 ^ (k - 1)
    if r > h || (r == h && q % 2 == 1) then q + 1 else q

/-- The magnitude pattern of a finite number in a format of `p` significant bits whose smallest subnormal is 2^emin: the exponent field
and mantissa joined, unlimited above; rounded once to nearest even. -/
def packMag (p : Nat) (emin : Int) (d : Dy) : Nat :=
  if d.man = 0 then 0
  else
    let top : Int := d.exp + (Nat.log2 d.man : Int) - ((p : Int) - 1)
    let e := max top emin
    let q := if d.exp ≥ e then d.man * 2 ^ (d.exp - e).toNat else roundShift d.man (e - d.exp).toNat
    (e - emin).toNat * 2 ^ (p - 1) + q

/-- Significant bits and the exponent of the smallest subnormal of each floating format (R65). -/
def Fmt.prec : Fmt → Nat × Int
  | .fp32 => (24, -149)
  | .bf16 => (8, -133)
  | .e4m3 => (4, -9)
  | .e5m2 => (3, -16)
  | .fp4 => (2, -1)
  | .int8 | .int4 => (0, 0)

/-- Conversion of a finite number to a floating format: the greatest finite magnitude is `maxMag`; beyond it, an infinity (`infMag`) or saturation (R70). -/
def roundFinite (f : Fmt) (maxMag : Nat) (infMag : Option Nat) (d : Dy) : Rnd :=
  let (p, emin) := f.prec
  let sgn := if d.neg then 2 ^ (f.bits - 1) else 0
  let m := packMag p emin d
  if m > maxMag then
    match infMag with
    | some i => ⟨sgn + i, flOverflow⟩
    | none => ⟨sgn + maxMag, flSaturated⟩
  else ⟨sgn + m, if m = 0 ∧ d.man ≠ 0 then flUnderflow else 0⟩

/-- Nearest integer, ties to even. -/
def Dy.toInt (d : Dy) : Int :=
  let n := if d.exp ≥ 0 then d.man * 2 ^ d.exp.toNat else roundShift d.man (-d.exp).toNat
  if d.neg then -(n : Int) else n

/-- Conversion to an integer format: saturates, NaN becomes 0 (R70). -/
def convertInt (w : Nat) (x : Num) : Rnd :=
  let hi : Int := 2 ^ (w - 1) - 1
  let lo : Int := -(2 ^ (w - 1))
  match x with
  | .nan => ⟨0, flNanToInt⟩
  | .inf n => ⟨ofSigned w (if n then lo else hi), flSaturated⟩
  | .fin d =>
    let v := d.toInt
    if v > hi then ⟨ofSigned w hi, flSaturated⟩
    else if v < lo then ⟨ofSigned w lo, flSaturated⟩
    else ⟨ofSigned w v, 0⟩

/-- Conversion of a number to a format (R70): the exact value first, then one rounding. An FP4 source that is not finite is settled by the block rule of R71 before. -/
def Fmt.convert (f : Fmt) (x : Num) : Rnd :=
  match f with
  | .int8 => convertInt 8 x
  | .int4 => convertInt 4 x
  | .fp32 => match x with
    | .nan => ⟨0x7FC00000, 0⟩
    | .inf n => ⟨if n then 0xFF800000 else 0x7F800000, 0⟩
    | .fin d => roundFinite .fp32 0x7F7FFFFF (some 0x7F800000) d
  | .bf16 => match x with
    | .nan => ⟨0x7FC0, 0⟩
    | .inf n => ⟨if n then 0xFF80 else 0x7F80, 0⟩
    | .fin d => roundFinite .bf16 0x7F7F (some 0x7F80) d
  | .e4m3 => match x with
    | .nan => ⟨0x7F, 0⟩
    | .inf n => ⟨if n then 0xFE else 0x7E, flSaturated⟩
    | .fin d => roundFinite .e4m3 0x7E none d
  | .e5m2 => match x with
    | .nan => ⟨0x7E, 0⟩
    | .inf n => ⟨if n then 0xFC else 0x7C, 0⟩
    | .fin d => roundFinite .e5m2 0x7B none d
  | .fp4 => match x with
    | .nan => ⟨0, 0⟩
    | .inf n => ⟨if n then 0xF else 0x7, flSaturated⟩
    | .fin d => roundFinite .fp4 7 none d

/-- Rounding to FP32, as a pattern with flags. -/
def roundF32 (x : Num) : F32 × Nat :=
  let r := Fmt.fp32.convert x
  (BitVec.ofNat 32 r.bits, r.flags)

/-- The canonical NaN of FP32 (R69). -/
def nan32 : F32 := 0x7FC00000

/-- INVALID: a NaN that arose from operands none of which is NaN (R83; notes/assumptions/58.md). -/
def invalidOf (res : Num) (ops : List Num) : Nat := if res.isNan && !(ops.any Num.isNan) then flInvalid else 0

/-- NONFINITE_IN: a NaN or infinite operand entered a product (R83). -/
def nonfiniteIn (ops : List Num) : Nat := if ops.all Num.isFinite then 0 else flNonfiniteIn

/-- FP32 addition (R79). -/
def fadd (a b : F32) : F32 × Nat :=
  let x := Num.sum [ofF32 a, ofF32 b]
  let (v, fl) := roundF32 x
  (v, fl ||| invalidOf x [ofF32 a, ofF32 b])

/-- The FP32 pattern with its sign turned. -/
def fneg (a : F32) : F32 := a ^^^ 0x80000000

/-- FP32 multiplication. -/
def fmul (a b : F32) : F32 × Nat :=
  let ops := [ofF32 a, ofF32 b]
  let x := (ofF32 a).mul (ofF32 b)
  let (v, fl) := roundF32 x
  (v, fl ||| invalidOf x ops ||| nonfiniteIn ops)

/-- Fused multiply-add: one rounding. -/
def ffma (a b c : F32) : F32 × Nat :=
  let x := Num.sum [(ofF32 a).mul (ofF32 b), ofF32 c]
  let (v, fl) := roundF32 x
  (v, fl ||| invalidOf x [ofF32 a, ofF32 b, ofF32 c] ||| nonfiniteIn [ofF32 a, ofF32 b])

/-- a < b as numbers; false where either is NaN; −0 and +0 are equal. -/
def Num.lt : Num → Num → Bool
  | .nan, _ => false
  | _, .nan => false
  | .inf a, .inf b => a && !b
  | .inf a, .fin _ => a
  | .fin _, .inf b => !b
  | .fin a, .fin b => a.lt b

/-- VMAX (R86): NaN where either is NaN; max(−0, +0) = +0. -/
def fmax (a b : F32) : F32 :=
  if (ofF32 a).isNan || (ofF32 b).isNan then nan32
  else if (ofF32 a).isZero && (ofF32 b).isZero then a &&& b
  else if (ofF32 a).lt (ofF32 b) then b else a

/-- VMIN (R86): by the same rules; min(−0, +0) = −0. -/
def fmin (a b : F32) : F32 :=
  if (ofF32 a).isNan || (ofF32 b).isNan then nan32
  else if (ofF32 a).isZero && (ofF32 b).isZero then a ||| b
  else if (ofF32 b).lt (ofF32 a) then b else a

/-- floor(log2 a) of a non-zero finite number. -/
def Dy.floorLog2 (d : Dy) : Int := d.exp + (Nat.log2 d.man : Int)

/-! ### Special functions (R79, R155)

Each is computed with 512 bits behind the binary point, far beyond what tells two FP32 numbers apart, and gives an FP32 number within its bound of the true value;
which one, where more than one lies so near, is open (Config, notes/assumptions/8.md). -/

def fxOne : Nat := 2 ^ 512

/-- π and ln 2 in units of 2^−512. -/
def fxPi : Nat := 0x3243f6a8885a308d313198a2e03707344a4093822299f31d0082efa98ec4e6c89452821e638d01377be5466cf34e90c6cc0ac29b7c97c50dd3f84d5b5b5470917
def fxLn2 : Nat := 0xb17217f7d1cf79abc9e3b39803f2f6af40f343267298b62d8a0d175b8baafa2be7b876206debac98559552fb4afa1b10ed2eae35c138214427573b291169b825

def fxMul (a b : Nat) : Nat := a * b / fxOne

/-- e^y for y below 1. -/
def fxExp (y : Nat) : Nat := ((List.range 120).foldl (fun (x : Nat × Nat) k => let t := fxMul x.2 y / (k + 1); (x.1 + t, t)) (fxOne, fxOne)).1

/-- Cosine and sine of y, 0 to π/2. -/
def fxCosSin (y : Nat) : Int × Int :=
  let r := (List.range 160).foldl (fun (x : (Int × Int) × Nat) k =>
    let (c, n) := x.1
    let t := x.2
    let x' := if k % 4 = 0 then (c + t, n) else if k % 4 = 1 then (c, n + t) else if k % 4 = 2 then (c - t, n) else (c, n - t)
    (x', fxMul t y / (k + 1))) ((0, 0), fxOne)
  r.1

/-- Integer square root, by bits. -/
def isqrt (x : Nat) : Nat := (List.range 256).foldl (fun r k => let b := r + 2 ^ (255 - k); if b * b ≤ x then b else r) 0

/-- As `packMag`, rounded down. -/
def packDown (p : Nat) (emin : Int) (d : Dy) : Nat :=
  if d.man = 0 then 0
  else
    let top : Int := d.exp + (Nat.log2 d.man : Int) - ((p : Int) - 1)
    let e := max top emin
    let q := if d.exp ≥ e then d.man * 2 ^ (d.exp - e).toNat else d.man / 2 ^ (e - d.exp).toNat
    (e - emin).toNat * 2 ^ (p - 1) + q

/-- The FP32 number within `n` ulp of `d` that `pick` names; `exact` says that `d` is the value and not what lies just below it. Below half the smallest subnormal the
result is a zero (R69). -/
def nearF32 (d : Dy) (exact : Bool) (n pick : Nat) : F32 :=
  let sgn := if d.neg then 2 ^ 31 else 0
  if packMag 24 (-149) d = 0 then BitVec.ofNat 32 sgn
  else
    let m := packDown 24 (-149) d
    let lo := if exact then m - n else m + 1 - n
    BitVec.ofNat 32 (sgn + min 0x7F800000 (lo + pick % (m + n + 1 - lo)))

/-- 2^x of a finite number. -/
def exp2Of (a : F32) (d : Dy) : F32 :=
  let x := d.units (-512)
  let n := x / (fxOne : Int)
  let f := (x % (fxOne : Int)).toNat
  if 128 ≤ n then 0x7F800000
  else if n < -151 then 0
  else nearF32 ⟨false, fxExp (fxMul f fxLn2), n - 512⟩ (f == 0) 1 (Config.exp2Pick a)

/-- 1/x of a finite number that is no power of two. -/
def recipOf (a : F32) (d : Dy) : F32 := nearF32 ⟨d.neg, 2 ^ 200 / d.man, -200 - d.exp⟩ false 1 (Config.recipPick a)

/-- 1/√x of a positive finite number. -/
def rsqrtOf (a : F32) (d : Dy) : F32 :=
  let (m, e) := if d.exp % 2 = 0 then (d.man, d.exp) else (2 * d.man, d.exp - 1)
  let q := isqrt (2 ^ 400 / m)
  nearF32 ⟨false, q, -200 - e / 2⟩ (q * q * m == 2 ^ 400) 1 (Config.rsqrtPick a)

/-- 1/(1 + e^−x) of a finite number. -/
def logisticOf (a : F32) (d : Dy) : F32 :=
  let x := (d.units (-512)).natAbs
  let e := fxExp (x % fxLn2)
  let q := fxOne / 2 ^ min 400 (x / fxLn2)
  nearF32 ⟨false, (if d.neg then q else e) * fxOne / (e + q), -512⟩ (d.man == 0) 2 (Config.logisticPick a)

/-- A signed fixed-point number. -/
def ofFx (x : Int) : Dy := ⟨decide (x < 0), x.natAbs, -512⟩

/-- Cosine and sine of the angle position × frequency, each within 1 ulp (R155). -/
def cosSin (pos : Nat) (freq : F32) : F32 × F32 :=
  match ofF32 freq with
  | .fin d =>
    let t := pos * (d.units (-512)).natAbs
    let j := 2 * t / fxPi
    let (c, n) := fxCosSin ((2 * t - j * fxPi) / 2)
    let (c, n) := if j % 4 = 0 then (c, n) else if j % 4 = 1 then (-n, c) else if j % 4 = 2 then (-c, -n) else (n, -c)
    let n := if d.neg then -n else n
    (nearF32 (ofFx c) (t == 0) 1 (Config.cosinePick pos freq), nearF32 (ofFx n) (t == 0) 1 (Config.sinePick pos freq))
  | _ => (Config.cosine pos freq, Config.sine pos freq)

/-- exp2 with the special inputs of R79; exp2(0) is 1 (R151). -/
def fexp2 (a : F32) : F32 :=
  match ofF32 a with
  | .nan => nan32
  | .inf n => if n then 0 else 0x7F800000
  | .fin d => if d.man = 0 then 0x3F800000 else exp2Of a d

/-- Reciprocal with the special inputs of R79; that of a power of two is exact (R151). -/
def frecip (a : F32) : F32 :=
  match ofF32 a with
  | .nan => nan32
  | .inf n => if n then 0x80000000 else 0
  | .fin d =>
    if d.man = 0 then (if d.neg then 0xFF800000 else 0x7F800000)
    else if d.man = 2 ^ Nat.log2 d.man then (roundF32 (.fin ⟨d.neg, 1, -d.floorLog2⟩)).1
    else recipOf a d

/-- Reciprocal square root with the special inputs of R79. -/
def frsqrt (a : F32) : F32 :=
  match ofF32 a with
  | .nan => nan32
  | .inf n => if n then nan32 else 0
  | .fin d => if d.man = 0 then (if d.neg then 0xFF800000 else 0x7F800000) else if d.neg then nan32 else rsqrtOf a d

/-- INVALID of a reciprocal square root below zero (R83). -/
def rsqrtFlags (a : F32) : Nat :=
  match ofF32 a with
  | .inf true => flInvalid
  | .fin d => if d.neg && d.man != 0 then flInvalid else 0
  | _ => 0

/-- Logistic with the special inputs of R79. -/
def flogi (a : F32) : F32 :=
  match ofF32 a with
  | .nan => nan32
  | .inf n => if n then 0 else 0x3F800000
  | .fin d => logisticOf a d

/-- Flags of a special function's result for a finite input (R83): an infinity or a zero that is not exact. -/
def specialFlags (zeroOk infOk : Bool) (x y : F32) : Nat :=
  if !(ofF32 x).isFinite then 0
  else match ofF32 y with
    | .inf _ => if infOk then 0 else flOverflow
    | .fin d => if d.man = 0 && !zeroOk then flUnderflow else 0
    | .nan => 0

/-- exp2 and reciprocal with the flags they raise. -/
def exp2F (a : F32) : F32 × Nat := (fexp2 a, specialFlags false false a (fexp2 a))
def recipF (a : F32) : F32 × Nat := (frecip a, specialFlags false (ofF32 a).isZero a (frecip a))

/-- Rounding to BF16, kept in FP32 form (VRND, R86). -/
def frnd (a : F32) : F32 × Nat :=
  let r := Fmt.bf16.convert (ofF32 a)
  (BitVec.ofNat 32 (r.bits * 65536), r.flags)

/-- A BF16 pattern widened exactly to FP32; a NaN becomes the canonical one (R69). -/
def bf16ToF32 (v : Nat) : F32 := (roundF32 (Fmt.bf16.decode v)).1

/-- FP32 rounded to a BF16 pattern. -/
def f32ToBf16 (a : F32) : Nat := (Fmt.bf16.convert (ofF32 a)).bits

/-- emax of R71. -/
def Fmt.emax : Fmt → Int
  | .fp4 => 2
  | .e4m3 => 8
  | .e5m2 => 15
  | .int4 => 2
  | .int8 => 6
  | _ => 0

/-- Conversion of one block to a block-scaled format (R71): the scale code, the element patterns, the flags. A NaN sets SCALE_NAN and not NAN_TO_INT
(notes/assumptions/58.md). -/
def convertBlock (f : Fmt) (xs : List Num) : Nat × List Nat × Nat :=
  if xs.any fun x => !x.isFinite then (0xFF, xs.map fun _ => 0, flScaleNan)
  else
    let ds := xs.filterMap fun x => match x with | .fin d => some d | _ => none
    let big := ds.foldl (fun (m : Dy) d => if Dy.lt ⟨false, m.man, m.exp⟩ ⟨false, d.man, d.exp⟩ then d else m) ⟨false, 0, 0⟩
    if big.man = 0 then
      let rs := xs.map f.convert
      (0, rs.map (·.bits), rs.foldl (fun fl r => fl ||| r.flags) 0)
    else
      let X := max (-127) (min 127 (big.floorLog2 - f.emax))
      let rs := ds.map fun d => f.convert (.fin { d with exp := d.exp - X })
      ((X + 127).toNat, rs.map (·.bits), rs.foldl (fun fl r => fl ||| r.flags) 0)

/-- One element of a packed list of bytes (R66): two 4-bit elements a byte, the low nibble first; wider elements little-endian. -/
def elemBits (f : Fmt) (bs : List Byte) (k : Nat) : Nat :=
  match f with
  | .fp4 | .int4 => let b := (bs.getD (k / 2) 0).toNat; if k % 2 = 0 then b % 16 else b / 16
  | .e4m3 | .e5m2 | .int8 => (bs.getD k 0).toNat
  | .bf16 => ofBytesLE ((bs.drop (2 * k)).take 2)
  | .fp32 => ofBytesLE ((bs.drop (4 * k)).take 4)

/-- Element patterns packed into bytes (R66). -/
def packElems (f : Fmt) (vs : List Nat) : List Byte :=
  match f with
  | .fp4 | .int4 => (List.range ((vs.length + 1) / 2)).map fun k => BitVec.ofNat 8 (vs.getD (2 * k) 0 % 16 + 16 * (vs.getD (2 * k + 1) 0 % 16))
  | _ => vs.flatMap fun v => toBytesLE (f.bits / 8) v

/-- Residue modulo 8,191 of an exact number (R49). -/
def Dy.residue (d : Dy) : Nat :=
  let r := (d.man % 8191 * 2 ^ (d.exp % 13).toNat) % 8191
  if d.neg then (8191 - r) % 8191 else r

/-- The value of one block (R75, R76): each term the product of its factors (elements, then every scale that applies to it), all summed exactly and rounded
once to FP32, with the flags of R83. -/
def blockValue (terms : List (List Num)) : F32 × Nat :=
  let x := Num.sum (terms.map fun fs => fs.foldl Num.mul (.fin ⟨false, 1, 0⟩))
  let (v, fl) := roundF32 x
  (v, fl ||| invalidOf x terms.flatten ||| nonfiniteIn terms.flatten)

/-- The scale factor of a block scale code, where the operand carries one. -/
def scaleFactor (used : Bool) (code : Nat) : List Num := if used then [scaleNum code] else []

/-- SCALE_NAN where a scale of 0xFF was read (R83). -/
def scaleFlags (codes : List Nat) : Nat := if codes.any fun c => c == 255 then flScaleNan else 0

end Sys2Proof.Machine
end

