-- ==== Sys2Proof/Machine/Samples.lean ====
section
/-!
DEFINITION. Taking samples for the monitors (R401 to R403). Their configuration and read-out stand in Machine/Monitors.lean.
-/
namespace Sys2Proof.Machine

/-- Signed 64-bit saturation. -/
def saturateSigned (x : Int) : Int := max (-(2 ^ 63)) (min (2 ^ 63 - 1) x)

/-- Bin of a sample (R401). Logarithmic: bin j + 1 for the greatest j below 62 with LOW × 2^(j/4) ≤ x, compared in fourth powers. -/
def monBin (log : Bool) (low : Int) (width : Nat) (x : Int) : Nat :=
  if log then
    if x < low then 0
    else 1 + ((List.range 63).filter fun j => j != 0 && decide (low ^ 4 * 2 ^ j ≤ x ^ 4)).length
  else if width = 0 then 0
  else (max 0 (min 63 ((x - low).fdiv width))).toNat

/-- A sample added to what a window holds. -/
def MonRec.add (r : MonRec) (bin : Nat) (x : Int) : MonRec :=
  { r with
    count := r.count + 1
    low := if r.count = 0 then x else min r.low x
    high := if r.count = 0 then x else max r.high x
    sum := saturateSigned (r.sum + x)
    bins := SMap.set r.bins bin (SMap.get r.bins bin 0 + 1) 0 }

def State.mon (s : State) (i : Nat) : Mon := SMap.get s.mons i Mon.off
def State.setMon (s : State) (i : Nat) (m : Mon) : State := { s with mons := SMap.set s.mons i m Mon.off }

/-- A sample for monitor `i`: enabled monitors take it. -/
def State.monSample (s : State) (i : Nat) (x : Int) : State :=
  let m := s.mon i
  if m.enable then s.setMon i { m with live := m.live.add (monBin m.log m.lowest m.width x) x } else s

/-- Bases of the monitor indices (R403). -/
def monLinkLatency : Nat := 0x400
def monLinkRetry : Nat := 0x440
def monPortLatency : Nat := 0x480
def monPortRetry : Nat := 0x4A0
def monReg : Nat := 0x800
def monSensor : Nat := 0x1000
def monRail : Nat := 0x2000
def monClass : Nat := 0x3000

/-- Whether an index is assigned (R403). -/
def monAssigned (i : Nat) : Bool :=
  i < 816 || (monLinkLatency ≤ i && i < monLinkLatency + 48) || (monLinkRetry ≤ i && i < monLinkRetry + 24) ||
    (monPortLatency ≤ i && i < monPortLatency + 16) || (monPortRetry ≤ i && i < monPortRetry + 16) || (monReg ≤ i && i < monReg + 180) ||
    (monSensor ≤ i && i < monSensor + 2495) || (monRail ≤ i && i < monRail + 58) || (monClass ≤ i && i < monClass + 64)

/-- Whether a class is owned by a partition. -/
def State.ownsClass (s : State) (p c : Nat) : Bool := s.on .MON_CLASS_OWNER_VALID c && s.get .MON_CLASS_OWNER c == p

/-- A partition's monitors as PART_DESTROY leaves them (R404): slack and regulator monitors disabled, its classes without an owner. -/
def State.monDestroy (s : State) (p : Nat) : State :=
  let mine (i : Nat) : Bool := (i < 816 && s.dieOwner (i / 68) == some p) || (monReg ≤ i && i < monReg + 180 && (i - monReg) / 15 == p)
  let s := ((s.mons.map Prod.fst).filter mine).foldl (fun s i => s.setMon i { s.mon i with enable := false }) s
  (List.range 64).foldl (fun s c => if s.ownsClass p c then s.put .MON_CLASS_OWNER_VALID c 0 else s) { s with prodSeen := SMap.set s.prodSeen p none none }

end Sys2Proof.Machine
end

