-- ==== Sys2Proof/Machine/Flags.lean ====
section
/-!
DEFINITION. The numeric flags (R83) and the traps (R98) of a core.
-/
namespace Sys2Proof.Machine

/-- Numeric flags raised in a core: CORE_NUM_FLAGS bits set by a mask in its layout (R83). -/
def State.numFlags (s : State) (c mask : Nat) : State :=
  let set (s : State) (f : Fld) := if bitOf mask f.lo then s.put f c 1 else s
  (RegName.CORE_NUM_FLAGS.fields).foldl set s

/-- Trap causes (R98). -/
def trapIllegal : Nat := 1
def trapAccess : Nat := 2
def trapDescriptor : Nat := 3
def trapVector : Nat := 4

/-- A trap (R98): the control core halts to the next boundary, PC and cause are recorded and a record raised; the slot cannot then end. `status` is
ST_DISABLED for a disabled unit, otherwise ST_BAD_PACKET. An attention operation's Q_HEAD_BASE stands above its TAG (R168, notes/assumptions/34.md). -/
def State.trap (s : State) (c cause tag status : Nat) : State :=
  let pc := (s.core c).trapPc.getD (s.core c).pc
  let s := s.event ⟨3, 1, siteIdx c, 5, s.diePart (dieOf c), status, cause + placed (tag % 65536) 4, pc⟩
  let s := s.modCore c fun k => { k with trapHalt := true, waitReg := none }
  ((s.put .CORE_TRAP_INFO_CAUSE c cause).put .CORE_TRAP_INFO_PC c pc).put .CORE_PROG_STATUS_STATE c 3

/-- What stands behind the words of an issued descriptor: the address of the store that issued it, for a trap in its work (R100), and the waits completed by then (R95). -/
def State.issueWords (s : State) (c : Nat) : List Word := [BitVec.ofNat 64 (s.core c).pc, BitVec.ofNat 64 (s.core c).waits]

/-- A unit of the core at work on a descriptor issued with these words: a trap records the store's address, and reads follow R95. -/
def State.atUnit (s : State) (c unit : Nat) (issued : List Word) : State :=
  s.modCore c fun k => { k with trapPc := some (wordAt issued 0).toNat, atWork := some (unit, (wordAt issued 1).toNat) }

/-- The core back at the work that `k` was at. -/
def State.backAt (s : State) (c : Nat) (k : Core) : State := s.modCore c fun x => { x with trapPc := k.trapPc, atWork := k.atWork }

/-- Work of a unit on a descriptor. -/
def State.atWork (s : State) (c unit : Nat) (issued : List Word) (f : State → State) : State := (f (s.atUnit c unit issued)).backAt c (s.core c)

/-! ### What a unit sees of the others' writes (R95) -/

/-- Whether the unit at work is not held to see a write: another unit's, that no wait covered before the unit's descriptor was issued. The control core sees what a wait
has covered (notes/assumptions/13.md). -/
def Core.hides (k : Core) (e : UnitWrite) : Bool :=
  match k.atWork with
  | none => e.seenFrom.isNone
  | some (u, w) => e.unit != u && (match e.seenFrom with | some n => decide (w < n) | none => true)

/-- The bytes that a unit finds at a place: free values where it reads a write that it is not held to see. -/
def State.unitSees (s : State) (c : Nat) (st : Store) (off : Nat) (bs : List Byte) : List Byte × State :=
  let n := bs.length
  let hid := (s.core c).unseen.filter fun e => e.st == st && decide (e.off < off + n) && decide (off < e.off + e.n) && (s.core c).hides e
  if hid.isEmpty then (bs, s)
  else
    let (ws, s) := s.frees ((n + 7) / 8)
    let junk := wordsToBytes ws
    (bs.zipIdx.map fun e => if hid.any fun w => decide (w.off ≤ off + e.2) && decide (off + e.2 < w.off + w.n) then junk.getD e.2 0 else e.1, s)

/-- A write of the unit at work noted for the core's other units. -/
def State.unitWrote (s : State) (c : Nat) (st : Store) (off n : Nat) : State :=
  match (s.core c).atWork with
  | some (u, _) => s.modCore c fun k => { k with unseen := ⟨u, st, off, n, none⟩ :: k.unseen }
  | none => s

/-- A read by a unit of a core: none where the data are uncorrectable. -/
def State.coreRead (s : State) (c : Nat) (st : Store) (off n : Nat) : Option (List Byte) × State :=
  match s.planRead (s.diePart (dieOf c)) st off n with
  | (none, s) => (none, s)
  | (some bs, s) =>
    let (bs, s) := s.unitSees c st off bs
    (some bs, s)

/-- A write by a unit of a core. -/
def State.coreWrite (s : State) (c : Nat) (st : Store) (off : Nat) (bs : List Byte) : State :=
  (s.planWrite (s.diePart (dieOf c)) st off bs).unitWrote c st off bs.length

/-- A core that dropped work on uncorrectable pool data, or halted on it: its partition is flagged (R97). -/
def State.flagCore (s : State) (c cause status : Nat) : State := s.flagDie (dieOf c) cause status

end Sys2Proof.Machine
end

