-- ==== Sys2Proof/Machine/Paths.lean ====
section
/-!
DEFINITION. The on-package network as a graph (R238, R246, R248): whether a die, a marsh stack or the I/O die can be reached, and by which kind of route.
-/
namespace Sys2Proof.Machine

/-- The neighbours of a die, east first. -/
def eastOf (d : Nat) : Nat := (d + 1) % 12
def westOf (d : Nat) : Nat := (d + 11) % 12

/-- A link without reduced-width mode is stopped while one of its groups retrains, in the work window (R243). -/
def State.groupStop (s : State) (l : Nat) : Bool := !(s.link l).groups.isEmpty && !bitOf (s.get .ZYN_LINK_STATUS_CAPS l) 0 && !s.inLull

/-- A link carries traffic: ACTIVE (R242), and no group's retraining stops it. -/
def State.linkUp (s : State) (l : Nat) : Bool := s.get .ZYN_LINK_STATUS_STATE l == 6 && !s.groupStop l

/-- Whether a die's transit domain is in service (R248). -/
def State.transitUp (s : State) (d : Nat) : Bool := s.get .ZYN_TRANSIT_STATE d != 3

/-- The ring link between two neighbouring dies. -/
def ringBetween (a b : Nat) : Nat := if b = eastOf a then a else b

def State.ringHop (s : State) (a b : Nat) : Bool := s.linkUp (ringBetween a b) && s.transitUp a && s.transitUp b
def State.spokeUp (s : State) (d : Nat) : Bool := s.linkUp (12 + d) && s.transitUp d

/-- From a die to the I/O die or back, directly or through a neighbour, east first (R246). The result counts the ring hops. -/
def State.toIo (s : State) (d : Nat) : Option Nat :=
  if s.spokeUp d then some 0
  else if (s.ringHop d (eastOf d) && s.spokeUp (eastOf d)) || (s.ringHop d (westOf d) && s.spokeUp (westOf d)) then some 1
  else none

/-- The first choice of ZYN_ROUTE from die `a` to die `b` (R246): its route and whether it is clear. A ring route of more than two hops is none. -/
def State.firstChoice (s : State) (a b : Nat) : Bool :=
  let code := bitsOf (s.inForce .ZYN_ROUTE_ROUTE a) (2 * b + 1) (2 * b)
  let ke := (b + 12 - a % 12) % 12
  if code = 0 then (ke = 1 && s.ringHop a b) || (ke = 2 && s.ringHop a (eastOf a) && s.ringHop (eastOf a) b)
  else if code = 1 then (ke = 11 && s.ringHop a b) || (ke = 10 && s.ringHop a (westOf a) && s.ringHop (westOf a) b)
  else s.spokeUp a && s.spokeUp b

/-- Whether a packet between two dies has a route, and whether it is a fallback. -/
def State.dieRoute (s : State) (a b : Nat) : Option Bool :=
  if a = b then some false
  else if s.firstChoice a b then some false
  else match s.toIo a, s.toIo b with
    | some _, some _ => some true
    | _, _ => none

/-- What a request meets on its way (R246, R248): served, on a fallback route or not; answered by the target's transit router; not sent; kept while a
marsh port trains (R198). -/
inductive Reach where
  | served (fallback : Bool)
  | answered (die : Nat)
  | unreachable
  | training
  deriving DecidableEq, Repr

/-- The route from a source (a die, or none for the I/O die) to a die. -/
def State.routeTo (s : State) (src : Option Nat) (d : Nat) : Option Bool :=
  match src with
  | some a => s.dieRoute a d
  | none => (s.toIo d).map fun h => h != 0

/-- Reaching a store from a source. -/
def State.reach (s : State) (src : Option Nat) (st : Store) : Reach :=
  match st with
  | .fen c | .pool c =>
    let d := dieOf c
    if src = some d then .served false
    else match s.routeTo src d with
      | none => .unreachable
      | some fb =>
        if s.get .ZYN_TRANSIT_STATE d = 1 ∨ s.get .ZYN_TRANSIT_STATE d = 2 then .answered d else .served fb
  | .marsh m =>
    if !s.transitUp m then .unreachable
    else match s.routeTo src m with
      | none => .unreachable
      | some fb =>
        let p := (s.link (24 + m)).port
        if p = 6 then .served fb else if p = 0 then .unreachable else .training
  | .cache =>
    match src with
    | none => .served false
    | some d => match s.toIo d with
      | some h => .served (h != 0)
      | none => .unreachable

/-- Counting a packet that a transit router answered (R256). -/
def State.countAnswered (s : State) (r : Reach) : State :=
  match r with
  | .answered d => s.bump .ZYN_TRANSIT_ANSWERED d 1
  | _ => s

/-- Whether nothing that is sent to a store from a source arrives (R248, R198). -/
def State.cutOff (s : State) (src : Option Nat) (st : Store) : Bool :=
  match s.reach src st with
  | .answered _ | .unreachable => true
  | _ => false

/-! ### Metered work (R211, R212) -/

/-- An access of metered work: its bytes on its store's regulator and on the allowances `bgs`, and whether a held bank (R141) or a port in training (R198) keeps it
waiting. -/
def State.metreAs (s : State) (src : Option Nat) (bgs : List Nat) (st : Store) (off n : Nat) : State :=
  match s.metering with
  | none => s
  | some m =>
    { s with metering := some ⟨(st.resOf.map fun r => (r, n)) ++ m.charges, (bgs.map fun b => (b, n)) ++ m.uses,
        m.blocked || s.bankHeld st off n || s.reach src st == .training⟩ }

/-- The same on the allowance of the store. -/
def State.metre (s : State) (src : Option Nat) (st : Store) (off n : Nat) : State := s.metreAs src st.bgOf st off n

/-- Background work that reaches no store of the module: it waits with its allowance. -/
def State.metreUse (s : State) (bg : Nat) : State :=
  match s.metering with
  | none => s
  | some m => { s with metering := some { m with uses := (bg, 0) :: m.uses } }

/-- A request of metered work at a resource that is no store: the peat. -/
def State.metreRes (s : State) (res n : Nat) : State :=
  match s.metering with
  | none => s
  | some m => { s with metering := some { m with charges := (res, n) :: m.charges } }

/-- Metered work that cannot go on until a later event. -/
def State.metreBlock (s : State) : State :=
  match s.metering with
  | none => s
  | some m => { s with metering := some { m with blocked := true } }

/-- Bytes of a list of uses on one key. -/
def usesOf (us : List (Nat × Nat)) (k : Nat) : Nat := ((us.filter fun e => e.1 == k).map (·.2)).sum

/-- What keeps requests of a partition waiting (R32, R211), bytes by allowance and by regulator: the state in which they wait, the regulators that hold them
noted; none where they may issue. Traffic of no partition is neither allowed nor regulated. -/
def State.barred (s : State) (p : Nat) (uses charges : List (Nat × Nat)) : Option State :=
  if p ≥ 12 then none
  else
    let short := (charges.map Prod.fst).eraseDups.filter fun x => decide ((s.reg x p).ceil ≤ 0)
    if !((uses.map Prod.fst).eraseDups.all fun b => s.bgAllows p b (usesOf uses b)) then some s
    else if short.isEmpty then none
    else some (short.foldl (fun t x => let g := t.reg x p; t.setReg x p { g with waits := true, hit := true }) s)

/-- Those requests charged. -/
def State.chargeAll (s : State) (p : Nat) (uses charges : List (Nat × Nat)) : State :=
  if p ≥ 12 then s
  else charges.foldl (fun t e => t.regCharge e.1 p e.2) ((uses.map Prod.fst).eraseDups.foldl (fun t b => t.bgCharge p b (usesOf uses b)) s)

/-- Work of a partition that takes place as a whole once every regulator, bank and port that it meets lets it, and, as background traffic (`bg`), the allowances too:
its result, and none while it waits. -/
def State.metered {α : Type} (s : State) (p : Nat) (bg : Bool) (f : State → α × State) : Option α × State :=
  let r := f { s with metering := some ⟨[], [], false⟩ }
  let m := r.2.metering.getD ⟨[], [], false⟩
  let t := { r.2 with metering := s.metering }
  let uses := if bg then m.uses else []
  if m.blocked then (none, s)
  else match s.barred p uses m.charges with
    | some s => (none, s)
    | none => (some r.1, t.chargeAll p uses m.charges)

end Sys2Proof.Machine
end

