-- ==== Sys2Proof/Machine/Cache.lean ====
section
/-!
DEFINITION. The shared cache (R204 to R209): atomic operations on its words and reduction groups.
Readings taken by inference (DEDUCED): notes/assumptions/29.md.
-/
namespace Sys2Proof.Machine

/-- Whether `n` bytes at a cache offset lie in a partition's region (R314). -/
def State.inRegion (s : State) (p off n : Nat) : Bool :=
  let b := s.get .PART_SHC_BASE p
  b ≤ off && off + n ≤ b + s.get .PART_SHC_BYTES p

/-- The operations of AOP 1 to 12 (R205). -/
inductive Aop where
  | add | smin | smax | umin | umax | cas
  deriving DecidableEq, Repr

/-- Width in bits and operation of an AOP code; 0, 13, 14, 15 are none. -/
def Aop.ofCode : Nat → Option (Nat × Aop)
  | 1 => some (32, .add)
  | 2 => some (64, .add)
  | 3 => some (32, .smin)
  | 4 => some (32, .smax)
  | 5 => some (32, .umin)
  | 6 => some (32, .umax)
  | 7 => some (64, .smin)
  | 8 => some (64, .smax)
  | 9 => some (64, .umin)
  | 10 => some (64, .umax)
  | 11 => some (32, .cas)
  | 12 => some (64, .cas)
  | _ => none

/-- The new word of an operation of width `w` (R205). -/
def Aop.apply (o : Aop) (w old operand compare : Nat) : Nat :=
  let b := operand % 2 ^ w
  match o with
  | .add => (old + b) % 2 ^ w
  | .smin => if signedOf w old ≤ signedOf w b then old else b
  | .smax => if signedOf w b ≤ signedOf w old then old else b
  | .umin => min old b
  | .umax => max old b
  | .cas => if old = compare % 2 ^ w then b else old

/-- An atomic operation served by the cache: the old value, none where the word is uncorrectable (R116, R204). -/
def State.atomic (s : State) (off w : Nat) (o : Aop) (operand compare : Nat) : Option Nat × State :=
  let at_ := off % 8
  let r := s.readMem .cache (off - at_) 8
  let t := (r.st.eccEvents r.notes).bump .SHC_STATS_ATOMICS 0 1
  if r.bad then (none, t)
  else
    let old := ofBytesLE ((r.bytes.drop at_).take (w / 8))
    let new := toBytesLE (w / 8) (o.apply w old operand compare)
    (some old, (t.store .cache (off - at_) (r.bytes.take at_ ++ new ++ r.bytes.drop (at_ + w / 8))).1)

/-! ### Reduction groups (R207 to R209) -/

/-- A group's entry. -/
structure GroupEntry where
  elems : Nat
  inBf16 : Bool
  outBf16 : Bool
  n : Nat
  dest : Nat
  staging : Nat
  doneOff : Nat
  deriving DecidableEq, Repr

/-- The entry's words read (R207): none where a reserved field is set or E is zero. -/
def GroupEntry.ofWords (w : List Word) : Option GroupEntry :=
  let w0 := wordAt w 0
  let e := fieldOf w0 23 0
  if e = 0 ∨ fieldOf w0 31 26 ≠ 0 ∨ fieldOf w0 63 44 ≠ 0 ∨ fieldOf (wordAt w 1) 63 29 ≠ 0 ∨ fieldOf (wordAt w 2) 63 29 ≠ 0 ∨ fieldOf (wordAt w 3) 63 29 ≠ 0 then none
  else some ⟨e, flagOf w0 24, flagOf w0 25, fieldOf w0 43 32 + 1, fieldOf (wordAt w 1) 28 0, fieldOf (wordAt w 2) 28 0, fieldOf (wordAt w 3) 28 0⟩

/-- Bytes of the result. -/
def GroupEntry.resultBytes (g : GroupEntry) : Nat := g.elems * (if g.outBf16 then 2 else 4)

/-- Whether the entry's areas lie in the region and are aligned (R209). -/
def State.groupPlaced (s : State) (p : Nat) (g : GroupEntry) : Bool :=
  g.dest % 64 == 0 && g.staging % 64 == 0 && g.doneOff % 8 == 0 &&
    s.inRegion p g.dest g.resultBytes && s.inRegion p g.staging (g.n * g.elems * 4) && s.inRegion p g.doneOff 8

/-- The fixed tree of R208 over the contributions of one element: each level adds neighbours `h` apart; one contribution is the
result as it stands (notes/assumptions/58.md). `fuel` bounds the levels. -/
def treeAdd : Nat → List F32 → F32
  | 0, xs => xs.headD 0
  | fuel + 1, xs =>
    match xs with
    | [] => 0
    | [x] => x
    | _ =>
      let rec pairs : List F32 → List F32
        | a :: b :: r => (fadd a b).1 :: pairs r
        | r => r
      treeAdd fuel (pairs xs)

/-- What a contribution met. -/
inductive ContribRes where
  | accepted
  | invalid
  | uncorrectable
  deriving DecidableEq, Repr

/-- Key of a group. -/
def groupKey (p g : Nat) : Nat := p * 2 ^ 20 + g

/-- The elements that some contributor has delivered. -/
def deliveredCount (got : List (Nat × Nat × Nat)) : Nat := got.foldl (fun n e => n + (e.2.2 - e.2.1)) 0

/-- A write of a group's work: scratch of the gust (R26). -/
def State.groupWrite (s : State) (p off : Nat) (bs : List Byte) : State × Bool := (s.noteWrite p .cache off bs.length).store .cache off bs

/-- An invalid request for a group: its result is not written (R209). -/
def State.spoilGroup (s : State) (p gi : Nat) : State × ContribRes := ({ s with badGroups := groupKey p gi :: s.badGroups }, .invalid)

/-- A completed group (R209): the sums written to DEST, DONE increased by 1 with ADD, the staging undefined. Uncorrectable staging leaves the result unwritten. -/
def State.groupComplete (s : State) (p gi : Nat) (g : GroupEntry) : State × ContribRes :=
  let s := { s with groups := SMap.set s.groups (groupKey p gi) [] [] }
  let r := s.readMem .cache g.staging (g.n * g.elems * 4)
  let s := r.st.eccEvents r.notes
  if s.badGroups.contains (groupKey p gi) then (s, .accepted)
  else if r.bad then (s.flagPart p 3 stUncorrectable, .uncorrectable)
  else
    let at_ (i e : Nat) : F32 := BitVec.ofNat 32 (elemBits .fp32 r.bytes (i * g.elems + e))
    let sums := (List.range g.elems).map fun e => treeAdd 12 ((List.range g.n).map fun i => at_ i e)
    let out := if g.outBf16 then sums.flatMap fun x => toBytesLE 2 (f32ToBf16 x) else sums.flatMap fun x => toBytesLE 4 x.toNat
    let (junk, s) := s.frees ((g.n * g.elems + 1) / 2)
    let s := s.rawWrite .cache g.staging ((wordsToBytes junk).take (g.n * g.elems * 4))
    let (s, refused) := s.groupWrite p g.dest out
    let (old, s) := (s.noteWrite p .cache g.doneOff 8).atomic g.doneOff 64 .add 1 0
    let s := s.bump .SHC_STATS_GROUPS 0 1
    if refused || old.isNone then (s.flagPart p 3 stUncorrectable, .uncorrectable) else (s, .accepted)

/-- A contribution to group `gi` of partition `p` (R207, R209): contributor, element offset, whole lines of data. -/
def State.contrib (s : State) (p gi who eoff : Nat) (data : List Byte) : State × ContribRes :=
  let base := s.get .SHC_GROUP_BASE_BASE p * 32 + 32 * gi
  if !s.inRegion p base 32 then s.spoilGroup p gi
  else
    let r := s.readMem .cache base 32
    let s := r.st.eccEvents r.notes
    if r.bad then (s.flagPart p 3 stUncorrectable, .uncorrectable)
    else match GroupEntry.ofWords (bytesToWords 4 r.bytes) with
      | none => s.spoilGroup p gi
      | some g =>
        let w := if g.inBf16 then 2 else 4
        let hi := min (eoff + data.length / w) g.elems
        let got := SMap.get s.groups (groupKey p gi) []
        if !s.groupPlaced p g || g.n ≤ who || g.elems ≤ eoff || got.any (fun e => e.1 == who && e.2.1 < hi && eoff < e.2.2) then s.spoilGroup p gi
        else
          let vals := (List.range (hi - eoff)).map fun k =>
            if g.inBf16 then bf16ToF32 (elemBits .bf16 data k) else BitVec.ofNat 32 (elemBits .fp32 data k)
          let (s, refused) := s.groupWrite p (g.staging + (who * g.elems + eoff) * 4) (vals.flatMap fun x => toBytesLE 4 x.toNat)
          let got := (who, eoff, hi) :: got
          let s := { s with groups := SMap.set s.groups (groupKey p gi) got [] }
          if refused then (s.flagPart p 3 stUncorrectable, .uncorrectable)
          else if deliveredCount got = g.n * g.elems then s.groupComplete p gi g else (s, .accepted)

end Sys2Proof.Machine
end

