-- ==== Sys2Proof/Machine/Network.lean ====
section
/-!
DEFINITION. The network request port (R250 to R253) and what the shared cache does with requests it holds (R205, R251): descriptors, their checks, their
effects, the requests that wait for tokens, a bank, a port in training or a word.
Readings taken by inference (DEDUCED): notes/assumptions/21.md, notes/assumptions/39.md.
-/
namespace Sys2Proof.Machine

/-- A network descriptor's fields (R250). -/
structure NetDesc where
  op : Nat
  aop : Nat
  target : Nat
  die : Nat
  core : Nat
  tag : Nat
  len : Nat
  remote : Nat
  pool : Nat
  contributor : Nat
  group : Nat
  operand : Nat
  compare : Nat
  statusOff : Nat
  statusEn : Bool
  deriving DecidableEq, Repr

def NetDesc.ofWords (w : List Word) : NetDesc :=
  let w0 := wordAt w 0
  ⟨fieldOf w0 3 0, fieldOf w0 7 4, fieldOf w0 9 8, fieldOf w0 13 10, fieldOf w0 19 14, fieldOf w0 31 24, fieldOf w0 54 32,
   fieldOf (wordAt w 1) 37 0, fieldOf (wordAt w 2) 21 0, fieldOf (wordAt w 2) 43 32, fieldOf (wordAt w 2) 63 44,
   (wordAt w 3).toNat, (wordAt w 4).toNat, fieldOf (wordAt w 5) 21 0, flagOf (wordAt w 5) 63⟩

/-- Reserved bits of the descriptor set (R250). -/
def netReserved (w : List Word) : Bool :=
  fieldOf (wordAt w 0) 23 20 != 0 || fieldOf (wordAt w 0) 63 55 != 0 || fieldOf (wordAt w 1) 63 38 != 0 ||
    fieldOf (wordAt w 2) 31 22 != 0 || fieldOf (wordAt w 5) 62 22 != 0

/-- Whether the operation moves LENGTH bytes. -/
def NetDesc.sized (d : NetDesc) : Bool := d.op == 1 || d.op == 2 || d.op == 4

/-- Bytes at the target. -/
def NetDesc.bytes (d : NetDesc) : Nat :=
  if d.sized then d.len else if d.op = 3 then (match Aop.ofCode d.aop with | some (w, _) => w / 8 | none => 8) else 8

/-- Bytes that the request is charged at a regulator: an atomic operation counts 8 (R210). -/
def NetDesc.charge (d : NetDesc) : Nat := if d.op = 3 then 8 else d.bytes

/-- Checks of a descriptor that need no state (R250, R253); the alignment of regions is notes/assumptions/21.md. -/
def NetDesc.valid (d : NetDesc) (w : List Word) : Bool :=
  let narrow := match Aop.ofCode d.aop with | some (32, _) => true | _ => false
  let ralign := if d.op = 1 ∨ d.op = 2 then 64 else if d.op = 3 then d.bytes else if d.op = 4 then 16 else 8
  let palign := if d.sized then 64 else 8
  let storeSize := if d.target = 0 then 0x48000000 else if d.target = 1 then 0x1800000000 else 0x18000000
  !netReserved w && 1 ≤ d.op && d.op ≤ 6 && d.target != 3 && d.statusOff % 8 == 0 &&
    (if d.op = 3 then (Aop.ofCode d.aop).isSome else d.aop == 0) &&
    (d.compare == 0 || d.aop == 11 || d.aop == 12) &&
    (!(d.op == 3 && narrow) || (d.operand < 2 ^ 32 && d.compare < 2 ^ 32)) &&
    (if d.sized then 64 ≤ d.len && d.len ≤ 4194304 && d.len % 64 == 0 else d.len == 0) &&
    (!(d.op == 3 || d.op == 4 || d.op == 6) || d.target == 2) &&
    (d.op == 5 || d.target != 2 || d.die == 0) &&
    (d.op == 5 || (d.remote % ralign == 0 && d.pool % palign == 0 && d.pool + (if d.sized then d.len else 8) ≤ 0x400000 &&
      (d.op == 4 || d.remote + d.bytes ≤ storeSize)))

/-- The store that the descriptor names; none where no die or stack has the number, or the logical core has no site: an access fault (R253). -/
def State.netStore (s : State) (d : NetDesc) : Option Store :=
  if 12 ≤ d.die then none
  else if d.target = 0 then (s.siteOf d.die d.core).map Store.fen
  else if d.target = 1 then some (.marsh d.die)
  else some .cache

/-- What an attempt at a request came to. -/
inductive NetRes where
  | waits
  | ends (status : Nat) (result : Option (List Byte))
  | traps (cause : Nat)
  deriving DecidableEq, Repr

/-- One attempt at a request of core `c` for partition `p` at its target (R251, R253). -/
def State.netAttempt (s : State) (c p : Nat) (d : NetDesc) : State × NetRes :=
  match s.netStore d with
  | none => (s, .traps trapAccess)
  | some st =>
    if d.op != 4 && !s.ownsRange p st d.remote d.bytes then (s, .traps trapAccess)
    else if d.op != 4 && s.anyWithdrawn st d.remote d.bytes then (s, .traps trapAccess)
    else
      let r := s.reach (some (dieOf c)) st
      match r with
      | .training => (s, .waits)
      | .answered _ | .unreachable => ((s.countAnswered r).flagPart p 5 stUncorrectable, .ends stTargetResetting none)
      | .served fb =>
        if s.bankHeld st d.remote d.bytes then (s, .waits)
        else
          -- a WAIT that is not met takes nothing yet
          let looks := d.op = 6 ∧ !(let q := s.readMem st d.remote 8; q.bad || decide (d.operand ≤ ofBytesLE q.bytes))
          if looks then (s, .waits)
          else match s.grant p [] st.resOf d.charge with
            | (none, s) => (s, .waits)
            | (some s, _) =>
              let s := if fb then s.bump .ZYN_NET_STATS_FALLBACK c 1 else s
              match d.op with
              | 1 | 6 =>
                match s.coreRead c st d.remote d.bytes with
                | (some bs, s) => (s, .ends stOk (some bs))
                | (none, s) => (s, .ends stUncorrectable none)
              | 2 =>
                match s.coreRead c (.pool c) d.pool d.len with
                | (some bs, s) => (s.coreWrite c st d.remote bs, .ends stOk none)
                | (none, s) => (s, .ends stUncorrectable none)
              | 3 =>
                match Aop.ofCode d.aop with
                | some (w, o) =>
                  match ((s.noteWrite p .cache d.remote d.bytes).unitWrote c .cache d.remote d.bytes).atomic d.remote w o d.operand d.compare with
                  | (some old, s) => (s, .ends stOk (some (toBytesLE 8 old)))
                  | (none, s) => (s.flagPart p 3 stUncorrectable, .ends stUncorrectable none)
                | none => (s, .traps trapDescriptor)
              | _ =>
                match s.coreRead c (.pool c) d.pool d.len with
                | (none, s) => (s, .ends stUncorrectable none)
                | (some bs, s) =>
                  match s.contrib p d.group d.contributor d.remote bs with
                  | (s, .accepted) => (s, .ends stOk none)
                  | (s, .invalid) => (s, .traps trapDescriptor)
                  | (s, .uncorrectable) => (s, .ends stUncorrectable none)

/-- A request completed (R251): the result in the pool, the status word if asked, the count. -/
def State.netEnd (s : State) (c : Nat) (d : NetDesc) (status : Nat) (res : Option (List Byte)) : State :=
  let s := match res with
    | some bs => s.coreWrite c (.pool c) d.pool bs
    | none => s
  let s := if d.statusEn then s.coreWrite c (.pool c) d.statusOff (toBytesLE 8 status) else s
  s.bump .ZYN_NET_STATS_REQUESTS c 1

/-- Two requests that must keep their order (R252): the same target, in one 64-byte line at least. -/
def NetDesc.sameTarget (a b : NetDesc) : Bool :=
  a.op != 5 && b.op != 5 && a.op != 4 && b.op != 4 && a.target == b.target && a.die == b.die && (a.target != 0 || a.core == b.core) &&
    a.remote / 64 ≤ (b.remote + b.bytes - 1) / 64 && b.remote / 64 ≤ (a.remote + a.bytes - 1) / 64

/-- One pass over a core's requests in issue order: each is tried unless an earlier one still waiting holds it back, of its own target or a FENCE (R252); a FENCE
ends when every earlier one has. -/
def State.netPass (s : State) (c : Nat) : State :=
  let p := (s.dieOwner (dieOf c)).getD 15
  let step (acc : State × List (Nat × List Word)) (e : Nat × List Word) : State × List (Nat × List Word) :=
    let (s, kept) := acc
    let d := NetDesc.ofWords e.2
    if kept.any fun k => (NetDesc.ofWords k.2).op == 5 || (NetDesc.ofWords k.2).sameTarget d then (s, kept ++ [e])
    else if d.op = 5 then
      if kept.isEmpty then (s.netEnd c d stOk none, kept) else (s, kept ++ [e])
    else
      let x := s.core c
      match (s.atUnit c 5 (e.2.drop 6)).netAttempt c p d with
      | (s, .waits) => (s.backAt c x, kept ++ [e])
      | (s, .ends st res) => ((s.netEnd c d st res).backAt c x, kept)
      | (s, .traps cause) => ((s.trap c cause d.tag stBadPacket).backAt c x, kept)
  let q := (s.core c).netq
  let (s, kept) := q.foldl step (s, [])
  s.modCore c fun k => { k with netq := kept }

/-- Cores with requests outstanding. -/
def State.netCores (s : State) : List Nat := (s.cores.filter fun e => !e.2.netq.isEmpty).map (·.1)

/-- Every core's requests tried once. -/
def State.netRound (s : State) : State := s.netCores.foldl State.netPass s

/-- Requests outstanding. -/
def State.netCount (s : State) : Nat := (s.cores.map fun e => e.2.netq.length).sum

/-- Rounds until one completes nothing (R251: a held WAIT returns once its word reaches the threshold); `fuel` bounds them. -/
def State.netSettle : Nat → State → State
  | 0, s => s
  | fuel + 1, s =>
    let t := s.netRound
    if t.netCount < s.netCount then State.netSettle fuel t else t

/-- An atomic operation served for partition `p` if it holds tokens: 8 bytes on the cache regulator (R210). -/
def State.atomServe (s : State) (p aop off : Nat) (operand compare : Word) : Option State × State :=
  match Aop.ofCode aop with
  | none => (some s, s)
  | some (w, o) =>
    match s.grant p [] [resCache] 8 with
    | (none, s) => (none, s)
    | (some s, _) =>
      let (old, s) := s.atomic off w o operand.toNat compare.toNat
      let s := if old.isNone then s.flagPart p 3 stUncorrectable else s
      let s := s.answer (.atomic p old)
      (some s, s)

/-- Atomic operations that wait for tokens, tried in order; a partition's later ones stay behind its earlier ones (R206). -/
def State.serveAtoms (s : State) : State :=
  let step (acc : State × List (Nat × Nat × Nat × Word × Word)) (e : Nat × Nat × Nat × Word × Word) : State × List (Nat × Nat × Nat × Word × Word) :=
    let (s, kept) := acc
    if kept.any fun k => k.1 == e.1 then (s, kept ++ [e])
    else match s.atomServe e.1 e.2.1 e.2.2.1 e.2.2.2.1 e.2.2.2.2 with
      | (some s, _) => (s, kept)
      | (none, s) => (s, kept ++ [e])
  let q := s.atomHeld
  let (s, kept) := q.foldl step (s, [])
  { s with atomHeld := kept }

/-- Held requests tried again after an event that may let them go on. -/
def State.settle (s : State) : State :=
  let s := if s.atomHeld.isEmpty then s else s.serveAtoms
  if s.netCores.isEmpty then s else s.netSettle (s.netCount + 1)

/-- Whether the queue of a core's port is full (R250): the control core's store then waits. -/
def State.netFull (s : State) (c : Nat) : Bool := decide (32 ≤ (s.core c).netq.length)

/-- The network descriptor of core `c` (R250 to R253). -/
def netIssue (c : Nat) (w : List Word) (s : State) : State :=
  let d := NetDesc.ofWords w
  if !d.valid w then s.trap c trapDescriptor d.tag stBadPacket
  else
    let n := (s.core c).netSeq
    let s := s.modCore c fun k => { k with netSeq := n + 1, netq := k.netq ++ [(n, w ++ s.issueWords c)] }
    s.settle

/-- The meanings of the descriptor rows; the words are those of the row, whose OP they carry. -/
def netRow (c : Site) (op : Nat) (w : List Word) (s : State) : Host.Outcome State Fault Refusal :=
  if fieldOf (wordAt w 0) 3 0 = op then .next (s.whenClocked fun s => if s.netFull (siteNo c) then s else netIssue (siteNo c) w s) else .fault .illFormed

/-- READ (R251). -/
def execNetRead (c : Site) (w0 w1 w2 w3 w4 w5 : Word) (s : State) : Host.Outcome State Fault Refusal := netRow c 1 [w0, w1, w2, w3, w4, w5] s

/-- WRITE (R251). -/
def execNetWrite (c : Site) (w0 w1 w2 w3 w4 w5 : Word) (s : State) : Host.Outcome State Fault Refusal := netRow c 2 [w0, w1, w2, w3, w4, w5] s

/-- ATOMIC (R251). -/
def execNetAtomic (c : Site) (w0 w1 w2 w3 w4 w5 : Word) (s : State) : Host.Outcome State Fault Refusal := netRow c 3 [w0, w1, w2, w3, w4, w5] s

/-- CONTRIB (R251). -/
def execNetContrib (c : Site) (w0 w1 w2 w3 w4 w5 : Word) (s : State) : Host.Outcome State Fault Refusal := netRow c 4 [w0, w1, w2, w3, w4, w5] s

/-- FENCE (R252). -/
def execNetFence (c : Site) (w0 w1 w2 w3 w4 w5 : Word) (s : State) : Host.Outcome State Fault Refusal := netRow c 5 [w0, w1, w2, w3, w4, w5] s

/-- WAIT (R251). -/
def execNetWait (c : Site) (w0 w1 w2 w3 w4 w5 : Word) (s : State) : Host.Outcome State Fault Refusal := netRow c 6 [w0, w1, w2, w3, w4, w5] s

/-- An atomic operation row (R205): a requester of partition `p` on a word of the shared cache. One on a word outside the partition's region, or not
naturally aligned, is refused (R214); one that holds no tokens waits (R211). -/
def atomRow (p : Fin 12) (aop off : Nat) (operand compare : Word) (s : State) : State :=
  let n := match Aop.ofCode aop with | some (w, _) => w / 8 | none => 8
  if off % n ≠ 0 ∨ !s.inRegion p.val off n then s
  else State.settle { s with atomHeld := s.atomHeld ++ [(p.val, aop, off, operand, compare)] }

/-- ADD (R205). -/
def execAtomAdd (p : Fin 12) (wide : Bool) (off : Nat) (v : Word) (s : State) : Host.Outcome State Fault Refusal :=
  .next (s.whenClocked (atomRow p (if wide then 2 else 1) off v 0))

/-- SMIN (R205). -/
def execAtomSmin (p : Fin 12) (wide : Bool) (off : Nat) (v : Word) (s : State) : Host.Outcome State Fault Refusal :=
  .next (s.whenClocked (atomRow p (if wide then 7 else 3) off v 0))

/-- SMAX (R205). -/
def execAtomSmax (p : Fin 12) (wide : Bool) (off : Nat) (v : Word) (s : State) : Host.Outcome State Fault Refusal :=
  .next (s.whenClocked (atomRow p (if wide then 8 else 4) off v 0))

/-- UMIN (R205). -/
def execAtomUmin (p : Fin 12) (wide : Bool) (off : Nat) (v : Word) (s : State) : Host.Outcome State Fault Refusal :=
  .next (s.whenClocked (atomRow p (if wide then 9 else 5) off v 0))

/-- UMAX (R205). -/
def execAtomUmax (p : Fin 12) (wide : Bool) (off : Nat) (v : Word) (s : State) : Host.Outcome State Fault Refusal :=
  .next (s.whenClocked (atomRow p (if wide then 10 else 6) off v 0))

/-- CAS (R205). -/
def execAtomCas (p : Fin 12) (wide : Bool) (off : Nat) (cmp v : Word) (s : State) : Host.Outcome State Fault Refusal :=
  .next (s.whenClocked (atomRow p (if wide then 12 else 11) off v cmp))

end Sys2Proof.Machine
end

