-- ==== Sys2Proof/Machine/Sensors.lean ====
section
/-!
DEFINITION. The thermal sensors by number (R340, R403), their failure marks (R344) and governing values (R343, R345), and the temperature of a link (R340, R243).
-/
namespace Sys2Proof.Machine

/-- Numbers of the sensors (R403): two diodes and an L0 sensor per site, I/O die, marsh, peat. -/
def diodeNo (c i : Nat) : Nat := 2 * c + i
def l0No (c : Nat) : Nat := 1632 + c
def ioNo (k : Nat) : Nat := 2448 + k
def marshNo (m i : Nat) : Nat := 2464 + 2 * m + i
def peatNo (k : Nat) : Nat := 2488 + k
/-- Numbers of the tray sensors: 0 inlet, 1 outlet, 2 flow. -/
def trayNo (n : Nat) : Nat := 2492 + n

def State.sens (s : State) (n : Nat) : Sens := SMap.get s.therm.sens n Sens.fresh
def State.setSens (s : State) (n : Nat) (x : Sens) : State := { s with therm := { s.therm with sens := SMap.set s.therm.sens n x Sens.fresh } }

/-- The failure mark of a sensor (R344): its field and bit. -/
def failMark (n : Nat) : Fld × Nat × Nat :=
  if n < 1632 then (if n % 2 = 0 then .THM_SITE_DIODE0_FAILED else .THM_SITE_DIODE1_FAILED, n / 2, 0)
  else if n < 2448 then (.THM_SITE_L0_FAILED, n - 1632, 0)
  else if n < 2464 then (.THM_IO_FAIL_FAILED, 0, n - 2448)
  else if n < 2488 then (.THM_SENSOR_FAIL_MARSH, 0, n - 2464)
  else (.THM_SENSOR_FAIL_PEAT, 0, n - 2488)

def State.sensorFailed (s : State) (n : Nat) : Bool := let (f, i, b) := failMark n; bitOf (s.get f i) b

/-- Whether both diodes of a site are marked failed: the core runs at floor level 15 (R345). -/
def State.pairFailed (s : State) (c : Nat) : Bool := s.sensorFailed (diodeNo c 0) && s.sensorFailed (diodeNo c 1)

/-- The present temperature that the forecast estimates (R345). -/
def State.estimate (s : State) (n : Nat) : Int := Config.estimate s.therm.forecast n

/-- Governing values (R343, R345), in 1/8 °C. -/
def State.govLogic (s : State) (c : Nat) : Int :=
  let (a, b) := (diodeNo c 0, diodeNo c 1)
  match s.sensorFailed a, s.sensorFailed b with
  | false, false => max (s.sens a).t (s.sens b).t
  | true, false => max (s.sens b).t (s.estimate a)
  | false, true => max (s.sens a).t (s.estimate a)
  | true, true => s.estimate a + 40

def State.govL0 (s : State) (c : Nat) : Int := if s.sensorFailed (l0No c) then s.estimate (l0No c) + 40 else (s.sens (l0No c)).t

def State.govMarsh (s : State) (m : Nat) : Int :=
  let (a, b) := (marshNo m 0, marshNo m 1)
  match s.sensorFailed a, s.sensorFailed b with
  | false, false => max (s.sens a).t (s.sens b).t
  | true, false => (s.sens b).t
  | false, true => (s.sens a).t
  | true, true => s.estimate a + 40

/-- An I/O die sensor marked failed: the hottest remaining one within 10 mm, else the forecast. -/
def State.govIo (s : State) (k : Nat) : Int :=
  if !s.sensorFailed (ioNo k) then (s.sens (ioNo k)).t
  else
    let near := (List.range 16).filter fun j => !s.sensorFailed (ioNo j) && Config.ioNear k j
    match near.map fun j => (s.sens (ioNo j)).t with
    | [] => s.estimate (ioNo k)
    | t :: ts => ts.foldl max t

/-- A temperature in whole °C as a signed byte, and in 0.1 °C as a signed 16-bit number (notes/assumptions/40.md). -/
def degC (t : Int) : Nat := ofSigned 8 (max (-128) (min 127 (t.fdiv 8)))
def deciC (t : Int) : Nat := ofSigned 16 ((t * 5).fdiv 4)

/-- The hotter of a link's two port temperatures, in whole °C (R340): of a compute die's end the governing reading of the nearest core site, of the I/O die's end
of a spoke the nearest I/O die sensor. Which these are the spec does not give (notes/assumptions/24.md). -/
def State.linkTemp (s : State) (l : Nat) : Int :=
  let near := s.govLogic (68 * (l % 12) + (Config.nearSite l false).val)
  let far := if l < 12 then s.govLogic (68 * ((l + 1) % 12) + (Config.nearSite l true).val) else s.govIo (Config.nearIo l).val
  (max near far).fdiv 8

end Sys2Proof.Machine
end

