-- ==== Sys2Proof/Machine/Links.lean ====
section
/-!
DEFINITION. Zyneno links, marsh ports and transit domains (R238 to R248, R198): flits and retry, training, background retraining, spare wires.
Readings taken by inference (DEDUCED): notes/assumptions/38.md.
-/
namespace Sys2Proof.Machine

/-- A class 9 record of a link (R323): kinds 3 down, 4 version refused. -/
def State.linkEvent (s : State) (l kind : Nat) : State := s.eventFree ⟨4, 4, l, 9, 15, 0, kind, 0⟩

/-- The record of a spare that training has given to a wire (R242, R322). -/
def State.wireEvent (s : State) (l : Nat) (dir : Bool) (w : Nat) : State :=
  s.eventFree ⟨4, 4, l + placed (Bool.bit dir) 5 + placed w 6 + placed 1 16, 9, 15, 0, 2, 0⟩

/-- The state of a die's transit domain (R248, R256): out when every link of it is DOWN, on a fault or powered down; else as the die's cores and partition stand. -/
def State.refreshTransit (s : State) (d : Nat) : State :=
  let down l := s.get .ZYN_LINK_STATUS_STATE l == 0
  let allDown := down d && down (westOf d) && down (12 + d) && (s.link (24 + d)).port == 0
  let out := allDown || s.transitFaults.contains d || bitOf (s.get .PWR_STATE_TRANSIT_OFF 0) d
  let st :=
    if out then 3
    else if bitOf (s.get .PWR_STATE_CORES_OFF 0) d then 2
    else match s.dieOwner d with
      | some p => if s.get .PART_STATUS_STATE p = 3 then 1 else 0
      | none => 0
  s.put .ZYN_TRANSIT_STATE d st

/-- The dies at the ends of a link. -/
def linkDies (l : Nat) : List Nat := if l < 12 then [l, eastOf l] else if l < 24 then [l - 12] else [l - 24]

def State.refreshTransits (s : State) (ds : List Nat) : State := ds.foldl State.refreshTransit s

/-- Key of a marsh bank: stack, logical channel, bank. -/
def marshBank (m ch b : Nat) : Nat := (m * 17 + ch) * 48 + b

/-- Every refresh debt of a stack repaid (R198, R113). -/
def State.repayMarsh (s : State) (m : Nat) : State := { s with marshDebt := s.marshDebt.clearRange (m * 17 * 48) ((m + 1) * 17 * 48) }

/-- A full training starts (R242): a link at CLOCK; a marsh port first puts its stack into self-refresh (R198). A group in retraining finishes before (R255). -/
def State.startTraining (s : State) (u : Nat) : State :=
  let k := s.link u
  if u < 24 then
    if !k.groups.isEmpty then s.setLink u { k with fullDue := true }
    else
      let k := { k with fullDue := false, d0 := LinkDir.fresh, d1 := LinkDir.fresh, bad := [] }
      ((s.setLink u k).puts u [(.ZYN_LINK_STATUS_STATE, 1), (.ZYN_LINK_STATUS_GROUP, 63)]).refreshTransits (linkDies u)
  else
    let s := s.repayMarsh (u - 24)
    ({ s with selfRefresh := SMap.set s.selfRefresh (816 + (u - 24)) true false }.setLink u { k with port := 1, d0 := LinkDir.fresh }).refreshTransits [u - 24]

/-- The commands that wait for a link's training (LINK_RETRAIN) complete with the state reached (R289). -/
def State.endRetrain (s : State) (kind u group : Nat) (reached : Nat) : State :=
  (s.cmds.filter fun c => c.kind == .linkRetrain (kind * 64 + u) group).foldl (fun t c => t.endCmd c stOk t.gust reached 0) s

/-! ### Flits (R240, R241, R244) -/

/-- The directions of a link. -/
def Link.dir (k : Link) (d : Bool) : LinkDir := if d then k.d1 else k.d0
def Link.setDir (k : Link) (d : Bool) (x : LinkDir) : Link := if d then { k with d1 := x } else { k with d0 := x }

/-- Flits that the sender of a direction keeps for replay (R244): 256 on a compute die, 64 on the I/O die, which sends outward on a spoke. -/
def replayDepth (l : Nat) (dir : Bool) : Nat := if l < 12 || dir then 256 else 64

/-- Counts of a list of keys added to a map, or taken from it. -/
def addUses (m : SMap Nat) (ks : List Nat) : SMap Nat := ks.foldl (fun m k => SMap.set m k (SMap.get m k 0 + 1) 0) m
def returnUses (m : SMap Nat) (cs : List Nat) : SMap Nat := cs.zipIdx.foldl (fun m c => SMap.set m c.2 (SMap.get m c.2 0 - c.1) 0) m

/-- A flit in the replay buffer of its sender; its packets take their credits when it is first sent. -/
def LinkDir.hold (d : LinkDir) (depth seq : Nat) (ps : List ZynPkt) : LinkDir :=
  if d.sent.any fun e => e.1 == seq then d
  else { d with sent := (d.sent ++ [(seq, ps)]).drop (d.sent.length + 1 - depth), used := addUses d.used (ps.map ZynPkt.set) }

/-- Flits up to an acknowledged one leave a replay buffer. -/
def ackedUpTo {α : Type} (q : List (Nat × α)) (ack : Nat) : List (Nat × α) :=
  match q.findIdx? fun e => e.1 == ack with
  | some k => q.drop (k + 1)
  | none => q

/-- Packets of an exhausted link dropped (R241): network requests end with ST_UNCORRECTABLE, host commands complete with it. -/
def State.dropPacket (s : State) (k : ZynOwner) : State :=
  match k with
  | .part _ => s
  | .core c n =>
    let c := siteNo c
    match (s.core c).netq.find? fun e => e.1 == n with
    | some e => (s.modCore c fun k => { k with netq := k.netq.erase e }).atWork c 5 (e.2.drop 6) fun s => s.netEnd c (NetDesc.ofWords e.2) stUncorrectable none
    | none => s
  | .host r t => s.endCmds (fun c => c.q.ring == r && c.q.tag == t) stUncorrectable

/-- The partition that owns a packet. -/
def State.packetPart (s : State) (k : ZynOwner) : Option Nat :=
  match k with
  | .part p => some p.val
  | .core c _ => s.dieOwner c.die.val
  | .host r t => (s.cmds.find? fun c => c.q.ring == r && c.q.tag == t).bind fun c => if c.q.part.val < 12 then some c.q.part.val else none

/-- Bits of a list of partitions (R323). -/
def partBits (ps : List Nat) : Nat := (List.range 12).foldl (fun n p => if ps.contains p then n + 2 ^ p else n) 0

/-- Retry exhaustion of a link (R241): what either direction's replay buffer holds is dropped. -/
def State.linkExhausted (s : State) (l : Nat) (dir : Bool) : State :=
  let k := s.link l
  let held := (k.d0.sent ++ k.d1.sent).flatMap fun e => e.2.map ZynPkt.owner
  let ps := held.filterMap s.packetPart
  let s := held.foldl State.dropPacket s
  let s := ps.foldl (fun t p => t.flagPart p 5 stUncorrectable) s
  let s := s.bump .ZYN_LINK_ERR_EXHAUSTED l 1
  let one := match ps.eraseDups with | [p] => p | _ => 15
  let s := s.event ⟨4, 4, l + placed (Bool.bit dir) 5, 9, one, stUncorrectable, 1, partBits ps⟩
  (s.startTraining l).settle

/-- An error located on a wire (R245): the wire with the most of them is latched. -/
def State.locateWire (s : State) (l : Nat) (dir : Bool) (w : Nat) : State :=
  let k := s.link l
  let key := Bool.bit dir * 1024 + w
  let n := SMap.get k.located key 0 + 1
  let s := s.setLink l { k with located := SMap.set k.located key n 0 }
  if s.get .ZYN_WIRE_WORST_COUNT l < n then
    s.puts l [(.ZYN_WIRE_WORST_COUNT, saturate 16 n), (.ZYN_WIRE_WORST_DIR, Bool.bit dir), (.ZYN_WIRE_WORST_WIRE, w)]
  else s

/-- A flit received on an ACTIVE link (R241). Its sender keeps it until it is acknowledged. One that fails is answered with NAK; one accepted
acknowledges, returns credits for and may ask the replay of the other direction's flits. -/
def zynFlit (l : Nat) (dir : Bool) (fl : ZynFlit) (s : State) : State :=
  if s.get .ZYN_LINK_STATUS_STATE l ≠ 6 then s
  else
    let s := fl.eye.foldl (fun (s : State) (w : Fin 1024) => s.locateWire l dir w.val) s
    let c := ZynCtl.ofWords fl.words
    let good := zynCrcOk fl.words
    let k := s.link l
    let d := k.dir dir
    let d := d.hold (replayDepth l dir) (if good then c.seq else d.rx) fl.packets
    if good && c.seq == d.rx then
      let o := k.dir !dir
      let stale := c.nak && !o.sent.any fun e => e.1 == (c.ack + 1) % 4096
      let o := { o with sent := ackedUpTo o.sent c.ack, used := returnUses o.used c.credits }
      let wires := if d.failed ≠ [] ∧ bitOf (s.get .ZYN_LINK_STATUS_CAPS l) 1 then differWires d.failed fl.words else []
      let s := s.setLink l ((k.setDir dir { d with rx := (d.rx + 1) % 4096, fails := 0, failed := [] }).setDir (!dir) o)
      let s := wires.foldl (fun s w => s.locateWire l dir w) s
      let s := fl.latencies.foldl (fun (s : State) (x : Nat) => s.monSample (monLinkLatency + 2 * l + Bool.bit dir) x) s
      if stale then s.linkExhausted l dir else s
    else
      let s := (s.bump .ZYN_LINK_ERR_CRC_ERRORS l 1).bump .ZYN_LINK_ERR_REPLAYS l 1
      let d := { d with fails := d.fails + 1, failed := if good then d.failed else fl.words }
      let s := s.setLink l { k.setDir dir d with replays := k.replays + 1 }
      if 8 ≤ d.fails then s.linkExhausted l dir else s

/-- Traffic met on an ACTIVE marsh port (R198): a command that fails its parity eight times in a row exhausts the retry, and the port trains in full while
requests stay queued. -/
def marshFlit (m : Nat) (fl : ZynFlit) (s : State) : State :=
  let k := s.link (24 + m)
  if k.port ≠ 6 then s
  else if beatOk fl.words then s.setLink (24 + m) { k with d0 := { k.d0 with fails := 0 } }
  else if k.d0.fails + 1 < 8 then s.setLink (24 + m) { k with d0 := { k.d0 with fails := k.d0.fails + 1 } }
  else (s.event ⟨5, 5, m, 9, 15, stUncorrectable, 1, 0⟩).startTraining (24 + m)

/-- ZYN_FLIT_RECEIVE (R241). -/
def execZynFlitReceive (u : LinkUnit) (dir : Bool) (fl : ZynFlit) (s : State) : Host.Outcome State Fault Refusal :=
  match u with
  | .zyn l => .next (s.whenClocked (zynFlit l.val dir fl))
  | .marsh m => .next (s.whenClocked (marshFlit m.val fl))

/-- Index of spare `k` of a link and direction. -/
def wireSpare (l : Nat) (dir : Bool) (k : Nat) : Nat := ix3 2 32 l (Bool.bit dir) k

/-- Spares of a direction in use, and whether a wire has one. -/
def State.wireCovered (s : State) (l : Nat) (dir : Bool) (w : Nat) : Bool :=
  (List.range 32).any fun k => s.on .ZYN_WIRE_SPARE_VALID (wireSpare l dir k) && s.get .ZYN_WIRE_SPARE_TARGET (wireSpare l dir k) == w

def State.freeWireSpare (s : State) (l : Nat) (dir : Bool) : Option Nat := (List.range 32).find? fun k => !s.on .ZYN_WIRE_SPARE_VALID (wireSpare l dir k)

/-- A spare put to a wire; `fromTraining` marks it NEW. -/
def State.assignWire (s : State) (l : Nat) (dir : Bool) (w : Nat) (fromTraining : Bool) : Option State :=
  (s.freeWireSpare l dir).map fun k =>
    s.puts (wireSpare l dir k) [(.ZYN_WIRE_SPARE_VALID, 1), (.ZYN_WIRE_SPARE_NEW, Bool.bit fromTraining), (.ZYN_WIRE_SPARE_TARGET, w)]

/-- Failed wires without a spare, in increasing order, each taking a free one (R242); none where they outnumber them. A spare that an earlier training gave stays
with its wire (R15 lets the next training choose another: notes/assumptions/56.md). -/
def State.repairWires (s : State) (l : Nat) : Option State :=
  let bad := [false, true].flatMap fun dir =>
    ((List.range 1024).filter fun w => (s.link l).bad.contains (dir, w) && !s.wireCovered l dir w).map fun w => (dir, w)
  bad.foldl (fun o e => o.bind fun t => (t.assignWire l e.1 e.2 true).map fun t => t.wireEvent l e.1 e.2) (some s)

/-- A link or port that stays DOWN. -/
def State.linkDown (s : State) (l kind : Nat) : State :=
  let s := s.put .ZYN_LINK_STATUS_STATE l 0
  (((s.linkEvent l kind).refreshTransits (linkDies l)).endRetrain 0 l 0 0).endRetrain 0 l 1 0

/-- NEGOTIATE finishes (R244): the link runs at the lower version with the capabilities that both ends offer, or stays DOWN. -/
def State.negotiate (s : State) (l : Nat) (tr : LinkTrain) : State :=
  if tr.far.version ≠ 1 ∧ tr.far.version ≠ 2 then s.linkDown l 4
  else
    let v := if l < 12 then min 2 tr.far.version else 1
    let s := s.puts l [(.ZYN_LINK_STATUS_VERSION, v), (.ZYN_LINK_STATUS_CAPS, if v = 2 then tr.far.caps % 4 else 0), (.ZYN_LINK_STATUS_STATE, 6),
      (.ZYN_LINK_STATUS_TRAIN_TEMP, ofSigned 8 (s.linkTemp l))]
    (((s.refreshTransits (linkDies l)).endRetrain 0 l 0 6).endRetrain 0 l 1 6).settle

/-- REPAIR finishes (R242): the failed wires have their spares, or the link stays DOWN. -/
def State.repairLink (s : State) (l : Nat) : State :=
  match s.repairWires l with
  | some s => s.put .ZYN_LINK_STATUS_STATE l 5
  | none => s.linkDown l 3

/-- A training state of a link finishes (R242, R244). -/
def zynTraining (l : Nat) (tr : LinkTrain) (s : State) : State :=
  let st := s.get .ZYN_LINK_STATUS_STATE l
  let k := s.link l
  if st = 0 then
    if (linkDies l).any fun d => s.transitFaults.contains d || bitOf (s.get .PWR_STATE_TRANSIT_OFF 0) d then s
    else s.startTraining l
  else if st < 3 then s.put .ZYN_LINK_STATUS_STATE l (st + 1)
  else if st = 3 then (s.setLink l { k with bad := tr.bad }).put .ZYN_LINK_STATUS_STATE l 4
  else if st = 4 then s.repairLink l
  else if st = 5 then s.negotiate l tr
  else s

/-- A training state of a marsh port finishes: clock, deskew and wire test (R238, R198). A failed data or check wire damages one symbol per transfer and the port
runs; one of the command bundle (first component true) leaves it DOWN, and its queue is answered (notes/assumptions/38.md). -/
def marshTraining (m : Nat) (bad : List (Bool × Nat)) (s : State) : State :=
  let k := s.link (24 + m)
  if k.port = 0 then
    if s.transitFaults.contains m || bitOf (s.get .PWR_STATE_TRANSIT_OFF 0) m then s else s.startTraining (24 + m)
  else if k.port < 3 then s.setLink (24 + m) { k with port := k.port + 1 }
  else if k.port = 3 then
    if bad.any Prod.fst then
      let s := (s.setLink (24 + m) { k with port := 0 }).eventFree ⟨5, 5, m, 9, 15, 0, 3, 0⟩
      ((s.refreshTransits [m]).endRetrain 1 m 1 0).settle
    else
    let t := max (signedOf 8 (s.get .MRS_STATUS_TEMP0 m)) (signedOf 8 (s.get .MRS_STATUS_TEMP1 m))
    let s := { s with selfRefresh := SMap.set s.selfRefresh (816 + m) false false }.setLink (24 + m) { k with port := 6, temp := t, chLeft := 0 }
    ((s.refreshTransits [m]).endRetrain 1 m 1 6).settle
  else s

/-- LINK_TRAINING_STATE (R242). -/
def execLinkTrainingState (u : LinkUnit) (bad : List (Bool × Nat)) (far : LinkFar) (s : State) : Host.Outcome State Fault Refusal :=
  match u with
  | .zyn l => .next (s.whenClocked (zynTraining l.val ⟨bad, far⟩))
  | .marsh m => .next (s.whenClocked (marshTraining m.val bad))

/-- Background retraining of groups asked for on an ACTIVE link (R243). -/
def State.startGroups (s : State) (l : Nat) (gs : List Nat) : State :=
  let k := s.link l
  if s.get .ZYN_LINK_STATUS_STATE l ≠ 6 then s
  else
    let all := k.groups ++ gs.filter fun g => !k.groups.contains g
    (s.setLink l { k with groups := all }).put .ZYN_LINK_STATUS_GROUP l (all.headD 63)

/-- One group has retrained (R243); the last one records the temperature. A full retraining that waited for the group starts in place of the groups behind it
(R255). On a link whose groups stop it, none retrains outside the work window. -/
def zynGroup (l : Nat) (s : State) : State :=
  let k := s.link l
  match k.groups with
  | [] => s
  | _ :: rest =>
    if s.inLull ∧ !bitOf (s.get .ZYN_LINK_STATUS_CAPS l) 0 then s
    else if k.fullDue then ((s.setLink l { k with groups := [] }).startTraining l).settle
    else
      let s := (s.setLink l { k with groups := rest }).put .ZYN_LINK_STATUS_GROUP l (rest.headD 63)
      if !rest.isEmpty then s
      else ((s.put .ZYN_LINK_STATUS_TRAIN_TEMP l (ofSigned 8 (s.linkTemp l))).endRetrain 0 l 0 6).settle

/-- ZYN_GROUP_RETRAIN (R243). -/
def execZynGroupRetrain (l : Fin 24) (s : State) : Host.Outcome State Fault Refusal := .next (s.whenClocked (zynGroup l.val))

/-- TRANSIT_FAULT (R248): the domain is out; what it held or forwarded is rerouted or answered. -/
def transitOut (d : Nat) (s : State) : State :=
  let s := { s with transitFaults := if s.transitFaults.contains d then s.transitFaults else d :: s.transitFaults }
  let s := s.eventFree ⟨4, 3, d, 9, s.diePart d, 0, 3, 0⟩
  (s.refreshTransit d).settle

/-- TRANSIT_FAULT (R248). -/
def execTransitFault (d : Fin 12) (s : State) : Host.Outcome State Fault Refusal := .next (s.whenClocked (transitOut d.val))

end Sys2Proof.Machine
end

