-- ==== Sys2Proof/Machine/Xeunni.lean ====
section
/-!
DEFINITION. The Xeunni fabric (R257 to R273): ports and their training, flits and retry, forwarding, mailboxes and their notices.
Readings taken by inference (DEDUCED): notes/assumptions/43.md.
-/
namespace Sys2Proof.Machine

/-- A port carries traffic. -/
def State.portUp (s : State) (k : Nat) : Bool := s.get .XNI_PORT_STATUS_STATE k == 7

/-- The module's identifier. -/
def State.moduleId (s : State) : Nat := s.get .XNI_MODULE_ID_ID 0

/-- The output port towards a module: its route in force, VALID and ACTIVE (R265). -/
def State.routePort (s : State) (m : Nat) : Option Nat :=
  let k := s.inForce .XNI_ROUTE_PORT m
  if m < 2048 ∧ s.inForce .XNI_ROUTE_VALID m = 1 ∧ s.portUp k then some k else none

/-! ### Sending -/

/-- Buffer set of a packet on its hop `h`, 1 to 4 (R263). -/
def xniSet (c : PktClass) (h : Nat) : Nat := 4 * c.num + (h - 1)

/-- Flits that a port keeps for replay (R264). -/
def xniDepth : Nat := 2048

/-- Flits entered in a replay buffer, which keeps the last 2,048. -/
def XPort.hold (x : XPort) (n : Nat) (pkt : Option XniSent) : XPort :=
  let q := x.sent ++ (List.range n).map fun j => ((x.tx + j) % 4096, pkt)
  { x with tx := (x.tx + n) % 4096, sent := q.drop (q.length - xniDepth) }

/-- A packet leaves on a port: its flits are numbered and kept for replay, and it takes credits of its class and hop. -/
def State.xniEmit (s : State) (k : Nat) (pkt : XniSent) : State :=
  let x := s.xport k
  let set := xniSet pkt.2.2.cls pkt.2.1
  let y := { x.hold pkt.2.2.flits (some pkt) with used := SMap.set x.used set (SMap.get x.used set 0 + pkt.2.2.credits) 0 }
  { s.setXport k y with xniOut := ⟨k, x.tx, (x.rx + 4095) % 4096, false, some pkt⟩ :: s.xniOut }

/-- A NAK leaves on a port (R264). -/
def State.xniNak (s : State) (k : Nat) : State :=
  let x := s.xport k
  { s.setXport k (x.hold 1 none) with xniOut := ⟨k, x.tx, (x.rx + 4095) % 4096, true, none⟩ :: s.xniOut }

/-- A packet sent or forwarded after `hops` hops: dropped and counted where no route takes it or it would make its fifth hop (R265). -/
def State.xniSend (s : State) (dest hops : Nat) (pkt : XniPacket) : State :=
  match s.routePort dest with
  | some k => if hops < 4 then s.xniEmit k (dest, hops + 1, pkt) else s.bump .XNI_STATS_DROPPED 0 1
  | none => s.bump .XNI_STATS_DROPPED 0 1

/-! ### Mailboxes (R266 to R268) -/

/-- A mailbox entry (R267). -/
structure Mbox where
  slot0 : Nat
  slotBytes : Nat
  peerModule : Nat
  peerPart : Nat
  valid : Bool
  offset : Int
  step : Nat
  released : Nat
  deriving DecidableEq, Repr

def Mbox.ofWords (w : List Word) : Mbox :=
  ⟨fieldOf (wordAt w 0) 28 0, fieldOf (wordAt w 0) 63 32, fieldOf (wordAt w 1) 10 0, fieldOf (wordAt w 1) 14 11, flagOf (wordAt w 1) 15,
   signedOf 32 (fieldOf (wordAt w 1) 63 32), fieldOf (wordAt w 2) 47 0, fieldOf (wordAt w 3) 47 0⟩

/-- Cache offset of a mailbox entry. -/
def State.mboxAt (s : State) (p n : Nat) : Nat := s.get .XNI_MBOX_BASE_BASE p * 32 + 32 * n

/-- A mailbox entry as the cache holds it: none outside the partition's region or uncorrectable. -/
def State.mbox (s : State) (p n : Nat) : Option Mbox × State :=
  let a := s.mboxAt p n
  if n ≥ 64 ∨ !s.inRegion p a 32 then (none, s)
  else
    let r := s.readMem .cache a 32
    let t := r.st.eccEvents r.notes
    if r.bad then (none, t.flagPart p 3 stUncorrectable) else (some (Mbox.ofWords (bytesToWords 4 r.bytes)), t)

/-- A mailbox write at its receiver (R268): the status it is answered with. The status of a failed check is notes/assumptions/25.md. -/
def State.mboxStore (s : State) (pkt : MboxPkt) : State × Nat :=
  let p := pkt.part.val
  let refuse (s : State) (st : Nat) : State × Nat := (s.bump .XNI_STATS_REFUSED 0 1, st)
  if s.get .PART_STATUS_STATE p = 0 then refuse s stDisabled
  else if s.get .PART_STATUS_STATE p = 3 then refuse s stTargetResetting
  else match s.mbox p pkt.mbox with
    | (none, s) => refuse s stBadPacket
    | (some m, s) =>
      let a := m.slot0 + pkt.step % 2 * m.slotBytes + pkt.offset
      if m.valid && m.peerModule == pkt.srcModule && m.peerPart == pkt.srcPart && pkt.offset + pkt.data.length ≤ m.slotBytes && m.step ≤ pkt.step &&
          s.inRegion p a pkt.data.length then ((s.store .cache a pkt.data).1, stOk)
      else refuse s stBadPacket

/-- The descriptor in progress at an engine changed. -/
def State.modCur (s : State) (e : Nat) (f : DmaCur → DmaCur) : State := s.setEngine e { s.engine e with cur := (s.engine e).cur.map f }

/-- A write whose acknowledgement will not come ends with a status where no rewind will abandon its descriptor: its partition's job does not run (R308). -/
def State.writeLost (s : State) (e st : Nat) : State :=
  if (s.part (s.get .DMA_CH_CTL_PARTITION e)).running then s else s.modCur e fun d => { d with acks := d.acks - 1, result := some (d.result.getD st) }

/-- A write awaited by an engine no longer is; its port's latency monitor takes the time since its issue, a free value (R403; notes/assumptions/2.md). -/
def State.ackTaken (s : State) (e : Nat) : State :=
  match s.xniWait.find? (fun x : Nat × Nat => x.1 == e) with
  | none => s
  | some x =>
    let s := { s with xniWait := s.xniWait.erase x }
    if x.2 < 16 then
      let (t, s) := s.free
      s.monSample (monPortLatency + x.2) (t.toNat % 2 ^ 63 : Nat)
    else s

/-- The engine of a write has its acknowledgement or refusal (R268, R305): a refused write completes its descriptor with the refusal status, raises a
record and leaves the gust incomplete. -/
def State.ackWrite (s : State) (e status : Nat) : State :=
  let s := s.ackTaken e
  let g := s.engine e
  match g.cur with
  | none => s
  | some d =>
    if d.acks = 0 then s
    else
      let d := { d with acks := d.acks - 1, result := if status = stOk then d.result else some (d.result.getD status) }
      let s := s.setEngine e { g with cur := some d }
      if status = stOk then s
      else
        let p := s.get .DMA_CH_CTL_PARTITION e
        let s := if p < 12 then s.modPart p fun x => { x with refused := true } else s
        s.event ⟨5, 9, e, 6, p, status, fieldOf (wordAt d.w 0) 23 16, (wordAt d.w 2).toNat⟩

/-- A write that has arrived is stored once the receiver's cache regulator lets it, and answered. -/
def State.mboxArrive (s : State) (pkt : MboxPkt) : State :=
  match s.grant pkt.part.val [] [resCache] pkt.data.length with
  | (none, s) => { s with xniIn := s.xniIn ++ [pkt] }
  | (some s, _) =>
    let (s, st) := s.mboxStore pkt
    if pkt.srcModule = s.moduleId then (s.ackWrite pkt.engine.val st).settle
    else (s.xniSend pkt.srcModule 0 (.ack pkt.engine st)).settle

/-- Writes that wait for tokens tried again. -/
def State.xniRetry (s : State) : State := s.xniIn.foldl State.mboxArrive { s with xniIn := [] }

/-- A write sent (R266, R305): kept under the release hold, else on its way and awaited. A write with no way out is dropped, and times out (R265). -/
def State.mboxIssue (s : State) (h : HeldWrite) : State :=
  let n := ix2 64 h.part h.outbox
  if h.pkt.step < s.get .XNI_OUTBOX_REL_RELEASED n + 2 then
    let dest := s.get .XNI_OUTBOX_DEST_MODULE n
    let e := h.pkt.engine.val
    if dest = s.moduleId then State.mboxArrive { s with xniWait := (e, 16) :: s.xniWait } h.pkt
    else { s with xniWait := (e, (s.routePort dest).getD 16) :: s.xniWait }.xniSend dest 0 (.write h.pkt)
  else { s with xniHeld := s.xniHeld ++ [h] }

/-- Held writes tried again after a release notice (R268). -/
def State.releaseHeld (s : State) : State := s.xniHeld.foldl State.mboxIssue { s with xniHeld := [] }

/-- A commit notice (R268): the receiver keeps the larger of its STEP and the notice; one to a partition under reset is discarded (R272). -/
def State.commitNotice (s : State) (p n srcModule srcPart step : Nat) : State :=
  if s.get .PART_STATUS_STATE p = 0 ∨ s.get .PART_STATUS_STATE p = 3 then s
  else match s.mbox p n with
    | (none, s) => s
    | (some m, s) =>
      if m.valid && m.peerModule == srcModule && m.peerPart == srcPart && m.step < step then
        ((s.store .cache (s.mboxAt p n + 16) (toBytesLE 8 (step % 2 ^ 48))).1).settle
      else s

/-- A release notice (R268). -/
def State.releaseNotice (s : State) (p n step : Nat) : State :=
  if s.get .PART_STATUS_STATE p = 0 ∨ s.get .PART_STATUS_STATE p = 3 then s
  else (s.raise .XNI_OUTBOX_REL_RELEASED (ix2 64 p n) (step % 2 ^ 48)).releaseHeld

/-- The far end of a port confirms a spare lane (R258); too late for the gust that the guard precedes. -/
def State.confirmSpare (s : State) (k : Nat) (lane : Fin 8) (transmit : Bool) (gust : Nat) : State :=
  if s.phase = 3 ∧ gust = s.gust + 1 then s
  else s.setXport k { s.xport k with confirmed := (lane, transmit, gust) :: (s.xport k).confirmed }

/-- A packet for this module (R265), from port `k`; what NEGOTIATE exchanges is met in training (`PortTrain.far`). -/
def State.deliver (s : State) (k : Nat) (pkt : XniPacket) : State :=
  match pkt with
  | .spare lane tx gust => s.confirmSpare k lane tx gust
  | .negotiate _ => s
  | .write p => s.mboxArrive p
  | .ack e st => s.ackWrite e.val st
  | .commit p mb src srcPart step => s.commitNotice p.val mb.val src srcPart step
  | .release p mb src srcPart step =>
    -- the outboxes that feed the peer's mailbox
    (List.range 64).foldl (fun s n =>
      let i := ix2 64 p.val n
      if s.on .XNI_OUTBOX_VALID i && s.get .XNI_OUTBOX_DEST_MODULE i == src && s.get .XNI_OUTBOX_DEST_PART i == srcPart && s.get .XNI_OUTBOX_MAILBOX i == mb.val
      then s.releaseNotice p.val n step else s) s

/-- The notices of a partition in a lull (R268): to every VALID outbox's destination the committed step, to every VALID mailbox's peer the committed step + OFFSET. -/
def State.mboxNotices (s : State) (p : Nat) : State :=
  if s.get .PART_STATUS_STATE p = 0 then s else
  let step := s.get .GST_PART_STEP_STEP p
  let to_ (s : State) (dest : Nat) (pkt : XniPacket) : State := if dest = s.moduleId then s.deliver 16 pkt else s.xniSend dest 0 pkt
  let s := (List.range 64).foldl (fun s n =>
    let i := ix2 64 p n
    if s.on .XNI_OUTBOX_VALID i then
      to_ s (s.get .XNI_OUTBOX_DEST_MODULE i)
        (.commit (Fin.ofNat 12 (s.get .XNI_OUTBOX_DEST_PART i)) (Fin.ofNat 64 (s.get .XNI_OUTBOX_MAILBOX i)) s.moduleId p step)
    else s) s
  if s.get .XNI_MBOX_BASE_BASE p = 0 ∧ !s.inRegion p 0 32 then s
  else (List.range 64).foldl (fun s n =>
    match s.mbox p n with
    | (some m, s) =>
      if m.valid then
        let v := (max 0 ((step : Int) + m.offset)).toNat % 2 ^ 48
        let s := if m.released < v then (s.store .cache (s.mboxAt p n + 24) (toBytesLE 8 v)).1 else s
        to_ s m.peerModule (.release (Fin.ofNat 12 m.peerPart) (Fin.ofNat 64 n) s.moduleId p v)
      else s
    | (none, s) => s) s

/-! ### Ports -/

/-- Retry exhaustion of a port, or its alignment lost (R264): what it held is dropped, owners flagged, a record raised, and the port retrains. -/
def State.portExhausted (s : State) (k : Nat) : State :=
  if !s.portUp k then s
  else
    let gone := s.xniWait.filter fun x => x.2 == k
    let ps := gone.map (fun x => s.get .DMA_CH_CTL_PARTITION x.1) ++ (s.xport k).sent.filterMap fun e => match e.2 with
      | some (_, _, .write w) => if w.srcModule = s.moduleId then some w.srcPart else none
      | _ => none
    let s := gone.foldl (fun s x => s.writeLost x.1 stUncorrectable) { s with xniWait := s.xniWait.filter fun x => x.2 != k }
    let s := ps.foldl (fun t p => t.flagPart p 5 stUncorrectable) s
    let s := s.bump .XNI_PORT_ERR_EXHAUSTED k 1
    let one := match ps.eraseDups with | [p] => p | _ => 15
    let s := s.event ⟨5, 8, k, 9, one, stUncorrectable, 1, partBits ps⟩
    (s.setXport k { XPort.down with replays := (s.xport k).replays }).put .XNI_PORT_STATUS_STATE k 1

/-- The FEC of the pair that a flit comes in (R261): each codeword is counted with its first flit. -/
def State.countFec (s : State) (k : Nat) (fl : XniFlit) : State :=
  let cs := flitStarts fl.place.val
  let x := s.xport k
  let sym := x.symbols + ((cs.filter fl.pair.corrects).map fl.pair.wrong).sum
  ((s.setXport k { x with symbols := sym % 1000, pairNo := fl.pair.number.toNat }).bump .XNI_PORT_ERR_FEC_SYMBOLS k (sym / 1000)).bump .XNI_PORT_ERR_FEC_UNCORR k
    (cs.filter fun c => !fl.pair.corrects c).length

/-- What an accepted flit says of the other direction: acknowledged flits leave the replay buffer, credits come back, and with NAK the flits from ACK + 1 are
sent again. False where the buffer no longer holds that flit. -/
def State.xniAcked (s : State) (k : Nat) (c : XniCtl) : State × Bool :=
  let x := s.xport k
  let set (n : Nat) : Nat := 4 * n + c.set
  let used := c.credits.zipIdx.foldl (fun m e => SMap.set m (set e.2) (SMap.get m (set e.2) 0 - e.1) 0) x.used
  let x := { x with sent := ackedUpTo x.sent c.ack, used := used }
  let next := (c.ack + 1) % 4096
  let s := s.setXport k x
  if !c.nak ∨ next = x.tx then (s, true)
  else if x.sent.any fun e => e.1 == next then
    let again := x.sent.map fun e => (⟨k, e.1, (x.rx + 4095) % 4096, false, e.2⟩ : XniOut)
    ({ (s.bump .XNI_PORT_ERR_REPLAYS k 1).setXport k { x with replays := x.replays + 1 } with xniOut := again.reverse ++ s.xniOut }, true)
  else (s, false)

/-- A flit that fails (R264): it is answered with NAK, and the eighth failure in a row exhausts the retry. -/
def State.xniFailed (s : State) (k : Nat) : State :=
  let x := s.xport k
  let s := (s.bump .XNI_PORT_ERR_REPLAYS k 1).setXport k { x with fails := x.fails + 1, replays := x.replays + 1 }
  if x.fails + 1 ≥ 8 then s.portExhausted k else s.xniNak k

/-- ALIGNMENT_LOST (R264). -/
def execAlignmentLost (k : Fin 16) (s : State) : Host.Outcome State Fault Refusal := .next (s.whenClocked fun s => s.portExhausted k.val)

/-- Index of a lane spare: engine, direction, spare. -/
def laneSpare (k : Nat) (dir : Bool) (x : Nat) : Nat := ix3 2 2 (k / 4) (Bool.bit dir) x

/-- Whether a port's lane has a spare in a direction. -/
def State.laneCovered (s : State) (k : Nat) (dir : Bool) (lane : Nat) : Bool :=
  (List.range 2).any fun x => s.on .XNI_LANE_SPARE_VALID (laneSpare k dir x) && s.get .XNI_LANE_SPARE_PORT (laneSpare k dir x) == k % 4 &&
    s.get .XNI_LANE_SPARE_LANE (laneSpare k dir x) == lane

/-- A spare free for a lane: each fibre carries the spare wavelength for at most one lane (R258). -/
def State.freeLaneSpare (s : State) (k : Nat) (dir : Bool) (lane : Nat) : Option Nat :=
  let used := (List.range 2).any fun x => s.on .XNI_LANE_SPARE_VALID (laneSpare k dir x) && s.get .XNI_LANE_SPARE_PORT (laneSpare k dir x) == k % 4 &&
    s.get .XNI_LANE_SPARE_LANE (laneSpare k dir x) / 4 == lane / 4
  if used then none else (List.range 2).find? fun x => !s.on .XNI_LANE_SPARE_VALID (laneSpare k dir x)

/-- XNI_PORT_STATUS.SPARES follows the lanes that have a spare. -/
def State.showSpares (k : Nat) (s : State) : State :=
  let used (dir : Bool) := (List.range 8).any fun lane => s.laneCovered k dir lane
  s.put .XNI_PORT_STATUS_SPARES k (Bool.bit (used false) + 2 * Bool.bit (used true))

/-- A spare put to a lane; `fromTraining` marks it NEW. -/
def State.assignLane (s : State) (k : Nat) (dir : Bool) (lane : Nat) (fromTraining : Bool) : Option State :=
  (s.freeLaneSpare k dir lane).map fun x => State.showSpares k <|
    s.puts (laneSpare k dir x) [(.XNI_LANE_SPARE_VALID, 1), (.XNI_LANE_SPARE_NEW, Bool.bit fromTraining), (.XNI_LANE_SPARE_LANE, lane), (.XNI_LANE_SPARE_PORT, k % 4)]

/-- Failed lanes each take a free spare, if both ends have one (R260). A spare that an earlier training gave stays with its lane (R15 lets the next training choose
another: notes/assumptions/56.md). -/
def State.repairLanes (s : State) (k : Nat) (farSpares : Bool) : Option State :=
  (s.xport k).bad.foldl (fun o e => o.bind fun t =>
    if t.laneCovered k e.1 e.2.val then some t
    else if !farSpares then none
    else (t.assignLane k e.1 e.2.val true).map fun t => t.eventFree ⟨5, 8, k + placed e.2.val 4 + placed (Bool.bit e.1) 7, 9, 15, 0, 2, 0⟩) (some s)

/-- A port that stays DOWN. -/
def State.portDown (s : State) (k kind : Nat) : State :=
  ((s.put .XNI_PORT_STATUS_STATE k 0).eventFree ⟨5, 8, k, 9, 15, 0, kind, 0⟩).endRetrain 2 k 1 0

/-- Whether a port may train: enabled in force, granted by its UCIe site (R254, R271), the module not in Doldrums mode (R335), and no lane entry of the port
lost (R438). -/
def State.portMay (s : State) (k : Nat) : Bool :=
  s.inForce .XNI_PORT_CTL_ENABLE k == 1 && k % 4 < s.get .ZYN_UCIE_STATUS_PORTS (k / 4) && !s.inDoldrums &&
    !(s.lostEntries 7).any fun w => fieldOf w 3 0 == k

/-- Training of a port starts (R260). -/
def State.startPort (s : State) (k : Nat) : State := if s.portMay k then (s.setXport k { XPort.down with replays := (s.xport k).replays }).put .XNI_PORT_STATUS_STATE k 1 else s

/-- A training state of a port finishes (R260). -/
def portTraining (k : Nat) (tr : PortTrain) (s : State) : State :=
  let st := s.get .XNI_PORT_STATUS_STATE k
  if st = 0 then s.startPort k
  else if st = 1 then if tr.signal then s.put .XNI_PORT_STATUS_STATE k 2 else s.portDown k 3
  else if st = 2 then s.put .XNI_PORT_STATUS_STATE k 3
  else if st = 3 then (s.setXport k { s.xport k with bad := tr.bad }).put .XNI_PORT_STATUS_STATE k 4
  else if st = 4 then
    match s.repairLanes k tr.farSpares with
    | some s => s.put .XNI_PORT_STATUS_STATE k 5
    | none => s.portDown k 3
  else if st = 5 then (s.put .XNI_PORT_DELAY_DELAY k tr.delay).put .XNI_PORT_STATUS_STATE k 6
  else if st = 6 then
    if tr.far.version ≠ 1 then s.portDown k 4
    else if tr.far.id = s.moduleId then s.portDown k 3
    else (State.showSpares k (s.puts k [(.XNI_PORT_STATUS_PEER_ID, tr.far.id), (.XNI_PORT_STATUS_STATE, 7)])).endRetrain 2 k 1 7
  else s

/-- Ports whose ENABLE is no longer in force go DOWN at a boundary, and their routes drop with them (R271, R272). -/
def State.portsBoundary (s : State) : State :=
  (List.range 16).foldl (fun s k => if s.get .XNI_PORT_CTL_ENABLE k = 0 ∧ s.get .XNI_PORT_STATUS_STATE k ≠ 0 then s.put .XNI_PORT_STATUS_STATE k 0 else s) s

/-- DOLDRUMS_EXIT completes once every partition's reset is over and no port trains (R337). -/
def State.exitDone (s : State) : State :=
  if (List.range 12).any (fun p => s.get .PART_STATUS_STATE p == 3) || (List.range 16).any fun k => let st := s.get .XNI_PORT_STATUS_STATE k; 0 < st && st < 7 then s
  else (s.cmds.filter fun c => c.kind == .doldrumsExit).foldl (fun t c => t.endCmd c stOk t.gust 0 0) s

/-- PORT_TRAINING_STATE (R260). -/
def execPortTrainingState (k : Fin 16) (tr : PortTrain) (s : State) : Host.Outcome State Fault Refusal :=
  .next (s.whenClocked fun s => (portTraining k.val tr s).exitDone)

/-- MAILBOX_WRITE (R268): a write arrives on a port. -/
def execMailboxWrite (k : Fin 16) (pkt : MboxPkt) (s : State) : Host.Outcome State Fault Refusal :=
  .next (s.whenClocked fun s => if s.portUp k.val then s.mboxArrive pkt else s)

/-- MAILBOX_ACK (R268). -/
def execMailboxAck (e : Fin 32) (status : Nat) (s : State) : Host.Outcome State Fault Refusal := .next (s.whenClocked fun s => s.ackWrite e.val status)

/-- A write's acknowledgement has not come within TIMEOUT (R264): its sender is treated as on retry exhaustion. -/
def mailboxTimeout (e : Nat) (s : State) : State :=
  match s.xniWait.find? (fun x : Nat × Nat => x.1 == e) with
  | none => s
  | some x =>
    let p := s.get .DMA_CH_CTL_PARTITION e
    let s := { s with xniWait := s.xniWait.erase x }.writeLost e stUncorrectable
    -- a write that found no way out left on no port: its record names the engine (notes/assumptions/43.md)
    let (u, i) := if x.2 < 16 then (8, x.2) else (9, e)
    (s.flagPart p 5 stUncorrectable).event ⟨5, u, i, 9, p, stUncorrectable, 1, partBits [p]⟩

/-- MAILBOX_TIMEOUT (R264). -/
def execMailboxTimeout (e : Fin 32) (s : State) : Host.Outcome State Fault Refusal := .next (s.whenClocked (mailboxTimeout e.val))

/-- COMMIT_NOTICE (R268). -/
def execCommitNotice (p : Fin 12) (mb : Fin 64) (src : Nat) (srcPart : Fin 16) (step : Nat) (s : State) : Host.Outcome State Fault Refusal :=
  .next (s.whenClocked fun s => s.commitNotice p.val mb.val src srcPart.val step)

/-- RELEASE_NOTICE (R268). -/
def execReleaseNotice (p : Fin 12) (n : Fin 64) (step : Nat) (s : State) : Host.Outcome State Fault Refusal :=
  .next (s.whenClocked fun s => s.releaseNotice p.val n.val step)

/-- A write of XNI_PORT_CTL (R271, R273): a fifth port without LIC-POD is ignored and sets LIC_REFUSED; ENABLE changes at the next boundary; RETRAIN starts training. -/
def portCtlWrite (k : Nat) (v : Nat) (s : State) : State :=
  let en := Bool.bit (bitOf v 0)
  let others := ((List.range 16).filter fun j => j != k && s.on .XNI_PORT_CTL_ENABLE j).length
  let s :=
    if en = 1 ∧ !s.on .XNI_PORT_CTL_ENABLE k ∧ !bitOf (s.get .LIC_STATE_IN_FORCE 0) 1 ∧ others ≥ 4 then s.put .XNI_STATS_LIC_REFUSED 0 1
    else if s.get .XNI_PORT_CTL_ENABLE k = en then s
    else s.putLater .XNI_PORT_CTL_ENABLE k en
  if bitOf v 1 then s.startPort k else s

/-- XNI_PORT_ENABLE (R271). -/
def execXniPortEnable (k : Fin 16) (v : Word) (s : State) : Host.Outcome State Fault Refusal := .next (s.whenClocked (portCtlWrite k.val v.toNat))

/-- XNI_PORT_RETRAIN (R273): as LINK_RETRAIN does. -/
def execXniPortRetrain (k : Fin 16) (s : State) : Host.Outcome State Fault Refusal := .next (s.whenClocked fun s => s.startPort k.val)

end Sys2Proof.Machine
end

