-- ==== Sys2Proof/Machine/Dma.lean ====
section
/-!
DEFINITION. The DMA engines (R299 to R313): descriptors, validation, rows and planes, write-back, stopping and disabling, what a commit and a rewind do.
Readings taken by inference (DEDUCED): notes/assumptions/26.md, notes/assumptions/44.md.
-/
namespace Sys2Proof.Machine

/-- A DMA descriptor's fields (R302). -/
structure DmaDesc where
  own : Bool
  intr : Bool
  kind : Nat
  srcHost : Bool
  dstSpace : Nat
  tag : Nat
  src : Nat
  dst : Nat
  rowBytes : Nat
  b : Nat
  a : Nat
  sb : Int
  db : Int
  sa : Int
  da : Int
  param : Nat
  deriving DecidableEq, Repr

def DmaDesc.ofWords (w : List Word) : DmaDesc :=
  let w0 := wordAt w 0
  let w3 := wordAt w 3
  ⟨flagOf w0 0, flagOf w0 1, fieldOf w0 7 4, flagOf w0 8, fieldOf w0 10 9, fieldOf w0 23 16, (wordAt w 1).toNat, (wordAt w 2).toNat,
   fieldOf w3 23 0, fieldOf w3 39 24 + 1, fieldOf w3 55 40 + 1, signedOf 32 (fieldOf (wordAt w 4) 31 0), signedOf 32 (fieldOf (wordAt w 4) 63 32),
   signedOf 32 (fieldOf (wordAt w 5) 31 0), signedOf 32 (fieldOf (wordAt w 5) 63 32), (wordAt w 6).toNat⟩

/-- Base of an address: a device address uses bits [51:0] (R302). -/
def addrBase (host : Bool) (v : Nat) : Int := if host then (v : Int) else (v % 2 ^ 52 : Nat)

/-- Rows in order (R304). -/
def DmaDesc.rows (d : DmaDesc) : Nat := d.a * d.b

def DmaDesc.srcAt (d : DmaDesc) (k : Nat) : Int := addrBase d.srcHost d.src + (k / d.b : Nat) * d.sa + (k % d.b : Nat) * d.sb
def DmaDesc.dstAt (d : DmaDesc) (k : Nat) : Int :=
  (if d.dstSpace = 2 then ((d.dst / 2 ^ 32 : Nat) : Int) else addrBase (d.dstSpace == 1) d.dst) + (k / d.b : Nat) * d.da + (k % d.b : Nat) * d.db

/-- Planes of a SPLIT or MERGE, and their stride (R303, R306). -/
def DmaDesc.planes (d : DmaDesc) : Nat := if bitOf d.param 0 then 8 else 4
def DmaDesc.planeStride (d : DmaDesc) : Int := signedOf 32 (d.param / 2 ^ 32)

/-- The runs of bytes that row `k` reads and writes: address and length. -/
def DmaDesc.srcRuns (d : DmaDesc) (k : Nat) : List (Int × Nat) :=
  if d.kind = 4 ∨ d.kind = 6 then []
  else if d.kind = 3 then (List.range d.planes).map fun (p : Nat) => (d.srcAt k + (p : Int) * d.planeStride, d.rowBytes / d.planes)
  else [(d.srcAt k, d.rowBytes)]

def DmaDesc.dstRuns (d : DmaDesc) (k : Nat) : List (Int × Nat) :=
  if d.kind = 5 ∨ d.kind = 6 then []
  else if d.kind = 2 then (List.range d.planes).map fun (p : Nat) => (d.dstAt k + (p : Int) * d.planeStride, d.rowBytes / d.planes)
  else [(d.dstAt k, d.rowBytes)]

/-- Two runs share a byte. -/
def runsMeet (x y : Int × Nat) : Bool := decide (x.1 < y.1 + y.2) && decide (y.1 < x.1 + x.2)

/-- Whether some destination byte is written twice or is also a source byte (R304). -/
def DmaDesc.overlaps (d : DmaDesc) : Bool :=
  let ds := (List.range d.rows).flatMap d.dstRuns
  let ss := if d.dstSpace = Bool.bit d.srcHost then (List.range d.rows).flatMap d.srcRuns else []
  let rec twice : List (Int × Nat) → Bool
    | [] => false
    | x :: r => r.any (runsMeet x) || twice r
  twice ds || ds.any fun x => ss.any (runsMeet x)

/-- Whether a destination byte is undefined (R304). -/
def DmaDesc.undefined (d : DmaDesc) (a : Int) : Bool :=
  let ds := ((List.range d.rows).flatMap d.dstRuns).filter fun x => runsMeet x (a, 1)
  ds.length ≥ 2 || (d.dstSpace == Bool.bit d.srcHost && ((List.range d.rows).flatMap d.srcRuns).any fun x => runsMeet x (a, 1))

/-- The partition of an engine: 15 for none (R299). -/
def State.enginePart (s : State) (e : Nat) : Nat := s.get .DMA_CH_CTL_PARTITION e
def State.planDriven (s : State) (e : Nat) : Bool := s.on .DMA_CH_CTL_PLAN_MODE e

/-- The function whose requester ID an engine uses, and whose table its VECTOR names (R299, R301). -/
def State.engineFn (s : State) (e : Nat) : Nat := if s.enginePart e < 12 then s.partVf (s.enginePart e) else 0

/-- The places of a run of device bytes that an engine of partition `p` reaches (R280, R299): a mapped range, in the partition's resources. -/
def State.dmaPlaces (s : State) (p : Nat) (x : Int × Nat) : Option (List (Store × Nat × Nat)) :=
  if x.1 < 0 ∨ (2 : Int) ^ 52 ≤ x.1 then none else s.cmdRuns p x.1.toNat x.2

/-- Host addresses are 64-bit bus addresses. -/
def hostRange (x : Int × Nat) : Bool := 0 ≤ x.1 && x.1 + x.2 ≤ 2 ^ 64

/-- The checks of R303, R305 and R307 that need only the words. -/
def dmaWellFormed (w : List Word) : Bool :=
  let d := DmaDesc.ofWords w
  let w0 := wordAt w 0
  let noShape := d.a == 1 && d.b == 1
  let strides0 := wordAt w 4 == 0 && wordAt w 5 == 0
  fieldOf w0 3 2 == 0 && fieldOf w0 15 11 == 0 && fieldOf w0 31 24 == 0 && fieldOf w0 63 48 == 0 && d.dstSpace != 3 && fieldOf (wordAt w 3) 63 56 == 0 &&
    (d.dstSpace != 2 || (d.kind == 1 && bitsOf d.dst 31 6 == 0 && bitsOf d.dst 63 32 % 64 == 0 && d.rowBytes % 64 == 0)) &&
    (match d.kind with
     | 1 => d.param == 0 && 1 ≤ d.rowBytes
     | 2 | 3 => bitsOf d.param 31 1 == 0 && 1 ≤ d.rowBytes && d.rowBytes % (if d.planes = 4 then 256 else 512) == 0
     | 4 => d.src == 0 && !d.srcHost && d.sa == 0 && d.sb == 0 && 1 ≤ d.rowBytes
     | 5 => bitsOf d.param 63 32 == 0 && d.dstSpace == 0 && bitsOf d.dst 63 32 == 0 && d.dst % 16 == 0 && noShape && strides0 && 64 ≤ d.rowBytes && d.rowBytes % 64 == 0
     | 6 => d.src == 0 && !d.srcHost && d.dstSpace == 0 && wordAt w 3 == 0 && fieldOf (wordAt w 5) 63 4 == 0 &&
        (match Aop.ofCode (fieldOf (wordAt w 5) 3 0) with
         | some (wd, o) => d.dst % (wd / 8) == 0 && (o == .cas || wordAt w 4 == 0)
         | none => false)
     | _ => false) &&
    (d.kind == 6 || d.rowBytes * d.rows ≤ 2 ^ 28)

/-- Status with which a descriptor is refused, none where it may run (R307; a withdrawn chunk or bank, R119 and R329: notes/assumptions/26.md). -/
def State.dmaRefusal (s : State) (e : Nat) (w : List Word) : Option Nat :=
  let d := DmaDesc.ofWords w
  let p := s.enginePart e
  if !dmaWellFormed w then some stBadPacket
  else if d.dstSpace = 2 && !s.planDriven e then some stBadPacket
  else if d.dstSpace = 2 && (p ≥ 12 || !s.on .XNI_OUTBOX_VALID (ix2 64 p (bitsOf d.dst 5 0))) then some stBadPacket
  else
    let srcs := if d.kind = 6 then [] else (List.range d.rows).flatMap d.srcRuns
    let dsts : List (Int × Nat) := if d.kind = 6 then [(((d.dst % 2 ^ 52 : Nat) : Int), (match Aop.ofCode (fieldOf (wordAt w 5) 3 0) with | some (wd, _) => wd / 8 | none => 8))]
      else (List.range d.rows).flatMap d.dstRuns
    let dev := (if d.srcHost then [] else srcs) ++ (if d.dstSpace = 0 then dsts else [])
    let host := (if d.srcHost then srcs else []) ++ (if d.dstSpace = 1 then dsts else [])
    let places := dev.map (s.dmaPlaces p)
    if places.any Option.isNone || !(host.all hostRange) then some stBadPacket
    else if d.dstSpace = 2 && dsts.any (fun x => decide (x.1 < 0) || x.1.toNat % 64 != 0) then some stBadPacket
    else if d.kind = 6 && (places.any fun x => match x with | some [(.cache, _)] => false | _ => true) then some stBadPacket
    else if d.kind = 5 && p ≥ 12 then some stBadPacket
    else if places.any fun x => s.runsWithdrawn (x.getD []) then some stDisabled
    else none

/-! ### Bit planes (R306) -/

/-- Bytes of plane `p` of a packed row. -/
def planeOf (bits p : Nat) (row : List Byte) : List Byte :=
  let f : Fmt := if bits = 4 then .int4 else .int8
  let n := row.length * 8 / bits
  (List.range (n / 8)).map fun k => BitVec.ofNat 8 ((List.range 8).foldl (fun acc j => acc + placed (Bool.bit (bitOf (elemBits f row (8 * k + j)) p)) j) 0)

/-- The packed row of a list of planes. -/
def mergePlanes (bits : Nat) (planes : List (List Byte)) : List Byte :=
  let f : Fmt := if bits = 4 then .int4 else .int8
  let n := (planes.headD []).length * 8
  packElems f ((List.range n).map fun k =>
    (planes.zipIdx.foldl (fun acc e => acc + placed (Bool.bit (bitOf ((e.1.getD (k / 8) 0).toNat) (k % 8))) e.2) 0))

/-! ### Rows -/

/-- What an attempt at a request or a row came to: it waits; so many destination bytes, or an atomic operation's old value; a status. -/
inductive RowRes where
  | waits
  | moved (bytes : Nat)
  | fails (status : Nat)
  deriving DecidableEq, Repr

/-- The device places of some runs; none of host runs. -/
def State.rowPlaces (s : State) (p : Nat) (device : Bool) (runs : List (Int × Nat)) : List (Store × Nat × Nat) :=
  if device then runs.flatMap fun x => (s.dmaPlaces p x).getD [] else []

/-- Bytes of a run: from host memory or from a store. None where no data return. -/
def State.readRun (s : State) (p : Nat) (host : Bool) (x : Int × Nat) : Option (List Byte) × State :=
  if host then (if s.hostUp then some (s.hostRead x.1.toNat x.2) else none, s)
  else match s.dmaPlaces p x with
    | some rs => s.readPieces rs
    | none => (none, s)

def State.readRuns (s : State) (p : Nat) (host : Bool) : List (Int × Nat) → Option (List (List Byte)) × State
  | [] => (some [], s)
  | x :: r =>
    match s.readRun p host x with
    | (none, s) => (none, s)
    | (some bs, s) => match s.readRuns p host r with
      | (some bss, s) => (some (bs :: bss), s)
      | (none, s) => (none, s)

/-- Destination bytes with the undefined ones free (R304). -/
def State.freeOverlap (s : State) (d : DmaDesc) (a : Int) (bs : List Byte) : List Byte × State :=
  bs.zipIdx.foldl (fun (acc : List Byte × State) e =>
    if d.undefined (a + e.2) then
      let (w, t) := acc.2.free
      (acc.1 ++ [w.setWidth 8], t)
    else (acc.1 ++ [e.1], acc.2)) ([], s)

/-- One run written (R304, R117): false where a partial write is refused on uncorrectable data or the host does not answer. -/
def State.writeRun (s : State) (p : Nat) (host : Bool) (d : DmaDesc) (overlap : Bool) (x : Int × Nat) (bs : List Byte) : State × Bool :=
  let (bs, s) := if overlap then s.freeOverlap d x.1 bs else (bs, s)
  if host then (if s.hostUp then (s.hostStore x.1.toNat bs, true) else (s, false))
  else match s.dmaPlaces p x with
    | some rs =>
      let r := rs.foldl (fun (acc : State × Bool × List Byte) y =>
        if acc.2.1 then
          let (t, refused) := acc.1.hostWrite y.1 y.2.1 (acc.2.2.take y.2.2)
          (t, !refused, acc.2.2.drop y.2.2)
        else acc) (s, true, bs)
      (r.1, r.2.1)
    | none => (s, false)

/-- A remote row (R305): packets of at most 4 KiB, each carrying the partition's plan step; the number sent. -/
def State.remoteRow (s : State) (e p : Nat) (d : DmaDesc) (off : Nat) (bs : List Byte) : State × Nat :=
  let n := (bs.length + 4095) / 4096
  let g := s.engine e
  let s := s.setEngine e { g with cur := g.cur.map fun c => { c with acks := c.acks + n } }
  let outbox := bitsOf d.dst 5 0
  let i := ix2 64 p outbox
  ((List.range n).foldl (fun s k =>
    s.mboxIssue ⟨p, outbox, ⟨s.moduleId, p, Fin.ofNat 32 e, Fin.ofNat 12 (s.get .XNI_OUTBOX_DEST_PART i), s.get .XNI_OUTBOX_MAILBOX i,
      s.get .GST_PART_STEP_STEP p, off + 4096 * k, (bs.drop (4096 * k)).take 4096⟩⟩) s, n)

/-- The part of a row's runs that carries its bytes from `o` on, `n` of them: planes advance together (R306). -/
def runsPart (runs : List (Int × Nat)) (o n : Nat) : List (Int × Nat) := runs.map fun x => (x.1 + (o / runs.length : Nat), n / runs.length)

/-- A row that ends with a status: a plan-driven engine's partition is flagged (R307). -/
def State.rowFails (s : State) (e st cause : Nat) : State × RowRes := (if s.planDriven e then s.flagPart (s.enginePart e) cause stUncorrectable else s, .fails st)

/-- Bytes of a row's requests: 8 for an atomic operation (R311). -/
def DmaDesc.rowSize (d : DmaDesc) : Nat := if d.kind = 6 then 8 else d.rowBytes

/-- One memory request of row `k`, from its destination byte `o` on (R32, R211, R304, R311): it crosses the DMA regulator and those of the stores that it reads
and writes, each counting its own bytes (R210). -/
def State.dmaRequest (s : State) (e : Nat) (w : List Word) (k o : Nat) : State × RowRes :=
  let d := DmaDesc.ofWords w
  let p := s.enginePart e
  let n := min 2048 (d.rowSize - o)
  let reads := if d.kind = 6 then [] else s.rowPlaces p (!d.srcHost) (runsPart (d.srcRuns k) o n)
  let writes := if d.kind = 6 then [(.cache, 0, 8)] else s.rowPlaces p (d.dstSpace == 0) (runsPart (d.dstRuns k) o n)
  let places := reads ++ writes
  let reaches := places.map fun x => s.reach none x.1
  if reaches.any fun r => r == .training then (s, .waits)
  else match reaches.find? fun r => match r with | .served _ => false | _ => true with
    | some r => (s.countAnswered r).rowFails e stTargetResetting 5
    | none =>
      if s.runsWithdrawn places && d.kind != 6 then s.rowFails e stDisabled 3
      else if d.kind != 6 && places.any fun x => s.bankHeld x.1 x.2.1 x.2.2 then (s, .waits)
      else
        let charges := (resDma, n) :: ((places.flatMap fun x => x.1.resOf.map fun r => (r, x.2.2)) ++ (if d.kind = 5 then [(resCache, n)] else []))
        let uses := if s.planDriven e then [] else [(bgDma, n)]
        match s.barred p uses charges with
        | some s => (s, .waits)
        | none => (s.chargeAll p uses charges, .moved n)

/-- Row `k` moved once its requests have issued (R303, R304, R307). -/
def State.dmaRow (s : State) (e : Nat) (w : List Word) (overlap : Bool) (k : Nat) : State × RowRes :=
  let d := DmaDesc.ofWords w
  let p := s.enginePart e
  if d.kind = 6 then
    match Aop.ofCode (fieldOf (wordAt w 5) 3 0) with
    | none => (s, .fails stBadPacket)
    | some (wd, o) =>
      match s.atomic (d.dst % 2 ^ 52 - 0x40000000000) wd o d.param (wordAt w 4).toNat with
      | (some old, s) => (s, .moved old)
      | (none, s) => s.rowFails e stUncorrectable 3
  else
    match s.readRuns p d.srcHost (d.srcRuns k) with
    | (none, s) => s.rowFails e stUncorrectable 3
    | (some data, s) =>
      if d.kind = 5 then
        match s.contrib p (bitsOf d.param 31 12) (bitsOf d.param 11 0) (bitsOf d.dst 31 0) (data.headD []) with
        | (s, .accepted) => (s, .moved d.rowBytes)
        | (s, .invalid) => (s, .fails stBadPacket)
        | (s, .uncorrectable) => s.rowFails e stUncorrectable 3
      else if d.dstSpace = 2 then ((s.remoteRow e p d (d.dstAt k).toNat (data.headD [])).1, .moved d.rowBytes)
      else
        let bits := if d.planes = 4 then 4 else 8
        let out : List (List Byte) := match d.kind with
          | 2 => (List.range d.planes).map fun pl => planeOf bits pl (data.headD [])
          | 3 => [mergePlanes bits data]
          | 4 => [(List.range d.rowBytes).map fun j => BitVec.ofNat 8 (d.param / 256 ^ (j % 8))]
          | _ => data
        let (s, ok) := ((d.dstRuns k).zip out).foldl (fun (acc : State × Bool) x =>
          if acc.2 then acc.1.writeRun p (d.dstSpace == 1) d overlap x.1 x.2 else acc) (s, true)
        if ok then (s, .moved d.rowBytes) else s.rowFails e stUncorrectable 3

/-- The descriptor in progress has ended with a status; its write-back follows (R301). -/
def State.dmaEnd (s : State) (e : Nat) (d : DmaCur) (st : Nat) : State := s.setEngine e { s.engine e with cur := some { d with status := some st } }

/-- A refused descriptor's record (R307, R323). -/
def State.dmaRefuse (s : State) (e : Nat) (w : List Word) (st : Nat) : State :=
  s.event ⟨5, 9, e, 6, s.enginePart e, st, fieldOf (wordAt w 0) 23 16, (wordAt w 2).toNat⟩

/-- Requests issued and rows moved while they may be; `fuel` bounds them. -/
def State.dmaAdvance : Nat → State → Nat → State
  | 0, s, _ => s
  | fuel + 1, s, e =>
    match (s.engine e).cur with
    | none => s
    | some c =>
      if c.status.isSome then s
      else
        let d := DmaDesc.ofWords c.w
        let total := if d.kind = 6 then 1 else d.rows
        let ends (s : State) (st : Nat) : State := (if st = stBadPacket then s.dmaRefuse e c.w st else s).dmaEnd e c st
        if c.row ≥ total then
          if c.acks = 0 then s.dmaEnd e c (c.result.getD stOk) else s
        else if c.asked < d.rowSize then
          match s.dmaRequest e c.w c.row c.asked with
          | (s, .waits) => s
          | (s, .fails st) => ends s st
          | (s, .moved n) => State.dmaAdvance fuel (s.modCur e fun c => { c with asked := c.asked + n }) e
        else match s.dmaRow e c.w c.overlap c.row with
          | (s, .waits) => s
          | (s, .fails st) => ends s st
          | (s, .moved n) =>
            State.dmaAdvance fuel (s.modCur e fun c => { c with row := c.row + 1, asked := 0, bytes := if d.kind = 6 then n else c.bytes + n }) e

/-- Requests and rows that a descriptor can need. -/
def DmaDesc.steps (d : DmaDesc) : Nat := (if d.kind = 6 then 1 else d.rows) * (d.rowSize / 2048 + 2) + 1

/-- A descriptor starts or is refused (R301, R307). -/
def State.dmaStart (s : State) (e : Nat) (w : List Word) : State :=
  let d := DmaDesc.ofWords w
  let c : DmaCur := ⟨w, 0, 0, 0, false, none, none, 0⟩
  match s.dmaRefusal e w with
  | some st => (s.dmaRefuse e w st).dmaEnd e c st
  | none =>
    let s := (s.setEngine e { s.engine e with cur := some { c with overlap := d.kind != 6 && d.dstSpace != 2 && d.overlaps } }).put .DMA_CH_STATUS_STATE e 1
    (s.dmaAdvance d.steps e).settle

/-- Address of the descriptor at the head. -/
def State.dmaHeadAddr (s : State) (e : Nat) : Nat := s.get .DMA_CH_RING_BASE e * 4096 + 64 * s.get .DMA_CH_STATUS_HEAD e

/-- An access to the ring, in metered work (R32, R212). -/
def State.ringMetre (s : State) (e a n : Nat) : State :=
  if s.on .DMA_CH_CTL_RING_HOST e then s.metreUse bgDma
  else ((s.dmaPlaces (s.enginePart e) (a, n)).getD []).foldl (fun s x => s.metreAs none [bgDma] x.1 x.2.1 x.2.2) s

/-- The descriptor at the head, where it can be read. -/
def State.dmaFetch (s : State) (e : Nat) : Option (List Word) × State :=
  let (bs, s) := (s.ringMetre e (s.dmaHeadAddr e) 64).readRun (s.enginePart e) (s.on .DMA_CH_CTL_RING_HOST e) ((s.dmaHeadAddr e : Nat), 64)
  match bs with
  | some bs => (some (bytesToWords 8 bs), s)
  | none => (none, if s.planDriven e && !s.on .DMA_CH_CTL_RING_HOST e then s.flagPart (s.enginePart e) 3 stUncorrectable else s)

/-- Write-back of the descriptor at the head (R301): RESULT, then word 0 with OWN clear and the status; the DONE word; the interrupt; the head moves on. -/
def State.dmaWriteBackAt (s : State) (e : Nat) (w : List Word) (st bytes : Nat) (moved : Nat) : State :=
  let w0 := wordAt w 0
  let v0 := fieldOf w0 31 1 * 2 + placed st 32
  let a := s.dmaHeadAddr e
  let host := s.on .DMA_CH_CTL_RING_HOST e
  let s := (s.ringMetre e (a + 56) 8).ringMetre e a 8
  let (s, _) := s.busWrite (!host) (a + 56) (toBytesLE 8 bytes)
  let (s, _) := s.busWrite (!host) a (toBytesLE 8 v0)
  let done := s.get .DMA_CH_DONE_ADDR_OFFSET e * 8
  let s := if s.on .DMA_CH_DONE_ADDR_VALID e then ((s.metreAs none [bgDma] .cache done 8).atomic done 64 .add 1 0).2 else s
  let s := if flagOf w0 1 then s.fire (s.engineFn e) (s.get .DMA_CH_CTL_VECTOR e) else s
  let head := (s.get .DMA_CH_STATUS_HEAD e + 1) % 2 ^ (s.get .DMA_CH_CTL_SIZE e + 4)
  let odd := (s.engine e).odd + moved
  let s := s.puts e [(.DMA_CH_STATUS_HEAD, head), (.DMA_CH_STATUS_LAST_STATUS, st), (.DMA_CH_STATUS_LAST_TAG, fieldOf w0 23 16)]
  let s := (s.bump .DMA_CH_COUNT_DESCRIPTORS e 1).bump .DMA_CH_COUNT_KIB e (odd / 1024)
  (s.setEngine e { s.engine e with odd := odd % 1024 }).settle

/-- Work of an engine at its ring, as a whole: background traffic where the engine is host-driven (R300). -/
def State.dmaMetered {α : Type} (s : State) (e : Nat) (f : State → α × State) : Option α × State := s.metered (s.enginePart e) (!s.planDriven e) f

/-- Owned descriptors written back unrun, in ring order, up to the first not owned (R308); false where one waits for tokens or the lull. `fuel` is the ring's size. -/
def State.dmaFlush : Nat → State → Nat → Nat → State × Bool
  | 0, s, _, _ => (s, true)
  | fuel + 1, s, e, st =>
    match s.dmaMetered e (fun s =>
      match s.dmaFetch e with
      | (some w, s) => if flagOf (wordAt w 0) 0 then (true, s.dmaWriteBackAt e w st 0 0) else (false, s)
      | (none, s) => (false, s)) with
    | (none, s) => (s, false)
    | (some true, s) => State.dmaFlush fuel s e st
    | (some false, s) => (s, true)

/-- An engine halts at its boundary (R308, R367): stopped, on entry to Sleep, or in Doldrums mode. -/
def State.dmaHalted (s : State) (e : Nat) : Bool := s.on .DMA_CH_CTL_STOP e || s.powerHeld || s.inDoldrums

/-- The status with which owned descriptors are written back at an engine's boundary (R308): of a reset or Doldrums entry, STOP or entry to Sleep (R367), ENABLE cleared. -/
def State.flushStatus (s : State) (e : Nat) : Option Nat :=
  match (s.engine e).flush with
  | some st => some st
  | none =>
    if s.on .DMA_CH_CTL_STOP e || s.powerHeld then (if s.get .DMA_CH_STATUS_STATE e = 2 then none else some stStopped)
    else if s.inDoldrums then none
    else if !s.on .DMA_CH_CTL_ENABLE e && s.get .DMA_CH_STATUS_STATE e != 3 then some stDisabled
    else none

/-- A plan-driven engine returned to the last commit (R310): its head, and the DONE word with the committed count. -/
def State.dmaReturn (s : State) (e : Nat) : State :=
  let s := s.put .DMA_CH_STATUS_HEAD e (s.get .DMA_CH_COMMIT_HEAD e)
  if s.on .DMA_CH_DONE_ADDR_VALID e then
    (s.store .cache (s.get .DMA_CH_DONE_ADDR_OFFSET e * 8) (toBytesLE 8 (s.get .DMA_CH_COMMIT_DONE e))).1 else s

/-- A descriptor boundary of an engine (R308): owned descriptors written back where it stops, then its state; or on with polling. -/
def State.dmaBoundary (s : State) (e : Nat) : State :=
  match s.flushStatus e with
  | some st =>
    match (s.setEngine e { s.engine e with flush := some st }).dmaFlush (2 ^ (s.get .DMA_CH_CTL_SIZE e + 4)) e st with
    | (s, false) => s
    | (s, true) =>
      let s := s.setEngine e { s.engine e with flush := none }
      let s := if st = stTargetResetting && s.planDriven e then s.dmaReturn e else s
      s.put .DMA_CH_STATUS_STATE e (if s.dmaHalted e then 2 else if s.on .DMA_CH_CTL_ENABLE e then 0 else 3)
  | none => if s.dmaHalted e || !s.on .DMA_CH_CTL_ENABLE e then s else s.put .DMA_CH_STATUS_STATE e 0

/-- The engine is idle at a descriptor boundary. -/
def State.dmaIdle (s : State) (e : Nat) : Bool := (s.engine e).cur.isNone

/-- The engine may take a descriptor: idle, with no write-backs of a stop outstanding, not halted, outside Doldrums mode. -/
def State.dmaReady (s : State) (e : Nat) : Bool := s.dmaIdle e && (s.engine e).flush.isNone && s.get .DMA_CH_STATUS_STATE e != 2 && !s.inDoldrums

/-- A change of an engine's orders: at once where it is at a boundary, else at its next. -/
def State.dmaOrders (s : State) (e : Nat) : State := if s.dmaIdle e then s.dmaBoundary e else s

/-- What a PART_RESET, PART_DESTROY or Doldrums entry does to an engine (R308): owned descriptors end with the status. -/
def State.dmaCut (s : State) (e st : Nat) : State := (s.setEngine e { s.engine e with flush := some st }).dmaOrders e

/-- Engines of a partition. -/
def State.partEngines (s : State) (p : Nat) : List Nat := (List.range 32).filter fun e => s.enginePart e == p

/-- A poll (R301, R308): an owned descriptor runs, or is written back with ST_DISABLED while the engine is disabled. -/
def dmaPoll (e : Nat) (s : State) : State :=
  if !s.dmaReady e || !(s.on .DMA_CH_CTL_ENABLE e || s.get .DMA_CH_STATUS_STATE e = 3) then s
  else match s.dmaMetered e (fun s => s.dmaFetch e) with
    | (none, s) | (some none, s) => s
    | (some (some w), s) =>
      if !flagOf (wordAt w 0) 0 then s
      else if s.on .DMA_CH_CTL_ENABLE e then s.dmaStart e w
      else s.dmaEnd e ⟨w, 0, 0, 0, false, none, none, 0⟩ stDisabled

/-- DMA_POLL (R301). -/
def execDmaPoll (e : Fin 32) (s : State) : Host.Outcome State Fault Refusal := .next (s.whenClocked (dmaPoll e.val))

/-- A descriptor of a kind handed to an engine at a boundary (R301, R303); the words are those of the row, whose KIND they carry. An engine that is stopped
or busy does not take it, one that is disabled answers it with ST_DISABLED. -/
def dmaRowCmd (e : Fin 32) (kind : Nat) (w : List Word) (s : State) : Host.Outcome State Fault Refusal :=
  if fieldOf (wordAt w 0) 7 4 = kind then
    .next (s.whenClocked fun s =>
      if !s.dmaReady e.val || !flagOf (wordAt w 0) 0 then s
      else if s.on .DMA_CH_CTL_ENABLE e.val then s.dmaStart e.val w
      else s.dmaEnd e.val ⟨w, 0, 0, 0, false, none, none, 0⟩ stDisabled)
  else .fault .illFormed

/-- COPY (R303). -/
def execDmaCopy (e : Fin 32) (w0 w1 w2 w3 w4 w5 w6 w7 : Word) (s : State) : Host.Outcome State Fault Refusal := dmaRowCmd e 1 [w0, w1, w2, w3, w4, w5, w6, w7] s

/-- SPLIT (R306). -/
def execDmaSplit (e : Fin 32) (w0 w1 w2 w3 w4 w5 w6 w7 : Word) (s : State) : Host.Outcome State Fault Refusal := dmaRowCmd e 2 [w0, w1, w2, w3, w4, w5, w6, w7] s

/-- MERGE (R306). -/
def execDmaMerge (e : Fin 32) (w0 w1 w2 w3 w4 w5 w6 w7 : Word) (s : State) : Host.Outcome State Fault Refusal := dmaRowCmd e 3 [w0, w1, w2, w3, w4, w5, w6, w7] s

/-- FILL (R303). -/
def execDmaFill (e : Fin 32) (w0 w1 w2 w3 w4 w5 w6 w7 : Word) (s : State) : Host.Outcome State Fault Refusal := dmaRowCmd e 4 [w0, w1, w2, w3, w4, w5, w6, w7] s

/-- CONTRIB (R303). -/
def execDmaContrib (e : Fin 32) (w0 w1 w2 w3 w4 w5 w6 w7 : Word) (s : State) : Host.Outcome State Fault Refusal := dmaRowCmd e 5 [w0, w1, w2, w3, w4, w5, w6, w7] s

/-- ATOMIC (R303). -/
def execDmaAtomic (e : Fin 32) (w0 w1 w2 w3 w4 w5 w6 w7 : Word) (s : State) : Host.Outcome State Fault Refusal := dmaRowCmd e 6 [w0, w1, w2, w3, w4, w5, w6, w7] s

/-- The write-back of a descriptor that has ended (R301), then the engine's boundary; nothing while it waits for tokens or the lull. -/
def dmaWriteBack (e : Nat) (s : State) : State :=
  match (s.engine e).cur with
  | none => s
  | some c =>
    let c := if c.status.isNone && c.acks = 0 && c.row ≥ (DmaDesc.ofWords c.w).rows then { c with status := some (c.result.getD stOk) } else c
    match c.status with
    | none => s
    | some st =>
      let kind := fieldOf (wordAt c.w 0) 7 4
      let moved := if kind = 6 then (if st = stOk then 8 else 0) else c.bytes
      match s.dmaMetered e fun s => ((), (s.setEngine e { s.engine e with cur := none }).dmaWriteBackAt e c.w st c.bytes moved) with
      | (none, s) => s
      | (some _, s) => s.dmaBoundary e

/-- DMA_WRITE_BACK (R301). -/
def execDmaWriteBack (e : Fin 32) (s : State) : Host.Outcome State Fault Refusal := .next (s.whenClocked (dmaWriteBack e.val))

/-- Descriptors in progress tried again after an event that may let them go on. -/
def State.dmaRetry (s : State) : State :=
  (s.engines.map (·.1)).foldl (fun s e =>
    match (s.engine e).cur with
    | some c => s.dmaAdvance (DmaDesc.ofWords c.w).steps e
    | none => if (s.engine e).flush.isSome then s.dmaBoundary e else s) s

/-- A write of DMA_CH_CTL (R308, R312): all fields while ENABLE is clear; ENABLE and STOP alone while it is set. Setting ENABLE puts the head to 0. -/
def dmaCtlWrite (e v m : Nat) (s : State) : State :=
  let was := s.on .DMA_CH_CTL_ENABLE e
  let fs : List Fld := if was then [.DMA_CH_CTL_ENABLE, .DMA_CH_CTL_STOP] else RegName.DMA_CH_CTL.fields
  let s := fs.foldl (fun t f => t.writeField f e v m) s
  let now := s.on .DMA_CH_CTL_ENABLE e
  let s := if now && !was then
      (s.put .DMA_CH_STATUS_HEAD e 0).put .DMA_CH_STATUS_STATE e (if s.powerHeld || s.inDoldrums then 2 else 0)
    else s
  let s := if !s.dmaHalted e && s.get .DMA_CH_STATUS_STATE e = 2 then s.put .DMA_CH_STATUS_STATE e (if now then 0 else 3) else s
  if s.on .DMA_CH_CTL_STOP e || (was && !now) then s.dmaOrders e else s

/-- DMA_CH_ENABLE (R308): a write of DMA_CH_CTL. -/
def execDmaChEnable (e : Fin 32) (v : Word) (s : State) : Host.Outcome State Fault Refusal :=
  .next (s.whenClocked (dmaCtlWrite e.val v.toNat (2 ^ 32 - 1)))

/-- DMA_CH_STOP (R308): the same register. -/
def execDmaChStop (e : Fin 32) (v : Word) (s : State) : Host.Outcome State Fault Refusal :=
  .next (s.whenClocked (dmaCtlWrite e.val v.toNat (2 ^ 32 - 1)))

/-! ### The gust (R310) -/

/-- What an engine records at a commit. -/
def State.dmaCommit (s : State) (e : Nat) : State :=
  if !s.planDriven e then s
  else
    let n := if s.on .DMA_CH_DONE_ADDR_VALID e then (s.peekWord .cache (s.get .DMA_CH_DONE_ADDR_OFFSET e * 8)).toNat else 0
    (s.put .DMA_CH_COMMIT_DONE e (n % 2 ^ 48)).put .DMA_CH_COMMIT_HEAD e (s.get .DMA_CH_STATUS_HEAD e)

/-- What a rewind does to an engine: a descriptor still running is abandoned, the head and the DONE word return to the committed values. -/
def State.dmaRewind (s : State) (e : Nat) : State :=
  if !s.planDriven e then s
  else
    let g := s.engine e
    let s := if g.cur.isSome then (s.setEngine e { g with cur := none }).put .DMA_CH_STATUS_ABANDONED e 1 else s
    let s := { s with xniHeld := s.xniHeld.filter fun h => h.pkt.engine.val != e, xniWait := s.xniWait.filter fun x => x.1 != e }
    (s.dmaReturn e).dmaBoundary e

/-- A link reset (R309): descriptors that touch host memory are abandoned; host-driven engines are disabled with their ring cleared. -/
def State.dmaLinkReset (s : State) (e : Nat) : State :=
  let g := s.engine e
  let touches := match g.cur with
    | some c => let d := DmaDesc.ofWords c.w; d.srcHost || d.dstSpace == 1 || s.on .DMA_CH_CTL_RING_HOST e
    | none => false
  let s := if touches then (s.setEngine e { g with cur := none }).put .DMA_CH_STATUS_ABANDONED e 1 else s
  if s.planDriven e then s
  else if s.on .DMA_CH_CTL_ENABLE e then
    s.puts e [(.DMA_CH_CTL_ENABLE, 0), (.DMA_CH_RING_BASE, 0), (.DMA_CH_STATUS_STATE, 3)]
  else s.put .DMA_CH_RING_BASE e 0

/-- A plan-driven engine with a descriptor running, or owned at its head, when the lull begins: incomplete (R310). -/
def State.dmaIncomplete (s : State) (e : Nat) : Bool :=
  s.planDriven e && s.on .DMA_CH_CTL_ENABLE e &&
    ((s.engine e).cur.isSome || (s.get .DMA_CH_STATUS_STATE e == 0 && (match (s.dmaFetch e).1 with | some w => flagOf (wordAt w 0) 0 | none => false)))

end Sys2Proof.Machine
end

