-- ==== Sys2Proof/Machine/Job.lean ====
section
/-!
DEFINITION. Jobs and partitions as wholes: dropping a gust's work (R26, R29, R144), resetting cores (R317), stopping a job (R31), losing a partition
(R320), entering Doldrums mode (R335).
Readings taken by inference (DEDUCED): notes/assumptions/53.md.
-/
namespace Sys2Proof.Machine

/-- Accumulators and activation buffers are scratch: free values from here on (R26, R144). -/
def State.loseAccs (s : State) (c : Nat) : State :=
  { s.modCore c fun k => { k with acc := [], accFault := [], act := [], racc := [], lost := some s.freeCtr } with freeCtr := s.freeCtr + 688128 }

/-- The units of a core drop what is queued (R29, R144, R171, R194, R255); grains in progress run to their boundary. -/
def State.dropUnits (s : State) (c : Nat) : State :=
  (s.loseAccs c).modCore c fun k => { k with
    vq := [], drain := [], flow := 0, aq := [], shadow := []
    rq := k.rq.filterMap fun o =>
      let held := o.left.filter fun e => s.on .FEN_BANK_CTL_GRAIN (ix2 128 c e.1)
      if o.started && !held.isEmpty then some { o with left := held, stop := true } else none
    attq := [], attRun := [], kvq := [], kvDone := 0, kvUsed := 0, netq := [], passDue := none, unseen := [], waitReg := none, ports := [], resv := none }

/-- Bytes restored where a carried copy says so: code 0 the shared cache, code site + 1 a pool. -/
def carriedStore (code : Nat) : Store := if code = 0 then .cache else .pool (code - 1)

def State.restoreCarried (s : State) (p : Nat) : State :=
  (s.part p).carried.foldl (fun t e => (t.store (carriedStore e.1) e.2.1 e.2.2).1) s

/-- Scratch written in a gust that does not commit: undefined, so free values (R26). -/
def State.undefineScratch (s : State) (p : Nat) : State :=
  let s' := (s.part p).wrote.foldl (fun t e =>
    let (ws, t) := t.frees ((e.2.2 + 7) / 8)
    t.rawWrite e.1 e.2.1 ((wordsToBytes ws).take e.2.2)) s
  s'.modPart p fun x => { x with wrote := [] }

/-- A gust's work undone (R26, R27, R29): the staged set discarded, commit writes that no vote has confirmed taken back, scratch undefined, carried regions
restored, queued work and requests that wait for tokens dropped. -/
def State.undoGust (s : State) (p : Nat) : State :=
  let s := s.commitWrites (s.part p).undo
  let s := { (s.modPart p fun x => { x with undo := [] }) with
    stage := (s.partDies p).foldl (fun m d => m.erase d) s.stage
    atomHeld := s.atomHeld.filter fun e => e.1 != p }
  (s.partAllSites p).foldl State.dropUnits ((s.undefineScratch p).restoreCarried p)

/-- A gust's work undone for a rewind: plan-driven engines abandon what they run and return to the commit (R310). A reset, a destruction and Doldrums mode let
descriptors run to their end instead (R308). -/
def State.rewindGust (s : State) (p : Nat) : State := let s := s.undoGust p; (s.partEngines p).foldl State.dmaRewind s

/-- The control cores of a partition stop until their next slot. -/
def State.haltCores (s : State) (p : Nat) : State :=
  (s.partSites p).foldl (fun t c => if t.get .CORE_PROG_STATUS_STATE c = 1 ∨ t.get .CORE_PROG_STATUS_STATE c = 3 then t.put .CORE_PROG_STATUS_STATE c 2 else t) s

/-- A job leaves the running state at its last commit (R31): state 4, no fault flag, no rerun. -/
def State.stopRunning (s : State) (p : Nat) : State :=
  let s := s.modPart p fun x => { x with running := false, flag := none, decision := none, refused := false, linkStop := false }
  (s.haltCores p).puts p [(.GST_PART_STATE_STATE, 4), (.GST_PART_STATE_RERUN, 0)]

/-- A job stopped, with its record and notice (R31, R288, R323): `cause` is the notice's status, and the record's but for a stop that R323 records with ST_OK. -/
def State.stopJob (s : State) (p cause : Nat) (code : Nat := cause) : State :=
  ((s.stopRunning p).jobEvent p 2 code).notice p 1 cause 0 0

/-! ### Doldrums mode (R334, R335) -/

/-- Opcodes accepted in Doldrums mode (R292). -/
def doldrumsAccepts (op : Nat) : Bool := [0x18, 0x3C, 0x3D, 0x2B, 0x39, 0x38, 0x49, 0x4A, 0x51].contains op

/-- The record of entering, leaving or holding a cause (class 14, R323). -/
def State.doldrumsEvent (s : State) (kind cause : Nat) : State := s.event ⟨5, 12, 0, 14, 15, stOk, kind + placed cause 8, 0⟩

/-- Registers of a partition that PART_DESTROY clears (R339, R195, R215, R273, R20). -/
def partRegs : List RegName :=
  [.PART_STATUS, .PART_SHC, .PART_DMA, .GST_PART_STATE, .GST_PART_STEP, .GST_PART_COMMIT, .GST_PART_REWINDS, .KVW_ROOT_BASE, .KVW_ROOT_COUNT, .SHC_GROUP_BASE,
   .XNI_MBOX_BASE, .MON_OUT_RING, .MON_OUT_PROD, .MON_SLOT_BASE, .MON_OUT_STAMP, .MON_OUT_STATUS, .DMA_REG, .DMA_REG_ACC, .SHC_REG, .SHC_REG_ACC, .PEAT_REG, .PEAT_REG_ACC]

/-- Every copy of a partition-indexed register returned to its reset value: `n` copies per partition from `p * n`. -/
def State.clearCopies (s : State) (r : RegName) (p n : Nat) : State := (List.range n).foldl (fun t k => t.resetReg r (p * n + k)) s

/-- What PART_CREATE writes of a partition before its creation ends (R316), at its reset values: the partition does not exist. Registers that only its destruction
clears keep their values. -/
def State.unmakePart (s : State) (p : Nat) : State :=
  let s := [RegName.PART_STATUS, .PART_SHC, .PART_DMA, .GST_PART_STATE, .GST_PART_STEP].foldl (fun t r => t.resetReg r p) s
  let s := s.clearCopies .PART_MARSH p 16
  { s.setPart p Part.fresh with regs := s.regs.filter fun e => e.1 % 16 != p }

/-- A partition that no longer exists. -/
def State.clearPart (s : State) (p : Nat) : State :=
  let s := partRegs.foldl (fun t r => t.clearCopies r p 1) s
  let s := ((s.clearCopies .PART_MARSH p 16).clearCopies .XNI_OUTBOX p 64).clearCopies .XNI_OUTBOX_REL p 64
  let s := (List.range 12).foldl (fun t m => (t.resetReg .MRS_REG (ix2 12 m p)).resetReg .MRS_REG_ACC (ix2 12 m p)) s
  { s.setPart p Part.fresh with regs := s.regs.filter fun e => e.1 % 16 != p }

/-- GST_PART_STATE.STATE of a partition whose reset does not finish: what it was before. -/
def State.leaveReset (s : State) (p : Nat) : State :=
  if s.get .GST_PART_STATE_STATE p = 5 then s.put .GST_PART_STATE_STATE p (s.part p).priorJob else s

/-- A command in progress met by the entry (R335): completed with ST_DOLDRUMS; a creation or reset leaves its partition as before. -/
def State.cutCmd (s : State) (c : Cmd) : State :=
  let s := match c.kind with
    | .partCreate p _ => s.unmakePart p
    | .partReset p => if s.get .PART_STATUS_STATE p = 3 then (s.put .PART_STATUS_STATE p (s.part p).prior).leaveReset p else s
    | .migrateSite _ loc _ _ switched =>
      (match s.dieOwner (bitsOf loc 3 0) with
       | some p => if switched = 0 ∨ s.get .PART_STATUS_STATE p ≠ 3 then s else (s.put .PART_STATUS_STATE p (s.part p).prior).leaveReset p
       | none => s)
    | _ => s
  s.endCmd c stDoldrums s.gust 0 0

/-- Entry into Doldrums mode for a cause, or a further cause held (R335, R337). -/
def State.enterDoldrums (s : State) (cause : Nat) : State :=
  let held := s.get .PART_DOLDRUMS_HELD 0
  let s' := s.put .PART_DOLDRUMS_HELD 0 (held ||| 2 ^ (cause - 1))
  if s.inDoldrums then
    if bitOf held (cause - 1) then s else s'.doldrumsEvent 1 cause
  else
    let s := (s'.puts 0 [(.PART_DOLDRUMS_ACTIVE, 1), (.PART_DOLDRUMS_CAUSE, cause), (.HST_CP_STATUS_DOLDRUMS, 1)]).bump .PART_DOLDRUMS_ENTRIES 0 1
    let s := (List.range 12).foldl (fun s p => if (s.part p).running then (s.undoGust p).stopJob p stDoldrums else s) s
    let s := (s.cores.map (·.1)).foldl State.dropUnits s
    let s := ((List.range 32).filter fun e => s.on .DMA_CH_CTL_ENABLE e || !s.dmaIdle e).foldl (fun s e => s.dmaCut e stDoldrums) s
    let s := (List.range 16).foldl (fun s k => s.put .XNI_PORT_STATUS_STATE k 0) s
    let s := (s.cmds.filter fun c => !doldrumsAccepts c.op).foldl State.cutCmd s
    let s := (List.range 12).foldl (fun s m => if s.get .MRS_SPARE_STATE m = 1 then s.puts m [(.MRS_SPARE_STATE, 0), (.MRS_SPARE_PROGRESS, 0)] else s) s
    (s.put .PART_REPAIR_MIGRATING 0 0).doldrumsEvent 1 cause

/-! ### Losing a partition (R320) -/

/-- Losses in the last 60 minutes (PART_LOST.IN_WINDOW saturates at 3). -/
def State.recentLosses (s : State) : List Nat := s.losses.filter fun t => s.msClock < t + 3600000

/-- A partition is lost, with its record and counts; the third within 60 minutes enters Doldrums mode (R334). -/
def State.losePart (s : State) (p code : Nat) : State :=
  if s.get .PART_STATUS_STATE p = 5 ∨ s.get .PART_STATUS_STATE p = 0 then s
  else
    let s := ((s.jobEvent p 7 code).leaveReset p).bump .PART_LOST_TOTAL 0 1
    let ls := s.msClock :: s.recentLosses
    let s := ({ s with losses := ls }.put .PART_LOST_IN_WINDOW 0 (min 3 ls.length)).put .PART_STATUS_STATE p 5
    if ls.length ≥ 3 then s.enterDoldrums 5 else s

/-! ### Resetting cores (R317) -/

/-- Registers of a site that a partition reset returns to their Reset values (R64, R83, R100, R147, R172, R195, R256). -/
def coreResetRegs : List RegName :=
  [.CORE_ARR_STATUS, .CORE_FEEDER_STATS, .CORE_NUM_FLAGS, .CORE_PROG_STATUS, .CORE_TRAP_INFO, .ARR_CTL, .ARR_CHK_STATUS, .ARR_INJECT, .VEC_RNG_KEY,
   .VEC_RESULT, .VEC_STATUS, .REED_CTL, .REED_STATUS, .REED_STATS, .REED_BUS_STATS, .REED_FAULT, .ATT_CTL, .ATT_STATUS, .ATT_ROPE_FREQ, .ATT_STATS,
   .ATT_ROW_STATS, .ATT_FAULT, .KVW_CTL, .KVW_STATUS, .KVW_LB_STATS, .KVW_APPEND_STATS, .KVW_PAGE_STATS, .KVW_FAULT, .KVW_FAULT_ROOT, .ZYN_NET_STATS]

/-- Every copy of a register at a site reset. -/
def State.resetSiteReg (s : State) (c : Nat) (r : RegName) : State := (List.range r.count).foldl (fun t k => t.resetReg r (c * r.count + k)) s

/-- Fields by number returned to their Reset values. -/
def State.resetFields (s : State) (ids : List Nat) : State := { s with flds := s.flds.filter fun e => !ids.contains (keyField e.1) }

/-- One core site reset: its units empty, its registers at their Reset values, no grain holding a bank of its slice. -/
def State.resetCore (s : State) (c : Nat) : State :=
  let s := s.setCore c Core.fresh
  let s := coreResetRegs.foldl (fun t r => t.resetSiteReg c r) s
  let here (k : Nat) : Bool := (coreResetRegs.flatMap fun r => r.fields.map fun f => (f, r.count)).any fun x => keyField k == x.1.id && keyCopy k / x.2 == c
  let s := { s with eff := s.eff.filter fun e => !here e.1 }
  (List.range 128).foldl (fun t b => t.put .FEN_BANK_CTL_GRAIN (ix2 128 c b) 0) s

/-- Every core site of a partition reset, and the licence state latched: none in force where its vote is lost (R317, R327). -/
def State.resetPartCores (s : State) (p : Nat) : State :=
  let s := (s.partAllSites p).foldl State.resetCore s
  let (v, repaired, t) := s.licWord.vote
  let s := { s with licWord := t }.voteOutcome 15 5 0 v.isSome repaired
  s.put .PART_STATUS_LIC p (v.getD 0)

end Sys2Proof.Machine
end

