-- ==== Sys2Proof/Machine/Operands.lean ====
section
/-!
DEFINITION. The operand forms of host commands: the packet header (R286), who may issue a command and for which partition (R276, R289), the order in
which a packet is refused (R286, R292, R298; notes/assumptions/11.md), the gate of the partition's state (R286, R297, R317, R327), and gust operands.
-/
namespace Sys2Proof.Machine

/-- The Issuer column of R289: any, any and PARTITION 15 from the PF, PF, PF module. -/
inductive Scope where
  | any
  | anyOr15
  | pf
  | pfModule
  deriving DecidableEq, Repr

/-- An opcode of R289: its value, its issuer, and the bits that the table gives each parameter word. -/
structure HostOp where
  code : Nat
  scope : Scope
  masks : List Nat
  deriving DecidableEq, Repr

/-- Mask of bits `[hi:lo]`. -/
def bitsMask (hi lo : Nat) : Nat := (2 ^ (hi - lo + 1) - 1) * 2 ^ lo

def word64 : Nat := 2 ^ 64 - 1
def gustMask : Nat := bitsMask 47 0
def addrMask : Nat := bitsMask 51 0

/-- Whether a parameter word has a bit set that the table does not assign. -/
def reservedSet : List Word → List Nat → Bool
  | w :: ws, m :: ms => decide (w.toNat &&& m ≠ w.toNat) || reservedSet ws ms
  | _, _ => false

/-- Opcodes served in Sleep (R367): every other command completes with ST_DISABLED. -/
def sleepAccepts (op : Nat) : Bool := [0x38, 0x39, 0x3C, 0x3D, 0x2B, 0x49, 0x50, 0x51].contains op

/-- Why a command is refused at validation, 0 for not at all: the REASON codes of HST_BAD_LAST (R298). -/
def State.packetReason (s : State) (op : HostOp) (q : Req) (ps : List Word) : Nat :=
  let f := s.get .HST_RING_CTL_OWNER q.ring.val
  let p := q.part.val
  if reservedSet ps op.masks || (12 ≤ p && p ≤ 14) then 2
  else if f ≠ 0 ∧ (op.scope = .pf ∨ op.scope = .pfModule) then 4
  else if f ≠ 0 ∧ p ≠ s.get .HST_FUNC_CTL_PARTITION f then 3
  else if op.scope = .pfModule ∧ p ≠ 15 then 3
  else if (op.scope = .any ∨ op.scope = .pf) ∧ p = 15 then 3
  else if q.tag = 0xFFFF then 5
  else 0

/-- A vote on a partition-map entry (R325, R326, R327): a lost vote loses the partition. The result says whether the entry is known. -/
def State.voteMap (s : State) (p : Nat) : Bool × State :=
  let x := s.part p
  if x.mapLost then (false, s)
  else
    let (v, repaired, t) := x.map.vote
    let s := (s.modPart p fun x => { x with map := t }).voteOutcome p 2 p v.isSome repaired
    if v.isSome then (true, s) else (false, (s.modPart p fun x => { x with mapLost := true }).losePart p stVoteLost)

/-- The status with which a partition's state refuses a command (R286, R297, R317, R318, R327), if it does. -/
def State.gate (s : State) (p op : Nat) : Option Nat × State :=
  let st := s.get .PART_STATUS_STATE p
  if p ≥ 12 then (none, s)
  else if st = 0 then (some stDisabled, s)
  else if st = 3 then (if op = 0x31 then none else if op = 0x32 then some stBusy else some stTargetResetting, s)
  else if st = 1 ∨ st = 4 then (some stBusy, s)
  else
    let (known, s) := s.voteMap p
    (if known || op == 0x32 then none else some stVoteLost, s)

/-- A host command: refused as malformed, in Doldrums mode, in Sleep or by its partition's state, or run. `chk` finds a parameter out of range (5) or an
address unmapped or foreign (6); of a partition that does not exist it is not asked (R286). -/
def State.hostCmd (op : HostOp) (q : Req) (ps : List Word) (chk : State → Nat) (run : State → State) (s : State) : State :=
  let f := s.get .HST_RING_CTL_OWNER q.ring.val
  if f ≠ 0 ∧ !s.on .HST_FUNC_CTL_BOUND f then s.done q stDisabled
  else
    let r := s.packetReason op q ps
    let r := if r = 0 ∧ (12 ≤ q.part.val ∨ s.get .PART_STATUS_STATE q.part.val ≠ 0) then chk s else r
    if r ≠ 0 then s.badPacket q op.code r
    else if s.inDoldrums && !doldrumsAccepts op.code then s.done q stDoldrums
    else if s.get .PWR_STATE_STATE 0 = 2 ∧ !sleepAccepts op.code then s.done q stDisabled
    else match s.gate q.part.val op.code with
      | (some st, s) => s.done q st
      | (none, s) => run s

/-- An access by a function: a VF answers nothing while VF Enable is clear (R275). -/
def State.whenEnabled (s : State) (f : Nat) (g : State → State) : State := if f = 0 || s.vfEnable then g s else s

/-- A host command as a meaning: the module answers packets while its clocks run. -/
def hostRow (op : HostOp) (q : Req) (ps : List Word) (chk : State → Nat) (run : State → State) (s : State) : Host.Outcome State Fault Refusal :=
  .next (s.whenClocked (State.hostCmd op q ps chk run))

/-- No parameter check of its own. -/
def noCheck (_ : State) : Nat := 0

/-- The device range a command of partition `p` may name (R280): mapped, and in the partition's resources; with PARTITION 15 any mapped range (R289). -/
def State.cmdRange (s : State) (p a n : Nat) : Option (Store × Nat) :=
  match s.devRange a n with
  | some (st, off) => if p ≥ 12 || s.ownsRange p st off n then some (st, off) else none
  | none => none

/-- A bad address as a REASON. -/
def addrReason {α : Type} (r : Option α) : Nat := if r.isSome then 0 else 6

/-- Doldrums mode of cause 2 before bring-up has trained any memory (R381). -/
def State.untrained (s : State) : Bool := s.inDoldrums && !s.on .HST_CP_STATUS_READY 0

/-- A gust operand: 0 names the next boundary (R18, R21). -/
def State.boundaryDue (s : State) (g : Nat) : Bool := g == 0 || decide (g ≤ s.gust)

/-- Whether a named gust has already begun (R18, R330). -/
def State.gustBegun (s : State) (g : Nat) : Bool := g != 0 && decide (g ≤ s.gust)

end Sys2Proof.Machine
end

