-- ==== Sys2Proof/Machine/Walker.lean ====
section
/-!
DEFINITION. KV pages and the walker (R173 to R185): roots read by vote, resolution of a position, staging, the walker's descriptors; rotation (R155).
Readings taken by inference (DEDUCED): notes/assumptions/27.md, notes/assumptions/30.md.
-/
namespace Sys2Proof.Machine

/-! ### Page classes and entries (R173, R176, R178) -/

/-- Head dimension of a class code. -/
def headDim (cls : Nat) : Nat := 64 * 2 ^ cls

/-- Element format of a page format code (R175). -/
def pageFmt (code : Nat) : Fmt := if code = 0 then .int4 else if code = 1 then .e4m3 else .bf16

/-- Positions of a page (R173); 0 where the class does not support the format. -/
def pageN (cls fmt : Nat) : Nat :=
  match cls, fmt with
  | 0, 2 => 128 | 0, 1 => 256 | 0, 0 => 256
  | 1, 2 => 64 | 1, 1 => 128 | 1, 0 => 256
  | 2, 1 => 64 | 2, 0 => 128
  | _, _ => 0

/-- A root record (R176). -/
structure Root where
  valid : Bool
  cls : Nat
  shift : Nat
  top : Nat
  blocks : Nat
  length : Nat
  streams : Nat
  trim : Nat
  deriving DecidableEq, Repr

def Root.of (w : List Word) : Root :=
  ⟨flagOf (wordAt w 0) 0, fieldOf (wordAt w 0) 2 1, fieldOf (wordAt w 0) 7 3, fieldOf (wordAt w 0) 51 12 * 4096, fieldOf (wordAt w 0) 60 52 + 1,
   fieldOf (wordAt w 1) 31 0, fieldOf (wordAt w 1) 47 32 + 1, fieldOf (wordAt w 2) 31 0⟩

/-- A record that R176 allows. -/
def rootOk (w : List Word) : Bool :=
  let r := Root.of w
  fieldOf (wordAt w 0) 11 8 == 0 && fieldOf (wordAt w 0) 63 61 == 0 && fieldOf (wordAt w 1) 63 48 == 0 && fieldOf (wordAt w 2) 63 32 == 0 &&
    r.cls ≤ 2 && 2 ≤ r.shift && r.shift ≤ 26 && r.blocks ≤ 512 && r.trim % 256 == 0 && r.streams * 2 ^ r.shift ≤ r.blocks * 262144

/-- The CRC of a root record (R176). -/
def rootCrc (w : List Word) : Nat := crc32 ((wordsToBytes w).take 24)

/-- A root's words with their CRC word. -/
def rootSealed (w : List Word) : List Word := [wordAt w 0, wordAt w 1, wordAt w 2, BitVec.ofNat 64 (rootCrc w)]

/-- A root needs LIC-LONG (R180). -/
def Root.long (r : Root) : Bool := decide (4 < r.blocks)

/-- LIC-LONG in force for a partition. -/
def State.licLong (s : State) (p : Nat) : Bool := bitOf (s.get .PART_STATUS_LIC p) 2

/-- Fields of a page entry (R178). -/
def entType (e : Word) : Nat := fieldOf e 1 0
def entStore (e : Word) : Nat := fieldOf e 3 2
def entFmt (e : Word) : Nat := fieldOf e 5 4
def entForks (e : Word) : Nat := fieldOf e 15 8
def entIsPage (e : Word) : Bool := entType e == 1

/-- Payload address of an entry in fen or marsh, or its peat slot. -/
def entAddr (e : Word) : Nat := fieldOf e 63 27 * 32768
def entSlot (e : Word) : Nat := fieldOf e 53 27

/-- An entry for a payload at a device address. -/
def mkEntry (store fmt addr forks : Nat) (committed : Bool) : Word :=
  BitVec.ofNat 64 (1 + placed store 2 + placed fmt 4 + placed (Bool.bit committed) 6 + placed forks 8 + placed (addr / 32768) 27)

/-- Slots that a page covers. -/
def pageSlots (cls fmt : Nat) : Nat := pageN cls fmt / 64

/-- Whether the directory is malformed around one slot of a span group (R179). `staged` says which entries lie in a stage. -/
def entBad (cls : Nat) (grp : List (Word × Bool)) (k : Nat) : Bool :=
  let (e, staged) := grp.getD k (0, false)
  if entType e = 0 then false
  else if entType e ≠ 1 then true
  else
    let n := pageSlots cls (entFmt e)
    entStore e == 3 || entFmt e == 3 || flagOf e 7 || fieldOf e 26 16 != 0 || (entStore e == 2 && fieldOf e 63 54 != 0) || n == 0 || k % max n 1 != 0 ||
      (!staged && !flagOf e 6) || (List.range 4).any fun j => k < j && j < k + n && entIsPage (grp.getD j (0, false)).1

/-- The slot of a span group whose page covers slot `u` (R181): among u, u & ~1, u & ~3 in that order. -/
def coveringSlot (cls : Nat) (grp : List (Word × Bool)) (u : Nat) : Option Nat :=
  [u % 4, u % 4 / 2 * 2, 0].find? fun k =>
    let e := (grp.getD k (0, false)).1
    entIsPage e && u % 4 < k + pageSlots cls (entFmt e)

/-! ### Reading as a plan unit or for a host command -/

/-- A read for a unit of a core, or for a host command. -/
def State.unitRead (s : State) (who : Option Nat) (st : Store) (off n : Nat) : Option (List Byte) × State :=
  match who with
  | some c => s.coreRead c st off n
  | none => s.hostSideRead st off n

/-- A read at a device address of the partition: foreign or unmapped, in a withdrawn chunk, uncorrectable, or not to be reached. -/
inductive ARead where
  | ok (bytes : List Byte)
  | foreign
  | retired
  | bad
  | away
  deriving DecidableEq, Repr

def State.readAt (s : State) (who : Option Nat) (p a n : Nat) : ARead × State :=
  match s.devRange a n with
  | none => (.foreign, s)
  | some (st, off) =>
    if !s.ownsRange p st off n then (.foreign, s)
    else if s.anyWithdrawn st off n then (.retired, s)
    else
      let src := who.map dieOf
      if s.cutOff src st then (.away, if who.isSome then (s.countAnswered (s.reach src st)).flagPart p 5 stUncorrectable else s)
      else match (s.metre src st off n).unitRead who st off n with
        | (some b, s) => (.ok b, s)
        | (none, s) => (.bad, s)

/-- A word of the stage of a die over the word in memory. -/
def State.staged (s : State) (d : Option Nat) (a : Nat) : Option Word :=
  match d with
  | some d => (SMap.get (SMap.get s.stage d []) a (false, 0) |> fun e => if (SMap.get s.stage d []).any fun x => x.1 == a then some e.2 else none)
  | none => none

/-- Device address of copy `k` of root `n` (R176). -/
def State.rootAt (s : State) (p n k : Nat) : Nat :=
  s.get .KVW_ROOT_BASE_BASE p * 4096 + k * s.get .KVW_ROOT_COUNT_COUNT p * 32 + 32 * n

/-- What a read of a root came to. -/
inductive RootRes where
  | ok (w : List Word)
  | lost
  | foreign
  deriving DecidableEq, Repr

/-- One copy of a root with the die's stage over it: none where damaged (R325). -/
def State.rootCopy (s : State) (who : Option Nat) (p : Nat) (d : Option Nat) (n k : Nat) : Option (Option (List Word)) × State :=
  let a := s.rootAt p n k
  match s.readAt who p a 32 with
  | (.ok b, s) =>
    let w := (bytesToWords 4 b).zipIdx.map fun e => (s.staged d (a + 8 * e.2)).getD e.1
    (some (if rootCrc w == fieldOf (wordAt w 3) 31 0 && fieldOf (wordAt w 3) 63 32 == 0 then some w else none), s)
  | (.bad, s) | (.away, s) => (some none, s)
  | (_, s) => (none, s)

/-- A root read by vote (R176, R326): a minority copy is rewritten in the lull after the next commit. -/
def State.readRoot (s : State) (who : Option Nat) (p : Nat) (d : Option Nat) (n : Nat) : RootRes × State :=
  let (a, s) := s.rootCopy who p d n 0
  let (b, s) := s.rootCopy who p d n 1
  let (c, s) := s.rootCopy who p d n 2
  match a, b, c with
  | some a, some b, some c =>
    let (v, repaired, _) := Tri.vote ⟨a, b, c⟩
    match v with
    | none => (.lost, s.voteOutcome p 1 n false false)
    | some w => (.ok w, if repaired && !(s.part p).rewrites.contains n then s.modPart p fun x => { x with rewrites := x.rewrites ++ [n] } else s)
  | _, _, _ => (.foreign, s)

/-! ### Faults of the walker (R185, R188, R195) -/

/-- KVW_FAULT latched: the first fault since VALID was last cleared. -/
def State.kvFault (s : State) (c reason tag stream pos root : Nat) : State :=
  if s.on .KVW_FAULT_VALID c then s
  else (s.puts c [(.KVW_FAULT_VALID, 1), (.KVW_FAULT_REASON, reason), (.KVW_FAULT_TAG, tag), (.KVW_FAULT_STREAM, stream),
    (.KVW_FAULT_POSITION, if reason < 4 then pos else 0)]).put .KVW_FAULT_ROOT_ROOT c root

/-- What a resolution came to. -/
inductive PageRes where
  | page (slot : Nat) (entry : Word) (header : Nat)
  | missing
  | malformed
  | access
  | flagged
  deriving DecidableEq, Repr

/-- The four entries of a span group with the die's stage over them. -/
def State.spanGroup (s : State) (who : Option Nat) (p : Nat) (d : Option Nat) (a : Nat) : ARead × List (Word × Bool) × State :=
  match s.readAt who p a 32 with
  | (.ok b, s) =>
    (.ok b, ((bytesToWords 4 b).zipIdx.map fun e => match s.staged d (a + 8 * e.2) with | some w => (w, true) | none => (e.1, false)), s)
  | (r, s) => (r, [], s)

/-- Leaf block address of slot `x` of a root: none where the top entry is not VALID. -/
inductive LeafRes where
  | leaf (a : Nat)
  | none
  | fail (r : PageRes)
  deriving DecidableEq, Repr

def State.leafOf (s : State) (who : Option Nat) (p : Nat) (r : Root) (x : Nat) : LeafRes × State :=
  match s.readAt who p (r.top + 8 * (x / 512)) 8 with
  | (.ok b, s) =>
    let t := BitVec.ofNat 64 (ofBytesLE b)
    (if flagOf t 0 then .leaf (fieldOf t 51 12 * 4096) else .none, s)
  | (.foreign, s) => (.fail .malformed, s)
  | (.retired, s) => (.fail .access, s)
  | (.bad, s) | (.away, s) => (.fail .flagged, s)

/-- The page of slot `x`, unit `u`, by reading the tables (R181). -/
def State.lookup (s : State) (who : Option Nat) (p : Nat) (d : Option Nat) (r : Root) (x u : Nat) : PageRes × State :=
  match s.leafOf who p r x with
  | (.fail f, s) => (f, s)
  | (.none, s) => (.missing, s)
  | (.leaf a, s) =>
    let e := x % 512
    match s.spanGroup who p d (a + 8 * (e / 4 * 4)) with
    | (.foreign, _, s) => (.malformed, s)
    | (.retired, _, s) => (.access, s)
    | (.bad, _, s) | (.away, _, s) => (.flagged, s)
    | (.ok _, grp, s) =>
      if (List.range 4).any fun k => entBad r.cls grp k then (.malformed, s)
      else match coveringSlot r.cls grp u with
        | none => (.missing, s)
        | some k => (.page (x / 4 * 4 + k) (grp.getD k (0, false)).1 (a + 4096 + 256 * (e / 4 * 4 + k)), s)

/-- Slot of position `pos` of stream `st` (R178). -/
def slotOf (r : Root) (st pos : Nat) : Nat := st * 2 ^ r.shift + pos / 64

/-- The walker's resolution (R181, R183): the look-aside buffer first. -/
def State.resolve (s : State) (c p n : Nat) (r : Root) (st pos : Nat) : PageRes × State :=
  let u := pos / 64
  let hit := (s.core c).lb.find? fun e => e.root == n && e.stream == st && e.span == u / 4 &&
    entIsPage e.entry && e.slot % 4 ≤ u % 4 && u % 4 < e.slot % 4 + pageSlots r.cls (entFmt e.entry)
  match hit with
  | some e =>
    let s := s.modCore c fun k => { k with lb := e :: k.lb.erase e }
    (.page e.slot e.entry e.header, s.bump .KVW_LB_STATS_HITS c 1)
  | none =>
    let s := s.bump .KVW_LB_STATS_MISSES c 1
    match s.lookup (some c) p (some (dieOf c)) r (slotOf r st pos) u with
    | (.page slot e h, s) =>
      (.page slot e h, s.modCore c fun k => { k with lb := (⟨n, st, u / 4, slot, e, h⟩ :: k.lb).take 64 })
    | x => x

/-! ### Staging (R184) -/

/-- A word staged on a die: a later word at an address replaces the earlier. The result is false where the stage is full. -/
def State.stageWord (s : State) (p d a : Nat) (entry : Bool) (w : Word) : State × Bool :=
  let m := SMap.get s.stage d []
  if !(m.any fun x => x.1 == a) && 262144 ≤ m.length then (s.modPart p fun x => { x with refused := true }, false)
  else
    let m := m.insert a (entry, w)
    let s := { s with stage := s.stage.insert d m }
    (s.raise .KVW_STAGE_MAX_WORDS d m.length, true)

/-- A staged entry drops the buffer entries of its span group in every walker of the die (R183). -/
def State.dropSpan (s : State) (d n st span : Nat) : State :=
  { s with cores := s.cores.map fun e =>
      if dieOf e.1 = d then (e.1, { e.2 with lb := e.2.lb.filter fun x => !(x.root == n && x.stream == st && x.span == span) }) else e }

/-! ### The descriptor (R185) -/

structure WalkDesc where
  op : Nat
  fmt : Nat
  rope : Bool
  layout : Nat
  headroom : Nat
  srcBf16 : Bool
  tag : Nat
  pairs : Nat
  stream : Nat
  streams : Nat
  root : Nat
  pos : Nat
  count : Nat
  src : Nat
  list : Nat
  listCount : Nat
  deriving DecidableEq, Repr

def WalkDesc.of (w : List Word) : WalkDesc :=
  let w0 := wordAt w 0
  ⟨fieldOf w0 3 0, fieldOf w0 5 4, flagOf w0 6, fieldOf w0 7 7, fieldOf w0 9 8, flagOf w0 10, fieldOf w0 23 16, fieldOf w0 31 24, fieldOf w0 47 32,
   fieldOf w0 63 48 + 1, fieldOf (wordAt w 1) 31 0, fieldOf (wordAt w 1) 63 32, fieldOf (wordAt w 2) 31 0, fieldOf (wordAt w 2) 53 32,
   fieldOf (wordAt w 3) 21 0, fieldOf (wordAt w 3) 47 32⟩

/-- Page slots that a TOUCH resolves in each stream. -/
def WalkDesc.touchUnits (d : WalkDesc) : Nat := if d.count = 0 then 0 else (d.pos + d.count - 1) / 64 + 1 - d.pos / 64

/-- Resolutions that a descriptor takes: one per pair, or per page slot. -/
def WalkDesc.walks (d : WalkDesc) : Nat := if d.op = 1 then d.count * d.streams else if d.op = 2 then 0 else d.touchUnits * d.streams

/-- Checks that need only the words; the fields marked APPEND are zero in the other operations (notes/assumptions/27.md). -/
def walkWordsOk (w : List Word) : Bool :=
  let d := WalkDesc.of w
  let w0 := wordAt w 0
  fieldOf w0 15 11 == 0 && fieldOf (wordAt w 2) 63 54 == 0 && fieldOf (wordAt w 3) 31 22 == 0 && fieldOf (wordAt w 3) 63 48 == 0 &&
    (if d.op = 1 then
      d.fmt != 3 && 1 ≤ d.count && d.count ≤ 512 && d.src % 64 == 0 && d.list % 8 == 0 && d.list + 8 * d.listCount ≤ 0x400000 && (d.rope || d.pairs == 0)
    else
      (d.op == 2 || d.op == 3) && fieldOf w0 10 4 == 0 && d.pairs == 0 && d.src == 0 && wordAt w 3 == 0 && (d.op == 3 || d.count == 0))

/-- Checks against the root (R185): 0, or the REASON latched. -/
def walkRootReason (s : State) (p : Nat) (d : WalkDesc) (w : List Word) : Nat :=
  let r := Root.of w
  let D := headDim r.cls
  let unitsOk := d.count == 0 || (d.pos + d.count - 1) / 64 < 2 ^ r.shift
  if !r.valid then 4
  else if !rootOk w then 2
  else if r.long && !s.licLong p then 6
  else if r.streams < d.stream + d.streams ∨ !unitsOk then 4
  else if d.op = 1 ∧ (pageN r.cls d.fmt = 0 ∨ (d.rope && !(1 ≤ d.pairs && d.pairs ≤ D / 2)) ∨
      0x400000 < d.src + d.count * d.streams * 2 * D * (if d.srcBf16 then 2 else 4)) then 4
  else 0

/-! ### Rotation and quantising (R155, R187) -/

/-- Exact quotient of two numbers with a sticky bit below, so that one rounding of it rounds the true quotient (R187). -/
def Num.div (x g : Num) : Num :=
  match x, g with
  | .nan, _ => .nan
  | _, .nan => .nan
  | .inf _, .inf _ => .nan
  | .inf n, .fin d => .inf (n != d.neg)
  | .fin d, .inf n => .zero (d.neg != n)
  | .fin a, .fin b =>
    if b.man = 0 then (if a.man = 0 then .nan else .inf (a.neg != b.neg))
    else
      let num := a.man * 2 ^ 320
      let q := num / b.man
      .fin ⟨a.neg != b.neg, 2 * q + (if num % b.man = 0 then 0 else 1), a.exp - b.exp - 321⟩

/-- The first dimension of pair `i` and its partner (R155). -/
def ropePair (layout pairs i : Nat) : Nat × Nat := if layout = 0 then (2 * i, 2 * i + 1) else (i, i + pairs)

/-- A sum of products rounded once to FP32, with its flags (R155, R83). -/
def sumF (ts : List (Num × Num × Bool)) : F32 × Nat :=
  let x := Num.sum (ts.map fun t => let y := t.1.mul t.2.1; if t.2.2 then y.negate else y)
  let ops := ts.flatMap fun t => [t.1, t.2.1]
  let (v, fl) := roundF32 x
  (v, fl ||| invalidOf x ops ||| nonfiniteIn ops)

/-- rotate(x, pos) of R155 on FP32 values, and with `back` rotate(x, −pos); the frequencies are ATT_ROPE_FREQ of the core. The second part is the flags raised. -/
def rotate (back : Bool) (freq : Nat → F32) (layout pairs pos : Nat) (x : List F32) : List F32 × Nat :=
  (List.range pairs).foldl (fun acc i =>
    let (x, fl) := acc
    let (a, b) := ropePair layout pairs i
    let (cs, sn) := cosSin pos (freq i)
    let xa := ofF32 (x.getD a 0)
    let xb := ofF32 (x.getD b 0)
    let (ya, f1) := sumF [(xa, ofF32 cs, false), (xb, ofF32 sn, !back)]
    let (yb, f2) := sumF [(xa, ofF32 sn, back), (xb, ofF32 cs, false)]
    ((x.set a ya).set b yb, fl ||| f1 ||| f2)) (x, 0)

def State.ropeFreq (s : State) (c : Nat) (i : Nat) : F32 := BitVec.ofNat 32 (s.get .ATT_ROPE_FREQ_FREQ (ix2 128 c i))

/-- The scale of a group (R187): from the finite magnitudes of its values. -/
def groupScale (fmt headroom : Nat) (xs : List F32) : Nat :=
  let ds := xs.filterMap fun x => match ofF32 x with | .fin d => some d | _ => none
  let big := ds.foldl (fun (m : Dy) d => if Dy.lt ⟨false, m.man, m.exp⟩ ⟨false, d.man, d.exp⟩ then d else m) ⟨false, 0, 0⟩
  if fmt = 2 ∨ big.man = 0 then 0x3F80
  else
    let X := max (-126) (min 127 (big.floorLog2 - (pageFmt fmt).emax + headroom))
    ((X + 127).toNat) * 128

/-- The root of a descriptor, from the root cache or by vote (R181, R183). -/
def State.walkRoot (s : State) (c p n : Nat) : RootRes × State :=
  match (s.core c).rootCache.find? fun e => e.1 == n with
  | some e => (.ok e.2, s.modCore c fun k => { k with rootCache := e :: k.rootCache.erase e })
  | none =>
    match s.readRoot (some c) p (some (dieOf c)) n with
    | (.ok w, s) => (.ok w, s.modCore c fun k => { k with rootCache := ((n, w) :: k.rootCache).take 8 })
    | x => x

end Sys2Proof.Machine
end

