-- ==== Sys2Proof/Machine/Peat.lean ====
section
/-!
DEFINITION. The peat (R216 to R237): peat addresses, blocks and the region map, NAND operations and their results, the wear regulator, the peat commands,
and the NAND side of KV_EVICT and KV_PREFETCH (R192).
Readings taken by inference (DEDUCED): notes/assumptions/35.md.
-/
namespace Sys2Proof.Machine

/-! ### Places (R216, R219, R221) -/

def peatDie (ch die : Nat) : Nat := ch * 8 + die
def blockKey (d plane block : Nat) : Nat := (d * 4 + plane) * 2800 + block
def keyDie (k : Nat) : Nat := k / 2800 / 4
def keyPlane (k : Nat) : Nat := k / 2800 % 4
def keyBlock (k : Nat) : Nat := k % 2800

/-- Key of the first data byte of a page. -/
def pageKey (k page : Nat) : Nat := (k * 1536 + page) * 16384

/-- Bits [31:0] of the physical peat address of a page (R219). -/
def peatAddrOf (k page : Nat) : Nat :=
  keyDie k / 8 + placed (keyDie k % 8) 4 + placed (keyPlane k) 7 + placed (keyBlock k) 9 + placed page 21

/-- The counter journal's blocks (R216). -/
def journalBlock (k : Nat) : Bool := keyPlane k == 0 && 2798 ≤ keyBlock k

def State.block (s : State) (k : Nat) : PeatBlock := SMap.get s.peatBlocks k PeatBlock.fresh
def State.setBlock (s : State) (k : Nat) (b : PeatBlock) : State := { s with peatBlocks := SMap.set s.peatBlocks k b PeatBlock.fresh }

/-- A NAND operation that a command needs next: the die, the operation, and the data bytes it moves. -/
structure PeatOp where
  die : Nat
  op : NandOp
  bytes : Nat
  deriving DecidableEq, Repr

/-- A region map entry read by vote (R221, R325 kind 8). -/
def State.mapEntry (s : State) (i : Nat) : Option Nat × State :=
  let (v, repaired, t) := (SMap.get s.peatMap i (Tri.of 0)).vote
  let s := { s with peatMap := SMap.set s.peatMap i t (Tri.of 0) }
  let s := if v.isSome && repaired then s.bump .PEAT_MAP_STATUS_REPAIRED 0 1 else s
  (v, s.voteOutcome 15 8 i v.isSome repaired)

/-- The operation of a KV slot (R221): two planes of one die, one page, or the status that refuses it. -/
def State.slotOp (s : State) (slot : Nat) (kind : Nat) : Except Nat PeatOp × State :=
  let ch := slot % 16
  let die := slot / 16 % 8
  let plane := 2 * (slot / 128 % 2)
  let page := slot / 256 % 512
  let rb := slot / 2 ^ 17
  let idx (pl : Nat) : Nat := ((ch * 8 + die) * 4 + pl) * 1024 + rb
  let (a, s) := s.mapEntry (idx plane)
  let (b, s) := s.mapEntry (idx (plane + 1))
  match a, b with
  | some a, some b =>
    if !bitOf a 15 || !bitOf b 15 || a % 4096 != b % 4096 || 2800 ≤ a % 4096 then (.error stBadPacket, s)
    else
      let ks := [blockKey (peatDie ch die) plane (a % 4096), blockKey (peatDie ch die) (plane + 1) (a % 4096)]
      if ks.any fun k => (s.block k).mode != 2 then (.error stBadPacket, s)
      else (.ok ⟨peatDie ch die, ⟨kind, ks, page, 1, 0⟩, 32768⟩, s)
  | _, _ => (.error stVoteLost, s)

/-- Pages of a block in a mode. -/
def modePages (m : Nat) : Nat := if m = 1 then 1536 else if m = 2 then 512 else 0

/-- Whether the rules of R216 and R220 allow an operation. -/
def State.nandAllowed (s : State) (o : NandOp) : Bool :=
  o.blocks.all fun k =>
    let b := s.block k
    !journalBlock k && !s.peatBad.contains k &&
      (if o.kind = 2 then true
       else if o.kind = 1 then o.page + o.pages ≤ modePages b.mode && b.ptr ≤ o.page
       else o.page + o.pages ≤ modePages b.mode && o.page + o.pages ≤ b.ptr)

/-! ### Conditions of issue (R229, R230, R234) -/

/-- The temperature window of a die's group. -/
def State.nandTempOk (s : State) (die kind : Nat) : Bool :=
  bitOf (if kind = 0 then s.get .PEAT_STATE_READ_OK 0 else s.get .PEAT_STATE_WRITE_OK 0) (die / 8 / 4)

/-- Bytes programmed in the 1,440-minute window. -/
def State.wearUsed (s : State) : Nat := s.wear.sum

def State.wearAllows (s : State) (n : Nat) : Bool := decide (s.wearUsed + n ≤ s.get .PEAT_WEAR_CTL_RATE 0 * 10000000 * 86400)

def State.wearAdd (s : State) (n : Nat) : State :=
  { s with wear := match s.wear with | [] => [n] | w :: r => (w + n) :: r }

/-- Dies programming or erasing. -/
def State.activeDies (s : State) : Nat := (s.nand.filter fun e => e.2.kind != 0).length

/-! ### Page data -/

/-- Bytes of a page as stored; a page whose contents the spec does not give reads as free values. -/
def State.peatPage (s : State) (k page : Nat) : List Byte × State :=
  if (s.block k).gaps.any fun g => g.1 ≤ page && page < g.2 then
    let (ws, s) := s.frees 2048
    (wordsToBytes ws, s)
  else (SMap.getList 0 s.peatData (pageKey k page) 16384, s)

/-- The pages of an operation filled from data: page by page, planes interleaved (R231). -/
def State.peatFill (s : State) (o : NandOp) (bs : List Byte) : State :=
  let np := o.blocks.length
  (List.range (o.pages * np)).foldl (fun s i =>
    let k := o.blocks.getD (i % np) 0
    { s with peatData := SMap.setList 0 s.peatData (pageKey k (o.page + i / np)) ((bs.drop (16384 * i)).take 16384) }) s

/-! ### What a NAND operation's end does to its blocks (R220, R227) -/

/-- UNIT, INDEX of a die's records (R322). -/
def State.peatEvent (s : State) (k page cls code p0 : Nat) : State :=
  let owner := bitsOf (s.get .PEAT_DIE_OWNER_OWNER (keyDie k / 8)) (4 * (keyDie k % 8) + 3) (4 * (keyDie k % 8))
  s.event ⟨5, 7, keyDie k / 8 + placed (keyDie k % 8) 4, cls, if owner < 12 then owner else 15, code, p0, peatAddrOf k page⟩

/-- The disturb threshold of a mode (R227). -/
def disturbAt (mode : Nat) : Nat := if mode = 2 then 500000 else 100000

/-- Reads counted on a block (R227). -/
def State.countReads (s : State) (k page n : Nat) : State :=
  let b := s.block k
  let r := saturate 32 (b.reads + n)
  let hit := !b.disturb && disturbAt b.mode ≤ r
  let s := s.setBlock k { b with reads := r, disturb := b.disturb || hit }
  if hit && s.on .PEAT_CTL_DISTURB_EVENT 0 then s.peatEvent k page 12 stOk 3 else s

/-- Reads that the ladder made of a page, from the levels of its codewords (R223, R227). -/
def ladderReads (ls : List (Option Nat)) : Nat :=
  1 + (ls.map fun l => match l with | some 8 => 9 | some l => l | none => 9).foldl max 0

/-- The levels of the four codewords of page `i` of an operation; what the result does not list was corrected at level 0. -/
def pageLevels (r : NandResult) (i : Nat) : List (Option Nat) :=
  (List.range 4).map fun j => (r.levels.getD (4 * i + j) (some 0)).map (·.val)

/-- Highest ladder level of a page. -/
def pageLevel (ls : List (Option Nat)) : Nat := (ls.map fun l => l.getD 8).foldl max 0

/-- The codewords of a page counted (R237); an uncorrectable page latched and reported (R224). -/
def State.countLdpc (s : State) (k page : Nat) (ls : List (Option Nat)) : State :=
  let s := ls.foldl (fun s l => match l with
    | none => s.bump .PEAT_LDPC_COUNT_UNCORRECTABLE 0 1
    | some 0 => s
    | some 8 => s.bump .PEAT_LDPC_COUNT_SOFT 0 1
    | some _ => s.bump .PEAT_LDPC_COUNT_RETRY 0 1) s
  let s := s.countReads k page (ladderReads ls)
  if ls.any Option.isNone then
    (s.puts 0 [(.PEAT_LDPC_LAST_VALID, 1), (.PEAT_LDPC_LAST_LEVEL, 8), (.PEAT_LDPC_LAST_ADDRESS, peatAddrOf k page)]).peatEvent k page 3 stUncorrectable (placed 5 1)
  else s

/-- Pages of a read delivered in order until one is uncorrectable (R224, R236): the data, the pages read well, the highest level. -/
def State.readPages (s : State) (o : NandOp) (r : NandResult) : List Byte × Nat × Nat × State :=
  let np := o.blocks.length
  let step (acc : List Byte × Nat × Nat × State × Bool) (i : Nat) : List Byte × Nat × Nat × State × Bool :=
    let (bs, good, lvl, s, stop) := acc
    let k := o.blocks.getD (i % np) 0
    let page := o.page + i / np
    let ls := pageLevels r i
    let s := s.countLdpc k page ls
    if stop || ls.any Option.isNone then (bs, good, max lvl (pageLevel ls), s, true)
    else
      let (b, s) := s.peatPage k page
      (bs ++ b, good + 1, max lvl (pageLevel ls), s, false)
  let (bs, good, lvl, s, _) := (List.range (o.pages * np)).foldl step ([], 0, 0, s, false)
  (bs, good, lvl, s)

/-- Page ranges less the pages from `lo` to `hi`: those have been programmed. -/
def gapsOutside (gs : List (Nat × Nat)) (lo hi : Nat) : List (Nat × Nat) :=
  (gs.flatMap fun g => [(g.1, min g.2 lo), (max g.1 hi, g.2)]).filter fun g => g.1 < g.2

/-- A program finished (R220): pointers move, failed planes show it. -/
def State.programEnd (s : State) (o : NandOp) (r : NandResult) : State :=
  o.blocks.foldl (fun s k =>
    let b := s.block k
    let failed := r.failed.any fun f => f.val == keyPlane k
    let skipped := if b.ptr < o.page then [(b.ptr, o.page)] else []
    let lost := if failed then [(o.page, o.page + o.pages)] else []
    let s := s.setBlock k { b with ptr := max b.ptr (o.page + o.pages), progFail := b.progFail || failed, dirty := true, gaps := gapsOutside b.gaps o.page (o.page + o.pages) ++ skipped ++ lost }
    if failed then s.peatEvent k o.page 12 stOk 1 else s) s

/-- An erase finished (R220, R227). -/
def State.eraseEnd (s : State) (o : NandOp) (r : NandResult) : State :=
  o.blocks.foldl (fun s k =>
    let b := s.block k
    let failed := r.failed.any fun f => f.val == keyPlane k
    let s := { s with peatData := s.peatData.clearRange (pageKey k 0) (pageKey (k + 1) 0) }
    let s := s.setBlock k ⟨saturate 24 (b.erases + 1), 0, 0, o.mode, false, failed, false, false, true, if failed then [(0, 1536)] else []⟩
    if failed then s.peatEvent k 0 12 stOk 2 else s) s

/-! ### The commands' operations (R231) -/

/-- Fields of a peat address. -/
def paDie (a : Nat) : Nat := peatDie (bitsOf a 3 0) (bitsOf a 6 4)
def paPlane (a : Nat) : Nat := bitsOf a 8 7
def paBlock (a : Nat) : Nat := bitsOf a 20 9
def paPage (a : Nat) : Nat := bitsOf a 31 21
def paIsSlot (a : Nat) : Bool := bitOf a 32
def paSlot (a : Nat) : Nat := bitsOf a 59 33

/-- The block keys of a command's planes. -/
def paKeys (a planes : Nat) : List Nat := (List.range planes).map fun i => blockKey (paDie a) (paPlane a + i) (paBlock a)

/-- The operation a command needs next: none where it has none left, an error where it cannot be. -/
def State.nextOp (s : State) (k : CmdKind) : Option (Except Nat PeatOp) × State :=
  match k with
  | .peatRead a planes count i _ _ _ _ =>
    if count ≤ i then (none, s)
    else if paIsSlot a then
      if 134217728 ≤ paSlot a + i then (some (.error stBadPacket), s) else let (r, s) := s.slotOp (paSlot a + i) 0; (some r, s)
    else (some (.ok ⟨paDie a, ⟨0, paKeys a planes, paPage a + i, 1, 0⟩, 16384 * planes⟩), s)
  | .peatProgram a planes _ _ =>
    let ks := paKeys a planes
    let modes := ks.map fun k => (s.block k).mode
    let m := modes.headD 0
    if m = 0 ∨ modes.any (· != m) ∨ (m = 1 && paPage a % 3 != 0) then (some (.error stBadPacket), s)
    else
      let n := if m = 1 then 3 else 1
      (some (.ok ⟨paDie a, ⟨1, ks, paPage a, n, 0⟩, 16384 * n * planes⟩), s)
  | .peatErase a planes slc _ => (some (.ok ⟨paDie a, ⟨2, paKeys a planes, 0, 0, if slc then 2 else 1⟩, 0⟩), s)
  | .kvMove _ (m :: _) _ _ none _ =>
    if m.finished then (none, s)
    else if m.store = 2 then let (r, s) := s.slotOp m.dest 1; (some r, s)
    else if entStore m.old = 2 then let (r, s) := s.slotOp (entSlot m.old) 0; (some r, s)
    else (none, s)
  | _ => (none, s)

/-- Whether the command's next operation is at its die. -/
def CmdKind.nandIssued : CmdKind → Bool
  | .peatRead _ _ _ _ _ _ _ i | .peatProgram _ _ _ i | .peatErase _ _ _ i => i
  | .kvMove _ (m :: _) _ _ _ _ => m.issued
  | _ => false

/-- The die of the operation a command has issued. -/
def CmdKind.nandDie : CmdKind → Nat
  | .peatRead a _ _ i _ _ _ _ => if paIsSlot a then peatDie ((paSlot a + i) % 16) ((paSlot a + i) / 16 % 8) else paDie a
  | .peatProgram a _ _ _ | .peatErase a _ _ _ => paDie a
  | .kvMove _ (m :: _) _ _ _ _ => let sl := if m.store = 2 then m.dest else entSlot m.old; peatDie (sl % 16) (sl / 16 % 8)
  | _ => 128

def CmdKind.issueMark (i : Bool) : CmdKind → CmdKind
  | .peatRead a p c t d n l _ => .peatRead a p c t d n l i
  | .peatProgram a p s _ => .peatProgram a p s i
  | .peatErase a p m _ => .peatErase a p m i
  | .kvMove r (m :: ms) c n st g => .kvMove r ({ m with issued := i } :: ms) c n st g
  | k => k

/-- Whether it is a command whose operations go to the NAND. -/
def CmdKind.isNand : CmdKind → Bool
  | .peatRead _ _ _ _ _ _ _ _ | .peatProgram _ _ _ _ | .peatErase _ _ _ _ | .kvMove _ _ _ _ _ _ => true
  | _ => false

/-- KV_EVICT or KV_PREFETCH once nothing is left to copy and every change has committed (R192, R193). -/
def State.kvMoveEnd (s : State) (c : Cmd) : State :=
  match c.kind with
  | .kvMove _ [] [] moved st g => s.endCmd c (st.getD stOk) s.gust moved g
  | _ => s

/-- A NAND command stopped with a status (R224, R236): the result words say what was done; FAIL_KIND 1 is a program's source read uncorrectable (R231). -/
def State.nandStop (s : State) (c : Cmd) (st : Nat) : State :=
  match c.kind with
  | .peatRead _ _ _ _ _ done lvl _ => s.endCmd c st s.gust done lvl
  | .peatProgram _ _ _ _ => s.endCmd c st s.gust 0 (if st = stUncorrectable then 1 else 0)
  | .peatErase _ _ _ _ => s.endCmd c st s.gust 0 0
  | .kvMove r _ copied moved _ g =>
    let c' := { c with kind := .kvMove r [] copied moved (some st) g }
    (s.replaceCmd c c').kvMoveEnd c'
  | _ => s

/-- Device store and bytes that an operation of a command reads or writes besides the flash. -/
def State.nandDevice (s : State) (c : Cmd) (o : PeatOp) : Option (Store × Nat) :=
  match c.kind with
  | .peatRead _ _ _ _ dest done _ _ => s.devRange (dest + done) o.bytes
  | .peatProgram _ _ src _ => s.devRange src o.bytes
  | .kvMove _ (m :: _) _ _ _ _ => if m.store = 2 then s.devRange (entAddr m.old) 32768 else s.devRange m.dest 32768
  | _ => none

/-- What an attempt to issue came to. -/
inductive IssueRes where
  | waits
  | stops (status : Nat)
  | issued
  deriving DecidableEq, Repr

/-- The command's next operation issued to its die, if it may be (R222, R229, R230, R234). The source of a program is read here. -/
def State.nandIssue (s : State) (c : Cmd) (o : PeatOp) : State × IssueRes :=
  let p := c.q.part.val
  let dev := s.nandDevice c o
  let isErase := o.op.kind = 2
  if !s.nandAllowed o.op then (s, .stops stBadPacket)
  else if !isErase && dev.isNone then (s, .stops stBadPacket)
  else if dev.any fun d => s.anyWithdrawn d.1 d.2 o.bytes then (s, .stops stDisabled)
  else if !s.nandTempOk o.die o.op.kind then (s, .stops stTempWindow)
  else if s.inLull || (o.op.kind != 0 && s.get .PEAT_CTL_ACTIVE_MAX 0 ≤ s.activeDies) then (s, .waits)
  else if o.op.kind = 1 && !s.wearAllows o.bytes then (s.bump .PEAT_WEAR_STATUS_REFUSED 0 1, .stops stWearBudget)
  else
    let stores := bgPeat :: (match dev with | some d => d.1.bgOf | none => [])
    let res := resPeat :: (match dev with | some d => d.1.resOf | none => [])
    match s.grant p stores res o.bytes with
    | (none, s) => (s, .waits)
    | (some s, _) =>
      let s := { s with nand := s.nand.insert o.die o.op }
      if o.op.kind = 1 then
        match dev with
        | some (st, off) =>
          (match s.hostSideRead st off o.bytes with
           | (none, s) => ({ s with nand := s.nand.erase o.die }, .stops stUncorrectable)
           | (some bs, s) =>
             let s := (s.peatFill o.op bs).wearAdd o.bytes
             let k := match c.kind with
               | .kvMove r (m :: ms) cp n st g => .kvMove r ({ m with crc := some (crc32 bs) } :: ms) cp n st g
               | k => k
             (s.replaceCmd c { c with kind := CmdKind.issueMark true k }, .issued))
        | none => (s, .waits)
      else (s.replaceCmd c { c with kind := CmdKind.issueMark true c.kind }, .issued)

/-- A block record (R232). -/
def State.blockRecord (s : State) (k : Nat) : List Byte :=
  let b := s.block k
  toBytesLE 8 (b.erases + placed b.reads 32) ++
    toBytesLE 8 (b.ptr + placed b.mode 11 + placed (Bool.bit (s.peatBad.contains k)) 13 + placed (Bool.bit b.progFail) 14 + placed (Bool.bit b.eraseFail) 15 +
      placed (Bool.bit b.disturb) 16 + placed (Bool.bit b.undef) 17)

/-- The records of a PEAT_STATUS written once the lull, the bank, the allowance and the regulator of its destination let it (R234). -/
def State.statusRun (s : State) (c : Cmd) : State :=
  match c.kind with
  | .peatStatus ks dest =>
    let n := 16 * ks.length
    (match s.devRange dest n with
     | none => s.endCmd c stBadPacket s.gust 0 0
     | some (st, off) =>
       if s.anyWithdrawn st off n then s.endCmd c stDisabled s.gust 0 0
       else if s.inLull || s.bankHeld st off n then s
       else match s.grant c.q.part.val st.bgOf st.resOf n with
         | (none, s) => s
         | (some s, _) =>
           let (s, refused) := s.hostWrite st off (ks.flatMap s.blockRecord)
           let bad := (ks.filter fun k => s.peatBad.contains k).length
           let failed := (ks.filter fun k => (s.block k).progFail || (s.block k).eraseFail).length
           let good := (ks.filter fun k => !s.peatBad.contains k && !(s.block k).progFail && !(s.block k).eraseFail).length
           if refused then s.endCmd c stUncorrectable s.gust 0 0 else s.endCmd c stOk s.gust (good + placed bad 32) failed)
  | _ => s

/-- One pass over the commands in start order: each issues its next operation where its die is free and no earlier command waits for it (R222). -/
def State.peatPass (s : State) : State :=
  let step (acc : State × List Nat) (c : Cmd) : State × List Nat :=
    let (s, blocked) := acc
    if !c.kind.isNand || c.kind.nandIssued then acc
    else match s.nextOp c.kind with
      | (none, s) => (s, blocked)
      | (some (.error e), s) => (s.nandStop c e, blocked)
      | (some (.ok o), s) =>
        if blocked.contains o.die || s.nand.any fun e => e.1 == o.die then (s, o.die :: blocked)
        else match s.nandIssue c o with
          | (s, .waits) => (s, o.die :: blocked)
          | (s, .stops e) => (s.nandStop c e, blocked)
          | (s, .issued) => (s, o.die :: blocked)
  if s.powerHeld then s
  else
    let s := (s.cmds.foldl step (s, [])).1
    s.cmds.foldl State.statusRun s

/-- FAIL_KIND and the failing plane (R231). -/
def failWord (kind : Nat) (r : NandResult) (o : NandOp) : Nat :=
  match o.blocks.find? fun k => r.failed.any fun f => f.val == keyPlane k with
  | some k => kind + placed (keyPlane k) 4
  | none => 0

/-- A command whose operation at a die has finished goes on (R224, R231, R236). -/
def State.nandDone (s : State) (c : Cmd) (o : NandOp) (r : NandResult) : State :=
  let failWord' := failWord (o.kind + 1) r o
  match c.kind with
  | .peatRead a planes count i dest done lvl _ =>
    let (bs, good, l, s) := s.readPages o r
    let lvl := max lvl l
    let (s, refused) := match s.devRange (dest + done) bs.length with
      | some (st, off) => s.hostWrite st off bs
      | none => (s, true)
    let done := done + bs.length
    if refused && !bs.isEmpty then s.endCmd c stUncorrectable s.gust (done - bs.length) lvl
    else if good < o.blocks.length then s.endCmd c stUncorrectable s.gust done (lvl + placed (i * o.blocks.length + good) 32)
    else if count ≤ i + 1 then s.endCmd c stOk s.gust done lvl
    else s.replaceCmd c { c with kind := .peatRead a planes count (i + 1) dest done lvl false }
  | .peatProgram _ _ _ _ =>
    let s := s.programEnd o r
    let ok := (o.blocks.filter fun k => !(r.failed.any fun f => f.val == keyPlane k)).length
    s.endCmd c (if failWord' = 0 then stOk else stUncorrectable) s.gust (16384 * o.pages * ok) failWord'
  | .peatErase _ _ _ _ =>
    (s.eraseEnd o r).endCmd c (if failWord' = 0 then stOk else stUncorrectable) s.gust 0 failWord'
  | .kvMove root (m :: ms) copied moved st g =>
    if m.store = 2 then
      let s := s.programEnd o r
      if failWord' ≠ 0 then s.nandStop c stUncorrectable
      else s.replaceCmd c { c with kind := .kvMove root ({ m with issued := false, finished := true } :: ms) copied moved st g }
    else
      let (bs, good, _, s) := s.readPages o r
      let hdr := match s.devRange m.header 256 with
        | some (hs, ho) => s.peekWord hs (ho + 0x28)
        | none => 0
      let crcBad := flagOf hdr 32 && fieldOf hdr 31 0 != crc32 bs
      if good < o.blocks.length || crcBad then s.nandStop c stUncorrectable
      else match s.devRange m.dest 32768 with
        | some (ds, doff) =>
          let (s, refused) := s.store ds doff bs
          if refused then s.nandStop c stUncorrectable
          else s.replaceCmd c { c with kind := .kvMove root ({ m with issued := false, finished := true } :: ms) copied moved st g }
        | none => s.nandStop c stBadPacket
  | _ => s

/-- Blocks of an operation whose command was dropped (R236): it still completes. -/
def State.nandOrphan (s : State) (o : NandOp) (r : NandResult) : State :=
  if o.kind = 1 then s.programEnd o r else if o.kind = 2 then s.eraseEnd o r else (s.readPages o r).2.2.2

/-- PEAT_NAND_DONE (R222): the operation at a die finishes. -/
def peatNandDone (ch die : Nat) (r : NandResult) (s : State) : State :=
  let d := peatDie ch die
  match s.nand.find? fun e => e.1 == d with
  | none => s
  | some (_, o) =>
    let s := { s with nand := s.nand.erase d }
    let mine := s.cmds.find? fun c => c.kind.nandIssued && c.kind.nandDie == d
    (match mine with
     | some c => s.nandDone c o r
     | none => s.nandOrphan o r).peatPass

/-- PEAT_NAND_DONE. -/
def execPeatNandDone (ch : Fin 16) (die : Fin 8) (res : NandResult) (s : State) : Host.Outcome State Fault Refusal :=
  .next (s.whenClocked (peatNandDone ch.val die.val res))

/-! ### The commands (R231) -/

/-- Whether the issuer may use a die (R233). -/
def State.ownsPeatDie (s : State) (q : Req) (d : Nat) : Bool :=
  s.get .HST_RING_CTL_OWNER q.ring.val == 0 || bitsOf (s.get .PEAT_DIE_OWNER_OWNER (d / 8)) (4 * (d % 8) + 3) (4 * (d % 8)) == q.part.val

/-- Whether a device range is in fen, marsh or the cache, for DEST and SRC (R231). -/
def State.peatDeviceOk (s : State) (q : Req) (a n : Nat) : Bool :=
  match s.cmdRange q.part.val a n with
  | some (.pool _, _) => false
  | some _ => true
  | none => false

/-- Reason codes of a peat address and its planes, or of the `count` slots from a slot address: reserved bits, ranges, journal blocks, foreign dies. -/
def State.peatAddrReason (s : State) (q : Req) (a planes count : Nat) (slots : Bool) : Nat :=
  if bitsOf a 63 60 ≠ 0 then 2
  else if paIsSlot a then
    if !slots ∨ bitsOf a 31 0 ≠ 0 then 5
    else if (List.range count).all fun k => s.ownsPeatDie q (peatDie ((paSlot a + k) % 16) ((paSlot a + k) / 16 % 8)) then 0 else 6
  else if paSlot a ≠ 0 then 2
  else if planes < 1 ∨ 4 < planes ∨ 4 < paPlane a + planes ∨ 2800 ≤ paBlock a ∨ 1536 ≤ paPage a ∨ (paKeys a planes).any journalBlock then 5
  else if s.ownsPeatDie q (paDie a) then 0 else 6

/-- The slots of a read checked before any flash is touched (R220, R221): the status that refuses it. -/
def State.slotsRefused (s : State) (slot count : Nat) : Option Nat × State :=
  (List.range count).foldl (fun (acc : Option Nat × State) i =>
    match acc with
    | (some e, s) => (some e, s)
    | (none, s) =>
      if 134217728 ≤ slot + i then (some stBadPacket, s)
      else match s.slotOp (slot + i) 0 with
        | (.error e, s) => (some e, s)
        | (.ok o, s) => (if s.nandAllowed o.op then none else some stBadPacket, s)) (none, s)

/-- A command checked before any flash is touched: the status that refuses it. -/
def State.peatRefused (s : State) (k : CmdKind) : Option Nat × State :=
  match k with
  | .peatRead a planes count _ _ _ _ _ =>
    if paIsSlot a then s.slotsRefused (paSlot a) count
    else (if s.nandAllowed ⟨0, paKeys a planes, paPage a, count, 0⟩ then none else some stBadPacket, s)
  | k =>
    match s.nextOp k with
    | (some (.error e), s) => (some e, s)
    | (some (.ok o), s) => (if s.nandAllowed o.op then none else some stBadPacket, s)
    | (none, s) => (some stOk, s)

/-- A peat command started: refused while disabled, checked, then issued as it may be. -/
def peatStart (q : Req) (op : Nat) (k : CmdKind) (s : State) : State :=
  if s.inForce .PEAT_CTL_ENABLE 0 = 0 then s.done q stDisabled
  else match s.peatRefused k with
    | (some e, s) => s.done q e
    | (none, s) => (s.startCmd q op k).peatPass

def opPeatRead : HostOp := ⟨0x20, .anyOr15, [word64, bitsMask 2 0 + bitsMask 24 16, addrMask]⟩

/-- PEAT_READ. -/
def execPeatRead (q : Req) (p0 p1 p2 : Word) (s : State) : Host.Outcome State Fault Refusal :=
  let planes := if paIsSlot p0.toNat then 2 else fieldOf p1 2 0
  let count := fieldOf p1 24 16
  hostRow opPeatRead q [p0, p1, p2]
    (fun s =>
      let r := s.peatAddrReason q p0.toNat planes count true
      if r ≠ 0 then r else if count < 1 ∨ 256 < count then 5 else if s.peatDeviceOk q p2.toNat (16384 * planes * count) then 0 else 6)
    (peatStart q 0x20 (.peatRead p0.toNat planes count 0 p2.toNat 0 0 false)) s

def opPeatProgram : HostOp := ⟨0x21, .anyOr15, [word64, bitsMask 2 0, addrMask]⟩

/-- PEAT_PROGRAM. -/
def execPeatProgram (q : Req) (p0 p1 p2 : Word) (s : State) : Host.Outcome State Fault Refusal :=
  let planes := fieldOf p1 2 0
  hostRow opPeatProgram q [p0, p1, p2]
    (fun s =>
      let r := s.peatAddrReason q p0.toNat planes 1 false
      let n := if (s.block ((paKeys p0.toNat planes).headD 0)).mode = 1 then 3 else 1
      if r ≠ 0 then r else if s.peatDeviceOk q p2.toNat (16384 * planes * n) then 0 else 6)
    (peatStart q 0x21 (.peatProgram p0.toNat planes p2.toNat false)) s

def opPeatErase : HostOp := ⟨0x22, .anyOr15, [word64, bitsMask 2 0 + 2 ^ 8]⟩

/-- PEAT_ERASE. -/
def execPeatErase (q : Req) (p0 p1 : Word) (s : State) : Host.Outcome State Fault Refusal :=
  let planes := fieldOf p1 2 0
  hostRow opPeatErase q [p0, p1]
    (fun s =>
      let r := s.peatAddrReason q p0.toNat planes 1 false
      if r ≠ 0 then r else if paPage p0.toNat ≠ 0 then 5 else 0)
    (peatStart q 0x22 (.peatErase p0.toNat planes (flagOf p1 8) false)) s

/-- PEAT_STATUS begun: its records are written as background traffic (R32, R234). -/
def peatStatus (q : Req) (ks : List Nat) (dest : Nat) (s : State) : State :=
  if s.inForce .PEAT_CTL_ENABLE 0 = 0 then s.done q stDisabled else (s.startCmd q 0x23 (.peatStatus ks dest)).peatPass

def opPeatStatus : HostOp := ⟨0x23, .anyOr15, [bitsMask 20 0, bitsMask 11 0, addrMask]⟩

/-- PEAT_STATUS. -/
def execPeatStatus (q : Req) (p0 p1 p2 : Word) (s : State) : Host.Outcome State Fault Refusal :=
  let d := peatDie (fieldOf p0 3 0) (fieldOf p0 6 4)
  let count := fieldOf p1 11 0
  let ks := (List.range count).map fun i => blockKey d (fieldOf p0 8 7) (fieldOf p0 20 9 + i)
  hostRow opPeatStatus q [p0, p1, p2]
    (fun s =>
      if count < 1 ∨ 2800 < fieldOf p0 20 9 + count ∨ ks.any journalBlock then 5
      else if !s.ownsPeatDie q d then 6
      else if s.peatDeviceOk q p2.toNat (16 * count) then 0 else 6)
    (peatStatus q ks p2.toNat) s

/-! ### Map, enable, counters (R221, R228, R230, R234) -/

/-- A host write of a map entry (R221): three copies, from the next boundary. -/
def peatMapWrite (i v : Nat) (s : State) : State :=
  { s with peatMapNew := s.peatMapNew.insert i (v % 4096 + placed (Bool.bit (bitOf v 15)) 15) }.put .PEAT_MAP_STATUS_PENDING 0 1

/-- PEAT_MAP_WRITE: the map has 524,288 entries. -/
def execPeatMapWrite (i : Nat) (v : Word) (s : State) : Host.Outcome State Fault Refusal :=
  if i < 524288 then .next (s.whenClocked (peatMapWrite i v.toNat)) else .fault .illFormed

/-- Pending map writes applied at a boundary. -/
def State.applyPeatMap (s : State) : State :=
  { s with peatMap := s.peatMapNew.foldl (fun (m : SMap (Tri Nat)) (e : Nat × Nat) => SMap.set m e.1 (Tri.of e.2) (Tri.of 0)) s.peatMap, peatMapNew := [] }.put .PEAT_MAP_STATUS_PENDING 0 0

/-- A write of PEAT_CTL (R234): ENABLE takes effect at the next boundary. -/
def peatCtlWrite (v m : Nat) (s : State) : State :=
  ((s.writeFieldLater .PEAT_CTL_ENABLE 0 v m).writeField .PEAT_CTL_ACTIVE_MAX 0 v m).writeField .PEAT_CTL_DISTURB_EVENT 0 v m

/-- PEAT_CTL_ENABLE. -/
def execPeatCtlEnable (v : Word) (s : State) : Host.Outcome State Fault Refusal := .next (s.whenClocked (peatCtlWrite (v.toNat % 2 ^ 32) (2 ^ 32 - 1)))

/-- The counters saved to the journal (R228). -/
def State.savePeat (s : State) : State :=
  let bs := s.peatBlocks.map fun e => (e.1, { e.2 with dirty := false })
  { s with peatBlocks := bs, peatSaved := bs, wearSaved := s.wear }

/-- PEAT_COUNTER_SAVE. -/
def execPeatCounterSave (s : State) : Host.Outcome State Fault Refusal := .next (s.whenClocked State.savePeat)

/-- The one-minute count advances (R230). -/
def wearMinute (s : State) : State := { s with wear := 0 :: s.wear.take 1439 }

/-- WEAR_MINUTE: time in Off does not advance the window. -/
def execWearMinute (s : State) : Host.Outcome State Fault Refusal :=
  .next (if s.get .PWR_STATE_STATE 0 = 4 then s else wearMinute s)

end Sys2Proof.Machine
end

