-- ==== Sys2Proof/Machine/Observe.lean ====
section
/-!
DEFINITION. Registers as a reader finds them: fields that show what a unit is doing are computed from that unit's state, fields that count time are free
values (notes/assumptions/2.md), every other field reads as held (R5, R6).
-/
namespace Sys2Proof.Machine

/-- Resolutions in progress of the descriptor at the head (R186, R195): up to eight of those not yet done. -/
def Core.walksNow (k : Core) : Nat :=
  match k.kvq with
  | [] => 0
  | w :: _ => min 8 ((WalkDesc.of w).walks - k.kvDone)

/-- Whether a command counts as in progress: the BAR2 window's accesses are not commands (R282). -/
def Cmd.counted (c : Cmd) : Bool := match c.kind with | .windowRead _ _ _ | .windowWrite _ _ _ => false | _ => true

/-- Pages of a partition's moves copied, or being copied, whose entry change has not committed (R195). -/
def State.movesInFlight (s : State) (p : Nat) : Nat :=
  (s.cmds.map fun c => match c.kind with
    | .kvMove _ left copied _ stop _ => if c.q.part.val = p then copied.length + (if stop.isNone then min 1 left.length else 0) else 0
    | _ => 0).sum

/-- Whether all units of the core in the 6-bit mask have completed what has been issued to them (R95). -/
def Core.unitsDone (k : Core) (m : Nat) : Bool :=
  (!bitOf m 0 || (k.aq.isEmpty && k.drain.length ≤ 8)) && (!bitOf m 1 || k.vq.isEmpty) && (!bitOf m 2 || k.rq.isEmpty) &&
    (!bitOf m 3 || (k.attq.isEmpty && k.attRun.isEmpty)) && (!bitOf m 4 || k.kvq.isEmpty) && (!bitOf m 5 || k.netq.isEmpty)

/-- Whether an array descriptor loads a tile of array `a` (R46, R48, R60). -/
def loadsArray (w : List Word) (a : Nat) : Bool := fieldOf (wordAt w 0) 3 0 != 3 && !flagOf (wordAt w 0) 18 && bitOf (fieldOf (wordAt w 0) 7 4) a

/-- The next queued pass that loads array `a`. -/
def Core.nextLoad (k : Core) (a : Nat) : Option (List Word) := k.aq.find? fun w => loadsArray w a

/-- Arrays whose shadow is still to be loaded for a queued pass (R64). -/
def Core.loading (k : Core) : Nat :=
  (List.range 4).foldl (fun n a => if (k.nextLoad a).isSome && !(k.shadow.any fun e => e.1 == a) then n + 2 ^ a else n) 0

/-- Arrays that hold output rows for which the vector unit has no room: their pass is in flight (R63, R64). -/
def Core.streaming (k : Core) : Nat := if k.drain.length ≤ 8 then 0 else k.flow

/-- Whether a core has reached the end of its slot (R96): the slot-end store made and every unit's issued work complete. -/
def Core.ended (k : Core) : Bool := k.slotEnd && !k.trapHalt && k.unitsDone 63

/-- Grains that hold banks of a slice. -/
def State.banksHeld (s : State) (c : Nat) : Nat := ((List.range 128).filter fun b => s.on .FEN_BANK_CTL_GRAIN (ix2 128 c b)).length

/-- Spare rows taken in a bank (R118): its entries in the repair map. `i` is 128 × site + bank. -/
def State.rowsTaken (s : State) (i : Nat) : Nat :=
  let loc := i / 128 / 68 + placed (i / 128 % 68) 4 + placed (i % 128) 11
  (s.repairMap.filter fun t => match t.shown with
    | some w => fieldOf (wordAt w 0) 3 0 == 2 && fieldOf (wordAt w 1) 17 0 == loc
    | none => false).length

/-- A field's value as a read returns it, for the fields computed from a unit's state. -/
def State.seen (s : State) (f : Fld) (i : Nat) : Nat :=
  match f.reg with
  | .HST_FUNC_CTL => if f = .HST_FUNC_CTL_BOUND ∧ i = 0 then 1 else s.get f i
  | .HST_CP_STATUS => if f = .HST_CP_STATUS_IN_PROGRESS then (s.cmds.filter Cmd.counted).length else s.get f i
  | .HST_RING_STATUS =>
    if f = .HST_RING_STATUS_IN_PROGRESS then (s.cmds.filter fun c => c.counted && c.q.ring.val == i).length else s.get f i
  | .PEAT_STATE => if f = .PEAT_STATE_ACTIVE then (s.nand.filter fun e => e.2.kind != 0).length else s.get f i
  | .PEAT_WEAR_STATUS => if f = .PEAT_WEAR_STATUS_USED_GB then s.wearUsed / 1000000000 else s.get f i
  | .KVW_MOVE_STATUS => if f = .KVW_MOVE_STATUS_IN_FLIGHT then min 0xFFFF (s.movesInFlight i) else s.get f i
  | .KVW_STAGE => if f = .KVW_STAGE_WORDS then (SMap.get s.stage i []).length else s.get f i
  | .CORE_ARR_STATUS =>
    if f = .CORE_ARR_STATUS_QUEUE then (s.core i).aq.length
    else if f = .CORE_ARR_STATUS_LOADING then (s.core i).loading
    else if f = .CORE_ARR_STATUS_STREAMING then (s.core i).streaming
    else s.get f i
  | .ARR_CTL =>
    if f = .ARR_CTL_BUSY then Bool.bit (bitOf (s.core (i / 4)).streaming (i % 4) || (s.core (i / 4)).aq.any fun w => bitOf (fieldOf (wordAt w 0) 7 4) (i % 4)) else s.get f i
  | .CORE_PROG_STATUS =>
    if f = .CORE_PROG_STATUS_STATE ∧ s.get f i = 1 ∧ (s.core i).ended then 2 else s.get f i
  | .VEC_STATUS =>
    if f = .VEC_STATUS_QUEUE then (s.core i).vq.length else if f = .VEC_STATUS_TOPK_COUNT then (s.core i).topk.length else s.get f i
  | .REED_STATUS =>
    if f = .REED_STATUS_QUEUE then ((s.core i).rq.filter fun o => !o.started).length
    else if f = .REED_STATUS_BANKS_HELD then s.banksHeld i
    else if f = .REED_STATUS_THROTTLE then s.get .THM_SITE_LEVEL i else s.get f i
  | .ATT_STATUS =>
    if f = .ATT_STATUS_RUNNING then (s.core i).attRun.length else if f = .ATT_STATUS_QUEUE then (s.core i).attq.length else s.get f i
  | .KVW_STATUS =>
    if f = .KVW_STATUS_LB_VALID then (s.core i).lb.length else if f = .KVW_STATUS_QUEUE then (s.core i).kvq.length - 1
    else if f = .KVW_STATUS_WALKS then (s.core i).walksNow else s.get f i
  | .PART_LOST => if f = .PART_LOST_IN_WINDOW then min 3 s.recentLosses.length else s.get f i
  | .FEN_BANK_CTL => if f = .FEN_BANK_CTL_SPARE_ROWS_USED then s.rowsTaken i else s.get f i
  | .FEN_REFRESH_STATUS => if f = .FEN_REFRESH_STATUS_BAND then s.fenBand i else s.get f i
  | .MRS_STATUS => if f = .MRS_STATUS_BAND then s.marshBand i else s.get f i
  | _ => s.get f i

/-- Fields that count time, or events whose number depends on it, and the levels of two input pins that no row of the
table shows (R437, DEDUCED, log entry 46). -/
def Fld.timed (f : Fld) : Bool :=
  [Fld.CORE_FEEDER_STATS_STALL_CYCLES, .FEN_STATS_REFRESH_WAIT_NS, .FEN_STATS_CONFLICTS, .REED_STATS_BOUNDARY_WAIT_NS, .MON_TIME_NS,
    .BOOT_PINS_STILL_N, .BOOT_PINS_GUST_SYNC].contains f

/-- A register's value as a read returns it. -/
def State.readReg (s : State) (r : RegName) (i : Nat) : Nat × State :=
  r.fields.foldl (fun acc f =>
    if f.acc == .wo then acc
    else if f.timed then
      let (w, s) := acc.2.free
      (acc.1 + placed (w.toNat % 2 ^ f.width) f.lo, s)
    else (acc.1 + placed (saturate f.width (acc.2.seen f i)) f.lo, acc.2)) (0, s)

end Sys2Proof.Machine
end

