-- ==== Sys2Proof/Machine/Vector.lean ====
section
/-!
DEFINITION. The vector unit (R84 to R89, R97, R98): the instruction word, its checks, the lane operations, reductions, the top-k unit, the Philox generator,
and the queue that runs instructions in order. Where R85 to R89 leave a reading open, notes/assumptions/31.md says which the model takes.
-/
namespace Sys2Proof.Machine

/-- A vector instruction (R85). -/
structure VecIns where
  op : Nat
  vd : Nat
  va : Nat
  vb : Nat
  vc : Nat
  mask : Nat
  scaled : Bool
  fmt : Nat
  space : Nat
  draw : Nat
  count : Nat
  operand : Nat
  deriving DecidableEq, Repr

def VecIns.of (w : List Word) : VecIns :=
  let w0 := wordAt w 0
  ⟨fieldOf w0 7 0, fieldOf w0 12 8, fieldOf w0 17 13, fieldOf w0 22 18, fieldOf w0 27 23, fieldOf w0 30 28, flagOf w0 31, fieldOf w0 35 32,
   fieldOf w0 37 36, fieldOf w0 47 40, fieldOf w0 52 48, (wordAt w 1).toNat⟩

/-- Opcodes of R86. -/
def vecOps : List Nat :=
  [0x01, 0x02, 0x03, 0x10, 0x11, 0x12, 0x13, 0x14, 0x15, 0x16, 0x17, 0x18, 0x19, 0x1A, 0x1B, 0x20, 0x21, 0x22, 0x23, 0x28, 0x29, 0x2A, 0x2B, 0x2C,
   0x30, 0x31, 0x32, 0x33, 0x38]

/-- Lane formats of R85: the codes of R61, then FP32; none for raw words. -/
def vecFmt (code : Nat) : Option Fmt := if code = 6 then some .fp32 else Fmt.ofCode code

/-- Bits of a stored element. -/
def vecBits (code : Nat) : Nat := match vecFmt code with | some f => f.bits | none => 32

/-- Bytes of a memory operand (R85). -/
def VecIns.bytes (i : VecIns) : Nat := 32 * vecBits i.fmt + if i.scaled then 8 else 0

/-- The scale rule of a memory operand (R67, R85). -/
def vecScaleOk (fmt : Nat) (scaled : Bool) : Bool :=
  if fmt = 2 ∨ fmt = 4 then scaled else if 5 ≤ fmt then !scaled else true

/-- The checks of R86: an instruction that fails one is invalid. -/
def VecIns.valid (i : VecIns) (w : List Word) : Bool :=
  let w0 := wordAt w 0
  let store := if i.space = 0 then 0x48000000 else 0x400000
  vecOps.contains i.op && fieldOf w0 39 38 == 0 && fieldOf w0 63 53 == 0 && i.fmt < 8 && i.space < 2 &&
    (if i.op = 1 ∨ i.op = 2 then i.operand % 64 == 0 && i.operand + i.bytes ≤ store && vecScaleOk i.fmt i.scaled else true) &&
    (i.op != 0x18 || i.vd < 8) && (i.op != 0x19 || i.vc < 8) && (!(i.op == 0x2B || i.op == 0x2C) || i.va < 8) &&
    (!(i.op == 0x28 || i.op == 0x29) || i.va + i.count < 32) && (i.op != 0x30 || (1 ≤ i.operand && i.operand ≤ 64)) &&
    (i.op != 0x33 || i.vd < 31) && (i.op != 0x38 || i.fmt == 6 || i.fmt == 7)

/-- A vector register's 256 lanes. -/
def Core.vreg (k : Core) (r : Nat) : List F32 := SMap.getList 0 k.v (256 * r) 256

/-- A mask register; K0 reads as all ones (R84). -/
def Core.kreg (k : Core) (n : Nat) : Nat := if n = 0 then 2 ^ 256 - 1 else (SMap.get k.k n 0).toNat

/-- The lanes of a mask, lowest first. -/
def laneList (m : Nat) : List Nat := setBits 256 m

/-- Results written to the active lanes of a register; the others keep their value (R84). -/
def Core.vput (k : Core) (r m : Nat) (f : Nat → F32) : Core :=
  { k with v := (laneList m).foldl (fun v i => SMap.set v (256 * r + i) (f i) 0) k.v }

/-- A mask register written; K0 ignores writes (R84). -/
def Core.kput (k : Core) (n v : Nat) : Core := if n = 0 then k else { k with k := SMap.set k.k n (BitVec.ofNat 256 v) 0 }

/-- A lane operation: results with the flags they raise, written to the active lanes. -/
def State.vecLanes (s : State) (c : Nat) (i : VecIns) (f : Nat → F32 × Nat) : State :=
  let m := (s.core c).kreg i.mask
  let rs := (laneList m).map fun l => (l, f l)
  let s := s.modCore c fun k => { k with v := rs.foldl (fun v e => SMap.set v (256 * i.vd + e.1) e.2.1 0) k.v }
  s.numFlags c (rs.foldl (fun fl e => fl ||| e.2.2) 0)

/-! ### Memory operands -/

def VecIns.store (i : VecIns) (c : Nat) : Store := if i.space = 0 then .fen c else .pool c

/-- One element loaded, with the flags it raises (R67, R70). -/
def vecLoadLane (i : VecIns) (bs : List Byte) (l : Nat) : F32 × Nat :=
  match vecFmt i.fmt with
  | none => (BitVec.ofNat 32 (ofBytesLE ((bs.drop (4 * l)).take 4)), 0)
  | some f =>
    let x := f.decode (elemBits f bs l)
    if i.scaled then
      let code := (bs.getD (32 * f.bits + l / 32) 0).toNat
      let (v, fl) := roundF32 (x.mul (scaleNum code))
      (v, fl ||| if code = 255 then flScaleNan else 0)
    else roundF32 x

/-- A byte list with element `k` replaced. -/
def setElem (f : Nat) (bs : List Byte) (k v : Nat) : List Byte :=
  if f = 4 then
    let b := (bs.getD (k / 2) 0).toNat
    bs.set (k / 2) (BitVec.ofNat 8 (if k % 2 = 0 then b / 16 * 16 + v % 16 else b % 16 + 16 * (v % 16)))
  else
    let n := f / 8
    bs.take (n * k) ++ toBytesLE n v ++ bs.drop (n * k + n)

/-- The bytes that a store leaves: active elements converted (R70), with the scale of each block that has one chosen by R71 over its active lanes. -/
def vecStoreBytes (i : VecIns) (m : Nat) (va : List F32) (old : List Byte) : List Byte × Nat :=
  match vecFmt i.fmt with
  | none => ((laneList m).foldl (fun bs l => setElem 32 bs l (va.getD l 0).toNat) old, 0)
  | some f =>
    if i.scaled then
      (List.range 8).foldl (fun acc b =>
        let ls := (laneList m).filter fun l => l / 32 == b
        if ls.isEmpty then acc
        else
          let (code, vs, fl) := convertBlock f (ls.map fun l => ofF32 (va.getD l 0))
          let bs := (ls.zip vs).foldl (fun bs e => setElem f.bits bs e.1 e.2) acc.1
          (bs.set (32 * f.bits + b) (BitVec.ofNat 8 code), acc.2 ||| fl)) (old, 0)
    else
      (laneList m).foldl (fun acc l =>
        let r := f.convert (ofF32 (va.getD l 0))
        (setElem f.bits acc.1 l r.bits, acc.2 ||| r.flags)) (old, 0)

/-- Whether every lane is active. -/
def allLanes (m : Nat) : Bool := m % 2 ^ 256 == 2 ^ 256 - 1

/-- What a store does to unit `u` of its operand, `n` bytes long: nothing, all of its bytes, or some of their bits, which takes a read-modify-write
(R84, R97, R117). The bytes that a store leaves over all zeros and over all ones tell them apart. -/
inductive UnitUse where
  | untouched
  | whole
  | part
  deriving DecidableEq, Repr

def vecUnitUse (i : VecIns) (m : Nat) (va : List F32) (n u : Nat) : UnitUse :=
  let cut (b : Byte) : List Byte := ((vecStoreBytes i m va (List.replicate i.bytes b)).1.drop (u * n)).take n
  if cut 0 = (cut 0).map (fun _ => 0) ∧ cut 0xFF = (cut 0xFF).map (fun _ => 0xFF) then .untouched
  else if cut 0 = cut 0xFF ∧ (cut 0).length = n then .whole
  else .part

/-- A read of the units that a store merges into: the operand as they deliver it, padded to whole units, and whether one was uncorrectable. -/
def State.vecMergeRead (s : State) (st : Store) (i : VecIns) (use : Nat → UnitUse) : List Byte × Bool × State :=
  let n := st.unit
  (List.range ((i.bytes + n - 1) / n)).foldl (fun acc u =>
    if use u = .part then
      let r := acc.2.2.readMem st (i.operand + u * n) n
      (acc.1 ++ r.bytes, acc.2.1 || r.bad, r.st.eccEvents r.notes)
    else (acc.1 ++ acc.2.2.rawBytes st (i.operand + u * n) n, acc.2)) ([], false, s)

/-- VST (R86): active elements go to memory, and what lies under inactive lanes stays. A merge that meets uncorrectable data drops the instruction (R97). -/
def State.vecStore (s : State) (c : Nat) (i : VecIns) : State :=
  let st := i.store c
  let p := s.diePart (dieOf c)
  let n := st.unit
  let m := (s.core c).kreg i.mask
  let va := (s.core c).vreg i.va
  let use := if allLanes m && i.bytes % n == 0 then fun _ => .whole else vecUnitUse i m va n
  let (old, bad, s) := s.vecMergeRead st i use
  if bad then s.flagPart p 3 stUncorrectable
  else
    let (bs, fl) := vecStoreBytes i m va (old.take i.bytes)
    let new := bs ++ old.drop i.bytes
    let s := (List.range ((i.bytes + n - 1) / n)).foldl (fun s u =>
      if use u = .untouched then s
      else
        let s := s.noteWrite p st (i.operand + u * n) (min n (i.bytes - u * n))
        ((s.store st (i.operand + u * n) ((new.drop (u * n)).take n)).1).unitWrote c st (i.operand + u * n) (min n (i.bytes - u * n))) s
    s.numFlags c fl

/-! ### Reductions (R87) -/

/-- −0, the additive identity. -/
def negZero : F32 := 0x80000000

/-- Halving of the lanes: s[i] with s[i + h], for h from half the length down. `fuel` bounds the levels. -/
def halve (op : F32 → F32 → F32 × Nat) : Nat → List F32 → Nat → F32 × Nat
  | 0, xs, fl => (xs.headD negZero, fl)
  | fuel + 1, xs, fl =>
    if xs.length ≤ 1 then (xs.headD negZero, fl)
    else
      let h := xs.length / 2
      let rs := (xs.take h).zipWith op (xs.drop h)
      halve op fuel (rs.map (·.1)) (rs.foldl (fun fl r => fl ||| r.2) fl)

/-- VRSUM and VRMAX (R87): registers accumulated lane by lane, then the lanes halved; a masked lane contributes −0. -/
def vecReduce (op : F32 → F32 → F32 × Nat) (m : Nat) (regs : List (List F32)) : F32 × Nat :=
  let masked := regs.map fun r => r.zipIdx.map fun e => if bitOf m e.2 then e.1 else negZero
  match masked with
  | [] => (negZero, 0)
  | r :: rs =>
    let (xs, fl) := rs.foldl (fun acc r =>
      let ys := acc.1.zipWith op r
      (ys.map (·.1), ys.foldl (fun fl y => fl ||| y.2) acc.2)) (r, 0)
    halve op 8 xs fl

/-- VPREFIX (R87): the running sums of the active lanes. -/
def vecPrefix (m : Nat) (va : List F32) : List (Nat × F32) × Nat :=
  let (acc, _, fl) := (laneList m).foldl (fun (a : List (Nat × F32) × F32 × Nat) l =>
    let (t, f) := fadd a.2.1 (va.getD l 0)
    (a.1 ++ [(l, t)], t, a.2.2 ||| f)) ([], negZero, 0)
  (acc, fl)

/-! ### Top-k (R88) -/

/-- Whether a pair ranks above another (R88). -/
def topAbove (a b : F32 × Nat) : Bool :=
  let x := ofF32 a.1
  let y := ofF32 b.1
  if x.isNan && y.isNan then a.2 < b.2 || (a.2 == b.2 && a.1.toNat < b.1.toNat)
  else if x.isNan then false
  else if y.isNan then true
  else if y.lt x then true
  else if x.lt y then false
  else a.2 < b.2 || (a.2 == b.2 && a.1.toNat < b.1.toNat)

/-- A pair put in its rank. -/
def topInsert (e : F32 × Nat) : List (F32 × Nat) → List (F32 × Nat)
  | [] => [e]
  | x :: r => if topAbove e x then e :: x :: r else x :: topInsert e r

def Core.offer (k : Core) (es : List (F32 × Nat)) : Core := { k with topk := (es.foldl (fun l e => topInsert e l) k.topk).take k.topN }

/-! ### Philox4x32-10 (R89) -/

/-- One round. -/
def philoxRound (x : List Nat) (k0 k1 : Nat) : List Nat :=
  let p0 := 0xD2511F53 * x.getD 0 0
  let p1 := 0xCD9E8D57 * x.getD 2 0
  [(p1 / 2 ^ 32) ^^^ (x.getD 1 0) ^^^ k0, p1 % 2 ^ 32, (p0 / 2 ^ 32) ^^^ (x.getD 3 0) ^^^ k1, p0 % 2 ^ 32]

/-- Ten rounds, the key advanced between them. -/
def philox : Nat → List Nat → Nat → Nat → List Nat
  | 0, x, _, _ => x
  | n + 1, x, k0, k1 => philox n (philoxRound x k0 k1) ((k0 + 0x9E3779B9) % 2 ^ 32) ((k1 + 0xBB67AE85) % 2 ^ 32)

/-- The word of lane 4 b + j. -/
def vecRandom (i : VecIns) (k0 k1 l : Nat) : F32 :=
  let x := (philox 10 [i.operand % 2 ^ 32, i.operand / 2 ^ 32, i.draw, l / 4] k0 k1).getD (l % 4) 0
  if i.fmt = 7 then BitVec.ofNat 32 x else (roundF32 (.fin ⟨false, x / 256, -24⟩)).1

/-! ### Running -/

/-- Whether the instruction at the head of the queue must wait: VDRAIN for a row, a fen operand for its banks (R141). -/
def State.vecWaits (s : State) (c : Nat) (i : VecIns) : Bool :=
  (i.op == 3 && (s.core c).drain.isEmpty) ||
    ((i.op == 1 || i.op == 2) && i.space == 0 && s.bankHeld (.fen c) i.operand i.bytes)

/-- VLD and VST (R86): a withdrawn chunk is an access fault (R119); uncorrectable data drop the instruction (R97). -/
def State.vecMemory (s : State) (c : Nat) (i : VecIns) : State :=
  let st := i.store c
  if s.anyWithdrawn st i.operand i.bytes then s.trap c trapAccess 0 stBadPacket
  else if i.op = 1 then
    match s.coreRead c st i.operand i.bytes with
    | (none, s) => s
    | (some bs, s) => s.vecLanes c i (vecLoadLane i bs)
  else s.vecStore c i

/-- A lane's result with its flags, for the operations of R86 that work lane by lane. -/
def vecLaneOp (i : VecIns) (k : Core) : Option (Nat → F32 × Nat) :=
  let a := k.vreg i.va
  let b := k.vreg i.vb
  let d := k.vreg i.vc
  let sc : F32 := BitVec.ofNat 32 i.operand
  let A (l : Nat) : F32 := a.getD l 0
  let B (l : Nat) : F32 := b.getD l 0
  match i.op with
  | 0x10 => some fun l => fadd (A l) (B l)
  | 0x11 => some fun l => fadd (A l) (fneg (B l))
  | 0x12 => some fun l => fmul (A l) (B l)
  | 0x13 => some fun l => ffma (A l) (B l) (d.getD l 0)
  | 0x14 => some fun l => (fmax (A l) (B l), 0)
  | 0x15 => some fun l => (fmin (A l) (B l), 0)
  | 0x16 => some fun l => fmul (A l) sc
  | 0x17 => some fun l => fadd (A l) sc
  | 0x19 => some fun l => (if bitOf (k.kreg i.vc) l then A l else B l, 0)
  | 0x1A => some fun l => (BitVec.ofNat 32 (i.operand + l), 0)
  | 0x1B => some fun l => frnd (A l)
  | 0x20 => some fun l => exp2F (A l)
  | 0x21 => some fun l => recipF (A l)
  | 0x22 => some fun l => (frsqrt (A l), rsqrtFlags (A l))
  | 0x23 => some fun l => (flogi (A l), specialFlags false false (A l) (flogi (A l)))
  | _ => none

/-- The remaining operations of R86 on a core. -/
def State.vecOther (s : State) (c : Nat) (i : VecIns) : State :=
  let k := s.core c
  let m := k.kreg i.mask
  let regs := (List.range (i.count + 1)).map fun j => k.vreg (i.va + j)
  match i.op with
  | 0x03 =>
    match k.drain with
    | [] => s
    | row :: rest => (s.setCore c { k with drain := rest }).modCore c fun k => k.vput i.vd m fun l => row.getD l 0
  | 0x18 =>
    let gt (l : Nat) : Bool := (ofF32 ((k.vreg i.vb).getD l 0)).lt (ofF32 ((k.vreg i.va).getD l 0))
    let old := k.kreg i.vd
    s.setCore c (k.kput i.vd ((List.range 256).foldl (fun acc l => acc + placed (Bool.bit (if bitOf m l then gt l else bitOf old l)) l) 0))
  | 0x28 =>
    let (r, fl) := vecReduce fadd m regs
    (s.setCore c (k.vput i.vd (2 ^ 256 - 1) fun _ => r)).numFlags c fl
  | 0x29 => s.setCore c (k.vput i.vd (2 ^ 256 - 1) fun _ => (vecReduce (fun a b => (fmax a b, 0)) m regs).1)
  | 0x2A =>
    let (rs, fl) := vecPrefix m (k.vreg i.va)
    (s.setCore c { k with v := rs.foldl (fun v e => SMap.set v (256 * i.vd + e.1) e.2 0) k.v }).numFlags c fl
  | 0x2B => s.put .VEC_RESULT_LANE c ((laneList (k.kreg i.va &&& m)).headD 256)
  | 0x2C => s.put .VEC_RESULT_LANE c ((laneList (k.kreg i.va &&& m)).getLastD 256)
  | 0x30 => s.setCore c { k with topk := [], topN := i.operand }
  | 0x31 => s.setCore c (k.offer ((laneList m).map fun l => ((k.vreg i.va).getD l 0, (i.operand + l) % 2 ^ 32)))
  | 0x32 => s.setCore c (k.offer ((laneList m).map fun l => ((k.vreg i.va).getD l 0, ((k.vreg i.vb).getD l 0).toNat)))
  | 0x33 =>
    let pair (l : Nat) : F32 × Nat := k.topk.getD l (0xFF800000, 0xFFFFFFFF)
    s.setCore c ((k.vput i.vd m fun l => (pair l).1).vput (i.vd + 1) m fun l => BitVec.ofNat 32 (pair l).2)
  | 0x38 =>
    let k0 := s.get .VEC_RNG_KEY_K0 c
    let k1 := s.get .VEC_RNG_KEY_K1 c
    s.setCore c (k.vput i.vd m (vecRandom i k0 k1))
  | _ => s

/-- One instruction started and run (R84, R86). -/
def State.vecRun (s : State) (c : Nat) (i : VecIns) : State :=
  let s := s.bump .VEC_STATUS_ISSUED c 1
  if i.op = 1 ∨ i.op = 2 then s.vecMemory c i
  else match vecLaneOp i (s.core c) with
    | some f => s.vecLanes c i f
    | none => s.vecOther c i

/-- Instructions started in queue order until one must wait (R84); `fuel` bounds them. -/
def State.vecPass : Nat → State → Nat → State
  | 0, s, _ => s
  | fuel + 1, s, c =>
    match (s.core c).vq with
    | [] => s
    | w :: r =>
      let i := VecIns.of w
      if s.vecWaits c i then s else ((s.modCore c fun k => { k with vq := r }).atWork c 1 (w.drop 2) fun s => s.vecRun c i).vecPass fuel c

/-- The vector instruction of core `c` issued: invalid, it traps (R98); the queue holds 16, and a full queue stalls the issue (R84). -/
def vecIssue (c : Nat) (w : List Word) (s : State) : State :=
  if !(VecIns.of w).valid w then s.trap c trapVector 0 stBadPacket
  else if 16 ≤ (s.core c).vq.length then s
  else
    let s := s.modCore c fun k => { k with vq := k.vq ++ [w ++ s.issueWords c] }
    s.vecPass 17 c

/-- The meanings of the vector rows: the words carry the row's OP. -/
def vecRow (c : Site) (op : Nat) (w : List Word) (s : State) : Host.Outcome State Fault Refusal :=
  if fieldOf (wordAt w 0) 7 0 = op then .next (s.whenClocked (vecIssue (siteNo c) w)) else .fault .illFormed

/-- VLD (R86). -/
def execVld (c : Site) (w0 w1 : Word) (s : State) : Host.Outcome State Fault Refusal := vecRow c 0x01 [w0, w1] s

/-- VST (R86). -/
def execVst (c : Site) (w0 w1 : Word) (s : State) : Host.Outcome State Fault Refusal := vecRow c 0x02 [w0, w1] s

/-- VDRAIN (R86). -/
def execVdrain (c : Site) (w0 w1 : Word) (s : State) : Host.Outcome State Fault Refusal := vecRow c 0x03 [w0, w1] s

/-- VADD (R86). -/
def execVadd (c : Site) (w0 w1 : Word) (s : State) : Host.Outcome State Fault Refusal := vecRow c 0x10 [w0, w1] s

/-- VSUB (R86). -/
def execVsub (c : Site) (w0 w1 : Word) (s : State) : Host.Outcome State Fault Refusal := vecRow c 0x11 [w0, w1] s

/-- VMUL (R86). -/
def execVmul (c : Site) (w0 w1 : Word) (s : State) : Host.Outcome State Fault Refusal := vecRow c 0x12 [w0, w1] s

/-- VFMA (R86). -/
def execVfma (c : Site) (w0 w1 : Word) (s : State) : Host.Outcome State Fault Refusal := vecRow c 0x13 [w0, w1] s

/-- VMAX (R86). -/
def execVmax (c : Site) (w0 w1 : Word) (s : State) : Host.Outcome State Fault Refusal := vecRow c 0x14 [w0, w1] s

/-- VMIN (R86). -/
def execVmin (c : Site) (w0 w1 : Word) (s : State) : Host.Outcome State Fault Refusal := vecRow c 0x15 [w0, w1] s

/-- VMULS (R86). -/
def execVmuls (c : Site) (w0 w1 : Word) (s : State) : Host.Outcome State Fault Refusal := vecRow c 0x16 [w0, w1] s

/-- VADDS (R86). -/
def execVadds (c : Site) (w0 w1 : Word) (s : State) : Host.Outcome State Fault Refusal := vecRow c 0x17 [w0, w1] s

/-- VCMPGT (R86). -/
def execVcmpgt (c : Site) (w0 w1 : Word) (s : State) : Host.Outcome State Fault Refusal := vecRow c 0x18 [w0, w1] s

/-- VSEL (R86). -/
def execVsel (c : Site) (w0 w1 : Word) (s : State) : Host.Outcome State Fault Refusal := vecRow c 0x19 [w0, w1] s

/-- VIOTA (R86). -/
def execViota (c : Site) (w0 w1 : Word) (s : State) : Host.Outcome State Fault Refusal := vecRow c 0x1A [w0, w1] s

/-- VRND (R86). -/
def execVrnd (c : Site) (w0 w1 : Word) (s : State) : Host.Outcome State Fault Refusal := vecRow c 0x1B [w0, w1] s

/-- VEXP2 (R86). -/
def execVexp2 (c : Site) (w0 w1 : Word) (s : State) : Host.Outcome State Fault Refusal := vecRow c 0x20 [w0, w1] s

/-- VRCP (R86). -/
def execVrcp (c : Site) (w0 w1 : Word) (s : State) : Host.Outcome State Fault Refusal := vecRow c 0x21 [w0, w1] s

/-- VRSQRT (R86). -/
def execVrsqrt (c : Site) (w0 w1 : Word) (s : State) : Host.Outcome State Fault Refusal := vecRow c 0x22 [w0, w1] s

/-- VLOGI (R86). -/
def execVlogi (c : Site) (w0 w1 : Word) (s : State) : Host.Outcome State Fault Refusal := vecRow c 0x23 [w0, w1] s

/-- VRSUM (R86). -/
def execVrsum (c : Site) (w0 w1 : Word) (s : State) : Host.Outcome State Fault Refusal := vecRow c 0x28 [w0, w1] s

/-- VRMAX (R86). -/
def execVrmax (c : Site) (w0 w1 : Word) (s : State) : Host.Outcome State Fault Refusal := vecRow c 0x29 [w0, w1] s

/-- VPREFIX (R86). -/
def execVprefix (c : Site) (w0 w1 : Word) (s : State) : Host.Outcome State Fault Refusal := vecRow c 0x2A [w0, w1] s

/-- VFIRST (R86). -/
def execVfirst (c : Site) (w0 w1 : Word) (s : State) : Host.Outcome State Fault Refusal := vecRow c 0x2B [w0, w1] s

/-- VLAST (R86). -/
def execVlast (c : Site) (w0 w1 : Word) (s : State) : Host.Outcome State Fault Refusal := vecRow c 0x2C [w0, w1] s

/-- TCLR (R86). -/
def execTclr (c : Site) (w0 w1 : Word) (s : State) : Host.Outcome State Fault Refusal := vecRow c 0x30 [w0, w1] s

/-- TFEED (R86). -/
def execTfeed (c : Site) (w0 w1 : Word) (s : State) : Host.Outcome State Fault Refusal := vecRow c 0x31 [w0, w1] s

/-- TFEEDX (R86). -/
def execTfeedx (c : Site) (w0 w1 : Word) (s : State) : Host.Outcome State Fault Refusal := vecRow c 0x32 [w0, w1] s

/-- TREAD (R86). -/
def execTread (c : Site) (w0 w1 : Word) (s : State) : Host.Outcome State Fault Refusal := vecRow c 0x33 [w0, w1] s

/-- VRAND (R86). -/
def execVrand (c : Site) (w0 w1 : Word) (s : State) : Host.Outcome State Fault Refusal := vecRow c 0x38 [w0, w1] s

end Sys2Proof.Machine
end

