-- ==== Sys2Proof/Machine/Arrays.lean ====
section
/-!
DEFINITION. The four matrix arrays of a core (R37 to R64): pass descriptors and their checks, shadow loads, passes with their residue checks and
injected errors, element-wise passes, drains, ARR_CTL and ARR_INJECT. The choices of notes/assumptions/32.md are the model's.
-/
namespace Sys2Proof.Machine

/-- A pass descriptor (R60). -/
structure PassDesc where
  op : Nat
  mask : Nat
  wFmt : Nat
  aFmt : Nat
  zeroStart : Bool
  drainOut : Bool
  keep : Bool
  wMx : Bool
  aMx : Bool
  v : Nat
  acc : Nat
  wOff : Nat
  wPool : Bool
  sOff : Nat
  sPool : Bool
  aOff : Nat
  aPool : Bool
  aStride : Nat
  wStride : Nat
  asOff : Nat
  asPool : Bool
  asStride : Nat
  tag : Nat
  deriving DecidableEq, Repr

def PassDesc.of (w : List Word) : PassDesc :=
  let w0 := wordAt w 0
  let w1 := wordAt w 1
  let w2 := wordAt w 2
  let w3 := wordAt w 3
  { op := fieldOf w0 3 0, mask := fieldOf w0 7 4, wFmt := fieldOf w0 11 8, aFmt := fieldOf w0 15 12, zeroStart := flagOf w0 16, drainOut := flagOf w0 17,
    keep := flagOf w0 18, wMx := flagOf w0 19, aMx := flagOf w0 20, v := fieldOf w0 40 32 + 1, acc := fieldOf w0 56 48,
    wOff := fieldOf w1 30 0, wPool := flagOf w1 31, sOff := fieldOf w1 62 32, sPool := flagOf w1 63,
    aOff := fieldOf w2 30 0, aPool := flagOf w2 31, aStride := fieldOf w2 47 32, wStride := fieldOf w2 63 48,
    asOff := fieldOf w3 30 0, asPool := flagOf w3 31, asStride := fieldOf w3 47 32, tag := fieldOf w3 63 56 }

/-- Reserved bits of the descriptor. -/
def passReserved (w : List Word) : Bool :=
  fieldOf (wordAt w 0) 31 21 != 0 || fieldOf (wordAt w 0) 47 41 != 0 || fieldOf (wordAt w 0) 63 57 != 0 || fieldOf (wordAt w 3) 55 48 != 0

def fmtOf (code : Nat) : Fmt := (Fmt.ofCode code).getD .bf16

/-- A pairing allowed on arrays (R67, R72). -/
def pairingOk (wFmt aFmt : Nat) (wMx aMx : Bool) : Bool :=
  (fmtOf wFmt).isInt == (fmtOf aFmt).isInt && (if wFmt = 2 ∨ wFmt = 4 then wMx else !(wFmt == 5 && wMx)) &&
    (if aFmt = 2 ∨ aFmt = 4 then aMx else !(aFmt == 5 && aMx))

/-- Rows of K per tile (R40). -/
def PassDesc.kt (d : PassDesc) : Nat := if (fmtOf d.wFmt).bits = 4 ∧ (fmtOf d.aFmt).bits = 4 then 128 else 64

/-- Elements of a data vector: K_t, or the 64 of element-wise mode (R44, R56). -/
def PassDesc.elems (d : PassDesc) : Nat := if d.op = 2 then 64 else d.kt

def spaceStore (c : Nat) (pool : Bool) : Store := if pool then .pool c else .fen c

/-- The memory ranges that the load of array `a` reads (R46): its 64 columns of each row, its scales by block. -/
def PassDesc.loadOf (d : PassDesc) (c a : Nat) : List (Store × Nat × Nat) :=
  let n := 8 * (fmtOf d.wFmt).bits
  ((List.range d.kt).map fun k => (spaceStore c d.wPool, d.wOff + k * d.wStride * 64 + a * n, n)) ++
    (if d.wMx then (List.range (d.kt / 32)).map fun j => (spaceStore c d.sPool, d.sOff + j * 256 + 64 * a, 64) else [])

/-- Whether the pass loads tiles. -/
def PassDesc.isLoad (d : PassDesc) : Bool := d.op != 3 && !d.keep

/-- What every enabled array's load reads: only enabled arrays load. -/
def PassDesc.loadRanges (d : PassDesc) (c : Nat) : List (Store × Nat × Nat) := if d.isLoad then (setBits 4 d.mask).flatMap (d.loadOf c) else []

/-- The memory ranges that the stream reads: data vectors, scales by block. -/
def PassDesc.streamRanges (d : PassDesc) (c : Nat) : List (Store × Nat × Nat) :=
  if d.op = 3 then []
  else
    let n := d.elems * (fmtOf d.aFmt).bits / 8
    ((List.range d.v).map fun t => (spaceStore c d.aPool, d.aOff + t * d.aStride * 64, n)) ++
      (if d.aMx then (List.range (d.elems / 32)).map fun j => (spaceStore c d.asPool, d.asOff + j * d.asStride, d.v) else [])

/-- The tile that an issued or loaded pass leaves in an array's cells, for R48: ARRAY_MASK and pairing. -/
def PassDesc.loads (d : PassDesc) : Nat × Nat × Nat × Bool × Bool := (d.mask, d.wFmt, d.aFmt, d.wMx, d.aMx)

def Tile.loads (t : Tile) : Nat × Nat × Nat × Bool × Bool := (t.mask, t.wFmt, t.aFmt, t.wMx, t.aMx)

/-- The arrays of a mask. -/
def arraysOf (mask : Nat) : List Nat := setBits 4 mask

/-- What the cells of array `a` will hold when the queue has run: the last queued load, or the tile in them. -/
def Core.lastLoad (k : Core) (a : Nat) : Option (Nat × Nat × Nat × Bool × Bool) :=
  let queued := (k.aq.map PassDesc.of).filter fun d => d.isLoad && bitOf d.mask a
  match queued.getLast? with
  | some d => some d.loads
  | none => ((k.tiles.find? fun e => e.1 == a).map (·.2)).map Tile.loads

/-- The checks of R62; those on the arrays' enables are apart. -/
def PassDesc.valid (d : PassDesc) (k : Core) (c : Nat) (w : List Word) : Bool :=
  !passReserved w && 1 ≤ d.op && d.op ≤ 3 && d.mask != 0 && d.wFmt < 6 && d.aFmt < 6 && d.acc + d.v ≤ 512 &&
    (d.op == 3 || (pairingOk d.wFmt d.aFmt d.wMx d.aMx && d.wOff % 64 == 0 && d.aOff % 64 == 0 &&
      (if d.aFmt = 5 then 2 else 1) ≤ d.aStride && (d.loadRanges c ++ d.streamRanges c).all fun r => r.2.1 + r.2.2 ≤ r.1.size)) &&
    (!d.keep || (arraysOf d.mask).all fun a => k.lastLoad a == some d.loads)

/-! ### Reads -/

/-- Several ranges read for a plan unit: a withdrawn chunk is an access fault of the unit, an uncorrectable one flags the partition (R63, R119). -/
inductive RangeRes where
  | data (bs : List (List Byte))
  | bad
  | access
  deriving DecidableEq, Repr

def State.readRanges (s : State) (c : Nat) (rs : List (Store × Nat × Nat)) : RangeRes × State :=
  rs.foldl (fun acc r =>
    match acc with
    | (.data bs, s) =>
      if s.anyWithdrawn r.1 r.2.1 r.2.2 then (.access, s)
      else match s.coreRead c r.1 r.2.1 r.2.2 with
        | (some b, s) => (.data (bs ++ [b]), s)
        | (none, s) => (.bad, s)
    | x => x) (.data [], s)

def State.rangesHeld (s : State) (rs : List (Store × Nat × Nat)) : Bool := rs.any fun r => s.bankHeld r.1 r.2.1 r.2.2

/-! ### Shadow loads (R46, R50) -/

/-- The factors of weight `k` of logical column `n` as the cells hold it: the element and its block scale. -/
def Tile.weight (t : Tile) (n k : Nat) : List Num :=
  (fmtOf t.wFmt).decode ((t.rows.getD k []).getD n 0) :: scaleFactor t.wMx ((t.scales.getD (k / 32) []).getD n 0)

/-- Residue of a product of factors; one that is not finite has none (R49, R52). -/
def numRes (fs : List Num) : Option Nat :=
  if fs.all Num.isFinite then some (fs.foldl (fun r x => match x with | .fin d => r * d.residue % 8191 | _ => r) 1) else none

/-- The same with 0 for none: a marked weight or element adds nothing to a checksum (notes/assumptions/57.md). -/
def numRes0 (fs : List Num) : Nat := (numRes fs).getD 0

/-- The tile with the residues that the loader stores in columns S and T (R50). -/
def Tile.sealed (t : Tile) : Tile :=
  { t with
    sRes := (List.range t.rows.length).map fun k => (List.range 64).foldl (fun r n => (r + numRes0 (t.weight n k)) % 8191) 0
    tRes := (List.range t.rows.length).map fun k => (List.range 64).foldl (fun r n => (r + (n + 1) * numRes0 (t.weight n k)) % 8191) 0 }

/-- Tile of an array from the rows and scales that its load has read. -/
def PassDesc.tile (d : PassDesc) (bs : List (List Byte)) : Tile :=
  let f := fmtOf d.wFmt
  { wFmt := d.wFmt, aFmt := d.aFmt, wMx := d.wMx, aMx := d.aMx, mask := d.mask,
    rows := (bs.take d.kt).map fun row => (List.range 64).map fun n => elemBits f row n,
    scales := if d.wMx then (List.range (d.kt / 32)).map fun j => (List.range 64).map fun n => ((bs.getD (d.kt + j) []).getD n 0).toNat else [],
    sRes := [], tRes := [] : Tile }.sealed

/-- The loader fills the shadow of array `a` for the next queued pass that loads it, once the shadow is free and no grain holds a bank it reads (R46, R141). A shadow
of none is a load that met uncorrectable data (R63) or a withdrawn chunk. -/
def State.arrLoadOne (c : Nat) (s : State) (a : Nat) : State :=
  let k := s.core c
  if k.shadow.any fun e => e.1 == a then s
  else match k.nextLoad a with
    | none => s
    | some w =>
      let d := PassDesc.of w
      if s.rangesHeld (d.loadOf c a) then s
      else
        let fill (s : State) (x : Option Tile) : State := s.modCore c fun k => { k with shadow := k.shadow.insert a x }
        s.atWork c 0 (w.drop 4) fun s =>
          match s.readRanges c (d.loadOf c a) with
          | (.data bs, s) => fill s (some (d.tile bs))
          | (.bad, s) => fill s none
          | (.access, s) => fill (s.trap c trapAccess d.tag stBadPacket) none

/-- The loaders of the four arrays. -/
def State.arrLoad (s : State) (c : Nat) : State := (List.range 4).foldl (State.arrLoadOne c) s

/-! ### Accumulators (R42, R53) -/

def accKey (a entry n : Nat) : Nat := (a * 512 + entry) * 64 + n

/-- An accumulator word as stored: a free value where none has been written since a rewind (R26). -/
def Core.accAt (k : Core) (key : Nat) : F32 :=
  match SMap.get k.acc key none, k.lost with
  | some v, _ => v
  | none, some b => BitVec.ofNat 32 (Config.freeWord (b + 557056 + key)).toNat
  | none, none => 0

/-- An accumulator word read through its SECDED code: the value, whether corrected, whether a double-bit error. -/
def Core.accRead (k : Core) (key : Nat) : F32 × Bool × Bool :=
  let x := k.accAt key
  match secded 39 (SMap.get k.accFault key 0) with
  | .clean => (x, false, false)
  | .corrected => (x, true, false)
  | .bad => (x, false, true)
  | .leaves q => (x ^^^ BitVec.ofNat 32 q, false, false)

/-- An accumulator word written. -/
def Core.accWrite (k : Core) (key : Nat) (x : F32) : Core :=
  { k with acc := SMap.set k.acc key (some x) none, accFault := SMap.set k.accFault key 0 0 }

/-- Physical column of a location code (R52, R55); 127 for LOC 66, 67 and 127 (notes/assumptions/57.md). -/
def State.physCol (s : State) (i loc : Nat) : Nat :=
  if 66 ≤ loc then 127 else if s.on .ARR_COL_MAP_SPARE_USED i && s.get .ARR_COL_MAP_SPARE_FOR i == loc then 66 else loc

/-- The logical column that a physical column carries (R39, R55). -/
def State.logicalCol (s : State) (i phys : Nat) : Option Nat :=
  let used := s.on .ARR_COL_MAP_SPARE_USED i
  let for_ := s.get .ARR_COL_MAP_SPARE_FOR i
  if phys = 66 then (if used then some for_ else none) else if used && for_ == phys then none else some phys

/-- A mismatch (R52, R54): latched, counted, recorded, the partition flagged. -/
def State.arrMismatch (s : State) (c a tag loc vec : Nat) : State :=
  let i := ix2 4 c a
  let p := s.diePart (dieOf c)
  let phys := s.physCol i loc
  let s := s.bump .ARR_CHK_COUNT_MISMATCHES i 1
  let s := if s.on .ARR_CHK_STATUS_VALID i then s.put .ARR_CHK_STATUS_OVERFLOW i 1
    else s.puts i [(.ARR_CHK_STATUS_VALID, 1), (.ARR_CHK_STATUS_LOC, loc), (.ARR_CHK_STATUS_PHYS, phys), (.ARR_CHK_STATUS_TAG, tag), (.ARR_CHK_STATUS_VECTOR, vec)]
  let s := s.event ⟨2, 0, siteIdx c + placed a 11 + placed phys 13, 1, p, stChecksum, loc + placed tag 7 + placed vec 15, s.get .GST_PART_STEP_STEP p⟩
  s.flagPart p 2 stChecksum

/-! ### Passes -/

/-- What a pass leaves on a core besides memory: its accumulators, the row under construction, the flags, and the mismatches found (location, vector). -/
structure PassAcc where
  k : Core
  flags : Nat
  corrected : Nat
  bad : List (Nat × Nat)

/-- Factors of activation `k` of a data vector: the element and the scale of its block. -/
def actFactors (t : Tile) (vec ascales : List Nat) (k : Nat) : List Num :=
  (fmtOf t.aFmt).decode (vec.getD k 0) :: scaleFactor t.aMx (ascales.getD (k / 32) 0)

/-- Factors of the terms of block `j` of logical column `n` (R75). -/
def blockTerms (t : Tile) (vec ascales : List Nat) (n j : Nat) : List (List Num) :=
  (List.range 32).map fun i => t.weight n (32 * j + i) ++ actFactors t vec ascales (32 * j + i)

/-- Exponent of the smallest subnormal: the least significant bit of exact products (R75). -/
def Fmt.lsb (f : Fmt) : Int := if f.isInt then 0 else f.prec.2

/-- The error term of `delta` units of the least significant bit in block `j` of column `n` (R64). -/
def deltaTerm (t : Tile) (ascales : List Nat) (n j : Nat) (delta : Int) : List Num :=
  [.fin ⟨decide (delta < 0), delta.natAbs, (fmtOf t.wFmt).lsb + (fmtOf t.aFmt).lsb⟩] ++ scaleFactor t.wMx ((t.scales.getD j []).getD n 0) ++
    scaleFactor t.aMx (ascales.getD j 0)

/-- The start value of an output element: +0, or the accumulator word (R42). -/
def PassAcc.start (x : PassAcc) (d : PassDesc) (a t n : Nat) : F32 × PassAcc :=
  if d.zeroStart && d.op == 1 then (0, x)
  else
    let (v, fixed, bad) := x.k.accRead (accKey a (d.acc + t) n)
    (v, { x with corrected := x.corrected + Bool.bit fixed, bad := if bad then x.bad ++ [(67, t)] else x.bad })

/-- An error in the exact sum of a column's block, for one data vector: column (64 and 65 are S and T), block, units. -/
abbrev BlockErr := Nat × Nat × Int

/-- One output element of a pass: block values added in increasing K (R42), with the errors in the column's block sums. -/
def passElem (d : PassDesc) (t : Tile) (vec ascales : List Nat) (errs : List BlockErr) (a tt n : Nat) (x : PassAcc) : F32 × PassAcc :=
  let (v0, x) := x.start d a tt n
  (List.range ascales.length).foldl (fun acc j =>
    let (v, x) := acc
    let ts := blockTerms t vec ascales n j ++ (errs.filter fun e => e.1 == n && e.2.1 == j).map fun e => deltaTerm t ascales n j e.2.2
    let (b, fl) := blockValue ts
    let codes := (if t.wMx then [(t.scales.getD j []).getD n 0] else []) ++ (if t.aMx then [ascales.getD j 0] else [])
    let (v, fl2) := fadd v b
    (v, { x with flags := x.flags ||| fl ||| fl2 ||| scaleFlags codes })) (v0, x)

/-- One output element of element-wise mode: product and sum each rounded once (R56). -/
def elementElem (d : PassDesc) (t : Tile) (vec ascales : List Nat) (errs : List BlockErr) (a tt n : Nat) (x : PassAcc) : F32 × PassAcc :=
  let (v, x) := x.start d a tt n
  let ops := t.weight n 0 ++ (fmtOf d.aFmt).decode (vec.getD n 0) :: scaleFactor t.aMx (ascales.getD (n / 32) 0)
  let ts := ops :: (errs.filter fun e => e.1 == n && e.2.1 == 0).map fun e => deltaTerm t (List.replicate 4 (ascales.getD (n / 32) 0)) n 0 e.2.2
  let (m, fl) := blockValue ts
  let (v, fl2) := fadd m v
  let codes := (if t.wMx then [(t.scales.getD 0 []).getD n 0] else []) ++ (if t.aMx then [ascales.getD (n / 32) 0] else [])
  (v, { x with flags := x.flags ||| fl ||| fl2 ||| scaleFlags codes })

/-! ### Errors of the hardware and the checks (R50 to R54, R64) -/

/-- Location of what the checks find, by the first matching row of R52: the column checks e and f, an unequal time check, a tail disagreement. None: no fault. -/
def errLoc (e f : Nat) (time tail : Bool) : Option Nat :=
  if e = 0 then (if f ≠ 0 then some 65 else if time then some 66 else if tail then some 67 else none)
  else if f = 0 then some 64
  else match (List.range 64).find? fun n => (n + 1) * e % 8191 == f with
    | some n => some n
    | none => some 127

/-- The errors of one array in one pass, by vector: in a logical column's block sum, in the weight that a cell holds, in a queued element, in a tail. -/
inductive ArrErr where
  | sum (e : BlockErr)
  | weight (k n bits : Nat)
  | element (k bits : Nat)
  | tail (n : Nat)
  deriving DecidableEq, Repr

/-- An error of the hardware as the array's columns stand: a fault of a physical column that carries no work has no effect (R39, R55). -/
def State.arrErr (s : State) (i : Nat) (x : PassFault) : Option ArrErr :=
  match x with
  | .sum p j e => (s.logicalCol i p.val).map fun n => .sum (n, j.val, e)
  | .weight k p b => (s.logicalCol i p.val).map fun n => .weight k.val n b.toNat
  | .element k b => some (.element k.val b.toNat)
  | .tail n => some (.tail n.val)

/-- The cells' weights with the errors that strike them; of a checksum column, its stored residue. -/
def Tile.strike (t : Tile) (e : ArrErr) : Tile :=
  match e with
  | .weight k n b =>
    if n = 64 then { t with sRes := t.sRes.set k (b % 8191) }
    else if n = 65 then { t with tRes := t.tRes.set k (b % 8191) }
    else { t with rows := t.rows.set k ((t.rows.getD k []).set n (b % 2 ^ (fmtOf t.wFmt).bits)) }
  | _ => t

/-- A data vector with the errors that strike its elements in the queues. -/
def strikeVec (af : Fmt) (vec : List Nat) (es : List ArrErr) : List Nat :=
  es.foldl (fun v e => match e with | .element k b => v.set k (b % 2 ^ af.bits) | _ => v) vec

def blockErrs (es : List ArrErr) : List BlockErr := es.filterMap fun e => match e with | .sum x => some x | _ => none
def tailErrs (es : List ArrErr) : List Nat := es.filterMap fun e => match e with | .tail n => some n | _ => none

/-- Residue of an error term. -/
def errRes (t : Tile) (ascales : List Nat) (e : BlockErr) : Nat :=
  if e.1 < 64 then numRes0 (deltaTerm t ascales e.1 e.2.1 e.2.2) else (e.2.2 % 8191).toNat

/-- Residue of the result of a logical column, errors included; none where an operand is not finite. -/
def colRes (t : Tile) (vec ascales : List Nat) (errs : List BlockErr) (n : Nat) : Option Nat :=
  let y := (List.range t.rows.length).foldl (fun r k => match r, numRes (t.weight n k ++ actFactors t vec ascales k) with
    | some r, some x => some ((r + x) % 8191)
    | _, _ => none) (some 0)
  y.map fun y => (errs.filter fun e => e.1 == n).foldl (fun r e => (r + errRes t ascales e) % 8191) y

/-- Result of checksum column S (64) or T (65) for a data vector. -/
def checkRes (t : Tile) (vec ascales : List Nat) (errs : List BlockErr) (n : Nat) : Nat :=
  let st := if n = 64 then t.sRes else t.tRes
  let y := (List.range t.rows.length).foldl (fun r k => (r + st.getD k 0 * numRes0 (actFactors t vec ascales k)) % 8191) 0
  (errs.filter fun e => e.1 == n).foldl (fun r e => (r + errRes t ascales e) % 8191) y

/-- The column checks e and f of a data vector (R50): 0 where a column has no residue (notes/assumptions/57.md). -/
def columnCheck (t : Tile) (vec ascales : List Nat) (errs : List BlockErr) : Nat × Nat :=
  let ys := (List.range 64).map fun n => colRes t vec ascales errs n
  if ys.any Option.isNone then (0, 0)
  else
    let e := (ys.foldl (fun r y => (r + y.getD 0) % 8191) 0 + 8191 - checkRes t vec ascales errs 64) % 8191
    let f := (ys.zipIdx.foldl (fun r y => (r + (y.2 + 1) * y.1.getD 0) % 8191) 0 + 8191 - checkRes t vec ascales errs 65) % 8191
    (e, f)

/-- Columns whose marker disagrees with their result (R52): the markers are those of the weights as loaded and the elements as read. -/
def markerFaults (loaded t : Tile) (vec bad ascales : List Nat) : List Nat :=
  (List.range 64).filter fun n =>
    ((List.range t.rows.length).any fun k => (numRes (loaded.weight n k ++ actFactors loaded vec ascales k)).isNone) !=
      ((List.range t.rows.length).any fun k => (numRes (t.weight n k ++ actFactors t bad ascales k)).isNone)

/-- One data vector through one array: the outputs of its 64 columns. -/
def arrayVector (d : PassDesc) (tile : Tile) (vec ascales : List Nat) (errs : List BlockErr) (a t : Nat) (x : PassAcc) : List F32 × PassAcc :=
  (List.range 64).foldl (fun acc n =>
    let (v, x) := if d.op = 2 then elementElem d tile vec ascales errs a t n acc.2 else passElem d tile vec ascales errs a t n acc.2
    (acc.1 ++ [v], if d.drainOut && d.op == 1 then x else { x with k := x.k.accWrite (accKey a (d.acc + t) n) v })) ([], x)

/-- What an array carries from vector to vector of a pass: the rows given, what is left, its cells' tile, the running checksum vector of the group and the residues of
its columns (none: a result without residue), whether the group's column checks were clean, its tail disagreements, and the mismatches found (location, index). -/
structure ArrRun where
  rows : List (List F32)
  x : PassAcc
  tile : Tile
  sums : List (Option Nat)
  ys : List (Option Nat)
  clean : Bool
  tails : List Nat
  found : List (Nat × Nat)

/-- One data vector: its outputs, and its checks where the pass meets an error (without one they find nothing: the check is exact, R48). -/
def ArrRun.vector (d : PassDesc) (loaded : Tile) (scales : List (List Nat)) (errs : List (Nat × ArrErr)) (a : Nat) (r : ArrRun) (e : List Nat × Nat) : ArrRun :=
  let (vec, t) := e
  let es := (errs.filter fun y => y.1 == t).map (·.2)
  let tile := es.foldl Tile.strike r.tile
  let bad := strikeVec (fmtOf d.aFmt) vec es
  let asc := scales.map fun l => l.getD t 0
  let (row, x) := arrayVector d tile bad asc (blockErrs es) a t r.x
  let r := { r with rows := r.rows ++ [row], x := x, tile := tile, tails := if (tailErrs es).isEmpty then r.tails else r.tails ++ [t] }
  if errs.isEmpty || d.op != 1 then r
  else
    let marks := markerFaults loaded tile vec bad asc
    let (e, f) := columnCheck tile bad asc (blockErrs es)
    let found := if !marks.isEmpty then marks.map fun n => (n, t) else match errLoc e f false false with | some l => [(l, t)] | none => []
    { r with
      clean := r.clean && found.isEmpty
      found := r.found ++ found
      sums := (List.range tile.rows.length).map fun k => match r.sums.getD k (some 0), numRes (actFactors loaded vec asc k) with
        | some x, some y => some ((x + y) % 8191)
        | _, _ => none
      ys := (List.range 64).map fun n => match r.ys.getD n (some 0), colRes tile bad asc (blockErrs es) n with
        | some x, some y => some ((x + y) % 8191)
        | _, _ => none }

/-- The checksum slot of a group (R51): each column's result against the sum of its vectors' residues; columns without one are left out. -/
def timeUnequal (t : Tile) (sums ys : List (Option Nat)) : Bool :=
  if sums.any Option.isNone then false
  else (List.range 64).any fun n =>
    match ys.getD n none with
    | none => false
    | some y => (List.range t.rows.length).foldl (fun r k => (r + numRes0 (t.weight n k) * (sums.getD k none).getD 0) % 8191) 0 != y

/-- A group of 64 vectors ends: its time check, then the tail disagreements that no earlier row of R52 locates. -/
def ArrRun.group (d : PassDesc) (errs : List (Nat × ArrErr)) (g : Nat) (r : ArrRun) : ArrRun :=
  let time := d.op == 1 && !errs.isEmpty && r.clean && timeUnequal r.tile r.sums r.ys
  let located := (r.found.filter fun y => y.1 != 66).map (·.2)
  let tails := if time then [] else (r.tails.filter fun t => r.clean || !located.contains t).map fun t => (67, t)
  { r with found := r.found ++ (if time then [(66, g)] else []) ++ tails, sums := [], ys := [], clean := true, tails := [] }

/-- One array's share of a pass. -/
def arrayPass (d : PassDesc) (tile : Tile) (vecs scales : List (List Nat)) (errs : List (Nat × ArrErr)) (a : Nat) (k : Core) : ArrRun :=
  (List.range ((vecs.length + 63) / 64)).foldl (fun r g =>
    (((vecs.zipIdx.drop (64 * g)).take 64).foldl (ArrRun.vector d tile scales errs a) r).group d errs g)
    ⟨[], ⟨k, 0, 0, []⟩, tile, [], [], true, [], []⟩

/-- The result of a column whose tail adders disagree is a free value (R54: the rewind discards it). -/
def State.spoil (s : State) (c a : Nat) (d : PassDesc) (rows : List (List F32)) (e : Nat × Nat) : List (List F32) × State :=
  let (w, s) := s.free
  let x : F32 := BitVec.ofNat 32 w.toNat
  if d.drainOut && d.op == 1 then (rows.set e.1 ((rows.getD e.1 []).set e.2 x), s)
  else (rows, s.modCore c fun k => k.accWrite (accKey a (d.acc + e.1) e.2) x)

/-- The injection that array `a` takes when a pass starts (R63, R64): an error in block 0 of a column, or in element 0 of vector 0, which becomes a free value that
differs from the true one. -/
def State.takeInject (s : State) (c a : Nat) (af : Fmt) (first : Nat) : List (Nat × ArrErr) × State :=
  let i := ix2 4 c a
  if !SMap.get (s.core c).injectArmed a false then ([], s)
  else
    let s := s.modCore c fun k => { k with injectArmed := SMap.set k.injectArmed a false false }
    if s.on .ARR_INJECT_STREAM i then
      let (w, s) := s.free
      ([(0, .element 0 ((first + 1 + w.toNat % (2 ^ af.bits - 1)) % 2 ^ af.bits))], s)
    else match s.logicalCol i (s.get .ARR_INJECT_PHYS_COLUMN i) with
      | some n => ([(0, .sum (n, 0, (s.get .ARR_INJECT_DELTA i : Nat)))], s)
      | none => ([], s)

/-- The errors that array `a` meets in a pass: those of the hardware, and an injection. -/
def State.passErrs (s : State) (c a : Nat) (errs : List PassError) : List (Nat × ArrErr) :=
  (errs.filter fun x => x.array.val == a).filterMap fun x => (s.arrErr (ix2 4 c a) x.fault).map fun e => (x.vector.val, e)

/-! ### Passes run -/

/-- The results of one array put into the core, with its flags, counts and mismatches. -/
def State.arrayEnd (s : State) (c a tag : Nat) (x : PassAcc) (found : List (Nat × Nat)) : State :=
  let s := (s.setCore c x.k).numFlags c x.flags
  let s := s.bump .ARR_CHK_COUNT_ACC_CORRECTED (ix2 4 c a) x.corrected
  (found ++ x.bad).foldl (fun s e => s.arrMismatch c a tag e.1 e.2) s

/-- Output rows of 256 elements delivered to the vector unit; the columns of arrays that do no work are free values. -/
def State.deliverRows (s : State) (c n : Nat) (parts : List (Nat × List (List F32))) : State :=
  let (junk, s) := s.frees (if parts.length = 4 then 0 else 128 * n)
  let other (t k : Nat) : F32 := let w := junk.getD (128 * t + k / 2) 0; BitVec.ofNat 32 (w.toNat / 2 ^ (32 * (k % 2)))
  let rows := (List.range n).map fun t => (List.range 4).flatMap fun a =>
    match parts.find? fun e => e.1 == a with
    | some e => e.2.getD t []
    | none => (List.range 64).map fun k => other t (64 * a + k)
  (s.modCore c fun k => { k with drain := k.drain ++ rows, flow := parts.foldl (fun m e => m + 2 ^ e.1) 0 }).vecPass 17 c

/-- DRAIN (R60): accumulator entries sent to the vector unit. An armed injection finds nothing to corrupt (notes/assumptions/57.md). -/
def State.runDrain (s : State) (c : Nat) (d : PassDesc) : State :=
  let (parts, s) := (arraysOf d.mask).foldl (fun acc a =>
    let (ps, s) := acc
    let (rows, x) := (List.range d.v).foldl (fun acc t =>
      let (row, x) := (List.range 64).foldl (fun acc n =>
        let (v, fixed, bad) := acc.2.k.accRead (accKey a (d.acc + t) n)
        (acc.1 ++ [v], { acc.2 with corrected := acc.2.corrected + Bool.bit fixed, bad := if bad then acc.2.bad ++ [(67, t)] else acc.2.bad })) ([], acc.2)
      (acc.1 ++ [row], x)) ([], (⟨s.core c, 0, 0, []⟩ : PassAcc))
    (ps ++ [(a, rows)], (s.arrayEnd c a d.tag x []).modCore c fun k => { k with injectArmed := SMap.set k.injectArmed a false false })) ([], s)
  s.deliverRows c d.v parts

/-- PASS and ELEMENTWISE once their tiles are in the cells and their stream has been read. -/
def State.runPass (s : State) (c : Nat) (d : PassDesc) (bs : List (List Byte)) (errs : List PassError) : State :=
  let af := fmtOf d.aFmt
  let vecs := (bs.take d.v).map fun b => (List.range d.elems).map fun k => elemBits af b k
  let scales := (List.range (d.elems / 32)).map fun j => if d.aMx then ((bs.getD (d.v + j) []).map fun b => b.toNat) else List.replicate d.v 127
  let s := s.bump .CORE_FEEDER_STATS_SLOTS c (d.v + (d.v + 63) / 64)
  let (parts, s) := (arraysOf d.mask).foldl (fun acc a =>
    let (ps, s) := acc
    match (s.core c).tiles.find? fun e => e.1 == a with
    | none => (ps, s)
    | some e =>
      let (js, s) := s.takeInject c a af ((vecs.headD []).getD 0 0)
      let es := (s.passErrs c a errs).filter (fun y => decide (y.1 < d.v)) ++ js
      let r := arrayPass d e.2 vecs scales es a (s.core c)
      let s := s.arrayEnd c a d.tag r.x r.found
      let s := if es.isEmpty then s else s.modCore c fun k => { k with tiles := k.tiles.insert a r.tile }
      let (rows, s) := (es.flatMap fun y => (tailErrs [y.2]).map fun n => (y.1, n)).foldl (fun acc y => acc.2.spoil c a d acc.1 y) (r.rows, s)
      (ps ++ [(a, rows)], s)) ([], s)
  if d.drainOut && d.op == 1 then s.deliverRows c d.v parts else s

/-- The shadows of a pass's arrays move into the cells (R46); of a pass that is dropped they are discarded. -/
def Core.swapTiles (k : Core) (mask : Nat) (dropped : Bool) : Core :=
  let mine := k.shadow.filter fun e => bitOf mask e.1
  { k with
    tiles := if dropped then k.tiles else mine.foldl (fun m e => match e.2 with | some t => m.insert e.1 t | none => m) k.tiles
    shadow := k.shadow.filter fun e => !bitOf mask e.1 }

/-- Whether the rows delivered leave room for the next pass: the queue holds 8, and what lies beyond is still in the arrays (R63, R84). -/
def Core.drainRoom (k : Core) : Bool := k.drain.length ≤ 8

/-- Whether the pass at the head of the queue may start, but for the banks of its stream (R46): its shadows are full, and the previous pass has issued its slots. -/
def State.passReady (s : State) (c : Nat) (d : PassDesc) : Bool :=
  let k := s.core c
  !s.inLull && k.drainRoom && (!d.isLoad || (arraysOf d.mask).all fun a => k.shadow.any fun e => e.1 == a)

/-- The pass at the head of the queue runs. One dropped on uncorrectable data leaves an armed injection armed, and a KEEP pass behind it runs with the tile that the cells
still hold (notes/assumptions/57.md). -/
def State.passGo (s : State) (c : Nat) (w : List Word) (rest : List (List Word)) (errs : List PassError) : State :=
  let d := PassDesc.of w
  let dropped := d.isLoad && (s.core c).shadow.any fun e => bitOf d.mask e.1 && e.2.isNone
  let s := s.modCore c fun k => { (if d.isLoad then k.swapTiles d.mask dropped else k) with aq := rest, passDue := none }
  if dropped then s
  else s.atWork c 0 (w.drop 4) fun s =>
    if d.op = 3 then s.runDrain c d
    else if d.keep && !((arraysOf d.mask).all fun a => (s.core c).tiles.any fun e => e.1 == a) then s
    else match s.readRanges c (d.streamRanges c) with
      | (.data bs, s) => s.runPass c d bs errs
      | (.bad, s) => s
      | (.access, s) => s.trap c trapAccess d.tag stBadPacket

/-- PASS_START (R46): the descriptor at the head starts if it may; where only a bank that a grain holds stops it, it starts at a grain boundary (R141). `errs` are the
errors of the hardware in it. -/
def passStart (c : Nat) (errs : List PassError) (s : State) : State :=
  let s := s.arrLoad c
  match (s.core c).aq with
  | [] => s
  | w :: rest =>
    let d := PassDesc.of w
    if !s.passReady c d then s
    else if s.rangesHeld (d.streamRanges c) then s.modCore c fun k => { k with passDue := some errs }
    else (s.passGo c w rest errs).arrLoad c

/-- Loads and a start that wait for banks, tried again. -/
def State.arrRetry (s : State) (c : Nat) : State :=
  match (s.core c).passDue with
  | some errs => passStart c errs s
  | none => s.arrLoad c

/-- PASS_START. -/
def execPassStart (c : Site) (errs : List PassError) (s : State) : Host.Outcome State Fault Refusal :=
  .next (s.whenClocked (passStart (siteNo c) errs))

/-- An array descriptor issued (R60, R62): invalid or of a disabled array, it traps, validity first (notes/assumptions/57.md); the queue holds 8. -/
def arrIssue (c : Nat) (w : List Word) (s : State) : State :=
  let d := PassDesc.of w
  if !d.valid (s.core c) c w then s.trap c trapDescriptor d.tag stBadPacket
  else if (arraysOf d.mask).any fun a => s.inForce .ARR_CTL_ENABLE (ix2 4 c a) == 0 then s.trap c trapDescriptor d.tag stDisabled
  else if 8 ≤ (s.core c).aq.length then s
  else (s.modCore c fun k => { k with aq := k.aq ++ [w ++ s.issueWords c] }).arrLoad c

/-- The meanings of the array rows: the words carry the row's OP. -/
def arrRow (c : Site) (op : Nat) (w : List Word) (s : State) : Host.Outcome State Fault Refusal :=
  if fieldOf (wordAt w 0) 3 0 = op then .next (s.whenClocked (arrIssue (siteNo c) w)) else .fault .illFormed

/-- PASS (R60). -/
def execPass (c : Site) (w0 w1 w2 w3 : Word) (s : State) : Host.Outcome State Fault Refusal := arrRow c 1 [w0, w1, w2, w3] s

/-- ELEMENTWISE (R56). -/
def execElementwise (c : Site) (w0 w1 w2 w3 : Word) (s : State) : Host.Outcome State Fault Refusal := arrRow c 2 [w0, w1, w2, w3] s

/-- DRAIN (R60). -/
def execDrain (c : Site) (w0 w1 w2 w3 : Word) (s : State) : Host.Outcome State Fault Refusal := arrRow c 3 [w0, w1, w2, w3] s

/-- ARR_CTL.ENABLE (R63, R332): from the next boundary. -/
def arrCtlWrite (c a : Nat) (v : Word) (s : State) : State := s.putLater .ARR_CTL_ENABLE (ix2 4 c a) (fieldOf v 0 0)

/-- ARR_CTL_ENABLE. -/
def execArrCtlEnable (c : Site) (a : Fin 4) (v : Word) (s : State) : Host.Outcome State Fault Refusal := .next (s.whenClocked (arrCtlWrite (siteNo c) a.val v))

/-- ARR_INJECT (R63, R64): the fields, and ARM. -/
def arrInject (c a : Nat) (v m : Nat) (s : State) : State :=
  let s := s.writeFields .ARR_INJECT (ix2 4 c a) v m
  if bitOf (v &&& m) 31 then s.modCore c fun k => { k with injectArmed := SMap.set k.injectArmed a true false } else s

/-- ARR_INJECT_ARM. -/
def execArrInjectArm (c : Site) (a : Fin 4) (v : Word) (s : State) : Host.Outcome State Fault Refusal :=
  .next (s.whenClocked (arrInject (siteNo c) a.val (fieldOf v 31 0) (2 ^ 32 - 1)))

end Sys2Proof.Machine
end

