-- ==== Sys2Proof/Machine/Plan.lean ====
section
/-!
DEFINITION. Plans and jobs (R18 to R31, R94): loading, arming and disarming a plan, starting, stopping and rewinding a job, GUST_SET, the carried
regions. What takes effect at a boundary stands here as functions that Gust.lean calls.
Readings taken by inference (DEDUCED): notes/assumptions/16.md.
-/
namespace Sys2Proof.Machine

/-! ### Headers (R22, R23) -/

def hdrSlots (h : List Word) : Nat := fieldOf (wordAt h 0) 31 16
def hdrPlanId (h : List Word) : Nat := fieldOf (wordAt h 0) 63 32
def hdrPeriod (h : List Word) : Nat := fieldOf (wordAt h 1) 17 0
def hdrLull (h : List Word) : Nat := fieldOf (wordAt h 1) 47 32
def hdrDies (h : List Word) : Nat := fieldOf (wordAt h 1) 59 48
def hdrTable (h : List Word) : Nat := fieldOf (wordAt h 2) 51 0
def hdrCarried (h : List Word) : Nat := fieldOf (wordAt h 3) 51 0
def hdrCarriedCount (h : List Word) : Nat := fieldOf (wordAt h 3) 63 56
def hdrCommitMax (h : List Word) : Nat := fieldOf (wordAt h 4) 31 0

/-- The CRC of a plan header (R22). -/
def hdrCrcOk (h : List Word) : Bool := crc32 ((wordsToBytes h).take 56) == fieldOf (wordAt h 7) 31 0

/-- The checks of a plan header that need only its words (R22). -/
def hdrOk (h : List Word) : Bool :=
  fieldOf (wordAt h 0) 15 0 == 1 && 1 ≤ hdrSlots h && hdrSlots h ≤ 4096 && fieldOf (wordAt h 1) 31 18 == 0 && fieldOf (wordAt h 1) 63 60 == 0 &&
    fieldOf (wordAt h 2) 63 52 == 0 && fieldOf (wordAt h 3) 55 52 == 0 && hdrCarriedCount h ≤ 32 && fieldOf (wordAt h 4) 63 32 == 0 &&
    fieldOf (wordAt h 6) 63 16 == 0 && fieldOf (wordAt h 7) 63 32 == 0 && hdrCrcOk h

/-- A segment's header (R23), from the bytes of the segment. -/
structure SegHdr where
  format : Nat
  slots : Nat
  code : Nat
  codeLen : Nat
  table : Nat
  config : Nat
  configLen : Nat
  crc : Nat
  carryBase : Nat
  carryKib : Nat
  deriving DecidableEq, Repr

def SegHdr.of (b : List Byte) : SegHdr :=
  let w := bytesToWords 4 (b.take 32)
  ⟨fieldOf (wordAt w 0) 15 0, fieldOf (wordAt w 0) 31 16, fieldOf (wordAt w 0) 63 32, fieldOf (wordAt w 1) 31 0, fieldOf (wordAt w 1) 63 32,
   fieldOf (wordAt w 2) 31 0, fieldOf (wordAt w 2) 63 32, fieldOf (wordAt w 3) 31 0, fieldOf (wordAt w 3) 47 32, fieldOf (wordAt w 3) 63 48⟩

/-- The slot table entry `k` of a segment (R23). -/
def slotEntry (b : List Byte) (k : Nat) : Nat := ofBytesLE ((b.drop ((SegHdr.of b).table + 8 * k)).take 8)

/-- The configuration records of a segment: offset word and value (R94). -/
def configRecords (b : List Byte) : List (Word × Word) :=
  let h := SegHdr.of b
  (List.range (h.configLen / 16)).map fun k =>
    let w := bytesToWords 2 ((b.drop (h.config + 16 * k)).take 16)
    (wordAt w 0, wordAt w 1)

/-- The register that a configuration record names: a naturally aligned write of a register of the core's block whose fields are "Plan" (R94). -/
def configTarget (w : Word) : Option (RegName × Nat × Nat) :=
  let off := fieldOf w 15 0
  let n := if flagOf w 16 then 8 else 4
  if fieldOf w 63 17 ≠ 0 ∨ off % n ≠ 0 then none
  else match siteFind 0 off with
    | some (r, i, b) => if b + n ≤ r.bytes && !r.fields.isEmpty && r.fields.all (fun f => f.acc == .plan) then some (r, i, b) else none
    | none => none

/-- A segment passes its checks at staging (R23, R94); its carried region must end in the pool (notes/assumptions/56.md). -/
def segmentOk (b : List Byte) : Bool :=
  let h := SegHdr.of b
  let n := b.length
  32 ≤ n && h.format == 1 && h.codeLen ≤ 92 * 1024 && 8 * h.slots ≤ 32 * 1024 && h.configLen ≤ 4096 && h.configLen % 16 == 0 &&
    h.code + h.codeLen ≤ n && h.table + 8 * h.slots ≤ n && h.config + h.configLen ≤ n && h.carryKib ≤ 256 && h.carryBase + h.carryKib ≤ 4096 &&
    crc32 (b.take 0x18 ++ [0, 0, 0, 0] ++ b.drop 0x1C) == h.crc &&
    (List.range h.slots).all (fun k => slotEntry b k / 2 ^ 57 == 0) &&
    (configRecords b).all fun r => (configTarget r.1).isSome

/-! ### Cores of a partition -/

/-- The logical cores of a partition in the order of the segment table (R22), with their sites. -/
def State.partCores (s : State) (p : Nat) : List (Nat × Nat × Option Nat) :=
  (s.partDies p).flatMap fun d => (List.range 64).map fun c => (d, c, s.siteOf d c)

/-- Ordinal of a die in its partition (R96). -/
def State.dieOrdinal (s : State) (p d : Nat) : Nat := popcount d (s.get .PART_STATUS_DIE_MASK p)

/-! ### PLAN_LOAD (R21, R94) -/

/-- A read for PLAN_LOAD: bytes, or the status that ends the command (R21). -/
def State.loadRead (s : State) (p a n : Nat) (segment : Bool) : Except Nat (List Byte) × State :=
  match s.cmdRange p a n with
  | none => (.error stBadPacket, s)
  | some (st, off) =>
    if segment && st.isSram then (.error stBadPacket, s)
    else if s.anyWithdrawn st off n then (.error stDisabled, s)
    else if s.cutOff none st then (.error stTargetResetting, s)
    else match (s.metre none st off n).hostSideRead st off n with
      | (some b, s) => (.ok b, s)
      | (none, s) => (.error stUncorrectable, s)

/-- The segments staged core by core (R94): the state, whether every check passed, or the status that ends the command. -/
def State.stageSegments (s : State) (p : Nat) (table : List Word) : List (Nat × Option Nat) → Bool → Except Nat Bool × State
  | [], ok => (.ok ok, s)
  | (k, site) :: r, ok =>
    let w0 := wordAt table (2 * k)
    let w1 := wordAt table (2 * k + 1)
    let len := w1.toNat
    if fieldOf w0 63 52 ≠ 0 ∨ fieldOf w1 63 32 ≠ 0 then State.stageSegments s p table r false
    else match s.loadRead p w0.toNat len true with
      | (.error e, s) => (.error e, s)
      | (.ok b, s) =>
        let good := segmentOk b
        let s := match site with
          | some c =>
            let s := (s.modCore c fun x => { x with segment := b }).put .CORE_PROG_STATUS_STAGED c 0
            if s.get .CORE_PROG_STATUS_STATE c = 0 then s.put .CORE_PROG_STATUS_STATE c 4 else s
          | none => s
        State.stageSegments s p table r (ok && good)

/-- Staging ended: the cores no longer show it; STAGED as the checks went. -/
def State.stagedMark (s : State) (p : Nat) (ok : Bool) : State :=
  (s.partSites p).foldl (fun s c =>
    let s := s.put .CORE_PROG_STATUS_STAGED c (Bool.bit ok)
    if s.get .CORE_PROG_STATUS_STATE c = 4 then s.put .CORE_PROG_STATUS_STATE c 0 else s) s

/-- The partition then holds no loaded plan (R21). -/
def State.unload (s : State) (p : Nat) : State :=
  let s := (s.modPart p fun x => { x with loaded := none }).stagedMark p false
  if s.get .GST_PART_STATE_STATE p = 1 then s.put .GST_PART_STATE_STATE p 0 else s

/-- Whether a command is a PLAN_LOAD of a partition that is being staged (its header is held), or one that waits for it (R99: its address alone). -/
def Cmd.staging (c : Cmd) (p : Nat) : Bool := match c.kind with | .planLoad h _ => c.q.part.val == p && h.length == 8 | _ => false
def Cmd.awaitsLoad (c : Cmd) (p : Nat) : Bool := match c.kind with | .planLoad h _ => c.q.part.val == p && h.length == 1 | _ => false

/-- A PLAN_LOAD begun: the header read and checked, every segment staged. The result says whether it is being staged; otherwise its status. -/
def State.beginLoad (s : State) (p a : Nat) : Except Nat (List Word × Bool) × State :=
  match s.loadRead p a 64 false with
  | (.error e, s) => (.error e, s.unload p)
  | (.ok hb, s) =>
    let h := bytesToWords 8 hb
    let cores := s.partCores p
    if !hdrOk h then (.error stBadPacket, s.unload p)
    else match s.loadRead p (hdrTable h) (16 * cores.length) false with
      | (.error e, s) => (.error e, s.unload p)
      | (.ok tb, s) =>
        match s.stageSegments p (bytesToWords (2 * cores.length) tb) (cores.zipIdx.map fun e => (e.2, e.1.2.2)) true with
        | (.error e, s) => (.error e, s.unload p)
        | (.ok good, s) => (.ok (h, !good), s)

/-- A PLAN_LOAD begun as a whole once its reads hold tokens (R211, R212); they lie outside the BG_ allowances (R94). -/
def State.tryLoad (s : State) (p a : Nat) : Option (Except Nat (List Word × Bool)) × State := s.metered p false fun s => s.beginLoad p a

/-- PLAN_LOAD (R21, R94): a load that meets an earlier one waits for it (R99). -/
def planLoad (q : Req) (p0 : Word) (s : State) : State :=
  let p := q.part.val
  if s.cmds.any fun c => c.staging p || c.awaitsLoad p then s.startCmd q 0x01 (.planLoad [p0] false)
  else match s.tryLoad p p0.toNat with
    | (none, s) => s.startCmd q 0x01 (.planLoad [p0] false)
    | (some (.error e), s) => s.done q e
    | (some (.ok (h, bad)), s) => s.startCmd q 0x01 (.planLoad h bad)

def opPlanLoad : HostOp := ⟨0x01, .any, [addrMask]⟩

/-- PLAN_LOAD. -/
def execPlanLoad (q : Req) (p0 : Word) (s : State) : Host.Outcome State Fault Refusal :=
  hostRow opPlanLoad q [p0] (fun s => addrReason (s.cmdRange q.part.val p0.toNat 64)) (planLoad q p0) s

/-- Loads that waited, begun in order until one is being staged; `fuel` bounds them. -/
def State.nextLoads : Nat → State → Nat → State
  | 0, s, _ => s
  | fuel + 1, s, p =>
    match s.cmds.find? fun c => c.awaitsLoad p with
    | none => s
    | some c =>
      match c.kind with
      | .planLoad h _ =>
        (match s.tryLoad p (wordAt h 0).toNat with
         | (none, s) => s
         | (some (.error e), s) => State.nextLoads fuel (s.endCmd c e s.gust 0 0) p
         | (some (.ok (h, bad)), s) => s.replaceCmd c { c with kind := .planLoad h bad })
      | _ => s

/-- SEGMENT_STAGED (R94): the PLAN_LOAD in staging completes. -/
def segmentStaged (p : Nat) (s : State) : State :=
  match s.cmds.find? fun c => c.staging p with
  | none => s
  | some c =>
    match c.kind with
    | .planLoad h bad =>
      let s :=
        if bad then (s.unload p).endCmd c stBadPacket s.gust 0 0
        else
          let s := (s.modPart p fun x => { x with loaded := some (Tri.of h) }).stagedMark p true
          let s := if s.get .GST_PART_STATE_STATE p = 0 then s.put .GST_PART_STATE_STATE p 1 else s
          s.endCmd c stOk s.gust (hdrPlanId h) 0
      s.nextLoads (s.cmds.length) p
    | _ => s

/-- SEGMENT_STAGED. -/
def execSegmentStaged (p : Fin 12) (s : State) : Host.Outcome State Fault Refusal := .next (s.whenClocked (segmentStaged p.val))

/-! ### Carried regions (R22, R23, R26) -/

/-- The carried table's entries as stored: cache offset and length. -/
def carriedEntries (n : Nat) (b : List Byte) : List (Nat × Nat × Bool) :=
  let w := bytesToWords (2 * n) b
  (List.range n).map fun k => (fieldOf (wordAt w (2 * k)) 28 0, fieldOf (wordAt w (2 * k + 1)) 31 0,
    fieldOf (wordAt w (2 * k)) 63 29 == 0 && fieldOf (wordAt w (2 * k + 1)) 63 32 == 0)

/-- The carried table of a header: none where it cannot be read; an entry that breaks R22 is an error. -/
def State.carriedTable (s : State) (p : Nat) (h : List Word) : Except Nat (List (Nat × Nat)) × State :=
  let n := hdrCarriedCount h
  if n = 0 then (.ok [], s)
  else match s.loadRead p (hdrCarried h) (16 * n) false with
    | (.error e, s) => (.error e, s)
    | (.ok b, s) =>
      let es := carriedEntries n b
      let ok := es.all fun e => e.2.2 && e.1 % 64 == 0 && 64 ≤ e.2.1 && e.2.1 % 64 == 0 &&
        s.get .PART_SHC_BASE p ≤ e.1 && e.1 + e.2.1 ≤ s.get .PART_SHC_BASE p + s.get .PART_SHC_BYTES p
      (if ok then .ok (es.map fun e => (e.1, e.2.1)) else .error stBadPacket, s)

/-- The carried regions as (code, offset, length): code 0 the cache, code site + 1 a pool. -/
def State.carriedRegions (s : State) (p : Nat) (table : List (Nat × Nat)) : List (Nat × Nat × Nat) :=
  (table.map fun e => (0, e.1, e.2)) ++ (s.partSites p).filterMap fun c =>
    let h := SegHdr.of (s.core c).active
    if h.carryKib = 0 then none else some (c + 1, 1024 * h.carryBase, 1024 * h.carryKib)

/-- Copies of the carried regions taken as they stand. -/
def State.captureCarried (s : State) (p : Nat) : State :=
  s.modPart p fun x => { x with carried := x.carried.map fun e => (e.1, e.2.1, s.rawBytes (carriedStore e.1) e.2.1 e.2.2.length) }

/-! ### PLAN_ARM (R21, R25) -/

/-- Whether the lull holds the declared commit (R24, R25): L ≥ 3.0 µs + T_C, in units of 1/8000 ns. -/
def commitFits (lull words kib bytes : Nat) : Bool :=
  let room := lull * 100 - 3500
  3500 ≤ lull * 100 && words * 250 ≤ room * 8000 && kib * 4 ≤ room && bytes ≤ room * 8000

/-- A segment as PLAN_ARM checks it (R21): SLOTS as the header, every budget within the work window (units of 10 ns against 100 ns). -/
def segmentArmable (h : List Word) (window : Nat) (b : List Byte) : Bool :=
  (SegHdr.of b).slots == hdrSlots h && (List.range (hdrSlots h)).all fun k => bitsOf (slotEntry b k) 55 32 ≤ 10 * window

/-- A header read by vote (R326, R327): none where the vote is lost. -/
def State.votePlan (s : State) (p : Nat) (t : Tri (List Word)) : Option (List Word) × Tri (List Word) × State :=
  let (v, repaired, t) := t.vote
  (v, t, s.voteOutcome p 3 p v.isSome repaired)

/-- The checks of PLAN_ARM on the loaded plan: its header, or the status that refuses the command. -/
def State.armCheck (s : State) (p : Nat) : Except Nat (List Word × List (Nat × Nat)) × State :=
  match (s.part p).loaded with
  | none => (.error stBusy, s)
  | some t =>
    let (v, t, s) := s.votePlan p t
    let s := s.modPart p fun x => { x with loaded := some t }
    match v with
    | none => (.error stBadPacket, s)
    | some h =>
      let period := s.get .GST_PERIOD_PERIOD 0
      let lull := s.get .GST_LULL_LULL 0
      let segs := (s.partSites p).map fun c => (s.core c).segment
      if !hdrCrcOk h || hdrPeriod h != period || hdrLull h != lull || hdrDies h != s.get .PART_STATUS_DIE_MASK p ||
          !segs.all (segmentArmable h (period - lull)) then (.error stBadPacket, s)
      else match s.carriedTable p h with
        | (.error e, s) => (.error e, s)
        | (.ok table, s) =>
          let kib := (segs.map fun b => (SegHdr.of b).carryKib).foldl max 0
          let bytes := (table.map (·.2)).sum
          if commitFits lull (hdrCommitMax h) kib bytes then (.ok (h, table), s) else (.error stBadPacket, s)

def planArm (q : Req) (p0 : Word) (s : State) : State :=
  match s.armCheck q.part.val with
  | (.error e, s) => s.done q e
  | (.ok _, s) => (s.startCmd q 0x02 (.boundary (.planArm p0.toNat))).ackEarly q

def opPlanArm : HostOp := ⟨0x02, .any, [gustMask]⟩

/-- PLAN_ARM. -/
def execPlanArm (q : Req) (p0 : Word) (s : State) : Host.Outcome State Fault Refusal := hostRow opPlanArm q [p0] noCheck (planArm q p0) s

/-- Whether a pending PLAN_ARM takes effect at the boundary that starts gust `b` (R21): while the job runs, after a commit of gust `g` or later; otherwise
at gust `g` or later. -/
def State.armDue (s : State) (p g b : Nat) : Bool :=
  if (s.part p).running then (s.part p).decision == some true && (g == 0 || decide (g < b)) else g == 0 || decide (g ≤ b)

/-- The configuration records of a partition's standby segments applied, in order (R94). -/
def State.applyConfig (s : State) (p : Nat) : State :=
  (s.partSites p).foldl (fun s c =>
    (configRecords (s.core c).segment).foldl (fun s r =>
      match configTarget r.1 with
      | some (n, i, b) =>
        let bytes := if flagOf r.1 16 then 8 else 4
        n.fields.foldl (fun s f =>
          let v := f.merged (s.get f (c * n.count + i)) (r.2.toNat % 2 ^ (8 * bytes) * 2 ^ (8 * b)) ((2 ^ (8 * bytes) - 1) * 2 ^ (8 * b))
          s.put f (c * n.count + i) v) s
      | none => s) s) s

/-- The instruction banks swapped (R94). -/
def State.swapBanks (s : State) (p : Nat) : State :=
  (s.partSites p).foldl (fun s c =>
    let s := s.modCore c fun x => { x with active := x.segment, segment := x.active }
    (s.put .CORE_PROG_STATUS_BANK c (1 - s.get .CORE_PROG_STATUS_BANK c)).put .CORE_PROG_STATUS_STAGED c 0) s

/-- PLAN_ARM taking effect (R20, R21, R94). The carried regions are copied as they stand: their copy until the first commit (notes/assumptions/56.md). -/
def State.armEffect (s : State) (c : Cmd) : State :=
  let p := c.q.part.val
  match s.armCheck p with
  | (.error e, s) => s.endCmd c e s.gust 0 0
  | (.ok (_, table), s) =>
    let step := s.get .GST_PART_STEP_STEP p
    let s := ((s.applyConfig p).modPart p fun x => { x with armed := x.loaded, loaded := none, base := step }).swapBanks p
    let s := s.modPart p fun x => { x with carried := (s.carriedRegions p table).map fun e => (e.1, e.2.1, List.replicate e.2.2 0) }
    let s := s.captureCarried p
    let s := if (s.part p).running then s else s.put .GST_PART_STATE_STATE p 2
    s.endCmd c stOk s.gust step 0

/-! ### PLAN_DISARM (R21) -/

/-- Whether a partition has a pending boundary command that `f` selects. -/
def State.pendingFor (s : State) (p : Nat) (f : BCmd → Bool) : Bool :=
  s.cmds.any fun c => c.q.part.val == p && (match c.kind with | .boundary b => f b | _ => false)

def BCmd.isArm : BCmd → Bool | .planArm _ => true | _ => false
def BCmd.isStart : BCmd → Bool | .jobStart _ => true | _ => false

def planDisarm (q : Req) (s : State) : State :=
  let p := q.part.val
  if (s.part p).armed.isNone && !s.pendingFor p BCmd.isArm then s.done q stOk (s.get .GST_PART_STEP_STEP p)
  else (s.startCmd q 0x03 (.boundary .planDisarm)).ackEarly q

def opPlanDisarm : HostOp := ⟨0x03, .any, []⟩

/-- PLAN_DISARM. -/
def execPlanDisarm (q : Req) (s : State) : Host.Outcome State Fault Refusal := hostRow opPlanDisarm q [] noCheck (planDisarm q) s

/-- A partition's plan disarmed: the job, if it runs, stays at its last commit. -/
def State.disarm (s : State) (p : Nat) : State :=
  let ran := (s.part p).running
  let s := if ran then (s.stopRunning p).jobEvent p 2 stOk else s
  let s := s.modPart p fun x => { x with armed := none, carried := [] }
  let s := (s.partSites p).foldl (fun s c => s.put .CORE_PROG_STATUS_STATE c 0) s
  if ran then s else s.put .GST_PART_STATE_STATE p (if (s.part p).loaded.isSome then 1 else 0)

/-- PLAN_DISARM taking effect: a PLAN_ARM that names a later gust stays pending (notes/assumptions/56.md). -/
def State.disarmEffect (s : State) (c : Cmd) : State :=
  let p := c.q.part.val
  let s := if (s.part p).armed.isSome then s.disarm p else s
  s.endCmd c stOk s.gust (s.get .GST_PART_STEP_STEP p) 0

/-! ### GUST_SET (R18) -/

/-- Whether any plan is armed. -/
def State.anyArmed (s : State) : Bool := (List.range 12).any fun p => s.armed p

/-- The table of R18, in units of 100 ns. -/
def gustValuesOk (period lull : Nat) : Bool := 1000 ≤ period && period ≤ 200000 && 100 ≤ lull && 4 * lull ≤ period

def gustSet (q : Req) (p0 p1 p2 : Word) (s : State) : State :=
  if s.anyArmed then s.done q stBusy
  else (s.startCmd q 0x04 (.boundary (.gustSet p0.toNat (fieldOf p1 17 0) (fieldOf p1 47 32) (if flagOf p2 63 then some (fieldOf p2 47 0) else none)))).ackEarly q

def opGustSet : HostOp := ⟨0x04, .pfModule, [gustMask, bitsMask 17 0 + bitsMask 47 32, gustMask + 2 ^ 63]⟩

/-- GUST_SET. -/
def execGustSet (q : Req) (p0 p1 p2 : Word) (s : State) : Host.Outcome State Fault Refusal :=
  hostRow opGustSet q [p0, p1, p2]
    (fun s => if gustValuesOk (fieldOf p1 17 0) (fieldOf p1 47 32) && !s.gustBegun p0.toNat then 0 else 5) (gustSet q p0 p1 p2) s

/-- GUST_SET taking effect (R18, R327 kind 7). -/
def State.gustSetEffect (s : State) (c : Cmd) (period lull : Nat) (renumber : Option Nat) : State :=
  if s.anyArmed then s.endCmd c stBusy s.gust 0 0
  else
    let s := (s.put .GST_PERIOD_PERIOD 0 period).put .GST_LULL_LULL 0 lull
    let s := match renumber with | some n => s.put .GST_NUMBER_NUMBER 0 n | none => s
    let s := { s with gustWords := Tri.of [period, lull, s.regValue .GST_SYNC_CTL 0] }
    s.endCmd c stOk s.gust s.gust 0

/-! ### Jobs (R29, R31) -/

def jobStart (q : Req) (p0 : Word) (s : State) : State :=
  let p := q.part.val
  if s.get .PART_STATUS_STATE p = 5 then s.done q stBusy
  else if (s.part p).running || s.pendingFor p BCmd.isStart then s.done q stOk (s.get .GST_PART_STEP_STEP p)
  else (s.startCmd q 0x05 (.boundary (.jobStart p0.toNat))).ackEarly q

def opJobStart : HostOp := ⟨0x05, .any, [gustMask]⟩

/-- JOB_START. -/
def execJobStart (q : Req) (p0 : Word) (s : State) : Host.Outcome State Fault Refusal := hostRow opJobStart q [p0] noCheck (jobStart q p0) s

/-- JOB_START taking effect (R31): the job resumes from its last commit, and the rewind window is cleared. -/
def State.startEffect (s : State) (c : Cmd) : State :=
  let p := c.q.part.val
  let step := s.get .GST_PART_STEP_STEP p
  if (s.part p).armed.isNone ∨ s.get .PART_STATUS_STATE p = 5 then s.endCmd c stBusy s.gust 0 0
  else
    let s := s.modPart p fun x => { x with running := true, flag := none, rewinds := [], decision := none, refused := false }
    let s := s.puts p [(.GST_PART_STATE_STATE, 3), (.GST_PART_STATE_REWINDS_IN_WINDOW, 0), (.GST_PART_STATE_RERUN, 0)]
    (s.jobEvent p 3 stOk).endCmd c stOk s.gust step 0

def jobStop (q : Req) (s : State) : State :=
  let p := q.part.val
  if !(s.part p).running && !s.pendingFor p BCmd.isStart then
    s.done q stOk (s.get .GST_PART_STEP_STEP p) (s.get .GST_PART_COMMIT_GUST p)
  else (s.startCmd q 0x06 (.boundary .jobStop)).ackEarly q

def opJobStop : HostOp := ⟨0x06, .any, []⟩

/-- JOB_STOP. -/
def execJobStop (q : Req) (s : State) : Host.Outcome State Fault Refusal := hostRow opJobStop q [] noCheck (jobStop q) s

/-- JOB_STOP taking effect, or a stop by the link rule (R275, R31). -/
def State.stopAtBoundary (s : State) (p : Nat) : State := if (s.part p).running then (s.stopRunning p).jobEvent p 2 stOk else s

def State.stopEffect (s : State) (c : Cmd) : State :=
  let p := c.q.part.val
  let s := s.stopAtBoundary p
  s.endCmd c stOk s.gust (s.get .GST_PART_STEP_STEP p) (s.get .GST_PART_COMMIT_GUST p)

/-- JOB_REWIND (R29): with no job running it has no effect. -/
def jobRewind (q : Req) (s : State) : State :=
  let p := q.part.val
  let s := if (s.part p).running then s.flagPart p 6 stOk else s
  s.done q stOk

def opJobRewind : HostOp := ⟨0x07, .any, []⟩

/-- JOB_REWIND. -/
def execJobRewind (q : Req) (s : State) : Host.Outcome State Fault Refusal := hostRow opJobRewind q [] noCheck (jobRewind q) s

end Sys2Proof.Machine
end

