-- ==== Sys2Proof/Machine/Kv.lean ====
section
/-!
DEFINITION. The host KV commands (R190 to R194): KV_ROOT_SET, KV_FORK, KV_TRIM, KV_EVICT, KV_PREFETCH, the page copies, and what they do in the lull after a
commit, through the commit path.
Readings taken by inference (DEDUCED): notes/assumptions/22.md.
-/
namespace Sys2Proof.Machine

/-! ### The commit path (R24, R120, R191) -/

/-- A root record written in three copies. -/
def State.writeRoot (s : State) (p n : Nat) (w : List Word) : State :=
  (List.range 3).foldl (fun s k => (List.range 4).foldl (fun s i => s.commitWrite (s.rootAt p n k + 8 * i) (wordAt w i)) s) s

/-- T_C of a partition's plan in 1/8000 ns beyond 0.5 µs (R24), with the words declared. -/
def State.commitCost (s : State) (p : Nat) : Nat :=
  match s.armedHdr p with
  | none => 0
  | some h =>
    let kib := ((s.partSites p).map fun c => (SegHdr.of (s.core c).active).carryKib).foldl max 0
    let bytes := ((s.part p).carried.map fun e => if e.1 = 0 then e.2.2.length else 0).sum
    max (hdrCommitMax h * 250) (max (kib * 4 * 8000) bytes)

/-- Words of host KV writes that fit in the lull after the plan's declared commit (R191): 32 words per ns and die. -/
def State.lullRoom (s : State) (p : Nat) : Nat :=
  ((s.get .GST_LULL_LULL 0 * 100 - 3500) * 8000 - s.commitCost p) * 32 / 8000 * (s.partDies p).length

/-! ### Directories (R177, R178) -/

/-- The page entries of a root as they stand in memory: stream, first position, device address of the slot, entry, header address. -/
structure PageAt where
  stream : Nat
  first : Nat
  slot : Nat
  entry : Word
  header : Nat
  deriving DecidableEq, Repr

/-- A read at an address of the partition for a host command, or the status that ends it. -/
def State.hostAt (s : State) (p a n : Nat) : Except Nat (List Byte) × State :=
  match s.readAt none p a n with
  | (.ok b, s) => (.ok b, s)
  | (.foreign, s) => (.error stBadPacket, s)
  | (.retired, s) => (.error stDisabled, s)
  | (.bad, s) => (.error stUncorrectable, s)
  | (.away, s) => (.error stTargetResetting, s)

/-- Every page entry of a root. -/
def State.pageEntries (s : State) (p : Nat) (r : Root) : Except Nat (List PageAt) × State :=
  let leaves := (r.streams * 2 ^ r.shift + 511) / 512
  let step (acc : Except Nat (List PageAt) × State) (l : Nat) : Except Nat (List PageAt) × State :=
    match acc with
    | (.error e, s) => (.error e, s)
    | (.ok ps, s) =>
      match s.leafOf none p r (512 * l) with
      | (.none, s) => (.ok ps, s)
      | (.fail .access, s) => (.error stDisabled, s)
      | (.fail .flagged, s) => (.error stUncorrectable, s)
      | (.fail _, s) => (.error stBadPacket, s)
      | (.leaf a, s) =>
        match s.hostAt p a 4096 with
        | (.error e, s) => (.error e, s)
        | (.ok b, s) =>
          let found := (bytesToWords 512 b).zipIdx.filterMap fun e =>
            let x := 512 * l + e.2
            if entIsPage e.1 && x / 2 ^ r.shift < r.streams then
              some ⟨x / 2 ^ r.shift, x % 2 ^ r.shift * 64, a + 8 * e.2, e.1, a + 4096 + 256 * e.2⟩
            else none
          (.ok (ps ++ found), s)
  (List.range leaves).foldl step (.ok [], s)

/-- Positions of a page entry of a class. -/
def PageAt.count (e : PageAt) (cls : Nat) : Nat := pageN cls (entFmt e.entry)

/-- Whether a device address lies where no packet from the I/O die arrives (R198, R248). -/
def State.addrCutOff (s : State) (a : Nat) : Bool := match s.devLoc a with | some (st, _) => s.cutOff none st | none => false

/-- A root for a host command: its words, or the status that ends the command. -/
def State.hostRoot (s : State) (p n : Nat) : Except Nat (List Word) × State :=
  if s.addrCutOff (s.rootAt p n 0) then (.error stTargetResetting, s)
  else match s.readRoot none p none n with
  | (.lost, s) => (.error stVoteLost, s)
  | (.foreign, s) => (.error stBadPacket, s)
  | (.ok w, s) => (if flagOf (wordAt w 0) 0 && rootOk w then .ok w else .error stBadPacket, s)

/-- Whether a page of a root is being moved (R191, R194). -/
def State.moving (s : State) (p root : Nat) (slot : Nat) : Bool :=
  s.cmds.any fun c => c.q.part.val == p && (match c.kind with
    | .kvMove r left copied _ _ _ => r == root && ((left ++ copied).any fun m => m.slot == slot)
    | _ => false)

/-- Index of a root within the table. -/
def State.rootIndexOk (s : State) (p n : Nat) : Bool := decide (n < s.get .KVW_ROOT_COUNT_COUNT p)

/-! ### KV_ROOT_SET (R191) -/

/-- A record that KV_ROOT_SET accepts: one that R176 allows, or one not in use with its reserved bits zero. -/
def rootSetOk (w : List Word) : Bool :=
  rootOk w || (!flagOf (wordAt w 0) 0 && fieldOf (wordAt w 0) 11 8 == 0 && fieldOf (wordAt w 0) 63 61 == 0 && fieldOf (wordAt w 1) 63 48 == 0 &&
    fieldOf (wordAt w 2) 63 32 == 0)

def kvRootSet (q : Req) (n : Nat) (w : List Word) (s : State) : State :=
  let p := q.part.val
  if !rootSetOk w then s.done q stBadPacket
  else if (Root.of w).long && !s.licLong p then s.done q stLicence
  else if (s.cmdRange p (s.rootAt p n 2) 32).isNone then s.done q stBadPacket
  else s.startCmd q 0x10 (.kvRootSet n w)

def opKvRootSet : HostOp := ⟨0x10, .any, [bitsMask 31 0, word64, word64, word64]⟩

/-- KV_ROOT_SET. -/
def execKvRootSet (q : Req) (p0 p1 p2 p3 : Word) (s : State) : Host.Outcome State Fault Refusal :=
  hostRow opKvRootSet q [p0, p1, p2, p3] (fun s => if s.rootIndexOk q.part.val p0.toNat then 0 else 5) (kvRootSet q p0.toNat [p1, p2, p3]) s

/-! ### KV_FORK (R190, R191) -/

/-- Whether two roots have one shape. -/
def sameShape (a b : Root) : Bool := a.cls == b.cls && a.shift == b.shift && a.streams == b.streams

/-- An entry with its FORK_COUNT raised by one, saturating at 255. -/
def forkedEntry (e : Word) : Word :=
  let n := min 255 (entForks e + 1)
  BitVec.ofNat 64 (e.toNat - placed (entForks e) 8 + placed n 8 - placed (Bool.bit (flagOf e 6)) 6 + placed 1 6)

/-- The leaf slot of slot `x` of a root: directory address and header address. -/
def State.slotAt (s : State) (p : Nat) (r : Root) (x : Nat) : Option (Nat × Nat) × State :=
  match s.leafOf none p r x with
  | (.leaf a, s) => (some (a + 8 * (x % 512), a + 4096 + 256 * (x % 512)), s)
  | (_, s) => (none, s)

/-- One page of a fork copied into the destination (R191): entry, with its count raised, and header. Nothing where the allowance holds it. -/
def State.forkOne (s : State) (p : Nat) (a b : Root) (x : Nat) : State × Option (Except Nat (Option Nat)) :=
  match s.slotAt p a x with
  | (none, s) => (s, some (.ok none))
  | (some (sa, sh), s) =>
    match s.slotAt p b x with
    | (none, s) => (s, some (.error stBadPacket))
    | (some (da, dh), s) =>
      match s.devRange sa 8, s.devRange da 8 with
      | some (ss, _), some (ds, _) =>
        match s.grant p (ss.bgOf ++ ds.bgOf) (ss.resOf ++ ds.resOf) 264 with
        | (none, s) => (s, none)
        | (some s, _) =>
          match s.hostAt p sa 8 with
          | (.error e, s) => (s, some (.error e))
          | (.ok eb, s) =>
            let e := BitVec.ofNat 64 (ofBytesLE eb)
            if !entIsPage e then (s, some (.ok none))
            else match s.hostAt p sh 256 with
              | (.error e, s) => (s, some (.error e))
              | (.ok hb, s) =>
                match s.devRange da 8, s.devRange dh 256 with
                | some (st, off), some (hst, hoff) =>
                  let (s, r1) := s.store hst hoff hb
                  let (s, r2) := s.store st off (toBytesLE 8 (forkedEntry e).toNat)
                  (s, some (if r1 || r2 then .error stUncorrectable else .ok (some sa)))
                | _, _ => (s, some (.error stBadPacket))
      | _, _ => (s, some (.error stBadPacket))

/-- The copying of a fork as far as its allowance goes; `fuel` bounds it. -/
def State.forkRun : Nat → State → Cmd → State
  | 0, s, _ => s
  | fuel + 1, s, c =>
    match c.kind with
    | .kvFork src dst f (x :: left) shared =>
      let p := c.q.part.val
      (match s.hostRoot p src with
       | (.error e, s) => s.endCmd c e s.gust 0 0
       | (.ok wa, s) =>
         match s.hostRoot p dst with
         | (.error e, s) => s.endCmd c e s.gust 0 0
         | (.ok wb, s) =>
           match s.forkOne p (Root.of wa) (Root.of wb) x with
           | (s, none) => s
           | (s, some (.error e)) => s.endCmd c e s.gust 0 0
           | (s, some (.ok got)) =>
             let c' := { c with kind := .kvFork src dst f left (match got with | some a => shared ++ [a] | none => shared) }
             State.forkRun fuel (s.replaceCmd c c') c')
    | _ => s

/-- Every fork's copying tried again. -/
def State.forkPass (s : State) : State :=
  s.cmds.foldl (fun s c => match c.kind with | .kvFork _ _ _ left _ => s.forkRun (left.length + 1) c | _ => s) s

/-- A KV command's start, which reads roots and directories: the command waits as a whole while it may not (R211, R212). -/
def State.kvStart (s : State) (q : Req) (op : Nat) (w : List Word) (f : State → State) : State :=
  match s.metered q.part.val true fun s => ((), f s) with
  | (some _, s) => s
  | (none, s) => s.startCmd q op (.start op w)

/-- KV_FORK begun. -/
def kvFork (q : Req) (src dst f : Nat) (s : State) : State :=
  let p := q.part.val
  match s.hostRoot p src with
  | (.error e, s) => s.done q e
  | (.ok wa, s) =>
    match s.hostRoot p dst with
    | (.error e, s) => s.done q e
    | (.ok wb, s) =>
      let a := Root.of wa
      let b := Root.of wb
      if !sameShape a b then s.done q stBadPacket
      else if a.length < f then s.done q stNotCommitted
      else match s.pageEntries p a with
        | (.error e, s) => s.done q e
        | (.ok ps, s) =>
          let xs := (ps.filter fun e => e.first < f).map fun e => e.stream * 2 ^ a.shift + e.first / 64
          let (ok, s) := xs.foldl (fun (acc : Bool × State) x => let (l, s) := acc.2.slotAt p b x; (acc.1 && l.isSome, s)) (true, s)
          if ok then (s.startCmd q 0x11 (.kvFork src dst f xs [])).forkPass else s.done q stBadPacket

def opKvFork : HostOp := ⟨0x11, .any, [word64, bitsMask 31 0]⟩

/-- KV_FORK. -/
def execKvFork (q : Req) (p0 p1 : Word) (s : State) : Host.Outcome State Fault Refusal :=
  hostRow opKvFork q [p0, p1]
    (fun s => if s.rootIndexOk q.part.val (fieldOf p0 31 0) && s.rootIndexOk q.part.val (fieldOf p0 63 32) then 0 else 5)
    (fun s => s.kvStart q 0x11 [p0, p1] (kvFork q (fieldOf p0 31 0) (fieldOf p0 63 32) p1.toNat)) s

/-! ### KV_TRIM (R191) -/

/-- KV_TRIM begun. -/
def kvTrim (q : Req) (n t b : Nat) (keep : Bool) (s : State) : State :=
  let p := q.part.val
  match s.hostRoot p n with
  | (.error e, s) => s.done q e
  | (.ok w, s) =>
    if !keep && (Root.of w).length < t then s.done q stNotCommitted else s.startCmd q 0x12 (.kvTrim n t b keep)

def opKvTrim : HostOp := ⟨0x12, .any, [bitsMask 31 0, word64, 1]⟩

/-- KV_TRIM. -/
def execKvTrim (q : Req) (p0 p1 p2 : Word) (s : State) : Host.Outcome State Fault Refusal :=
  let t := fieldOf p1 31 0
  let b := fieldOf p1 63 32
  let keep := flagOf p2 0
  hostRow opKvTrim q [p0, p1, p2]
    (fun s => if !s.rootIndexOk q.part.val p0.toNat ∨ b % 256 ≠ 0 ∨ (!keep && t < b) then 5 else 0)
    (fun s => s.kvStart q 0x12 [p0, p1, p2] (kvTrim q p0.toNat t b keep)) s

/-! ### KV_EVICT and KV_PREFETCH (R192, R193) -/

/-- A destination of the list: a free frame of the store, or a slot the issuer may use. -/
def State.destOk (s : State) (q : Req) (store v : Nat) : Bool :=
  if store = 2 then v < 134217728 && s.ownsPeatDie q (peatDie (v % 16) (v / 16 % 8))
  else match s.cmdRange q.part.val v 32768 with
    | some (.fen _, _) => store == 0 && v % 32768 == 0
    | some (.marsh _, _) => store == 1 && v % 32768 == 0
    | _ => false

/-- KV_EVICT or KV_PREFETCH begun. -/
def kvMoveStart (q : Req) (op root s0 n store : Nat) (relink : Bool) (first end_ list count : Nat) (s : State) : State :=
  let p := q.part.val
  let down := op = 0x13
  match s.hostRoot p root with
  | (.error e, s) => s.done q e
  | (.ok w, s) =>
    let r := Root.of w
    if r.streams < s0 + n then s.done q stBadPacket
    else if down && r.length < end_ then s.done q stNotCommitted
    else if down && store = 2 && !s.licLong p then s.done q stLicence
    else match s.pageEntries p r with
      | (.error e, s) => s.done q e
      | (.ok ps, s) =>
        let ps := ps.filter fun e => s0 ≤ e.stream && e.stream < s0 + n && first ≤ e.first && e.first < end_ &&
          (if down then entStore e.entry < store else store < entStore e.entry)
        if ps.isEmpty then s.done q stOk
        else if count < ps.length then s.done q stBadPacket
        else if (store = 2 || ps.any fun e => entStore e.entry == 2) && s.inForce .PEAT_CTL_ENABLE 0 == 0 then s.done q stDisabled
        else match s.hostAt p list (8 * ps.length) with
          | (.error e, s) => s.done q e
          | (.ok lb, s) =>
            let ds := (bytesToWords ps.length lb).map (·.toNat)
            if !ds.all (s.destOk q store) || ps.any fun e => entStore e.entry == 2 && !s.ownsPeatDie q (peatDie (entSlot e.entry % 16) (entSlot e.entry / 16 % 8)) then
              s.done q stBadPacket
            else if store != 2 && ds.any fun a => (match s.devRange a 32768 with | some (st, off) => s.anyWithdrawn st off 32768 | none => true) then
              s.done q stDisabled
            else
              let ms : List KvMove := (ps.zip ds).map fun e => ⟨e.1.slot, e.1.entry, store, e.2, e.1.header, none, false, false⟩
              if relink then s.startCmd q op (.kvMove root [] ms 0 none 0) else (s.startCmd q op (.kvMove root ms [] 0 none 0)).peatPass

def opKvEvict : HostOp := ⟨0x13, .any, [bitsMask 31 0, bitsMask 34 0, word64, addrMask, bitsMask 31 0]⟩
def opKvPrefetch : HostOp := ⟨0x14, .any, [bitsMask 31 0, bitsMask 34 0, word64, addrMask, bitsMask 31 0]⟩

/-- Parameter ranges of the two commands. -/
def kvMoveReason (q : Req) (down : Bool) (p0 p1 p2 p3 p4 : Word) (s : State) : Nat :=
  let store := fieldOf p1 33 32
  let n := fieldOf p4 31 0
  if !s.rootIndexOk q.part.val (fieldOf p0 31 0) then 5
  else if store = 3 ∨ (down && store == 0) ∨ (!down && store == 2) then 5
  else if fieldOf p2 31 0 % 256 ≠ 0 ∨ fieldOf p2 63 32 % 256 ≠ 0 ∨ fieldOf p2 63 32 < fieldOf p2 31 0 then 5
  else if n = 0 then 0
  else addrReason (s.cmdRange q.part.val p3.toNat (8 * n))

/-- The two commands begun, from their parameters. -/
def kvMoveOf (q : Req) (op : Nat) (w : List Word) (s : State) : State :=
  let p (k : Nat) := wordAt w k
  kvMoveStart q op (fieldOf (p 0) 31 0) (fieldOf (p 1) 15 0) (fieldOf (p 1) 31 16 + 1) (fieldOf (p 1) 33 32) (flagOf (p 1) 34) (fieldOf (p 2) 31 0)
    (fieldOf (p 2) 63 32) (p 3).toNat (fieldOf (p 4) 31 0) s

/-- KV_EVICT. -/
def execKvEvict (q : Req) (p0 p1 p2 p3 p4 : Word) (s : State) : Host.Outcome State Fault Refusal :=
  let w := [p0, p1, p2, p3, p4]
  hostRow opKvEvict q w (kvMoveReason q true p0 p1 p2 p3 p4) (fun s => s.kvStart q 0x13 w (kvMoveOf q 0x13 w)) s

/-- KV_PREFETCH. -/
def execKvPrefetch (q : Req) (p0 p1 p2 p3 p4 : Word) (s : State) : Host.Outcome State Fault Refusal :=
  let w := [p0, p1, p2, p3, p4]
  hostRow opKvPrefetch q w (kvMoveReason q false p0 p1 p2 p3 p4) (fun s => s.kvStart q 0x14 w (kvMoveOf q 0x14 w)) s

/-- A KV command that waited at its start tried again, by opcode; it keeps its place among the commands only once it has begun anew. A command whose completion is discarded
is dropped. -/
def State.startAgain (s : State) (c : Cmd) : State :=
  let t := { s with cmds := s.cmds.erase c }
  let p (w : List Word) (k : Nat) := wordAt w k
  match c.kind with
  | .start op w =>
    if c.discard then t
    else if op = 0x11 then t.kvStart c.q op w (kvFork c.q (fieldOf (p w 0) 31 0) (fieldOf (p w 0) 63 32) (p w 1).toNat)
    else if op = 0x12 then t.kvStart c.q op w (kvTrim c.q (p w 0).toNat (fieldOf (p w 1) 31 0) (fieldOf (p w 1) 63 32) (flagOf (p w 2) 0))
    else t.kvStart c.q op w (kvMoveOf c.q op w)
  | _ => s

/-- Commands and loads that wait at their start tried again. -/
def State.startPass (s : State) : State :=
  let s := s.cmds.foldl State.startAgain s
  (List.range 12).foldl (fun s p => if (s.cmds.any fun c => c.staging p) || !(s.cmds.any fun c => c.awaitsLoad p) then s else s.nextLoads s.cmds.length p) s

/-- The copy of one page completes (R192): between fen and marsh it is one background request of 32 KiB; a page from or to the peat has been moved by its
NAND operation. -/
def kvPageCopyDone (p : Nat) (s : State) : State :=
  match s.cmds.find? fun c => c.q.part.val == p && (match c.kind with | .kvMove _ (_ :: _) _ _ none _ => true | _ => false) with
  | none => s
  | some c =>
    match c.kind with
    | .kvMove root (m :: ms) copied moved st g =>
      let next (s : State) : State := s.replaceCmd c { c with kind := .kvMove root ms (copied ++ [m]) moved st g }
      if m.finished then (next s).peatPass
      else if m.store = 2 ∨ entStore m.old = 2 then s
      else match s.devRange (entAddr m.old) 32768, s.devRange m.dest 32768 with
        | some (ss, so), some (ds, doff) =>
          if s.anyWithdrawn ss so 32768 || s.anyWithdrawn ds doff 32768 then s.nandStop c stDisabled
          else if s.bankHeld ss so 32768 || s.bankHeld ds doff 32768 then s
          else match s.grant p (ss.bgOf ++ ds.bgOf) (ss.resOf ++ ds.resOf) 32768 with
            | (none, s) => s
            | (some s, _) =>
              match s.hostSideRead ss so 32768 with
              | (none, s) => s.nandStop c stUncorrectable
              | (some b, s) =>
                let (s, refused) := s.store ds doff b
                if refused then s.nandStop c stUncorrectable else next s
        | _, _ => s.nandStop c stBadPacket
    | _ => s

/-- KV_PAGE_COPY_DONE. -/
def execKvPageCopyDone (p : Fin 12) (s : State) : Host.Outcome State Fault Refusal := .next (s.whenClocked (kvPageCopyDone p.val))

/-! ### In the lull after a commit (R191, R192, R326) -/

/-- A trim applied: the words it writes, its writes and the entries cleared; or the status that refuses it. -/
def State.trimPlan (s : State) (p n t b : Nat) (keep : Bool) : Except Nat (List (Nat × Word) × Nat) × State :=
  match s.hostRoot p n with
  | (.error e, s) => (.error e, s)
  | (.ok w, s) =>
    let r := Root.of w
    if (keep && r.length < b) || (!keep && r.length < t) then (.error stNotCommitted, s)
    else match s.pageEntries p r with
      | (.error e, s) => (.error e, s)
      | (.ok ps, s) =>
        let gone := ps.filter fun e => (!keep && t ≤ e.first) || e.first + e.count r.cls ≤ b
        let reopened := ps.filter fun e => !keep && e.first < t && t < e.first + e.count r.cls
        if (gone ++ reopened).any fun e => s.moving p n e.slot then (.error stBusy, s)
        else
          let len := if keep then r.length else t
          let w1 := BitVec.ofNat 64 (len + placed (fieldOf (wordAt w 1) 63 32) 32)
          let w' := rootSealed [wordAt w 0, w1, BitVec.ofNat 64 b]
          let roots := (List.range 3).flatMap fun k =>
            let a := s.rootAt p n k
            (if keep then [] else [(a + 8, w1)]) ++ [(a + 16, wordAt w' 2), (a + 24, wordAt w' 3)]
          (.ok ((gone.map fun e => (e.slot, 0)) ++ roots, gone.length), s)

/-- A fork applied: source counts raised, destination LENGTH set. -/
def State.forkPlan (s : State) (p dst f : Nat) (shared : List Nat) : Except Nat (List (Nat × Word)) × State :=
  match s.hostRoot p dst with
  | (.error e, s) => (.error e, s)
  | (.ok w, s) =>
    let w1 := BitVec.ofNat 64 (f + placed (fieldOf (wordAt w 1) 63 32) 32)
    let w' := rootSealed [wordAt w 0, w1, wordAt w 2]
    let srcs := shared.filterMap fun a => match s.devRange a 8 with
      | some (st, off) => let e := s.peekWord st off; if entIsPage e then some (a, forkedEntry e) else none
      | none => none
    (.ok (srcs ++ (List.range 3).flatMap fun k => let a := s.rootAt p dst k; [(a + 8, w1), (a + 24, wordAt w' 3)]), s)

/-- The entry change of one moved page (R192): left alone where the entry was trimmed or copied meanwhile. -/
def State.movePlan (s : State) (m : KvMove) : List (Nat × Word) :=
  match s.devRange m.slot 8 with
  | some (st, off) =>
    let e := s.peekWord st off
    if entIsPage e && entStore e == entStore m.old && fieldOf e 63 27 == fieldOf m.old 63 27 then
      (m.slot, BitVec.ofNat 64 (1 + placed m.store 2 + placed (entFmt e) 4 + placed 1 6 + placed (entForks e) 8 +
          placed (if m.store = 2 then m.dest else m.dest / 32768) 27)) ::
        (match m.crc with | some c => [(m.header + 0x28, BitVec.ofNat 64 (c + placed 1 32))] | none => [])
    else []
  | none => []

/-- One command's turn: the state and the room left. -/
def State.kvTurn (s : State) (p room : Nat) (c : Cmd) : State × Nat :=
  let next := s.gust + 1
  match c.kind with
  | .kvRootSet n w =>
    if room < 12 then (s.endCmd c stBusy s.gust 0 0, room)
    else ((s.writeRoot p n (rootSealed w)).endCmd c stOk next 0 0, room - 12)
  | .kvTrim n t b keep =>
    match s.trimPlan p n t b keep with
    | (.error e, s) => (s.endCmd c e s.gust 0 0, room)
    | (.ok (ws, n), s) =>
      if room < ws.length then (s.endCmd c stBusy s.gust 0 0, room) else ((s.commitWrites ws).endCmd c stOk next n 0, room - ws.length)
  | .kvFork _ dst f [] shared =>
    match s.forkPlan p dst f shared with
    | (.error e, s) => (s.endCmd c e s.gust 0 0, room)
    | (.ok ws, s) =>
      if room < ws.length then (s.endCmd c stBusy s.gust 0 0, room) else ((s.commitWrites ws).endCmd c stOk next shared.length 0, room - ws.length)
  | .kvMove root left copied moved st _ =>
    let step (acc : State × Nat × List KvMove × Nat) (m : KvMove) : State × Nat × List KvMove × Nat :=
      let (s, room, kept, n) := acc
      let ws := s.movePlan m
      if room < ws.length then (s, room, kept ++ [m], n)
      else (s.commitWrites ws, room - ws.length, kept, if ws.isEmpty then n else n + 1)
    let (s, room, kept, n) := copied.foldl step (s, room, [], 0)
    let s := s.bump .KVW_MOVE_STATUS_PAGES_MOVED p n
    let c' := { c with kind := .kvMove root left kept (moved + n) st (if n = 0 then (match c.kind with | .kvMove _ _ _ _ _ g => g | _ => 0) else s.gust) }
    ((s.replaceCmd c c').kvMoveEnd c', room)
  | _ => (s, room)

/-- The minority copies of roots rewritten (R326). -/
def State.rewriteRoots (s : State) (p : Nat) : State :=
  let s' := (s.part p).rewrites.foldl (fun s n =>
    match s.readRoot none p none n with
    | (.ok w, s) => (s.writeRoot p n w).voteOutcome p 1 n true true
    | (_, s) => s) s
  s'.modPart p fun x => { x with rewrites := [] }

/-- The host KV commands of a partition applied in start order, and pending rewrites. -/
def State.kvApply (s : State) (p : Nat) : State :=
  let s := s.rewriteRoots p
  ((s.cmds.filter fun c => c.q.part.val == p).foldl (fun (acc : State × Nat) c => acc.1.kvTurn p acc.2 c) (s, s.lullRoom p)).1

end Sys2Proof.Machine
end

