-- ==== Sys2Proof/Machine/MemCmd.lean ====
section
/-!
DEFINITION. Host access to device memory: MEM_READ and MEM_WRITE (R289, R292), the BAR2 window (R281), the flip masks (R121, R202). A command runs as a
series of requests of at most one 2 KiB chunk each (notes/assumptions/28.md).
Readings taken by inference (DEDUCED): notes/assumptions/23.md.
-/
namespace Sys2Proof.Machine

/-- Whether a background request of a partition waits for the lull to pass (R32). -/
def State.lullHolds (s : State) (p : Nat) : Bool := p < 12 && s.armed p && s.inLull

/-- Bytes from an offset to the end of its chunk, at most `n`. -/
def chunkPart (off n : Nat) : Nat := min n (2048 - off % 2048)

/-- What stands in the way of a request to a store: nothing, a wait, or a status. -/
inductive Way where
  | clear
  | waits
  | ends (status : Nat)
  deriving DecidableEq, Repr

/-- The way of one request of `n` bytes (R119, R141, R198, R248, R329). In Doldrums mode retired chunks are readable (R336). -/
def State.way (s : State) (p : Nat) (st : Store) (off n : Nat) (read : Bool) : Way × State :=
  if s.anyWithdrawn st off n && !(read && s.inDoldrums) then (.ends stDisabled, s)
  else
    let r := s.reach none st
    match r with
    | .training => (.waits, s)
    | .answered _ => (.ends stTargetResetting, s.countAnswered r)
    | .unreachable => (.ends stTargetResetting, s)
    | .served _ => (if s.bankHeld st off n || s.lullHolds p then .waits else .clear, s)

/-- The record of a window access that is treated as unmapped (R281). -/
def State.windowEvent (s : State) (f a code : Nat) : State := s.event ⟨5, 10, 0, 13, (s.fnPart f).getD 15, code, 1, a⟩

/-- Bytes written to some runs, one after another. -/
def State.writePieces (s : State) : List (Store × Nat × Nat) → List Byte → State
  | [], _ => s
  | x :: r, bs => (s.hostWrite x.1 x.2.1 (bs.take x.2.2)).1.writePieces r (bs.drop x.2.2)

/-- A window access (R281): whether it may go on now, with the tokens and allowances that it needs. -/
def State.windowGo (s : State) (p a n : Nat) (read : Bool) : Way × State :=
  match s.devRuns a n with
  | none => (.ends stBadPacket, s)
  | some rs => rs.foldl (fun acc x =>
    match acc with
    | (.clear, s) =>
      (match s.way p x.1 x.2.1 x.2.2 read with
       | (.clear, s) => (match s.grant p x.1.bgOf x.1.resOf x.2.2 with | (none, s) => (.waits, s) | (some s, _) => (.clear, s))
       | r => r)
    | r => r) (.clear, s)

/-- The next request of a command in progress; none where it waits. The command as it stands then, or its end. -/
def State.memOne (s : State) (c : Cmd) : State × Option Cmd :=
  let p := c.q.part.val
  match c.kind with
  | .memRead a n host done =>
    if n ≤ done then (s.endCmd c stOk s.gust done 0, none)
    else match s.devLoc (a + done) with
      | none => (s.endCmd c stBadPacket s.gust done 0, none)
      | some (st, off) =>
        let k := chunkPart off (n - done)
        match s.way p st off k true with
        | (.ends e, s) => (s.endCmd c e s.gust done 0, none)
        | (.waits, s) => (s, none)
        | (.clear, s) =>
          match s.grant p st.bgOf st.resOf k with
          | (none, s) => (s, none)
          | (some s, _) =>
            match s.hostSideRead st off k with
            | (none, s) => (s.endCmd c stUncorrectable s.gust done 0, none)
            | (some bs, s) =>
              let s := if s.hostUp then s.hostStore (host + done) bs else s
              let c' := { c with kind := .memRead a n host (done + k) }
              (s.replaceCmd c c', some c')
  | .memWrite a n host done =>
    if n ≤ done then (s.endCmd c stOk s.gust done 0, none)
    else match s.devLoc (a + done) with
      | none => (s.endCmd c stBadPacket s.gust done 0, none)
      | some (st, off) =>
        let k := chunkPart off (n - done)
        match s.way p st off k false with
        | (.ends e, s) => (s.endCmd c e s.gust done 0, none)
        | (.waits, s) => (s, none)
        | (.clear, s) =>
          if !s.hostUp then (s.endCmd c stUncorrectable s.gust done 0, none)
          else match s.grant p st.bgOf st.resOf k with
            | (none, s) => (s, none)
            | (some s, _) =>
              let (s, refused) := s.hostWrite st off (s.hostRead (host + done) k)
              if refused then (s.endCmd c stUncorrectable s.gust done 0, none)
              else
                let c' := { c with kind := .memWrite a n host (done + k) }
                (s.replaceCmd c c', some c')
  | .windowRead f a n =>
    match s.windowGo p a n true with
    | (.clear, s) =>
      let (bs, s) := s.readPieces ((s.devRuns a n).getD [])
      ({ s with cmds := s.cmds.erase c }.answer (.window f bs), none)
    | (.waits, s) => (s, none)
    | (.ends e, s) => if e = stTargetResetting then ({ s with cmds := s.cmds.erase c }.answer (.window f none), none)
      else ((({ s with cmds := s.cmds.erase c } : State).windowEvent f a e).answer (.unsupported f), none)
  | .windowWrite f a bs =>
    match s.windowGo p a bs.length false with
    | (.clear, s) => ({ s.writePieces ((s.devRuns a bs.length).getD []) bs with cmds := s.cmds.erase c }, none)
    | (.waits, s) => (s, none)
    | (.ends e, s) =>
      let s := { s with cmds := s.cmds.erase c }
      (if e = stTargetResetting then s else s.windowEvent f a e, none)
  | _ => (s, none)

/-- Requests of a command until it waits or ends; `fuel` bounds them. -/
def State.memRun : Nat → State → Cmd → State
  | 0, s, _ => s
  | fuel + 1, s, c =>
    match s.memOne c with
    | (s, some c) => State.memRun fuel s c
    | (s, none) => s

/-- Requests a command can need. -/
def CmdKind.requests : CmdKind → Nat
  | .memRead _ n _ _ | .memWrite _ n _ _ => n / 2048 + 3
  | .windowRead _ _ _ | .windowWrite _ _ _ => 1
  | _ => 0

/-- Every memory command in progress goes on as far as it may. -/
def State.memPass (s : State) : State := s.cmds.foldl (fun s c => s.memRun c.kind.requests c) s

/-- A command put among those in progress and run as far as it may. -/
def State.launchMem (s : State) (q : Req) (op : Nat) (k : CmdKind) : State :=
  let c : Cmd := ⟨q, s.get .HST_RING_CTL_OWNER q.ring.val, op, k, false⟩
  ({ s with cmds := s.cmds ++ [c] }).memRun k.requests c

/-- Whether a store is fen or marsh: what MEM_READ serves in Doldrums mode (R292). -/
def Store.isStack : Store → Bool
  | .fen _ | .marsh _ => true
  | _ => false

def memRead (q : Req) (a n host : Nat) (s : State) : State :=
  match s.devRuns a n with
  | none => s.done q stBadPacket
  | some rs =>
    if s.untrained then s.done q stTargetResetting
    else if s.inDoldrums && !rs.all (fun x => x.1.isStack) then s.done q stDoldrums
    else if s.runsWithdrawn rs && !s.inDoldrums then s.done q stDisabled
    else s.launchMem q 0x18 (.memRead a n host 0)

/-- Byte counts of R289. -/
def memReason (q : Req) (p0 p1 : Word) (s : State) : Nat :=
  let n := p1.toNat
  if n < 1 ∨ 16777216 < n then 5 else addrReason (s.cmdRuns q.part.val p0.toNat n)

def opMemRead : HostOp := ⟨0x18, .anyOr15, [addrMask, bitsMask 24 0, word64]⟩
def opMemWrite : HostOp := ⟨0x19, .anyOr15, [addrMask, bitsMask 24 0, word64]⟩

/-- MEM_READ. -/
def execMemRead (q : Req) (p0 p1 p2 : Word) (s : State) : Host.Outcome State Fault Refusal :=
  hostRow opMemRead q [p0, p1, p2] (memReason q p0 p1) (memRead q p0.toNat p1.toNat p2.toNat) s

def memWrite (q : Req) (a n host : Nat) (s : State) : State :=
  match s.devRuns a n with
  | none => s.done q stBadPacket
  | some rs => if s.runsWithdrawn rs then s.done q stDisabled else s.launchMem q 0x19 (.memWrite a n host 0)

/-- MEM_WRITE. -/
def execMemWrite (q : Req) (p0 p1 p2 : Word) (s : State) : Host.Outcome State Fault Refusal :=
  hostRow opMemWrite q [p0, p1, p2] (memReason q p0 p1) (memWrite q p0.toNat p1.toNat p2.toNat) s

/-! ### The BAR2 window (R281) -/

/-- The request that carries a window access of the partition that owns the address. -/
def windowReq (p : Nat) : Req := ⟨0, 0, ⟨min p 15, by omega⟩, false, true, false, false⟩

/-- A window access refused, with its class 13 record: the status of the record. -/
def State.windowRefusal (s : State) (f a n : Nat) : Option Nat :=
  if !s.on .HST_WIN_ENABLE f then some stDisabled
  else match s.devRuns a n with
    | none => some stBadPacket
    | some rs =>
      if f ≠ 0 && !(match s.fnPart f with | some p => rs.all (fun x => s.ownsRange p x.1 x.2.1 x.2.2) | none => false) then some stBadPacket
      else if s.runsWithdrawn rs then some stDisabled
      else none

/-- The device address of a window offset. -/
def State.windowAddr (s : State) (f off : Nat) : Nat := s.get .HST_WIN_BASE f * 2 ^ 36 + off

/-- The partition that owns a window address, 15 for none. -/
def State.windowOwner (s : State) (a : Nat) : Nat :=
  match s.devLoc a with
  | some (st, off) => (s.ownerOf st off).getD 15
  | none => 15

def windowRead (f off n : Nat) (s : State) : State :=
  let a := s.windowAddr f off
  if s.inDoldrums then s.answer (.unsupported f)
  else match s.windowRefusal f a n with
    | some code => (s.windowEvent f a code).answer (.unsupported f)
    | none =>
      let c : Cmd := ⟨windowReq (s.windowOwner a), f, 0, .windowRead f a n, true⟩
      ({ s with cmds := s.cmds ++ [c] }).memRun 1 c

/-- WINDOW_READ: 1 to 4,096 bytes within the window. -/
def execWindowRead (f : Fin 13) (off n : Nat) (s : State) : Host.Outcome State Fault Refusal :=
  if 1 ≤ n ∧ n ≤ 4096 ∧ off + n ≤ 2 ^ 36 then .next (s.whenClocked fun s => s.whenEnabled f.val (windowRead f.val off n)) else .fault .illFormed

def windowWrite (f off : Nat) (bs : List Byte) (s : State) : State :=
  let a := s.windowAddr f off
  if s.inDoldrums then s
  else match s.windowRefusal f a bs.length with
    | some code => s.windowEvent f a code
    | none =>
      let c : Cmd := ⟨windowReq (s.windowOwner a), f, 0, .windowWrite f a bs, true⟩
      ({ s with cmds := s.cmds ++ [c] }).memRun 1 c

/-- WINDOW_WRITE: 1 to 4,096 bytes within the window. -/
def execWindowWrite (f : Fin 13) (off : Nat) (bytes : List Byte) (s : State) : Host.Outcome State Fault Refusal :=
  if 1 ≤ bytes.length ∧ bytes.length ≤ 4096 ∧ off + bytes.length ≤ 2 ^ 36 then .next (s.whenClocked fun s => s.whenEnabled f.val (windowWrite f.val off bytes)) else .fault .illFormed

/-! ### Flip masks (R121, R202) -/

/-- A host write of FEN_FLIP_CTL. -/
def fenFlipWrite (c v m : Nat) (s : State) : State := s.writeFields .FEN_FLIP_CTL c v m

/-- FEN_FLIP_ARM: a write of FEN_FLIP_CTL. -/
def execFenFlipArm (c : Site) (v : Word) (s : State) : Host.Outcome State Fault Refusal :=
  .next (s.whenClocked (fenFlipWrite (siteNo c) (v.toNat % 2 ^ 32) (2 ^ 32 - 1)))

/-- A host write of MRS_FLIP_CTL. -/
def mrsFlipWrite (m v mask : Nat) (s : State) : State := s.writeFields .MRS_FLIP_CTL m v mask

/-- MRS_FLIP_ARM: a write of MRS_FLIP_CTL. -/
def execMrsFlipArm (m : Fin 12) (v : Word) (s : State) : Host.Outcome State Fault Refusal :=
  .next (s.whenClocked (mrsFlipWrite m.val (v.toNat % 2 ^ 32) (2 ^ 32 - 1)))

end Sys2Proof.Machine
end

