-- ==== Sys2Proof/Machine/Reeds.lean ====
section
/-!
DEFINITION. The reeds of a slice (R125 to R147): descriptors, their checks and resources, grains, row operations, the slice bus, faults; MEM_FENCE (R142). What happens at a
grain boundary is in Machine/Grains.lean. Readings that the model chose are in notes/assumptions/33.md.
-/
namespace Sys2Proof.Machine

/-- A reed descriptor (R138). -/
structure ReedDesc where
  op : Nat
  sub : Nat
  fmt : Nat
  mx : Bool
  zero : Bool
  act : Nat
  acc : Nat
  tag : Nat
  count : Nat
  kb : Nat
  mask : Nat
  rowA : Nat
  burst : Nat
  rowB : Nat
  rowD : Nat
  dst : Nat
  pattern : Nat
  pool : Nat
  elems : Nat
  deriving DecidableEq, Repr

def ReedDesc.of (w : List Word) : ReedDesc :=
  let w0 := wordAt w 0
  { op := fieldOf w0 3 0, sub := fieldOf w0 7 4, fmt := fieldOf w0 11 8, mx := flagOf w0 12, zero := flagOf w0 13, act := fieldOf w0 14 14,
    acc := fieldOf w0 23 16, tag := fieldOf w0 31 24, count := fieldOf w0 47 32, kb := fieldOf w0 63 48,
    mask := (wordAt w 1).toNat + placed (wordAt w 2).toNat 64, rowA := fieldOf (wordAt w 3) 12 0, burst := fieldOf (wordAt w 3) 18 13,
    rowB := fieldOf (wordAt w 3) 44 32, rowD := fieldOf (wordAt w 4) 12 0, dst := fieldOf (wordAt w 4) 19 13, pattern := fieldOf (wordAt w 4) 63 32,
    pool := fieldOf (wordAt w 5) 21 0, elems := fieldOf (wordAt w 5) 43 32 }

/-- Reserved bits (R138). -/
def reedReserved (w : List Word) : Bool :=
  fieldOf (wordAt w 0) 15 15 != 0 || fieldOf (wordAt w 3) 31 19 != 0 || fieldOf (wordAt w 3) 63 45 != 0 || fieldOf (wordAt w 4) 31 20 != 0 ||
    fieldOf (wordAt w 5) 31 22 != 0 || fieldOf (wordAt w 5) 63 44 != 0

/-- Which fields an operation uses (R139). -/
def ReedDesc.usesEntries (d : ReedDesc) : Bool := [1, 3, 9, 10].contains d.op
def ReedDesc.usesRowA (d : ReedDesc) : Bool := [1, 4, 5, 7, 8, 9, 10].contains d.op
def ReedDesc.usesRowB (d : ReedDesc) : Bool := d.op == 7 && d.sub != 3
def ReedDesc.usesRowD (d : ReedDesc) : Bool := [4, 5, 6, 7].contains d.op

/-- A field outside the operation's list is zero (R139). -/
def ReedDesc.othersZero (d : ReedDesc) : Bool :=
  ([3, 7, 10].contains d.op || d.sub == 0) && (d.op == 1 || (d.fmt == 0 && !d.mx && d.kb == 0 && d.burst == 0)) &&
    ([1, 9, 10].contains d.op || !d.zero) && ([1, 2].contains d.op || d.act == 0) && (d.usesEntries || d.acc == 0) && (d.op != 2 || d.count == 0) &&
    (d.usesRowA || d.rowA == 0) && (d.usesRowB || d.rowB == 0) && (d.usesRowD || d.rowD == 0) && (d.op == 5 || d.dst == 0) &&
    (d.op == 6 || d.pattern == 0) && ([2, 3].contains d.op || d.pool == 0) && (d.op == 2 || d.elems == 0)

/-- Bytes of a weight block (R130). -/
def blockBytes (fmt : Nat) : Nat := 4 * (fmtOf fmt).bits

/-- Blocks and bursts of a MATVEC's stream (R130). -/
def ReedDesc.blocks (d : ReedDesc) : Nat := d.count * d.kb
def ReedDesc.bursts (d : ReedDesc) : Nat := (d.blocks * blockBytes d.fmt + 31) / 32 + if d.mx then (d.blocks + 31) / 32 else 0

/-- The banks of the mask, lowest first. -/
def ReedDesc.banks (d : ReedDesc) : List Nat := setBits 128 d.mask

/-- Row ranges that the descriptor names: banks, first row, rows. -/
def ReedDesc.ranges (d : ReedDesc) : List (List Nat × Nat × Nat) :=
  (if d.op = 1 then [(d.banks, d.rowA, (d.burst + d.bursts - 1) / 64 + 1)] else if d.usesRowA then [(d.banks, d.rowA, d.count)] else []) ++
    (if d.usesRowB then [(d.banks, d.rowB, d.count)] else []) ++
    (if d.usesRowD then [(if d.op = 5 then [d.dst] else d.banks, d.rowD, d.count)] else [])

/-- The checks of R140. -/
def ReedDesc.valid (d : ReedDesc) (w : List Word) : Bool :=
  let n := d.banks.length
  !reedReserved w && 1 ≤ d.op && d.op ≤ 10 && d.othersZero && d.mask != 0 && (d.op == 2 || d.count != 0) && (!d.usesEntries || d.acc + d.count ≤ 256) &&
    (d.ranges.all fun r => r.2.1 + r.2.2 ≤ 4608) && d.pool % 32 == 0 &&
    (match d.op with
     | 1 => d.fmt < 6 && 1 ≤ d.kb && d.kb ≤ 64 && vecScaleOk d.fmt d.mx
     | 2 => 16 ≤ d.elems && d.elems ≤ 2048 && d.elems % 16 == 0 && d.pool + 2 * d.elems ≤ 0x400000
     | 3 => d.sub ≤ 1 && d.pool + 4 * d.count * (if d.sub = 0 then n else 1) ≤ 0x400000
     | 5 => n == 1 && !bitOf d.mask d.dst
     | 7 => d.sub ≤ 3
     | 8 => d.count == 1
     | _ => true)

/-- Banks a bank operation holds; bus operations hold none (R137). -/
def ReedDesc.held (d : ReedDesc) : List Nat := if d.op = 2 ∨ d.op = 3 then [] else if d.op = 5 then d.banks ++ [d.dst] else d.banks

/-- Two descriptors that use one resource (R137). -/
def ReedDesc.clash (x y : ReedDesc) : Bool :=
  let shared := x.mask &&& y.mask != 0
  (x.held.any fun b => y.held.contains b) ||
    ((x.op == 1 || x.op == 2) && (y.op == 1 || y.op == 2) && shared && x.act == y.act) ||
    (x.usesEntries && y.usesEntries && shared && x.acc < y.acc + y.count && y.acc < x.acc + x.count) ||
    ([2, 3, 5].contains x.op && [2, 3, 5].contains y.op)

/-! ### Faults (R143, R147) -/

/-- REED_FAULT latches the first fault since VALID was cleared. -/
def State.reedFault (s : State) (c bank : Nat) (d : ReedDesc) (reason row : Nat) : State :=
  if s.on .REED_FAULT_VALID c then s
  else s.puts c [(.REED_FAULT_VALID, 1), (.REED_FAULT_BANK, bank), (.REED_FAULT_TAG, d.tag), (.REED_FAULT_OP, d.op), (.REED_FAULT_REASON, reason),
    (.REED_FAULT_ROW, row)]

/-- A row read into a reed's latch (R127): none where a transfer is uncorrectable, which is recorded with the descriptor's OP and TAG (R143). -/
def State.reedRow (s : State) (c bank row : Nat) (d : ReedDesc) : Option (List Byte) × State :=
  let r := s.atBanks.readMem (.fen c) (rowOffset bank row) 2048
  let s := (r.notes.foldl (fun s n => s.eccEventOf (d.op + placed d.tag 4) n) r.st).overBonds s
  if r.bad then (none, s.flagDie (dieOf c) 3 stUncorrectable)
  else
    let (bs, s) := s.unitSees c (.fen c) (rowOffset bank row) r.bytes
    (some bs, s)

/-- A row written, with new codes (R127). -/
def State.reedStore (s : State) (c bank row : Nat) (bs : List Byte) : State := (s.atBanks.coreWrite c (.fen c) (rowOffset bank row) bs).overBonds s

/-- The row latch of a reed set. -/
def Core.setLatch (k : Core) (bank : Nat) (bs : List Byte) : Core :=
  { k with latch := SMap.setList 0 k.latch (2048 * bank) bs, latchLost := SMap.set k.latchLost bank false false }

/-- The row latch of a reed: free values where a later descriptor has left it undefined (R132). -/
def State.latchOf (s : State) (c bank : Nat) : List Byte × State :=
  if SMap.get (s.core c).latchLost bank false then
    let (ws, s) := s.frees 256
    (wordsToBytes ws, s)
  else (SMap.getList 0 (s.core c).latch (2048 * bank) 2048, s)

/-! ### MATVEC (R129, R130) -/

/-- What a burst of the stream is: the scales of a group, or weight burst number `k`. -/
inductive Burst where
  | scales (group : Nat)
  | weights (k : Nat)
  deriving DecidableEq, Repr

def ReedDesc.burstKind (d : ReedDesc) (i : Nat) : Burst :=
  if d.mx then
    let per := blockBytes d.fmt
    let g := i / (per + 1)
    if i % (per + 1) = 0 then .scales g else .weights (g * per + (i % (per + 1) - 1))
  else .weights i

/-- Place of weight burst `k` in the stream. -/
def ReedDesc.weightBurst (d : ReedDesc) (k : Nat) : Nat :=
  let per := blockBytes d.fmt
  if d.mx then k / per * (per + 1) + 1 + k % per else k

/-- Blocks whose last byte lies in weight burst `k`. -/
def ReedDesc.blocksEnding (d : ReedDesc) (k : Nat) : List Nat :=
  let b := blockBytes d.fmt
  (List.range (32 * (k + 1) / b - 32 * k / b)).filterMap fun j => let q := 32 * k / b + j; if q < d.blocks then some q else none

/-- A burst of a bank as its reed takes it from the row. -/
def State.burstAt (s : State) (c bank : Nat) (d : ReedDesc) (i : Nat) : List Byte × State :=
  let off := rowOffset bank (d.rowA + i / 64) + 32 * (i % 64)
  s.unitSees c (.fen c) off (s.atBanks.peek (.fen c) off 32)

/-- Bytes `n` from byte `at_` of the weight bytes of the stream, as the bank holds them. -/
def State.weightBytes (s : State) (c bank : Nat) (d : ReedDesc) (at_ n : Nat) : List Byte × State :=
  let (bs, s) := (List.range ((at_ + n + 31) / 32 - at_ / 32)).foldl (fun acc k =>
    let (b, s) := acc.2.burstAt c bank d (d.burst + d.weightBurst (at_ / 32 + k))
    (acc.1 ++ b, s)) ([], s)
  ((bs.drop (at_ % 32)).take n, s)

/-- Activation `i` (4096 × bank + 2048 × half + element): a free value where none has been written since a rewind (R144). -/
def Core.actAt (k : Core) (i : Nat) : Nat :=
  match SMap.get k.act i none, k.lost with
  | some v, _ => v
  | none, some b => (Config.freeWord (b + i)).toNat % 65536
  | none, none => 0

/-- Accumulator entry `i` (256 × bank + entry), likewise. -/
def Core.raccAt (k : Core) (i : Nat) : F32 :=
  match SMap.get k.racc i none, k.lost with
  | some v, _ => v
  | none, some b => BitVec.ofNat 32 (Config.freeWord (b + 524288 + i)).toNat
  | none, none => 0

def Core.setAct (k : Core) (i : Nat) (vs : List Nat) : Core := { k with act := SMap.setList none k.act i (vs.map some) }
def Core.setRacc (k : Core) (i : Nat) (vs : List F32) : Core := { k with racc := SMap.setList none k.racc i (vs.map some) }

/-- One block value added to its entry. -/
def State.reedBlock (s : State) (c bank : Nat) (d : ReedDesc) (q : Nat) : State :=
  let f := fmtOf d.fmt
  let (bs, s) := s.weightBytes c bank d (q * blockBytes d.fmt) (blockBytes d.fmt)
  let k := s.core c
  let o := q / d.kb
  let j := q % d.kb
  let scale := (SMap.get k.scaleLatch (32 * bank + q % 32) 0).toNat
  let terms := (List.range 32).map fun i =>
    [f.decode (elemBits f bs i), Fmt.bf16.decode (k.actAt (4096 * bank + 2048 * d.act + 32 * j + i))] ++ scaleFactor d.mx scale
  let (b, fl) := blockValue terms
  let e := 256 * bank + d.acc + o
  let start : F32 := if d.zero && j == 0 then 0 else k.raccAt e
  let (v, fl2) := fadd start b
  (s.setCore c (k.setRacc e [v])).numFlags c (fl ||| fl2 ||| scaleFlags (if d.mx then [scale] else []))

/-- One burst consumed: scales latched, or the blocks that end in it added. -/
def State.reedBurst (s : State) (c bank : Nat) (d : ReedDesc) (i : Nat) : State :=
  match d.burstKind i with
  | .scales _ =>
    let at_ := d.burst + i
    let (bs, s) := s.burstAt c bank d at_
    s.modCore c fun k => { k with scaleLatch := SMap.setList 0 k.scaleLatch (32 * bank) bs }
  | .weights k => (d.blocksEnding k).foldl (fun s q => s.reedBlock c bank d q) s

/-- Entries of a reed left undefined by an uncorrectable row (R145). -/
def State.undefineEntries (s : State) (c bank : Nat) (d : ReedDesc) : State :=
  let (ws, s) := s.frees d.count
  s.modCore c fun k => k.setRacc (256 * bank + d.acc) (ws.map fun w => BitVec.ofNat 32 w.toNat)

/-- Rows loaded one after another into the latch: the row that failed, if any. -/
def State.loadRows (s : State) (c bank : Nat) (d : ReedDesc) : List Nat → Option Nat × State
  | [] => (none, s)
  | r :: rs =>
    match s.reedRow c bank r d with
    | (some bs, s) => (s.modCore c fun k => k.setLatch bank bs).loadRows c bank d rs
    | (none, s) => (some r, s)

/-- Bursts of a grain (R135). -/
def State.grainBursts (s : State) (c : Nat) : Nat := (100 * s.inForce .REED_CTL_GRAIN_MAX c - 36) / 2

/-- What a grain came to: the position after it, or the row that stopped the descriptor on its bank. -/
inductive GrainRes where
  | done (pos : Nat)
  | failed (row : Nat)
  deriving DecidableEq, Repr

def State.matvecGrain (s : State) (c bank : Nat) (d : ReedDesc) (pos : Nat) : GrainRes × State :=
  let e := min (pos + s.grainBursts c) d.bursts
  let r0 := (d.burst + pos) / 64
  match s.loadRows c bank d ((List.range ((d.burst + e - 1) / 64 + 1 - r0)).map fun k => d.rowA + r0 + k) with
  | (some r, s) => (.failed r, s.undefineEntries c bank d)
  | (none, s) => (.done e, (List.range (e - pos)).foldl (fun s k => s.reedBurst c bank d (pos + k)) s)

/-! ### Row operations (R132, R133) -/

/-- An exact integer as FP32, added to an entry (or to +0). -/
def State.addCount (s : State) (c bank e : Nat) (zero : Bool) (n : Int) : State :=
  let k := s.core c
  let key := 256 * bank + e
  let (x, fl) := roundF32 (.fin ⟨decide (n < 0), n.natAbs, 0⟩)
  let (v, fl2) := fadd (if zero then 0 else k.raccAt key) x
  (s.setCore c (k.setRacc key [v])).numFlags c (fl ||| fl2)

def rowPopcount (bs : List Byte) : Nat := (bs.map fun b => popcount 8 b.toNat).sum

/-- The factor of a plane pair (R133). -/
def planeFactor (sub : Nat) : Int :=
  let i := sub % 4
  let j := sub / 4
  let f : Int := 2 ^ (i + j)
  if (i == 3) != (j == 3) then -f else f

/-- Row `i` of a row operation on a bank. -/
def State.rowGrain (s : State) (c bank : Nat) (d : ReedDesc) (i : Nat) : GrainRes × State :=
  let rd := d.rowD + i
  if d.op = 6 then (.done (i + 1), s.reedStore c bank rd ((List.range 512).flatMap fun _ => toBytesLE 4 d.pattern))
  else match s.reedRow c bank (d.rowA + i) d with
    | (none, s) => (.failed (d.rowA + i), s)
    | (some a, s) =>
      let s := if d.op = 10 then s else s.modCore c fun k => k.setLatch bank a
      match d.op with
      | 4 => (.done (i + 1), s.reedStore c bank rd a)
      | 5 =>
        let s := (s.bump .REED_BUS_STATS_TRANSFERS c 64).bump .REED_BUS_STATS_BUSY_NS c 64
        (.done (i + 1), s.reedStore c d.dst rd a)
      | 7 =>
        if d.sub = 3 then (.done (i + 1), s.reedStore c bank rd (a.map fun x => ~~~x))
        else match s.reedRow c bank (d.rowB + i) d with
          | (none, s) => (.failed (d.rowB + i), s)
          | (some b, s) =>
            let s := s.modCore c fun k => k.setLatch bank b
            let f (x y : Byte) : Byte := if d.sub = 0 then x &&& y else if d.sub = 1 then x ||| y else x ^^^ y
            (.done (i + 1), s.reedStore c bank rd (a.zipWith f b))
      | 9 => (.done (i + 1), s.addCount c bank (d.acc + i) d.zero (rowPopcount a : Nat))
      | 10 =>
        let (l, s) := s.latchOf c bank
        (.done (i + 1), s.addCount c bank (d.acc + i) d.zero (planeFactor d.sub * (rowPopcount (l.zipWith (fun x y => x &&& y) a) : Nat)))
      | _ => (.done (i + 1), s)

/-- Positions of a bank operation: bursts of a MATVEC, rows otherwise. -/
def ReedDesc.length (d : ReedDesc) : Nat := if d.op = 1 then d.bursts else d.count

/-! ### The slice bus (R134) -/

def State.busUse (s : State) (c n : Nat) : State := (s.bump .REED_BUS_STATS_TRANSFERS c n).bump .REED_BUS_STATS_BUSY_NS c n

def State.runBcast (s : State) (c : Nat) (d : ReedDesc) : State :=
  let s := s.busUse c (d.elems / 16)
  match s.coreRead c (.pool c) d.pool (2 * d.elems) with
  | (none, s) => s
  | (some bs, s) =>
    let xs := groupsLE 2 d.elems bs
    s.modCore c fun k => d.banks.foldl (fun k b => k.setAct (4096 * b + 2048 * d.act) xs) k

def State.runGather (s : State) (c : Nat) (d : ReedDesc) : State :=
  let k := s.core c
  let s := s.busUse c ((4 * d.count * d.banks.length + 31) / 32)
  let entry (b e : Nat) : F32 := k.raccAt (256 * b + d.acc + e)
  if d.sub = 0 then
    s.coreWrite c (.pool c) d.pool (d.banks.flatMap fun b => (List.range d.count).flatMap fun e => toBytesLE 4 (entry b e).toNat)
  else
    let (out, fl) := (List.range d.count).foldl (fun acc e =>
      let (v, fl) := d.banks.tail.foldl (fun acc b => let (v, fl) := fadd acc.1 (entry b e); (v, acc.2 ||| fl)) (entry (d.banks.headD 0) e, acc.2)
      (acc.1 ++ toBytesLE 4 v.toNat, fl)) ([], 0)
    (s.coreWrite c (.pool c) d.pool out).numFlags c fl

/-! ### Starting and completing (R137) -/

/-- A grain holds, or leaves, the banks of an operation that work on bank `b`. -/
def State.setGrain (s : State) (c b : Nat) (d : ReedDesc) (v : Nat) : State :=
  let s := s.put .FEN_BANK_CTL_GRAIN (ix2 128 c b) v
  if d.op = 5 then s.put .FEN_BANK_CTL_GRAIN (ix2 128 c d.dst) v else s

/-- Fences that wait for no descriptor any more complete (R142). -/
def State.fencePass (s : State) : State :=
  s.cmds.foldl (fun s c =>
    match c.kind with
    | .memFence ops =>
      let left := ops.filter fun e => (s.core e.1).rq.any fun o => o.num == e.2
      if left.isEmpty then s.endCmd c stOk s.gust 0 0 else s.replaceCmd c { c with kind := .memFence left }
    | _ => s) s

/-- Whether an attention operation on the reed path, issued earlier, uses or may use the reeds of a descriptor (R137). -/
def Core.attHolds (k : Core) (o : ReedOp) : Bool :=
  let d := ReedDesc.of o.w
  let earlier (a : AttOp) : Bool := a.num < o.num && fieldOf (wordAt a.w 0) 4 4 == 0
  (k.attq.any earlier) || k.attRun.any fun a => earlier a && a.banks.any fun b => bitOf d.mask b || d.held.contains b

/-- The first descriptor that may start: every earlier one that uses one of its resources has completed. -/
def Core.nextReed (k : Core) : Option ReedOp :=
  k.rq.find? fun o => !o.started && !(k.rq.any fun e => e.num < o.num && (ReedDesc.of e.w).clash (ReedDesc.of o.w)) && !k.attHolds o

/-- A descriptor taken out once complete. -/
def State.reedEnd (s : State) (c : Nat) (num : Nat) : State := (s.modCore c fun k => { k with rq := k.rq.filter fun o => o.num != num }).fencePass

/-- One descriptor started: bus work at once, bank work as grains that hold their banks. Any but POPC_AND leaves the latches of its reeds undefined. -/
def State.reedStart (s : State) (c : Nat) (o : ReedOp) : State :=
  let d := ReedDesc.of o.w
  let s := if d.op = 10 then s else s.modCore c fun k => { k with latchLost := d.banks.foldl (fun m b => SMap.set m b true false) k.latchLost }
  if d.op = 2 then (s.atWork c 2 (o.w.drop 6) fun s => s.runBcast c d).reedEnd c o.num
  else if d.op = 3 then (s.atWork c 2 (o.w.drop 6) fun s => s.runGather c d).reedEnd c o.num
  else
    let s := s.modCore c fun k => { k with rq := k.rq.map fun x => if x.num = o.num then { x with started := true, left := d.banks.map fun b => (b, 0) } else x }
    d.banks.foldl (fun s b => s.setGrain c b d 1) s

/-- Chains and attention operations paused by a lull go on. -/
def State.resumeGrains (s : State) (c : Nat) : State :=
  let s := (s.core c).rq.foldl (fun s o => if o.started && !o.stop then o.left.foldl (fun s e => s.setGrain c e.1 (ReedDesc.of o.w) 1) s else s) s
  (s.core c).attRun.foldl (fun s o => o.banks.foldl (fun s b => s.put .FEN_BANK_CTL_GRAIN (ix2 128 c b) 1) s) s

/-- Descriptors started while one may; `fuel` bounds them. In the lull nothing starts. -/
def State.reedPass : Nat → State → Nat → State
  | 0, s, _ => s
  | fuel + 1, s, c =>
    if s.inLull then s
    else match (s.core c).nextReed with
      | none => s
      | some o => (s.reedStart c o).reedPass fuel c

/-! ### Issue -/

/-- The retired bank, or the bank of a retired chunk, that a descriptor names (R119, R140, R329). -/
def State.reedRetired (s : State) (c : Nat) (d : ReedDesc) : Option Nat :=
  match (d.banks ++ if d.op = 5 then [d.dst] else []).find? fun b => s.on .FEN_BANK_CTL_RETIRED (ix2 128 c b) with
  | some b => some b
  | none =>
    if s.retired.isEmpty then none
    else (d.ranges.flatMap fun r => r.1.filter fun b => (List.range r.2.2).any fun k => s.withdrawn (.fen c) (rowOffset b (r.2.1 + k))).head?

/-- A reed descriptor issued (R137, R140, R144): refused with a trap, or queued; 16 may wait. -/
def reedIssue (c : Nat) (w : List Word) (s : State) : State :=
  let d := ReedDesc.of w
  if s.inForce .REED_CTL_ENABLE c = 0 then (s.reedFault c 0 d 4 0).trap c trapDescriptor d.tag stDisabled
  else if !d.valid w then (s.reedFault c 0 d 2 0).trap c trapDescriptor d.tag stBadPacket
  else match s.reedRetired c d with
    | some b => (s.reedFault c b d 3 0).trap c trapAccess d.tag stBadPacket
    | none =>
      let k := s.core c
      if 16 ≤ (k.rq.filter fun o => !o.started).length then s
      else (s.setCore c { k with rq := k.rq ++ [⟨k.rseq, w ++ s.issueWords c, false, [], false⟩], rseq := k.rseq + 1 }).reedPass 17 c

/-- The meanings of the reed rows: the words carry the row's OP. -/
def reedRow (c : Site) (op : Nat) (w : List Word) (s : State) : Host.Outcome State Fault Refusal :=
  if fieldOf (wordAt w 0) 3 0 = op then .next (s.whenClocked (reedIssue (siteNo c) w)) else .fault .illFormed

/-- Matvec (R129). -/
def execMatvec (c : Site) (w0 w1 w2 w3 w4 w5 : Word) (s : State) : Host.Outcome State Fault Refusal := reedRow c 1 [w0, w1, w2, w3, w4, w5] s

/-- Bcast (R134). -/
def execBcast (c : Site) (w0 w1 w2 w3 w4 w5 : Word) (s : State) : Host.Outcome State Fault Refusal := reedRow c 2 [w0, w1, w2, w3, w4, w5] s

/-- Gather (R134). -/
def execGather (c : Site) (w0 w1 w2 w3 w4 w5 : Word) (s : State) : Host.Outcome State Fault Refusal := reedRow c 3 [w0, w1, w2, w3, w4, w5] s

/-- Copy (R132). -/
def execCopy (c : Site) (w0 w1 w2 w3 w4 w5 : Word) (s : State) : Host.Outcome State Fault Refusal := reedRow c 4 [w0, w1, w2, w3, w4, w5] s

/-- CopyX (R132). -/
def execCopyX (c : Site) (w0 w1 w2 w3 w4 w5 : Word) (s : State) : Host.Outcome State Fault Refusal := reedRow c 5 [w0, w1, w2, w3, w4, w5] s

/-- Init (R132). -/
def execInit (c : Site) (w0 w1 w2 w3 w4 w5 : Word) (s : State) : Host.Outcome State Fault Refusal := reedRow c 6 [w0, w1, w2, w3, w4, w5] s

/-- Logic (R132). -/
def execLogic (c : Site) (w0 w1 w2 w3 w4 w5 : Word) (s : State) : Host.Outcome State Fault Refusal := reedRow c 7 [w0, w1, w2, w3, w4, w5] s

/-- Latch (R132). -/
def execLatch (c : Site) (w0 w1 w2 w3 w4 w5 : Word) (s : State) : Host.Outcome State Fault Refusal := reedRow c 8 [w0, w1, w2, w3, w4, w5] s

/-- Popc (R132). -/
def execPopc (c : Site) (w0 w1 w2 w3 w4 w5 : Word) (s : State) : Host.Outcome State Fault Refusal := reedRow c 9 [w0, w1, w2, w3, w4, w5] s

/-- PopcAnd (R133). -/
def execPopcAnd (c : Site) (w0 w1 w2 w3 w4 w5 : Word) (s : State) : Host.Outcome State Fault Refusal := reedRow c 10 [w0, w1, w2, w3, w4, w5] s

/-- REED_CTL.ENABLE (R144, R332): from the next boundary. -/
def reedCtlWrite (c : Nat) (v : Word) (s : State) : State := s.putLater .REED_CTL_ENABLE c (fieldOf v 0 0)

/-- REED_CTL_ENABLE. -/
def execReedCtlEnable (c : Site) (v : Word) (s : State) : Host.Outcome State Fault Refusal := .next (s.whenClocked (reedCtlWrite (siteNo c) v))

/-! ### MEM_FENCE (R142) -/

/-- The slices that a device range touches: site, offset, bytes. -/
def State.slicesOf (s : State) (a n : Nat) : List (Nat × Nat × Nat) :=
  (List.range ((a + n - 1) / 2 ^ 31 + 1 - a / 2 ^ 31)).filterMap fun k =>
    let u := a / 2 ^ 31 + k
    let lo := max a (u * 2 ^ 31) - u * 2 ^ 31
    let hi := min (a + n) ((u + 1) * 2 ^ 31) - u * 2 ^ 31
    if u < 768 && lo < min hi 0x48000000 then (s.siteOf (u / 64) (u % 64)).map fun c => (c, lo, min hi 0x48000000 - lo) else none

/-- A fence waits for the descriptors queued or running that name a destination row in the range. -/
def memFence (q : Req) (a n : Nat) (s : State) : State :=
  let ops := (s.slicesOf a n).flatMap fun x => ((s.core x.1).rq.filter fun o => o.writes x.2.1 x.2.2).map fun o => (x.1, o.num)
  if ops.isEmpty then s.done q stOk else s.startCmd q 0x1A (.memFence ops)

/-- The range's first and last bytes are mapped and, for a partition, its own, and so are the slices between. -/
def fenceReason (q : Req) (a n : Nat) (s : State) : Nat :=
  let p := q.part.val
  if (s.cmdRange p a 1).isNone ∨ (s.cmdRange p (a + (n - 1)) 1).isNone then 6
  else if p < 12 && (s.slicesOf a n).any (fun x => s.dieOwner (dieOf x.1) != some p) then 6 else 0

def opMemFence : HostOp := ⟨0x1A, .anyOr15, [addrMask, bitsMask 39 0]⟩

/-- MEM_FENCE. -/
def execMemFence (q : Req) (p0 p1 : Word) (s : State) : Host.Outcome State Fault Refusal :=
  hostRow opMemFence q [p0, p1] (fenceReason q p0.toNat p1.toNat) (memFence q p0.toNat p1.toNat) s

end Sys2Proof.Machine
end

