-- ==== Sys2Proof/Machine/Append.lean ====
section
/-!
DEFINITION. The walker's descriptors at work (R185 to R190): its queue, APPEND with its scales and its copies, LENGTH and TOUCH.
Readings taken by inference (DEDUCED): notes/assumptions/27.md, notes/assumptions/30.md.
-/
namespace Sys2Proof.Machine

/-! ### APPEND (R186) -/

/-- Payload offsets at which position `t` of a page stands, with its elements' range (R174): key, then eight value pieces. -/
def payloadPieces (cls fmt t : Nat) : List (Nat × Nat × Nat × Bool) :=
  let D := headDim cls
  let N := pageN cls fmt
  let bits := (pageFmt fmt).bits
  let kc := t / (N / 8)
  (2048 * kc + (t - kc * (N / 8)) * D * bits / 8, 0, D, false) ::
    (List.range 8).map fun c => (16384 + 2048 * c + t * (D / 8) * bits / 8, c * (D / 8), D / 8, true)

/-- The header of a new page (R175, R186). -/
def newHeader (first stream fmt cls : Nat) : List Byte :=
  List.replicate 32 0 ++ toBytesLE 8 (first + placed stream 32 + placed fmt 48 + placed cls 50) ++ List.replicate 216 0

/-- A header agrees with its entry and root (R179). -/
def headerOk (h : List Byte) (first stream fmt cls : Nat) : Bool :=
  ofBytesLE ((h.drop 32).take 8) == first + placed stream 32 + placed fmt 48 + placed cls 50

/-- How a descriptor ends early. -/
inductive WalkEnd where
  | invalid
  | missing
  | malformed
  | access
  | dropped
  | stageFull
  deriving DecidableEq, Repr

/-- The source vector of row `r`, stream `k` (both of the descriptor), part 0 key or 1 value, as FP32 (R185). -/
def srcVector (d : WalkDesc) (D : Nat) (pool : List Byte) (r k part : Nat) : List F32 :=
  let e := if d.srcBf16 then 2 else 4
  let base := (((r * d.streams + k) * 2 + part) * D) * e
  (List.range D).map fun i =>
    let v := ofBytesLE ((pool.drop (base + i * e)).take e)
    if d.srcBf16 then bf16ToF32 v else BitVec.ofNat 32 v

/-- The next frame of the list (R186): its address and store, none where the list is spent or the frame is not one; an outer none where the list cannot be read. -/
def State.nextFrame (s : State) (c p : Nat) (d : WalkDesc) : Option (Option (Nat × Store × Nat)) × State :=
  let used := (s.core c).kvUsed
  if d.listCount ≤ used then (some none, s)
  else match s.coreRead c (.pool c) (d.list + 8 * used) 8 with
    | (none, s) => (none, s)
    | (some b, s) =>
      let a := ofBytesLE b
      match s.devRange a 32768 with
      | some (st, off) => (some (if a % 32768 = 0 && !st.isSram && s.ownsRange p st off 32768 then some (a, st, off) else none), s)
      | none => (some none, s)

def storeCode : Store → Nat
  | .fen _ => 0
  | _ => 1

/-- Payload of an entry in fen or marsh. -/
def State.payloadOf (s : State) (p : Nat) (e : Word) : Option (Store × Nat) :=
  match s.devRange (entAddr e) 32768 with
  | some (st, off) => if s.ownsRange p st off 32768 then some (st, off) else none
  | none => none

/-- One element quantised with a group scale (R187): pattern, and whether it saturated. -/
def quantise (fmt scale : Nat) (x : F32) : Nat × Bool :=
  let r := (pageFmt fmt).convert ((ofF32 x).div (Fmt.bf16.decode scale))
  (r.bits, r.flags &&& flSaturated != 0)

/-- A read by the walker. -/
def State.walkRead (s : State) (c : Nat) (st : Store) (off n : Nat) : Option (List Byte) × State := (s.metre (some (dieOf c)) st off n).coreRead c st off n

/-- A payload or header write (R186): it goes to memory at once, and stays where the gust rewinds (R194). -/
def State.walkWrite (s : State) (c : Nat) (st : Store) (off : Nat) (bs : List Byte) : State :=
  let (t, refused) := (s.metre (some (dieOf c)) st off bs.length).store st off bs
  let t := t.unitWrote c st off bs.length
  if refused then t.flagDie (dieOf c) 3 stUncorrectable else t

/-- A pair written in place: scale, elements, CRC_VALID cleared. -/
def State.writePair (s : State) (c : Nat) (d : WalkDesc) (r : Root) (pool : List Byte) (row k pos : Nat) (st : Store) (off : Nat)
    (fmt hdr : Nat) (hst : Store) : State × Bool :=
  let D := headDim r.cls
  let N := pageN r.cls fmt
  let t := pos % N
  let keyOf (row : Nat) : List F32 :=
    let x := srcVector d D pool row k 0
    if d.rope then (rotate false (s.ropeFreq c) d.layout d.pairs (d.pos + row) x).1 else x
  let valOf (row : Nat) : List F32 := srcVector d D pool row k 1
  let s := if pos % 16 = 0 then
      let rows := (List.range (min 16 (d.count - row))).map fun i => row + i
      let g := groupScale fmt d.headroom (rows.flatMap fun i => keyOf i ++ valOf i)
      s.walkWrite c hst (hdr + 2 * (t / 16)) (toBytesLE 2 g)
    else s
  match s.walkRead c hst (hdr + 2 * (t / 16)) 2 with
  | (none, s) => (s, false)
  | (some sb, s) =>
    let scale := ofBytesLE sb
    let kq := (keyOf row).map (quantise fmt scale)
    let vq := (valOf row).map (quantise fmt scale)
    let sat := ((kq ++ vq).filter (·.2)).length
    let s := (payloadPieces r.cls fmt t).foldl (fun s e =>
      let src := if e.2.2.2 then vq else kq
      s.walkWrite c st (off + e.1) (packElems (pageFmt fmt) (((src.drop e.2.1).take e.2.2.1).map (·.1)))) s
    match s.walkRead c hst (hdr + 0x28) 8 with
    | (none, s) => (s, false)
    | (some w, s) =>
      let s := if bitOf (ofBytesLE w) 32 then s.walkWrite c hst (hdr + 0x28) (toBytesLE 8 (ofBytesLE w % 2 ^ 32)) else s
      ((s.bump .KVW_APPEND_STATS_PAIRS c 1).bump .KVW_APPEND_STATS_SATURATED c sat, true)

/-! ### Copy-on-write (R189) -/

/-- Chunk `j` of a page copied by its reed: COPY within its bank, or COPY_X over the slice bus. False where its row is uncorrectable. -/
def State.copyChunk (s : State) (c tag src dst j : Nat) : Bool × State :=
  let a := src / 2048 + j
  let b := dst / 2048 + j
  let own := bankOfChunk a == bankOfChunk b
  let d := { ReedDesc.of [] with op := if own then 4 else 5, tag := tag }
  match s.reedRow c (bankOfChunk a) (a / 128) d with
  | (none, s) => (false, s.reedFault c (bankOfChunk a) d 1 (a / 128))
  | (some bs, s) =>
    let s := (s.modCore c fun k => k.setLatch (bankOfChunk a) bs).reedStore c (bankOfChunk b) (b / 128) bs
    (true, if own then s else s.busUse c 64)

/-- The payload of a page copied to a frame (R189): by the reeds within the core's own slice, otherwise by the walker. False where data are uncorrectable. -/
def State.copyPage (s : State) (c tag : Nat) (st : Store) (off : Nat) (fst : Store) (foff : Nat) : Bool × State :=
  if st = .fen c ∧ fst = .fen c then
    let s := (s.metre none st off 32768).metre none fst foff 32768
    let (good, s) := (List.range 16).foldl (fun acc j =>
      let (g, s) := acc.2.copyChunk c tag off foff j
      (acc.1 && g, s)) (true, s)
    (good, (s.bump .REED_STATS_GRAINS c 16).unitWrote c fst foff 32768)
  else match s.walkRead c st off 32768 with
    | (none, s) => (false, s)
    | (some b, s) => (true, s.walkWrite c fst foff b)

/-! ### One pair (R186) -/

/-- The page entry and header that a pair starts: directory slot, its address and its header's, the format. -/
structure NewPage where
  slot : Nat
  at_ : Nat
  hdr : Nat
  fmt : Nat

/-- What a pair comes to: nothing amiss, or how the descriptor ends. -/
abbrev PairRes := Option WalkEnd

/-- A new page, or with a source a copy of one: the frame taken, the entry staged, the pair written. -/
def State.openPage (s : State) (c p : Nat) (d : WalkDesc) (r : Root) (pool : List Byte) (row k : Nat) (x : NewPage) (src : Option (Store × Nat)) : PairRes × State :=
  let stream := d.stream + k
  let pos := d.pos + row
  match s.nextFrame c p d with
  | (none, s) => (some .dropped, s)
  | (some none, s) => (some .invalid, s)
  | (some (some (fa, fst, foff)), s) =>
    if s.anyWithdrawn fst foff 32768 then (some .access, s)
    else if s.cutOff (some (dieOf c)) fst then (some .dropped, s.flagPart p 5 stUncorrectable)
    else
      let s := s.modCore c fun q => { q with kvUsed := q.kvUsed + 1 }
      let (good, s) := match src with
        | some (st, off) => let (g, s) := s.copyPage c d.tag st off fst foff; (g, if g then s.bump .KVW_PAGE_STATS_COPIES c 1 else s)
        | none => (true, if r.cls = 0 ∧ x.fmt = 0 then
            (List.range 16).foldl (fun s i => s.walkWrite c fst (foff + 2048 * i + 1024) (List.replicate 1024 0)) s else s)
      if !good then (some .dropped, s)
      else
        let (s, room) := s.stageWord p (dieOf c) x.at_ true (mkEntry (storeCode fst) x.fmt fa 0 false)
        if !room then (some .stageFull, s)
        else
          let s := (if src.isNone then s.bump .KVW_PAGE_STATS_NEW_PAGES c 1 else s).dropSpan (dieOf c) d.root stream (pos / 64 / 4)
          match s.devRange x.hdr 256 with
          | none => (some .malformed, s)
          | some (hst, hoff) =>
            let s := if src.isNone then s.walkWrite c hst hoff (newHeader (x.slot % 2 ^ r.shift * 64) stream x.fmt r.cls) else s
            match s.writePair c d r pool row k pos fst foff x.fmt hoff hst with
            | (s, true) => (none, s)
            | (s, false) => (some .dropped, s)

/-- A pair whose page is found: written in place, or into a copy where the page is shared. -/
def State.appendFound (s : State) (c p : Nat) (d : WalkDesc) (r : Root) (pool : List Byte) (row k slot : Nat) (e : Word) (hdr : Nat) : PairRes × State :=
  let fmt := entFmt e
  if entStore e = 2 then (some .invalid, s)
  else match s.payloadOf p e, s.readAt (some c) p hdr 256 with
    | none, _ => (some .malformed, s)
    | _, (.foreign, s) => (some .malformed, s)
    | _, (.retired, s) => (some .access, s)
    | _, (.bad, s) | _, (.away, s) => (some .dropped, s)
    | some (st, off), (.ok h, s) =>
      if !headerOk h (slot % 2 ^ r.shift * 64) (d.stream + k) fmt r.cls then (some .malformed, s)
      else if s.anyWithdrawn st off 32768 then (some .access, s)
      else if s.cutOff (some (dieOf c)) st then (some .dropped, s.flagPart p 5 stUncorrectable)
      else if entForks e > 0 then s.openPage c p d r pool row k ⟨slot, hdr - 4096 - 256 * (slot % 512) + 8 * (slot % 512), hdr, fmt⟩ (some (st, off))
      else match s.devRange hdr 256 with
        | none => (some .malformed, s)
        | some (hst, hoff) =>
          match s.writePair c d r pool row k (d.pos + row) st off fmt hoff hst with
          | (s, true) => (none, s)
          | (s, false) => (some .dropped, s)

/-- One (position, stream) pair of an APPEND (R186). -/
def State.appendPair (s : State) (c p : Nat) (d : WalkDesc) (r : Root) (pool : List Byte) (row k : Nat) : PairRes × State :=
  let stream := d.stream + k
  let pos := d.pos + row
  match s.resolve c p d.root r stream pos with
  | (.malformed, s) => (some .malformed, s)
  | (.access, s) => (some .access, s)
  | (.flagged, s) => (some .dropped, s)
  | (.page slot e hdr, s) => s.appendFound c p d r pool row k slot e hdr
  | (.missing, s) =>
    let n := pageSlots r.cls d.fmt
    let slot := slotOf r stream pos / n * n
    match s.leafOf (some c) p r slot with
    | (.leaf la, s) => s.openPage c p d r pool row k ⟨slot, la + 8 * (slot % 512), la + 4096 + 256 * (slot % 512), d.fmt⟩ none
    | (.none, s) => (some .missing, s)
    | (.fail .access, s) => (some .access, s)
    | (.fail .flagged, s) => (some .dropped, s)
    | (.fail _, s) => (some .malformed, s)

/-! ### Descriptors at work (R185) -/

/-- A walker descriptor ended early (R185, R188, R119). -/
def State.walkEnd (s : State) (c : Nat) (d : WalkDesc) (e : WalkEnd) (stream pos : Nat) : State :=
  match e with
  | .invalid => (s.kvFault c 4 d.tag stream 0 d.root).trap c trapDescriptor d.tag stBadPacket
  | .missing => (s.kvFault c 3 d.tag stream pos d.root).trap c trapDescriptor d.tag stBadPacket
  | .malformed => (s.kvFault c 2 d.tag stream pos d.root).trap c trapDescriptor d.tag stBadPacket
  | .access => s.trap c trapAccess d.tag stBadPacket
  | .dropped => s.kvFault c 1 d.tag stream pos d.root
  | .stageFull => s.kvFault c 7 d.tag stream pos d.root

/-- Resolutions or pairs of a descriptor from the one reached on, each as a whole once it may (R141, R211); `one` gives a number's result, stream and position. False while one waits. -/
def State.walkOn (s : State) (c p n : Nat) (d : WalkDesc) (at_ : Nat → Nat × Nat) (one : Nat → State → PairRes × State) : Bool × State :=
  let r := (List.range (n - (s.core c).kvDone)).foldl (fun (acc : Option Bool × State) _ =>
    match acc with
    | (some b, s) => (some b, s)
    | (none, s) =>
      let i := (s.core c).kvDone
      match s.metered p false (one i) with
      | (none, s) => (some false, s)
      | (some (some e), s) => (some true, s.walkEnd c d e (at_ i).1 (at_ i).2)
      | (some none, s) => (none, s.modCore c fun q => { q with kvDone := q.kvDone + 1 })) (none, s)
  (r.1.getD true, r.2)

/-- APPEND (R186): pairs in increasing position and then stream order. -/
def State.appendWork (s : State) (c p : Nat) (d : WalkDesc) (r : Root) : Bool × State :=
  match s.coreRead c (.pool c) d.src (d.count * d.streams * 2 * headDim r.cls * (if d.srcBf16 then 2 else 4)) with
  | (none, s) => (true, s.walkEnd c d .dropped d.stream d.pos)
  | (some pool, s) =>
    s.walkOn c p (d.count * d.streams) d (fun i => (d.stream + i % d.streams, d.pos + i / d.streams)) fun i s =>
      s.appendPair c p d r pool (i / d.streams) (i % d.streams)

/-- LENGTH (R185): words 1 and 3 of the root staged in three copies (R184). -/
def State.lengthWork (s : State) (c p : Nat) (d : WalkDesc) (w : List Word) : State :=
  let w1 := BitVec.ofNat 64 (fieldOf (wordAt w 1) 63 32 * 2 ^ 32 + d.pos)
  let w' := rootSealed [wordAt w 0, w1, wordAt w 2]
  let step (acc : State × Bool) (k : Nat) : State × Bool :=
    let a := acc.1.rootAt p d.root k
    let (s, x) := acc.1.stageWord p (dieOf c) (a + 8) false w1
    let (s, y) := s.stageWord p (dieOf c) (a + 24) false (wordAt w' 3)
    (s, acc.2 && x && y)
  let (s, room) := (List.range 3).foldl step (s, true)
  let s := { s with cores := s.cores.map fun e => if dieOf e.1 = dieOf c then (e.1, { e.2 with rootCache := e.2.rootCache.filter fun x => x.1 != d.root }) else e }
  if room then s else s.kvFault c 7 d.tag d.stream 0 d.root

/-- TOUCH (R185): pages resolved in increasing stream and then position order, one resolution per page slot. -/
def State.touchWork (s : State) (c p : Nat) (d : WalkDesc) (r : Root) : Bool × State :=
  let per := d.touchUnits
  let at_ (i : Nat) : Nat × Nat := (d.stream + i / per, max d.pos (64 * (d.pos / 64 + i % per)))
  s.walkOn c p (per * d.streams) d at_ fun i s =>
    match s.resolve c p d.root r (at_ i).1 (at_ i).2 with
    | (.page _ _ _, s) => (none, s)
    | (.missing, s) => (some .missing, s)
    | (.malformed, s) => (some .malformed, s)
    | (.access, s) => (some .access, s)
    | (.flagged, s) => (some .dropped, s)

/-- A descriptor refused: the REASON latched, and the trap. -/
def State.walkRefuse (s : State) (c : Nat) (d : WalkDesc) (reason status : Nat) : State :=
  (s.kvFault c reason d.tag d.stream 0 d.root).trap c trapDescriptor d.tag status

/-- The descriptor's root checked (R185): none where the descriptor has ended. -/
def State.walkCheck (s : State) (c p : Nat) (d : WalkDesc) : Option (List Word) × State :=
  match s.walkRoot c p d.root with
  | (.foreign, s) => (none, s.walkRefuse c d 4 stBadPacket)
  | (.lost, s) => (none, (s.flagPart p 4 stVoteLost).kvFault c 1 d.tag d.stream d.pos d.root)
  | (.ok rw, s) =>
    match walkRootReason s p d rw with
    | 0 => (some rw, s)
    | 2 => (none, s.walkEnd c d .malformed d.stream d.pos)
    | 6 => (none, s.walkRefuse c d 6 stLicence)
    | k => (none, s.walkRefuse c d k stBadPacket)

/-- The descriptor at the head of the queue taken on: false while it waits. -/
def State.walkWork (s : State) (c : Nat) (w : List Word) : Bool × State :=
  let d := WalkDesc.of w
  let p := s.diePart (dieOf c)
  match s.metered p false fun s => s.walkCheck c p d with
  | (none, s) => (false, s)
  | (some none, s) => (true, s)
  | (some (some rw), s) =>
    if d.op = 1 then s.appendWork c p d (Root.of rw) else if d.op = 2 then (true, s.lengthWork c p d rw) else s.touchWork c p d (Root.of rw)

/-- Descriptors of a walker's port taken on in order until one must wait (R185); `fuel` bounds them. -/
def State.kvPass : Nat → State → Nat → State
  | 0, s, _ => s
  | fuel + 1, s, c =>
    match (s.core c).kvq with
    | [] => s
    | w :: rest =>
      let k := s.core c
      let (done, s) := (s.atUnit c 4 (w.drop 4)).walkWork c w
      let s := s.backAt c k
      if done then (s.modCore c fun q => { q with kvq := rest, kvDone := 0, kvUsed := 0 }).kvPass fuel c else s

/-- A walker descriptor issued (R185): checked and queued; 16 may wait behind the one at work. -/
def walkIssue (c : Nat) (w : List Word) (s : State) : State :=
  let d := WalkDesc.of w
  if s.inForce .KVW_CTL_ENABLE c = 0 then s.walkRefuse c d 5 stDisabled
  else if !walkWordsOk w ∨ s.get .KVW_ROOT_COUNT_COUNT (s.diePart (dieOf c)) ≤ d.root then s.walkRefuse c d 4 stBadPacket
  else if 17 ≤ (s.core c).kvq.length then s
  else (s.modCore c fun k => { k with kvq := k.kvq ++ [w ++ s.issueWords c] }).kvPass 18 c

/-- The meanings of the walker rows: the words carry the row's OP. -/
def walkRow (c : Site) (op : Nat) (w : List Word) (s : State) : Host.Outcome State Fault Refusal :=
  if fieldOf (wordAt w 0) 3 0 = op then .next (s.whenClocked (walkIssue (siteNo c) w)) else .fault .illFormed

/-- APPEND (R186). -/
def execAppend (c : Site) (w0 w1 w2 w3 : Word) (s : State) : Host.Outcome State Fault Refusal := walkRow c 1 [w0, w1, w2, w3] s

/-- LENGTH (R185). -/
def execLength (c : Site) (w0 w1 w2 w3 : Word) (s : State) : Host.Outcome State Fault Refusal := walkRow c 2 [w0, w1, w2, w3] s

/-- TOUCH (R185). -/
def execTouch (c : Site) (w0 w1 w2 w3 : Word) (s : State) : Host.Outcome State Fault Refusal := walkRow c 3 [w0, w1, w2, w3] s

end Sys2Proof.Machine
end

