-- ==== Sys2Proof/Machine/Attention.lean ====
section
/-!
DEFINITION. The attention engine (R148 to R172): descriptors and their checks, resolution of the pages, the floor check, FORWARD and BACKWARD as R148 to R150
and R166 define them, the side path, status words. Readings that the model chose are in notes/assumptions/34.md.
-/
namespace Sys2Proof.Machine

/-! ### The descriptor (R168 to R170) -/

structure AttDesc where
  op : Nat
  arrays : Bool
  qMx : Bool
  cont : Bool
  qFmt : Nat
  floor : Nat
  causal : Bool
  windowed : Bool
  tree : Bool
  bias : Bool
  rope : Bool
  layout : Nat
  statsOut : Bool
  part : Bool
  cls : Nat
  tag : Nat
  headBase : Nat
  rows : Nat
  group : Nat
  pairs : Nat
  root : Nat
  stream : Nat
  pos0 : Nat
  kvEnd : Nat
  kvFirst : Nat
  window : Nat
  mul : F32
  dsMul : F32
  q : Nat
  out : Nat
  stats : Nat
  status : Nat
  args : Nat
  treeBase : Nat
  deriving DecidableEq, Repr

def AttDesc.of (w : List Word) : AttDesc :=
  let f := wordAt w 0
  { op := fieldOf f 3 0, arrays := flagOf f 4, qMx := flagOf f 5, cont := flagOf f 6, qFmt := fieldOf f 11 8, floor := fieldOf f 13 12,
    causal := flagOf f 14, windowed := flagOf f 15, tree := flagOf f 16, bias := flagOf f 17, rope := flagOf f 18, layout := fieldOf f 19 19,
    statsOut := flagOf f 20, part := flagOf f 21, cls := fieldOf f 23 22, tag := fieldOf f 31 24, headBase := fieldOf f 63 56, rows := fieldOf f 40 32 + 1,
    group := fieldOf f 44 41 + 1, pairs := fieldOf f 55 48, root := fieldOf (wordAt w 1) 31 0, stream := fieldOf (wordAt w 1) 47 32,
    pos0 := fieldOf (wordAt w 2) 31 0, kvEnd := fieldOf (wordAt w 2) 63 32, kvFirst := fieldOf (wordAt w 3) 31 0, window := fieldOf (wordAt w 3) 63 32,
    mul := BitVec.ofNat 32 (fieldOf (wordAt w 4) 31 0), dsMul := BitVec.ofNat 32 (fieldOf (wordAt w 4) 63 32),
    q := fieldOf (wordAt w 5) 21 0, out := fieldOf (wordAt w 5) 53 32, stats := fieldOf (wordAt w 6) 21 0, status := fieldOf (wordAt w 6) 53 32,
    args := fieldOf (wordAt w 7) 21 0, treeBase := fieldOf (wordAt w 7) 63 32 }

def attReserved (w : List Word) : Bool :=
  flagOf (wordAt w 0) 7 || fieldOf (wordAt w 0) 47 45 != 0 || fieldOf (wordAt w 1) 63 48 != 0 || fieldOf (wordAt w 5) 31 22 != 0 ||
    fieldOf (wordAt w 5) 63 54 != 0 || fieldOf (wordAt w 6) 31 22 != 0 || fieldOf (wordAt w 6) 63 54 != 0 || fieldOf (wordAt w 7) 31 22 != 0

/-- The argument block (R169). -/
structure AttArgs where
  bias : Nat
  tree : Nat
  dO : Nat
  dQ : Nat
  dK : Nat
  dKPool : Bool
  dV : Nat
  dVPool : Bool
  deriving DecidableEq, Repr

def AttArgs.of (w : List Word) : AttArgs :=
  ⟨fieldOf (wordAt w 0) 21 0, fieldOf (wordAt w 0) 53 32, fieldOf (wordAt w 1) 21 0, fieldOf (wordAt w 1) 53 32,
   fieldOf (wordAt w 2) 30 0, flagOf (wordAt w 2) 31, fieldOf (wordAt w 2) 62 32, flagOf (wordAt w 2) 63⟩

/-- Bits of the block that the table does not assign are zero. -/
def argsOk (w : List Word) : Bool :=
  [0, 1].all (fun k => fieldOf (wordAt w k) 31 22 == 0 && fieldOf (wordAt w k) 63 54 == 0) && [3, 4, 5, 6, 7].all fun k => wordAt w k == 0

def AttDesc.dim (d : AttDesc) : Nat := headDim d.cls
def AttDesc.n (d : AttDesc) : Nat := d.rows * d.group
def AttDesc.needsArgs (d : AttDesc) : Bool := d.bias || d.tree || d.op == 2
def AttDesc.span (d : AttDesc) : Nat := d.kvEnd - d.kvFirst

/-- Every region of R168 and R169 that the operation uses: store, offset, bytes. -/
def AttDesc.regions (d : AttDesc) (a : AttArgs) (c : Nat) : List (Store × Nat × Nat) :=
  let row := 4 * d.dim * d.n
  [(.pool c, d.q, row), (.pool c, d.out, row), (.pool c, d.status, 8)] ++
    (if d.statsOut || d.part || d.cont || d.op == 2 then [(.pool c, d.stats, 16 * d.n)] else []) ++
    (if d.needsArgs then [(.pool c, d.args, 64)] else []) ++ (if d.bias then [(.pool c, a.bias, 8256 * d.group)] else []) ++
    (if d.tree then [(.pool c, a.tree, 16 * d.rows)] else []) ++
    (if d.op = 2 then [(.pool c, a.dO, row), (.pool c, a.dQ, row), (spaceStore c a.dKPool, a.dK, 4 * d.dim * d.span),
      (spaceStore c a.dVPool, a.dV, 4 * d.dim * d.span)] else [])

/-- No two regions overlap. -/
def regionsApart : List (Store × Nat × Nat) → Bool
  | [] => true
  | r :: rs => rs.all (fun x => r.1 != x.1 || r.2.1 + r.2.2 ≤ x.2.1 || x.2.1 + x.2.2 ≤ r.2.1) && regionsApart rs

/-- The checks of R170 made at issue, without the argument block. -/
def AttDesc.valid (d : AttDesc) (w : List Word) : Bool :=
  !attReserved w && (d.op == 1 || d.op == 2) && (d.qFmt == 0 || d.qFmt == 5) && !(d.qMx && d.qFmt == 5) && d.floor != 3 && d.cls != 3 && d.n ≤ 512 &&
    (d.arrays || (d.qFmt == 5 && d.op == 1)) && !(d.op == 2 && (d.part || d.cont)) && (d.op == 2 || d.dsMul == 0) &&
    (if d.rope then 1 ≤ d.pairs && d.pairs ≤ d.dim / 2 else d.pairs == 0) && d.kvFirst % 256 == 0 && !(d.windowed && d.window == 0)

/-- The regions lie in their spaces, those in the pool at multiples of 64 bytes (R168), apart from one another. -/
def AttDesc.placed (d : AttDesc) (a : AttArgs) (c : Nat) : Bool :=
  let rs := d.regions a c
  rs.all (fun r => (!(r.1.isSram) || r.2.1 % 64 == 0) && r.2.1 + r.2.2 ≤ r.1.size) && regionsApart rs

/-- ATT_FAULT latches the first fault since VALID was cleared (R172). -/
def State.attFault (s : State) (c reason : Nat) (d : AttDesc) (pos : Nat) : State :=
  if s.on .ATT_FAULT_VALID c then s
  else s.puts c [(.ATT_FAULT_VALID, 1), (.ATT_FAULT_REASON, reason), (.ATT_FAULT_TAG, d.tag), (.ATT_FAULT_STREAM, d.stream),
    (.ATT_FAULT_POSITION, if reason ≤ 2 then pos else 0)]

/-- What an operation's events carry of it (R168): TAG, and above it Q_HEAD_BASE. -/
def AttDesc.label (d : AttDesc) : Nat := d.tag + 256 * d.headBase

/-- A descriptor refused (R167, R170). -/
def State.attRefuse (s : State) (c : Nat) (d : AttDesc) (reason status : Nat) : State :=
  (s.attFault c reason d 0).trap c trapDescriptor d.label status

/-- Uncorrectable data met by an operation (R171): the partition is flagged where they were read. -/
def State.attBad (s : State) (c : Nat) (d : AttDesc) (pos : Nat) : State := s.attFault c 1 d pos

/-- Outputs, records, gradients and status left undefined after uncorrectable data (R171); without an argument block nobody knows where the gradients lie. -/
def State.attUndefine (s : State) (c : Nat) (d : AttDesc) (a : Option AttArgs) : State :=
  let row := 4 * d.dim * d.n
  let areas : List (Store × Nat × Nat) :=
    (if d.op = 1 then (.pool c, d.out, row) :: (if d.statsOut || d.part then [(.pool c, d.stats, 16 * d.n)] else [])
     else match a with
       | some a => [(.pool c, a.dQ, row), (spaceStore c a.dKPool, a.dK, 4 * d.dim * d.span), (spaceStore c a.dVPool, a.dV, 4 * d.dim * d.span)]
       | none => []) ++ [(.pool c, d.status, 8)]
  areas.foldl (fun s e =>
    let (ws, s) := s.frees ((e.2.2 + 7) / 8)
    s.coreWrite c e.1 e.2.1 ((wordsToBytes ws).take e.2.2)) s

/-- The argument block read at issue by the engine. -/
def State.argRead (s : State) (c : Nat) (d : AttDesc) : Option (List Byte) × State :=
  let k := s.core c
  let (b, s) := (s.atUnit c 3 (s.issueWords c)).coreRead c (.pool c) d.args 64
  (b, s.backAt c k)

/-- An attention descriptor issued (R167, R170). The argument block is read here; the port holds 8. -/
def attIssue (c : Nat) (w : List Word) (s : State) : State :=
  let d := AttDesc.of w
  let p := s.diePart (dieOf c)
  if s.inForce .ATT_CTL_ENABLE c = 0 then s.attRefuse c d 4 stDisabled
  else if !d.valid w then s.attRefuse c d 3 stBadPacket
  else
    let queue (s : State) : State :=
      if d.op = 2 && !(p < 12 && bitOf (s.get .PART_STATUS_LIC p) 0) then s.attRefuse c d 5 stLicence
      else
        let k := s.core c
        if 8 ≤ k.attq.length then s
        else s.setCore c { k with attq := k.attq ++ [⟨k.rseq, w ++ s.issueWords c, [], [], none⟩], rseq := k.rseq + 1 }
    if !d.needsArgs then (if d.placed (AttArgs.of []) c then queue s else s.attRefuse c d 3 stBadPacket)
    else if d.args % 64 ≠ 0 ∨ 0x400000 < d.args + 64 then s.attRefuse c d 3 stBadPacket
    else match s.argRead c d with
      | (none, s) => (s.attBad c d d.kvFirst).attUndefine c d none
      | (some b, s) =>
        let aw := bytesToWords 8 b
        if argsOk aw && d.placed (AttArgs.of aw) c then queue s else s.attRefuse c d 3 stBadPacket

def attRow (c : Site) (op : Nat) (w : List Word) (s : State) : Host.Outcome State Fault Refusal :=
  if fieldOf (wordAt w 0) 3 0 = op then .next (s.whenClocked (attIssue (siteNo c) w)) else .fault .illFormed

/-- FORWARD (R148). -/
def execForward (c : Site) (w0 w1 w2 w3 w4 w5 w6 w7 : Word) (s : State) : Host.Outcome State Fault Refusal :=
  attRow c 1 [w0, w1, w2, w3, w4, w5, w6, w7] s

/-- BACKWARD (R166). -/
def execBackward (c : Site) (w0 w1 w2 w3 w4 w5 w6 w7 : Word) (s : State) : Host.Outcome State Fault Refusal :=
  attRow c 2 [w0, w1, w2, w3, w4, w5, w6, w7] s

/-- ATT_CTL_ENABLE (R171, R332): from the next boundary. -/
def attCtlWrite (c : Nat) (v : Word) (s : State) : State := s.putLater .ATT_CTL_ENABLE c (fieldOf v 0 0)

def execAttCtlEnable (c : Site) (v : Word) (s : State) : Host.Outcome State Fault Refusal := .next (s.whenClocked (attCtlWrite (siteNo c) v))

/-- KVW_CTL_ENABLE (R194, R332): from the next boundary. -/
def kvwCtlWrite (c : Nat) (v : Word) (s : State) : State := s.putLater .KVW_CTL_ENABLE c (fieldOf v 0 0)

def execKvwCtlEnable (c : Site) (v : Word) (s : State) : Host.Outcome State Fault Refusal := .next (s.whenClocked (kvwCtlWrite (siteNo c) v))

/-! ### Resolving the pages (R153, R181, R188) -/

/-- What resolving a range of positions came to. -/
structure Resolved where
  pages : List (Nat × Word × Nat)
  missing : Option (PageRes × Nat)

/-- Directory entries of every page that holds positions from `pos` up to `e`; the first that cannot be resolved is kept. `fuel` bounds the steps. -/
def State.attResolve (c p : Nat) (d : AttDesc) (r : Root) : Nat → State → Nat → Resolved → Resolved × State
  | 0, s, _, x => (x, s)
  | fuel + 1, s, pos, x =>
    if d.kvEnd ≤ pos then (x, s)
    else match s.resolve c p d.root r d.stream pos with
      | (.page slot e h, s) =>
        let first := slot % 2 ^ r.shift * 64
        s.attResolve c p d r fuel (first + pageN r.cls (entFmt e)) { x with pages := x.pages ++ [(first, e, h)] }
      | (f, s) => s.attResolve c p d r fuel (pos + 64) { x with missing := some (x.missing.getD (f, pos)) }

def Resolved.none : Resolved := ⟨[], Option.none⟩

/-- Units of 64 positions in the range. -/
def AttDesc.units (d : AttDesc) : Nat := d.span / 64 + 2

/-- The 16 banks of a page in the core's own slice (R160, R161): those of the first such page serve the operation. -/
def State.ownPage (s : State) (c p : Nat) (e : Word) : Option Nat :=
  if entStore e = 2 then none
  else match s.payloadOf p e with
    | some (.fen k, off) => if k = c then some off else none
    | _ => none

def State.reedBanks (s : State) (c p : Nat) (d : AttDesc) (pages : List (Nat × Word × Nat)) : List Nat :=
  if d.arrays then []
  else match (pages.filterMap fun x => s.ownPage c p x.2.1).head? with
    | some off => (List.range 16).map fun k => bankOfChunk (off / 2048 + k)
    | none => []

/-- Whether the reed or array path serves a page; otherwise the side path does (R161, R164). -/
def State.directPage (s : State) (c p : Nat) (d : AttDesc) (pages : List (Nat × Word × Nat)) (e : Word) : Bool :=
  match s.ownPage c p e with
  | none => false
  | some off => d.arrays || (match (pages.filterMap fun x => s.ownPage c p x.2.1).head? with | some o => off % 262144 == o % 262144 | none => false)

/-- Pool regions of an operation, from its words and the argument block as it stands. -/
def State.attRegions (s : State) (c : Nat) (w : List Word) : List (Store × Nat × Nat) :=
  let d := AttDesc.of w
  d.regions (if d.needsArgs then AttArgs.of (bytesToWords 8 (s.peek (.pool c) d.args 64)) else AttArgs.of []) c

/-- Whether an operation may start (R137, R165): fewer than four run, and no earlier operation or reed descriptor uses one of its banks or regions. `banksOf` gives
the banks that a queued operation will use. -/
def State.attClear (s : State) (c : Nat) (banksOf : AttOp → List Nat) (o : AttOp) : Bool :=
  let k := s.core c
  let rs := s.attRegions c o.w
  let banks := banksOf o
  let apart (x : AttOp) (bs : List Nat) : Bool :=
    !(bs.any fun b => banks.contains b) && (s.attRegions c x.w).all fun y => rs.all fun r => r.1 != y.1 || r.2.1 + r.2.2 ≤ y.2.1 || y.2.1 + y.2.2 ≤ r.2.1
  k.attRun.length < 4 && (k.attRun.all fun x => apart x x.banks) && ((k.attq.filter fun x => x.num < o.num).all fun x => apart x (banksOf x)) &&
    !(k.rq.any fun x => x.num < o.num && banks.any fun b => bitOf (ReedDesc.of x.w).mask b || (ReedDesc.of x.w).held.contains b)

/-- The status word (R154). -/
def State.attStatus (s : State) (c : Nat) (d : AttDesc) (status pages : Nat) : State :=
  s.coreWrite c (.pool c) d.status (toBytesLE 8 (status + placed pages 32))

/-- The floor check's end (R153): the status word, a record, ATT_FAULT. -/
def State.attFloor (s : State) (c : Nat) (d : AttDesc) (pages first : Nat) : State :=
  let s := s.attStatus c d stFormatFloor pages
  let s := s.bump .ATT_STATS_OPS c 1
  let s := s.event ⟨3, 1, siteIdx c + placed 3 11, 6, s.diePart (dieOf c), stFormatFloor, d.tag + placed d.stream 8 + placed d.headBase 24, first⟩
  s.attFault c 2 d first

/-- An operation whose pages cannot be resolved (R188). -/
def State.attUnresolved (s : State) (c : Nat) (d : AttDesc) (f : PageRes) (pos : Nat) : State :=
  match f with
  | .missing => (s.kvFault c 3 d.tag d.stream pos d.root).trap c trapDescriptor d.label stBadPacket
  | .malformed => (s.kvFault c 2 d.tag d.stream pos d.root).trap c trapDescriptor d.label stBadPacket
  | .access => s.trap c trapAccess d.label stBadPacket
  | _ => s.attBad c d pos

/-- The root of an operation (R170): its words, or the state after the operation has been dropped. -/
def State.attRoot (s : State) (c p : Nat) (d : AttDesc) : Option Root × State :=
  if p ≥ 12 ∨ s.get .KVW_ROOT_COUNT_COUNT p ≤ d.root then (none, s.attRefuse c d 3 stBadPacket)
  else match s.walkRoot c p d.root with
    | (.foreign, s) => (none, s.attRefuse c d 3 stBadPacket)
    | (.lost, s) => (none, (s.flagPart p 4 stVoteLost).attBad c d d.kvFirst)
    | (.ok w, s) =>
      let r := Root.of w
      if !r.valid || r.cls != d.cls || r.streams ≤ d.stream || (d.span != 0 && 2 ^ r.shift ≤ (d.kvEnd - 1) / 64) then (none, s.attRefuse c d 3 stBadPacket)
      else if !rootOk w then (none, s.attUnresolved c d .malformed d.kvFirst)
      else if r.long && !s.licLong p then (none, s.attRefuse c d 5 stLicence)
      else (some r, s)

/-- The banks of a running operation, held by its grains or free of them (R160). -/
def State.attHold (s : State) (c : Nat) (o : AttOp) (v : Nat) : State := o.banks.foldl (fun s b => s.put .FEN_BANK_CTL_GRAIN (ix2 128 c b) v) s

/-- An operation that leaves the queue: its root checked, its directory entries read (R165, R170). -/
def State.attBegin (c p : Nat) (o : AttOp) (s : State) : State :=
  let d := AttDesc.of o.w
  match s.attRoot c p d with
  | (none, s) => s
  | (some r, s) =>
    let (x, s) := s.attResolve c p d r d.units d.kvFirst Resolved.none
    match x.pages.find? fun e => entFmt e.2.1 < d.floor with
    | some e => s.attFloor c d x.pages.length e.1
    | none =>
      match x.missing with
      | some (f, pos) => s.attUnresolved c d f pos
      | none =>
        if x.pages.any (fun e => entStore e.2.1 == 2) && !s.licLong p then s.attRefuse c d 5 stLicence
        else
          let o := { o with banks := s.reedBanks c p d x.pages, pages := x.pages }
          (s.modCore c fun k => { k with attRun := k.attRun ++ [o] }).attHold c o 1

/-- ATTENTION_OP_START (R165): the first operation that may start leaves the queue and begins, unless its directory reads must wait (R141, R211). -/
def attStart (c : Nat) (s : State) : State :=
  let p := s.diePart (dieOf c)
  let banksOf (o : AttOp) : List Nat :=
    let d := AttDesc.of o.w
    match s.attRoot c p d with
    | (some r, t) => let x := (t.attResolve c p d r d.units d.kvFirst Resolved.none).1; t.reedBanks c p d x.pages
    | (none, _) => []
  if s.inLull then s
  else match (s.core c).attq.find? fun o => s.attClear c banksOf o with
    | none => s
    | some o =>
      let start (s : State) : State :=
        (s.modCore c fun k => { k with attq := k.attq.filter fun x => x.num != o.num }).atWork c 3 (o.w.drop 8) (State.attBegin c p o)
      match s.metered p false fun s => ((), start s) with
      | (some _, s) => s.reedPass 17 c
      | (none, s) => s

/-- ATTENTION_OP_START. -/
def execAttentionOpStart (c : Site) (s : State) : Host.Outcome State Fault Refusal := .next (s.whenClocked (attStart (siteNo c)))

/-! ### Pages read (R164, R174, R175) -/

/-- A page as the engine has it: first position, positions, format, payload, KV scales. -/
structure PageData where
  first : Nat
  cls : Nat
  fmt : Nat
  bytes : List Byte
  scales : List Nat
  deriving DecidableEq, Repr

inductive FetchRes where
  | page (x : PageData)
  | bad
  | access
  | malformed
  deriving DecidableEq, Repr

/-- The payload of a page in the peat (R164, R224, R225): none where the partition has been flagged. The fetch waits for its die, its turn there, the read window and tokens
(R222, R229, R211); `r` is what the flash made of it. -/
def State.peatPayload (s : State) (slot : Nat) (hdr : List Byte) (p : Nat) (r : NandResult) : Option (List Byte) × State :=
  match s.slotOp slot 0 with
  | (.error e, s) => (none, if e = stVoteLost then s.flagPart p 4 stVoteLost else s.flagPart p 3 stUncorrectable)
  | (.ok o, s) =>
    if !s.nandAllowed o.op then (none, s.flagPart p 3 stUncorrectable)
    else if s.powerHeld || !s.nandTempOk o.die 0 || s.nand.any fun e => e.1 == o.die then (none, s.metreBlock)
    else
      let (bs, good, _, s) := (s.metreRes resPeat 32768).readPages o.op r
      let w := ofBytesLE ((hdr.drop 40).take 8)
      if good < 2 || (bitOf w 32 && w % 2 ^ 32 != crc32 bs) then (none, s.flagPart p 3 stUncorrectable) else (some bs, s)

/-- One page fetched: header, then payload from the slice, another slice, the marsh or the peat. -/
def State.attFetch (s : State) (c p : Nat) (d : AttDesc) (x : Nat × Word × Nat) (r : NandResult) : FetchRes × State :=
  let e := x.2.1
  let finish (hdr bs : List Byte) : FetchRes :=
    .page ⟨x.1, d.cls, entFmt e, bs, (List.range 16).map fun k => ofBytesLE ((hdr.drop (2 * k)).take 2)⟩
  match s.readAt (some c) p x.2.2 256 with
  | (.foreign, s) => (.malformed, s)
  | (.retired, s) => (.access, s)
  | (.bad, s) | (.away, s) => (.bad, s)
  | (.ok hdr, s) =>
    if !headerOk hdr x.1 d.stream (entFmt e) d.cls then (.malformed, s)
    else if entStore e = 2 then
      match s.peatPayload (entSlot e) hdr p r with
      | (some bs, s) => (finish hdr bs, s)
      | (none, s) => (.bad, s)
    else match s.readAt (some c) p (entAddr e) 32768 with
      | (.ok bs, s) => (finish hdr bs, s)
      | (.retired, s) => (.access, s)
      | (.foreign, s) => (.malformed, s)
      | (.bad, s) | (.away, s) => (.bad, s)

/-- Every page of an operation: the pages, or the first that stopped them with its position. The flash's results go to the pages in the peat in their order. -/
def State.attFetchAll (s : State) (c p : Nat) (d : AttDesc) : List (Nat × Word × Nat) → List NandResult → List PageData →
    Except (FetchRes × Nat) (List PageData) × State
  | [], _, acc => (.ok acc.reverse, s)
  | x :: xs, rs, acc =>
    match s.attFetch c p d x (rs.headD ⟨[], []⟩) with
    | (.page y, s) => s.attFetchAll c p d xs (if entStore x.2.1 = 2 then rs.tail else rs) (y :: acc)
    | (r, s) => (.error (r, x.1), s)

/-! ### Operands (R74, R149, R155) -/

/-- A rounded operand: format, patterns, block scales where it carries them. -/
structure Rounded where
  fmt : Fmt
  codes : List Nat
  scales : List Nat
  mx : Bool
  deriving DecidableEq, Repr

/-- round_q (R148). -/
def roundQ (fmt : Nat) (mx : Bool) (xs : List F32) : Rounded × Nat :=
  let f := fmtOf fmt
  if mx then
    let bs := (List.range (xs.length / 32)).map fun b => convertBlock f (((xs.drop (32 * b)).take 32).map ofF32)
    (⟨f, bs.flatMap fun b => b.2.1, bs.map fun b => b.1, true⟩, bs.foldl (fun fl b => fl ||| b.2.2) 0)
  else
    let rs := xs.map fun x => f.convert (ofF32 x)
    (⟨f, rs.map (·.bits), [], false⟩, rs.foldl (fun fl r => fl ||| r.flags) 0)

/-- The factors of element `k`: its value and its block scale. -/
def Rounded.factors (r : Rounded) (k : Nat) : List Num := r.fmt.decode (r.codes.getD k 0) :: scaleFactor r.mx (r.scales.getD (k / 32) 127)

/-- Block values added in increasing order, block `b` of `n` having the terms `t b` (R149). -/
def blockSum (n : Nat) (t : Nat → List (List Num)) : F32 × Nat :=
  (List.range n).foldl (fun acc b =>
    let (v, f1) := blockValue (t b)
    let (x, f2) := fadd acc.1 v
    (x, acc.2 ||| f1 ||| f2)) (0, 0)

def PageData.n (x : PageData) : Nat := pageN x.cls x.fmt
def PageData.f (x : PageData) : Fmt := pageFmt x.fmt

/-- Key element `k` of position `t` of the page (R174). -/
def PageData.key (x : PageData) (t k : Nat) : Num :=
  let D := headDim x.cls
  let c := t / (x.n / 8)
  x.f.decode (elemBits x.f (x.bytes.drop (2048 * c + (t - c * (x.n / 8)) * D * x.f.bits / 8)) k)

/-- Value element `k` of position `t` of the page (R174). -/
def PageData.value (x : PageData) (t k : Nat) : Num :=
  let w := headDim x.cls / 8
  x.f.decode (elemBits x.f (x.bytes.drop (16384 + 2048 * (k / w) + t * w * x.f.bits / 8)) (k % w))

/-- KV scale of position `t` (R68). -/
def PageData.scale (x : PageData) (t : Nat) : Num := Fmt.bf16.decode (x.scales.getD (t / 16) 0)

/-- s_j of R149: the score of a rounded row against the keys, or the values, of position `t`. -/
def score (q : Rounded) (D : Nat) (x : PageData) (t : Nat) (elem : Nat → Num) : F32 × Nat :=
  blockSum (D / 32) fun b => (List.range 32).map fun i => q.factors (32 * b + i) ++ [elem (32 * b + i), x.scale t]

/-! ### Masks and bias (R156 to R158) -/

/-- A query row: its position, its ancestors, its head within the group. -/
structure QRow where
  pos : Nat
  anc : Nat
  head : Nat
  deriving DecidableEq, Repr

def liveAt (d : AttDesc) (r : QRow) (j : Nat) : Bool :=
  let below := !d.tree || j < d.treeBase
  d.kvFirst ≤ j && j < d.kvEnd && (!(d.causal && below) || j ≤ r.pos) && (!(d.windowed && below) || decide ((r.pos : Int) - j < d.window)) &&
    (below || (j < d.treeBase + 64 && bitOf r.anc (j - d.treeBase)))

/-- bias(u) of R158 with the distance of row and position, and its flags. -/
def biasAt (d : AttDesc) (table : List Byte) (r : QRow) (j : Nat) : F32 × Nat :=
  let base := table.drop (8256 * r.head)
  let u := if d.tree && d.treeBase ≤ j then popcount 64 (r.anc / 2 ^ (j - d.treeBase + 1)) else ((r.pos : Int) - j).natAbs
  let T (k : Nat) : F32 := bf16ToF32 (elemBits .bf16 base k)
  if u ≤ 4095 then (T u, 0)
  else
    let x := (roundF32 (.fin ⟨false, u - 4095, 0⟩)).1
    let (y, f1) := fmul x (BitVec.ofNat 32 (ofBytesLE ((base.drop 8192).take 4)))
    let (v, f2) := fadd (T 4095) y
    (v, f1 ||| f2)

/-- z_j of R148. -/
def scaledScore (d : AttDesc) (table : List Byte) (q : Rounded) (r : QRow) (x : PageData) (t : Nat) : F32 × Nat :=
  let (s, f1) := score q d.dim x t (x.key t)
  let (z, f2) := fmul s d.mul
  if d.bias then
    let (b, f3) := biasAt d table r (x.first + t)
    let (z, f4) := fadd z b
    (z, f1 ||| f2 ||| f3 ||| f4)
  else (z, f1 ||| f2)

def negInf : F32 := 0xFF800000

/-- The live positions of a page with their scores, those of −∞ left out (R148). -/
def liveScores (d : AttDesc) (table : List Byte) (q : Rounded) (r : QRow) (x : PageData) : List (Nat × F32) × Nat :=
  let zs := ((List.range x.n).filter fun t => liveAt d r (x.first + t)).map fun t => (t, scaledScore d table q r x t)
  ((zs.filter fun e => e.2.1 != negInf).map fun e => (e.1, e.2.1), zs.foldl (fun fl e => fl ||| e.2.2) 0)

/-! ### FORWARD (R148 to R150) -/

/-- A row under construction. -/
structure RowState where
  m : F32
  l : F32
  o : List F32
  live : Nat
  poison : Bool
  flags : Nat
  deriving DecidableEq, Repr

def RowState.empty (D : Nat) : RowState := ⟨negInf, 0, List.replicate D 0, 0, false, 0⟩

/-- A row begun from a partial record (R159). -/
def RowState.ofRecord (rec out : List Byte) (D : Nat) : RowState :=
  let w (k : Nat) : Nat := ofBytesLE ((rec.drop (4 * k)).take 4)
  ⟨BitVec.ofNat 32 (w 0), BitVec.ofNat 32 (w 1), (List.range D).map fun k => BitVec.ofNat 32 (elemBits .fp32 out k), w 3, bitOf (w 2) 1, 0⟩

/-- One page step. -/
def pageStep (d : AttDesc) (table : List Byte) (q : Rounded) (r : QRow) (st : RowState) (x : PageData) : RowState :=
  let (J, f0) := liveScores d table q r x
  if J.isEmpty then { st with flags := st.flags ||| f0 }
  else
    let poison := J.any fun e => (ofF32 e.2).isNan || e.2 == 0x7F800000
    let mNew := fmax st.m (J.foldl (fun m e => fmax m e.2) negInf)
    let (dm, f1) := fadd st.m (fneg mNew)
    let (a, f7) := exp2F dm
    let ps := J.map fun e => let (y, g1) := fadd e.2 (fneg mNew); let (z, g2) := exp2F y; (e.1, z, g1 ||| g2)
    let f2 := ps.foldl (fun fl e => fl ||| e.2.2) f7
    let (ph, f3) := roundQ d.qFmt d.qMx ((List.range x.n).map fun t => match ps.find? fun e => e.1 == t with | some e => e.2.1 | none => 0)
    let (sum, f4) := blockSum (x.n / 32) fun b => (List.range 32).map fun i => ph.factors (32 * b + i)
    let (la, f5) := fmul st.l a
    let (l, f6) := fadd la sum
    let os := st.o.zipIdx.map fun e =>
      let (v, g1) := blockSum (x.n / 32) fun b => (List.range 32).map fun i => ph.factors (32 * b + i) ++ [x.value (32 * b + i) e.2, x.scale (32 * b + i)]
      let (oa, g2) := fmul e.1 a
      let (y, g3) := fadd oa v
      (y, g1 ||| g2 ||| g3)
    ⟨mNew, l, os.map (·.1), st.live + J.length, st.poison || poison,
     os.foldl (fun fl y => fl ||| y.2) (st.flags ||| f0 ||| f1 ||| f2 ||| f3 ||| f4 ||| f5 ||| f6)⟩

/-- Finalisation (R150): output elements, record words, flags raised; the record's flags are its word 2. -/
def finalise (d : AttDesc) (st : RowState) : List F32 × List Nat × Nat :=
  let live := saturate 32 st.live
  if st.poison then (st.o.map fun _ => nan32, [0x7FC00000, 0x7FC00000, 2, live], st.flags)
  else if st.live = 0 then (st.o.map fun _ => 0, [0xFF800000, 0, 1, live], st.flags)
  else if d.part then (st.o, [st.m.toNat, st.l.toNat, 4, live], st.flags)
  else
    let (inv, f0) := recipF st.l
    let ys := st.o.map fun x => fmul x inv
    (ys.map (·.1), [st.m.toNat, st.l.toNat, 0, live], ys.foldl (fun fl y => fl ||| y.2) (st.flags ||| f0))

/-- The inputs that an operation reads from the pool. -/
structure AttIn where
  q : List Byte
  out : List Byte
  stats : List Byte
  bias : List Byte
  tree : List Byte
  dO : List Byte
  dQ : List Byte
  dK : List Byte
  dV : List Byte

/-- Row `i` of a list of FP32 rows. -/
def rowOf (bs : List Byte) (D i : Nat) : List F32 := (List.range D).map fun k => BitVec.ofNat 32 (elemBits .fp32 (bs.drop (4 * D * i)) k)

/-- The query row's position, ancestors and head. -/
def AttDesc.qrow (d : AttDesc) (x : AttIn) (i : Nat) : QRow :=
  let r := i / d.group
  if d.tree then ⟨ofBytesLE ((x.tree.drop (16 * r + 8)).take 4), ofBytesLE ((x.tree.drop (16 * r)).take 8), i % d.group⟩
  else ⟨(d.pos0 + r) % 2 ^ 32, 0, i % d.group⟩

/-- The rounded query of a row. -/
def AttDesc.query (d : AttDesc) (freq : Nat → F32) (x : AttIn) (i : Nat) : Rounded × Nat :=
  let q := rowOf x.q d.dim i
  let (q, f0) := if d.rope then rotate false freq d.layout d.pairs (d.qrow x i).pos q else (q, 0)
  let (y, f1) := roundQ d.qFmt d.qMx q
  (y, f0 ||| f1)

/-- One row of FORWARD: output bytes, record bytes, flags, whether EMPTY and NONFINITE. -/
def forwardRow (d : AttDesc) (freq : Nat → F32) (x : AttIn) (pages : List PageData) (i : Nat) : List Byte × List Byte × Nat × Nat :=
  let r := d.qrow x i
  let (q, f0) := d.query freq x i
  let st := if d.cont then RowState.ofRecord (x.stats.drop (16 * i)) (x.out.drop (4 * d.dim * i)) d.dim else RowState.empty d.dim
  let st := pages.foldl (pageStep d x.bias q r) st
  let (o, rec, fl) := finalise d st
  (o.flatMap fun v => toBytesLE 4 v.toNat, rec.flatMap (toBytesLE 4), fl ||| f0, rec.getD 2 0)

/-! ### BACKWARD (R166) -/

/-- What one row gives for one page: live positions with p and dS, each rounded over the page, and the flags. -/
structure BackPage where
  live : List Nat
  p : Rounded
  ds : Rounded
  deriving DecidableEq, Repr

/-- A row of BACKWARD: its rounded query, its gradient row, and its pages; none where it is EMPTY or NONFINITE. -/
structure BackRow where
  q : Rounded
  dO : List F32
  pages : List BackPage
  deriving DecidableEq, Repr

def backPage (d : AttDesc) (x : AttIn) (q dq : Rounded) (r : QRow) (m l delta : F32) (pg : PageData) : BackPage × Nat :=
  let (J, f0) := liveScores d x.bias q r pg
  let vs := J.map fun e =>
    let (zm, f1) := fadd e.2 (fneg m)
    let (ex, g1) := exp2F zm
    let (inv, g2) := recipF l
    let (p, f2) := fmul ex inv
    let (dp, f3) := score dq d.dim pg e.1 (pg.value e.1)
    let (u, f4) := fadd dp (fneg delta)
    let (v, f5) := fmul p u
    let (ds, f6) := fmul v d.dsMul
    (e.1, p, ds, g1 ||| g2 ||| f1 ||| f2 ||| f3 ||| f4 ||| f5 ||| f6)
  let get (g : Nat × F32 × F32 × Nat → F32) := (List.range pg.n).map fun t => match vs.find? fun e => e.1 == t with | some e => g e | none => 0
  let (ph, f7) := roundQ d.qFmt d.qMx (get fun e => e.2.1)
  let (dh, f8) := roundQ d.qFmt d.qMx (get fun e => e.2.2.1)
  (⟨J.map (·.1), ph, dh⟩, vs.foldl (fun fl e => fl ||| e.2.2.2) (f0 ||| f7 ||| f8))

def backRow (d : AttDesc) (freq : Nat → F32) (x : AttIn) (pages : List PageData) (i : Nat) : Option BackRow × Nat :=
  let rec_ := x.stats.drop (16 * i)
  let w (k : Nat) : Nat := ofBytesLE ((rec_.drop (4 * k)).take 4)
  if w 2 % 4 ≠ 0 then (none, 0)
  else
    let r := d.qrow x i
    let (q, f0) := d.query freq x i
    let g := rowOf x.dO d.dim i
    let o := rowOf x.out d.dim i
    let (delta, f1) := blockSum (d.dim / 32) fun b => (List.range 32).map fun k => [ofF32 (g.getD (32 * b + k) 0), ofF32 (o.getD (32 * b + k) 0)]
    let (dq, f2) := roundQ d.qFmt d.qMx g
    let ps := pages.map (backPage d x q dq r (BitVec.ofNat 32 (w 0)) (BitVec.ofNat 32 (w 1)) delta)
    (some ⟨q, g, ps.map (·.1)⟩, ps.foldl (fun fl e => fl ||| e.2) (f0 ||| f1 ||| f2))

/-- The dQ row after the operation. -/
def backDQ (d : AttDesc) (freq : Nat → F32) (x : AttIn) (pages : List PageData) (row : BackRow) (i : Nat) : List F32 × Nat :=
  let sums := (List.range d.dim).map fun k =>
    (pages.zip row.pages).foldl (fun acc e =>
      (List.range (e.1.n / 32)).foldl (fun acc b =>
        if e.2.live.any fun t => t / 32 == b then
          let (v, f1) := blockValue ((List.range 32).map fun j => e.2.ds.factors (32 * b + j) ++ [e.1.key (32 * b + j) k, e.1.scale (32 * b + j)])
          let (y, f2) := fadd acc.1 v
          (y, acc.2 ||| f1 ||| f2)
        else acc) acc) ((0 : F32), (0 : Nat))
  let v := sums.map (·.1)
  let (v, f0) := if d.rope then rotate true freq d.layout d.pairs (d.qrow x i).pos v else (v, 0)
  let out := (rowOf x.dQ d.dim i).zipWith fadd v
  (out.map (·.1), out.foldl (fun fl y => fl ||| y.2) (sums.foldl (fun fl y => fl ||| y.2) f0))

/-- An FP32 gradient entry with the blocks of 32 query rows added in increasing order: `term i` gives row i's factors, none where it adds nothing. -/
def backEntry (n : Nat) (old : F32) (term : Nat → Option (List Num)) : F32 × Nat :=
  (List.range ((n + 31) / 32)).foldl (fun acc b =>
    let ts := (List.range 32).filterMap fun i => if 32 * b + i < n then term (32 * b + i) else none
    if ts.isEmpty then acc
    else
      let (v, f1) := blockValue ts
      let (y, f2) := fadd acc.1 v
      (y, acc.2 ||| f1 ||| f2)) (old, 0)

/-- Where a position of a page is live for a row: that row's page data. -/
def BackRow.at_ (row : BackRow) (pi t : Nat) : Option BackPage :=
  match row.pages[pi]? with
  | some b => if b.live.contains t then some b else none
  | none => none

/-- The dK and dV areas after the operation. -/
def backKV (d : AttDesc) (x : AttIn) (pages : List PageData) (rows : List (Option BackRow)) : List Byte × List Byte × Nat :=
  pages.zipIdx.foldl (fun acc e =>
    let (pg, pi) := e
    (List.range pg.n).foldl (fun acc t =>
      let j := pg.first + t
      if j < d.kvFirst || d.kvEnd ≤ j || !(rows.any fun r => match r with | some r => (r.at_ pi t).isSome | none => false) then acc
      else
        (List.range d.dim).foldl (fun (acc : List Byte × List Byte × Nat) k =>
          let at_ := d.dim * (j - d.kvFirst) + k
          let term (f : BackRow → BackPage → List Num) (i : Nat) : Option (List Num) :=
            match rows.getD i none with
            | some r => (r.at_ pi t).map fun b => f r b
            | none => none
          let (dv, f1) := backEntry d.n (BitVec.ofNat 32 (elemBits .fp32 acc.2.1 at_)) (term fun r b => b.p.factors t ++ [ofF32 (r.dO.getD k 0)])
          let (dk, f2) := backEntry d.n (BitVec.ofNat 32 (elemBits .fp32 acc.1 at_)) (term fun r b => b.ds.factors t ++ r.q.factors k)
          (setElem 32 acc.1 at_ dk.toNat, setElem 32 acc.2.1 at_ dv.toNat, acc.2.2 ||| f1 ||| f2)) acc) acc) (x.dK, x.dV, 0)

/-! ### Completion (R154, R171) -/

/-- The pool and slice ranges that the operation reads, in the order of AttIn. -/
def AttDesc.inputs (d : AttDesc) (a : AttArgs) (c : Nat) : List (Store × Nat × Nat) :=
  let row := 4 * d.dim * d.n
  let opt (b : Bool) (r : Store × Nat × Nat) : Store × Nat × Nat := if b then r else (.pool c, 0, 0)
  [(.pool c, d.q, row), opt (d.cont || d.op == 2) (.pool c, d.out, row), opt (d.cont || d.op == 2) (.pool c, d.stats, 16 * d.n),
   opt d.bias (.pool c, a.bias, 8256 * d.group), opt d.tree (.pool c, a.tree, 16 * d.rows), opt (d.op == 2) (.pool c, a.dO, row),
   opt (d.op == 2) (.pool c, a.dQ, row), opt (d.op == 2) (spaceStore c a.dKPool, a.dK, 4 * d.dim * d.span),
   opt (d.op == 2) (spaceStore c a.dVPool, a.dV, 4 * d.dim * d.span)]

def AttIn.of (bs : List (List Byte)) : AttIn :=
  let g (k : Nat) := bs.getD k []
  ⟨g 0, g 1, g 2, g 3, g 4, g 5, g 6, g 7, g 8⟩

/-- The reeds that an operation ran on: entries 128 to 255, both activation halves and the latches hold no defined value (R160). -/
def State.attReeds (s : State) (c : Nat) (banks : List Nat) : State :=
  banks.foldl (fun s b =>
    let (a, s) := s.frees 128
    let (x, s) := s.frees 4096
    s.modCore c fun k =>
      let k := (k.setRacc (256 * b + 128) (a.map fun w => BitVec.ofNat 32 w.toNat)).setAct (4096 * b) (x.map fun w => w.toNat % 65536)
      { k with latchLost := SMap.set k.latchLost b true false }) s

/-- Bus transfers and grains of an operation on the reed path (R162); `pages` are those that the reeds serve. -/
def State.attBus (s : State) (c : Nat) (d : AttDesc) (pages : List PageData) : State :=
  let per := (pages.map fun x => 40 + 2 * x.n + if d.bias then 4 * x.n else 0).sum
  let bytes := 32 * pages.length + d.n * (2 * d.dim + 16 + 4 * d.dim + 4 + per)
  (s.busUse c ((bytes + 31) / 32)).bump .REED_STATS_GRAINS c (16 * pages.length * d.n)

def State.attForward (s : State) (c : Nat) (d : AttDesc) (x : AttIn) (pages : List PageData) : State :=
  let rows := (List.range d.n).map (forwardRow d (s.ropeFreq c) x pages)
  let s := s.coreWrite c (.pool c) d.out (rows.flatMap fun r => r.1)
  let s := if d.statsOut || d.part then s.coreWrite c (.pool c) d.stats (rows.flatMap fun r => r.2.1) else s
  let s := s.numFlags c (rows.foldl (fun fl r => fl ||| r.2.2.1) 0)
  (s.bump .ATT_ROW_STATS_EMPTY_ROWS c (rows.filter fun r => r.2.2.2 == 1).length).bump .ATT_ROW_STATS_NONFINITE_ROWS c (rows.filter fun r => r.2.2.2 == 2).length

def State.attBackward (s : State) (c : Nat) (d : AttDesc) (a : AttArgs) (x : AttIn) (pages : List PageData) : State :=
  let freq := s.ropeFreq c
  let rows := (List.range d.n).map (backRow d freq x pages)
  let dqs := rows.zipIdx.map fun e => match e.1.1 with
    | some r => backDQ d freq x pages r e.2
    | none => (rowOf x.dQ d.dim e.2, 0)
  let (dk, dv, f2) := backKV d x pages (rows.map (·.1))
  let s := s.coreWrite c (.pool c) a.dQ (dqs.flatMap fun r => r.1.flatMap fun v => toBytesLE 4 v.toNat)
  let s := s.coreWrite c (spaceStore c a.dKPool) a.dK dk
  let s := s.coreWrite c (spaceStore c a.dVPool) a.dV dv
  s.numFlags c (dqs.foldl (fun fl r => fl ||| r.2) (rows.foldl (fun fl r => fl ||| r.2) f2))

/-- Score tiles of 256 positions on the array path with a position live for some row, among the pages that the arrays serve (R163). -/
def AttDesc.tiles (d : AttDesc) (x : AttIn) (pages : List PageData) : Nat :=
  ((List.range ((d.span + 255) / 256)).filter fun k =>
    pages.any fun g => (g.first - d.kvFirst) / 256 == k && (List.range g.n).any fun t => (List.range d.n).any fun i => liveAt d (d.qrow x i) (g.first + t)).length

/-- The array path's passes (R163): their stream slots, an injection that their first one takes (R63), and the mismatches that their checks find. True where there is one. -/
def State.attPasses (s : State) (c : Nat) (d : AttDesc) (x : AttIn) (pages : List PageData) (found : List AttMismatch) : Bool × State :=
  let n := d.tiles x pages
  if n = 0 then (false, s)
  else
    let s := s.bump .CORE_FEEDER_STATS_SLOTS c (n * (d.dim / 64 + 4) * (d.n + (d.n + 63) / 64))
    let (inj, s) := (List.range 4).foldl (fun (acc : List (Nat × Nat × Nat) × State) a =>
      let i := ix2 4 c a
      if !SMap.get (acc.2.core c).injectArmed a false then acc
      else
        let s := acc.2.modCore c fun k => { k with injectArmed := SMap.set k.injectArmed a false false }
        if s.on .ARR_INJECT_STREAM i then (acc.1 ++ [(a, 66, 0)], s)
        else match s.logicalCol i (s.get .ARR_INJECT_PHYS_COLUMN i) with
          | some n => (if s.get .ARR_INJECT_DELTA i = 0 then acc.1 else acc.1 ++ [(a, n, 0)], s)
          | none => (acc.1, s)) ([], s)
    let all := inj ++ found.map fun f => (f.array.val, f.loc.val, f.index.val)
    (!all.isEmpty, all.foldl (fun s f => s.arrMismatch c f.1 d.tag f.2.1 f.2.2) s)

/-- The operation leaves the engine without a result. -/
def State.attLeave (s : State) (c : Nat) (o : AttOp) : State := s.modCore c fun x => { x with attRun := x.attRun.filter fun y => y.num != o.num }

/-- The end of a running operation, its grains at a boundary. -/
def State.attEnd (c p : Nat) (o : AttOp) (met : AttEnd) (s : State) : State :=
  let d := AttDesc.of o.w
  let overs (s : State) : State := ((s.attLeave c o).attReeds c o.banks).bump .ATT_STATS_OPS c 1
  let a := if d.needsArgs then AttArgs.of (bytesToWords 8 (s.peek (.pool c) d.args 64)) else AttArgs.of []
  let bad (s : State) (pos : Nat) : State := overs ((s.attBad c d pos).attUndefine c d (some a))
  let s := (d.inputs a c).foldl (fun s e => s.metre none e.1 e.2.1 e.2.2) s
  match s.attFetchAll c p d o.pages met.flash [] with
  | (.error (.malformed, pos), s) => (s.attLeave c o).attUnresolved c d .malformed pos
  | (.error (.access, _), s) => (s.attLeave c o).trap c trapAccess d.label stBadPacket
  | (.error (_, pos), s) => bad s pos
  | (.ok pages, s) =>
    match s.readRanges c (d.inputs a c) with
    | (.bad, s) => bad s d.kvFirst
    | (.access, s) => (s.attLeave c o).trap c trapAccess d.label stBadPacket
    | (.data bs, s) =>
      let x := AttIn.of bs
      let direct := (o.pages.zip pages).filter fun e => s.directPage c p d o.pages e.1.2.1
      let s := s.bump .ATT_STATS_SIDE_PAGES c (o.pages.length - direct.length)
      let (wrong, s) := if d.arrays then s.attPasses c d x (direct.map (·.2)) met.found else (false, s.attBus c d (direct.map (·.2)))
      if wrong then overs (s.attUndefine c d (some a))
      else
        let s := if d.op = 1 then s.attForward c d x pages else s.attBackward c d a x pages
        overs (s.attStatus c d stOk o.pages.length)

/-- A running operation finishes (R154), its grains' banks released first; where a page or an operand still waits for a bank, a port, a die or tokens, it is due and finishes
once it may. -/
def State.attFinish (s : State) (c : Nat) (o : AttOp) (met : AttEnd) : State :=
  let p := s.diePart (dieOf c)
  match s.metered p false fun s => ((), (s.attHold c o 0).atWork c 3 (o.w.drop 8) (State.attEnd c p o met)) with
  | (some _, s) => s.reedPass 17 c
  | (none, s) => s.modCore c fun k => { k with attRun := k.attRun.map fun x => if x.num = o.num then { x with due := some met } else x }

/-- Ends that wait, tried again. -/
def State.attRetry (s : State) (c : Nat) : State :=
  (s.core c).attRun.foldl (fun s o => match o.due with | some met => s.attFinish c o met | none => s) s

end Sys2Proof.Machine
end

