-- ==== Sys2Proof/Machine/Partition.lean ====
section
/-!
DEFINITION. Partitions in service (R314 to R318, R327): creating, resetting and destroying them.
Readings taken by inference (DEDUCED): notes/assumptions/20.md.
-/
namespace Sys2Proof.Machine

/-! ### Regulators of a partition (R213) -/

/-- The regulated resources, with the guarantee limit of each in GB/s (R210). -/
def resources : List (Nat × Nat) := (List.range 12).map (fun m => (resMarsh m, 1700)) ++ [(resCache, 11000), (resPeat, 40), (resDma, 960)]

/-- Control fields of a regulator, CEILING and GUARANTEE, and their copy. -/
def regFields (res p : Nat) : Fld × Fld × Nat :=
  if res < 12 then (.MRS_REG_CEILING, .MRS_REG_GUARANTEE, ix2 12 res p)
  else if res = resCache then (.SHC_REG_CEILING, .SHC_REG_GUARANTEE, p)
  else if res = resPeat then (.PEAT_REG_CEILING, .PEAT_REG_GUARANTEE, p)
  else (.DMA_REG_CEILING, .DMA_REG_GUARANTEE, p)

/-- Whether a control word is accepted (R213): GUARANTEE at most CEILING, and the sum of guarantees within the resource's limit. -/
def State.regWordOk (s : State) (res limit p ceiling guarantee : Nat) : Bool :=
  let (_, g, _) := regFields res p
  let others := ((List.range 12).filter (· != p)).map fun q => s.get g (regFields res q).2.2
  guarantee ≤ ceiling && others.sum + guarantee ≤ limit

/-- Token counts refilled (R317): the guaranteed count to its bound, the ceiling count to one interval's worth. -/
def State.refillRegs (s : State) (p : Nat) : State :=
  resources.foldl (fun s r =>
    let (cf, gf, i) := regFields r.1 p
    let s := { s with eff := SMap.set (SMap.set s.eff (cf.key i) none none) (gf.key i) none none }
    let x := s.reg r.1 p
    s.setReg r.1 p { x with guar := s.get gf i * 8000, ceil := s.get cf i * 1000 }) s

/-! ### Core firmware of a partition (R333) -/

/-- FW_SLOT and PART_FW as the partitions' firmware versions stand. -/
def State.fwSlots (s : State) : State :=
  let cur := s.get .PART_FW_CURRENT 0
  let live := (List.range 12).filter fun p => s.get .PART_STATUS_STATE p != 0
  let s := live.foldl (fun s p => s.put .PART_STATUS_FW_SLOT p (Bool.bit ((s.part p).fwVersion != cur))) s
  s.put .PART_FW_PREVIOUS 0 (((live.map fun p => (s.part p).fwVersion).find? fun v => v != cur).getD 0)

/-! ### PART_CREATE (R315, R316) -/

/-- Word at a byte offset of the parameter block. -/
def blockWord (w : List Word) (off : Nat) : Word := wordAt w (off / 8)

/-- Regulator control word of resource number `k`: marsh stacks, cache, peat, DMA (R315). -/
def blockReg (w : List Word) (k : Nat) : Nat := fieldOf (blockWord w (0x30 + 4 * k)) (32 * (k % 2) + 31) (32 * (k % 2))

/-- Valid marsh shares: stack, first GiB, length. -/
def blockShares (w : List Word) : List (Nat × Nat × Nat) :=
  (List.range 16).filterMap fun k =>
    let x := blockWord w (0x80 + 8 * k)
    if flagOf x 4 then some (fieldOf x 3 0, fieldOf x 22 16, fieldOf x 38 32) else none

def sharesMeet (a b : Nat × Nat × Nat) : Bool := a.1 == b.1 && a.2.1 < b.2.1 + b.2.2 && b.2.1 < a.2.1 + a.2.2

/-- No two shares of a list meet. -/
def sharesApart : List (Nat × Nat × Nat) → Bool
  | [] => true
  | a :: r => r.all (fun b => !sharesMeet a b) && sharesApart r

/-- Bits that the block's table assigns, word by word; words past 0x0FF assign none (R315). -/
def blockMask (k : Nat) : Nat :=
  if k = 0 then bitsMask 15 0 + bitsMask 63 32
  else if k = 1 then bitsMask 28 0 + bitsMask 63 32
  else if k = 4 then bitsMask 63 12
  else if k = 5 then bitsMask 21 0
  else if k = 2 ∨ k = 3 ∨ (6 ≤ k ∧ k ≤ 12) then word64
  else if k = 13 then bitsMask 31 0
  else if 16 ≤ k ∧ k < 32 then bitsMask 4 0 + bitsMask 22 16 + bitsMask 38 32
  else 0

/-- The block keeps R315. -/
def blockOk (w : List Word) : Bool :=
  let base := fieldOf (blockWord w 8) 28 0
  let bytes := fieldOf (blockWord w 8) 63 32
  fieldOf (blockWord w 0) 15 0 == 1 && !reservedSet w ((List.range 512).map blockMask) &&
    base % 2 ^ 20 == 0 && bytes % 2 ^ 20 == 0 && 2 ^ 20 ≤ bytes && base + bytes ≤ Store.cache.size && fieldOf (blockWord w 0x28) 4 0 ≤ 14 &&
    (blockShares w).all (fun x => x.1 < 12 && 1 ≤ x.2.2 && x.2.1 + x.2.2 ≤ 96) && sharesApart (blockShares w)

/-- Bits of the peat dies named (R315): bit 8ch + die. -/
def blockPeat (w : List Word) : Nat := (blockWord w 0x10).toNat + placed (blockWord w 0x18).toNat 64

/-- Owner of a peat die (R233). -/
def State.peatOwner (s : State) (d : Nat) : Nat := bitsOf (s.get .PEAT_DIE_OWNER_OWNER (d / 8)) (4 * (d % 8) + 3) (4 * (d % 8))

def State.setPeatOwner (s : State) (d p : Nat) : State :=
  let i := d / 8
  let lo := 4 * (d % 8)
  let v := s.get .PEAT_DIE_OWNER_OWNER i
  s.put .PEAT_DIE_OWNER_OWNER i (v - placed (bitsOf v (lo + 3) lo) lo + placed p lo)

/-- Whether something the block names belongs to another partition (R316). -/
def State.blockForeign (s : State) (mask : Nat) (w : List Word) : Bool :=
  let base := fieldOf (blockWord w 8) 28 0
  let bytes := fieldOf (blockWord w 8) 63 32
  let dma := fieldOf (blockWord w 0) 63 32
  (List.range 12).any fun q =>
    s.get .PART_STATUS_STATE q != 0 &&
      (s.get .PART_STATUS_DIE_MASK q &&& mask != 0 || s.get .PART_DMA_MASK q &&& dma != 0 ||
        (base < s.get .PART_SHC_BASE q + s.get .PART_SHC_BYTES q && s.get .PART_SHC_BASE q < base + bytes) ||
        (blockShares w).any fun a => (List.range 16).any fun k =>
          let x := BitVec.ofNat 64 (s.get .PART_MARSH_SHARE (ix2 16 q k))
          flagOf x 4 && sharesMeet a (fieldOf x 3 0, fieldOf x 22 16, fieldOf x 38 32)) ||
    (setBits 128 (blockPeat w)).any fun d => s.peatOwner d < 12

/-- Dies and stacks that a repair-map entry concerns (R438), from its kind and location. -/
def entryDies (s : State) (kind : Nat) (loc : Word) : List Nat × List Nat :=
  if kind ≤ 4 ∨ kind = 9 then ([fieldOf loc 3 0], [])
  else if kind = 5 then ([], [fieldOf loc 3 0])
  else if kind = 6 then (linkDies (fieldOf loc 4 0), [])
  else if kind = 8 then
    match s.devLoc loc.toNat with
    | some (.fen c, _) => ([dieOf c], [])
    | some (.marsh m, _) => ([], [m])
    | _ => ([], [])
  else ([], [])

/-- Whether a creation names a die or stack left unmapped at bring-up (R386). -/
def State.blockUnmapped (s : State) (mask : Nat) (w : List Word) : Bool :=
  s.on .BOOT_STATUS_UNMAPPED 0 && (List.range 10).any fun kind => (s.lostEntries kind).any fun loc =>
    let x := entryDies s kind loc
    x.1.any (fun d => bitOf mask d) || (blockShares w).any fun a => x.2.contains a.1

/-- The checks of R316 in order; ST_OK where all pass. -/
def State.createStatus (s : State) (p mask vf : Nat) (block : Option (List Word)) : Nat :=
  if s.get .PART_STATUS_STATE p ≠ 0 then stBusy
  else match block with
    | none => stUncorrectable
    | some w =>
      let vfBound := vf != 0 && (s.on .HST_FUNC_CTL_BOUND vf || (List.range 12).any fun q => s.get .PART_STATUS_STATE q != 0 && s.partVf q == vf)
      if !blockOk w || mask == 0 || vfBound then stBadPacket
      else if s.blockForeign mask w then stBadPacket
      else if s.blockUnmapped mask w then stVoteLost
      else if !(resources.zipIdx.all fun e => s.regWordOk e.1.1 e.1.2 p (bitsOf (blockReg w e.2) 31 16) (bitsOf (blockReg w e.2) 15 0)) then stBadPacket
      else if 2 ≤ ((List.range 12).filter fun q => s.get .PART_STATUS_STATE q != 0).length ∧ !bitOf (s.get .LIC_STATE_IN_FORCE 0) 3 then stLicence
      else stOk

/-- PART_CREATE: the checks, and the resources taken; what follows stands with PART_CREATE_DONE. -/
def partCreate (q : Req) (p0 p1 : Word) (s : State) : State :=
  let p := fieldOf p0 3 0
  let mask := fieldOf p0 19 8
  let vf := fieldOf p0 27 24
  let block := if s.hostUp then some (bytesToWords 512 (s.hostRead p1.toNat 4096)) else none
  let st := s.createStatus p mask vf block
  if st ≠ stOk then s.done q st
  else
    let w := block.getD []
    let s := s.unmakePart p
    let s := s.puts p [(.PART_STATUS_STATE, 1), (.PART_STATUS_DIE_MASK, mask), (.PART_STATUS_VF, vf), (.PART_SHC_BASE, fieldOf (blockWord w 8) 28 0),
      (.PART_SHC_BYTES, fieldOf (blockWord w 8) 63 32), (.PART_DMA_MASK, fieldOf (blockWord w 0) 63 32)]
    let s := (List.range 16).foldl (fun s k => s.put .PART_MARSH_SHARE (ix2 16 p k) (blockWord w (0x80 + 8 * k)).toNat) s
    s.startCmd q 0x30 (.partCreate p w)

def opPartCreate : HostOp := ⟨0x30, .pfModule, [bitsMask 3 0 + bitsMask 19 8 + bitsMask 27 24, word64]⟩

/-- PART_CREATE. -/
def execPartCreate (q : Req) (p0 p1 : Word) (s : State) : Host.Outcome State Fault Refusal :=
  hostRow opPartCreate q [p0, p1] (fun _ => if fieldOf p0 3 0 < 12 ∧ fieldOf p0 27 24 ≤ 12 then 0 else 5) (partCreate q p0 p1) s

/-- The event log of a VF as PART_CREATE writes it (R315, R339). -/
def State.openVfLog (s : State) (f : Nat) (w : List Word) : State :=
  let c := blockWord w 0x28
  let s := s.puts f [(.EVT_LOG_BASE_BASE, fieldOf (blockWord w 0x20) 63 12), (.EVT_LOG_CTL_DEVICE, 0), (.EVT_LOG_CTL_SIZE, fieldOf c 4 0),
    (.EVT_LOG_CTL_HOLDOFF_US, fieldOf c 21 6), (.EVT_LOG_CTL_ENABLE, fieldOf c 5 5)]
  if flagOf c 5 then { s.puts f [(.EVT_LOG_STATUS_WRITE, 0), (.EVT_LOG_STATUS_PHASE, 1)] with logSeq := SMap.set s.logSeq f 0 0 } else s

/-- A partition's creation finishes (R316). -/
def State.createEnd (s : State) (c : Cmd) (p : Nat) (w : List Word) : State :=
  let vf := s.partVf p
  let map := [BitVec.ofNat 64 (s.get .PART_STATUS_DIE_MASK p + placed vf 16)] ++ w.take 32
  let s := s.setPart p { Part.fresh with map := Tri.of map, fwVersion := s.get .PART_FW_CURRENT 0 }
  let s := if vf = 0 then s else (s.puts vf [(.HST_FUNC_CTL_BOUND, 1), (.HST_FUNC_CTL_PARTITION, p)]).openVfLog vf w
  let s := (setBits 128 (blockPeat w)).foldl (fun s d => s.setPeatOwner d p) s
  let s := (setBits 32 (s.get .PART_DMA_MASK p)).foldl (fun s e => s.put .DMA_CH_CTL_PARTITION e p) s
  let s := resources.zipIdx.foldl (fun s e =>
    let (cf, gf, i) := regFields e.1.1 p
    (s.put cf i (bitsOf (blockReg w e.2) 31 16)).put gf i (bitsOf (blockReg w e.2) 15 0)) s
  let s := ((s.refillRegs p).resetPartCores p).put .PART_STATUS_STATE p 2
  ((s.fwSlots.refreshTransits (s.partDies p)).jobEvent p 5 stOk).endCmd c stOk s.gust 0 0

/-- PART_CREATE_DONE. -/
def partCreateDone (p : Nat) (s : State) : State :=
  if s.get .PART_STATUS_STATE p ≠ 1 then s
  else match s.cmds.find? fun c => (match c.kind with | .partCreate n _ => n == p | _ => false) with
    | some c => (match c.kind with | .partCreate _ w => s.createEnd c p w | _ => s)
    | none => s

/-- PART_CREATE_DONE. -/
def execPartCreateDone (p : Fin 12) (s : State) : Host.Outcome State Fault Refusal := .next (s.whenClocked (partCreateDone p.val))

/-! ### PART_RESET (R317) -/

/-- Whether a reset of a partition ends a command (R297, R338): its own commands, fences on its slices, and migrations of its sites not yet switched. -/
def State.resetEnds (s : State) (p : Nat) (c : Cmd) : Bool :=
  match c.kind with
  | .partReset _ | .partDestroy _ | .partCreate _ _ => false
  | .windowRead _ _ _ | .windowWrite _ _ _ => false
  | .memFence ops => c.q.part.val == p || ops.any fun o => s.dieOwner (dieOf o.1) == some p
  | .migrateSite _ loc _ _ switched => switched == 0 && s.dieOwner (bitsOf loc 3 0) == some p
  | _ => c.q.part.val == p

/-- Migrations under way, as PART_REPAIR.MIGRATING counts them (R339). -/
def State.countMigrating (s : State) : State :=
  s.put .PART_REPAIR_MIGRATING 0 ((s.cmds.filter fun c => match c.kind with
    | .migrateSite _ _ started _ switched => started && switched == 0
    | .migrateChannel _ _ started _ => started
    | _ => false).length)

/-- Requests of a partition that wait outside its cores dropped (R213); a held remote write ends its descriptor with ST_TARGET_RESETTING. -/
def State.dropWaiting (s : State) (p : Nat) : State :=
  (s.xniHeld.filter fun h => h.part == p).foldl (fun s h => s.writeLost h.pkt.engine.val stTargetResetting)
    { s with atomHeld := s.atomHeld.filter fun e => e.1 != p, xniHeld := s.xniHeld.filter fun h => h.part != p }

/-- The reset of a partition begins (steps 1 and 2 of R317). -/
def State.beginReset (s : State) (p : Nat) : State :=
  let s := s.modPart p fun x => { x with prior := s.get .PART_STATUS_STATE p, fwVersion := s.get .PART_FW_CURRENT 0 }
  let s := s.undoGust p
  let s := if (s.part p).running then (s.stopRunning p).jobEvent p 2 stOk else s
  let s := s.modPart p fun x => { x with priorJob := s.get .GST_PART_STATE_STATE p }
  let s := (s.dropWaiting p).endCmds (s.resetEnds p) stTargetResetting
  let s := (s.partEngines p).foldl (fun s e => s.dmaCut e stTargetResetting) s.countMigrating
  (s.puts p [(.PART_STATUS_STATE, 3), (.GST_PART_STATE_STATE, 5)]).refreshTransits (s.partDies p)

/-- The lapse of LIC-POD at a partition's reset (R271, R393), as the reset has latched it: all but the four lowest enabled ports go at the next boundary. -/
def State.podLapse (s : State) (p : Nat) : State :=
  if bitOf (s.get .PART_STATUS_LIC p) 1 then s
  else (((List.range 16).filter fun k => s.on .XNI_PORT_CTL_ENABLE k).drop 4).foldl (fun s k => s.putLater .XNI_PORT_CTL_ENABLE k 0) s

/-- The commands that a partition's reset ends: those that asked for it, and migrations whose switch brought it on (R331). -/
def State.endResetCmds (s : State) (p st : Nat) : State :=
  s.cmds.foldl (fun s c => match c.kind with
    | .partReset n => if n = p then s.endCmd c st s.gust 0 0 else s
    | .migrateSite _ loc _ copied switched =>
      if switched ≠ 0 ∧ s.dieOwner (bitsOf loc 3 0) = some p then s.endCmd c st (if st = stOk then switched - 1 else s.gust) (copied.getD 0) 0 else s
    | _ => s) s

/-- Repair-map entries read again at a reset (R317, R326): repaired minorities are rewritten. -/
def State.voteRepair (s : State) : State :=
  let (s, ts) := s.repairMap.zipIdx.foldl (fun acc e =>
    let (v, repaired, t) := e.1.vote
    (acc.1.voteOutcome 15 4 e.2 v.isSome repaired, acc.2 ++ [t])) (s, [])
  { s with repairMap := ts }

/-- Partitions that hold one of the dies, or a share of one of the stacks. -/
def State.holders (s : State) (x : List Nat × List Nat) : List Nat :=
  (List.range 12).filter fun p => s.get .PART_STATUS_STATE p != 0 &&
    (x.1.any (fun d => bitOf (s.get .PART_STATUS_DIE_MASK p) d) ||
      (List.range 16).any fun k => let w := s.get .PART_MARSH_SHARE (ix2 16 p k); bitOf w 4 && x.2.contains (bitsOf w 3 0))

/-- Partitions that lost entries of the repair map concern (R327): they are lost. -/
def State.loseByRepair (s : State) : State :=
  (List.range 10).foldl (fun s kind =>
    (s.lostEntries kind).foldl (fun s loc => (s.holders (entryDies s kind loc)).foldl (fun s p => s.losePart p stVoteLost) s) s) s

/-- Pool contents of a partition become scratch at its reset (R317): every byte that its pools hold is a free value. -/
def State.scratchPools (s : State) (p : Nat) : State :=
  s.mem.foldl (fun (t : State) e =>
    if 0x50000000000 ≤ e.1 && s.dieOwner (dieOf ((e.1 - 0x50000000000) / 2 ^ 22)) == some p then
      let (w, t) := t.free
      { t with mem := SMap.set t.mem e.1 (w.setWidth 8) 0 }
    else t) s

/-- A partition's reset finishes (steps 3 and 4 of R317). -/
def State.endReset (s : State) (p : Nat) : State :=
  let s := (s.scratchPools p).restoreCarried p
  let x := s.part p
  let s := s.setPart p { Part.fresh with map := x.map, mapLost := x.mapLost, fwVersion := x.fwVersion, commitWord := x.commitWord, rewrites := x.rewrites, snapshot := x.snapshot }
  let s := (s.voteRepair.resetPartCores p).refillRegs p
  let s := { s with stage := (s.partDies p).foldl (fun m d => m.erase d) s.stage }
  let s := ((s.jobEvent p 4 stOk).endResetCmds p stOk).fwSlots.podLapse p
  let s := s.puts p [(.GST_PART_STATE_RERUN, 0), (.GST_PART_STATE_REWINDS_IN_WINDOW, 0), (.PART_STATUS_STATE, 2), (.GST_PART_STATE_STATE, 0)]
  (s.refreshTransits (s.partDies p)).loseByRepair.exitDone

def partReset (q : Req) (s : State) : State :=
  let p := q.part.val
  let s := if s.get .PART_STATUS_STATE p = 3 then s else s.beginReset p
  s.startCmd q 0x31 (.partReset p)

def opPartReset : HostOp := ⟨0x31, .any, []⟩

/-- PART_RESET: it joins a reset in progress. -/
def execPartReset (q : Req) (s : State) : Host.Outcome State Fault Refusal := hostRow opPartReset q [] noCheck (partReset q) s

/-- PART_RESET_DONE (R317). -/
def partResetDone (p : Nat) (s : State) : State := if s.get .PART_STATUS_STATE p = 3 then s.endReset p else s

/-- PART_RESET_DONE. -/
def execPartResetDone (p : Fin 12) (s : State) : Host.Outcome State Fault Refusal := .next (s.whenClocked (partResetDone p.val))

/-- PART_RESET_TIMEOUT (R317, R320): the reset fails and the partition is lost. -/
def partResetTimeout (p : Nat) (s : State) : State :=
  if s.get .PART_STATUS_STATE p ≠ 3 then s
  else (((s.endResetCmds p stTargetResetting).losePart p stTargetResetting).refreshTransits (s.partDies p)).exitDone

/-- PART_RESET_TIMEOUT. -/
def execPartResetTimeout (p : Fin 12) (s : State) : Host.Outcome State Fault Refusal := .next (s.whenClocked (partResetTimeout p.val))

/-! ### PART_DESTROY (R318) -/

/-- The VF of a partition unbound (R276, R297): its rings and its event log are disabled. -/
def State.unbindVf (s : State) (p : Nat) : State :=
  let f := s.partVf p
  if f = 0 then s
  else
    let s := (s.ringsOf f).foldl (fun s r => s.put .HST_RING_CTL_ENABLE r 0) s
    (s.puts f [(.HST_FUNC_CTL_BOUND, 0), (.HST_FUNC_CTL_PARTITION, 0), (.EVT_LOG_CTL_ENABLE, 0), (.HST_WIN_ENABLE, 0)]).put .PART_STATUS_VF p 0

def partDestroy (q : Req) (s : State) : State :=
  let p := q.part.val
  let lost := (s.part p).mapLost
  if s.armed p && !lost then s.done q stBusy
  else
    let s := if s.armed p then (s.undoGust p).disarm p else s.undoGust p
    let s := ((s.put .PART_STATUS_STATE p 4).dropWaiting p).endCmds (s.resetEnds p) stDisabled
    let s := (s.partEngines p).foldl (fun s e => s.dmaCut e stDisabled) s.countMigrating
    let s := (List.range 128).foldl (fun s d => if s.peatOwner d = p then s.setPeatOwner d 15 else s) s
    let s := (s.unbindVf p).refreshTransits (s.partDies p)
    s.startCmd q 0x32 (.partDestroy p)

def opPartDestroy : HostOp := ⟨0x32, .pf, []⟩

/-- PART_DESTROY. -/
def execPartDestroy (q : Req) (s : State) : Host.Outcome State Fault Refusal := hostRow opPartDestroy q [] noCheck (partDestroy q) s

/-- Memories of a partition zeroed: every slice of its dies, its marsh shares, its cache region. -/
def State.zeroPart (s : State) (p : Nat) : State :=
  let s := (s.partAllSites p).foldl (fun s c => s.zeroStore (.fen c) 0 0x48000000) s
  let s := (List.range 16).foldl (fun s k =>
    let w := s.get .PART_MARSH_SHARE (ix2 16 p k)
    if bitOf w 4 then s.zeroStore (.marsh (bitsOf w 3 0)) (bitsOf w 22 16 * 2 ^ 30) (bitsOf w 38 32 * 2 ^ 30) else s) s
  s.zeroStore .cache (s.get .PART_SHC_BASE p) (s.get .PART_SHC_BYTES p)

/-- PART_DESTROY_DONE (R318). -/
def partDestroyDone (p : Nat) (s : State) : State :=
  if s.get .PART_STATUS_STATE p ≠ 4 then s
  else
    let dies := s.partDies p
    let s := ((s.zeroPart p).partAllSites p).foldl State.resetCore (s.zeroPart p)
    let s := (s.partEngines p).foldl (fun s e => (s.puts e [(.DMA_CH_CTL_ENABLE, 0), (.DMA_CH_CTL_PARTITION, 15)])) s
    let s := ((s.jobEvent p 6 stOk).monDestroy p).clearPart p
    let s := s.fwSlots.refreshTransits dies
    (s.cmds.filter fun c => c.kind == .partDestroy p).foldl (fun s c => s.endCmd c stOk s.gust 0 0) s

/-- PART_DESTROY_DONE. -/
def execPartDestroyDone (p : Fin 12) (s : State) : Host.Outcome State Fault Refusal := .next (s.whenClocked (partDestroyDone p.val))

end Sys2Proof.Machine
end

