-- ==== Sys2Proof/Machine/Grains.lean ====
section
/-!
DEFINITION. What happens at the boundary of a grain (R107, R112, R135, R141): its effect, the refresh of its bank (R110 to R112), the requests that waited, the next
grain; the end of an attention operation, whose banks come free. Readings that the model chose are in notes/assumptions/33.md.
-/
namespace Sys2Proof.Machine

/-! ### Refresh of a bank (R110 to R112) -/

/-- FORCE_AT (R110): a grain of 1.6 µs spans one interval of bands 0 and 1, two of band 2. -/
def State.forceAt (s : State) (c : Nat) : Nat :=
  s.inForce .FEN_CTL_POSTPONE_MAX c - (if s.fenBand c = 2 then 2 else 1)

/-- The debt repaid. -/
def State.repay (s : State) (c b : Nat) : State := s.put .FEN_BANK_CTL_DEBT (ix2 128 c b) 0

/-- Whether a range of a store touches a bank. -/
def touchesBank (c b : Nat) (r : Store × Nat × Nat) : Bool :=
  r.1 == .fen c && (chunkOffs r.2.1 (min r.2.2 (128 * 2048))).any fun o => bankOfChunk (o / 2048) == b

/-- Fen ranges that a core's queued work will read or write. -/
def Core.wants (k : Core) (c : Nat) : List (Store × Nat × Nat) :=
  (k.aq.flatMap fun w => let d := PassDesc.of w; d.loadRanges c ++ d.streamRanges c) ++
    (k.vq.filterMap fun w => let i := VecIns.of w; if (i.op = 1 ∨ i.op = 2) ∧ i.space = 0 then some (.fen c, i.operand, i.bytes) else none)

/-- What a command in progress reads or writes of device memory. -/
def CmdKind.range : CmdKind → Option (Nat × Nat)
  | .memRead a n _ done | .memWrite a n _ done => some (a + done, n - done)
  | .windowRead _ a n => some (a, n)
  | .windowWrite _ a bs => some (a, bs.length)
  | _ => none

/-- Whether a queued request keeps a bank from being idle (R110): a reed descriptor's grains, an attention operation's, a pass, a vector instruction, a network request, a
host access. -/
def State.bankWanted (s : State) (c b : Nat) : Bool :=
  let k := s.core c
  (k.rq.any fun o => (ReedDesc.of o.w).held.contains b) || (k.attRun.any fun o => o.banks.contains b) || ((k.wants c).any fun r => touchesBank c b r) ||
    (s.cores.any fun e => e.2.netq.any fun q =>
      let d := NetDesc.ofWords q.2
      match s.netStore d with
      | some st => touchesBank c b (st, d.remote, d.bytes)
      | none => false) ||
    (s.cmds.any fun q => match q.kind.range with
      | some (a, n) => (match s.devRange a n with | some (st, off) => touchesBank c b (st, off, n) | none => false)
      | none => false)

/-- A bank's refresh as its debt stands (R110): none while a grain holds it or in self-refresh; forced from FORCE_AT on; below it only where the bank is idle. -/
def State.refreshBank (s : State) (c b : Nat) (busy : Bool) : State :=
  let debt := s.get .FEN_BANK_CTL_DEBT (ix2 128 c b)
  if debt = 0 ∨ s.on .FEN_BANK_CTL_GRAIN (ix2 128 c b) then s
  else if s.forceAt c ≤ debt ∨ !(busy || s.bankWanted c b) then s.repay c b else s

/-- Banks with a debt: site and bank. -/
def State.owing (s : State) : List (Nat × Nat) :=
  (s.flds.filter fun e => keyField e.1 == Fld.FEN_BANK_CTL_DEBT.id && e.2 != 0).map fun e => (keyCopy e.1 / 128, keyCopy e.1 % 128)

/-- Banks of a slice that a hotter band's FORCE_AT now forces (R110). -/
def State.forceSlice (s : State) (c : Nat) : State := (s.owing.filter fun e => e.1 == c).foldl (fun s e => s.refreshBank c e.2 true) s

/-- Banks that have fallen idle refresh. -/
def State.refreshIdle (s : State) : State := s.owing.foldl (fun s e => s.refreshBank e.1 e.2 false) s

/-- REFRESH_INTERVAL_DUE (R110): the debt rises, and the bank refreshes unless that is postponed. `busy` says that other requests keep it from being idle. None counts in
self-refresh (R113). -/
def refreshDue (c b : Nat) (busy : Bool) (s : State) : State :=
  if SMap.get s.selfRefresh c false then s
  else
    let i := ix2 128 c b
    let s := s.bump .FEN_BANK_CTL_DEBT i 1
    (s.raise .FEN_REFRESH_STATUS_MAX_DEBT c (s.get .FEN_BANK_CTL_DEBT i)).refreshBank c b busy

/-- REFRESH_INTERVAL_DUE. -/
def execRefreshIntervalDue (c : Site) (b : Fin 128) (busy : Bool) (s : State) : Host.Outcome State Fault Refusal :=
  .next (s.whenClocked (refreshDue (siteNo c) b.val busy))

/-! ### Requests that waited (R107) -/

/-- A core's plan demand tried again: loads and a pass, the vector unit, the walker, attention operations that are due. -/
def State.planRetry (s : State) (c : Nat) : State := (((s.arrRetry c).vecPass 17 c).kvPass 18 c).attRetry c

/-- Everything that may wait for a bank, a token or a row tried again, in the order of R107: plan demand, network requests, background traffic; then the banks that have
fallen idle refresh. -/
def State.retryAll (s : State) : State :=
  let s := (s.cores.map Prod.fst).foldl State.planRetry s
  s.settle.xniRetry.dmaRetry.memPass.peatPass.startPass.forkPass.refreshIdle

/-! ### GRAIN_BOUNDARY (R135) -/

/-- Progress of one bank of a descriptor: its new position, or nothing left there. -/
def Core.reedMove (k : Core) (num b : Nat) (pos : Option Nat) : Core :=
  { k with rq := k.rq.map fun o => if o.num = num then { o with left := o.left.filterMap fun e => if e.1 = b then pos.map fun p => (b, p) else some e } else o }

/-- At the boundary: forced refresh, in the lull every debt (R111), then the requests that waited. -/
def State.servBank (s : State) (c : Nat) (banks : List Nat) : State :=
  (banks.foldl (fun s b => if s.inLull then s.repay c b else s.refreshBank c b true) s).retryAll

/-- The boundary of a reed descriptor's grain on a bank: its effect, the bank's refresh, the requests that waited, and then the next grain of the chain. -/
def State.reedBoundary (s : State) (c b : Nat) (o : ReedOp) : State :=
  let d := ReedDesc.of o.w
  let pos := ((o.left.find? fun e => e.1 == b).map (·.2)).getD 0
  let k := s.core c
  let (r, s) := let s := s.atUnit c 2 (o.w.drop 6); if d.op = 1 then s.matvecGrain c b d pos else s.rowGrain c b d pos
  let s := (s.backAt c k).bump .REED_STATS_GRAINS c 1
  let (next, s) := match r with
    | .failed row => (none, s.reedFault c b d 1 row)
    | .done p => (if p < d.length && !o.stop then some p else none, s)
  let s := (s.modCore c fun k => k.reedMove o.num b next).setGrain c b d 0
  let s := s.servBank c (if d.op = 5 then [b, d.dst] else [b])
  let s := if next.isSome && !s.inLull then s.setGrain c b d 1 else s
  let overs := (s.core c).rq.any fun x => x.num == o.num && x.left.isEmpty
  let s := if overs then (s.reedEnd c o.num).refreshIdle else s
  s.reedPass 17 c

/-- The boundary of an attention grain on a bank (R131): the requests that waited are served, and the operation goes on while it runs. -/
def State.attBoundary (s : State) (c b : Nat) : State :=
  let s := (s.put .FEN_BANK_CTL_GRAIN (ix2 128 c b) 0).servBank c [b]
  if !s.inLull && (s.core c).attRun.any (fun o => o.banks.contains b) then s.put .FEN_BANK_CTL_GRAIN (ix2 128 c b) 1 else s.reedPass 17 c

/-- GRAIN_BOUNDARY on a bank that a grain holds. -/
def grainBoundary (c b : Nat) (s : State) : State :=
  if !s.on .FEN_BANK_CTL_GRAIN (ix2 128 c b) then s
  else match (s.core c).rq.find? fun o => o.started && o.left.any fun e => e.1 == b with
    | some o => s.reedBoundary c b o
    | none => s.attBoundary c b

/-- GRAIN_BOUNDARY. -/
def execGrainBoundary (c : Site) (b : Fin 128) (s : State) : Host.Outcome State Fault Refusal := .next (s.whenClocked (grainBoundary (siteNo c) b.val))

/-! ### ATTENTION_OP_COMPLETE (R154) -/

/-- The `k`-th running operation finishes. -/
def attComplete (c k : Nat) (met : AttEnd) (s : State) : State :=
  match (s.core c).attRun[k]? with
  | none => s
  | some o => (s.attFinish c o met).retryAll

/-- ATTENTION_OP_COMPLETE. -/
def execAttentionOpComplete (c : Site) (op : Fin 4 × AttEnd) (s : State) : Host.Outcome State Fault Refusal :=
  .next (s.whenClocked (attComplete (siteNo c) op.1.val op.2))

end Sys2Proof.Machine
end

