-- ==== Sys2Proof/Machine/Refresh.lean ====
section
/-!
DEFINITION. Refresh of the marsh (R201) and self-refresh (R113, R198). The refresh of fen banks stands in Machine/Grains.lean.
Readings taken by inference (DEDUCED): notes/assumptions/41.md.
-/
namespace Sys2Proof.Machine

/-- MARSH_REFRESH_DUE (R201): the debt rises. An idle bank refreshes; a busy one postpones until its debt reaches POSTPONE_MAX. -/
def marshRefresh (m ch b : Nat) (busy : Bool) (s : State) : State :=
  if SMap.get s.selfRefresh (816 + m) false then s
  else
    let k := marshBank m ch b
    let debt := SMap.get s.marshDebt k 0 + 1
    let s := s.raise .MRS_STATUS_MAX_DEBT m (min 15 debt)
    let debt := if busy ∧ debt < s.inForce .MRS_CTL_POSTPONE_MAX m then debt else 0
    { s with marshDebt := SMap.set s.marshDebt k debt 0 }

/-- MARSH_REFRESH_DUE. -/
def execMarshRefreshDue (m : Fin 12) (ch : Fin 16) (b : Fin 48) (busy : Bool) (s : State) : Host.Outcome State Fault Refusal :=
  .next (s.whenClocked (marshRefresh m.val ch.val b.val busy))

/-- A slice enters self-refresh, its debts repaid before (R113). -/
def State.fenSelfRefresh (s : State) (c : Nat) : State :=
  let s := (List.range 128).foldl (fun s b => s.repay c b) s
  { s with selfRefresh := SMap.set s.selfRefresh c true false }

/-- A stack enters self-refresh (R113, R201). -/
def State.marshSelfRefresh (s : State) (m : Nat) : State :=
  let s := s.repayMarsh m
  { s with selfRefresh := SMap.set s.selfRefresh (816 + m) true false }

/-- Whether a unit's clock runs, so that it leaves self-refresh: a slice with its die's core domain (R113, R369), a stack with its port ACTIVE (R198);
neither in Sleep (R366). -/
def State.unitClocked (s : State) (u : MemUnit) : Bool :=
  decide (s.get .PWR_STATE_STATE 0 < 2) &&
    (match u with
     | .fen c => !bitOf (s.get .PWR_STATE_CORES_OFF 0) c.die.val
     | .marsh m => (s.link (24 + m.val)).port == 6)

/-- SELF_REFRESH_EXIT (R113): every debt starts at 0. -/
def selfRefreshExit (u : MemUnit) (s : State) : State :=
  if !s.unitClocked u then s
  else match u with
    | .fen c =>
      let s := (List.range 128).foldl (fun s b => s.repay (siteNo c) b) s
      { s with selfRefresh := SMap.set s.selfRefresh (siteNo c) false false }
    | .marsh m =>
      let s := s.repayMarsh m.val
      { s with selfRefresh := SMap.set s.selfRefresh (816 + m.val) false false }

/-- SELF_REFRESH_EXIT. -/
def execSelfRefreshExit (u : MemUnit) (s : State) : Host.Outcome State Fault Refusal := .next (s.whenClocked (selfRefreshExit u))

end Sys2Proof.Machine
end

