-- ==== Sys2Proof/Machine/Repair.lean ====
section
/-!
DEFINITION. Repair in service (R328 to R331, R55, R104, R118, R119, R203, R245, R258): the repair map, retirement, spares and their migrations.
Readings taken by inference (DEDUCED): notes/assumptions/42.md.
-/
namespace Sys2Proof.Machine

/-! ### The repair map (R328) -/

/-- An entry's word 0: kind, origin, gust. -/
def entryWord (kind origin gust : Nat) : Word := BitVec.ofNat 64 (kind + placed origin 4 + placed (gust % 2 ^ 48) 16)

/-- The map changed: its version rises, the change is not saved yet, and a class 10 record says so (R323). -/
def State.addRepair (s : State) (kind origin gust : Nat) (loc : Word) (p : Nat) : State :=
  let v := (s.repairVer + 1) % 2 ^ 32
  let s := { s with repairMap := s.repairMap ++ [Tri.of [entryWord kind origin gust, loc]], repairVer := v }
  (s.puts 0 [(.PART_REPAIR_VERSION, v % 65536), (.PART_REPAIR_SAVED, 0)]).event ⟨5, 10, 0, 10, p, stOk, kind, loc.toNat⟩

/-- Entries of a kind whose location has certain low bits. -/
def State.entriesAt (s : State) (kind bits low : Nat) : Nat :=
  (s.repairMap.filter fun t => match t.shown with
    | some w => fieldOf (wordAt w 0) 3 0 == kind && (wordAt w 1).toNat % 2 ^ bits == low
    | none => false).length

/-- REPAIR_MAP_SAVE (R328): the map as it stands goes to the configuration flash. -/
def repairSave (s : State) : State :=
  { s.put .PART_REPAIR_SAVED 0 1 with flashMap := s.repairMap.filterMap Tri.shown, flashVer := s.repairVer }

/-- REPAIR_MAP_SAVE. -/
def execRepairMapSave (s : State) : Host.Outcome State Fault Refusal := .next (s.whenClocked repairSave)

/-- REPAIR_MAP_READ (R328): every entry is read by vote, and a lost one fails the command (R319, R327). -/
def repairRead (q : Req) (host n : Nat) (s : State) : State :=
  if s.untrained then s.done q stTargetResetting else
  let s := s.voteRepair
  let es := s.repairMap.map fun t => t.vote.1
  if es.any Option.isNone then (s.done q stVoteLost).loseByRepair
  else
    let header := wordsToBytes [BitVec.ofNat 64 (s.repairVer + placed es.length 32), BitVec.ofNat 64 (s.get .PART_REPAIR_SAVED 0), 0, 0]
    let need := 32 + 16 * es.length
    let fits := if n < 32 then 0 else if need ≤ n then need else 32 + (n - 32) / 16 * 16
    let bytes := (header ++ es.flatMap fun e => wordsToBytes (e.getD [])).take fits
    if !s.hostUp then s.done q stUncorrectable
    else
      let s := s.hostStore host bytes
      if need ≤ n then s.done q stOk need s.repairVer else s.done q stBadPacket need s.repairVer

def opRepairMapRead : HostOp := ⟨0x2B, .pfModule, [word64, bitsMask 31 0]⟩

/-- REPAIR_MAP_READ. -/
def execRepairMapRead (q : Req) (p0 p1 : Word) (s : State) : Host.Outcome State Fault Refusal :=
  hostRow opRepairMapRead q [p0, p1] noCheck (repairRead q p0.toNat p1.toNat) s

/-! ### Retirement (R119, R329) -/

/-- A boundary command begun. -/
def State.queueBoundary (s : State) (q : Req) (op : Nat) (b : BCmd) : State := (s.startCmd q op (.boundary b)).ackEarly q

/-- Chunks retired in the slice or stack that holds a chunk, and the limit of R329. -/
def State.retiredIn (s : State) (st : Store) : Nat × Nat :=
  match st with
  | .fen c => ((s.retired.filter fun k => k < 2 ^ 31 && k / 2 ^ 20 == c).length, 64)
  | .marsh m => ((s.retired.filter fun k => 2 ^ 31 ≤ k && (k - 2 ^ 31) / 2 ^ 26 == m).length, 4096)
  | _ => (0, 0)

/-- The status with which RETIRE_PAGE ends without a change, if it does. -/
def State.retireStatus (s : State) (a : Nat) : Option Nat :=
  match s.devLoc a with
  | some (st, off) =>
    if s.retired.contains (chunkKey st off) then some stOk
    else if (s.retiredIn st).2 ≤ (s.retiredIn st).1 then some stBadPacket else none
  | none => some stBadPacket

def retirePage (q : Req) (p0 p1 : Word) (s : State) : State :=
  match s.retireStatus p0.toNat with
  | some st => s.done q st
  | none => s.queueBoundary q 0x28 (.retirePage p1.toNat p0.toNat)

def opRetirePage : HostOp := ⟨0x28, .pfModule, [addrMask, gustMask]⟩

/-- RETIRE_PAGE (R329). -/
def execRetirePage (q : Req) (p0 p1 : Word) (s : State) : Host.Outcome State Fault Refusal :=
  hostRow opRetirePage q [p0, p1] (fun s =>
    if p0.toNat % 2048 ≠ 0 ∨ s.gustBegun p1.toNat then 5
    else match s.devLoc p0.toNat with
      | some (st, _) => if st.isStack then 0 else 6
      | none => 6) (retirePage q p0 p1) s

/-- RETIRE_PAGE taking effect. -/
def State.retirePageEffect (s : State) (c : Cmd) (a : Nat) : State :=
  match s.retireStatus a, s.devLoc a with
  | none, some (st, off) =>
    let s := { s with retired := chunkKey st off :: s.retired }
    (s.addRepair 8 1 s.gust (BitVec.ofNat 64 a) ((s.ownerOf st off).getD 15)).endCmd c stOk s.gust 0 0
  | some e, _ => s.endCmd c e s.gust 0 0
  | none, none => s.endCmd c stBadPacket s.gust 0 0

/-- Site and bank of a RETIRE_BANK location. -/
def locSite (loc : Nat) : Nat := 68 * bitsOf loc 3 0 + bitsOf loc 10 4
def siteLocOk (loc : Nat) : Bool := bitsOf loc 3 0 < 12 && bitsOf loc 10 4 < 68

def retireBank (q : Req) (p0 p1 : Word) (s : State) : State :=
  if s.on .FEN_BANK_CTL_RETIRED (ix2 128 (locSite p0.toNat) (fieldOf p0 17 11)) then s.done q stOk
  else s.queueBoundary q 0x29 (.retireBank p1.toNat p0.toNat)

def opRetireBank : HostOp := ⟨0x29, .pfModule, [bitsMask 17 0, gustMask]⟩

/-- RETIRE_BANK (R119). -/
def execRetireBank (q : Req) (p0 p1 : Word) (s : State) : Host.Outcome State Fault Refusal :=
  hostRow opRetireBank q [p0, p1] (fun s => if siteLocOk p0.toNat && !s.gustBegun p1.toNat then 0 else 5) (retireBank q p0 p1) s

/-- RETIRE_BANK taking effect. -/
def State.retireBankEffect (s : State) (c : Cmd) (loc : Nat) : State :=
  let i := ix2 128 (locSite loc) (bitsOf loc 17 11)
  if s.on .FEN_BANK_CTL_RETIRED i then s.endCmd c stOk s.gust 0 0
  else
    ((s.put .FEN_BANK_CTL_RETIRED i 1).addRepair 9 1 s.gust (BitVec.ofNat 64 loc) (s.diePart (bitsOf loc 3 0))).endCmd c stOk s.gust 0 0

/-! ### Copies to spares (R118, R203, R331) -/

/-- One transfer as a copy finds it at its physical key: the state with its counters and records, the pattern left on the copied data, and whether it stays
uncorrectable. -/
def State.copyRead (s : State) (st : Store) (off key : Nat) : State × Nat × Bool :=
  let (f, s) := s.met st off key
  if f = MemFault.clean then (s, 0, false)
  else
    let o := f.outcome
    let s := s.countEcc st off o false
    (s.eccEvents (s.eccNotes st off o false), o.left, o.bad)

/-- A transfer whose copy carries pattern `left` on its data, or stays uncorrectable, written at a physical key (in 64-byte units). -/
def State.copyWrite (s : State) (key left : Nat) (bad : Bool) : State :=
  let bytes := (SMap.getList 0 s.mem (64 * key) 64).zipIdx.map fun e => e.1 ^^^ BitVec.ofNat 8 (left / 256 ^ e.2)
  let s := if left = 0 then s else { s with mem := SMap.setList 0 s.mem (64 * key) bytes }
  let old := SMap.get s.faults key MemFault.clean
  let f := if bad then (if old.cells then { old with slicePat := old.slicePat ^^^ uncorrectableMark.slicePat } else uncorrectableMark)
    else if old.cells then old else MemFault.clean
  { s with faults := SMap.set s.faults key f MemFault.clean }

/-- A row copied to a spare row (R118): `src` and `dst` are physical keys of its first byte. The count is of uncorrectable transfers. -/
def State.copyRow (s : State) (site off src dst : Nat) : State × Nat :=
  let start : State := { s.atBanks with mem := SMap.copyRange 0 s.mem src dst 2048 }
  let (t, n) := (List.range 32).foldl (fun acc k =>
    let (s, left, bad) := acc.1.copyRead (.fen site) (off + 64 * k) (src / 64 + k)
    (s.copyWrite (dst / 64 + k) left bad, acc.2 + Bool.bit bad)) (start, 0)
  (t.overBonds s, n)

/-- Logical offset of a physical byte of a slice, relative to the slice: none where no logical row lies there. -/
def State.logicalOff (s : State) (site rel : Nat) : Option Nat :=
  let row := rel / (128 * 2048)
  let slot := rel / 2048 % 128
  let bank := bankOfChunk slot
  let place (r : Nat) : Nat := (128 * r + slot) * 2048 + rel % 2048
  if row < 4608 then (if s.physRow site bank row = row then some (place row) else none)
  else
    let g := (row - 4608) / 2
    ((List.range 64).find? fun j => s.physRow site bank (64 * g + j) == row).map fun j => place (64 * g + j)

/-- The transfers of a slice that a migration reads as uncorrectable: their number, with counters and records (R331, R203). -/
def State.countBad (s : State) (st : Store) (lo hi : Nat) (logical : Nat → Option Nat) : State × Nat :=
  ((s.metKeys lo hi).foldl (fun acc k =>
    match logical (64 * (k - lo)) with
    | some off => let (s, _, bad) := acc.1.copyRead st off k; (s, acc.2 + Bool.bit bad)
    | none => acc) (s, 0))

/-- Keys of a slice's transfers. -/
def sliceKeys (site : Nat) : Nat × Nat := (site * 2 ^ 25, (site + 1) * 2 ^ 25)

/-- A slice's contents moved to another site's slice (R331). -/
def State.moveSlice (s : State) (from_ to_ : Nat) : State :=
  let (lo, hi) := sliceKeys from_
  let faulty := s.faults.range lo hi
  let bytes := s.mem.range (64 * lo) (64 * hi)
  let s := s.zeroStore (.fen to_) 0 0x48000000
  let s := bytes.foldl (fun s e => match s.logicalOff from_ (e.1 - 64 * lo) with
    | some off => { s with mem := SMap.set s.mem (s.physKey (.fen to_) off) e.2 0 }
    | none => s) s
  faulty.foldl (fun s e => match s.logicalOff from_ (64 * (e.1 - lo)) with
    | some off => let o := e.2.outcome; s.copyWrite (s.physKey (.fen to_) off / 64) o.left o.bad
    | none => s) s

/-- Key of the first transfer of a stack, and whether a key is a transfer of its channel (R197: chunk mod 16). -/
def stackKey (m : Nat) : Nat := (0x20000000000 + m * 2 ^ 37) / 64
def inChannel (m ch key : Nat) : Bool := stackKey m ≤ key && key < stackKey m + 2 ^ 31 && (key - stackKey m) * 64 / 2048 % 16 == ch

/-- One transfer read by a channel's migration (R203): what the spare then holds of it, and the count of uncorrectable ones. What has been written since the
migration began lies on the spare already. -/
def State.migrateTransfer (m : Nat) (acc : State × Nat) (key : Nat) : State × Nat :=
  if (SMap.get acc.1.spareCopy key none).isSome then acc
  else
    let old := SMap.get acc.1.faults key MemFault.clean
    let (s, left, bad) := acc.1.copyRead (.marsh m) (64 * (key - stackKey m)) key
    ({ s with spareCopy := SMap.set s.spareCopy key (some (if bad then uncorrectableMark else if left = 0 then MemFault.clean else old)) none }, acc.2 + Bool.bit bad)

/-! ### SPARE_ENABLE (R330) -/

/-- The location of a kind lies within the ranges of R291. -/
def locOk (kind loc : Nat) : Bool :=
  match kind with
  | 1 => siteLocOk loc && bitsOf loc 19 13 ≤ 65
  | 2 => siteLocOk loc && bitsOf loc 30 18 < 4608
  | 3 => siteLocOk loc
  | 4 => siteLocOk loc
  | 5 => bitsOf loc 3 0 < 12
  | 6 => bitsOf loc 4 0 < 24
  | 7 => true
  | _ => false

/-- Bits that R291 assigns to a location. -/
def locMask (kind : Nat) : Nat :=
  match kind with
  | 1 => bitsMask 19 0
  | 2 => bitsMask 30 0
  | 3 => bitsMask 20 0
  | 4 => bitsMask 16 0
  | 5 => bitsMask 7 0
  | 6 => bitsMask 15 0
  | 7 => bitsMask 7 0
  | _ => 0

/-- Spare rows taken in the 64-row group of a location: its entries in the repair map. -/
def State.rowEntries (s : State) (loc : Nat) : Nat :=
  (s.repairMap.filter fun t => match t.shown with
    | some w => let l := (wordAt w 1).toNat
      fieldOf (wordAt w 0) 3 0 == 2 && l % 2 ^ 18 == loc % 2 ^ 18 && bitsOf l 30 18 / 64 == bitsOf loc 30 18 / 64
    | none => false).length

/-- A bond spare free in the channel of a location (R104). -/
def State.freeBond (s : State) (loc : Nat) : Option Nat :=
  (List.range 16).find? fun k => !s.on .FEN_BOND_SPARE_VALID (ix2 64 (locSite loc) (16 * bitsOf loc 12 11 + k))

/-- A site free as a spare (R330): built as one and never bound. -/
def State.spareSiteFree (s : State) (c : Nat) : Bool :=
  s.on .CORE_SITE_SPARE_SITE c && s.get .CORE_SITE_LOGICAL c == 0xFF && s.entriesAt 4 11 (dieOf c + placed (siteIn c) 4) == 0

/-- A wire or lane that training has given a spare already (R330). -/
def State.trained (s : State) (kind loc : Nat) : Bool :=
  if kind = 6 then s.wireCovered (bitsOf loc 4 0) (bitOf loc 5) (bitsOf loc 15 6)
  else if kind = 7 then s.laneCovered (bitsOf loc 3 0) (bitOf loc 7) (bitsOf loc 6 4) else false

/-- The status with which a spare is refused (R330, R123, R331), ST_OK where it may be brought in. -/
def State.spareStatus (s : State) (kind loc : Nat) : Nat :=
  let c := locSite loc
  match kind with
  | 1 => if s.on .ARR_COL_MAP_SPARE_USED (ix2 4 c (bitsOf loc 12 11)) then stBadPacket else stOk
  | 2 =>
    if s.on .FEN_BANK_CTL_RETIRED (ix2 128 c (bitsOf loc 17 11)) then stDisabled
    else if 2 ≤ s.rowEntries loc then stBadPacket else stOk
  | 3 => if (s.freeBond loc).isNone then stBadPacket else stOk
  | 4 =>
    if !s.spareSiteFree c || (s.siteOf (bitsOf loc 3 0) (bitsOf loc 16 11)).isNone then stBadPacket
    else match s.dieOwner (bitsOf loc 3 0) with
      | some p => if s.get .GST_PART_STATE_STATE p = 0 ∨ s.get .GST_PART_STATE_STATE p = 4 then stOk else stBusy
      | none => stOk
  | 5 => if s.get .MRS_SPARE_STATE (bitsOf loc 3 0) ≠ 0 then stBadPacket else stOk
  | 6 => if s.trained 6 loc || (s.freeWireSpare (bitsOf loc 4 0) (bitOf loc 5)).isSome then stOk else stBadPacket
  | _ => if s.trained 7 loc || (s.freeLaneSpare (bitsOf loc 3 0) (bitOf loc 7) (bitsOf loc 6 4)).isSome then stOk else stBadPacket

/-- The far end of a port told of a spare lane (R258): a handshake packet, straight across the port. -/
def State.tellSpare (s : State) (loc gust : Nat) : State :=
  let k := bitsOf loc 3 0
  if s.portUp k then s.xniEmit k (s.get .XNI_PORT_STATUS_PEER_ID k, 1, .spare (Fin.ofNat 8 (bitsOf loc 6 4)) (!bitOf loc 7) gust) else s

/-- The gust that a lane's handshake names: the next where the command names none. -/
def State.laneGust (s : State) (gust : Nat) : Nat := if gust ≤ s.gust then s.gust + 1 else gust

/-- SPARE_ENABLE accepted (R330): a wire starts its background training (R245), a lane its handshake (R258), a site or channel its migration at the boundary. -/
def spareEnable (q : Req) (kind loc gust : Nat) (s : State) : State :=
  let st := s.spareStatus kind loc
  if st ≠ stOk then s.done q st
  else if kind = 4 then (s.startCmd q 0x2A (.migrateSite gust loc false none 0)).ackEarly q
  else if kind = 5 then (s.startCmd q 0x2A (.migrateChannel gust loc false none)).ackEarly q
  else
    let named := if kind = 7 then s.laneGust gust else gust
    let s := if kind = 6 ∧ !s.trained 6 loc then s.startGroups (bitsOf loc 4 0) [32, bitsOf loc 15 6 / 32] else if kind = 7 then s.tellSpare loc named else s
    s.queueBoundary q 0x2A (.spare named kind loc none)

def opSpareEnable (kind : Nat) : HostOp := ⟨0x2A, .pfModule, [bitsMask 3 0, locMask kind, gustMask]⟩

/-- The far end's confirmation of a lane spare, as it comes with the command (R258): the other half of the lane, for the same gust. -/
def State.farSpare (s : State) (loc gust : Nat) : State :=
  let k := bitsOf loc 3 0
  if s.portUp k then s.confirmSpare k (Fin.ofNat 8 (bitsOf loc 6 4)) (bitOf loc 7) gust else s

/-- A row of SPARE_ENABLE: the packet's P0 names the kind. `far`: the far end of a lane confirms at once. -/
def spareRow (kind : Nat) (q : Req) (p1 p2 : Word) (s : State) (far : Bool := false) : Host.Outcome State Fault Refusal :=
  hostRow (opSpareEnable kind) q [BitVec.ofNat 64 kind, p1, p2]
    (fun s => if locOk kind p1.toNat && !s.gustBegun p2.toNat then 0 else 5)
    (fun s => spareEnable q kind p1.toNat p2.toNat (if far then s.farSpare p1.toNat (s.laneGust p2.toNat) else s)) s

/-- SPARE_ENABLE_COLUMN (R55). -/
def execSpareEnableColumn (q : Req) (p1 p2 : Word) (s : State) : Host.Outcome State Fault Refusal := spareRow 1 q p1 p2 s

/-- SPARE_ENABLE_ROW (R118). -/
def execSpareEnableRow (q : Req) (p1 p2 : Word) (s : State) : Host.Outcome State Fault Refusal := spareRow 2 q p1 p2 s

/-- SPARE_ENABLE_BOND (R104). -/
def execSpareEnableBond (q : Req) (p1 p2 : Word) (s : State) : Host.Outcome State Fault Refusal := spareRow 3 q p1 p2 s

/-- SPARE_ENABLE_SITE (R331). -/
def execSpareEnableSite (q : Req) (p1 p2 : Word) (s : State) : Host.Outcome State Fault Refusal := spareRow 4 q p1 p2 s

/-- SPARE_ENABLE_CHANNEL (R203). -/
def execSpareEnableChannel (q : Req) (p1 p2 : Word) (s : State) : Host.Outcome State Fault Refusal := spareRow 5 q p1 p2 s

/-- SPARE_ENABLE_WIRE (R245). -/
def execSpareEnableWire (q : Req) (p1 p2 : Word) (s : State) : Host.Outcome State Fault Refusal := spareRow 6 q p1 p2 s

/-- SPARE_ENABLE_LANE (R258). -/
def execSpareEnableLane (q : Req) (p1 p2 : Word) (far : Bool) (s : State) : Host.Outcome State Fault Refusal := spareRow 7 q p1 p2 s far

/-! ### Spares taking effect -/

/-- Partition that a spare concerns: the holder of its die, 15 for a stack, a link or a port. -/
def State.sparePart (s : State) (kind loc : Nat) : Nat := if kind ≤ 4 then s.diePart (bitsOf loc 3 0) else 15

/-- The copy of a row in the lull before the boundary (R118), at most 16 per slice. -/
def State.rowCopies (s : State) : State :=
  let due := s.cmds.filter fun c => match c.kind with
    | .boundary (.spare g 2 _ none) => s.boundaryDue (if g ≤ s.gust + 1 then 0 else g)
    | _ => false
  (due.foldl (fun acc c => match c.kind with
    | .boundary (.spare g k loc _) =>
      let site := locSite loc
      let done := (acc.2.filter (· == site)).length
      let key := 816 + loc % 2 ^ 18 * 128 + bitsOf loc 30 18 / 64
      let n := acc.1.rowEntries loc + (acc.2.filter (· == key)).length + 1
      if 16 ≤ done ∨ acc.1.spareStatus 2 loc ≠ stOk ∨ 2 < n then acc
      else
        let bank := bitsOf loc 17 11
        let row := bitsOf loc 30 18
        let off := rowOffset bank row
        let dst := site * 2 ^ 31 + ((4608 + 2 * (row / 64) + (n - 1)) * 128 + off / 2048 % 128) * 2048
        let (s, bad) := acc.1.copyRow site off (acc.1.physKey (.fen site) off) dst
        (s.replaceCmd c { c with kind := .boundary (.spare g k loc (some bad)) }, site :: key :: acc.2)
    | _ => acc) (s, ([] : List Nat))).1

/-- Whether the far end has confirmed the other half of a spare lane for a gust (R258). -/
def State.farConfirms (s : State) (gust loc : Nat) : Bool := (s.xport (bitsOf loc 3 0)).confirmed.contains (Fin.ofNat 8 (bitsOf loc 6 4), bitOf loc 7, gust)

/-- A spare of kind 1, 2, 3, 6 or 7 at its boundary, of the gust named. None where it must wait for the next one: a row not copied yet, a wire still in training.
A spare that training had given its wire or lane is recorded; its NEW stays set until the next cold power-on (notes/assumptions/56.md). -/
def State.spareEffect (s : State) (c : Cmd) (gust kind loc : Nat) (copied : Option Nat) : Option State :=
  let site := locSite loc
  let record (s : State) (origin : Nat) : State := s.addRepair kind origin s.gust (BitVec.ofNat 64 loc) (s.sparePart kind loc)
  let refuse : State := s.endCmd c stBadPacket s.gust 0 0
  if s.trained kind loc then some ((record s 2).endCmd c stOk s.gust 0 0)
  else if s.spareStatus kind loc ≠ stOk then some (s.endCmd c (s.spareStatus kind loc) s.gust 0 0)
  else match kind with
    | 1 =>
      let i := ix2 4 site (bitsOf loc 12 11)
      some ((record (s.puts i [(.ARR_COL_MAP_SPARE_USED, 1), (.ARR_COL_MAP_SPARE_FOR, bitsOf loc 19 13)]) 1).endCmd c stOk s.gust 0 0)
    | 2 =>
      copied.map fun n =>
        let k := s.rowEntries loc + 1
        let s := { s with rowSpares := SMap.set s.rowSpares (rowKey site (bitsOf loc 17 11) (bitsOf loc 30 18)) k 0 }
        (record s 1).endCmd c stOk s.gust n 0
    | 3 =>
      some (match s.freeBond loc with
        | some k =>
          let i := ix2 64 site (16 * bitsOf loc 12 11 + k)
          (record (s.puts i [(.FEN_BOND_SPARE_VALID, 1), (.FEN_BOND_SPARE_TARGET, bitsOf loc 20 13)]) 1).endCmd c stOk s.gust 0 0
        | none => refuse)
    | 6 =>
      if !(s.link (bitsOf loc 4 0)).groups.isEmpty then none
      else some (match s.assignWire (bitsOf loc 4 0) (bitOf loc 5) (bitsOf loc 15 6) false with
        | some s => (record s 1).endCmd c stOk s.gust 0 0
        | none => refuse)
    | _ =>
      some (if !s.farConfirms gust loc then refuse
        else match s.assignLane (bitsOf loc 3 0) (bitOf loc 7) (bitsOf loc 6 4) false with
          | some s => (record s 1).endCmd c stOk s.gust 0 0
          | none => refuse)

/-! ### Migrations (R203, R331) -/

/-- A migration whose boundary has come begins; one whose spare has gone meanwhile ends (R338). -/
def State.migrationStart (s : State) (c : Cmd) : State :=
  match c.kind with
  | .migrateSite g loc false n w =>
    if !s.boundaryDue g then s
    else if s.spareStatus 4 loc ≠ stOk ∨ (s.cmds.any fun x => match x.kind with
        | .migrateSite _ l true _ _ => l % 2 ^ 11 == loc % 2 ^ 11 || (bitsOf l 3 0 == bitsOf loc 3 0 && bitsOf l 16 11 == bitsOf loc 16 11)
        | _ => false) then
      s.endCmd c (if s.spareStatus 4 loc = stBusy then stBusy else stBadPacket) s.gust 0 0
    else (s.replaceCmd c { c with kind := .migrateSite g loc true n w }).countMigrating
  | .migrateChannel g loc false n =>
    let m := bitsOf loc 3 0
    if !s.boundaryDue g then s
    else if s.spareStatus 5 loc ≠ stOk then s.endCmd c stBadPacket s.gust 0 0
    else
      let s := { s with spareCopy := s.spareCopy.filter fun e => !inChannel m (bitsOf loc 7 4) e.1 }.puts m
        [(.MRS_SPARE_STATE, 1), (.MRS_SPARE_TARGET, bitsOf loc 7 4), (.MRS_SPARE_PROGRESS, 0)]
      (s.replaceCmd c { c with kind := .migrateChannel g loc true n }).countMigrating
  | _ => s

/-- SITE_MIGRATION_DONE (R331): the copy of site `c` has met every transfer; what cannot be corrected is counted and stays uncorrectable. -/
def siteMigrationDone (c : Nat) (s : State) : State :=
  match s.cmds.find? fun x => (match x.kind with
    | .migrateSite _ loc true none _ => s.siteOf (bitsOf loc 3 0) (bitsOf loc 16 11) == some c
    | _ => false) with
  | some x =>
    match x.kind with
    | .migrateSite g loc st _ w =>
      let (lo, hi) := sliceKeys c
      let (s, n) := s.countBad (.fen c) lo hi fun rel => s.logicalOff c rel
      s.replaceCmd x { x with kind := .migrateSite g loc st (some n) w }
    | _ => s
  | none => s

/-- SITE_MIGRATION_DONE. -/
def execSiteMigrationDone (c : Site) (s : State) : Host.Outcome State Fault Refusal := .next (s.whenClocked (siteMigrationDone (siteNo c)))

/-- MARSH_MIGRATION_DONE (R203). -/
def marshMigrationDone (m : Nat) (s : State) : State :=
  match s.cmds.find? fun x => (match x.kind with | .migrateChannel _ loc true none => bitsOf loc 3 0 == m | _ => false) with
  | some x =>
    match x.kind with
    | .migrateChannel g loc st _ =>
      let (s, n) := ((s.metKeys (stackKey m) (stackKey m + 2 ^ 31)).filter (inChannel m (bitsOf loc 7 4))).foldl (State.migrateTransfer m) (s, 0)
      let s := s.puts m [(.MRS_SPARE_PROGRESS, 255), (.MRS_SPARE_UNCORR_COPIED, saturate 16 n)]
      s.replaceCmd x { x with kind := .migrateChannel g loc st (some n) }
    | _ => s
  | none => s

/-- MARSH_MIGRATION_DONE. -/
def execMarshMigrationDone (m : Fin 12) (s : State) : Host.Outcome State Fault Refusal := .next (s.whenClocked (marshMigrationDone m.val))

/-- The switch at the first boundary after a copy: a channel's data now lie on the spare; a logical index moves to the spare site, and the partition's reset
follows at once. -/
def State.migrationSwitch (s : State) (c : Cmd) : State :=
  match c.kind with
  | .migrateChannel _ loc true (some n) =>
    let m := bitsOf loc 3 0
    let mine := inChannel m (bitsOf loc 7 4)
    let s : State := { s with
      faults := (s.spareCopy.filter fun e => mine e.1).foldl (fun f e => SMap.set f e.1 (e.2.getD MemFault.clean) MemFault.clean) (s.faults.filter fun e => !mine e.1)
      spareCopy := s.spareCopy.filter fun e => !mine e.1 }
    let s := (s.puts m [(.MRS_SPARE_STATE, 2), (.MRS_SPARE_PROGRESS, 0)]).addRepair 5 1 s.gust (BitVec.ofNat 64 loc) 15
    (s.endCmd c stOk s.gust n 0).countMigrating
  | .migrateSite g loc true (some n) 0 =>
    let d := bitsOf loc 3 0
    let l := bitsOf loc 16 11
    let spare := locSite loc
    match s.siteOf d l with
    | none => s.endCmd c stBadPacket s.gust 0 0
    | some old =>
      let s := s.moveSlice old spare
      let s := (s.put .CORE_SITE_LOGICAL old 0xFF).put .CORE_SITE_LOGICAL spare l
      let s := (s.addRepair 4 1 s.gust (BitVec.ofNat 64 loc) (s.diePart d))
      let c' : Cmd := { c with kind := .migrateSite g loc true (some n) (s.gust + 1) }
      let s := (s.replaceCmd c c').countMigrating
      match s.dieOwner d with
      | some p => if s.get .PART_STATUS_STATE p = 3 then s else s.beginReset p
      | none => s.endCmd c' stOk s.gust n 0
  | _ => s

end Sys2Proof.Machine
end

