-- ==== Sys2Proof/Machine/Monitors.lean ====
section
/-!
DEFINITION. Monitors and contract meters (R401 to R408): configuration, windows, read-out, metering at a commit.
Readings taken by inference (DEDUCED): notes/assumptions/52.md.
-/
namespace Sys2Proof.Machine

/-! ### MON_CONFIG (R404) -/

/-- The class of a class monitor. -/
def monClassOf (i : Nat) : Option Nat := if monClass ≤ i ∧ i < monClass + 64 then some (i - monClass) else none

/-- The monitors a VF's partition may configure: slack of its dies, its regulators, its classes. -/
def State.vfMonitor (s : State) (p i : Nat) : Bool :=
  if i < 816 then s.dieOwner (i / 68) == some p
  else if monReg ≤ i ∧ i < monReg + 180 then (i - monReg) / 15 == p
  else match monClassOf i with
    | some c => s.ownsClass p c
    | none => false

/-- The monitors it may read: also every thermal and rail monitor. -/
def State.vfReads (s : State) (p i : Nat) : Bool := s.vfMonitor p i || (monSensor ≤ i && i < monRail + 58)

/-- The refusal of a configuration, as a REASON of R298. -/
def monReason (q : Req) (i : Nat) (w : List Word) (s : State) : Nat :=
  let f := s.get .HST_RING_CTL_OWNER q.ring.val
  let w1 := wordAt w 0
  let w3 := wordAt w 2
  let cls := monClassOf i
  let ownerKept := match cls with
    | some c => fieldOf w3 35 32 == s.get .MON_CLASS_OWNER c && fieldOf w3 36 36 == s.get .MON_CLASS_OWNER_VALID c
    | none => true
  if cls.isNone && w3 ≠ 0 then 2
  else if flagOf w3 36 && 12 ≤ fieldOf w3 35 32 then 5
  else if !monAssigned i then 5
  else if flagOf w1 1 && fieldOf w1 63 32 ≠ 0 then 5
  else if !flagOf w1 1 && fieldOf w1 63 32 = 0 then 5
  else if flagOf w1 1 && signedOf 64 (wordAt w 1).toNat < 1 then 5
  else if f ≠ 0 ∧ !s.vfMonitor q.part.val i then 3
  else if f ≠ 0 ∧ !ownerKept then 4
  else 0

def opMonConfig : HostOp := ⟨0x3C, .anyOr15, [0xFFFF, 3 + bitsMask 63 16, word64, bitsMask 36 0]⟩

/-- MON_CONFIG: accepted now, in force from the next boundary. -/
def execMonConfig (q : Req) (p0 p1 p2 p3 : Word) (s : State) : Host.Outcome State Fault Refusal :=
  hostRow opMonConfig q [p0, p1, p2, p3] (monReason q p0.toNat [p1, p2, p3]) (fun s => s.queueBoundary q 0x3C (.monConfig p0.toNat [p1, p2, p3])) s

/-- The parameters of a monitor from words P1 to P3. -/
def Mon.configured (m : Mon) (w : List Word) : Mon :=
  { m with
    enable := flagOf (wordAt w 0) 0
    log := flagOf (wordAt w 0) 1
    window := fieldOf (wordAt w 0) 31 16
    width := fieldOf (wordAt w 0) 63 32
    lowest := signedOf 64 (wordAt w 1).toNat }

/-- A MON_CONFIG takes effect (R404, R414): the window starts again; new parameters clear the latched record and a class's counts. -/
def State.monEffect (s : State) (c : Cmd) (i : Nat) (w : List Word) : State :=
  let old := s.mon i
  let new := old.configured w
  let w3 := wordAt w 2
  let (s, changed) := match monClassOf i with
    | none => (s, decide (new ≠ old))
    | some k =>
      let ch := new ≠ old ∨ s.get .MON_CLASS_BOUND k ≠ fieldOf w3 31 0 ∨ s.get .MON_CLASS_OWNER k ≠ fieldOf w3 35 32 ∨ s.get .MON_CLASS_OWNER_VALID k ≠ fieldOf w3 36 36
      let s := s.puts k [(.MON_CLASS_BOUND, fieldOf w3 31 0), (.MON_CLASS_OWNER, fieldOf w3 35 32), (.MON_CLASS_OWNER_VALID, fieldOf w3 36 36)]
      (if ch then s.puts k [(.MON_CLASS_COUNT_OVER, 0), (.MON_CLASS_COUNT_TOKENS, 0)] else s, decide ch)
  let s := s.setMon i { new with live := MonRec.start s.gust, left := new.window, latched := if changed then none else old.latched }
  s.endCmd c stOk s.gust 0 0

/-- Windows at a boundary that starts a gust (R402): a window that is over is latched, and the next one starts. -/
def State.monBoundary (s : State) : State :=
  (s.mons.map Prod.fst).foldl (fun s i =>
    let m := s.mon i
    if m.window = 0 ∨ !m.enable then s
    else if m.left ≤ 1 then s.setMon i { m with latched := some { m.live with last := s.gust - 1 }, live := MonRec.start s.gust, left := m.window }
    else s.setMon i { m with left := m.left - 1 }) s

/-! ### MON_READ (R405) -/

def sword (x : Int) : Word := BitVec.ofInt 64 x

/-- The 80 words of a monitor's record. -/
def State.monWords (s : State) (i : Nat) : List Word :=
  let m := s.mon i
  let closed := m.window != 0
  let r := if closed then m.latched.getD (MonRec.start s.gust) else { m.live with last := s.gust }
  let cls := monClassOf i
  let cnt (f : Fld) := match cls with | some c => BitVec.ofNat 64 (s.get f c) | none => 0
  let status := match cls with | some c => s.get .MON_CLASS_STATUS_AT_RISK c + placed (s.get .MON_CLASS_STATUS_WARN_GUSTS c) 16 | none => 0
  [BitVec.ofNat 64 (i + placed (Bool.bit m.log) 16 + placed (Bool.bit (closed && m.latched.isSome)) 17 + placed (Bool.bit m.enable) 18 + placed m.width 32),
   sword m.lowest, BitVec.ofNat 64 (r.first % 2 ^ 48), BitVec.ofNat 64 (r.last % 2 ^ 48), BitVec.ofNat 64 r.count, sword r.low, sword r.high, sword r.sum] ++
  ((List.range 64).map fun k => BitVec.ofNat 64 (SMap.get r.bins k 0)) ++
  (if cls.isSome then [BitVec.ofNat 64 r.tokens, BitVec.ofNat 64 r.overs] else [0, 0]) ++
  [cnt .MON_CLASS_COUNT_TOKENS, cnt .MON_CLASS_COUNT_OVER, BitVec.ofNat 64 status, 0, 0, 0]

/-- Monitors served while no memory has been trained (R381): thermal and power. -/
def monThermal (i : Nat) : Bool := monSensor ≤ i && i < monRail + 58

def monRead (q : Req) (i host n : Nat) (s : State) : State :=
  if s.on .PART_DOLDRUMS_ACTIVE 0 && s.get .PART_DOLDRUMS_CAUSE 0 == 2 && !s.on .HST_CP_STATUS_READY 0 && !monThermal i then s.done q stTargetResetting
  else if n < 640 then s.done q stBadPacket 640
  else if !s.hostUp then s.done q stUncorrectable
  else
    let s := s.hostStore host (wordsToBytes (s.monWords i))
    let m := s.mon i
    let s := if m.window = 0 then s.setMon i { m with live := MonRec.start s.gust } else s
    s.done q stOk 640

def monReadReason (q : Req) (i : Nat) (s : State) : Nat :=
  if !monAssigned i then 5
  else if s.get .HST_RING_CTL_OWNER q.ring.val ≠ 0 ∧ !s.vfReads q.part.val i then 3
  else 0

def opMonRead : HostOp := ⟨0x3D, .anyOr15, [0xFFFF, word64, bitsMask 31 0]⟩

/-- MON_READ. -/
def execMonRead (q : Req) (p0 p1 p2 : Word) (s : State) : Host.Outcome State Fault Refusal :=
  hostRow opMonRead q [p0, p1, p2] (monReadReason q p0.toNat) (monRead q p0.toNat p1.toNat p2.toNat) s

/-! ### Contract meters (R406 to R408) -/

/-- An output-ring entry. -/
structure OutEntry where
  slot : Nat
  cls : Nat
  first : Bool
  meter : Bool
  seq : Nat
  deriving DecidableEq, Repr

def OutEntry.of (b : List Byte) : OutEntry :=
  let w := bytesToWords 2 b
  let a := wordAt w 0
  ⟨fieldOf a 47 32, fieldOf a 53 48, flagOf a 54, flagOf a 55, fieldOf (wordAt w 1) 63 32⟩

/-- A sample of a class whose owner the partition is; else the entry counts as unmetered. -/
def State.classSample (s : State) (p c : Nat) (x : Int) : State :=
  if !s.ownsClass p c then s.bump .MON_OUT_STATUS_UNMETERED p 1
  else
    let i := monClass + c
    let m := s.mon i
    if !m.enable then s
    else
      let overs := Bool.bit (decide ((s.get .MON_CLASS_BOUND c : Int) < x))
      let s := (s.bump .MON_CLASS_COUNT_TOKENS c 1).bump .MON_CLASS_COUNT_OVER c overs
      let s := s.setMon i { m with live := { m.live with tokens := m.live.tokens + 1, overs := m.live.overs + overs } }
      s.monSample i x

/-- The new entries of one slot, metered together. -/
def State.meterSlot (s : State) (p stamp slot : Nat) (es : List OutEntry) : State :=
  let g := es.filter fun e => e.slot == slot
  let off := s.get .MON_SLOT_BASE_BASE p * 2 ^ 20 + 16 * slot
  let r := s.readMem .cache off 16
  let s := r.st.eccEvents r.notes
  let w := bytesToWords 2 r.bytes
  let (old, tag) := (wordAt w 0, wordAt w 1)
  let head := g.headD ⟨slot, 0, false, false, 0⟩
  let valid := flagOf tag 32 && fieldOf tag 31 0 == head.seq
  let s :=
    if r.bad then s.bump .MON_OUT_STATUS_UNMETERED p g.length
    else if head.first then s
    else if !valid then s.bump .MON_OUT_STATUS_UNMETERED p g.length
    else
      let x : Int := (((stamp : Int) - old.toNat).fdiv g.length)
      g.foldl (fun s e => s.classSample p e.cls x) s
  let last := (g.getLastD head).seq
  (s.store .cache off (wordsToBytes [BitVec.ofNat 64 stamp, BitVec.ofNat 64 (last + placed 1 32)])).1

/-- The entries `n` up to `m` of an output ring; an unreadable one is passed over. -/
def State.outEntries (s : State) (p n m : Nat) : List OutEntry × State :=
  let base := s.get .MON_OUT_RING_BASE p * 16
  let size := 2 ^ (s.get .MON_OUT_RING_SIZE p + 8)
  (List.range (m - n)).foldl (fun (acc, s) k =>
    let r := s.readMem .cache (base + 16 * ((n + k) % size)) 16
    let s := r.st.eccEvents r.notes
    (if r.bad then acc else acc ++ [OutEntry.of r.bytes], s)) ([], s)

/-- The producer count of a partition's output ring. -/
def State.outCount (s : State) (p : Nat) : Option Nat × State :=
  let r := s.readMem .cache (s.get .MON_OUT_PROD_OFFSET p * 8) 8
  let s := r.st.eccEvents r.notes
  (if r.bad then none else some (ofBytesLE r.bytes), s)

/-- The meter at a commit completion of a partition (R407). The stamp is MON_TIME, a free value (notes/assumptions/2.md). -/
def State.meter (s : State) (p : Nat) : State :=
  if s.inForce .MON_OUT_RING_ENABLE p = 0 then s
  else
    let (t, s) := s.free
    let s := s.put .MON_OUT_STAMP_STAMP p t.toNat
    let size := 2 ^ (s.get .MON_OUT_RING_SIZE p + 8)
    match s.outCount p with
    | (none, s) => s
    | (some m, s) =>
      match SMap.get s.prodSeen p none with
      | none => { s with prodSeen := SMap.set s.prodSeen p (some m) none }
      | some n =>
        if m < n ∨ n + size < m then s.put .MON_OUT_STATUS_BAD_ADVANCE p 1
        else
          let (es, s) := s.outEntries p n m
          let s := s.regCharge resCache p (16 * (m - n))
          let es := es.filter OutEntry.meter
          let s := (es.map OutEntry.slot).eraseDups.foldl (fun s k => s.meterSlot p t.toNat k es) s
          { s with prodSeen := SMap.set s.prodSeen p (some m) none }

/-- Output rings at a boundary: a ring just put in service is metered from the producer count found there. -/
def State.meterBoundary (s : State) : State :=
  (List.range 12).foldl (fun s p =>
    if s.get .MON_OUT_RING_ENABLE p = 0 then { s with prodSeen := SMap.set s.prodSeen p none none }
    else if (SMap.get s.prodSeen p none).isSome then s
    else
      let (n, s) := s.outCount p
      { s with prodSeen := SMap.set s.prodSeen p n none }) s

end Sys2Proof.Machine
end

