-- ==== Sys2Proof/Machine/Power.lean ====
section
/-!
DEFINITION. Power (R359 to R376): throttle levels in force, the power limiter and clamp, rails, the input, power states, wake. What a restart does stands in
Machine/Boot.lean.
Readings taken by inference (DEDUCED): notes/assumptions/18.md.
-/
namespace Sys2Proof.Machine

/-! ### Levels (R348, R363) -/

/-- Limiter level of a die (R363). -/
def State.limiter (s : State) (d : Nat) : Nat := bitsOf (s.get .PWR_LIMITER_LEVEL 0) (4 * d + 3) (4 * d)

def State.setLimiter (s : State) (d v : Nat) : State :=
  s.put .PWR_LIMITER_LEVEL 0 (s.get .PWR_LIMITER_LEVEL 0 - placed (s.limiter d) (4 * d) + placed v (4 * d))

def State.thermLevel (s : State) (c : Nat) : Nat := SMap.get s.therm.level c 0

/-- The level in force at a site (R348): the largest of the thermal level, the limiter's, and 15 under a coolant stop or a failed pair. -/
def State.levelInForce (s : State) (c : Nat) : Nat :=
  max (max (s.thermLevel c) (s.limiter (dieOf c))) (if s.on .THM_STATUS_STOP 0 || s.pairFailed c then 15 else 0)

/-- THM_SITE.LEVEL of every site as the rules stand. -/
def State.showLevels (s : State) : State := (List.range 816).foldl (fun s c => s.put .THM_SITE_LEVEL c (s.levelInForce c)) s

/-! ### Power records (R362) -/

/-- A class 11 record of a rail: subcode, rail, state or wake source. -/
def State.powerEvent (s : State) (sub rail st : Nat) (code : Nat := stOk) : State :=
  let reading := if rail = 0 then s.get .PWR_RAIL_VOLTAGE 0 / 10 else s.get .PWR_RAIL_POWER rail / 10
  let most := if rail = 0 then s.get .PWR_LIMIT_EFFECTIVE 0 else s.get .PWR_RAIL_ALLOWANCE rail
  s.event ⟨5, 11, placed 1 27 + rail, 11, 15, code, sub + placed st 8 + placed (reading % 65536) 16, most % 65536⟩

/-! ### The limiter and the clamp (R359, R363, R364) -/

/-- The dies' levels raised or lowered by one step at a tick; power in 0.1 W, input in mV. -/
def State.limiterTick (s : State) : State :=
  let p := s.get .PWR_RAIL_POWER 0
  let most := min (s.get .PWR_LIMIT_LIMIT 0 * 1000) (120 * s.get .PWR_RAIL_VOLTAGE 0)
  let s := s.put .PWR_LIMIT_EFFECTIVE 0 (most / 1000)
  let calm (n : Nat) (s : State) : State := { s with therm := { s.therm with calm := n } }
  if s.on .PWR_STATUS_CLAMP 0 then calm 0 s
  else if most < p * 100 then
    let s := calm 0 s
    match (List.range 12).filter fun d => s.limiter d < 15 with
    | [] => s
    | d :: ds =>
      let best := ds.foldl (fun b e => if s.get .PWR_RAIL_POWER (b + 1) < s.get .PWR_RAIL_POWER (e + 1) then e else b) d
      let s := if s.limiter best = 0 then s.powerEvent 66 (best + 1) 0 else s
      s.setLimiter best (s.limiter best + 1)
  else if p * 10000 < most * 98 then
    if s.therm.calm + 1 < 10 then calm (s.therm.calm + 1) s
    else
      let s := calm 0 s
      let best := (List.range 12).foldl (fun b d => if s.limiter b < s.limiter d then d else b) 0
      if s.limiter best = 0 then s
      else
        let s := s.setLimiter best (s.limiter best - 1)
        if s.get .PWR_LIMITER_LEVEL 0 = 0 then s.powerEvent 67 0 0 else s
  else calm 0 s

/-- Whether the rails are on and some unit draws from the input beyond the always-on domain. -/
def State.railsOn (s : State) : Bool := s.always.shut == 0 && s.get .PWR_STATE_STATE 0 < 3

/-- The fast current clamp (R364). -/
def currentClamp (s : State) : State :=
  if !s.railsOn then s
  else ((s.puts 0 [(.PWR_STATUS_CLAMP, 1), (.PWR_LIMITER_LEVEL, 2 ^ 48 - 1)]).powerEvent 68 0 0).showLevels

/-- CURRENT_CLAMP. -/
def execCurrentClamp (s : State) : Host.Outcome State Fault Refusal := .next (currentClamp s)

/-- CLAMP_RELEASE: the levels then fall under R363. -/
def execClampRelease (s : State) : Host.Outcome State Fault Refusal := .next (s.put .PWR_STATUS_CLAMP 0 0)

/-! ### Rails (R361, R362) -/

/-- One rail at a tick: its averages, the ten-tick average against its allowance, its monitor. -/
def State.railTick (s : State) (inp : TickIn) (r : Nat) : State :=
  let th := s.therm
  let s := match inp.rails.find? fun x => x.1.val == r with
    | some x =>
      { s with therm := { th with railFail := th.railFail.filter (· != r) } }.puts r
        [(.PWR_RAIL_VOLTAGE, saturate 16 x.2.1), (.PWR_RAIL_CURRENT, saturate 16 x.2.2.1), (.PWR_RAIL_POWER, saturate 16 x.2.2.2)]
    | none =>
      -- the measurement fails: the averages are free values
      let (v, s) := s.free
      let s := s.puts r [(.PWR_RAIL_VOLTAGE, v.toNat), (.PWR_RAIL_CURRENT, v.toNat / 65536), (.PWR_RAIL_POWER, Config.railEstimate th.forecast r)]
      if th.railFail.contains r then s else { s with therm := { th with railFail := r :: th.railFail } }.powerEvent 74 r 0
  let past := s.get .PWR_RAIL_POWER r :: (SMap.get s.therm.rails r []).take 9
  let overs := decide (11 * s.get .PWR_RAIL_ALLOWANCE r * past.length < past.sum) && past.length == 10
  let was := s.therm.railOver.contains r
  let s := { s with therm := { s.therm with
    rails := SMap.set s.therm.rails r past []
    railOver := if overs then (if was then s.therm.railOver else r :: s.therm.railOver) else s.therm.railOver.filter (· != r) } }
  let s := if overs && !was && r != 0 then s.powerEvent 69 r 0 else s
  s.monSample (monRail + r) (s.get .PWR_RAIL_POWER r)

/-- The rails of a tick, and the input energy. -/
def State.railsTick (s : State) (inp : TickIn) : State :=
  let s := (List.range 58).foldl (fun s r => s.railTick inp r) s
  let e := s.therm.energy + s.get .PWR_RAIL_POWER 0
  { s.bump .PWR_ENERGY_JOULES 0 (e / 10000) with therm := { s.therm with energy := e % 10000 } }

/-! ### The input (R360) -/

/-- INPUT_OUT_OF_RANGE. -/
def execInputOutOfRange (s : State) : Host.Outcome State Fault Refusal :=
  let s := { s.put .PWR_STATUS_OUT_OF_RANGE 0 1 with always := { s.always with inSince := none } }
  .next (if s.railsOn then s.powerEvent 64 0 0 else s)

/-- INPUT_RANGE_TIMEOUT: judged by the management core, so not in Deep or Off (R375). -/
def execInputRangeTimeout (s : State) : Host.Outcome State Fault Refusal :=
  .next (if s.railsOn && s.on .PWR_STATUS_OUT_OF_RANGE 0 then s.enterDoldrums 4 else s)

/-- INPUT_BACK_WITHIN_RANGE: 10 ms after the return. -/
def execInputBackWithinRange (s : State) : Host.Outcome State Fault Refusal :=
  if !s.on .PWR_STATUS_OUT_OF_RANGE 0 then .next s
  else
    let s := { s.put .PWR_STATUS_OUT_OF_RANGE 0 0 with always := { s.always with inSince := some (s.msClock - 10) } }
    .next (if s.railsOn then s.powerEvent 65 0 0 else s)

/-- The rails go off but for the always-on and management rails (R352): clocks, lasers and the host link with them; a freeze ends (R411). -/
def State.cutPower (s : State) (why : Nat) : State :=
  let s := { s with vfEnable := false }.puts 0 [(.HST_LINK_STATUS_UP, 0), (.HST_LINK_STATUS_WIDTH, 0), (.HST_LINK_STATUS_SPEED, 0), (.HST_LINK_STATUS_FLIT, 0), (.HST_LINK_STATUS_L0P, 0),
    (.HST_CP_STATUS_READY, 0), (.FRZ_STATUS_FROZEN, 0), (.FRZ_DUMP_ACTIVE, 0)]
  let s := (List.range 16).foldl (fun s k => s.put .XNI_PORT_STATUS_STATE k 0) s
  { s with always := { s.always with shut := why }, tapState := { s.tapState with extest := false } }

/-- POWER_FAIL: no CLEAR_TRIP is needed for the restart. A trip that already holds stays. -/
def execPowerFail (s : State) : Host.Outcome State Fault Refusal :=
  .next (if s.always.shut = 1 then s else { s.cutPower 2 with always := { (s.cutPower 2).always with failReport := true } })

/-- ALWAYS_ON_BROWNOUT (R372): the flag is kept, the last-wake record and the trips are lost, a cold power-on is due. -/
def execAlwaysOnBrownout (s : State) : Host.Outcome State Fault Refusal :=
  let s := ((s.cutPower 3).resetReg .THM_TRIP 0).puts 0 [(.PWR_WAKE_BROWNOUT, 1), (.PWR_WAKE_SOURCE, 0), (.PWR_WAKE_FROM_STATE, 0), (.THM_STATUS_TRIPS_24H, 0), (.BOOT_PINS_TRIP_DRIVEN, 0)]
  .next { s with always := { AlwaysOn.fresh with shut := 3, brownReport := true, failReport := s.always.failReport, inSince := s.always.inSince } }

/-! ### Power states (R366 to R368) -/

/-- Links that retrain as their temperature has moved 15 °C (R243, R367). -/
def State.retrainMoved (s : State) : State :=
  (List.range 24).foldl (fun s l =>
    if s.get .ZYN_LINK_STATUS_STATE l = 6 ∧ 15 ≤ (s.linkTemp l - signedOf 8 (s.get .ZYN_LINK_STATUS_TRAIN_TEMP l)).natAbs then s.startTraining l else s) s

/-- What entering Sleep does (R366): self-refresh, ports down, fabric lock lost; the gust counter holds. -/
def State.sleepUnits (s : State) : State :=
  let s := (List.range 816).foldl (fun s c => if bitOf (s.get .PWR_STATE_CORES_OFF 0) (dieOf c) then s else s.fenSelfRefresh c) s
  let s := (List.range 12).foldl State.marshSelfRefresh s
  let s := (List.range 16).foldl (fun s k => s.put .XNI_PORT_STATUS_STATE k 0) s
  { s.put .GST_SYNC_STATUS_LOCKED 0 0 with sync := ⟨0, 0, false, 0, none⟩, phase := 0 }

/-- The return to Run from Sleep: ports train, moved links retrain, engines and peat operations go on, a new grid of boundaries starts. -/
def State.wakeUnits (s : State) : State :=
  let s := { s.put .THM_STATUS_SLEEP_HEAT 0 0 with phase := 0 }
  let s := (List.range 16).foldl State.startPort s.retrainMoved
  let s := (List.range 32).foldl State.dmaOrders s
  s.peatPass

/-- A power state entered, with its record; Deep and Off save the counters (R228, R396). -/
def State.enterPower (s : State) (t : Nat) : State :=
  let old := s.get .PWR_STATE_STATE 0
  let s := s.puts 0 [(.PWR_STATE_BUSY, 0), (.PWR_STATE_TARGET, 0)]
  let s := s.powerEvent 70 0 t
  if t = 2 then (s.put .PWR_STATE_STATE 0 2).sleepUnits
  else if t ≥ 3 then
    let s := (if old = 2 then s else s.sleepUnits).savePeat
    { s.put .PWR_STATE_STATE 0 t with flash := { s.flash with hours := s.get .LIC_HOURS_HOURS 0 }, always := { s.always with wakeLow := false } }
  else
    let s := s.put .PWR_STATE_STATE 0 t
    if old = 2 then s.wakeUnits else s

/-- Whether a transition's preconditions have ended (R367), apart from the gust boundary. -/
def State.powerReady (s : State) (t : Nat) : Bool :=
  let still := s.nand.isEmpty && (s.engines.all fun e => e.2.cur.isNone && e.2.flush.isNone)
  if t = 2 then still else if t ≥ 3 then still && s.on .PART_REPAIR_SAVED 0 else true

/-- States a target is accepted from. -/
def powerFrom (t st : Nat) : Bool :=
  if t = 0 then st == 1 || st == 2 else if t = 1 then st == 0 else if t = 2 then st < 2 else if t = 3 then st < 3 else true

def CmdKind.powerTarget : CmdKind → Option Nat
  | .powerState t => some t
  | _ => none

/-- A transition of the module checked in the state it stands in (R367, R371): the status that refuses it, or it begins. More than 16 mA left on the always-on
regulator refuses Off; the load met is a free value. -/
def State.powerTry (s : State) (t : Nat) : Option Nat × State :=
  if !powerFrom t (s.get .PWR_STATE_STATE 0) then (some stBadPacket, s)
  else if t ≠ 0 ∧ s.anyArmed then (some stBusy, s)
  else
    let (load, s) := if t = 4 then s.free else (0, s)
    let s := if t = 4 then s.put .PWR_AO_OFF_LOAD 0 load.toNat else s
    if t = 4 ∧ 160 < s.get .PWR_AO_OFF_LOAD 0 then (some stBadPacket, s.powerEvent 75 0 0)
    else
      let s := s.puts 0 [(.PWR_STATE_BUSY, 1), (.PWR_STATE_TARGET, t)]
      (none, if t ≥ 2 then (List.range 32).foldl State.dmaOrders s else s)

/-- Waiting POWER_STATE commands checked in the state reached (R375): refused, or the transition begins. -/
def State.powerNext : Nat → State → State
  | 0, s => s
  | fuel + 1, s =>
    if s.on .PWR_STATE_BUSY 0 then s
    else match s.cmds.find? fun c => c.kind.powerTarget.isSome with
      | none => s
      | some c =>
        match s.powerTry (c.kind.powerTarget.getD 0) with
        | (some st, s) => (s.endCmd c st s.gust 0 0).powerNext fuel
        | (none, s) => s

/-- The transition in progress begun by the state effecter or not (R368). -/
def State.setEffecter (s : State) (b : Bool) : State := { s with mgmt := { s.mgmt with effecter := b } }

/-- The transition in progress done: its command completes with the state entered, unless a plan has been armed meanwhile. For Deep and Off the completion
comes before the link enters L2. -/
def State.powerDone (s : State) : State :=
  let t := s.get .PWR_STATE_TARGET 0
  let c := if s.mgmt.effecter then none else s.cmds.find? fun c => c.kind.powerTarget.isSome
  let stop := t != 0 && s.anyArmed
  let s := s.setEffecter false
  let s := match c with
    | some c => s.endCmd c (if stop then stBusy else stOk) s.gust 0 0
    | none => s
  (if stop then s.puts 0 [(.PWR_STATE_BUSY, 0), (.PWR_STATE_TARGET, 0)] else s.enterPower t).powerNext 1024

/-- Sleep entered on heat (R355, R368): jobs stop at their last commit, and a transition in progress is checked again in Sleep. -/
def State.heatSleep (s : State) : State :=
  let again := if s.on .PWR_STATE_BUSY 0 && s.mgmt.effecter then some (s.get .PWR_STATE_TARGET 0) else none
  let s := (List.range 12).foldl (fun s p => if (s.part p).running then (s.rewindGust p).stopJob p stSquall stOk else s) s
  let s := (s.enterPower 2).setEffecter false
  let s := match again with
    | some t => (match s.powerTry t with
      | (none, s) => s.setEffecter true
      | (some _, s) => s)
    | none => s
  s.powerNext 1024

def opPowerState : HostOp := ⟨0x38, .pfModule, [bitsMask 2 0 + bitsMask 5 4 + bitsMask 11 8]⟩

/-- A reserved state or scope code, or a die that does not exist. -/
def powerReason (p0 : Word) (_ : State) : Nat :=
  if 4 < fieldOf p0 2 0 ∨ fieldOf p0 5 4 = 3 then 2 else if fieldOf p0 5 4 ≠ 0 ∧ 11 < fieldOf p0 11 8 then 5 else 0

/-- POWER_STATE of the module. -/
def execPowerState (q : Req) (p0 : Word) (s : State) : Host.Outcome State Fault Refusal :=
  if fieldOf p0 5 4 = 1 ∨ fieldOf p0 5 4 = 2 then .fault .illFormed
  else hostRow opPowerState q [p0] (powerReason p0) (fun s => (s.startCmd q 0x38 (.powerState (fieldOf p0 2 0))).powerNext 1024) s

/-! ### A die's domains (R369) -/

/-- Pools lose their contents with their power: free values. -/
def State.losePool (s : State) (c : Nat) : State :=
  let (ws, s) := s.frees 524288
  s.rawWrite (.pool c) 0 (wordsToBytes ws)

/-- A die's cores and slices go off at a boundary. -/
def State.coresOff (s : State) (d : Nat) : State :=
  let s := (List.range 68).foldl (fun s k => ((s.fenSelfRefresh (68 * d + k)).resetCore (68 * d + k)).losePool (68 * d + k)) s
  (s.put .PWR_STATE_CORES_OFF 0 (s.get .PWR_STATE_CORES_OFF 0 ||| 2 ^ d)).refreshTransit d

/-- A die's transit domain goes off: its links are DOWN, its stack refreshes itself. -/
def State.transitOff (s : State) (d : Nat) : State :=
  let s := s.put .PWR_STATE_TRANSIT_OFF 0 (s.get .PWR_STATE_TRANSIT_OFF 0 ||| 2 ^ d)
  let s := [d, westOf d, 12 + d].foldl (fun s l => s.put .ZYN_LINK_STATUS_STATE l 0) s
  let s := (s.marshSelfRefresh d).setLink (24 + d) { s.link (24 + d) with port := 0 }
  (s.refreshTransits (List.range 12)).settle

def clearBit (n b : Nat) : Nat := if bitOf n b then n - 2 ^ b else n

/-- A domain powered, or the transit domain off. -/
def State.diePowered (s : State) (scope d : Nat) (on : Bool) : State :=
  if scope = 1 then (s.put .PWR_STATE_CORES_OFF 0 (clearBit (s.get .PWR_STATE_CORES_OFF 0) d)).refreshTransit d
  else if on then
    let s := s.put .PWR_STATE_TRANSIT_OFF 0 (clearBit (s.get .PWR_STATE_TRANSIT_OFF 0) d)
    ([d, westOf d, 12 + d, 24 + d].foldl State.startTraining s).refreshTransit d
  else s.transitOff d

/-- Whether a die's command waits for a boundary: cores and slices that go off. -/
def CmdKind.dieOff : CmdKind → Option Nat
  | .diePower 1 d false => some d
  | _ => none

/-- Scope-1 power-downs at a boundary. -/
def State.dieBoundary (s : State) : State :=
  s.cmds.foldl (fun s c => match c.kind.dieOff with
    | some d => (s.coresOff d).endCmd c stOk s.gust 0 0
    | none => s) s

/-- Whether anything forbids a die's power-down or power-up. -/
def State.dieRefused (s : State) (scope d : Nat) : Bool :=
  (s.dieOwner d).isSome || (scope == 2 && !bitOf (s.get .PWR_STATE_CORES_OFF 0) d)

def diePower (q : Req) (p0 : Word) (s : State) : State :=
  let (st, scope, d) := (fieldOf p0 2 0, fieldOf p0 5 4, fieldOf p0 11 8)
  if st ≠ 0 ∧ st ≠ 4 then s.done q stBadPacket
  else if s.dieRefused scope d then s.done q stBusy
  else
    let k := CmdKind.diePower scope d (st == 0)
    let s := s.startCmd q 0x38 k
    if k.dieOff.isSome then s.ackEarly q else s

/-- DIE_POWER_STATE. -/
def execDiePowerState (q : Req) (p0 : Word) (s : State) : Host.Outcome State Fault Refusal :=
  if fieldOf p0 5 4 = 0 ∨ fieldOf p0 5 4 = 3 then .fault .illFormed else hostRow opPowerState q [p0] (powerReason p0) (diePower q p0) s

/-- A transition whose preconditions have ended: the module's, else the oldest of a die that does not wait for a boundary. -/
def powerEntered (s : State) : State :=
  let t := s.get .PWR_STATE_TARGET 0
  let st := s.get .PWR_STATE_STATE 0
  if s.on .PWR_STATE_BUSY 0 && (t ≥ 2 || st == 2) then
    if s.powerReady t then s.powerDone else s
  else match s.cmds.find? fun c => match c.kind with | .diePower scope _ on => on || scope == 2 | _ => false with
    | some c =>
      (match c.kind with
       | .diePower scope d on => (s.diePowered scope d on).endCmd c stOk s.gust 0 0
       | _ => s)
    | none => s

/-- A transition between Run and Idle, at a boundary. -/
def State.powerBoundary (s : State) : State :=
  if s.on .PWR_STATE_BUSY 0 && s.get .PWR_STATE_TARGET 0 < 2 then s.powerDone else s

/-! ### Limits and enables -/

/-- The limits of THERM_LIMIT_SET taken (R342, R365): none for a limit raised or out of range. -/
def State.limitsSet (s : State) (p0 : Word) : Option State :=
  let (w, l, m) := (fieldOf p0 15 0, fieldOf p0 23 16, fieldOf p0 31 24)
  if (w ≠ 0 ∧ (w < 1000 ∨ 4800 < w)) ∨ s.get .THM_LIMITS_LOGIC_THROTTLE 0 < l ∨ s.get .THM_LIMITS_MEM_THROTTLE 0 < m then none
  else
    let s := if w = 0 then s else s.put .PWR_LIMIT_LIMIT 0 w
    let s := if l = 0 then s else s.put .THM_LIMITS_LOGIC_THROTTLE 0 l
    some (if m = 0 then s else s.put .THM_LIMITS_MEM_THROTTLE 0 m)

def opThermLimitSet : HostOp := ⟨0x39, .pfModule, [bitsMask 32 0]⟩

def thermLimit (q : Req) (p0 : Word) (s : State) : State :=
  match s.limitsSet p0 with
  | some s => s.done q stOk
  | none => s.done q stBadPacket

/-- THERM_LIMIT_SET without CLEAR_TRIP. -/
def execThermLimitSet (q : Req) (p0 : Word) (s : State) : Host.Outcome State Fault Refusal :=
  if flagOf p0 32 then .fault .illFormed else hostRow opThermLimitSet q [p0] noCheck (thermLimit q p0) s

/-- The hottest reading of the sensors of kinds 0 to 3 not marked failed: all below 70 °C? -/
def State.allCool (s : State) : Bool := (List.range 2488).all fun n => s.sensorFailed n || decide ((s.sens n).t < 560)

/-- Whether a trip is latched and no CLEAR_TRIP has been accepted for it. -/
def State.tripped (s : State) : Bool := s.on .THM_TRIP_VALID 0 && !s.always.cleared

/-- CLEAR_TRIP (R353): a cold power-on is due, with wake source 5. -/
def clearTrip (q : Req) (p0 : Word) (s : State) : State :=
  if s.tripped && !s.allCool then s.done q stBadPacket
  else match s.limitsSet p0 with
    | none => s.done q stBadPacket
    | some s =>
      let s := s.done q stOk
      if s.tripped then
        let s := s.puts 0 [(.BOOT_PINS_TRIP_DRIVEN, 0)]
        { s with always := { s.always with cleared := true, shut := 3, source := 5 } }
      else s

/-- CLEAR_TRIP: the operation of THERM_LIMIT_SET, taken by the management core also while the rails are off. -/
def execClearTrip (q : Req) (p0 : Word) (s : State) : Host.Outcome State Fault Refusal :=
  if !flagOf p0 32 then .fault .illFormed
  else if s.tripped ∧ s.always.shut = 1 then .next (State.hostCmd opThermLimitSet q [p0] noCheck (clearTrip q p0) s)
  else hostRow opThermLimitSet q [p0] noCheck (clearTrip q p0) s

/-- PWR_WAKE_CTL_WRITE (R370): a write that would clear all three enables is ignored. -/
def wakeCtlWrite (v m : Nat) (s : State) : State :=
  let t := s.writeFields .PWR_WAKE_CTL 0 v m
  if t.get .PWR_WAKE_CTL_PERST_EN 0 = 0 ∧ t.get .PWR_WAKE_CTL_SMBUS_EN 0 = 0 ∧ t.get .PWR_WAKE_CTL_WAKEN_EN 0 = 0 then s else t

/-- PWR_WAKE_CTL_WRITE. -/
def execPwrWakeCtlWrite (v : Word) (s : State) : Host.Outcome State Fault Refusal :=
  .next (s.whenClocked (wakeCtlWrite (v.toNat % 2 ^ 32) (2 ^ 32 - 1)))

end Sys2Proof.Machine
end

