-- ==== Sys2Proof/Machine/Heat.lean ====
section
/-!
DEFINITION. Heat, coolant and throttling (R340 to R358, R427): samples and trips, the forecast's rules at each 1 ms tick, coolant responses, re-plan notices.
The forecast itself is free (`Config.forecast`); what the controller does with it is not.
Readings taken by inference (DEDUCED): notes/assumptions/17.md.
-/
namespace Sys2Proof.Machine

/-! ### Records (R357) -/

/-- INDEX of a thermal record. -/
def thermIndex (n : Nat) : Nat :=
  if n < 1632 then placed (n / 2 / 68) 20 + placed (n / 2 % 68) 13 + n % 2
  else if n < 2448 then placed 1 24 + placed ((n - 1632) / 68) 20 + placed ((n - 1632) % 68) 13
  else if n < 2464 then placed 2 24 + (n - 2448)
  else if n < 2488 then placed 3 24 + placed ((n - 2464) / 2) 20 + n % 2
  else if n < 2492 then placed 4 24 + (n - 2488)
  else placed 5 24 + (n - 2492)

/-- The site of a sensor of kinds 0 and 1. -/
def sensorSite (n : Nat) : Option Nat := if n < 1632 then some (n / 2) else if n < 2448 then some (n - 1632) else none

/-- The factory-measured thermal resistances of the dies, the starting coefficients of the forecast model (R13). -/
def State.thermPaths (s : State) : List (Nat × Nat) :=
  (List.range 12).map fun d => (s.get .BOOT_THERM_PATH_PLATE_RTH d, s.get .BOOT_THERM_PATH_STACK_RTH d)

/-- The forecast of a point for a level (R346), in 1/8 °C: that of a number `f`, and the latest. -/
def State.forecastAt (s : State) (f n m : Nat) : Int := Config.forecast s.thermPaths f n m
def State.forecast (s : State) (n m : Nat) : Int := s.forecastAt s.therm.forecast n m

/-- G: the guard band of a die (R347, R355). -/
def State.guardBand (s : State) (d : Nat) : Int :=
  if s.on .THM_CAL_STATUS_GUARD d || s.on .THM_COOLANT_INLET_LOST 0 || s.on .THM_COOLANT_OUTLET_LOST 0 then 40 else 0

/-- A class 11 record of a sensor; `reading` in the record's units. -/
def State.thermEvent (s : State) (sub n reading : Nat) (code : Nat := stOk) : State :=
  let (level, fit, part) := match sensorSite n with
    | some c => (s.get .THM_SITE_LEVEL c, s.get .THM_SITE_FIT c, s.diePart (dieOf c))
    | none => (0, 0, 15)
  s.event ⟨5, 11, thermIndex n, 11, part, code, sub + placed level 8 + placed (reading % 65536) 16, deciC (s.forecast n level) + placed fit 16⟩

/-! ### Failure marks (R344) -/

/-- Band, temperature and failure as the refresh registers show them (R109, R201); a hotter band of a slice may force refreshes at once (R110). -/
def State.showBand (s : State) (n : Nat) : State :=
  if 1632 ≤ n ∧ n < 2448 then
    let c := n - 1632
    let failed := s.sensorFailed n
    let band := if failed then 2 else bandNext (s.get .FEN_REFRESH_STATUS_BAND c) ((s.sens n).t.fdiv 8 + if (s.sens n).t % 8 = 0 then 0 else 1)
    (s.puts c [(.FEN_REFRESH_STATUS_L0_TEMP, degC (s.sens n).t), (.FEN_REFRESH_STATUS_SENSOR_FAILED, Bool.bit failed), (.FEN_REFRESH_STATUS_BAND, band)]).forceSlice c
  else if 2464 ≤ n ∧ n < 2488 then
    let m := (n - 2464) / 2
    let (a, b) := (marshNo m 0, marshNo m 1)
    let hot := s.govMarsh m
    let band := if s.sensorFailed a && s.sensorFailed b then 2 else bandNext (s.get .MRS_STATUS_BAND m) (hot.fdiv 8 + if hot % 8 = 0 then 0 else 1)
    s.puts m [(.MRS_STATUS_TEMP0, degC (s.sens a).t), (.MRS_STATUS_TEMP1, degC (s.sens b).t), (.MRS_STATUS_SENSOR0_FAILED, Bool.bit (s.sensorFailed a)),
      (.MRS_STATUS_SENSOR1_FAILED, Bool.bit (s.sensorFailed b)), (.MRS_STATUS_BAND, band)]
  else s

/-- Channels of a group whose peat sensor has moved 15 °C from their training point train again (R218): `k` is the group. -/
def State.peatTrain (s : State) (k : Nat) : State :=
  let t := (s.sens (peatNo k)).t
  if 120 ≤ (t - SMap.get s.peatTrained k 0).natAbs then { s with peatTrained := SMap.set s.peatTrained k t 0 } else s

/-- The peat's windows from its sensors (R229), with 2 °C of hysteresis: kept limits, inner limits. -/
def windowNext (inside : Bool) (lo hi cold hot : Int) : Bool :=
  if inside then lo ≤ cold && hot ≤ hi else lo + 16 ≤ cold && hot ≤ hi - 16

def State.showPeat (s : State) : State :=
  let live := (List.range 4).filter fun k => !s.sensorFailed (peatNo k)
  let ts := live.map fun k => (s.sens (peatNo k)).t
  let t k := (s.sens (peatNo k)).t
  let shown k := if s.sensorFailed (peatNo k) then 0x80 else degC (t k)
  let hottest := ts.foldl max (ts.headD 0)
  let coldest := ts.foldl min (ts.headD 0)
  let ends k := if s.sensorFailed (peatNo k) then (coldest, hottest) else (t k, t k)
  let write := (List.range 4).foldl (fun n k =>
    let ok := !live.isEmpty && windowNext (bitOf (s.get .PEAT_STATE_WRITE_OK 0) k) 0 560 (ends k).1 (ends k).2
    n + placed (Bool.bit ok) k) 0
  let read := (List.range 4).foldl (fun n k =>
    let ok := live.isEmpty || windowNext (bitOf (s.get .PEAT_STATE_READ_OK 0) k) (-40) 680 (ends k).1 (ends k).2
    n + placed (Bool.bit ok) k) 0
  s.puts 0 [(.PEAT_TEMP_T0, shown 0), (.PEAT_TEMP_T1, shown 1), (.PEAT_TEMP_T2, shown 2), (.PEAT_TEMP_T3, shown 3),
    (.PEAT_STATE_WRITE_OK, write), (.PEAT_STATE_READ_OK, read)]

/-- THM_IO_TEMP of a sensor's group. -/
def State.showIo (s : State) (k : Nat) : State :=
  let byte j := if s.sensorFailed (ioNo j) then 0x80 else degC (s.sens (ioNo j)).t
  s.put .THM_IO_TEMP_TEMP (k / 4) ((List.range 4).foldl (fun n i => n + placed (byte (k / 4 * 4 + i)) (8 * i)) 0)

/-- The registers that show a sensor. -/
def State.showSensor (s : State) (n : Nat) : State :=
  let t := (s.sens n).t
  if n < 1632 then s.put (if n % 2 = 0 then .THM_SITE_DIODE0 else .THM_SITE_DIODE1) (n / 2) (degC t)
  else if n < 2448 then (s.put .THM_SITE_L0 (n - 1632) (degC t)).showBand n
  else if n < 2464 then s.showIo (n - 2448)
  else if n < 2488 then s.showBand n
  else s.showPeat

/-- Both diodes failed: the floor shown, with its record once. -/
def State.showFloor (s : State) (n : Nat) : State :=
  if n < 1632 then
    let c := n / 2
    let was := s.on .THM_SITE_FLOOR c
    let s := (s.put .THM_SITE_FLOOR c (Bool.bit (s.pairFailed c)))
    let s := s.put .THM_SITE_LEVEL c (s.levelInForce c)
    if s.pairFailed c && !was then s.thermEvent 4 n (deciC (s.govLogic c)) else s
  else s

/-- A sensor marked failed (R344). -/
def State.failSensor (s : State) (n : Nat) : State :=
  if s.sensorFailed n then s
  else
    let (f, i, b) := failMark n
    let s := s.put f i (s.get f i ||| 2 ^ b)
    ((s.showSensor n).thermEvent 2 n (deciC (s.sens n).t)).showFloor n

/-- Marks that a host write has cleared (R344): a record each, and the rule starts again. -/
def State.sensorCleared (s : State) (n : Nat) : State :=
  let x := s.sens n
  let s := s.setSens n { x with bad := 0, kept := 0, otherLo := 0, otherHi := 0, estLo := 0, estHi := 0 }
  ((s.showSensor n).thermEvent 3 n (deciC x.t)).showFloor n

/-! ### Samples (R341, R344, R352) -/

/-- Shutdown threshold of a sensor in 1/8 °C (R342); none for the peat. -/
def shutdownAt (n : Nat) : Option Int :=
  if n < 1632 then some 880 else if n < 2448 then some 840 else if n < 2464 then some 880 else if n < 2488 then some 840 else none

/-- A hardware trip (R352): latched in the sensor domain, rails off; the management path says so at once. The first trip is kept (R436). -/
def State.trip (s : State) (n : Nat) : State :=
  if s.tripped then s
  else
    let ts := (s.msClock :: s.always.trips).filter fun t => s.msClock < t + 86400000
    let s := (s.puts 0 [(.THM_TRIP_VALID, 1), (.THM_TRIP_READING, degC (s.sens n).t), (.THM_TRIP_INDEX, thermIndex n),
      (.THM_STATUS_TRIPS_24H, saturate 3 ts.length), (.BOOT_PINS_TRIP_DRIVEN, 1)]).cutPower 1
    let (w, s) := s.free
    let r : Rec := ⟨5, 11, thermIndex n, 11, 15, stSquall, 13 + placed (deciC (s.sens n).t) 16, 0⟩
    { s with always := { s.always with trips := ts, cleared := false, tripReport := true }, mgmtOut := s.recWords r w.toNat :: s.mgmtOut }

/-- A slice whose L0 has moved 15 °C since its last deskew re-deskews a channel per lull (R105). -/
def State.deskewDue (s : State) (c : Nat) : State :=
  let (t0, left) := SMap.get s.deskew c (0, 0)
  let t := (s.sens (l0No c)).t
  if left = 0 ∧ 120 ≤ (t - t0).natAbs then { s with deskew := SMap.set s.deskew c (t, 4) (0, 0) } else s

/-- Links and marsh ports whose temperature has moved since their training (R243, R198): the groups of an ACTIVE link that may retrain in the background, or
the channels of an ACTIVE port, a channel per lull. In Sleep nothing retrains (R367). -/
def State.retrainDue (s : State) (n : Nat) : State :=
  if !s.clocked || !s.gustsRun then s
  else if n < 1632 ∨ (2448 ≤ n ∧ n < 2464) then
    (List.range 24).foldl (fun s l =>
      let moved := (s.linkTemp l - signedOf 8 (s.get .ZYN_LINK_STATUS_TRAIN_TEMP l)).natAbs
      if s.on .ZYN_LINK_CTL_BG_RETRAIN l && (s.link l).groups.isEmpty && decide (s.get .ZYN_LINK_CTL_TEMP_DELTA l ≤ moved) then s.startGroups l (List.range 33) else s) s
  else if 2464 ≤ n ∧ n < 2488 then
    let m := (n - 2464) / 2
    let k := s.link (24 + m)
    let t := max (signedOf 8 (s.get .MRS_STATUS_TEMP0 m)) (signedOf 8 (s.get .MRS_STATUS_TEMP1 m))
    if k.port = 6 ∧ k.chLeft = 0 ∧ 15 ≤ (t - k.temp).natAbs then s.setLink (24 + m) { k with chLeft := 17 } else s
  else if 2488 ≤ n then s.peatTrain (n - 2488)
  else s

/-- A sample: none, or a value outside −40 °C to 150 °C, counts towards failure and changes nothing else. -/
def sensorSample (n : Nat) (t : Option Int) (s : State) : State :=
  let x := s.sens n
  let good := t.filter fun t => -320 ≤ t && t ≤ 1200
  match good with
  | none =>
    let s := s.setSens n { x with bad := x.bad + 1, overs := 0 }
    if x.bad + 1 ≥ 3 then s.failSensor n else s
  | some t =>
    let overs := match shutdownAt n with
      | some lim => if lim < t ∧ !s.sensorFailed n then x.overs + 1 else 0
      | none => 0
    let x := if t = x.t then x else { x with kept := 0 }
    let s := s.setSens n { x with t := t, bad := 0, overs := overs }
    let s := (s.showSensor n).retrainDue n
    let s := match sensorSite n with
      | some c => if n ≥ 1632 then s.deskewDue c else s
      | none => s
    if overs ≥ 2 then s.trip n else s

/-- Sensors of a kind, and the number of its sensor `i`. -/
def kindCount : SensorKind → Nat
  | .logic => 1632
  | .layer0 => 816
  | .ioDie => 16
  | .marsh => 24
  | .peat => 4

def kindBase : SensorKind → Nat
  | .logic => 0
  | .layer0 => 1632
  | .ioDie => 2448
  | .marsh => 2464
  | .peat => 2488

/-- SENSOR_SAMPLE: the sensor domain runs in every state but Deep and Off (R366), through a freeze and a shutdown (R340). -/
def execSensorSample (k : SensorKind) (i : Nat) (t : Option Int) (s : State) : Host.Outcome State Fault Refusal :=
  if kindCount k ≤ i then .fault .illFormed
  else .next (if s.get .PWR_STATE_STATE 0 < 3 then sensorSample (kindBase k + i) t s else s)

/-! ### The tray (R354, R427) -/

/-- A step of CRC-8, polynomial 0x07. -/
def crc8Step (c : Nat) : Nat := if c ≥ 128 then ((2 * c) ^^^ 0x107) % 256 else 2 * c

def crc8 (bs : List Nat) : Nat := bs.foldl (fun c b => Nat.repeat crc8Step 8 (c ^^^ b)) 0

/-- A tray device's four bytes, byte 0 lowest: value and fault bit, where the CRC holds. -/
def trayWord (w : Option (BitVec 32)) : Option (Int × Bool) :=
  w.bind fun w =>
    let v := w.toNat
    if crc8 [v % 256, v / 256 % 256, v / 65536 % 256] = v / 2 ^ 24 then some (signedOf 16 v, bitOf v 16) else none

/-- One tray sensor at a read: failed reads in a row, whether it is lost, its value where the read gives one. -/
def traySensor (w : Option (BitVec 32)) (bad : Nat) (was absent : Bool) (lo hi : Int) : Nat × Bool × Option Int :=
  match trayWord w with
  | none => (bad + 1, absent || was || decide (3 ≤ bad + 1), none)
  | some (v, fault) => (0, absent || fault || decide (v < lo) || decide (hi < v), some v)

/-- TRAY_READ: every 100 ms, with the tray powered (R431). -/
def trayRead (inlet outlet flow : Option (BitVec 32)) (s : State) : State :=
  let th := s.therm
  let absent := !s.on .BOOT_PINS_TRAY_PRESENT 0
  let (b0, l0, v0) := traySensor inlet th.trayBad.1 (s.on .THM_COOLANT_INLET_LOST 0) absent 0 8000
  let (b1, l1, v1) := traySensor outlet th.trayBad.2.1 (s.on .THM_COOLANT_OUTLET_LOST 0) absent 0 8000
  let (b2, l2, v2) := traySensor flow th.trayBad.2.2 (s.on .THM_COOLANT_FLOW_LOST 0) absent (-32768) 2000
  let th := { th with
    trayBad := (b0, b1, b2)
    inlet := v0 <|> th.inlet
    outlet := v1 <|> th.outlet
    flow := (v2.map fun v => (max 0 v).toNat) <|> th.flow }
  { s with therm := th }.puts 0
    [(.THM_COOLANT_FLOW, th.flow.getD 0), (.THM_COOLANT_OUTLET, ofSigned 16 ((th.outlet.getD 0).fdiv 10)), (.THM_COOLANT_INLET, ofSigned 16 ((th.inlet.getD 0).fdiv 10)),
     (.THM_COOLANT_FLOW_LOST, Bool.bit l2), (.THM_COOLANT_OUTLET_LOST, Bool.bit l1), (.THM_COOLANT_INLET_LOST, Bool.bit l0)]

/-- TRAY_READ. -/
def execTrayRead (inlet outlet flow : Option (BitVec 32)) (s : State) : Host.Outcome State Fault Refusal :=
  .next (if s.get .PWR_STATE_STATE 0 < 3 then trayRead inlet outlet flow s else s)

/-- FLOW_PULSE (R354). -/
def execFlowPulse (s : State) : Host.Outcome State Fault Refusal :=
  .next (if s.get .PWR_STATE_STATE 0 < 3 then { s with therm := { s.therm with pulse := s.therm.pulse + 1 } } else s)

/-- TRAY_PRESENCE_CHANGE (R427): without a tray every tray sensor is lost. -/
def execTrayPresenceChange (present : Bool) (s : State) : Host.Outcome State Fault Refusal :=
  let s := s.put .BOOT_PINS_TRAY_PRESENT 0 (Bool.bit present)
  .next (if present then s else s.puts 0 [(.THM_COOLANT_FLOW_LOST, 1), (.THM_COOLANT_OUTLET_LOST, 1), (.THM_COOLANT_INLET_LOST, 1)])

/-! ### The tick: sensors (R343, R344) -/

/-- A sensor at a tick: the stuck rule. The other diode of a pair, or itself where it has none. -/
def State.stuckTick (s : State) (n : Nat) : State :=
  let x := s.sens n
  let other := if n < 1632 then (s.sens (if n % 2 = 0 then n + 1 else n - 1)).t else 0
  let est := s.estimate n
  let y := if x.kept = 0 then { x with kept := 1, otherLo := other, otherHi := other, estLo := est, estHi := est }
    else { x with kept := x.kept + 1, otherLo := min x.otherLo other, otherHi := max x.otherHi other, estLo := min x.estLo est, estHi := max x.estHi est }
  let s := s.setSens n y
  if 2000 < y.kept ∧ (24 ≤ y.otherHi - y.otherLo ∨ 24 ≤ y.estHi - y.estLo) then s.failSensor n else s

/-- A pair at a tick (R343): raised on the third sample in a row that differs by more than 4 °C, and again only after 1 s of agreement. -/
def State.pairTick (s : State) (c : Nat) : State :=
  let n := diodeNo c 0
  let x := s.sens n
  let differ := 32 < (x.t - (s.sens (diodeNo c 1)).t).natAbs && !s.sensorFailed n && !s.sensorFailed (diodeNo c 1)
  if differ then
    let raise_ := x.apart + 1 ≥ 3 && x.settle == 0
    let s := s.setSens n { x with apart := x.apart + 1, settle := if raise_ || x.settle != 0 then 1000 else 0 }
    if raise_ then (s.bump .THM_STATS_DISAGREE 0 1).thermEvent 1 n (deciC (s.govLogic c)) else s
  else s.setSens n { x with apart := 0, settle := x.settle - 1 }

/-! ### The tick: coolant (R355) -/

/-- Reading of a tray sensor in a record's units. -/
def State.trayReading (s : State) (n : Nat) : Nat :=
  if n = 0 then s.get .THM_COOLANT_INLET 0 else if n = 1 then s.get .THM_COOLANT_OUTLET 0 else s.get .THM_COOLANT_FLOW 0

/-- A flow warning: below the limit it is raised, and it ends after 1 s at or above its end. -/
def State.flowWarn (s : State) (f : Fld) (sub lim end_ : Nat) (ok : Nat) (keep : Nat → Therm → Therm) : State :=
  match s.therm.flow with
  | none => s
  | some v =>
    if s.on .THM_COOLANT_FLOW_LOST 0 then s
    else if v < lim then
      let s := { s with therm := keep 0 s.therm }
      if s.on f 0 then s else (s.put f 0 1).thermEvent sub (trayNo 2) (s.trayReading 2)
    else if s.on f 0 ∧ end_ ≤ v then
      if ok + 1 ≥ 1000 then { s with therm := keep 0 s.therm }.put f 0 0 else { s with therm := keep (ok + 1) s.therm }
    else { s with therm := keep 0 s.therm }

/-- The inlet warning. -/
def State.inletTick (s : State) : State :=
  let th := s.therm
  let w : Int := s.get .THM_CTL_INLET_WARN 0 * 100
  match th.inlet with
  | none => s
  | some v =>
    if s.on .THM_COOLANT_INLET_LOST 0 then s
    else if w < v then
      let s := { s with therm := { th with inletWarn := true, okInlet := 0 } }
      if th.inletWarn then s else s.thermEvent 16 (trayNo 0) (s.trayReading 0)
    else if th.inletWarn ∧ v ≤ w - 200 then
      if th.okInlet + 1 ≥ 1000 then { s with therm := { th with inletWarn := false, okInlet := 0 } } else { s with therm := { th with okInlet := th.okInlet + 1 } }
    else { s with therm := { th with okInlet := 0 } }

/-- Every site's thermal level set to 15 (R355, R356). -/
def State.allToFloor (s : State) : State :=
  { s with therm := { s.therm with level := (List.range 816).foldl (fun m c => SMap.set m c 15 0) s.therm.level } }

/-- The coolant stop: declared at 50 ms of too few pulses or with the flow sensor lost; ended after 1 s of flow. -/
def State.stopTick (s : State) : State :=
  let lost := s.on .THM_COOLANT_FLOW_LOST 0
  if s.on .THM_STATUS_STOP 0 then
    if !lost && 550 ≤ s.therm.flow.getD 0 then
      if s.therm.okStop + 1 ≥ 1000 then
        ({ s with therm := { s.therm with okStop := 0 } }.put .THM_STATUS_STOP 0 0).thermEvent 11 (trayNo 2) (s.trayReading 2)
      else { s with therm := { s.therm with okStop := s.therm.okStop + 1 } }
    else { s with therm := { s.therm with okStop := 0 } }
  else if lost ∨ 50 ≤ s.therm.pulseLow then
    ((({ s with therm := { s.therm with okStop := 0 } }.put .THM_STATUS_STOP 0 1).thermEvent 10 (trayNo 2) (s.trayReading 2) stSquall)).allToFloor
  else s

/-- Inlet and outlet sensors newly lost are reported once (subcode 17). -/
def State.lostTick (s : State) : State :=
  let lost n := if n = 0 then s.on .THM_COOLANT_INLET_LOST 0 else s.on .THM_COOLANT_OUTLET_LOST 0
  [0, 1].foldl (fun s n =>
    if lost n then
      if s.therm.lostTold.contains n then s
      else { s with therm := { s.therm with lostTold := n :: s.therm.lostTold } }.thermEvent 17 (trayNo n) (s.trayReading n)
    else { s with therm := { s.therm with lostTold := s.therm.lostTold.filter (· != n) } }) s

/-- The pulse estimate (R354, R427) and the coolant's rules. -/
def State.coolantTick (s : State) : State :=
  let th := s.therm
  let ps := th.pulse :: th.pulses.take 9
  let k := s.get .THM_TRAY_CTL_K_FACTOR 0
  let low := decide (ps.sum * 12000 < 3 * k)
  let s := { s with therm := { th with pulse := 0, pulses := ps, pulseLow := if low then th.pulseLow + 1 else 0 } }
  let s := s.put .THM_COOLANT_PULSE_FLOW 0 (saturate 13 (ps.sum * 600000 / k))
  let s := s.flowWarn .THM_STATUS_WARN_60 8 600 620 s.therm.ok60 fun n t => { t with ok60 := n }
  let s := s.flowWarn .THM_STATUS_WARN_55 9 550 570 s.therm.ok55 fun n t => { t with ok55 := n }
  s.inletTick.lostTick.stopTick

/-! ### The tick: calibration (R347) -/

/-- Power of a die in 0.1 W: its core, stack and transit rails. -/
def State.diePowerNow (s : State) (d : Nat) : Nat := s.get .PWR_RAIL_POWER (d + 1) + s.get .PWR_RAIL_POWER (d + 13) + s.get .PWR_RAIL_POWER (d + 46)

/-- Whether a die's operating point lies inside its calibration record. -/
def State.inCalRange (s : State) (d : Nat) : Bool :=
  let p := s.diePowerNow d
  let inlet := signedOf 16 (s.get .THM_COOLANT_INLET 0)
  let flow := s.get .THM_COOLANT_FLOW 0
  s.get .THM_CAL_RANGE_P_LO d * 20 ≤ p && p ≤ s.get .THM_CAL_RANGE_P_HI d * 20 &&
    s.get .THM_CAL_RANGE_FLOW_LO d * 100 ≤ flow && flow ≤ s.get .THM_CAL_RANGE_FLOW_HI d * 100 &&
    (s.get .THM_CAL_RANGE_INLET_LO d * 50 : Int) ≤ inlet && inlet ≤ (s.get .THM_CAL_RANGE_INLET_HI d * 50 : Int)

/-- The record widened to the operating point. -/
def State.widenCal (s : State) (d : Nat) : State :=
  let p := s.diePowerNow d
  let inlet := (max 0 (signedOf 16 (s.get .THM_COOLANT_INLET 0))).toNat
  let flow := s.get .THM_COOLANT_FLOW 0
  let widen (s : State) (lo hi : Fld) (v u : Nat) : State :=
    s.puts d [(lo, min (s.get lo d) (v / u)), (hi, saturate hi.width (max (s.get hi d) ((v + u - 1) / u)))]
  widen (widen (widen s .THM_CAL_RANGE_P_LO .THM_CAL_RANGE_P_HI p 20) .THM_CAL_RANGE_FLOW_LO .THM_CAL_RANGE_FLOW_HI flow 100)
    .THM_CAL_RANGE_INLET_LO .THM_CAL_RANGE_INLET_HI inlet 50

/-- Errors of the forecasts made eight ticks ago for a die's points, against the sensors now, in 1/8 °C. -/
def State.calErrors (s : State) (d : Nat) : List Int :=
  match s.therm.past[7]? with
  | none => []
  | some (f, levels) =>
    (List.range 68).flatMap fun k =>
      let c := 68 * d + k
      let m := SMap.get levels c 0
      [diodeNo c 0, l0No c].filterMap fun n => if s.sensorFailed n then none else some (s.forecastAt f n m - (if n < 1632 then s.govLogic c else (s.sens n).t))

/-- Calibration of a die at a tick: RMS error over 10 s, guard band, refit, acceptance after 60 s within ±2 °C. -/
def State.calTick (s : State) (d : Nat) : State :=
  let es := s.calErrors d
  let sq := (es.map fun e => e.natAbs * e.natAbs).sum
  let hist := (sq, es.length) :: (SMap.get s.therm.errors d []).take 9999
  let n := (hist.map Prod.snd).sum
  let rms := if n = 0 then 0 else Nat.sqrt ((hist.map Prod.fst).sum * 100 / (64 * n))
  let ok := !es.isEmpty && es.all fun e => e.natAbs ≤ 16
  let s := { s with therm := { s.therm with errors := SMap.set s.therm.errors d hist [] } }.put .THM_CAL_STATUS_RMS_ERROR d (saturate 8 rms)
  let good (n : Nat) (s : State) : State := { s with therm := { s.therm with good := SMap.set s.therm.good d n 0 } }
  let reading := deciC (s.govLogic (68 * d))
  if s.inCalRange d then good 0 (s.put .THM_CAL_STATUS_GUARD d 0)
  else
    let s := if s.on .THM_CAL_STATUS_GUARD d then s else good 0 ((s.put .THM_CAL_STATUS_GUARD d 1).thermEvent 14 (diodeNo (68 * d) 0) reading)
    let s := if es.isEmpty then s else s.put .THM_CAL_STATUS_REFITTED d 1
    let g := if ok then SMap.get s.therm.good d 0 + 1 else 0
    if g < 60000 then good g s
    else good 0 (((s.widenCal d).put .THM_CAL_STATUS_GUARD d 0).thermEvent 15 (diodeNo (68 * d) 0) reading)

/-! ### The tick: levels (R348, R349) -/

/-- Thresholds TH of a site's points, in 1/8 °C. -/
def State.logicTh (s : State) : Int := s.get .THM_LIMITS_LOGIC_THROTTLE 0 * 8
def State.memTh (s : State) : Int := s.get .THM_LIMITS_MEM_THROTTLE 0 * 8

/-- F(m) + G − TH of the logic and the L0 point of a site. -/
def State.logicMargin (s : State) (c m : Nat) : Int := s.forecast (diodeNo c 0) m + s.guardBand (dieOf c) - s.logicTh
def State.l0Margin (s : State) (c m : Nat) : Int := s.forecast (l0No c) m + s.guardBand (dieOf c) - s.memTh
def State.margin (s : State) (c m : Nat) : Int := max (s.logicMargin c m) (s.l0Margin c m)

/-- The thermal level's step (R348): `f` is the greatest margin, `cool` says that every reading is 5 °C below its threshold. -/
def thermNext (m : Nat) (f : Int) (cool : Bool) : Nat := if 0 < f then min (m + 1) 15 else if f + 24 < 0 ∧ cool then m - 1 else m

/-- Every measured reading of a site 5 °C below its threshold. -/
def State.siteCool (s : State) (c : Nat) : Bool :=
  let below n (th : Int) := s.sensorFailed n || decide ((s.sens n).t < th - 40)
  below (diodeNo c 0) s.logicTh && below (diodeNo c 1) s.logicTh && below (l0No c) s.memTh

/-- The level needed at a site (R349). -/
def State.needOf (s : State) (c : Nat) : Nat :=
  match (List.range 16).find? fun m => decide (s.margin c m ≤ 0) with
  | some m => m
  | none => (Config.needUnmet s.therm.forecast c).val

/-- The largest level that fits a gust: U × m / (16 − m) ≤ S_0 (R349). -/
def fitOf (u : Nat) (s0 : Int) : Nat := ((List.range 16).filter fun m => m != 0 && decide (((u * m : Nat) : Int) ≤ s0 * ((16 - m : Nat) : Int))).length

/-- Fits of the slots of a site not run since the plan was armed, from their BUDGET (R349, R23), in units of 10 ns. -/
def State.budgetFits (s : State) (c : Nat) : List Nat :=
  match s.dieOwner (dieOf c) with
  | none => []
  | some p =>
    match s.armedHdr p with
    | none => []
    | some h =>
      let ran := s.get .GST_PART_STEP_STEP p - (s.part p).base
      let w := (hdrPeriod h - hdrLull h) * 10
      (List.range (hdrSlots h)).filterMap fun k =>
        if k < ran then none
        else
          let b := bitsOf (slotEntry (s.core c).active k) 55 32
          some (fitOf b ((w : Int) - b))

/-- M_fit of a site: the smallest over its last 64 gusts and its slots not yet run. -/
def State.fitNow (s : State) (c : Nat) : Nat := (SMap.get s.therm.fits c [] ++ s.budgetFits c).foldl min 15

/-- A site at a tick. -/
def State.siteTick (s : State) (c : Nat) : State :=
  let old := s.thermLevel c
  let new := if s.on .THM_STATUS_STOP 0 then 15 else thermNext old (s.margin c old) (s.siteCool c)
  let s := { s with therm := { s.therm with level := SMap.set s.therm.level c new 0 } }
  let level := s.levelInForce c
  let top := max (s.forecast (diodeNo c 0) level) (s.forecast (l0No c) level) + s.guardBand (dieOf c)
  let s := s.puts c [(.THM_SITE_LEVEL, level), (.THM_SITE_FIT, s.fitNow c), (.THM_SITE_NEED, s.needOf c), (.THM_SITE_FORECAST, degC top),
    (.THM_SITE_FLOOR, Bool.bit (s.pairFailed c))]
  let s := if level = 0 then s else s.bump .THM_STATS_THROTTLE_MS 0 1
  if old = 0 ∧ new ≠ 0 then s.thermEvent 6 (diodeNo c 0) (deciC (s.govLogic c))
  else if old ≠ 0 ∧ new = 0 then s.thermEvent 7 (diodeNo c 0) (deciC (s.govLogic c))
  else s

/-- The higher governing reading of a site. -/
def State.siteHot (s : State) (c : Nat) : Int := max (s.govLogic c) (s.govL0 c)

/-- The hottest of some sites, the lowest number first. -/
def State.hottest (s : State) (cs : List Nat) : Option Nat :=
  match cs with
  | [] => none
  | c :: cs => some (cs.foldl (fun b c => if s.siteHot b < s.siteHot c then c else b) c)

/-- THM_STATUS of the sites. -/
def State.hotTick (s : State) : State :=
  let c := (s.hottest (List.range 816)).getD 0
  let n := ((List.range 816).filter fun c => s.get .THM_SITE_LEVEL c != 0).length
  let guard := (List.range 12).any fun d => s.guardBand d != 0
  let trips := s.always.trips.filter fun t => s.msClock < t + 86400000
  { s.puts 0 [(.THM_STATUS_HOT_DIE, dieOf c), (.THM_STATUS_HOT_SITE, siteIn c), (.THM_STATUS_THROTTLED, saturate 4 n), (.THM_STATUS_GUARD, Bool.bit guard),
    (.THM_STATUS_TRIPS_24H, saturate 3 trips.length)] with always := { s.always with trips := trips } }

/-! ### The tick: alerts and Sleep on heat (R342, R355) -/

/-- Sensors at or above their alert threshold, with their governing readings: I/O die sensors, and of a stack each sensor that is not failed (the first
stands for a stack with both failed). -/
def State.alertsNow (s : State) : List (Nat × Int) :=
  let io := (List.range 16).filterMap fun k => if s.logicTh ≤ s.govIo k then some (ioNo k, s.govIo k) else none
  let marsh := (List.range 24).filterMap fun i =>
    let n := marshNo (i / 2) (i % 2)
    let both := s.sensorFailed (marshNo (i / 2) 0) && s.sensorFailed (marshNo (i / 2) 1)
    let v := if s.sensorFailed n then s.govMarsh (i / 2) else (s.sens n).t
    if (!s.sensorFailed n || (both && i % 2 == 0)) && s.memTh ≤ v then some (n, v) else none
  io ++ marsh

def State.alertTick (s : State) : State :=
  let now := s.alertsNow
  let s := now.foldl (fun s e => if s.therm.alerts.contains e.1 then s else s.thermEvent 18 e.1 (deciC e.2)) s
  { s with therm := { s.therm with alerts := now.map Prod.fst } }

/-- Sleep on heat: during a coolant stop, a logic reading above 105 °C or an L0 reading above 100 °C. -/
def State.sleepTick (s : State) : State :=
  if s.on .THM_STATUS_STOP 0 && s.get .PWR_STATE_STATE 0 < 2 then
    match (List.range 816).find? fun c => decide (840 < s.govLogic c) || decide (800 < s.govL0 c) with
    | none => s
    | some c =>
      let n := if 840 < s.govLogic c then diodeNo c 0 else l0No c
      let s := s.thermEvent 12 n (deciC (if n < 1632 then s.govLogic c else s.govL0 c))
      s.heatSleep.put .THM_STATUS_SLEEP_HEAT 0 1
  else s

/-! ### The tick: re-plan notices (R350, R408) -/

/-- Sites that hold a notice's condition, for reasons 1 and 3. -/
def State.replanSites (s : State) (p reason : Nat) : List Nat :=
  (s.partSites p).filter fun c =>
    if reason = 1 then s.get .THM_SITE_FIT c ≤ s.get .THM_SITE_NEED c && s.get .THM_SITE_NEED c != 0 else s.on .THM_SITE_FLOOR c

/-- Alerts that concern a partition: every I/O die alert, and those of stacks it holds a share of. -/
def State.partAlerts (s : State) (p : Nat) : List (Nat × Int) :=
  s.alertsNow.filter fun e => e.1 < 2464 || (List.range 16).any fun k =>
    let w := s.get .PART_MARSH_SHARE (ix2 16 p k); bitOf w 4 && bitsOf w 3 0 == (e.1 - 2464) / 2

/-- Whether a notice's condition holds for a partition. -/
def State.replanHolds (s : State) (p reason : Nat) : Bool :=
  if s.get .PART_STATUS_STATE p = 0 then false
  else if reason = 1 ∨ reason = 3 then !(s.replanSites p reason).isEmpty
  else if reason = 2 then s.on .THM_STATUS_STOP 0
  else if reason = 4 then s.on .THM_STATUS_WARN_60 0 || s.on .THM_STATUS_WARN_55 0 || s.therm.inletWarn
  else !(s.partAlerts p).isEmpty

/-- WARN_GUSTS: 0 where the need already exceeds the fit, else what the trend gives, a free value. -/
def State.warnGusts (s : State) (c : Nat) : Nat × State :=
  if s.get .THM_SITE_FIT c < s.get .THM_SITE_NEED c then (0, s)
  else
    let (w, s) := s.free
    (w.toNat % 65536, s)

/-- The words of a notice of reasons 1 to 4, about a site. -/
def State.siteNotice (s : State) (p reason c warn : Nat) : Replan :=
  let level := s.get .THM_SITE_LEVEL c
  let whole := reason == 2 || reason == 4
  let l0 := decide (s.logicMargin c level < s.l0Margin c level)
  let f := s.forecast (if l0 then l0No c else diodeNo c 0) level + s.guardBand (dieOf c)
  let r0 := placed reason 12 + placed level 16 + placed (s.get .THM_SITE_NEED c) 20 + placed (s.get .THM_SITE_FIT c) 24 + placed warn 32
  let place := if whole then placed 127 4 else dieOf c + placed (siteIn c) 4 + placed (s.get .CORE_SITE_LOGICAL c % 64) 11
  ⟨p, reason, if reason = 4 then stOk else stSquall, r0, place + placed (Bool.bit l0) 17 + placed (degC f) 24 + placed (s.get .THM_COOLANT_FLOW 0) 32⟩

/-- The words of a notice of reason 5, about a sensor. -/
def State.alertNotice (s : State) (p : Nat) (e : Nat × Int) : Replan :=
  let marsh := decide (2464 ≤ e.1)
  ⟨p, 5, stOk, placed 5 12 + placed 0xFFFF 32,
    (if marsh then (e.1 - 2464) / 2 else 0) + placed 127 4 + placed (Bool.bit marsh) 17 + placed (degC e.2) 24 + placed (s.get .THM_COOLANT_FLOW 0) 32⟩

/-- A notice made due: a newer one of its partition and reason replaces it. -/
def State.noticeDue (s : State) (n : Replan) : State :=
  { s with therm := { s.therm with due := (s.therm.due.filter fun x => !(x.part == n.part && x.reason == n.reason)) ++ [n] } }

def sentKey (p reason : Nat) : Nat := 8 * p + reason

/-- One partition and reason at a tick: at most one notice per 64 gusts while the condition holds, and one at once where the need of a site has risen. -/
def State.replanTick (s : State) (rose : List Nat) (p reason : Nat) : State :=
  let key := sentKey p reason
  let put (v : Nat × Nat) (s : State) : State := { s with therm := { s.therm with sent := SMap.set s.therm.sent key v (0, 0) } }
  if !s.replanHolds p reason then put (0, 0) s
  else
    let last := SMap.get s.therm.sent key (0, 0)
    let again := last.1 = 0 ∨ last.1 + 63 ≤ s.gust ∨ (reason ≠ 5 ∧ (s.partSites p).any rose.contains)
    let cs := if reason = 1 ∨ reason = 3 then s.replanSites p reason else s.partSites p
    if reason = 5 then
      if again && s.on .THM_CTL_NOTICES 0 then
        match s.partAlerts p with
        | [] => s
        | e :: es => put (s.gust + 1, 0) (s.noticeDue (s.alertNotice p (es.foldl (fun b e => if b.2 < e.2 then e else b) e)))
      else s
    else
      let c := (s.hottest cs).getD 0
      if again then
        let (warn, s) := s.warnGusts c
        let s := put (s.gust + 1, warn) s
        if s.on .THM_CTL_NOTICES 0 then s.noticeDue (s.siteNotice p reason c warn) else s
      else s

/-- MON_CLASS_STATUS (R408): a class is at risk while a notice of reason 1, 2 or 3 holds for its owner. -/
def State.riskTick (s : State) : State :=
  (List.range 64).foldl (fun s c =>
    let p := s.get .MON_CLASS_OWNER c
    let ws := if s.on .MON_CLASS_OWNER_VALID c then
        [1, 2, 3].filterMap fun r => let x := SMap.get s.therm.sent (sentKey p r) (0, 0); if x.1 = 0 then none else some x.2
      else []
    s.puts c [(.MON_CLASS_STATUS_AT_RISK, Bool.bit !ws.isEmpty), (.MON_CLASS_STATUS_WARN_GUSTS, ws.foldl min (ws.headD 0))]) s

/-- Re-plan notices that a lull writes (R288, R350), each with its record. -/
def State.sendReplans (s : State) : State :=
  s.therm.due.foldl (fun s n =>
    let s := (s.notice n.part 2 n.status n.r0 n.r1).bump .THM_STATS_NOTICES 0 1
    let d := bitsOf n.r1 3 0
    let c := bitsOf n.r1 10 4
    let n' := if n.reason = 5 then (if bitOf n.r1 17 then marshNo d 0 else ioNo 0) else if c = 127 then trayNo 2 else diodeNo (68 * d + c) 0
    s.thermEvent 5 n' (if c = 127 ∧ n.reason ≠ 5 then s.trayReading 2 else ofSigned 16 (signedOf 8 (bitsOf n.r1 31 24) * 10)))
    { s with therm := { s.therm with due := [] } }

/-! ### The tick -/

/-- Thermal monitors (R403): readings, or governing values of failed sensors; the tray's in 1/8 °C and 0.01 L/min. -/
def State.thermSamples (s : State) : State :=
  let value n : Int :=
    if !s.sensorFailed n || 2488 ≤ n then (s.sens n).t
    else if n < 1632 then s.govLogic (n / 2)
    else if n < 2448 then s.govL0 (n - 1632)
    else if n < 2464 then s.govIo (n - 2448)
    else s.govMarsh ((n - 2464) / 2)
  let s := (List.range 2492).foldl (fun s n => s.monSample (monSensor + n) (value n)) s
  let s := s.monSample (monSensor + trayNo 0) (((s.therm.inlet.getD 0) * 8).fdiv 100)
  let s := s.monSample (monSensor + trayNo 1) (((s.therm.outlet.getD 0) * 8).fdiv 100)
  s.monSample (monSensor + trayNo 2) (s.therm.flow.getD 0)

/-- A new forecast: a free value, the last eight kept. -/
def State.newForecast (s : State) : State :=
  { s with freeCtr := s.freeCtr + 1, therm := { s.therm with past := (s.therm.forecast, s.therm.level) :: s.therm.past.take 7, forecast := s.freeCtr } }

/-- The greatest of some readings. -/
def hottestOf (ts : List Int) : Int := ts.foldl max (-320)

/-- Hottest readings as the PLDM repository shows them (R409). -/
def State.showHottest (s : State) : State :=
  { s with therm := { s.therm with shown := [hottestOf ((List.range 816).map s.govLogic), hottestOf ((List.range 816).map s.govL0),
    hottestOf ((List.range 16).map s.govIo), hottestOf ((List.range 12).map s.govMarsh)] } }

/-- The 1 ms tick (R341, R348). -/
def msTick (inp : TickIn) (s : State) : State :=
  let s := { s with msClock := s.msClock + 1 }
  if s.get .PWR_STATE_STATE 0 ≥ 3 ∨ s.on .FRZ_STATUS_FROZEN 0 then s
  else
    let s := (s.railsTick inp).newForecast
    let s := (List.range 2492).foldl State.stuckTick s
    let s := (List.range 816).foldl State.pairTick s
    let s := s.coolantTick
    let s := (List.range 12).foldl State.calTick s
    let needs := (List.range 816).map fun c => s.get .THM_SITE_NEED c
    let s := (List.range 816).foldl State.siteTick s.limiterTick
    let rose := (List.range 816).filter fun c => needs.getD c 0 < s.get .THM_SITE_NEED c
    let s := s.hotTick.alertTick.sleepTick.showHottest
    let s := (List.range 12).foldl (fun s p => [1, 2, 3, 4, 5].foldl (fun s r => s.replanTick rose p r) s) s
    s.riskTick.thermSamples

/-- MS_TICK: with the rails off only the time of the always-on and sensor domains passes; in Deep and Off none. -/
def execMsTick (inp : TickIn) (s : State) : Host.Outcome State Fault Refusal :=
  .next (if s.get .PWR_STATE_STATE 0 ≥ 3 then s else if s.always.shut ≠ 0 then { s with msClock := s.msClock + 1 } else msTick inp s)

end Sys2Proof.Machine
end

