-- ==== Sys2Proof/Machine/HostLink.lean ====
section
/-!
DEFINITION. Resets at the host link (R275, R298, R309), the link's return, and REFCLK (R423).
Readings taken by inference (DEDUCED): notes/assumptions/45.md.
-/
namespace Sys2Proof.Machine

/-- A ring returned to its reset values but for OWNER. -/
def State.clearRing (s : State) (r : Nat) : State :=
  let owner := s.get .HST_RING_CTL_OWNER r
  let s := [RegName.HST_RING_BASE, .HST_RING_CQ_BASE, .HST_RING_CTL, .HST_RING_STATUS].foldl (fun t n => t.resetReg n r) s
  (s.setRing r Ring.fresh).put .HST_RING_CTL_OWNER r owner

def CmdKind.isWindow : CmdKind → Bool
  | .windowRead _ _ _ => true
  | .windowWrite _ _ _ => true
  | _ => false

/-- Whether a command moves data to or from host memory: its transfers stop, and it ends (R275). -/
def CmdKind.isHostTransfer : CmdKind → Bool
  | .memRead _ _ _ _ => true
  | .memWrite _ _ _ _ => true
  | k => k.isWindow

/-- What a PF FLR, a hot reset and a link down do (R275, R309, R324): transfers stop, rings and windows are cleared, logs in host memory are disabled, completions of
commands in progress are discarded, VF Enable is cleared, running jobs stop at the next boundary. -/
def State.linkReset (s : State) : State :=
  let s := { s with vfEnable := false, cmds := (s.cmds.filter fun (c : Cmd) => !c.kind.isHostTransfer).map fun (c : Cmd) => { c with discard := true } }
  let s := (List.range 64).foldl State.clearRing { s with rings := [], lastRing := [] }
  let s := (List.range 13).foldl (fun s f =>
    let s := (s.puts f [(.HST_FUNC_CTL_NOTICE_RING, 0), (.HST_FUNC_CTL_ENABLE_NOTICES, 0)]).resetReg .HST_WIN f
    if s.on .EVT_LOG_CTL_DEVICE f then s else s.put .EVT_LOG_CTL_ENABLE f 0) s
  let s := (List.range 32).foldl State.dmaLinkReset (s.resetReg .HST_BAD_LAST 0)
  (List.range 12).foldl (fun s p => if (s.part p).running then s.modPart p fun x => { x with linkStop := true } else s) s

/-- The link itself down. -/
def State.hostDown (s : State) : State := { s.resetReg .HST_LINK_STATUS 0 with vfEnable := false }

/-- PF_FLR: the link stays up. -/
def execPfFlr (s : State) : Host.Outcome State Fault Refusal := .next (s.whenClocked State.linkReset)

/-- HOT_RESET. -/
def execHotReset (s : State) : Host.Outcome State Fault Refusal := .next (s.whenClocked fun s => s.linkReset.hostDown)

/-- LINK_DOWN: while clocks do not run, an assertion of PERST_N is sensed only (R431, R436). -/
def execLinkDown (perst : Bool) (s : State) : Host.Outcome State Fault Refusal :=
  let s := if perst then s.put .BOOT_PINS_PERST_N 0 0 else s
  .next (s.whenClocked fun s => s.linkReset.hostDown)

/-- HOST_LINK_UP: the link becomes active while PERST_N is high and REFCLK runs, at full width or, of its 16 lanes, at the 8 that L0p leaves (R274); the host has VF
Enable set or not (R275, notes/assumptions/45.md). -/
def hostLinkUp (width speed : Nat) (form : HostForm) (s : State) : State :=
  if s.on .BOOT_PINS_PERST_N 0 && s.on .BOOT_PINS_REFCLK_OK 0 then
    { s.puts 0 [(.HST_LINK_STATUS_UP, 1), (.HST_LINK_STATUS_WIDTH, width), (.HST_LINK_STATUS_SPEED, speed), (.HST_LINK_STATUS_FLIT, Bool.bit form.flit),
        (.HST_LINK_STATUS_L0P, Bool.bit form.l0p)] with vfEnable := form.vfs }
  else s

/-- Widths of R274. -/
def linkWidthOk (width : Nat) : Bool := [1, 2, 4, 8, 16].contains width

/-- Widths, rates and modes of R274: L0p is a state of a link of 16 lanes in FLIT mode. -/
def linkFormOk (width speed : Nat) (form : HostForm) : Bool := linkWidthOk width && speed != 0 && (!form.l0p || (width == 16 && form.flit))

/-- HOST_LINK_UP. -/
def execHostLinkUp (width : Fin 17) (speed : Fin 7) (form : HostForm) (s : State) : Host.Outcome State Fault Refusal :=
  if linkFormOk width.val speed.val form then .next (s.whenClocked (hostLinkUp width.val speed.val form)) else .fault .illFormed

/-- VF_FLR (R275): the VF's rings, window and pending completions are cleared, and the reset of its partition starts or is joined. -/
def vfFlr (f : Nat) (s : State) : State :=
  let s := { s with cmds := (s.cmds.filter fun (c : Cmd) => !(c.fn == f && c.kind.isHostTransfer)).map fun (c : Cmd) => if c.fn = f then { c with discard := true } else c }
  let s := ((s.ringsOf f).foldl State.clearRing s).resetReg .HST_WIN f
  match s.fnPart f with
  | some p =>
    let st := s.get .PART_STATUS_STATE p
    if (st = 2 ∨ st = 5) ∧ !(s.part p).mapLost then s.beginReset p else s
  | none => s

/-- VF_FLR. -/
def execVfFlr (v : Fin 12) (s : State) : Host.Outcome State Fault Refusal := .next (s.whenClocked (vfFlr (v.val + 1)))

/-- REFCLK_LOST (R423): the host link is treated as down; boundaries and refresh go on from the internal oscillator. -/
def execRefclkLost (s : State) : Host.Outcome State Fault Refusal :=
  .next (if s.always.shut = 0 ∧ s.get .PWR_STATE_STATE 0 < 3 then
    let s := s.puts 0 [(.BOOT_PINS_REFCLK_LOST, 1), (.BOOT_PINS_REFCLK_OK, 0)]
    { (s.whenClocked fun s => s.linkReset.hostDown) with always := { s.always with refBack := false } }
  else s)

/-- REFCLK_STABLE: timing returns to REFCLK at the next gust boundary. -/
def execRefclkStable (s : State) : Host.Outcome State Fault Refusal :=
  .next (if s.always.shut = 0 ∧ s.get .PWR_STATE_STATE 0 < 3 ∧ !s.on .BOOT_PINS_REFCLK_OK 0 then { s with always := { s.always with refBack := true } } else s)

/-! ### LINK_RETRAIN (R242, R243, R198, R260) -/

/-- A link's retraining: FULL runs the states of R242, otherwise every group retrains; a link that cannot train answers with the state it is in. -/
def zynRetrain (q : Req) (l : Nat) (full : Bool) (s : State) : State :=
  let out := (linkDies l).any fun d => s.transitFaults.contains d || bitOf (s.get .PWR_STATE_TRANSIT_OFF 0) d
  if full && !out then (s.startCmd q 0x40 (.linkRetrain l 1)).startTraining l
  else if !full && s.linkUp l then (s.startCmd q 0x40 (.linkRetrain l 0)).startGroups l (List.range 33)
  else s.done q stOk (s.get .ZYN_LINK_STATUS_STATE l)

/-- A marsh port's retraining: FULL, or every channel in the lulls that follow (R198). -/
def marshRetrain (q : Req) (m : Nat) (full : Bool) (s : State) : State :=
  let k := s.link (24 + m)
  let out := s.transitFaults.contains m || bitOf (s.get .PWR_STATE_TRANSIT_OFF 0) m
  if full && !out then (s.startCmd q 0x40 (.linkRetrain (64 + m) 1)).startTraining (24 + m)
  else if !full && k.port == 6 then (s.startCmd q 0x40 (.linkRetrain (64 + m) 0)).setLink (24 + m) { k with chLeft := 17 }
  else s.done q stOk k.port

/-- A Xeunni port's retraining runs the states of R260. -/
def portRetrain (q : Req) (k : Nat) (s : State) : State :=
  if s.portMay k then (s.startCmd q 0x40 (.linkRetrain (128 + k) 1)).startPort k else s.done q stOk (s.get .XNI_PORT_STATUS_STATE k)

def linkRetrain (q : Req) (p0 : Word) (s : State) : State :=
  let i := fieldOf p0 9 4
  if fieldOf p0 1 0 = 0 then zynRetrain q i (flagOf p0 10) s
  else if fieldOf p0 1 0 = 1 then marshRetrain q i (flagOf p0 10) s
  else portRetrain q i s

def opLinkRetrain : HostOp := ⟨0x40, .pfModule, [bitsMask 1 0 + bitsMask 10 4]⟩

/-- LINK_RETRAIN. -/
def execLinkRetrain (q : Req) (p0 : Word) (s : State) : Host.Outcome State Fault Refusal :=
  hostRow opLinkRetrain q [p0] (fun _ =>
    if fieldOf p0 1 0 = 3 then 2 else if fieldOf p0 9 4 < [24, 12, 16].getD (fieldOf p0 1 0) 0 then 0 else 5) (linkRetrain q p0) s

end Sys2Proof.Machine
end

