-- ==== Sys2Proof/Machine/Boot.lean ====
section
/-!
DEFINITION. Firmware images, licences, Doldrums mode, warm reset, cold power-on and wake (R333 to R337, R369 to R373, R377 to R400).
Readings taken by inference (DEDUCED): notes/assumptions/19.md, notes/assumptions/53.md.
-/
namespace Sys2Proof.Machine

/-! ### Images (R379, R380, R391) -/

/-- `n` bytes of a record from an offset, as a number: little-endian, and big-endian. -/
def leAt (b : List Byte) (off n : Nat) : Nat := ofBytesLE ((b.drop off).take n)
def beAt (b : List Byte) (off n : Nat) : Nat := ofBytesLE ((b.drop off).take n).reverse

def imgSvn (b : List Byte) : Nat := leAt b 6 2
def imgBytes (b : List Byte) : Nat := leAt b 8 4
def imgCp (b : List Byte) : Nat := leAt b 0x0C 2
def imgCore (b : List Byte) : Nat := leAt b 0x0E 2
def imgCpOff (b : List Byte) : Nat := leAt b 0x10 4
def imgCpBytes (b : List Byte) : Nat := leAt b 0x14 4
def imgCoreOff (b : List Byte) : Nat := leAt b 0x18 4
def imgCoreBytes (b : List Byte) : Nat := leAt b 0x1C 4

/-- The largest image. -/
def slotBytes : Nat := 16777216

/-- MAGIC, FORMAT, reserved fields and part bounds (R379). -/
def imageForm (b : List Byte) : Bool :=
  leAt b 0 4 == 0x4B5A4657 && leAt b 4 2 == 1 && 0x200 ≤ imgBytes b && imgBytes b ≤ b.length && imgBytes b ≤ slotBytes &&
    0x200 ≤ imgCpOff b && 0x200 ≤ imgCoreOff b && imgCpBytes b ≤ 8388608 && imgCoreBytes b ≤ 65536 &&
    imgCpOff b + imgCpBytes b ≤ imgBytes b && imgCoreOff b + imgCoreBytes b ≤ imgBytes b &&
    (imgCpOff b + imgCpBytes b ≤ imgCoreOff b || imgCoreOff b + imgCoreBytes b ≤ imgCpOff b) &&
    ((b.drop 0x22).take 0xDE).all (· == 0) && ((b.drop 0x1C0).take 0x40).all (· == 0)

/-- The message an image's signature covers. -/
def imageSigned (b : List Byte) : List Byte := b.take 0x100 ++ (b.take (imgBytes b)).drop 0x200

/-- A signature by a ROM key of a role (R380, R395). -/
def signedBy (role : Nat) (key sig msg : List Byte) : Bool := Config.romKey (Config.sha384 key) role && Config.ecdsaVerify (Config.sha384 key) msg sig

/-- The SVN floor by vote: 0xFFFF where it is lost. -/
def State.svnFloor (s : State) : Nat := s.flash.svnFloor.vote.1.getD 0xFFFF

/-- An authentic image (R380). -/
def State.imageOk (s : State) (b : List Byte) : Bool :=
  imageForm b && signedBy 0 ((b.drop 0x160).take 0x60) ((b.drop 0x100).take 0x60) (imageSigned b) && s.svnFloor ≤ imgSvn b &&
    leAt b 0x20 1 ≤ s.get .HST_ID_REV 0 && s.flash.factory.dieStep.all fun step => leAt b 0x21 1 ≤ step

def CmdKind.image : CmdKind → Option (List Byte)
  | .fwLoad b _ => some b
  | _ => none

/-- Whether the slot is being written (R391). -/
def State.slotWriting (s : State) : Bool := s.mgmt.update.isSome || s.cmds.any fun c => c.kind.image.isSome

/-- The same, or a third core-firmware version would be needed (R333). -/
def State.slotBusy (s : State) : Bool := s.slotWriting || s.get .PART_FW_PREVIOUS 0 != 0

def fwLoad (q : Req) (a n : Nat) (s : State) : State :=
  if slotBytes < n then s.done q stBadPacket
  else if !s.hostUp then s.done q stUncorrectable
  else
    let b := s.hostRead a n
    if !s.imageOk b then s.done q stBadPacket
    else if s.slotBusy then s.done q stBusy
    else s.startCmd q 0x4A (.fwLoad b (imgCore b))

def opFwLoad : HostOp := ⟨0x4A, .pfModule, [word64, bitsMask 31 0]⟩

/-- FW_LOAD (R391). -/
def execFwLoad (q : Req) (p0 p1 : Word) (s : State) : Host.Outcome State Fault Refusal :=
  hostRow opFwLoad q [p0, p1] noCheck (fwLoad q p0.toNat (fieldOf p1 31 0)) s

/-- The slot written with an authentic image. -/
def State.writeSlot (s : State) (b : List Byte) : State :=
  let s := ({ s with flash := { s.flash with image := b } }.put .PART_FW_CURRENT 0 (imgCore b)).fwSlots
  if bitOf (s.get .PART_DOLDRUMS_HELD 0) 1 then { s with always := { s.always with fwAuth := true } } else s

/-- The erase, write and read-back end: FW_LOAD completes, or a PLDM update is ready to activate. -/
def fwWriteDone (s : State) : State :=
  match s.cmds.find? fun c => c.kind.image.isSome with
  | some c =>
    let b := c.kind.image.getD []
    (s.writeSlot b).endCmd c stOk s.gust (imgCp b + placed (imgCore b) 16 + placed (imgSvn b) 32) 0
  | none =>
    match s.mgmt.update with
    | some b => { s.writeSlot b with mgmt := { s.mgmt with update := none } }
    | none => s

/-- FW_WRITE_DONE (R391). -/
def execFwWriteDone (s : State) : Host.Outcome State Fault Refusal := .next (s.whenClocked fwWriteDone)

/-! ### Licences (R393 to R396) -/

def recFeatures (b : List Byte) : Nat := leAt b 6 2
def recSequence (b : List Byte) : Nat := leAt b 8 4
def recExpiry (b : List Byte) : Nat := leAt b 0x0C 4

/-- A record's form: a licence, or a service record with its entries. -/
def licenceForm (b : List Byte) : Bool := leAt b 0 4 == 0x4B5A4C43 && leAt b 4 2 == 1 && b.length == 256
def serviceForm (b : List Byte) : Bool := leAt b 0 4 == 0x4B5A5352 && leAt b 4 2 == 1 && b.length == 256 + 16 * recFeatures b

/-- A record signed by a key of its role for this module, the identity known (R395, R397). -/
def State.recordOk (s : State) (role : Nat) (b : List Byte) : Bool :=
  !s.on .BOOT_STATUS_PUF_FAIL 0 && signedBy role ((b.drop 0x40).take 0x60) ((b.drop 0xA0).take 0x60) (b.take 0xA0 ++ b.drop 0x100) &&
    beAt b 0x10 48 == Config.deviceId

/-- Features of the stored record that are in force at a count of hours (R396). -/
def inForceAt (b : List Byte) (hours : Nat) : Nat := if recExpiry b = 0 ∨ hours < recExpiry b then recFeatures b % 16 else 0

/-- The licence registers and state: features in force, the rest of the record lapsed. -/
def State.showLicence (s : State) (force : Nat) : State :=
  let b := s.flash.licence
  let s := s.puts 0 [(.LIC_STATE_IN_FORCE, force), (.LIC_STATE_IN_RECORD, recFeatures b % 16), (.LIC_STATE_LAPSED, recFeatures b % 16 - inForceAt b (s.get .LIC_HOURS_HOURS 0)),
    (.LIC_RECORD_SEQUENCE, recSequence b), (.LIC_RECORD_EXPIRY_HOURS, recExpiry b)]
  { s with licWord := Tri.of force }

def licenceLoad (q : Req) (a n : Nat) (s : State) : State :=
  if !s.hostUp then s.done q stUncorrectable
  else
    let b := s.hostRead a n
    if licenceForm b then
      if !s.recordOk 2 b then s.done q stLicence
      else if recSequence b ≤ recSequence s.flash.licence then s.done q stBadPacket
      else
        let force := inForceAt b (s.get .LIC_HOURS_HOURS 0)
        ({ s with flash := { s.flash with licence := b } }.showLicence force).done q stOk force
    else if serviceForm b then
      if !s.recordOk 3 b then s.done q stLicence
      else if (List.range 12).any fun p => s.get .PART_STATUS_STATE p != 0 then s.done q stBusy
      else { s with flash := { s.flash with service := b } }.done q stOk (s.get .LIC_STATE_IN_FORCE 0)
    else s.done q stBadPacket

def opLicenceLoad : HostOp := ⟨0x48, .pfModule, [word64, bitsMask 15 0]⟩

/-- LICENCE_LOAD (R395). -/
def execLicenceLoad (q : Req) (p0 p1 : Word) (s : State) : Host.Outcome State Fault Refusal :=
  hostRow opLicenceLoad q [p0, p1] noCheck (licenceLoad q p0.toNat (fieldOf p1 15 0)) s

/-- An hour counted and saved; features past EXPIRY_HOURS lapse. -/
def poweredHour (s : State) : State :=
  let s := s.bump .LIC_HOURS_HOURS 0 1
  let h := s.get .LIC_HOURS_HOURS 0
  let was := s.get .LIC_STATE_IN_FORCE 0
  let s := { s with flash := { s.flash with hours := h } }
  if s.get .HST_CP_STATUS_READY 0 = 1 then (let w := s.licWord; { s.showLicence (was &&& inForceAt s.flash.licence h) with licWord := if was = was &&& inForceAt s.flash.licence h then w else Tri.of (was &&& inForceAt s.flash.licence h) }) else s

/-- POWERED_HOUR (R396): while the management rail is in regulation. -/
def execPoweredHour (s : State) : Host.Outcome State Fault Refusal := .next (if s.get .PWR_STATE_STATE 0 < 3 then poweredHour s else s)

/-! ### Doldrums mode (R335, R337) -/

def opDoldrumsEnter : HostOp := ⟨0x50, .pfModule, []⟩
def opDoldrumsExit : HostOp := ⟨0x51, .pfModule, []⟩

/-- DOLDRUMS_ENTER. -/
def execDoldrumsEnter (q : Req) (s : State) : Host.Outcome State Fault Refusal :=
  hostRow opDoldrumsEnter q [] noCheck (fun s => (s.enterDoldrums 1).done q stOk) s

/-- Whether a held cause allows the exit (R337). -/
def State.causeAllows (s : State) (c : Nat) : Bool :=
  if c = 2 then s.always.fwAuth
  else if c = 3 then s.allCool && !s.tripped
  else if c = 4 then !s.on .PWR_STATUS_OUT_OF_RANGE 0 && (match s.always.inSince with | some t => decide (t + 10000 ≤ s.msClock) | none => true)
  else true

/-- Doldrums mode left: its flags, the count of losses, its record. -/
def State.leaveDoldrums (s : State) : State :=
  let s := s.puts 0 [(.PART_DOLDRUMS_ACTIVE, 0), (.PART_DOLDRUMS_HELD, 0), (.HST_CP_STATUS_DOLDRUMS, 0), (.PART_LOST_IN_WINDOW, 0)]
  { s with losses := [], always := { s.always with fwAuth := false } }.doldrumsEvent 2 (s.get .PART_DOLDRUMS_CAUSE 0)

/-- The exit: every partition is reset and the ports train; before a memory was trained, bring-up goes on from step 4 (R381). -/
def doldrumsExit (q : Req) (s : State) : State :=
  if !s.inDoldrums then s.done q stOk
  else if !(setBits 5 (s.get .PART_DOLDRUMS_HELD 0)).all fun b => s.causeAllows (b + 1) then s.done q stDoldrums
  else
    let s := s.leaveDoldrums.startCmd q 0x51 .doldrumsExit
    if !s.on .HST_CP_STATUS_READY 0 then s.put .BOOT_STATUS_STEP 0 4
    else
      let s := ((List.range 32).filter fun e => s.get .DMA_CH_STATUS_STATE e == 2).foldl State.dmaOrders s
      let s := (List.range 12).foldl (fun s p =>
        if (s.get .PART_STATUS_STATE p = 2 ∨ s.get .PART_STATUS_STATE p = 5) ∧ !(s.part p).mapLost then s.beginReset p else s) s
      ((List.range 16).foldl State.startPort s).exitDone

/-- DOLDRUMS_EXIT. -/
def execDoldrumsExit (q : Req) (s : State) : Host.Outcome State Fault Refusal := hostRow opDoldrumsExit q [] noCheck (doldrumsExit q) s

/-! ### What every start does -/

/-- The image in the slot starts: its versions, the floor raised to its SVN, one core firmware (R380, R390). -/
def State.startImage (s : State) : State :=
  let b := s.flash.image
  let floor := max s.svnFloor (imgSvn b)
  let s := { s with flash := { s.flash with running := b, svnFloor := if s.flash.svnFloor.vote.1 = some floor then s.flash.svnFloor.vote.2.2 else Tri.of floor } }
  s.puts 0 [(.BOOT_FW_SVN_FLOOR, floor), (.BOOT_FW_SVN, imgSvn b), (.BOOT_FW_CORE_VERSION, imgCore b), (.BOOT_FW_CP_VERSION, imgCp b), (.PART_FW_CURRENT, imgCore b),
    (.PART_FW_PREVIOUS, 0)]

/-- READY; the duration is a time, which the model leaves free (notes/assumptions/2.md). -/
def State.ready (s : State) (start : Nat) : State :=
  let (w, s) := s.free
  s.puts 0 [(.BOOT_STATUS_DURATION, w.toNat), (.BOOT_STATUS_START, start), (.BOOT_STATUS_STEP, 15), (.HST_CP_STATUS_READY, 1)]

/-- Bring-up that stops for want of firmware or factory record (R381, R382). -/
def State.bootStop (s : State) (step start : Nat) : State :=
  (s.puts 0 [(.BOOT_STATUS_STEP, step), (.BOOT_STATUS_START, start), (.HST_CP_STATUS_READY, 0)]).enterDoldrums 2

/-- Reports of a restart (R352, R360, R372, R373). -/
def State.bootReports (s : State) : State :=
  let a := s.always
  let s := if a.tripReport then
      s.event ⟨5, 11, s.get .THM_TRIP_INDEX 0, 11, 15, stSquall, 13 + placed (ofSigned 16 (10 * signedOf 8 (s.get .THM_TRIP_READING 0))) 16, 0⟩ else s
  let s := if a.failReport then s.powerEvent 73 0 0 else s
  let s := if a.brownReport then s.powerEvent 72 0 0 else s
  let s := s.powerEvent 71 0 (s.get .PWR_WAKE_SOURCE 0)
  { s with always := { s.always with tripReport := false, failReport := false, brownReport := false } }

/-! ### Warm reset (R389, R390, R369) -/

/-- Numbers of the RC fields. -/
def rcIds : List Nat :=
  (((List.range 17).flatMap moduleBlock ++ (List.range 8).flatMap siteBlock).flatMap RegName.fields).filterMap fun f => if f.acc == .rc then some f.id else none

/-- Registers that a warm reset returns whole (R7, R33, R124, R215, R237, R256, R273, R313, R358). -/
def warmRegs : List RegName :=
  [.FEN_CTL, .MRS_CTL, .SHC_CTL, .PEAT_CTL, .ZYN_LINK_CTL, .THM_CTL, .DMA_CH_CTL, .DMA_CH_RING, .DMA_CH_DONE_ADDR, .DMA_CH_STATUS, .DMA_CH_COMMIT, .DMA_CH_COUNT,
   .XNI_CTL, .XNI_PORT_CTL, .XNI_ROUTE, .XNI_STATS, .GST_SYNC_STATUS]

/-- A partition as a warm reset leaves it: restored as after a PART_RESET, or gone where its creation had not ended or its destruction had begun. -/
def State.warmPart (s : State) (p : Nat) : State :=
  let st := s.get .PART_STATUS_STATE p
  if st = 0 then s
  else if st = 1 then s.unmakePart p
  else if st = 4 then partDestroyDone p s
  else
    let lost := (s.part p).mapLost
    let s := ((if st = 3 then s else s.beginReset p).endReset p)
    if lost then s.put .PART_STATUS_STATE p 5 else s

/-- NAND operations in flight finish inside the NAND, and their blocks are UNDEFINED (R228, R411). -/
def State.nandCut (s : State) : State :=
  let s := s.nand.foldl (fun s e => e.2.blocks.foldl (fun s k => s.setBlock k { s.block k with undef := true, gaps := [(0, 1536)] }) s) s
  { s with nand := [] }

/-- Memories leave self-refresh with every debt at zero, but for those of domains that stay off. -/
def State.memoriesBack (s : State) : State :=
  let s := s.sleepUnits
  { s with selfRefresh := s.selfRefresh.filter fun e =>
      if e.1 < 816 then bitOf (s.get .PWR_STATE_CORES_OFF 0) (dieOf e.1) else bitOf (s.get .PWR_STATE_TRANSIT_OFF 0) (e.1 - 816) }

/-- Shared cache and pools zeroed (R390). -/
def State.zeroSram (s : State) : State := (List.range 816).foldl (fun s c => s.zeroStore (.pool c) 0 0x400000) (s.zeroStore .cache 0 0x18000000)

/-- Links and marsh ports train from retained results; those whose temperature has moved 15 °C train fully. -/
def State.linksBack (s : State) : State :=
  let s := (List.range 36).foldl (fun s l =>
    let k := s.link l
    let s := s.setLink l { k with d0 := LinkDir.fresh, d1 := LinkDir.fresh, groups := [], fullDue := false, chLeft := 0 }
    if l < 24 then
      let s := s.put .ZYN_LINK_STATUS_GROUP l 63
      if 0 < s.get .ZYN_LINK_STATUS_STATE l ∧ s.get .ZYN_LINK_STATUS_STATE l < 6 then s.startTraining l else s
    else
      let m := l - 24
      let t := max (signedOf 8 (s.get .MRS_STATUS_TEMP0 m)) (signedOf 8 (s.get .MRS_STATUS_TEMP1 m))
      if k.port ≠ 0 ∧ (k.port < 6 ∨ 15 ≤ (t - k.temp).natAbs) then s.startTraining l else s) s
  s.retrainMoved

/-- The flash as a loss of power leaves it: a write cut short leaves the slot unauthentic (R391). -/
def State.flashLeft (s : State) : Flash := if s.slotWriting then { s.flash with image := [] } else s.flash

/-- The fast path of R390 from a trigger: `start` 1 from Run, 2 from Deep. -/
def State.warmPath (s : State) (start : Nat) : State :=
  let s := (s.linkReset.hostDown).nandCut.savePeat
  let s := { s with cmds := [], flash := s.flashLeft }
  let ok := s.imageOk s.flash.image
  let s := (List.range 12).foldl State.warmPart (if ok then s.startImage else s)
  let s := (List.range 816).foldl State.resetCore s.zeroSram
  let s := ((s.resetFields rcIds).resetFields (warmRegs.flatMap fun r => r.fields.map Fld.id))
  let s := { s with
    engines := [], eff := [], groups := [], badGroups := [], atomHeld := [], xniHeld := [], xniWait := [], xniIn := [], stage := [], commitSites := [], sync := ⟨0, 0, false, 0, none⟩,
    mgmt := Mgmt.fresh, tapState := { s.tapState with extest := false } }
  let s := (List.range 12).foldl (fun s p => (setBits 32 (s.get .PART_DMA_MASK p)).foldl (fun s e => s.put .DMA_CH_CTL_PARTITION e p) s) s
  let s := s.puts 0 [(.BOOT_STATUS_WARM_REFUSED, 0), (.BOOT_STATUS_RETENTION_BAD, 0), (.PWR_STATE_STATE, 0), (.PWR_STATE_TARGET, 0), (.PWR_STATE_BUSY, 0),
    (.FRZ_STATUS_FROZEN, 0), (.FRZ_DUMP_ACTIVE, 0)]
  let s := s.memoriesBack.linksBack.refreshTransits (List.range 12)
  let s := if ok then s.ready start else s.bootStop 3 start
  -- XNI_PORT_CTL is back at its reset value, so no port is enabled
  let s := (List.range 16).foldl (fun s k => (s.setXport k XPort.down).put .XNI_PORT_STATUS_STATE k 0) s
  if start = 2 then s.bootReports else s

/-- A warm reset: where the retention CRC fails, a cold power-on is due instead. -/
def State.warm (s : State) (start : Nat) (kept : Bool) : State :=
  if kept then s.warmPath start
  else
    let s := (s.cutPower 3).put .BOOT_STATUS_RETENTION_BAD 0 1
    { s with always := { s.always with source := s.get .PWR_WAKE_SOURCE 0 } }

/-- A write of BOOT_CTL (R389, R399): ignored while a plan is armed, while the slot is written, and until bring-up has ended. -/
def warmWrite (v : Word) (kept : Bool) (s : State) : State :=
  if !flagOf v 0 then s
  else if s.anyArmed || !s.on .HST_CP_STATUS_READY 0 || s.slotWriting then s.put .BOOT_STATUS_WARM_REFUSED 0 1
  else s.warm 1 kept

/-- WARM_RESET. -/
def execWarmReset (v : Word) (kept : Bool) (s : State) : Host.Outcome State Fault Refusal := .next (s.whenClocked (warmWrite v kept))

/-! ### Wake (R370, R373, R375) -/

/-- A wake acted on in Deep or Off: the source and the state left are recorded; the warm-reset path follows, or a cold power-on is due. -/
def State.wakeNow (s : State) (source : Nat) (kept : Bool) : State :=
  let st := s.get .PWR_STATE_STATE 0
  let s := s.puts 0 [(.PWR_WAKE_SOURCE, source), (.PWR_WAKE_FROM_STATE, st)]
  let s := { s with always := { s.always with wakePend := none, wakeLow := !s.on .BOOT_PINS_PERST_N 0 } }
  if st = 3 then s.warm 2 kept else { s with always := { s.always with shut := 3, source := source } }

/-- A wake source fires: in Deep or Off it acts, while one of them is entered it is kept for the end of the entry. -/
def State.wakeSource (s : State) (source : Nat) (enable : Fld) (kept : Bool) : State :=
  if !s.on enable 0 ∨ s.always.shut ≠ 0 then s
  else if 3 ≤ s.get .PWR_STATE_STATE 0 then s.wakeNow source kept
  else if s.on .PWR_STATE_BUSY 0 ∧ 3 ≤ s.get .PWR_STATE_TARGET 0 ∧ s.always.wakePend = none then
    { s with always := { s.always with wakePend := some (source, kept) } }
  else s

/-- WAKE_N. -/
def execWakeN (kept : Bool) (s : State) : Host.Outcome State Fault Refusal := .next (s.wakeSource 2 .PWR_WAKE_CTL_WAKEN_EN kept)

/-- SMBUS_ADDRESS_MATCH. -/
def execSmbusAddressMatch (kept : Bool) (s : State) : Host.Outcome State Fault Refusal := .next (s.wakeSource 3 .PWR_WAKE_CTL_SMBUS_EN kept)

/-- PERST_N rising: WAKE_N is released (R370). -/
def execPerstN (kept : Bool) (s : State) : Host.Outcome State Fault Refusal :=
  .next ({ s.put .BOOT_PINS_PERST_N 0 1 with always := { s.always with wakeLow := false } }.wakeSource 4 .PWR_WAKE_CTL_PERST_EN kept)

/-- POWER_STATE_ENTERED (R367): a wake met during the entry is acted on at once. -/
def execPowerStateEntered (s : State) : Host.Outcome State Fault Refusal :=
  .next (s.whenClocked fun s =>
    let s := powerEntered s
    match s.always.wakePend with
    | some (source, kept) => if 3 ≤ s.get .PWR_STATE_STATE 0 then s.wakeNow source kept else s
    | none => s)

/-! ### Cold power-on (R377 to R388) -/

/-- Registers whose values outlive a loss of the rails: pin levels and straps, the always-on domain, the trip record, the latest readings. -/
def keptFields : List Fld :=
  [.BOOT_PINS_TRAY_PRESENT, .BOOT_PINS_PERST_N, .BOOT_PINS_STILL_N, .BOOT_PINS_GUST_SYNC, .BOOT_PINS_TRIP_DRIVEN, .BOOT_PINS_SMB_ADDR, .BOOT_STATUS_RETENTION_BAD,
   .PWR_WAKE_BROWNOUT, .PWR_WAKE_FROM_STATE, .PWR_WAKE_SOURCE, .PWR_WAKE_CTL_PERST_EN, .PWR_WAKE_CTL_SMBUS_EN, .PWR_WAKE_CTL_WAKEN_EN, .PWR_STATUS_OUT_OF_RANGE,
   .THM_TRIP_VALID, .THM_TRIP_READING, .THM_TRIP_INDEX, .THM_STATUS_TRIPS_24H, .THM_SITE_DIODE0, .THM_SITE_DIODE1, .THM_SITE_L0, .THM_IO_TEMP_TEMP,
   .MRS_STATUS_TEMP0, .MRS_STATUS_TEMP1]

/-- A block of the peat after a loss of power without a save (R228): the counters last saved, the read counter raised by a tenth of its threshold, UNDEFINED where the block was
written or erased since, or at work. -/
def State.blockLost (s : State) (k : Nat) : PeatBlock :=
  let b := SMap.get s.peatSaved k PeatBlock.fresh
  let r := saturate 32 (b.reads + disturbAt b.mode / 10)
  let lost := (s.block k).dirty || (s.block k).undef
  { b with reads := r, disturb := b.disturb || decide (disturbAt b.mode ≤ r), undef := b.undef || lost, gaps := if lost then [(0, 1536)] else b.gaps }

/-- Every block after such a loss. -/
def State.peatLost (s : State) : SMap PeatBlock :=
  ((List.range (128 * 4 * 2800)).map fun k => (k, s.blockLost k)).filter fun e => e.2 != PeatBlock.fresh

/-- The events of the read counters that such a loss has raised over their threshold (R227). -/
def State.lossDisturb (s t : State) : State :=
  t.peatBlocks.foldl (fun t e =>
    if e.2.disturb && !(SMap.get s.peatSaved e.1 PeatBlock.fresh).disturb && t.on .PEAT_CTL_DISTURB_EVENT 0 then t.peatEvent e.1 0 12 stOk 3 else t) t

/-- What the rails' loss leaves (R352): what is not volatile, what the always-on domain holds, what has gone out. An input below 20 V takes the always-on domain too. -/
def State.afterLoss (s : State) : State :=
  let off := s.always.shut = 0
  let saved := 3 ≤ s.get .PWR_STATE_STATE 0
  let t := { State.reset with
    pending := s.pending, freeCtr := s.freeCtr, hostMem := s.hostMem, hostOk := s.hostOk, msix := s.msix, mgmtOut := s.mgmtOut, answers := s.answers,
    xniOut := s.xniOut, markersOut := s.markersOut, mctpOut := s.mctpOut, msClock := s.msClock, flash := s.flashLeft, flashMap := s.flashMap, flashVer := s.flashVer,
    faults := s.faults.filter (fun e => e.2.cells), deadWires := s.deadWires, peatBlocks := if saved then s.peatSaved else s.nandCut.peatLost, peatSaved := s.peatSaved, peatBad := s.peatBad,
    peatData := s.peatData, wear := s.wearSaved, wearSaved := s.wearSaved,
    therm := { Therm.fresh with sens := s.therm.sens.map fun e => (e.1, { Sens.fresh with t := e.2.t }) },
    always := if off then { AlwaysOn.fresh with inSince := s.always.inSince } else s.always
    flds := s.flds.filter fun e => keptFields.any fun f => keyField e.1 == f.id }
  let t := if saved then t else s.lossDisturb (t.put .PEAT_STATE_COUNTERS_STALE 0 1)
  if off then t.resetFields ([RegName.PWR_WAKE, .PWR_WAKE_CTL, .THM_TRIP].flatMap fun r => r.fields.map Fld.id) |>.puts 0 [(.THM_STATUS_TRIPS_24H, 0), (.BOOT_PINS_TRIP_DRIVEN, 0)]
  else t

/-- A repair-map entry applied (R386). -/
def State.applyEntry (s : State) (w : List Word) : State :=
  let kind := fieldOf (wordAt w 0) 3 0
  let loc := (wordAt w 1).toNat
  let c := locSite loc
  match kind with
  | 1 => s.puts (ix2 4 c (bitsOf loc 12 11)) [(.ARR_COL_MAP_SPARE_USED, 1), (.ARR_COL_MAP_SPARE_FOR, bitsOf loc 19 13)]
  | 2 =>
    let key r := rowKey c (bitsOf loc 17 11) r
    let row := bitsOf loc 30 18
    let used := ((List.range 64).filter fun j => SMap.get s.rowSpares (key (row / 64 * 64 + j)) 0 != 0).length
    { s with rowSpares := SMap.set s.rowSpares (key row) (used + 1) 0 }
  | 3 => match s.freeBond loc with
    | some k => s.puts (ix2 64 c (16 * bitsOf loc 12 11 + k)) [(.FEN_BOND_SPARE_VALID, 1), (.FEN_BOND_SPARE_TARGET, bitsOf loc 20 13)]
    | none => s
  | 4 =>
    let s := match s.siteOf (bitsOf loc 3 0) (bitsOf loc 16 11) with | some old => s.put .CORE_SITE_LOGICAL old 0xFF | none => s
    s.put .CORE_SITE_LOGICAL c (bitsOf loc 16 11)
  | 5 => s.puts (bitsOf loc 3 0) [(.MRS_SPARE_STATE, 2), (.MRS_SPARE_TARGET, bitsOf loc 7 4)]
  | 6 => (s.assignWire (bitsOf loc 4 0) (bitOf loc 5) (bitsOf loc 15 6) false).getD s
  | 7 => (s.assignLane (bitsOf loc 3 0) (bitOf loc 7) (bitsOf loc 6 4) false).getD s
  | 8 => match s.devLoc loc with
    | some (st, off) => { s with retired := chunkKey st off :: s.retired }
    | none => s
  | 9 => s.put .FEN_BANK_CTL_RETIRED (ix2 128 c (bitsOf loc 17 11)) 1
  | _ => s

/-- The repair map read at step 4 (R386): a service record replaces it whole, with ORIGIN 0 (R395); entries numbered in `lost` have lost their vote. -/
def State.loadRepair (s : State) (lost : List Nat) : State :=
  let b := s.flash.service
  let s :=
    if serviceForm b && s.recordOk 3 b then
      let es := (List.range (recFeatures b)).map fun k =>
        let w := bytesToWords 2 ((b.drop (256 + 16 * k)).take 16)
        [BitVec.ofNat 64 ((wordAt w 0).toNat - placed (fieldOf (wordAt w 0) 5 4) 4), wordAt w 1]
      { s with flashMap := es, flashVer := (s.flashVer + 1) % 2 ^ 32, flash := { s.flash with service := [] } }
    else s
  let es := s.flashMap.zipIdx.map fun e => if lost.contains e.2 then (⟨some e.1, none, none⟩ : Tri (List Word)) else Tri.of e.1
  let any := es.any fun t => t.vote.1.isNone
  { s with repairMap := es, repairVer := s.flashVer }.puts 0
    [(.PART_REPAIR_VERSION, s.flashVer % 65536), (.PART_REPAIR_SAVED, 1), (.BOOT_STATUS_UNMAPPED, Bool.bit any)]

/-- Licence record and hours count as step 4 finds them (R382). -/
def State.loadLicence (s : State) (licenceOk hoursOk : Bool) : State :=
  let h := if hoursOk then s.flash.hours else 0
  let s := { s with flash := { s.flash with licence := if licenceOk && licenceForm s.flash.licence && s.recordOk 2 s.flash.licence then s.flash.licence else [], hours := h } }
  (s.put .LIC_HOURS_HOURS 0 h).showLicence (if hoursOk then inForceAt s.flash.licence h else 0)

/-- Ports that a UCIe site grants (R254); rates by RATE code in GT/s. -/
def uciePorts (modules rate : Nat) : Nat := min 4 (modules * 64 * [0, 4, 8, 12, 16, 24, 32].getD rate 0 * 9 / 10240)

/-- Whether a site's link is one that the support matrix takes (R254): 1, 2 or 4 modules, at 8 GT/s or more. -/
def ucieTakes (modules rate : Nat) : Bool := (modules == 1 || modules == 2 || modules == 4) && 2 ≤ rate && rate ≤ 6

/-- Training of a UCIe site: a link outside the support matrix stays down. -/
def State.trainUcie (s : State) (u modules rate : Nat) (repaired : Bool) : State :=
  let up := ucieTakes modules rate
  s.puts u [(.ZYN_UCIE_STATUS_PORTS, if up then uciePorts modules rate else 0), (.ZYN_UCIE_STATUS_RATE, if up then rate else 0),
    (.ZYN_UCIE_STATUS_MODULES, if up then modules else 0), (.ZYN_UCIE_STATUS_REPAIRED, Bool.bit (up && repaired)), (.ZYN_UCIE_STATUS_UP, Bool.bit up)]

/-- States 1 to 6 of a link's training at bring-up (R242). -/
def State.trainLink (s : State) (l : Nat) (tr : LinkTrain) : State :=
  let s := ((s.setLink l { Link.down with bad := tr.bad }).put .ZYN_LINK_STATUS_STATE l 4).repairLink l
  if s.get .ZYN_LINK_STATUS_STATE l = 5 then s.negotiate l tr else s

/-- Parallel training (R15, R242, R383): every link and marsh port trains but for those that stay DOWN; slices record their deskew temperature. -/
def State.trainAll (s : State) (inp : BootIn) : State :=
  let s := (List.range 24).foldl (fun s l =>
    if inp.down.any fun u => match u with | .zyn k => k.val == l | .marsh _ => false then s.put .ZYN_LINK_STATUS_STATE l 0 else s.trainLink l (inp.train l)) s
  let s := (List.range 12).foldl (fun s m =>
    if inp.down.any fun u => match u with | .zyn _ => false | .marsh k => k.val == m then s
    else s.setLink (24 + m) { Link.down with port := 6, temp := max (signedOf 8 (s.get .MRS_STATUS_TEMP0 m)) (signedOf 8 (s.get .MRS_STATUS_TEMP1 m)) }) s
  let s := inp.ucie.foldl (fun s u => s.trainUcie u.1.val u.2.1.val u.2.2.1.val u.2.2.2) s
  let s := { s with
    deskew := (List.range 816).foldl (fun m c => SMap.set m c ((s.sens (l0No c)).t, 0) (0, 0)) s.deskew
    peatTrained := (List.range 4).foldl (fun m k => SMap.set m k (s.sens (peatNo k)).t 0) s.peatTrained }
  s.refreshTransits (List.range 12)

/-- Self-test results (R385). -/
def State.showBist (s : State) (fails : List (Fin 8 × Nat × Nat × Nat)) : State :=
  let s := (fails.take 1024).zipIdx.foldl (fun s e =>
    let (t, u, i, d) := e.1
    s.puts e.2 [(.BOOT_BIST_ENTRY_TEST, t.val), (.BOOT_BIST_ENTRY_UNIT, u), (.BOOT_BIST_ENTRY_INDEX, i), (.BOOT_BIST_ENTRY_DETAIL, d)]) s
  let s := fails.foldl (fun s e =>
    let d := e.2.2.1 % 16
    if 12 ≤ d then s
    else match e.1.val with
      | 1 => s.bump .BOOT_BIST_SITES d 1
      | 2 => s.bump .BOOT_BIST_COLUMNS d 1
      | 3 => s.bump .BOOT_BIST_SRAM_WORDS d 1
      | 4 => s.bump .BOOT_BIST_FEN_ROWS d 1
      | 5 => s.bump .BOOT_BIST_MARSH_ROWS d 1
      | _ => s) s
  s.puts 0 [(.BOOT_BIST_COUNT_ENTRIES, min 1024 fails.length), (.BOOT_BIST_COUNT_OVERFLOW, Bool.bit (decide (1024 < fails.length)))]

/-- The factory record shown in the package's registers (R17). -/
def State.loadFactory (s : State) : State :=
  let f := s.flash.factory
  (List.range 12).foldl (fun s d =>
    (s.puts d [(.BOOT_DIE_INFO_DIE_STEP, f.dieStep.getD d 0), (.BOOT_DIE_INFO_STACK_STEP, f.stackStep.getD d 0)]).puts d
      [(.BOOT_THERM_PATH_PLATE_RTH, f.plateRth.getD d 0), (.BOOT_THERM_PATH_STACK_RTH, f.stackRth.getD d 0)]) (s.put .BOOT_PKG_ID_PKG_REV 0 f.pkgRev)

/-- Steps 4 to 10 (R17, R377, R383 to R387). -/
def State.bringUp (s : State) (inp : BootIn) : State :=
  let s := (s.loadFactory.loadRepair inp.lost).loadLicence inp.licenceOk inp.hoursOk
  let s := s.repairMap.foldl (fun s t => match t.vote.1 with | some w => s.applyEntry w | none => s) s
  let s := (s.trainAll inp).showBist inp.failures
  let s : State := { s with
    mem := [], sram := [], ondie := [], faults := s.faults.filter (fun e => e.2.cells), deadWires := (s.deadWires ++ inp.wires).eraseDups, phase := 0 }
  let third := s.always.tripReport && decide (3 ≤ s.always.trips.length)
  let s := (s.ready 0).bootReports
  let s := if third then s.enterDoldrums 3 else s
  (s.cmds.filter fun c => c.kind == .doldrumsExit).foldl (fun s c => s.endCmd c stOk s.gust 0 0) s

/-- Step 3 and step 4 stopped short; an exit from Doldrums mode that led here fails. -/
def State.bringUpStop (s : State) (step : Nat) : State :=
  let s := s.bootStop step 0
  (s.cmds.filter fun c => c.kind == .doldrumsExit).foldl (fun s c => s.endCmd c stDoldrums s.gust 0 0) s

/-- The sequence of R377. Before READY, after first power or on leaving Doldrums mode of cause 2 (R381), it goes on from where the module stands; otherwise the rails
have been lost. A trip holds the rails until CLEAR_TRIP. -/
def coldPowerOn (inp : BootIn) (s : State) : State :=
  if s.always.shut = 1 ∨ (s.inDoldrums ∧ !s.on .HST_CP_STATUS_READY 0 ∧ s.always.shut = 0) then s
  else
    let first := s.always.shut = 0 ∧ !s.on .HST_CP_STATUS_READY 0 ∧ s.get .PWR_STATE_STATE 0 = 0
    let straps := s.always.shut = 0 ∨ s.always.brownReport
    let source := s.always.source
    let wake := decide (s.always.shut = 3 ∧ !s.always.brownReport)
    -- R370: the management rail comes into regulation, but for a restart after CLEAR_TRIP and a warm reset that falls back
    let rises := straps || decide (3 ≤ s.get .PWR_STATE_STATE 0)
    let s := if first then s else s.afterLoss
    let s := if wake then s.put .PWR_WAKE_SOURCE 0 source else if first then s else s.put .PWR_WAKE_SOURCE 0 0
    let low := if rises then !s.on .BOOT_PINS_PERST_N 0 else s.always.wakeLow
    let s := { s with always := { s.always with shut := 0, source := 0, wakePend := none, wakeLow := low } }
    let s := if straps then s.put .BOOT_PINS_SMB_ADDR 0 (0x58 + inp.straps.val) else s
    let s := s.puts 0 [(.BOOT_STATUS_PUF_FAIL, Bool.bit !inp.pufOk), (.BOOT_PINS_REFCLK_OK, Bool.bit inp.refclk)]
    let s := if inp.floorLost then { s with flash := { s.flash with svnFloor := ⟨none, none, none⟩ } } else s
    if !s.imageOk s.flash.image then s.bringUpStop 3
    else
      let s := s.startImage
      if !inp.factoryOk then s.bringUpStop 4 else s.bringUp inp

/-- COLD_POWER_ON. -/
def execColdPowerOn (inp : BootIn) (s : State) : Host.Outcome State Fault Refusal := .next (coldPowerOn inp s)

end Sys2Proof.Machine
end

