-- ==== Sys2Proof/Machine/Rv.lean ====
section
/-!
DEFINITION. The instructions of plan code: RV64I with the M, A and C extensions in user mode (R92). R92 names the instruction set and does not lay
it out: encodings and results are those of the RISC-V unprivileged specification (PRESUMED, notes/assumptions/12.md).
-/
namespace Sys2Proof.Machine

/-- The integer operations of a register pair. -/
inductive AluOp where
  | add | sub | sll | slt | sltu | xor | srl | sra | or | and
  | mul | mulh | mulhsu | mulhu | div | divu | rem | remu
  deriving DecidableEq, Repr

/-- The second operand of an integer operation. -/
inductive RvSrc where
  | reg (r : Nat)
  | imm (v : Word)
  deriving DecidableEq, Repr

/-- The instructions that user mode may execute. -/
inductive Rv where
  | lui (rd : Nat) (v : Word)
  | auipc (rd : Nat) (v : Word)
  | jal (rd : Nat) (off : Word)
  | jalr (rd rs1 : Nat) (off : Word)
  | branch (f3 rs1 rs2 : Nat) (off : Word)
  | load (f3 rd rs1 : Nat) (off : Word)
  | store (bytes rs1 rs2 : Nat) (off : Word)
  | alu (w32 : Bool) (op : AluOp) (rd rs1 : Nat) (b : RvSrc)
  | fence
  | lr (bytes rd rs1 : Nat)
  | sc (bytes rd rs1 rs2 : Nat)
  | amo (f5 bytes rd rs1 rs2 : Nat)
  deriving DecidableEq, Repr

/-- A `w`-bit pattern as a sign-extended word. -/
def rvSext (w v : Nat) : Word := BitVec.ofInt 64 (signedOf w v)

/-! ### Results -/

/-- A signed division that rounds towards zero; by zero it gives −1, and the one overflow gives the dividend. -/
def rvDiv (a b : Int) : Int := if b = 0 then -1 else a.tdiv b
def rvRem (a b : Int) : Int := if b = 0 then a else a.tmod b

/-- A 64-bit result. The overflow of a signed division wraps to the dividend. -/
def AluOp.run (op : AluOp) (a b : Word) : Word :=
  match op with
  | .add => a + b
  | .sub => a - b
  | .sll => a <<< (b.toNat % 64)
  | .slt => if a.toInt < b.toInt then 1 else 0
  | .sltu => if a.toNat < b.toNat then 1 else 0
  | .xor => a ^^^ b
  | .srl => a >>> (b.toNat % 64)
  | .sra => BitVec.ofInt 64 (a.toInt / (2 ^ (b.toNat % 64) : Nat))
  | .or => a ||| b
  | .and => a &&& b
  | .mul => a * b
  | .mulh => BitVec.ofInt 64 (a.toInt * b.toInt / (2 ^ 64 : Nat))
  | .mulhsu => BitVec.ofInt 64 (a.toInt * (b.toNat : Int) / (2 ^ 64 : Nat))
  | .mulhu => BitVec.ofNat 64 (a.toNat * b.toNat / 2 ^ 64)
  | .div => BitVec.ofInt 64 (rvDiv a.toInt b.toInt)
  | .divu => if b.toNat = 0 then BitVec.ofInt 64 (-1) else BitVec.ofNat 64 (a.toNat / b.toNat)
  | .rem => BitVec.ofInt 64 (rvRem a.toInt b.toInt)
  | .remu => if b.toNat = 0 then a else BitVec.ofNat 64 (a.toNat % b.toNat)

/-- The 32-bit form: the low halves, the result sign-extended. -/
def AluOp.run32 (op : AluOp) (a b : Word) : Word :=
  let x := signedOf 32 a.toNat
  let y := signedOf 32 b.toNat
  let ux := a.toNat % 2 ^ 32
  let uy := b.toNat % 2 ^ 32
  let r : Int := match op with
    | .add => x + y
    | .sub => x - y
    | .sll => (ux * 2 ^ (uy % 32) : Nat)
    | .srl => (ux / 2 ^ (uy % 32) : Nat)
    | .sra => x / (2 ^ (uy % 32) : Nat)
    | .mul => x * y
    | .div => rvDiv x y
    | .divu => if uy = 0 then -1 else (ux / uy : Nat)
    | .rem => rvRem x y
    | .remu => if uy = 0 then x else (ux % uy : Nat)
    | _ => 0
  rvSext 32 (ofSigned 32 r)

/-- A branch condition by funct3. -/
def rvTaken (f3 : Nat) (a b : Word) : Bool :=
  match f3 with
  | 0 => a == b
  | 1 => a != b
  | 4 => decide (a.toInt < b.toInt)
  | 5 => decide (b.toInt ≤ a.toInt)
  | 6 => decide (a.toNat < b.toNat)
  | _ => decide (b.toNat ≤ a.toNat)

/-- Bytes of a load by funct3. -/
def rvLoadBytes (f3 : Nat) : Nat := 2 ^ (f3 % 4)

/-- The value a load gives its register. -/
def rvLoaded (f3 v : Nat) : Word := if f3 < 4 then rvSext (8 * rvLoadBytes f3) v else BitVec.ofNat 64 v

/-- What an atomic operation writes, from the old value and the operand. -/
def rvAmo (f5 bytes old b : Nat) : Nat :=
  let w := 8 * bytes
  (match f5 with
  | 0 => old + b
  | 1 => b
  | 4 => old ^^^ b
  | 8 => old ||| b
  | 12 => old &&& b
  | 16 => if signedOf w old ≤ signedOf w b then old else b
  | 20 => if signedOf w b ≤ signedOf w old then old else b
  | 24 => min old b
  | _ => max old b) % 2 ^ w

/-! ### 32-bit encodings -/

/-- OP by funct7 and funct3. -/
def rvOp (f7 f3 : Nat) : Option AluOp :=
  match f7, f3 with
  | 0, 0 => some .add
  | 32, 0 => some .sub
  | 0, 1 => some .sll
  | 0, 2 => some .slt
  | 0, 3 => some .sltu
  | 0, 4 => some .xor
  | 0, 5 => some .srl
  | 32, 5 => some .sra
  | 0, 6 => some .or
  | 0, 7 => some .and
  | 1, 0 => some .mul
  | 1, 1 => some .mulh
  | 1, 2 => some .mulhsu
  | 1, 3 => some .mulhu
  | 1, 4 => some .div
  | 1, 5 => some .divu
  | 1, 6 => some .rem
  | 1, 7 => some .remu
  | _, _ => none

/-- The operations that have a 32-bit form. -/
def AluOp.narrow : AluOp → Bool
  | .add | .sub | .sll | .srl | .sra | .mul | .div | .divu | .rem | .remu => true
  | _ => false

/-- OP-IMM and OP-IMM-32. -/
def rvImm (w32 : Bool) (w rd f3 rs1 : Nat) : Option Rv :=
  let imm := RvSrc.imm (rvSext 12 (w / 2 ^ 20))
  let sh := if w32 then bitsOf w 24 20 else bitsOf w 25 20
  let top := if w32 then bitsOf w 31 25 else 2 * bitsOf w 31 26
  match f3 with
  | 1 => if top = 0 then some (.alu w32 .sll rd rs1 (.imm (BitVec.ofNat 64 sh))) else none
  | 5 => if top = 0 then some (.alu w32 .srl rd rs1 (.imm (BitVec.ofNat 64 sh)))
         else if top = 32 then some (.alu w32 .sra rd rs1 (.imm (BitVec.ofNat 64 sh))) else none
  | 0 => some (.alu w32 .add rd rs1 imm)
  | k => if w32 then none else (rvOp 0 k).map fun op => .alu false op rd rs1 imm

/-- A 32-bit instruction word; none for what is illegal in user mode (R92). -/
def rvDecode32 (w : Nat) : Option Rv :=
  let rd := bitsOf w 11 7
  let f3 := bitsOf w 14 12
  let rs1 := bitsOf w 19 15
  let rs2 := bitsOf w 24 20
  let f7 := bitsOf w 31 25
  let immI := rvSext 12 (bitsOf w 31 20)
  match bitsOf w 6 0 with
  | 0x37 => some (.lui rd (rvSext 32 (bitsOf w 31 12 * 4096)))
  | 0x17 => some (.auipc rd (rvSext 32 (bitsOf w 31 12 * 4096)))
  | 0x6F => some (.jal rd (rvSext 21 (placed (bitsOf w 31 31) 20 + placed (bitsOf w 19 12) 12 + placed (bitsOf w 20 20) 11 + placed (bitsOf w 30 21) 1)))
  | 0x67 => if f3 = 0 then some (.jalr rd rs1 immI) else none
  | 0x63 =>
    if f3 = 2 ∨ f3 = 3 then none
    else some (.branch f3 rs1 rs2 (rvSext 13 (placed (bitsOf w 31 31) 12 + placed (bitsOf w 7 7) 11 + placed (bitsOf w 30 25) 5 + placed (bitsOf w 11 8) 1)))
  | 0x03 => if f3 = 7 then none else some (.load f3 rd rs1 immI)
  | 0x23 => if f3 < 4 then some (.store (2 ^ f3) rs1 rs2 (rvSext 12 (placed f7 5 + rd))) else none
  | 0x13 => rvImm false w rd f3 rs1
  | 0x1B => rvImm true w rd f3 rs1
  | 0x33 => (rvOp f7 f3).map fun op => .alu false op rd rs1 (.reg rs2)
  | 0x3B =>
    match rvOp f7 f3 with
    | some op => if op.narrow then some (.alu true op rd rs1 (.reg rs2)) else none
    | none => none
  | 0x0F => if f3 = 0 then some .fence else none
  | 0x2F =>
    let f5 := bitsOf w 31 27
    let n := if f3 = 2 then 4 else 8
    if f3 ≠ 2 ∧ f3 ≠ 3 then none
    else if f5 = 2 then (if rs2 = 0 then some (.lr n rd rs1) else none)
    else if f5 = 3 then some (.sc n rd rs1 rs2)
    else if [0, 1, 4, 8, 12, 16, 20, 24, 28].contains f5 then some (.amo f5 n rd rs1 rs2) else none
  | _ => none

/-! ### 16-bit encodings -/

/-- Quadrant 0 of the compressed encodings. -/
def rvQuad0 (h : Nat) : Option Rv :=
  let rd := 8 + bitsOf h 4 2
  let rs1 := 8 + bitsOf h 9 7
  let offW := BitVec.ofNat 64 (placed (bitsOf h 12 10) 3 + placed (bitsOf h 6 6) 2 + placed (bitsOf h 5 5) 6)
  let offD := BitVec.ofNat 64 (placed (bitsOf h 12 10) 3 + placed (bitsOf h 6 5) 6)
  match bitsOf h 15 13 with
  | 0 =>
    let imm := placed (bitsOf h 12 11) 4 + placed (bitsOf h 10 7) 6 + placed (bitsOf h 6 6) 2 + placed (bitsOf h 5 5) 3
    if imm = 0 then none else some (.alu false .add rd 2 (.imm (BitVec.ofNat 64 imm)))
  | 2 => some (.load 2 rd rs1 offW)
  | 3 => some (.load 3 rd rs1 offD)
  | 6 => some (.store 4 rs1 rd offW)
  | 7 => some (.store 8 rs1 rd offD)
  | _ => none

/-- The arithmetic row of quadrant 1. -/
def rvQuad1Alu (h : Nat) : Option Rv :=
  let rd := 8 + bitsOf h 9 7
  let rs2 := 8 + bitsOf h 4 2
  let sh := RvSrc.imm (BitVec.ofNat 64 (placed (bitsOf h 12 12) 5 + bitsOf h 6 2))
  match bitsOf h 11 10 with
  | 0 => some (.alu false .srl rd rd sh)
  | 1 => some (.alu false .sra rd rd sh)
  | 2 => some (.alu false .and rd rd (.imm (rvSext 6 (placed (bitsOf h 12 12) 5 + bitsOf h 6 2))))
  | _ =>
    match bitsOf h 12 12, bitsOf h 6 5 with
    | 0, 0 => some (.alu false .sub rd rd (.reg rs2))
    | 0, 1 => some (.alu false .xor rd rd (.reg rs2))
    | 0, 2 => some (.alu false .or rd rd (.reg rs2))
    | 0, 3 => some (.alu false .and rd rd (.reg rs2))
    | 1, 0 => some (.alu true .sub rd rd (.reg rs2))
    | 1, 1 => some (.alu true .add rd rd (.reg rs2))
    | _, _ => none

/-- Quadrant 1. -/
def rvQuad1 (h : Nat) : Option Rv :=
  let rd := bitsOf h 11 7
  let rs1 := 8 + bitsOf h 9 7
  let imm := rvSext 6 (placed (bitsOf h 12 12) 5 + bitsOf h 6 2)
  let offB := rvSext 9 (placed (bitsOf h 12 12) 8 + placed (bitsOf h 11 10) 3 + placed (bitsOf h 6 5) 6 + placed (bitsOf h 4 3) 1 + placed (bitsOf h 2 2) 5)
  match bitsOf h 15 13 with
  | 0 => some (.alu false .add rd rd (.imm imm))
  | 1 => if rd = 0 then none else some (.alu true .add rd rd (.imm imm))
  | 2 => some (.alu false .add rd 0 (.imm imm))
  | 3 =>
    if rd = 2 then
      let v := placed (bitsOf h 12 12) 9 + placed (bitsOf h 6 6) 4 + placed (bitsOf h 5 5) 6 + placed (bitsOf h 4 3) 7 + placed (bitsOf h 2 2) 5
      if v = 0 then none else some (.alu false .add 2 2 (.imm (rvSext 10 v)))
    else
      let v := placed (bitsOf h 12 12) 17 + placed (bitsOf h 6 2) 12
      if v = 0 then none else some (.lui rd (rvSext 18 v))
  | 4 => rvQuad1Alu h
  | 5 =>
    some (.jal 0 (rvSext 12 (placed (bitsOf h 12 12) 11 + placed (bitsOf h 11 11) 4 + placed (bitsOf h 10 9) 8 + placed (bitsOf h 8 8) 10 +
      placed (bitsOf h 7 7) 6 + placed (bitsOf h 6 6) 7 + placed (bitsOf h 5 3) 1 + placed (bitsOf h 2 2) 5)))
  | 6 => some (.branch 0 rs1 0 offB)
  | _ => some (.branch 1 rs1 0 offB)

/-- Quadrant 2. -/
def rvQuad2 (h : Nat) : Option Rv :=
  let rd := bitsOf h 11 7
  let rs2 := bitsOf h 6 2
  match bitsOf h 15 13 with
  | 0 => some (.alu false .sll rd rd (.imm (BitVec.ofNat 64 (placed (bitsOf h 12 12) 5 + rs2))))
  | 2 =>
    if rd = 0 then none
    else some (.load 2 rd 2 (BitVec.ofNat 64 (placed (bitsOf h 12 12) 5 + placed (bitsOf h 6 4) 2 + placed (bitsOf h 3 2) 6)))
  | 3 =>
    if rd = 0 then none
    else some (.load 3 rd 2 (BitVec.ofNat 64 (placed (bitsOf h 12 12) 5 + placed (bitsOf h 6 5) 3 + placed (bitsOf h 4 2) 6)))
  | 4 =>
    match bitsOf h 12 12, rs2 with
    | 0, 0 => if rd = 0 then none else some (.jalr 0 rd 0)
    | 0, _ => some (.alu false .add rd 0 (.reg rs2))
    | _, 0 => if rd = 0 then none else some (.jalr 1 rd 0)
    | _, _ => some (.alu false .add rd rd (.reg rs2))
  | 6 => some (.store 4 2 rs2 (BitVec.ofNat 64 (placed (bitsOf h 12 9) 2 + placed (bitsOf h 8 7) 6)))
  | 7 => some (.store 8 2 rs2 (BitVec.ofNat 64 (placed (bitsOf h 12 10) 3 + placed (bitsOf h 9 7) 6)))
  | _ => none

/-- A 16-bit parcel that is an instruction of its own. -/
def rvDecode16 (h : Nat) : Option Rv :=
  match h % 4 with
  | 0 => rvQuad0 h
  | 1 => rvQuad1 h
  | 2 => rvQuad2 h
  | _ => none

end Sys2Proof.Machine
end

