-- ==== Sys2Proof/Machine/ControlCore.lean ====
section
/-!
DEFINITION. The control core (R92 to R98): its address map, the issue ports, the wait and slot-end addresses, and one instruction of plan code.
Readings taken by inference (DEDUCED): notes/assumptions/13.md.
-/
namespace Sys2Proof.Machine

/-! ### Registers and fetch -/

def Core.getX (k : Core) (r : Nat) : Word := if r = 0 then 0 else SMap.get k.x r 0
def Core.setX (k : Core) (r : Nat) (v : Word) : Core := if r = 0 then k else { k with x := SMap.set k.x r v 0 }

/-- Whether a core executes plan code (R96, R98): its slot runs and has neither ended, halted, nor met a load that waits. -/
def State.coreRuns (s : State) (c : Nat) : Bool :=
  let k := s.core c
  s.get .CORE_PROG_STATUS_STATE c == 1 && !k.trapHalt && !k.slotEnd && k.waitReg.isNone && !s.inLull

/-- Bases of the address map (R93). -/
def ccPool : Nat := 0x100000000
def ccBank : Nat := 0x200000000
def ccPorts : Nat := 0x300000000
def ccRegs : Nat := 0x400000000

/-- Bytes of the active instruction bank: byte k of the bank is byte k of the segment (notes/assumptions/13.md). -/
def Core.bankBytes (k : Core) (off n : Nat) : List Byte := (List.range n).map fun j => k.active.getD (off + j) 0

/-- A 16-bit parcel at an address of the active instruction bank; execution is possible nowhere else (R93). -/
def Core.parcel (k : Core) (a : Nat) : Option Nat :=
  if ccBank ≤ a ∧ a + 2 ≤ ccBank + 0x20000 then some (ofBytesLE (k.bankBytes (a - ccBank) 2)) else none

/-- The instruction at the pc and its length: none at an access fault, an inner none where it is illegal. -/
def Core.fetch (k : Core) : Option (Option Rv × Nat) :=
  match k.parcel k.pc with
  | none => none
  | some h =>
    if h % 4 = 3 then (k.parcel (k.pc + 2)).map fun g => (rvDecode32 (h + 65536 * g), 4)
    else some (rvDecode16 h, 2)

/-! ### Loads (R93, R95, R97) -/

/-- What a load meets. -/
inductive CcLoad where
  | value (v : Nat)
  | waits
  | fault
  | bad
  deriving DecidableEq, Repr

/-- A read of `n` bytes of registers, found by `find`, four bytes at a time (R6); none where an offset holds no register. -/
def State.regBytes (s : State) (find : Nat → Option (RegName × Nat × Nat)) (off n : Nat) : Option (List Byte) × State :=
  (List.range ((off + n + 3) / 4 - off / 4)).foldl (fun acc k =>
    match acc.1, find (4 * (off / 4 + k)) with
    | some bs, some (r, i, b) =>
      let (v, s) := acc.2.readReg r i
      (some (bs ++ toBytesLE 4 (v / 2 ^ (8 * b))), s)
    | _, _ => (none, acc.2)) (some [], s)

/-- A wait on the units in a mask has completed (R95): what they wrote is seen by descriptors issued from here on. With no work anywhere, none issued before is left. -/
def Core.waited (k : Core) (m : Nat) : Core :=
  let n := k.waits + 1
  let es := k.unseen.map fun e => if e.seenFrom.isNone && bitOf m e.unit then { e with seenFrom := some n } else e
  { k with waits := n, unseen := if k.unitsDone 63 then es.filter fun e => e.seenFrom.isNone else es }

/-- A load of plan code from its address map (R93). -/
def State.ccLoad (s : State) (c a n : Nat) : CcLoad × State :=
  let k := s.core c
  let read (st : Store) (off : Nat) : CcLoad × State :=
    match s.coreRead c st off n with
    | (some bs, s) => (.value (ofBytesLE bs), s)
    | (none, s) => (.bad, s)
  if a + n ≤ 0x48000000 then
    if s.anyWithdrawn (.fen c) a n then (.fault, s) else if s.bankHeld (.fen c) a n then (.waits, s) else read (.fen c) a
  else if ccPool ≤ a ∧ a + n ≤ ccPool + 0x400000 then read (.pool c) (a - ccPool)
  else if ccBank ≤ a ∧ a + n ≤ ccBank + 0x20000 then (.value (ofBytesLE (k.bankBytes (a - ccBank) n)), s)
  else if ccPorts + 0x800 ≤ a ∧ a < ccPorts + 0xA00 ∧ n = 8 then
    let m := (a - ccPorts - 0x800) / 8
    if k.unitsDone m then (.value 0, s.setCore c (k.waited m)) else (.waits, s)
  else if ccRegs ≤ a ∧ a + n ≤ ccRegs + 0x3000 then
    match s.regBytes (siteFind c) (a - ccRegs) n with
    | (some bs, s) => (.value (ofBytesLE ((bs.drop ((a - ccRegs) % 4)).take n)), s)
    | (none, s) => (.fault, s)
  else (.fault, s)

/-! ### Stores and ports (R95) -/

/-- What a store meets. -/
inductive CcStore where
  | done
  | waits
  | fault
  deriving DecidableEq, Repr

/-- Descriptor words of each port, in the order of the unit bits. -/
def portWords (u : Nat) : Nat := [4, 2, 6, 8, 4, 6].getD u 0

/-- Whether a port's queue is full. -/
def Core.portFull (k : Core) (u : Nat) : Bool :=
  match u with
  | 0 => decide (8 ≤ k.aq.length)
  | 1 => decide (16 ≤ k.vq.length)
  | 2 => decide (16 ≤ (k.rq.filter fun o => !o.started).length)
  | 3 => decide (8 ≤ k.attq.length)
  | 4 => decide (17 ≤ k.kvq.length)
  | _ => decide (32 ≤ k.netq.length)

/-- A descriptor issued to a unit. -/
def issueTo (u c : Nat) (w : List Word) (s : State) : State :=
  match u with
  | 0 => arrIssue c w s
  | 1 => vecIssue c w s
  | 2 => reedIssue c w s
  | 3 => attIssue c w s
  | 4 => walkIssue c w s
  | _ => netIssue c w s

/-- The slot-end store (R95, R96). -/
def State.endSlot (s : State) (c : Nat) : State := s.modCore c fun k => { k with slotEnd := true }

/-- A store in the port window: the store to a descriptor's last word issues it, and waits while the queue is full. -/
def State.portStore (s : State) (c off n v : Nat) : CcStore × State :=
  if off = 0xFF8 then (.done, s.endSlot c)
  else
    let u := off / 64
    let w := off % 64 / 8
    if 6 ≤ u ∨ n ≠ 8 ∨ portWords u ≤ w then (.fault, s)
    else
      let put := s.modCore c fun k => { k with ports := SMap.set k.ports (8 * u + w) (BitVec.ofNat 64 v) 0 }
      if w + 1 < portWords u then (.done, put)
      else if (s.core c).portFull u then (.waits, s)
      else (.done, issueTo u c ((List.range (portWords u)).map fun j => SMap.get (put.core c).ports (8 * u + j) 0) put)

/-- A store of plan code to its address map (R93). -/
def State.ccStore (s : State) (c a n v : Nat) : CcStore × State :=
  let p := s.diePart (dieOf c)
  if a + n ≤ 0x48000000 then
    if s.anyWithdrawn (.fen c) a n then (.fault, s) else if s.bankHeld (.fen c) a n then (.waits, s)
    else (.done, s.planWrite p (.fen c) a (toBytesLE n v))
  else if ccPool ≤ a ∧ a + n ≤ ccPool + 0x400000 then (.done, s.planWrite p (.pool c) (a - ccPool) (toBytesLE n v))
  else if ccPorts ≤ a ∧ a + n ≤ ccPorts + 0x1000 then s.portStore c (a - ccPorts) n v
  else (.fault, s)

/-! ### One instruction (R92) -/

/-- An instruction retired: its register written and the pc moved. A trap that it caused in a unit leaves the pc. -/
def State.retire (s : State) (c rd : Nat) (v : Word) (pc : Nat) : State :=
  if (s.core c).trapHalt then s else s.modCore c fun k => { k.setX rd v with pc := pc % 2 ^ 64 }

def State.accessFault (s : State) (c : Nat) : State := s.trap c trapAccess 0 stBadPacket

/-- A load of uncorrectable data halts the control core to slot end (R97); its partition is flagged already. -/
def State.haltCore (s : State) (c : Nat) : State := s.modCore c fun k => { k with trapHalt := true }

/-- The result of a load. A load that waits at the wait port is out until WAIT_LOAD; one that waits for a bank is executed again. -/
def State.loadInto (s : State) (c rd pc a n : Nat) (f : Nat → Word) : State :=
  match s.ccLoad c a n with
  | (.value v, s) => s.retire c rd (f v) pc
  | (.waits, _) => if ccPorts ≤ a then s.modCore c fun k => { k with waitReg := some ((a - ccPorts - 0x800) / 8, rd), pc := pc % 2 ^ 64 } else s
  | (.fault, _) => s.accessFault c
  | (.bad, s) => s.haltCore c

/-- Whether an atomic instruction may act on an address: of the local pool alone (R92). -/
def ccAtomicOk (a n : Nat) : Bool := a % n == 0 && ccPool ≤ a && a + n ≤ ccPool + 0x400000

/-- One decoded instruction of `n` bytes. -/
def State.rvExec (s : State) (c : Nat) (i : Rv) (n : Nat) : State :=
  let k := s.core c
  let next := k.pc + n
  let rel (off : Word) : Nat := (BitVec.ofNat 64 k.pc + off).toNat
  let at_ (r : Nat) (off : Word) : Nat := (k.getX r + off).toNat
  match i with
  | .lui rd v => s.retire c rd v next
  | .auipc rd v => s.retire c rd (BitVec.ofNat 64 (rel v)) next
  | .jal rd off => s.retire c rd (BitVec.ofNat 64 next) (rel off)
  | .jalr rd rs1 off => s.retire c rd (BitVec.ofNat 64 next) (at_ rs1 off / 2 * 2)
  | .branch f3 rs1 rs2 off => s.retire c 0 0 (if rvTaken f3 (k.getX rs1) (k.getX rs2) then rel off else next)
  | .load f3 rd rs1 off =>
    let a := at_ rs1 off
    let b := rvLoadBytes f3
    if a % b ≠ 0 then s.accessFault c else s.loadInto c rd next a b (rvLoaded f3)
  | .store b rs1 rs2 off =>
    let a := at_ rs1 off
    if a % b ≠ 0 then s.accessFault c
    else match s.ccStore c a b ((k.getX rs2).toNat % 2 ^ (8 * b)) with
      | (.done, s) => s.retire c 0 0 next
      | (.waits, _) => s
      | (.fault, _) => s.accessFault c
  | .alu w32 op rd rs1 b =>
    let y := match b with | .reg r => k.getX r | .imm v => v
    s.retire c rd (if w32 then op.run32 (k.getX rs1) y else op.run (k.getX rs1) y) next
  | .fence => s.retire c 0 0 next
  | .lr b rd rs1 =>
    let a := at_ rs1 0
    if !ccAtomicOk a b then s.accessFault c
    else match s.ccLoad c a b with
      | (.value v, s) => (s.modCore c fun k => { k with resv := some (a - ccPool, b) }).retire c rd (rvSext (8 * b) v) next
      | (_, s) => s.haltCore c
  | .sc b rd rs1 rs2 =>
    let a := at_ rs1 0
    if !ccAtomicOk a b then s.accessFault c
    else
      let ok := k.resv == some (a - ccPool, b)
      let s := s.modCore c fun k => { k with resv := none }
      let s := if ok then (s.ccStore c a b ((k.getX rs2).toNat % 2 ^ (8 * b))).2 else s
      s.retire c rd (if ok then 0 else 1) next
  | .amo f5 b rd rs1 rs2 =>
    let a := at_ rs1 0
    if !ccAtomicOk a b then s.accessFault c
    else match s.ccLoad c a b with
      | (.value v, s) =>
        let s := (s.ccStore c a b (rvAmo f5 b v ((k.getX rs2).toNat % 2 ^ (8 * b)))).2
        s.retire c rd (rvSext (8 * b) v) next
      | (_, s) => s.haltCore c

/-- PLAN_CODE_INSTRUCTION (R92): one instruction of plan code, or a trap (R98); nothing on a core that does not execute. -/
def planCode (c : Nat) (s : State) : State :=
  if !s.coreRuns c then s
  else match (s.core c).fetch with
    | none => s.accessFault c
    | some (none, _) => s.trap c trapIllegal 0 stBadPacket
    | some (some i, n) => s.rvExec c i n

/-- PLAN_CODE_INSTRUCTION. -/
def execPlanCodeInstruction (c : Site) (s : State) : Host.Outcome State Fault Refusal := .next (s.whenClocked (planCode (siteNo c)))

/-- WAIT_LOAD (R95): the load from wait address m returns 0 to rd once the masked units have completed; until then it is out, and the core executes nothing. -/
def waitLoad (c m rd : Nat) (s : State) : State :=
  let k := s.core c
  if s.get .CORE_PROG_STATUS_STATE c ≠ 1 ∨ k.trapHalt ∨ k.slotEnd ∨ (k.waitReg != none && k.waitReg != some (m, rd)) then s
  else if k.unitsDone m then s.setCore c { (k.waited m).setX rd 0 with waitReg := none }
  else s.setCore c { k with waitReg := some (m, rd) }

/-- WAIT_LOAD. -/
def execWaitLoad (c : Site) (m : Fin 64) (rd : Fin 32) (s : State) : Host.Outcome State Fault Refusal :=
  .next (s.whenClocked (waitLoad (siteNo c) m.val rd.val))

/-- SLOT_END (R96). -/
def slotEnd (c : Nat) (s : State) : State := if s.coreRuns c then s.endSlot c else s

/-- SLOT_END. -/
def execSlotEnd (c : Site) (s : State) : Host.Outcome State Fault Refusal := .next (s.whenClocked (slotEnd (siteNo c)))

end Sys2Proof.Machine
end

