-- ==== Sys2Proof/Machine/Freeze.lean ====
section
/-!
DEFINITION. The freeze (R410 to R413) and the debug TAP (R430).
Readings taken by inference (DEDUCED): notes/assumptions/46.md.
-/
namespace Sys2Proof.Machine

/-- The clocks stop (R410, R411, R436): refresh debts are repaid and fen and marsh refresh themselves, the host sees a link down, lock is lost. SOURCE is 1 for STILL_N,
2 for FREEZE. -/
def State.freeze (s : State) (source : Nat) : State :=
  let s := (List.range 816).foldl (fun s c => if bitOf (s.get .PWR_STATE_CORES_OFF 0) (dieOf c) then s else s.fenSelfRefresh c) s
  let s := (List.range 12).foldl State.marshSelfRefresh s
  let s := (s.hostDown.puts 0 [(.FRZ_STATUS_FROZEN, 1), (.FRZ_STATUS_SOURCE, source), (.FRZ_STATUS_GUST, s.gust), (.GST_SYNC_STATUS_LOCKED, 0)]).bump .FRZ_STATUS_COUNT 0 1
  { s with tapState := { s.tapState with froze := true } }

def opFreeze : HostOp := ⟨0x44, .pfModule, []⟩

/-- FREEZE: its completion is written first. -/
def execFreeze (q : Req) (s : State) : Host.Outcome State Fault Refusal := hostRow opFreeze q [] noCheck (fun s => (s.done q stOk).freeze 2) s

/-- STILL_N held low for two REFCLK cycles: honoured while PIN_EN is set, from the end of step 4 (R431), not in Deep or Off. -/
def stillN (s : State) : State := if s.on .FRZ_CTL_PIN_EN 0 && decide (4 < s.get .BOOT_STATUS_STEP 0) then s.freeze 1 else s

/-- STILL_N. -/
def execStillN (s : State) : Host.Outcome State Fault Refusal := .next (s.whenClocked stillN)

/-- RELEASE written over the TAP (R413): the warm reset of R390, whatever plans are armed. -/
def freezeRelease (kept : Bool) (s : State) : State := if s.on .FRZ_STATUS_FROZEN 0 then (s.put .FRZ_STATUS_FROZEN 0 0).warm 1 kept else s

/-- FREEZE_RELEASE. -/
def execFreezeRelease (kept : Bool) (s : State) : Host.Outcome State Fault Refusal := .next (freezeRelease kept s)

/-! ### The TAP (R430, R431) -/

/-- The TAP is powered in Run, Idle and Sleep, and while tripped. -/
def State.tapOn (s : State) : Bool := s.get .PWR_STATE_STATE 0 < 3

/-- Bits as they shift, the first in bit 0. -/
def ofBits : List Bool → Nat
  | [] => 0
  | b :: bs => Bool.bit b + 2 * ofBits bs

/-- The bypass register: one bit, 0 at capture, before what is shifted in. -/
def State.bypassed (s : State) (bits : List Bool) : State := s.answer (.tap (ofBits ((false :: bits).take bits.length)))

/-- BYPASS. -/
def execBypass (bits : List Bool) (s : State) : Host.Outcome State Fault Refusal := .next (if s.tapOn then s.bypassed bits else s)

/-- IDCODE: version, part, manufacturer. -/
def execIdcode (s : State) : Host.Outcome State Fault Refusal :=
  .next (if s.tapOn then s.answer (.tap (placed (s.get .HST_ID_REV 0 % 16) 28 + 0x0127256B)) else s)

/-- What a boundary-scan capture shifts out: the spec does not give the chain's order, so a free value. -/
def State.captured (s : State) : State :=
  let (w, s) := s.free
  { s with tapState := { s.tapState with scanned := true } }.answer (.tap w.toNat)

/-- SAMPLE_PRELOAD. -/
def execSamplePreload (preload : List Bool) (s : State) : Host.Outcome State Fault Refusal :=
  .next (if s.tapOn then { s.captured with tapState := { s.captured.tapState with cells := preload } } else s)

/-- EXTEST: while frozen the cells drive the pins; otherwise it acts as BYPASS. -/
def extest (bits : List Bool) (s : State) : State :=
  if s.on .FRZ_STATUS_FROZEN 0 then { s.captured with tapState := { s.captured.tapState with extest := true, cells := bits } }
  else { s with tapState := { s.tapState with scanned := true } }.bypassed bits

/-- EXTEST. -/
def execExtest (bits : List Bool) (s : State) : Host.Outcome State Fault Refusal := .next (if s.tapOn then extest bits s else s)

/-- The registers that REG_ACCESS reaches, at their BAR0 offsets. -/
def tapReg (off : Nat) : Option RegName :=
  match placePf off with
  | .reg r _ 0 => if [RegName.FRZ_CTL, .FRZ_STATUS, .FRZ_DUMP, .BOOT_PINS].contains r then some r else none
  | _ => none

/-- A write over the TAP. RELEASE ends a freeze; whether the retention SRAM's CRC passes is met then: a free value. -/
def tapWrite (r : RegName) (v : Word) (s : State) : State :=
  let s := s.writeFields r 0 v.toNat (2 ^ 64 - 1)
  if r = .FRZ_CTL ∧ flagOf v 1 then
    let (w, s) := s.free
    freezeRelease (flagOf w 0) s
  else s

/-- REG_ACCESS: a 64-bit access (R430). -/
def execRegAccess (v : Word) (wr : Bool) (off : Nat) (s : State) : Host.Outcome State Fault Refusal :=
  match tapReg off with
  | none => .fault .illFormed
  | some r => .next (if !s.tapOn then s else if wr then tapWrite r v s else (s.readReg r 0).2.answer (.tap (s.readReg r 0).1))

/-- KINDs of the read-out with their sizes in MiB (R412). -/
def dumpKinds : List (Nat × Nat) := [(1, 48), (2, 3672), (3, 497), (4, 255), (5, 867), (6, 1125), (7, 432), (8, 96)]

/-- DUMP_SEL (R412): the stream, one segment for each KIND; LEVEL, UNIT, INDEX and the CRCs of data whose layout the spec does not give are free values
(notes/assumptions/46.md). -/
def dumpSel (s : State) : State :=
  let (ws, s) := s.frees 16
  let gust := BitVec.ofNat 64 (s.get .FRZ_STATUS_GUST 0)
  let heads : List (List Word) := dumpKinds.zipIdx.map fun e =>
    [BitVec.ofNat 64 (e.1.1 + placed ((wordAt ws (2 * e.2)).toNat % 2 ^ 36) 8), BitVec.ofNat 64 (e.1.2 * 2 ^ 20), gust, BitVec.ofNat 64 ((wordAt ws (2 * e.2 + 1)).toNat % 2 ^ 32)]
  let trailer : List Word := [BitVec.ofNat 64 0xFF, 0, gust, BitVec.ofNat 64 (crc32 (heads.flatMap wordsToBytes))]
  (s.puts 0 [(.FRZ_DUMP_MIB, 6992), (.FRZ_DUMP_SEGMENTS, 9), (.FRZ_DUMP_ACTIVE, 0)]).answer (.dump (heads ++ [trailer]))

/-- DUMP_SEL. -/
def execDumpSel (s : State) : Host.Outcome State Fault Refusal := .next (if s.on .FRZ_STATUS_FROZEN 0 then dumpSel s else s)

end Sys2Proof.Machine
end

