-- ==== Sys2Proof/Machine/Scrub.lean ====
section
/-!
DEFINITION. What the memories do in a lull (R24, R111, R120, R202, R204, R105, R198): the refresh catch-up, patrol scrub, deskew and channel retraining.
-/
namespace Sys2Proof.Machine

/-! ### At the start of the lull -/

/-- Refresh catch-up (R111): every fen bank that no grain holds repays its debt; a bank still held repays at its grain's end (R123). -/
def State.catchUp (s : State) : State :=
  { s with flds := s.flds.filter fun e => keyField e.1 != Fld.FEN_BANK_CTL_DEBT.id || s.on .FEN_BANK_CTL_GRAIN (keyCopy e.1) }

/-- One channel of every slice whose deskew is due (R105). -/
def State.deskewLull (s : State) : State :=
  (s.deskew.map Prod.fst).foldl (fun s c =>
    let (t, n) := SMap.get s.deskew c (0, 0)
    { s with deskew := SMap.set s.deskew c (t, n - 1) (0, 0) }) s

/-- One channel of every marsh port that retrains (R198); the last one records the temperature. -/
def State.channelLull (s : State) : State :=
  (List.range 12).foldl (fun s m =>
    let k := s.link (24 + m)
    if k.port ≠ 6 ∨ k.chLeft = 0 then s
    else if 1 < k.chLeft then s.setLink (24 + m) { k with chLeft := k.chLeft - 1 }
    else
      let t := max (signedOf 8 (s.get .MRS_STATUS_TEMP0 m)) (signedOf 8 (s.get .MRS_STATUS_TEMP1 m))
      (s.setLink (24 + m) { k with chLeft := 0, temp := t }).endRetrain 1 m 0 6) s

/-! ### Patrol scrub (R120, R202, R204) -/

def State.scrubAt (s : State) (u : Nat) : Nat := SMap.get s.scrubPos u 0
def State.setScrub (s : State) (u v : Nat) : State := { s with scrubPos := SMap.set s.scrubPos u v 0 }

/-- Whether position `x` of `total` is among the `n` from `pos` on, wrapping. -/
def inTurn (pos n total x : Nat) : Bool := decide ((x + total - pos % total) % total < n)

/-- One transfer met by scrub: a correction is written back, an uncorrectable transfer is logged with the scrub flag and left. -/
def State.scrubTransfer (s : State) (st : Store) (off key : Nat) : State :=
  let (f, s) := s.met st off key
  if f = MemFault.clean then s
  else
    let o := f.outcome
    let s := s.countEcc st off o true
    let s := s.eccEvents (s.eccNotes st off o true)
    match o.bad, o.symbol with
    | false, some _ =>
      let s := match st with
        | .fen c => s.bump .FEN_ECC_COUNT_SCRUB_CORRECTED c 1
        | .marsh m => s.bump .MRS_ECC_COUNT_SCRUB_CORRECTED m 1
        | _ => s
      (s.copyWrite key o.left false).layDamage st off key
    | _, _ => s

/-- Rows of a slice: 4,752 physical rows of 128 banks. -/
def fenRows : Nat := 4752 * 128

/-- Keys of the transfers of one row of a slice, by its place in the scrub's order: banks 0 to 127 at each physical row (R120). -/
def fenRowKeys (site place : Nat) : List Nat :=
  let bank := place % 128
  (List.range 32).map fun t => (sliceKeys site).1 + (place / 128 * 128 + 4 * (bank % 32) + bank / 32) * 32 + t

/-- A slice's rows of this lull: none while it carries commit writes or refreshes itself. Rows no longer in use and retired chunks are passed over. -/
def State.scrubFen (s : State) (c : Nat) : State :=
  let n := s.inForce .FEN_CTL_SCRUB_ROWS c
  if n = 0 ∨ s.commitSites.contains c ∨ SMap.get s.selfRefresh c false then s
  else
    let pos := s.scrubAt c
    let (lo, hi) := sliceKeys c
    let s := if (s.metKeys lo hi).isEmpty then s
      else (List.range n).foldl (fun s k => (fenRowKeys c ((pos + k) % fenRows)).foldl (fun s key =>
        match s.logicalOff c (64 * (key - lo)) with
        | some off => if s.retired.contains (chunkKey (.fen c) off) then s else s.scrubTransfer (.fen c) off key
        | none => s) s) s
    let next := (pos + n) % fenRows
    let s := if pos + n < fenRows then s else s.bump .FEN_SCRUB_STATUS_PASSES c 1
    (s.put .FEN_SCRUB_STATUS_ROW c (next / 128)).setScrub c next

/-- Rows of a marsh channel. -/
def marshRows : Nat := 3145728

/-- A stack's rows of this lull, in every channel at once. -/
def State.scrubMarsh (s : State) (m : Nat) : State :=
  let n := s.inForce .MRS_CTL_SCRUB_ROWS m
  if n = 0 ∨ SMap.get s.selfRefresh (816 + m) false then s
  else
    let pos := s.scrubAt (816 + m)
    let s := if (s.metKeys (stackKey m) (stackKey m + 2 ^ 31)).isEmpty then s
      else (List.range n).foldl (fun s k => (List.range 512).foldl (fun s t =>
        let off := ((pos + k) % marshRows * 512 + t) * 64
        if s.retired.contains (chunkKey (.marsh m) off) then s else s.scrubTransfer (.marsh m) off (stackKey m + off / 64)) s) s
    s.setScrub (816 + m) ((pos + n) % marshRows)

/-- One faulty word of the shared cache met by scrub: a correction is counted and written back (notes/assumptions/47.md), an uncorrectable word is logged. -/
def State.scrubWord (s : State) (key pattern : Nat) : State :=
  let v := secded 72 pattern
  let s := s.countSram .cache v
  match v with
  | .corrected => { s with sram := SMap.set s.sram key 0 0 }
  | .bad => s.eccEvent (.uncorrectable .cache (8 * key - 0x40000000000) true)
  | _ => s

/-- KiB of the shared cache. -/
def cacheKib : Nat := 393216

def State.scrubCache (s : State) : State :=
  let n := s.inForce .SHC_CTL_SCRUB_KIB 0
  if n = 0 then s
  else
    let pos := s.scrubAt 828
    let lo := 0x40000000000 / 8
    let s := (s.sram.range lo (lo + cacheKib * 128)).foldl (fun s e => if inTurn pos n cacheKib ((e.1 - lo) / 128) then s.scrubWord e.1 e.2 else s) s
    s.setScrub 828 ((pos + n) % cacheKib)

/-- Corrections that the layers made, gathered in each lull (R124). -/
def State.gatherOnDie (s : State) : State :=
  let s' := s.ondie.foldl (fun s e =>
    if e.1 < 816 then s.bump .FEN_ECC_COUNT_ONDIE_CORRECTED e.1 e.2 else s.bump .MRS_ECC_COUNT_ONDIE_CORRECTED (e.1 - 816) e.2) s
  { s' with ondie := [] }

/-- The scrub of one lull, whole (notes/assumptions/47.md); Doldrums mode and Sleep have none. -/
def State.scrubLull (s : State) : State :=
  let s := if s.inDoldrums then s
    else ((List.range 12).foldl State.scrubMarsh ((List.range 816).foldl State.scrubFen s)).scrubCache
  s.gatherOnDie

end Sys2Proof.Machine
end

