-- ==== Sys2Proof/Machine/Gust.lean ====
section
/-!
DEFINITION. The gust (R18 to R36, R211 to R213, R269): the lull and its squall check, the decision, commit and rewind, the guard, the boundary, alignment,
regulator refills. A boundary met before the earlier events of its lull brings them about first (notes/assumptions/48.md).
Readings taken by inference (DEDUCED): notes/assumptions/14.md, notes/assumptions/15.md.
-/
namespace Sys2Proof.Machine

/-- An event of the gust happens while clocks run and boundaries come (R366). -/
def State.whenGusts (s : State) (f : State → State) : State := if s.clocked && s.gustsRun then f s else s

/-- Partitions whose job runs. -/
def State.runningParts (s : State) : List Nat := (List.range 12).filter fun p => (s.part p).running

/-! ### LULL_START (R19, R24) -/

/-- Cores of a partition that have not reached the end of their slot. -/
def State.notEnded (s : State) (p : Nat) : List Nat := (s.partSites p).filter fun c => !(s.core c).ended

/-- Whether the gust of a partition is incomplete when the lull begins (R19, R25, R184, R268, R310). -/
def State.incomplete (s : State) (p : Nat) : Bool :=
  !(s.notEnded p).isEmpty || (s.partEngines p).any s.dmaIncomplete || (s.xniHeld.any fun h => h.part == p) ||
    (s.atomHeld.any fun a => a.1 == p) || (s.part p).refused ||
    (s.partDies p).any fun d => decide (hdrCommitMax ((s.armedHdr p).getD []) < (SMap.get s.stage d []).length)

/-- The squall check of a partition: its flag, and a record of the cores that had not ended. -/
def State.squallCheck (s : State) (p : Nat) : State :=
  if s.incomplete p then
    (s.flagPart p 1 stSquall).event ⟨5, 12, 0, 7, p, stSquall, (s.notEnded p).length, s.get .GST_PART_STEP_STEP p⟩
  else s

/-- Host-driven engines at work under an armed plan are suspended in the lull (R32); not a stop. -/
def State.suspendDma (s : State) : State :=
  (List.range 32).foldl (fun s e =>
    let p := s.enginePart e
    if !s.planDriven e && (s.engine e).cur.isSome && decide (p < 12) && s.armed p then s.put .DMA_CH_STATUS_SUSPENDED e 1 else s) s

/-- The work window ends. -/
def lullStart (s : State) : State :=
  if s.phase ≠ 0 then s
  else { (((s.runningParts.foldl State.squallCheck { s with phase := 1 }).catchUp).deskewLull).channelLull.suspendDma with phase := 1 }

/-- LULL_START. -/
def execLullStart (s : State) : Host.Outcome State Fault Refusal := .next (s.whenGusts lullStart)

/-! ### COMMIT_DECISION (R27, R29 to R31) -/

/-- Roots of a partition that its dies have staged words of (R184), by die. -/
def State.stagedRoots (s : State) (p : Nat) : List (Nat × Nat) :=
  let base := s.rootAt p 0 0
  let n := s.get .KVW_ROOT_COUNT_COUNT p
  ((s.partDies p).flatMap fun d => (SMap.get s.stage d []).filterMap fun e =>
    if !e.2.1 && base ≤ e.1 && e.1 < base + 96 * n then some (d, (e.1 - base) / 32 % n) else none).eraseDups

/-- The vote of every triplicated word of a commit set, before the decision (R24). -/
def State.preVote (s : State) (p : Nat) : State :=
  (s.stagedRoots p).foldl (fun s e =>
    match s.readRoot none p (some e.1) e.2 with
    | (.lost, s) => s.flagPart p 4 stVoteLost
    | (_, s) => s) s

/-- A partition rewinds (R29): its gust is undone, the rewind counted and recorded. The third counted rewind within 64 gusts, or one with the commit word's
vote lost (`last`), stops the job and loses the partition (R31). -/
def State.rewind (s : State) (p cause status : Nat) (last : Bool := false) : State :=
  let s := (s.rewindGust p).jobEvent p 1 status
  let ws := if cause = 6 then (s.part p).rewinds else s.gust :: (s.part p).rewinds
  let ws := ws.filter fun g => s.gust < g + 64
  let s := s.modPart p fun x => { x with flag := none, refused := false, decision := some false, lastStatus := status, rewinds := ws }
  let s := (s.puts p [(.GST_PART_STATE_LAST_CAUSE, cause), (.GST_PART_STATE_REWINDS_IN_WINDOW, min 3 ws.length)]).bump .GST_PART_REWINDS_COUNT p 1
  if last ∨ (cause ≠ 6 ∧ 3 ≤ ws.length) then (s.stopJob p status).losePart p status else s

/-- A staged word as it commits: a directory entry with its COMMITTED bit (R184). -/
def committedWord (entry : Bool) (w : Word) : Word := if entry && !flagOf w 6 then BitVec.ofNat 64 (w.toNat + 64) else w

/-- The staged words of a partition's dies, in ascending die order, as they commit. -/
def State.stagedWords (s : State) (p : Nat) : List (Nat × Word) :=
  (s.partDies p).flatMap fun d => (SMap.get s.stage d []).map fun e => (e.1, committedWord e.2.1 e.2.2)

/-- The commit writes of a partition (R27): the staged values first, each copy of a triplicated word among them; the commit word in three copies last.
The values they replace are kept until the commit word's vote, so that an interruption leaves the previous commit. -/
def State.startCommit (s : State) (p : Nat) : State :=
  let ws := s.stagedWords p
  let old := ws.map fun e => (e.1, s.wordNow e.1)
  let s := s.commitWrites ws
  let s := { s with stage := (s.partDies p).foldl (fun m d => m.erase d) s.stage }
  s.modPart p fun x => { x with decision := some true, committed := false, undo := old, commitWord := Tri.of s.gust }

/-- One partition at the decision point: one that runs commits or rewinds; of one that does not, the waiting KV commands are applied (R191). -/
def State.commitOrRewind (s : State) (p : Nat) : State :=
  if !(s.part p).running then (if 2 ≤ s.get .PART_STATUS_STATE p then s.kvApply p else s).mboxNotices p
  else
    let s := s.preVote p
    match (s.part p).flag with
    | some (cause, status) => (s.rewind p cause status).mboxNotices p
    | none => s.startCommit p

/-- The decision point; notices that wait for a lull are sent (R288). -/
def commitDecision (s : State) : State :=
  let s := lullStart s
  if s.phase ≠ 1 then s else { ((List.range 12).foldl State.commitOrRewind s.sendReplans) with phase := 2 }

/-- COMMIT_DECISION. -/
def execCommitDecision (s : State) : Host.Outcome State Fault Refusal := .next (s.whenGusts commitDecision)

/-! ### COMMIT_COMPLETE (R24, R26, R27) -/

/-- A commit whose word is known (R27): what the gust staged becomes committed, and everything that follows a commit. -/
def State.commit (s : State) (p : Nat) : State :=
  let step := (s.get .GST_PART_STEP_STEP p + 1) % 2 ^ 48
  let s := (s.put .GST_PART_STEP_STEP p step).put .GST_PART_COMMIT_GUST p s.gust
  let s := (s.modPart p fun x => { x with undo := [], wrote := [], refused := false }).captureCarried p
  let s := (s.partEngines p).foldl State.dmaCommit s
  (((s.mboxNotices p).kvApply p).meter p).modPart p fun x => { x with committed := true }

/-- A commit broken off (R255): the commit word is not written, so the word of the previous commit stands, and the gust rewinds. -/
def State.breakCommit (s : State) (p cause status : Nat) : State :=
  (s.modPart p fun x => { x with commitWord := Tri.of (s.get .GST_PART_COMMIT_GUST p) }).rewind p cause status

/-- The commit of one partition completes once its commit word is known; a lost vote rewinds the gust, stops the job and loses the partition (R31). A fault met
while the commit writes are on their way breaks it off. -/
def commitComplete (p : Nat) (s : State) : State :=
  let x := s.part p
  if !x.running || x.decision != some true || x.committed || s.phase ≠ 2 then s
  else
    match x.flag with
    | some (cause, status) => (s.breakCommit p cause status).mboxNotices p
    | none =>
      let (v, repaired, t) := x.commitWord.vote
      let s := (s.modPart p fun x => { x with commitWord := t }).voteOutcome p 6 p v.isSome repaired
      if v = some s.gust then s.commit p
      else (s.rewind p 4 stVoteLost true).mboxNotices p

/-- COMMIT_COMPLETE: the decision comes before it. -/
def execCommitComplete (p : Fin 12) (s : State) : Host.Outcome State Fault Refusal := .next (s.whenGusts fun s => commitComplete p.val (commitDecision s))

/-! ### GUARD_INTERVAL (R24, R34, R94) -/

/-- The configuration records of a plan that will be armed at the boundary (R94). -/
def State.guardConfig (s : State) : State :=
  (List.range 12).foldl (fun s p =>
    let due := s.cmds.any fun c => c.q.part.val == p && (match c.kind with | .boundary (.planArm g) => s.armDue p g (s.gust + 1) | _ => false)
    if !due then s
    else match s.armCheck p with
      | (.ok _, _) => s.applyConfig p
      | (.error _, _) => s) s

/-- Sync correction through the guard: at most 1 µs per gust (R34). -/
def syncStep (off : Int) : Int := off - max (-1000) (min 1000 off)

/-- The guard: commits are complete, scrub has run, rows are copied to their spares (R118), configuration is written, timing corrected. -/
def guardInterval (s : State) : State :=
  let s := commitDecision s
  if s.phase ≠ 2 then s
  else
    let s := (List.range 12).foldl (fun s p => commitComplete p s) s
    let s := s.scrubLull.rowCopies.guardConfig
    { s with phase := 3, sync := { s.sync with pendingNs := if s.anyArmed then syncStep s.sync.pendingNs else s.sync.pendingNs } }

/-- GUARD_INTERVAL. -/
def execGuardInterval (s : State) : Host.Outcome State Fault Refusal := .next (s.whenGusts guardInterval)

/-! ### At the boundary: samples and accounts (R213, R349, R403) -/

/-- The slot that a core runs in a gust of a plan: the partition's step in the plan's cycle (R20). -/
def State.slotOf (s : State) (p : Nat) (h : List Word) : Nat := (s.get .GST_PART_STEP_STEP p - (s.part p).base) % max 1 (hdrSlots h)

/-- The slack of one site in the gust that ends (R403), and the level that fits it (R349); times are free values (notes/assumptions/2.md). -/
def State.slackSample (s : State) (c : Nat) : State :=
  let period : Nat := s.get .GST_PERIOD_PERIOD 0 * 100
  let lull : Nat := s.get .GST_LULL_LULL 0 * 100
  let window : Int := (period : Int) - lull
  let idle := flagOf (BitVec.ofNat 64 (slotEntry (s.core c).active (s.get .CORE_PROG_STATUS_SLOT c))) 56
  let (ws, s) := s.frees 3
  let slack : Int := if idle then window else if !(s.core c).ended then -(lull : Int) else window - ((wordAt ws 0).toNat % max 1 period : Nat)
  let work : Nat := if idle then 0 else (wordAt ws 1).toNat % max 1 period
  let gaps : Nat := if idle then 0 else (wordAt ws 2).toNat % max 1 period
  let s := s.monSample c slack
  { s with therm := { s.therm with fits := SMap.set s.therm.fits c (fitOf work (slack + gaps) :: (SMap.get s.therm.fits c []).take 63) [] } }

/-- Slack of every site whose partition runs a plan. -/
def State.slackSamples (s : State) : State := (s.runningParts.flatMap s.partSites).foldl State.slackSample s

/-- Replays of the gust, by link and port (R403). -/
def State.retrySamples (s : State) : State :=
  let s := (List.range 24).foldl (fun s l =>
    (s.monSample (monLinkRetry + l) (s.link l).replays).setLink l { s.link l with replays := 0 }) s
  (List.range 16).foldl (fun s k =>
    (s.monSample (monPortRetry + k) (s.xport k).replays).setXport k { s.xport k with replays := 0 }) s

/-- Account fields of a regulator: BYTES_KIB, WAIT_US, CEILING_HIT. -/
def accFields (res : Nat) : Fld × Fld × Fld :=
  if res < 12 then (.MRS_REG_ACC_BYTES_KIB, .MRS_REG_ACC_WAIT_US, .MRS_REG_ACC_CEILING_HIT)
  else if res = resCache then (.SHC_REG_ACC_BYTES_KIB, .SHC_REG_ACC_WAIT_US, .SHC_REG_ACC_CEILING_HIT)
  else if res = resPeat then (.PEAT_REG_ACC_BYTES_KIB, .PEAT_REG_ACC_WAIT_US, .PEAT_REG_ACC_CEILING_HIT)
  else (.DMA_REG_ACC_BYTES_KIB, .DMA_REG_ACC_WAIT_US, .DMA_REG_ACC_CEILING_HIT)

/-- One regulator's account latched, and a new one started. -/
def State.latchAccount (s : State) (res p : Nat) : State :=
  let x := s.reg res p
  let i := (regFields res p).2.2
  let (b, w, h) := accFields res
  (s.puts i [(b, saturate 32 (x.bytes / 1024)), (w, saturate 16 x.waitUs), (h, Bool.bit x.hit)]).setReg res p { x with bytes := 0, waitUs := 0, hit := false }

def State.latchAccounts (s : State) : State :=
  (List.range 12).foldl (fun s p => resources.foldl (fun s r => s.latchAccount r.1 p) s) s

/-- Background allowances of the next gust (R32): what exceeds an allowance is charged to the gusts that follow. -/
def State.newAllowances (s : State) (p : Nat) : State :=
  match (s.part p).armed with
  | none => s.modPart p fun x => { x with bgUsed := [] }
  | some _ =>
    let h := (s.armedHdr p).getD []
    s.modPart p fun x => { x with bgUsed := (List.range 5).foldl (fun m b => SMap.set m b (SMap.get m b 0 - bgField h b * 65536) 0) x.bgUsed }

/-! ### At the boundary: commands (R284) -/

/-- A boundary command that waits for a later boundary than the one that starts this gust. -/
def State.notDue (s : State) (c : Cmd) : Bool :=
  match c.kind with
  | .boundary (.planArm g) => !s.armDue c.q.part.val g s.gust
  | .boundary (.gustSet g _ _ _) => !s.boundaryDue g
  | .boundary (.jobStart g) => !s.boundaryDue g
  | .boundary (.retirePage g _) => !s.boundaryDue g
  | .boundary (.retireBank g _) => !s.boundaryDue g
  | .boundary (.spare g _ _ _) => !s.boundaryDue g
  | _ => false

/-- A PLAN_ARM of a partition that takes effect at this boundary. -/
def State.dueArm (s : State) (p : Nat) : Option Cmd :=
  s.cmds.find? fun c => c.q.part.val == p && (match c.kind with | .boundary (.planArm g) => s.armDue p g s.gust | _ => false)

/-- A JOB_START takes effect: a PLAN_ARM due at this boundary counts as armed, so it comes first (R31). -/
def State.startDue (s : State) (c : Cmd) : State :=
  let s := if s.armed c.q.part.val then s
    else match s.dueArm c.q.part.val with
      | some a => s.armEffect a
      | none => s
  s.startEffect c

/-- A boundary command takes effect. -/
def State.boundaryEffect (s : State) (c : Cmd) (b : BCmd) : State :=
  match b with
  | .planArm _ => s.armEffect c
  | .planDisarm => s.disarmEffect c
  | .gustSet _ period lull renumber => s.gustSetEffect c period lull renumber
  | .jobStart _ => s.startDue c
  | .jobStop => s.stopEffect c
  | .retirePage _ a => s.retirePageEffect c a
  | .retireBank _ loc => s.retireBankEffect c loc
  | .spare g kind loc copied => (s.spareEffect c g kind loc copied).getD s
  | .monConfig i w => s.monEffect c i w

/-- One command of those in progress at a boundary. -/
def State.boundaryOne (s : State) (c : Cmd) : State :=
  if !s.cmds.contains c || s.notDue c then s
  else match c.kind with
    | .boundary b => s.boundaryEffect c b
    | .migrateSite _ _ _ _ _ | .migrateChannel _ _ _ _ => let t := s.migrationSwitch c; if t.cmds.contains c then t.migrationStart c else t
    | _ => s

/-- Every command that waits for a boundary, in start order (R284). -/
def State.boundaryCmds (s : State) : State := s.cmds.foldl State.boundaryOne s

/-- Jobs stopped by the link rule (R275). -/
def State.linkStops (s : State) : State := (List.range 12).foldl (fun s p => if (s.part p).linkStop then s.stopAtBoundary p else s) s

/-- The vote of the gust's settings (R325, R327): lost, every running job stops at its last commit. -/
def State.voteGust (s : State) : State :=
  let (v, repaired, t) := s.gustWords.vote
  if v.isNone ∧ s.runningParts = [] then s
  else
    let s := { s with gustWords := t }.voteOutcome 15 7 0 v.isSome repaired
    if v.isSome then s else s.runningParts.foldl (fun s p => s.stopJob p stVoteLost stOk) s

/-! ### At the boundary: slots (R20, R28, R96) -/

/-- The producer indices of the rings of a partition's function (R28; notes/assumptions/49.md). -/
def State.inputRings (s : State) (p : Nat) : List (Nat × Nat) :=
  let f := s.partVf p
  if f = 0 then [] else (s.ringsOf f).map fun r => (r, (s.ring r).tail)

/-- The input snapshot (R28): taken for a plan step once, at the boundary where the step has advanced or its job starts, and never again for that step. -/
def State.snapInputs (s : State) (p : Nat) : State :=
  let x := s.part p
  let step := s.get .GST_PART_STEP_STEP p
  if (x.committed || x.running) && !x.snapshot.any (fun e => e.1 == step) then s.modPart p fun x => { x with snapshot := some (step, s.inputRings p) } else s

/-- A core starts slot `k` of its active segment (R96). -/
def State.startSlot (s : State) (p k c : Nat) : State :=
  let seg := (s.core c).active
  let e := slotEntry seg k
  let idle := bitOf e 56
  let x : SMap Word := [(2, 0x100400000), (10, BitVec.ofNat 64 k), (11, BitVec.ofNat 64 (s.get .GST_PART_STEP_STEP p)), (12, BitVec.ofNat 64 (s.get .CORE_SITE_LOGICAL c)),
    (13, BitVec.ofNat 64 (s.dieOrdinal p (dieOf c)))].filter fun e => e.2 != 0
  let s := s.modCore c fun q => { q with
    x := x
    pc := ccBank + (SegHdr.of seg).code + bitsOf e 31 0
    resv := none, trapHalt := false, waits := 0, unseen := [], slotEnd := idle, ports := [], waitReg := none, v := [], k := [], topk := [], topN := 1, drain := [] }
  s.puts c [(.CORE_PROG_STATUS_SLOT, k), (.CORE_PROG_STATUS_STATE, if idle then 2 else 1)]

/-- A running partition at the boundary: whether it repeats a gust, and its slot. A header whose vote is lost flags it (R327). -/
def State.startGust (s : State) (p : Nat) : State :=
  let x := s.part p
  if !x.running then s
  else
    let s := if x.decision.isSome then s.put .GST_PART_STATE_RERUN p (Bool.bit (x.decision == some false)) else s
    match x.armed with
    | none => s
    | some t =>
      let (v, t, s) := s.votePlan p t
      let s := s.modPart p fun x => { x with armed := some t }
      match v with
      | none => s.flagPart p 4 stVoteLost
      | some h => (s.partSites p).foldl (fun s c => s.startSlot p (s.slotOf p h) c) s

/-- Rewinds that have left the window of 64 gusts (R31). -/
def State.ageRewinds (s : State) (p : Nat) : State :=
  let x := s.part p
  if x.rewinds.isEmpty then s
  else
    let ws := x.rewinds.filter fun g => s.gust < g + 64
    (s.modPart p fun x => { x with rewinds := ws }).put .GST_PART_STATE_REWINDS_IN_WINDOW p (min 3 ws.length)

/-- What every core loses at a boundary: look-aside buffer and root cache (R183), tiles in the cells (R48), VEC_RESULT (R100). -/
def State.clearCaches (s : State) : State :=
  ((s.cores.map Prod.fst).foldl (fun s c => s.modCore c fun k => { k with lb := [], rootCache := [], tiles := [] }) s).resetFields [Fld.VEC_RESULT_LANE.id]

/-! ### At the boundary: alignment (R33, R34) -/

/-- A class 15 record: bit 2 PIN_REJECT, 1 NUM_MISMATCH, 0 LOSS, with the measured offset. -/
def State.syncEvent (s : State) (bits : Nat) (off : Int) : State := s.event ⟨5, 12, 0, 15, 15, stOk, bits, ofSigned 64 off⟩

/-- Whether the boundary source is the reference clock (R33: 3 counts as 0). -/
def State.localSource (s : State) : Bool := s.get .GST_SYNC_CTL_SRC 0 == 0 || s.get .GST_SYNC_CTL_SRC 0 == 3

/-- Alignment at a boundary: an offset above 1 µs is removed with no plan armed, a number adopted, a missing marker counted; two lose the lock. -/
def State.syncBoundary (s : State) : State :=
  if s.localSource then { s.put .GST_SYNC_STATUS_LOCKED 0 0 with sync := ⟨0, 0, false, 0, none⟩ }
  else
    let y := s.sync
    let free := !s.anyArmed
    let s := match y.adopt with
      | some n => if free then s.put .GST_NUMBER_NUMBER 0 n else s
      | none => s
    let left := if !free then y.pendingNs else if 1000 < y.pendingNs.natAbs then 0 else syncStep y.pendingNs
    let missed := if y.seen then 0 else y.missed + 1
    let s := { s with sync := ⟨if y.seen then y.good else 0, missed, false, left, none⟩ }
    if 2 ≤ missed ∧ s.on .GST_SYNC_STATUS_LOCKED 0 then
      (s.puts 0 [(.GST_SYNC_STATUS_LOCKED, 0), (.GST_SYNC_STATUS_LOSS, 1)]).syncEvent 1 (signedOf 16 (s.get .GST_SYNC_STATUS_OFFSET 0))
    else s

/-! ### GUST_BOUNDARY (R24) -/

/-- The boundary edge: samples and accounts of the gust that ends, the number, what waited for a boundary, then the slots of the gust that starts. -/
def gustBoundary (s : State) : State :=
  let s := guardInterval s
  let s := (s.slackSamples.retrySamples).latchAccounts
  let s := { s.put .GST_NUMBER_NUMBER 0 (s.gust + 1) with phase := 0, eff := [], groups := [], badGroups := [] }
  let s := ((s.clearCaches.applyPeatMap).monBoundary).linkStops
  let s := (((s.boundaryCmds.meterBoundary).powerBoundary).dieBoundary).portsBoundary
  let s := (List.range 12).foldl State.snapInputs s.voteGust.syncBoundary
  let s := (List.range 12).foldl (fun s p => ((s.ageRewinds p).startGust p).newAllowances p) s
  let s := { s with commitSites := [], always := { s.always with refBack := false } }.put .BOOT_PINS_REFCLK_OK 0
    (if s.always.refBack then 1 else s.get .BOOT_PINS_REFCLK_OK 0)
  let s := (List.range 12).foldl (fun s p => s.modPart p fun x => { x with decision := none, committed := false }) s
  let s := (List.range 32).foldl (fun s e => s.put .DMA_CH_STATUS_SUSPENDED e 0) s
  let s := (s.cores.map Prod.fst).foldl (fun s c => (s.resumeGrains c).reedPass 17 c) s
  { s.retryAll with phase := 0 }

/-- GUST_BOUNDARY. -/
def execGustBoundary (s : State) : Host.Outcome State Fault Refusal := .next (s.whenGusts gustBoundary)

/-! ### GUST_SYNC_EDGE, MARKER_SEND, GUST_MARKER (R33, R34, R269) -/

/-- An edge or marker taken: its offset, lock after four in a row within 25 ns, the correction to apply. -/
def State.syncTaken (s : State) (off : Int) : State :=
  let good := if off.natAbs ≤ 25 then s.sync.good + 1 else 0
  let s := s.put .GST_SYNC_STATUS_OFFSET 0 (ofSigned 16 (max (-32767) (min 32767 off)))
  let s := { s with sync := { s.sync with good := good, missed := 0, seen := true, pendingNs := off } }
  if 4 ≤ good then s.put .GST_SYNC_STATUS_LOCKED 0 1 else s

/-- An edge on GUST_SYNC, `off` ns from its expected time. -/
def gustSyncEdge (off : Int) (s : State) : State :=
  if s.get .GST_SYNC_CTL_SRC 0 ≠ 1 then s
  else if 1000 < off.natAbs then (s.put .GST_SYNC_STATUS_PIN_REJECT 0 1).syncEvent 4 off
  else s.syncTaken off

/-- GUST_SYNC_EDGE. -/
def execGustSyncEdge (off : Int) (s : State) : Host.Outcome State Fault Refusal := .next (s.whenGusts (gustSyncEdge off))

/-- Ports of RELAY_MASK that carry traffic. -/
def State.relayPorts (s : State) : List Nat := (List.range 16).filter fun k => bitOf (s.get .GST_SYNC_CTL_RELAY_MASK 0) k && s.portUp k

/-- A marker sent on every relay port; LEAD is in ps, and a marker whose lead is used up carries none (R269). -/
def State.sendMarkers (s : State) (num hops lead : Nat) : State :=
  { s with markersOut := (s.relayPorts.map fun k => (k, num % 2 ^ 48, hops % 16, lead % 2 ^ 32)) ++ s.markersOut }

/-- The number of the gust that starts at the coming boundary: the next, or the one that a GUST_SET due there (R18) or a marker followed (R34) gives it. -/
def State.nextNumber (s : State) : Nat :=
  let next := (s.gust + 1) % 2 ^ 48
  if s.anyArmed then next
  else
    let set := s.cmds.foldl (fun n c => match c.kind with
      | .boundary (.gustSet g _ _ (some m)) => if g = 0 ∨ g ≤ s.gust + 1 then m else n
      | _ => n) next
    if s.localSource then set else s.sync.adopt.getD set

/-- The master's marker: in the first flit whose pair starts at or after MARKER_LEAD before the boundary, so up to a pair's 10,625 ps later. -/
def markerSend (s : State) : State :=
  if s.on .GST_SYNC_CTL_MASTER 0 then
    let (w, s) := s.free
    s.sendMarkers s.nextNumber 0 (s.get .XNI_CTL_MARKER_LEAD 0 * 100000 - w.toNat % 10625)
  else s

/-- MARKER_SEND. -/
def execMarkerSend (s : State) : Host.Outcome State Fault Refusal := .next (s.whenGusts markerSend)

/-- A marker received on a port (R269): the boundary it announces lies LEAD − XNI_PORT_DELAY after its receive reference, the follower's own `own` after; it is
relayed at once, its LEAD less the delay and the time `dwell` it spent here, all in ps. -/
def gustMarker (k num hops lead : Nat) (own : Int) (dwell : Nat) (s : State) : State :=
  if s.get .GST_SYNC_CTL_SRC 0 ≠ 2 ∨ s.get .GST_SYNC_CTL_UPSTREAM_PORT 0 ≠ k ∨ !s.portUp k then s.bump .XNI_STATS_MARKERS_IGNORED 0 1
  else
    let ahead : Int := (lead : Int) - s.get .XNI_PORT_DELAY_DELAY k
    let s := s.sendMarkers num (hops + 1) (ahead - dwell).toNat
    if ahead < 2500000 then s
    else
      let off := (own - ahead) / 1000
      let s := s.syncTaken off
      let n := num % 2 ^ 48
      if !s.anyArmed then { s with sync := { s.sync with adopt := some n } }
      else if n = (s.gust + 1) % 2 ^ 48 then s
      else (s.put .GST_SYNC_STATUS_NUM_MISMATCH 0 1).syncEvent 2 off

/-- GUST_MARKER. -/
def execGustMarker (k : Fin 16) (num hops lead : Nat) (at_ : MarkerTimes) (s : State) : Host.Outcome State Fault Refusal :=
  .next (s.whenGusts (gustMarker k.val num hops lead at_.own at_.dwell))

/-! ### XNI_FLIT_RECEIVE (R261 to R264) -/

/-- The gust marker in payload unit 0 of a flit whose MARKER bit is set (R262, R269). -/
def State.flitMarker (s : State) (k : Nat) (c : XniCtl) (fl : XniFlit) : State :=
  if c.marker then s.whenGusts (gustMarker k (fieldOf c.unit0.1 47 0) (fieldOf c.unit0.1 51 48) (fieldOf c.unit0.2 31 0) fl.own fl.dwell) else s

/-- A flit received on an ACTIVE port: its FEC, CRC and SEQ are checked, and its packets delivered or forwarded. -/
def xniFlit (k : Nat) (fl : XniFlit) (s : State) : State :=
  if !s.portUp k ∨ s.linkPower ≠ .l0 then s
  else
    let s := s.countFec k fl
    let b := fl.pair.flits.getD fl.place.val []
    let c := XniCtl.ofBytes b
    let x := s.xport k
    if (flitCodewords fl.place.val).all fl.pair.corrects && xniCrcOk b && c.seq == x.rx then
      let (s, held) := (s.setXport k { x with rx := (x.rx + 1) % 4096, fails := 0 }).xniAcked k c
      let s := s.flitMarker k c fl
      let s := fl.packets.foldl (fun s e => if e.1 = s.moduleId then s.deliver k e.2.2 else s.xniSend e.1 e.2.1 e.2.2) s
      if held then s else s.portExhausted k
    else s.xniFailed k

/-- XNI_FLIT_RECEIVE (R264). -/
def execXniFlitReceive (k : Fin 16) (fl : XniFlit) (s : State) : Host.Outcome State Fault Refusal := .next (s.whenClocked (xniFlit k.val fl))

/-! ### Regulators (R211, R213) -/

/-- Number and guarantee limit of a resource. -/
def resOf : RegRes → Nat × Nat
  | .marsh m => (resMarsh m.val, 1700)
  | .cache => (resCache, 11000)
  | .peat => (resPeat, 40)
  | .dma => (resDma, 960)

/-- REJECT of a regulator. -/
def rejectField (res : Nat) : Fld :=
  if res < 12 then .MRS_REG_ACC_REJECT else if res = resCache then .SHC_REG_ACC_REJECT else if res = resPeat then .PEAT_REG_ACC_REJECT else .DMA_REG_ACC_REJECT

/-- A write of a regulator's control word: checked, and in force from the next boundary. -/
def regulatorWrite (res limit p v : Nat) (s : State) : State :=
  let (cf, gf, i) := regFields res p
  let ceiling := bitsOf v 31 16
  let guarantee := bitsOf v 15 0
  if s.regWordOk res limit p ceiling guarantee then (s.putLater cf i ceiling).putLater gf i guarantee else s.put (rejectField res) i 1

/-- REGULATOR_WRITE. -/
def execRegulatorWrite (g : RegRes) (p : Fin 12) (v : Word) (s : State) : Host.Outcome State Fault Refusal :=
  .next (s.whenClocked (regulatorWrite (resOf g).1 (resOf g).2 p.val v.toNat))

/-- One regulator at a refill (R211), and its monitor's sample (R403). -/
def State.refillOne (s : State) (res p : Nat) : State :=
  let x := s.reg res p
  let g : Int := s.regGuarantee res p
  let c : Int := s.regCeiling res p
  let s := s.setReg res p { x with
    guar := min (x.guar + g * 1000) (g * 8000)
    ceil := c * 1000 + min x.ceil 0
    waitUs := if x.waits then saturate 16 (x.waitUs + 1) else x.waitUs
    waits := false
    interval := 0 }
  s.monSample (monReg + 15 * p + res) ((x.interval / 1000 : Nat) : Int)

/-- Every regulator refilled; requests that waited for tokens are tried again. -/
def regulatorRefill (s : State) : State :=
  ((List.range 12).foldl (fun s p => resources.foldl (fun s r => s.refillOne r.1 p) s) s).retryAll

/-- REGULATOR_REFILL. -/
def execRegulatorRefill (s : State) : Host.Outcome State Fault Refusal := .next (s.whenClocked regulatorRefill)

end Sys2Proof.Machine
end

