-- ==== Sys2Proof/Machine/Manage.lean ====
section
/-!
DEFINITION. The management path: MCTP, PLDM and SPDM (R294 to R296, R368, R391, R392, R397, R398, R409), and ATTEST (R289). The messages of DMTF are not in
spec/: a response is what the spec says it carries (notes/assumptions/50.md), and the bytes of an SPDM response are opaque (10.md).
-/
namespace Sys2Proof.Machine

/-- A management request served: the endpoint works in Run, Idle, Sleep and while tripped, not in Deep or Off (R431) nor while frozen (R410). -/
def State.whenManaged (s : State) (f : State → State) : State := if s.get .PWR_STATE_STATE 0 < 3 && !s.on .FRZ_STATUS_FROZEN 0 then f s else s

/-- A response sent. -/
def State.reply (s : State) (r : Reply) : State := { s with mctpOut := r :: s.mctpOut }

/-- A request refused with a completion code that the spec does not name: a free value. -/
def State.replyRefused (s : State) : State := let (w, s) := s.free; s.reply (.refused (w.toNat % 256))

/-- Management requests as meanings. -/
def manageRow (f : State → State) (s : State) : Host.Outcome State Fault Refusal := .next (s.whenManaged f)

/-! ### MCTP control and PLDM base (R294, R295) -/

def setEid (eid : Nat) (s : State) : State := { s with mgmt := { s.mgmt with eid := eid } }.reply (.endpointId eid)
def setTidTo (t : Nat) (s : State) : State := { s with mgmt := { s.mgmt with tid := t } }.reply .done

/-- The PLDM types with their specifications' versions (R295). -/
def pldmVersions : List (Nat × Nat × Nat) := [(0, 1, 1), (2, 1, 2), (4, 1, 0), (5, 1, 1)]

/-- SET_ENDPOINT_ID. -/
def execSetEndpointId (eid : Fin 256) (s : State) : Host.Outcome State Fault Refusal := manageRow (setEid eid.val) s

/-- GET_TID. -/
def execGetTid (s : State) : Host.Outcome State Fault Refusal := manageRow (fun s => s.reply (.tid s.mgmt.tid)) s

/-- SET_TID. -/
def execSetTid (tid : Fin 256) (s : State) : Host.Outcome State Fault Refusal := manageRow (setTidTo tid.val) s

/-- GET_PLDM_VERSION. -/
def execGetPldmVersion (s : State) : Host.Outcome State Fault Refusal := manageRow (fun s => s.reply (.versions pldmVersions)) s

/-- GET_PLDM_TYPES. -/
def execGetPldmTypes (s : State) : Host.Outcome State Fault Refusal := manageRow (fun s => s.reply (.types (pldmVersions.map Prod.fst))) s

/-- GET_PLDM_COMMANDS. -/
def execGetPldmCommands (s : State) : Host.Outcome State Fault Refusal :=
  manageRow (fun s => s.reply (.commands [.getTid, .setTid, .getPldmVersion, .getPldmTypes, .getPldmCommands])) s

/-! ### Monitoring and control (R295, R368, R409) -/

/-- The state effecter: Deep and Off (numbered as in PWR_STATE, notes/assumptions/50.md) under the conditions of POWER_STATE. -/
def setEffecterState (v : Nat) (s : State) : State :=
  if v ≠ 3 ∧ v ≠ 4 then s.reply .invalidStateValue
  else if s.on .PWR_STATE_BUSY 0 ∨ s.always.shut ≠ 0 then s.reply .notReady
  else match s.powerTry v with
    | (some _, s) => s.reply .notReady
    | (none, s) => (s.setEffecter true).reply .done

/-- STATE_EFFECTER_SET. -/
def execStateEffecterSet (v : Fin 256) (s : State) : Host.Outcome State Fault Refusal := manageRow (setEffecterState v.val) s

/-- Numeric sensors (R409), numbered in the order of its table: 0 input voltage, 1 input power, 2 to 58 the powers of rails 1 to 57, 59 inlet, 60 outlet, 61 flow, 62 to 65 the
hottest logic, L0, I/O die and marsh reading, then TOKENS and OVER of class c at 66 + 2c and 67 + 2c, for classes that have an owner. Units are the registers'; the hottest
readings are in 1/8 °C. -/
def State.numericSensor (s : State) (id : Nat) : Option Int :=
  let nat (n : Nat) : Option Int := some n
  if id = 0 then nat (s.get .PWR_RAIL_VOLTAGE 0)
  else if id < 59 then nat (s.get .PWR_RAIL_POWER (id - 1))
  else if id = 59 then some (signedOf 16 (s.get .THM_COOLANT_INLET 0))
  else if id = 60 then some (signedOf 16 (s.get .THM_COOLANT_OUTLET 0))
  else if id = 61 then nat (s.get .THM_COOLANT_FLOW 0)
  else if id < 66 then some (s.therm.shown.getD (id - 62) 0)
  else
    let c := (id - 66) / 2
    if c < 64 ∧ s.on .MON_CLASS_OWNER_VALID c then nat (s.get (if id % 2 = 0 then .MON_CLASS_COUNT_TOKENS else .MON_CLASS_COUNT_OVER) c) else none

/-- State sensors (R409): power state, Doldrums mode, coolant stop, flow warning, trip latched. -/
def State.stateSensor (s : State) (id : Nat) : Option Nat :=
  match id with
  | 0 => some (s.get .PWR_STATE_STATE 0)
  | 1 => some (s.get .PART_DOLDRUMS_ACTIVE 0)
  | 2 => some (s.get .THM_STATUS_STOP 0)
  | 3 => some (s.get .THM_STATUS_WARN_60 0 + 2 * s.get .THM_STATUS_WARN_55 0)
  | 4 => some (s.get .THM_TRIP_VALID 0)
  | _ => none

def readNumeric (id : Nat) (s : State) : State := match s.numericSensor id with | some v => s.reply (.numeric id v) | none => s.replyRefused
def readState (id : Nat) (s : State) : State := match s.stateSensor id with | some v => s.reply (.stateOf id v) | none => s.replyRefused

/-- NUMERIC_SENSOR_READ. -/
def execNumericSensorRead (id : Nat) (s : State) : Host.Outcome State Fault Refusal := manageRow (readNumeric id) s

/-- STATE_SENSOR_READ. -/
def execStateSensorRead (id : Nat) (s : State) : Host.Outcome State Fault Refusal := manageRow (readState id) s

/-- The PDR repository: the numeric sensors that exist, the state sensors, the state effecter, in handles 0, 1, …. -/
def State.pdrs (s : State) : List (Bool × Nat) :=
  ((List.range 194).filter fun id => (s.numericSensor id).isSome).map (fun id => (true, id)) ++ (List.range 6).map fun id => (false, id)

def readPdr (h : Nat) (s : State) : State := match s.pdrs[h]? with | some e => s.reply (.pdr h e.1 e.2) | none => s.replyRefused

/-- PDR_REPOSITORY_READ. -/
def execPdrRepositoryRead (handle : Nat) (s : State) : Host.Outcome State Fault Refusal := manageRow (readPdr handle) s

/-- The oldest event message not yet taken (R324). -/
def pollEvent (s : State) : State :=
  { s with mgmtOut := s.mgmtOut.dropLast }.reply (.event s.mgmtOut.getLast?)

/-- PLATFORM_EVENT_POLL. -/
def execPlatformEventPoll (s : State) : Host.Outcome State Fault Refusal := manageRow pollEvent s

/-- FRU_DATA_READ (R295): the spec does not give the contents. -/
def execFruDataRead (s : State) : Host.Outcome State Fault Refusal := manageRow (fun s => s.reply (.fru Config.fruData)) s

/-! ### Firmware update (R391, R392) -/

/-- REQUEST_UPDATE: the checks of FW_LOAD; the write of the slot goes on until FW_WRITE_DONE. -/
def requestUpdateOf (image : List Byte) (s : State) : State :=
  if slotBytes < image.length ∨ !s.imageOk image ∨ s.slotBusy ∨ s.always.shut ≠ 0 then s.replyRefused
  else { s with mgmt := { s.mgmt with update := some image } }.reply .done

/-- REQUEST_UPDATE. -/
def execRequestUpdate (image : List Byte) (s : State) : Host.Outcome State Fault Refusal := manageRow (requestUpdateOf image) s

/-- A warm reset, unless a plan is armed, the slot is being written or bring-up has not ended (R389, R399). -/
def activate (kept : Bool) (s : State) : State :=
  if s.anyArmed || s.slotWriting || !s.on .HST_CP_STATUS_READY 0 then s.reply .notReady else (s.reply .done).warm 1 kept

/-- ACTIVATE_FIRMWARE. -/
def execActivateFirmware (kept : Bool) (s : State) : Host.Outcome State Fault Refusal := manageRow (activate kept) s

/-! ### SPDM (R296, R397, R398) -/

/-- Parts of an image. -/
def cpPart (b : List Byte) : List Byte := (b.drop (imgCpOff b)).take (imgCpBytes b)
def corePart (b : List Byte) : List Byte := (b.drop (imgCoreOff b)).take (imgCoreBytes b)

/-- The measurement blocks (R398): index, DMTF value type, content. The previous core firmware is the running image's while a newer one lies in the slot. -/
def State.measurements (s : State) : List (Nat × Nat × List Nat) :=
  let es := s.repairMap.map fun t => (t.vote.1.getD (t.shown.getD []))
  let header := wordsToBytes [BitVec.ofNat 64 (s.repairVer + placed es.length 32), BitVec.ofNat 64 (s.get .PART_REPAIR_SAVED 0), 0, 0]
  [(1, 0, [Config.romDigest]),
   (2, 1, [Config.sha384 (cpPart s.flash.running)]),
   (3, 1, [Config.sha384 (corePart s.flash.image)]),
   (4, 1, [if s.get .PART_FW_PREVIOUS 0 = 0 then 0 else Config.sha384 (corePart s.flash.running)]),
   (5, 6, [s.get .BOOT_FW_CP_VERSION 0, s.get .BOOT_FW_CORE_VERSION 0]),
   (6, 7, [s.get .BOOT_FW_SVN 0, s.get .BOOT_FW_SVN_FLOOR 0]),
   (7, 3, [Config.sha384 s.flash.licence]),
   (8, 2, [Config.sha384 (header ++ es.flatMap wordsToBytes)]),
   (9, 2, [Config.factoryDigest]),
   (10, 5, [Bool.bit s.tapState.froze + 2 * Bool.bit s.tapState.scanned])]

/-- What an answer depends on beside the request and the conversation: whether the identity is known, and what is measured. -/
def State.spdmContext (s : State) : List Nat := s.get .BOOT_STATUS_PUF_FAIL 0 :: s.measurements.flatMap fun e => e.2.2

/-- The bytes of the answer to a request of kind `k`, and the state after it: without an identity CHALLENGE and GET_MEASUREMENTS answer Unspecified. -/
def State.spdmServe (s : State) (k : Nat) (req : List Byte) : List Byte × State :=
  if (k = 6 ∨ k = 7) ∧ s.on .BOOT_STATUS_PUF_FAIL 0 then (Config.spdmUnspecified, s)
  else (Config.spdmAnswer req s.mgmt.spdm s.spdmContext, { s with mgmt := { s.mgmt with spdm := Config.spdmNext req s.mgmt.spdm } })

/-- An SPDM request of kind `k` over MCTP. -/
def spdmRequest (k : Nat) (req : List Byte) (s : State) : State :=
  let (b, t) := s.spdmServe k req
  if (k = 6 ∨ k = 7) ∧ s.on .BOOT_STATUS_PUF_FAIL 0 then t.reply .spdmUnspecified
  else t.reply (if k = 7 then .measurements s.measurements b else .spdm b)

/-- GET_VERSION. -/
def execGetVersion (req : List Byte) (s : State) : Host.Outcome State Fault Refusal := manageRow (spdmRequest 1 req) s

/-- GET_CAPABILITIES. -/
def execGetCapabilities (req : List Byte) (s : State) : Host.Outcome State Fault Refusal := manageRow (spdmRequest 2 req) s

/-- NEGOTIATE_ALGORITHMS. -/
def execNegotiateAlgorithms (req : List Byte) (s : State) : Host.Outcome State Fault Refusal := manageRow (spdmRequest 3 req) s

/-- GET_DIGESTS. -/
def execGetDigests (req : List Byte) (s : State) : Host.Outcome State Fault Refusal := manageRow (spdmRequest 4 req) s

/-- GET_CERTIFICATE. -/
def execGetCertificate (req : List Byte) (s : State) : Host.Outcome State Fault Refusal := manageRow (spdmRequest 5 req) s

/-- CHALLENGE. -/
def execChallenge (req : List Byte) (s : State) : Host.Outcome State Fault Refusal := manageRow (spdmRequest 6 req) s

/-- GET_MEASUREMENTS. -/
def execGetMeasurements (req : List Byte) (s : State) : Host.Outcome State Fault Refusal := manageRow (spdmRequest 7 req) s

/-- A chunk taken; after the last, the whole request is served. -/
def takeChunk (chunk : List Byte) (last : Bool) (s : State) : State :=
  let whole := s.mgmt.chunks ++ chunk
  if last then { s with mgmt := { s.mgmt with chunks := [] } } |> spdmRequest (Config.spdmKind whole).val whole
  else { s with mgmt := { s.mgmt with chunks := whole } }.reply .chunkTaken

/-- CHUNKING. -/
def execChunking (chunk : List Byte) (last : Bool) (s : State) : Host.Outcome State Fault Refusal := manageRow (takeChunk chunk last) s

/-- ATTEST: the request read from host memory, the response written there. A response longer than the buffer is not written, and RESULT0 holds the bytes it needs
(notes/assumptions/50.md). -/
def attestOf (q : Req) (a n room dst : Nat) (s : State) : State :=
  if !s.hostUp then s.done q stUncorrectable
  else
    let req := s.hostRead a n
    let (b, t) := s.spdmServe (Config.spdmKind req).val req
    if room < b.length then s.done q stBadPacket b.length
    else (t.hostStore dst b).done q stOk b.length

def opAttest : HostOp := ⟨0x49, .anyOr15, [word64, bitsMask 15 0 + bitsMask 47 32, word64]⟩

/-- ATTEST. -/
def execAttest (q : Req) (p0 p1 p2 : Word) (s : State) : Host.Outcome State Fault Refusal :=
  hostRow opAttest q [p0, p1, p2] noCheck (attestOf q p0.toNat (fieldOf p1 15 0) (fieldOf p1 47 32) p2.toNat) s

end Sys2Proof.Machine
end

