-- ==== Sys2Proof/Machine/Host.lean ====
section
/-!
DEFINITION. Rings, doorbells and packets (R282 to R287, R297, R298), event logs (R324, R339, R388), and host accesses to registers (R5 to R7, R277 to R279).
Readings taken by inference (DEDUCED): notes/assumptions/36.md, notes/assumptions/37.md.
-/
namespace Sys2Proof.Machine

/-! ### Doorbells (R283) -/

/-- Whether a ring takes doorbells and is fetched from: enabled, and not stopped by an error. -/
def State.ringRuns (s : State) (r : Nat) : Bool := s.on .HST_RING_CTL_ENABLE r && !(s.ring r).stopped

/-- SQ_TAIL: only bits [15:0] count. -/
def sqTailWrite (r v : Nat) (s : State) : State :=
  if !s.ringRuns r then s
  else if s.ringSize r ≤ v then s.ringError r 1 v
  else s.setRing r { s.ring r with tail := v }

/-- CQ_HEAD: equal to the head held, it consumes every entry of a full ring and nothing otherwise. Completions that waited for room are then written. -/
def cqHeadWrite (r v : Nat) (s : State) : State :=
  if !s.ringRuns r then s
  else if s.ringSize r ≤ v then s.ringError r 1 v
  else
    let g := s.ring r
    (s.setRing r { g with cons := v, full := false }).flushComps g.waiting.length r

/-- SQ_TAIL. -/
def execSqTail (r : Fin 64) (v : Word) (s : State) : Host.Outcome State Fault Refusal := .next (s.whenClocked (sqTailWrite r.val (fieldOf v 15 0)))

/-- CQ_HEAD. -/
def execCqHead (r : Fin 64) (v : Word) (s : State) : Host.Outcome State Fault Refusal := .next (s.whenClocked (cqHeadWrite r.val (fieldOf v 15 0)))

/-- COALESCE_US elapsed after the first completion not yet signalled (R285). -/
def coalesceOver (r : Nat) (s : State) : State :=
  let g := s.ring r
  if g.uncounted = 0 then s else (s.setRing r { g with uncounted := 0 }).fire (s.get .HST_RING_CTL_OWNER r) (s.get .HST_RING_CTL_VECTOR r)

/-- COALESCE_TIMEOUT. -/
def execCoalesceTimeout (r : Fin 64) (s : State) : Host.Outcome State Fault Refusal := .next (s.whenClocked (coalesceOver r.val))

/-! ### Packets (R284, R286) -/

/-- A packet's words. -/
structure Packet where
  header : Word
  ps : List Word
  deriving DecidableEq, Repr

/-- Words from P[LENGTH] up are read as zero. -/
def Packet.ofWords (ws : List Word) : Packet :=
  let h := wordAt ws 0
  ⟨h, (List.range 7).map fun k => if k < fieldOf h 42 40 then wordAt ws (k + 1) else 0⟩

def Packet.op (k : Packet) : Nat := fieldOf k.header 7 0

/-- Reserved bits of the header set. -/
def Packet.reserved (k : Packet) : Bool := fieldOf k.header 15 12 != 0 || fieldOf k.header 23 20 != 0 || fieldOf k.header 63 43 != 0

/-- Its request header, on a ring. -/
def Packet.req (k : Packet) (r : Fin 64) : Req :=
  ⟨r, BitVec.ofNat 16 (fieldOf k.header 39 24), Fin.ofNat 16 (fieldOf k.header 19 16), flagOf k.header 8, flagOf k.header 9, flagOf k.header 10, flagOf k.header 11⟩

/-- Parameter words of an opcode (R289); none where it is reserved. -/
def opParams (op : Nat) : Option Nat :=
  match op with
  | 0x01 => some 1 | 0x02 => some 1 | 0x03 => some 0 | 0x04 => some 3 | 0x05 => some 1 | 0x06 => some 0 | 0x07 => some 0
  | 0x10 => some 4 | 0x11 => some 2 | 0x12 => some 3 | 0x13 => some 5 | 0x14 => some 5
  | 0x18 => some 3 | 0x19 => some 3 | 0x1A => some 2
  | 0x20 => some 3 | 0x21 => some 3 | 0x22 => some 2 | 0x23 => some 3
  | 0x28 => some 2 | 0x29 => some 2 | 0x2A => some 3 | 0x2B => some 2
  | 0x30 => some 2 | 0x31 => some 0 | 0x32 => some 0
  | 0x38 => some 1 | 0x39 => some 1 | 0x3C => some 4 | 0x3D => some 3
  | 0x40 => some 1 | 0x44 => some 0 | 0x48 => some 2 | 0x49 => some 3 | 0x4A => some 2
  | 0x50 => some 0 | 0x51 => some 0
  | _ => none

/-- SPARE_ENABLE by its kind (R291). -/
def runSpare (q : Req) (p : Nat → Word) (s : State) : Host.Outcome State Fault Refusal :=
  match fieldOf (p 0) 3 0 with
  | 1 => execSpareEnableColumn q (p 1) (p 2) s
  | 2 => execSpareEnableRow q (p 1) (p 2) s
  | 3 => execSpareEnableBond q (p 1) (p 2) s
  | 4 => execSpareEnableSite q (p 1) (p 2) s
  | 5 => execSpareEnableChannel q (p 1) (p 2) s
  | 6 => execSpareEnableWire q (p 1) (p 2) s
  | 7 => execSpareEnableLane q (p 1) (p 2) false s
  | _ => hostRow ⟨0x2A, .pfModule, []⟩ q [] (fun _ => 2) id s

/-- The command that a packet names, run. -/
def runCommand (op : Nat) (q : Req) (p : Nat → Word) (s : State) : Host.Outcome State Fault Refusal :=
  match op with
  | 0x01 => execPlanLoad q (p 0) s
  | 0x02 => execPlanArm q (p 0) s
  | 0x03 => execPlanDisarm q s
  | 0x04 => execGustSet q (p 0) (p 1) (p 2) s
  | 0x05 => execJobStart q (p 0) s
  | 0x06 => execJobStop q s
  | 0x07 => execJobRewind q s
  | 0x10 => execKvRootSet q (p 0) (p 1) (p 2) (p 3) s
  | 0x11 => execKvFork q (p 0) (p 1) s
  | 0x12 => execKvTrim q (p 0) (p 1) (p 2) s
  | 0x13 => execKvEvict q (p 0) (p 1) (p 2) (p 3) (p 4) s
  | 0x14 => execKvPrefetch q (p 0) (p 1) (p 2) (p 3) (p 4) s
  | 0x18 => execMemRead q (p 0) (p 1) (p 2) s
  | 0x19 => execMemWrite q (p 0) (p 1) (p 2) s
  | 0x1A => execMemFence q (p 0) (p 1) s
  | 0x20 => execPeatRead q (p 0) (p 1) (p 2) s
  | 0x21 => execPeatProgram q (p 0) (p 1) (p 2) s
  | 0x22 => execPeatErase q (p 0) (p 1) s
  | 0x23 => execPeatStatus q (p 0) (p 1) (p 2) s
  | 0x28 => execRetirePage q (p 0) (p 1) s
  | 0x29 => execRetireBank q (p 0) (p 1) s
  | 0x2A => runSpare q p s
  | 0x2B => execRepairMapRead q (p 0) (p 1) s
  | 0x30 => execPartCreate q (p 0) (p 1) s
  | 0x31 => execPartReset q s
  | 0x32 => execPartDestroy q s
  | 0x38 => if fieldOf (p 0) 5 4 = 1 ∨ fieldOf (p 0) 5 4 = 2 then execDiePowerState q (p 0) s else execPowerState q (p 0) s
  | 0x39 => if flagOf (p 0) 32 then execClearTrip q (p 0) s else execThermLimitSet q (p 0) s
  | 0x3C => execMonConfig q (p 0) (p 1) (p 2) (p 3) s
  | 0x3D => execMonRead q (p 0) (p 1) (p 2) s
  | 0x40 => execLinkRetrain q (p 0) s
  | 0x44 => execFreeze q s
  | 0x48 => execLicenceLoad q (p 0) (p 1) s
  | 0x49 => execAttest q (p 0) (p 1) (p 2) s
  | 0x4A => execFwLoad q (p 0) (p 1) s
  | 0x50 => execDoldrumsEnter q s
  | 0x51 => execDoldrumsExit q s
  | _ => .next s

/-- The state of an outcome. -/
def outcomeState (s : State) (o : Host.Outcome State Fault Refusal) : State := match o with | .next t => t | _ => s

/-- A packet whose opcode (REASON 1) or whose reserved bits (REASON 2) refuse it before any other check of R286; one of an unbound VF completes with ST_DISABLED (R276). -/
def State.refusePacket (s : State) (q : Req) (op reason : Nat) : State :=
  let f := s.get .HST_RING_CTL_OWNER q.ring.val
  if f ≠ 0 ∧ !s.on .HST_FUNC_CTL_BOUND f then s.done q stDisabled else s.badPacket q op reason

/-- A packet validated and started (R286): reserved opcodes and reserved bits of the header refuse it; the rest as its command states. -/
def runPacket (r : Fin 64) (k : Packet) (s : State) : State :=
  let q := k.req r
  match opParams k.op with
  | none => s.refusePacket q k.op 1
  | some n =>
    if k.reserved || (k.ps.drop n).any (· != 0) then s.refusePacket q k.op 2
    else outcomeState s (runCommand k.op q (wordAt k.ps) s)

/-- Commands in progress: of a ring, of the module. -/
def State.inProgress (s : State) (r : Nat) : Nat := s.seen .HST_RING_STATUS_IN_PROGRESS r

/-- Whether a ring may be fetched from (R284): packets waiting, room in its completion ring, neither limit of commands in progress reached. -/
def State.fetchable (s : State) (r : Nat) : Bool :=
  s.ringRuns r && s.get .HST_RING_STATUS_SQ_HEAD r != (s.ring r).tail && !(s.ring r).full && (s.ring r).waiting.isEmpty &&
    decide (s.inProgress r < 64) && decide (s.seen .HST_CP_STATUS_IN_PROGRESS 0 < 1024)

/-- Where a ring's next packet lies. -/
def State.packetAddr (s : State) (r : Nat) : Nat := s.get .HST_RING_BASE_BASE r * 4096 + 64 * s.get .HST_RING_STATUS_SQ_HEAD r

/-- The words of a ring's next packet; none where the fetch fails. -/
def State.packetWords (s : State) (r : Nat) : Option (List Word) × State :=
  let a := s.packetAddr r
  if s.on .HST_RING_CTL_SQ_DEVICE r then
    match s.devRange a 64 with
    | some (st, off) =>
      if s.anyWithdrawn st off 64 then (none, s)
      else
        let (b, s) := s.hostSideRead st off 64
        (b.map (bytesToWords 8), s)
    | none => (none, s)
  else if s.hostUp then (some (bytesToWords 8 (s.hostRead a 64)), s) else (none, s)

/-- An ORDERED packet waits until every earlier packet of its ring has completed. -/
def State.mustWait (s : State) (r : Nat) : Bool :=
  match (s.packetWords r).1 with
  | some ws => flagOf (wordAt ws 0) 8 && s.inProgress r != 0
  | none => false

/-- The ring served next: the one after the last served, round-robin, within the highest PRIORITY that has packets waiting. -/
def State.nextRing (s : State) : Option Nat :=
  let rs := (List.range 64).filter fun r => s.fetchable r && !s.mustWait r
  let prio := (rs.map fun r => s.get .HST_RING_CTL_PRIORITY r).foldl max 0
  let rs := rs.filter fun r => s.get .HST_RING_CTL_PRIORITY r == prio
  match rs.find? fun r => SMap.get s.lastRing prio 63 < r with
  | some r => some r
  | none => rs.head?

/-- The command processor fetches: from READY on (R378), or serving Doldrums mode before any memory has been trained (R381). -/
def fetchPacket (s : State) : State :=
  if !(s.on .HST_CP_STATUS_READY 0 || s.inDoldrums) then s
  else match s.nextRing with
    | none => s
    | some r =>
      let s := { s with lastRing := SMap.set s.lastRing (s.get .HST_RING_CTL_PRIORITY r) r 63 }
      match s.packetWords r with
      | (none, s) => s.ringError r 2 (s.packetAddr r)
      | (some ws, s) =>
        let s := s.put .HST_RING_STATUS_SQ_HEAD r ((s.get .HST_RING_STATUS_SQ_HEAD r + 1) % s.ringSize r)
        runPacket (Fin.ofNat 64 r) (Packet.ofWords ws) s

/-- PACKET_FETCH. -/
def execPacketFetch (s : State) : Host.Outcome State Fault Refusal := .next (s.whenClocked fetchPacket)

/-! ### Ring and log control (R282, R298, R339) -/

/-- A ring enabled: both indices and PHASE start anew. -/
def State.enableRing (s : State) (r : Nat) : State :=
  let g := s.ring r
  ((s.put .HST_RING_STATUS_SQ_HEAD r 0).setRing r { Ring.fresh with waiting := g.waiting }).flushComps g.waiting.length r

/-- A write of HST_RING_CTL by a function: OWNER by the PF, while ENABLE is clear and a VF would own no ninth ring; the rest by the owner, and all but ENABLE only
while ENABLE is clear. -/
def ringCtlWrite (f r v m : Nat) (s : State) : State :=
  let owner := s.get .HST_RING_CTL_OWNER r
  let was := s.on .HST_RING_CTL_ENABLE r
  let next := Fld.merged .HST_RING_CTL_OWNER owner v m
  let t := if f = owner then
      (if was then [Fld.HST_RING_CTL_ENABLE] else RegName.HST_RING_CTL.fields.filter (· != .HST_RING_CTL_OWNER)).foldl (fun t x => t.writeField x r v m) s
    else s
  let t := if f = 0 ∧ !was ∧ (next = 0 ∨ next = owner ∨ (s.ringsOf next).length < 8) then t.writeField .HST_RING_CTL_OWNER r v m else t
  if !was && t.on .HST_RING_CTL_ENABLE r then t.enableRing r else t

/-- HST_RING_ENABLE: a write of HST_RING_CTL. A VF reaches only the rings it owns (R279). -/
def execHstRingEnable (f : Fin 13) (r : Fin 64) (v : Word) (s : State) : Host.Outcome State Fault Refusal :=
  .next (s.whenClocked fun s => s.whenEnabled f.val fun s =>
    if f.val = 0 ∨ s.get .HST_RING_CTL_OWNER r.val = f.val then ringCtlWrite f.val r.val (v.toNat % 2 ^ 32) (2 ^ 32 - 1) s
    else s.answer (.unsupported f.val))

/-- A log enabled: write index, SEQ and PHASE start anew; the PF's first enabling writes the records held since bring-up (R388). -/
def State.enableLog (s : State) (f : Nat) : State :=
  let s := (s.put .EVT_LOG_STATUS_WRITE f 0).put .EVT_LOG_STATUS_PHASE f 1
  let s := { s with logSeq := SMap.set s.logSeq f 0 0 }
  if f = 0 ∧ !s.pfLogOpened then s.heldRecs.foldl (fun s w => s.logWrite 0 w) { s with pfLogOpened := true, heldRecs := [] } else s

/-- A write of EVT_LOG_CTL. -/
def logCtlWrite (f v m : Nat) (s : State) : State :=
  let was := s.on .EVT_LOG_CTL_ENABLE f
  let s := s.writeFields .EVT_LOG_CTL f v m
  if !was && s.on .EVT_LOG_CTL_ENABLE f then s.enableLog f else s

/-- EVT_LOG_ENABLE: a PF write of EVT_LOG_CTL. -/
def execEvtLogEnable (f : Fin 13) (v : Word) (s : State) : Host.Outcome State Fault Refusal :=
  .next (s.whenClocked (logCtlWrite f.val (v.toNat % 2 ^ 32) (2 ^ 32 - 1)))

/-- HOLDOFF_US elapsed: a vector held back fires, and the time runs anew (R324). -/
def holdoffOver (f : Nat) (s : State) : State :=
  let held := SMap.get s.heldIrq f false
  let s := { s with holdoff := SMap.set s.holdoff f held false, heldIrq := SMap.set s.heldIrq f false false }
  if held then s.fire f (logVector f) else s

/-- EVT_HOLDOFF. -/
def execEvtHoldoff (f : Fin 13) (s : State) : Host.Outcome State Fault Refusal := .next (s.whenClocked (holdoffOver f.val))

/-! ### Register accesses (R5, R6, R277 to R279) -/

/-- One part of an access that falls on one place: the place and the part's bytes within the access. -/
structure Piece where
  place : Place
  at_ : Nat
  size : Nat
  deriving DecidableEq, Repr

/-- The parts of a naturally aligned access of 4 or 8 bytes: 8 bytes of one register, else words, each word of the peat map being two entries. None for any other
access, and for one that meets an offset outside the function's map. -/
def State.pieces (s : State) (f off size : Nat) : Option (List Piece) :=
  if (size ≠ 4 ∧ size ≠ 8) ∨ off % size ≠ 0 then none
  else
    let half (o : Nat) : List Piece :=
      match s.place f (off + o) with
      | .peatMap e => [⟨.peatMap e, o, 2⟩, ⟨.peatMap (e + 1), o + 2, 2⟩]
      | p => [⟨p, o, 4⟩]
    let ps := match s.place f off with
      | .reg r i 0 => if size = 8 ∧ r.width = 64 then [⟨.reg r i 0, 0, 8⟩] else if size = 8 then half 0 ++ half 4 else half 0
      | _ => if size = 8 then half 0 ++ half 4 else half 0
    if ps.any fun p => p.place == .outside then none else some ps

/-- Failure marks that a write of a register clears (R344), by sensor number. -/
def marksWritten (s : State) (r : RegName) (i v m : Nat) : List Nat :=
  let w := v &&& m
  match r with
  | .THM_SITE => [(diodeNo i 0, 0), (diodeNo i 1, 1), (l0No i, 2)].filterMap fun (e : Nat × Nat) => if bitOf w e.2 && s.sensorFailed e.1 then some e.1 else none
  | .THM_SENSOR_FAIL =>
    (((List.range 24).map fun k => (2464 + k, k)) ++ (List.range 4).map fun k => (peatNo k, 24 + k)).filterMap fun (e : Nat × Nat) => if bitOf w e.2 && s.sensorFailed e.1 then some e.1 else none
  | .THM_IO_FAIL => (List.range 16).filterMap fun k => if bitOf w k && s.sensorFailed (ioNo k) then some (ioNo k) else none
  | _ => []

/-- A write of ZYN_ROUTE (R255, R256): it applies at the next boundary, and one that gives a destination the reserved code 3 leaves the field (R6); the die's own
code is ignored. -/
def routeWrite (d v m : Nat) (s : State) : State :=
  let n := Fld.merged .ZYN_ROUTE_ROUTE (s.get .ZYN_ROUTE_ROUTE d) v m
  if (List.range 12).any fun e => e != d && bitsOf n (2 * e + 1) (2 * e) == 3 then s else s.writeFieldsLater .ZYN_ROUTE d v m

/-- A host write of the bits `m` of a register: the access codes (R5, R6), and what the register's own rules make of it. -/
def State.regWrite (s : State) (f : Nat) (r : RegName) (i v m : Nat) : State :=
  match r with
  | .HST_RING_BASE | .HST_RING_CQ_BASE =>
    if f = s.get .HST_RING_CTL_OWNER i ∧ !s.on .HST_RING_CTL_ENABLE i then s.writeFields r i v m else s
  | .HST_RING_CTL => ringCtlWrite f i v m s
  | .HST_RING_STATUS => if f = s.get .HST_RING_CTL_OWNER i then s.writeFields r i v m else s
  | .EVT_LOG_BASE => if s.on .EVT_LOG_CTL_ENABLE i then s else s.writeFields r i v m
  | .EVT_LOG_CTL => logCtlWrite i v m s
  | .GST_SYNC_CTL =>
    let s := s.writeFields r i v m
    { s with gustWords := Tri.of [s.get .GST_PERIOD_PERIOD 0, s.get .GST_LULL_LULL 0, s.regValue .GST_SYNC_CTL 0] }
  | .BOOT_CTL =>
    -- whether the retention SRAM's CRC passes is met later: a free value
    let (w, s) := s.free
    warmWrite (BitVec.ofNat 64 (v &&& m)) (flagOf w 0) s
  | .KVW_ROOT_BASE | .KVW_ROOT_COUNT => if s.armed i then s else s.writeFields r i v m
  | .ZYN_ROUTE => routeWrite i v m s
  | .XNI_MODULE_ID => if s.anyArmed then s else s.writeFields r i v m
  | .XNI_OUTBOX_REL => if s.armed (i / 64) then s else s.writeFields r i v m
  | .XNI_PORT_CTL => portCtlWrite i (v &&& m) s
  | .THM_SITE | .THM_SENSOR_FAIL | .THM_IO_FAIL => (marksWritten s r i v m).foldl State.sensorCleared (s.writeFields r i v m)
  | .THM_TRIP => if s.always.cleared then s.writeFields r i v m else s
  | .PWR_WAKE_CTL => wakeCtlWrite v m s
  | .FEN_CTL | .MRS_CTL | .SHC_CTL | .REED_CTL | .ARR_CTL | .ATT_CTL | .KVW_CTL | .XNI_ROUTE => s.writeFieldsLater r i v m
  | .MON_OUT_RING =>
    ((s.writeFieldLater .MON_OUT_RING_ENABLE i v m).writeField .MON_OUT_RING_SIZE i v m).writeField .MON_OUT_RING_BASE i v m
  | .PEAT_CTL => peatCtlWrite v m s
  | .ARR_INJECT => arrInject (i / 4) (i % 4) v m s
  | .FEN_FLIP_CTL => fenFlipWrite i v m s
  | .MRS_FLIP_CTL => mrsFlipWrite i v m s
  | .MRS_REG => regulatorWrite (resMarsh (i / 12)) 1700 (i % 12) (v &&& m) s
  | .SHC_REG => regulatorWrite resCache 11000 i (v &&& m) s
  | .PEAT_REG => regulatorWrite resPeat 40 i (v &&& m) s
  | .DMA_REG => regulatorWrite resDma 960 i (v &&& m) s
  | .DMA_CH_CTL => dmaCtlWrite i v m s
  | .DMA_CH_RING | .DMA_CH_DONE_ADDR => if s.on .DMA_CH_CTL_ENABLE i then s else s.writeFields r i v m
  | _ => s.writeFields r i v m

/-- Bits of a register that W1C fields hold. -/
def w1cBits (r : RegName) : Nat := ((r.fields.filter fun x => x.acc == .w1c).map fun x => bitsMask x.hi x.lo).sum

/-- The bits of an access that fall on one part of it, in their place in the register. -/
def Piece.bits (p : Piece) (b v : Nat) : Nat := bitsOf v (8 * (p.at_ + p.size) - 1) (8 * p.at_) * 2 ^ (8 * b)

/-- One part of a host write. A W1C bit that the module sets in the same cycle (`fw`) remains set (R7). -/
def State.writePiece (s : State) (f v fw : Nat) (p : Piece) : State :=
  match p.place with
  | .reg r i b =>
    let w := p.bits b v
    s.regWrite f r i (w - (w &&& p.bits b fw &&& w1cBits r)) ((2 ^ (8 * p.size) - 1) * 2 ^ (8 * b))
  | .peatMap e => peatMapWrite e (bitsOf v (8 * p.at_ + 15) (8 * p.at_)) s
  | _ => s

/-- Whether a part of a write sets an RW field. -/
def Piece.setsRw (p : Piece) : Bool :=
  match p.place with
  | .reg r _ b => r.fields.any fun x => x.acc == .rw && x.touched ((2 ^ (8 * p.size) - 1) * 2 ^ (8 * b))
  | _ => false

/-- A host write (R6, R279); `fw` is what the module itself writes there in the same cycle. Its update of the same RW fields is lost, with a record (R7). -/
def hostWrite (f off size v : Nat) (fw : Option Word) (s : State) : State :=
  match s.pieces f off size with
  | none => s.answer (.unsupported f)
  | some ps =>
    let s := ps.foldl (fun s p => s.writePiece f v (fw.getD 0).toNat p) s
    if fw.isSome && ps.any Piece.setsRw then s.event ⟨5, 10, 0, 13, (s.fnPart f).getD 15, stOk, 2, off⟩ else s

/-- REGISTER_WRITE. -/
def execRegisterWrite (f : Fin 13) (off : Nat) (size : Nat) (v : Word) (fw : Option Word) (s : State) : Host.Outcome State Fault Refusal :=
  .next (s.whenClocked fun s => s.whenEnabled f.val (hostWrite f.val off size v.toNat fw))

/-- A read that clears ZYN_WIRE_WORST.COUNT: the errors located on that wire count anew (R256). -/
def State.clearLocated (s : State) (r : RegName) (l m : Nat) : State :=
  if r = .ZYN_WIRE_WORST ∧ Fld.touched .ZYN_WIRE_WORST_COUNT m then
    let key := s.get .ZYN_WIRE_WORST_DIR l * 1024 + s.get .ZYN_WIRE_WORST_WIRE l
    s.setLink l { s.link l with located := SMap.set (s.link l).located key 0 0 }
  else s

/-- One part of a host read: its bits in the answer, and the RC fields cleared. -/
def State.readPiece (acc : Nat × State) (p : Piece) : Nat × State :=
  match p.place with
  | .reg r i b =>
    let (v, s) := acc.2.readReg r i
    (acc.1 + placed (bitsOf v (8 * (b + p.size) - 1) (8 * b)) (8 * p.at_), (s.clearLocated r i ((2 ^ (8 * p.size) - 1) * 2 ^ (8 * b))).clearRead r i ((2 ^ (8 * p.size) - 1) * 2 ^ (8 * b)))
  | .peatMap e =>
    let (v, s) := acc.2.mapEntry e
    -- a lost vote leaves the entry unknown: a free value
    match v with
    | some x => (acc.1 + placed x (8 * p.at_), s)
    | none =>
      let (w, s) := s.free
      (acc.1 + placed (w.toNat % 65536) (8 * p.at_), s)
  | _ => acc

/-- A host read of a register (R5, R6). -/
def hostReadReg (f off size : Nat) (s : State) : State :=
  match s.pieces f off size with
  | none => s.answer (.unsupported f)
  | some ps =>
    let (v, s) := ps.foldl State.readPiece (0, s)
    s.answer (.reg f v)

/-- REGISTER_READ_CLEAR. -/
def execRegisterReadClear (f : Fin 13) (off : Nat) (size : Nat) (s : State) : Host.Outcome State Fault Refusal :=
  .next (s.whenClocked fun s => s.whenEnabled f.val (hostReadReg f.val off size))

end Sys2Proof.Machine
end

