-- ==== Sys2Proof/Machine/Dispatch.lean ====
section
/-!
DEFINITION. One arm per command: each calls its own meaning once.
-/
namespace Sys2Proof.Machine

def exec (i : Instr) (s : State) : Host.Outcome State Fault Refusal :=
  match i with
  | .planLoad q p0 => Sys2Proof.Machine.execPlanLoad q p0 s
  | .segmentStaged p => Sys2Proof.Machine.execSegmentStaged p s
  | .planArm q p0 => Sys2Proof.Machine.execPlanArm q p0 s
  | .planDisarm q => Sys2Proof.Machine.execPlanDisarm q s
  | .gustSet q p0 p1 p2 => Sys2Proof.Machine.execGustSet q p0 p1 p2 s
  | .jobStart q p0 => Sys2Proof.Machine.execJobStart q p0 s
  | .jobStop q => Sys2Proof.Machine.execJobStop q s
  | .jobRewind q => Sys2Proof.Machine.execJobRewind q s
  | .kvRootSet q p0 p1 p2 p3 => Sys2Proof.Machine.execKvRootSet q p0 p1 p2 p3 s
  | .kvFork q p0 p1 => Sys2Proof.Machine.execKvFork q p0 p1 s
  | .kvTrim q p0 p1 p2 => Sys2Proof.Machine.execKvTrim q p0 p1 p2 s
  | .kvEvict q p0 p1 p2 p3 p4 => Sys2Proof.Machine.execKvEvict q p0 p1 p2 p3 p4 s
  | .kvPrefetch q p0 p1 p2 p3 p4 => Sys2Proof.Machine.execKvPrefetch q p0 p1 p2 p3 p4 s
  | .kvPageCopyDone p => Sys2Proof.Machine.execKvPageCopyDone p s
  | .memRead q p0 p1 p2 => Sys2Proof.Machine.execMemRead q p0 p1 p2 s
  | .memWrite q p0 p1 p2 => Sys2Proof.Machine.execMemWrite q p0 p1 p2 s
  | .memFence q p0 p1 => Sys2Proof.Machine.execMemFence q p0 p1 s
  | .peatRead q p0 p1 p2 => Sys2Proof.Machine.execPeatRead q p0 p1 p2 s
  | .peatProgram q p0 p1 p2 => Sys2Proof.Machine.execPeatProgram q p0 p1 p2 s
  | .peatErase q p0 p1 => Sys2Proof.Machine.execPeatErase q p0 p1 s
  | .peatStatus q p0 p1 p2 => Sys2Proof.Machine.execPeatStatus q p0 p1 p2 s
  | .peatNandDone ch die res => Sys2Proof.Machine.execPeatNandDone ch die res s
  | .retirePage q p0 p1 => Sys2Proof.Machine.execRetirePage q p0 p1 s
  | .retireBank q p0 p1 => Sys2Proof.Machine.execRetireBank q p0 p1 s
  | .spareEnableColumn q p1 p2 => Sys2Proof.Machine.execSpareEnableColumn q p1 p2 s
  | .spareEnableRow q p1 p2 => Sys2Proof.Machine.execSpareEnableRow q p1 p2 s
  | .spareEnableBond q p1 p2 => Sys2Proof.Machine.execSpareEnableBond q p1 p2 s
  | .spareEnableSite q p1 p2 => Sys2Proof.Machine.execSpareEnableSite q p1 p2 s
  | .spareEnableChannel q p1 p2 => Sys2Proof.Machine.execSpareEnableChannel q p1 p2 s
  | .spareEnableWire q p1 p2 => Sys2Proof.Machine.execSpareEnableWire q p1 p2 s
  | .spareEnableLane q p1 p2 far => Sys2Proof.Machine.execSpareEnableLane q p1 p2 far s
  | .siteMigrationDone c => Sys2Proof.Machine.execSiteMigrationDone c s
  | .marshMigrationDone m => Sys2Proof.Machine.execMarshMigrationDone m s
  | .repairMapRead q p0 p1 => Sys2Proof.Machine.execRepairMapRead q p0 p1 s
  | .repairMapSave => Sys2Proof.Machine.execRepairMapSave s
  | .partCreate q p0 p1 => Sys2Proof.Machine.execPartCreate q p0 p1 s
  | .partCreateDone p => Sys2Proof.Machine.execPartCreateDone p s
  | .partReset q => Sys2Proof.Machine.execPartReset q s
  | .partResetDone p => Sys2Proof.Machine.execPartResetDone p s
  | .partResetTimeout p => Sys2Proof.Machine.execPartResetTimeout p s
  | .partDestroy q => Sys2Proof.Machine.execPartDestroy q s
  | .partDestroyDone p => Sys2Proof.Machine.execPartDestroyDone p s
  | .powerState q p0 => Sys2Proof.Machine.execPowerState q p0 s
  | .diePowerState q p0 => Sys2Proof.Machine.execDiePowerState q p0 s
  | .powerStateEntered => Sys2Proof.Machine.execPowerStateEntered s
  | .thermLimitSet q p0 => Sys2Proof.Machine.execThermLimitSet q p0 s
  | .clearTrip q p0 => Sys2Proof.Machine.execClearTrip q p0 s
  | .monConfig q p0 p1 p2 p3 => Sys2Proof.Machine.execMonConfig q p0 p1 p2 p3 s
  | .monRead q p0 p1 p2 => Sys2Proof.Machine.execMonRead q p0 p1 p2 s
  | .linkRetrain q p0 => Sys2Proof.Machine.execLinkRetrain q p0 s
  | .freeze q => Sys2Proof.Machine.execFreeze q s
  | .licenceLoad q p0 p1 => Sys2Proof.Machine.execLicenceLoad q p0 p1 s
  | .attest q p0 p1 p2 => Sys2Proof.Machine.execAttest q p0 p1 p2 s
  | .fwLoad q p0 p1 => Sys2Proof.Machine.execFwLoad q p0 p1 s
  | .fwWriteDone => Sys2Proof.Machine.execFwWriteDone s
  | .doldrumsEnter q => Sys2Proof.Machine.execDoldrumsEnter q s
  | .doldrumsExit q => Sys2Proof.Machine.execDoldrumsExit q s
  | .sqTail r v => Sys2Proof.Machine.execSqTail r v s
  | .cqHead r v => Sys2Proof.Machine.execCqHead r v s
  | .packetFetch => Sys2Proof.Machine.execPacketFetch s
  | .coalesceTimeout r => Sys2Proof.Machine.execCoalesceTimeout r s
  | .windowRead f off n => Sys2Proof.Machine.execWindowRead f off n s
  | .windowWrite f off bytes => Sys2Proof.Machine.execWindowWrite f off bytes s
  | .vfFlr v => Sys2Proof.Machine.execVfFlr v s
  | .pfFlr => Sys2Proof.Machine.execPfFlr s
  | .hotReset => Sys2Proof.Machine.execHotReset s
  | .linkDown perst => Sys2Proof.Machine.execLinkDown perst s
  | .registerWrite f off size v fw => Sys2Proof.Machine.execRegisterWrite f off size v fw s
  | .registerReadClear f off size => Sys2Proof.Machine.execRegisterReadClear f off size s
  | .hstRingEnable f r v => Sys2Proof.Machine.execHstRingEnable f r v s
  | .evtLogEnable f v => Sys2Proof.Machine.execEvtLogEnable f v s
  | .evtHoldoff f => Sys2Proof.Machine.execEvtHoldoff f s
  | .arrCtlEnable c a v => Sys2Proof.Machine.execArrCtlEnable c a v s
  | .reedCtlEnable c v => Sys2Proof.Machine.execReedCtlEnable c v s
  | .attCtlEnable c v => Sys2Proof.Machine.execAttCtlEnable c v s
  | .kvwCtlEnable c v => Sys2Proof.Machine.execKvwCtlEnable c v s
  | .peatCtlEnable v => Sys2Proof.Machine.execPeatCtlEnable v s
  | .xniPortEnable k v => Sys2Proof.Machine.execXniPortEnable k v s
  | .xniPortRetrain k => Sys2Proof.Machine.execXniPortRetrain k s
  | .dmaChEnable e v => Sys2Proof.Machine.execDmaChEnable e v s
  | .dmaChStop e v => Sys2Proof.Machine.execDmaChStop e v s
  | .arrInjectArm c a v => Sys2Proof.Machine.execArrInjectArm c a v s
  | .fenFlipArm c v => Sys2Proof.Machine.execFenFlipArm c v s
  | .mrsFlipArm m v => Sys2Proof.Machine.execMrsFlipArm m v s
  | .regulatorWrite g p v => Sys2Proof.Machine.execRegulatorWrite g p v s
  | .peatMapWrite k v => Sys2Proof.Machine.execPeatMapWrite k v s
  | .pwrWakeCtlWrite v => Sys2Proof.Machine.execPwrWakeCtlWrite v s
  | .warmReset v kept => Sys2Proof.Machine.execWarmReset v kept s
  | .gustBoundary => Sys2Proof.Machine.execGustBoundary s
  | .lullStart => Sys2Proof.Machine.execLullStart s
  | .commitDecision => Sys2Proof.Machine.execCommitDecision s
  | .commitComplete p => Sys2Proof.Machine.execCommitComplete p s
  | .guardInterval => Sys2Proof.Machine.execGuardInterval s
  | .gustSyncEdge off => Sys2Proof.Machine.execGustSyncEdge off s
  | .markerSend => Sys2Proof.Machine.execMarkerSend s
  | .gustMarker k num hops lead at_ => Sys2Proof.Machine.execGustMarker k num hops lead at_ s
  | .regulatorRefill => Sys2Proof.Machine.execRegulatorRefill s
  | .planCodeInstruction c => Sys2Proof.Machine.execPlanCodeInstruction c s
  | .waitLoad c m rd => Sys2Proof.Machine.execWaitLoad c m rd s
  | .slotEnd c => Sys2Proof.Machine.execSlotEnd c s
  | .pass c w0 w1 w2 w3 => Sys2Proof.Machine.execPass c w0 w1 w2 w3 s
  | .elementwise c w0 w1 w2 w3 => Sys2Proof.Machine.execElementwise c w0 w1 w2 w3 s
  | .drain c w0 w1 w2 w3 => Sys2Proof.Machine.execDrain c w0 w1 w2 w3 s
  | .passStart c e => Sys2Proof.Machine.execPassStart c e s
  | .vld c w0 w1 => Sys2Proof.Machine.execVld c w0 w1 s
  | .vst c w0 w1 => Sys2Proof.Machine.execVst c w0 w1 s
  | .vdrain c w0 w1 => Sys2Proof.Machine.execVdrain c w0 w1 s
  | .vadd c w0 w1 => Sys2Proof.Machine.execVadd c w0 w1 s
  | .vsub c w0 w1 => Sys2Proof.Machine.execVsub c w0 w1 s
  | .vmul c w0 w1 => Sys2Proof.Machine.execVmul c w0 w1 s
  | .vfma c w0 w1 => Sys2Proof.Machine.execVfma c w0 w1 s
  | .vmax c w0 w1 => Sys2Proof.Machine.execVmax c w0 w1 s
  | .vmin c w0 w1 => Sys2Proof.Machine.execVmin c w0 w1 s
  | .vmuls c w0 w1 => Sys2Proof.Machine.execVmuls c w0 w1 s
  | .vadds c w0 w1 => Sys2Proof.Machine.execVadds c w0 w1 s
  | .vcmpgt c w0 w1 => Sys2Proof.Machine.execVcmpgt c w0 w1 s
  | .vsel c w0 w1 => Sys2Proof.Machine.execVsel c w0 w1 s
  | .viota c w0 w1 => Sys2Proof.Machine.execViota c w0 w1 s
  | .vrnd c w0 w1 => Sys2Proof.Machine.execVrnd c w0 w1 s
  | .vexp2 c w0 w1 => Sys2Proof.Machine.execVexp2 c w0 w1 s
  | .vrcp c w0 w1 => Sys2Proof.Machine.execVrcp c w0 w1 s
  | .vrsqrt c w0 w1 => Sys2Proof.Machine.execVrsqrt c w0 w1 s
  | .vlogi c w0 w1 => Sys2Proof.Machine.execVlogi c w0 w1 s
  | .vrsum c w0 w1 => Sys2Proof.Machine.execVrsum c w0 w1 s
  | .vrmax c w0 w1 => Sys2Proof.Machine.execVrmax c w0 w1 s
  | .vprefix c w0 w1 => Sys2Proof.Machine.execVprefix c w0 w1 s
  | .vfirst c w0 w1 => Sys2Proof.Machine.execVfirst c w0 w1 s
  | .vlast c w0 w1 => Sys2Proof.Machine.execVlast c w0 w1 s
  | .tclr c w0 w1 => Sys2Proof.Machine.execTclr c w0 w1 s
  | .tfeed c w0 w1 => Sys2Proof.Machine.execTfeed c w0 w1 s
  | .tfeedx c w0 w1 => Sys2Proof.Machine.execTfeedx c w0 w1 s
  | .tread c w0 w1 => Sys2Proof.Machine.execTread c w0 w1 s
  | .vrand c w0 w1 => Sys2Proof.Machine.execVrand c w0 w1 s
  | .matvec c w0 w1 w2 w3 w4 w5 => Sys2Proof.Machine.execMatvec c w0 w1 w2 w3 w4 w5 s
  | .bcast c w0 w1 w2 w3 w4 w5 => Sys2Proof.Machine.execBcast c w0 w1 w2 w3 w4 w5 s
  | .gather c w0 w1 w2 w3 w4 w5 => Sys2Proof.Machine.execGather c w0 w1 w2 w3 w4 w5 s
  | .copy c w0 w1 w2 w3 w4 w5 => Sys2Proof.Machine.execCopy c w0 w1 w2 w3 w4 w5 s
  | .copyX c w0 w1 w2 w3 w4 w5 => Sys2Proof.Machine.execCopyX c w0 w1 w2 w3 w4 w5 s
  | .init c w0 w1 w2 w3 w4 w5 => Sys2Proof.Machine.execInit c w0 w1 w2 w3 w4 w5 s
  | .logic c w0 w1 w2 w3 w4 w5 => Sys2Proof.Machine.execLogic c w0 w1 w2 w3 w4 w5 s
  | .latch c w0 w1 w2 w3 w4 w5 => Sys2Proof.Machine.execLatch c w0 w1 w2 w3 w4 w5 s
  | .popc c w0 w1 w2 w3 w4 w5 => Sys2Proof.Machine.execPopc c w0 w1 w2 w3 w4 w5 s
  | .popcAnd c w0 w1 w2 w3 w4 w5 => Sys2Proof.Machine.execPopcAnd c w0 w1 w2 w3 w4 w5 s
  | .grainBoundary c b => Sys2Proof.Machine.execGrainBoundary c b s
  | .forward c w0 w1 w2 w3 w4 w5 w6 w7 => Sys2Proof.Machine.execForward c w0 w1 w2 w3 w4 w5 w6 w7 s
  | .backward c w0 w1 w2 w3 w4 w5 w6 w7 => Sys2Proof.Machine.execBackward c w0 w1 w2 w3 w4 w5 w6 w7 s
  | .attentionOpStart c => Sys2Proof.Machine.execAttentionOpStart c s
  | .attentionOpComplete c op => Sys2Proof.Machine.execAttentionOpComplete c op s
  | .append c w0 w1 w2 w3 => Sys2Proof.Machine.execAppend c w0 w1 w2 w3 s
  | .length c w0 w1 w2 w3 => Sys2Proof.Machine.execLength c w0 w1 w2 w3 s
  | .touch c w0 w1 w2 w3 => Sys2Proof.Machine.execTouch c w0 w1 w2 w3 s
  | .netRead c w0 w1 w2 w3 w4 w5 => Sys2Proof.Machine.execNetRead c w0 w1 w2 w3 w4 w5 s
  | .netWrite c w0 w1 w2 w3 w4 w5 => Sys2Proof.Machine.execNetWrite c w0 w1 w2 w3 w4 w5 s
  | .netAtomic c w0 w1 w2 w3 w4 w5 => Sys2Proof.Machine.execNetAtomic c w0 w1 w2 w3 w4 w5 s
  | .netContrib c w0 w1 w2 w3 w4 w5 => Sys2Proof.Machine.execNetContrib c w0 w1 w2 w3 w4 w5 s
  | .netFence c w0 w1 w2 w3 w4 w5 => Sys2Proof.Machine.execNetFence c w0 w1 w2 w3 w4 w5 s
  | .netWait c w0 w1 w2 w3 w4 w5 => Sys2Proof.Machine.execNetWait c w0 w1 w2 w3 w4 w5 s
  | .atomAdd p wide off v => Sys2Proof.Machine.execAtomAdd p wide off v s
  | .atomSmin p wide off v => Sys2Proof.Machine.execAtomSmin p wide off v s
  | .atomSmax p wide off v => Sys2Proof.Machine.execAtomSmax p wide off v s
  | .atomUmin p wide off v => Sys2Proof.Machine.execAtomUmin p wide off v s
  | .atomUmax p wide off v => Sys2Proof.Machine.execAtomUmax p wide off v s
  | .atomCas p wide off cmp v => Sys2Proof.Machine.execAtomCas p wide off cmp v s
  | .dmaPoll e => Sys2Proof.Machine.execDmaPoll e s
  | .dmaCopy e w0 w1 w2 w3 w4 w5 w6 w7 => Sys2Proof.Machine.execDmaCopy e w0 w1 w2 w3 w4 w5 w6 w7 s
  | .dmaSplit e w0 w1 w2 w3 w4 w5 w6 w7 => Sys2Proof.Machine.execDmaSplit e w0 w1 w2 w3 w4 w5 w6 w7 s
  | .dmaMerge e w0 w1 w2 w3 w4 w5 w6 w7 => Sys2Proof.Machine.execDmaMerge e w0 w1 w2 w3 w4 w5 w6 w7 s
  | .dmaFill e w0 w1 w2 w3 w4 w5 w6 w7 => Sys2Proof.Machine.execDmaFill e w0 w1 w2 w3 w4 w5 w6 w7 s
  | .dmaContrib e w0 w1 w2 w3 w4 w5 w6 w7 => Sys2Proof.Machine.execDmaContrib e w0 w1 w2 w3 w4 w5 w6 w7 s
  | .dmaAtomic e w0 w1 w2 w3 w4 w5 w6 w7 => Sys2Proof.Machine.execDmaAtomic e w0 w1 w2 w3 w4 w5 w6 w7 s
  | .dmaWriteBack e => Sys2Proof.Machine.execDmaWriteBack e s
  | .refreshIntervalDue c b busy => Sys2Proof.Machine.execRefreshIntervalDue c b busy s
  | .marshRefreshDue m ch b busy => Sys2Proof.Machine.execMarshRefreshDue m ch b busy s
  | .selfRefreshExit u => Sys2Proof.Machine.execSelfRefreshExit u s
  | .zynFlitReceive u dir fl => Sys2Proof.Machine.execZynFlitReceive u dir fl s
  | .linkTrainingState u bad far => Sys2Proof.Machine.execLinkTrainingState u bad far s
  | .zynGroupRetrain l => Sys2Proof.Machine.execZynGroupRetrain l s
  | .xniFlitReceive k fl => Sys2Proof.Machine.execXniFlitReceive k fl s
  | .alignmentLost k => Sys2Proof.Machine.execAlignmentLost k s
  | .portTrainingState k tr => Sys2Proof.Machine.execPortTrainingState k tr s
  | .mailboxWrite k pkt => Sys2Proof.Machine.execMailboxWrite k pkt s
  | .mailboxAck e status => Sys2Proof.Machine.execMailboxAck e status s
  | .mailboxTimeout e => Sys2Proof.Machine.execMailboxTimeout e s
  | .commitNotice p mb src srcPart step => Sys2Proof.Machine.execCommitNotice p mb src srcPart step s
  | .releaseNotice p n step => Sys2Proof.Machine.execReleaseNotice p n step s
  | .sensorSample k n t => Sys2Proof.Machine.execSensorSample k n t s
  | .msTick inp => Sys2Proof.Machine.execMsTick inp s
  | .trayRead inlet outlet flow => Sys2Proof.Machine.execTrayRead inlet outlet flow s
  | .flowPulse => Sys2Proof.Machine.execFlowPulse s
  | .trayPresenceChange present => Sys2Proof.Machine.execTrayPresenceChange present s
  | .currentClamp => Sys2Proof.Machine.execCurrentClamp s
  | .clampRelease => Sys2Proof.Machine.execClampRelease s
  | .inputOutOfRange => Sys2Proof.Machine.execInputOutOfRange s
  | .inputRangeTimeout => Sys2Proof.Machine.execInputRangeTimeout s
  | .powerFail => Sys2Proof.Machine.execPowerFail s
  | .alwaysOnBrownout => Sys2Proof.Machine.execAlwaysOnBrownout s
  | .wakeN kept => Sys2Proof.Machine.execWakeN kept s
  | .smbusAddressMatch kept => Sys2Proof.Machine.execSmbusAddressMatch kept s
  | .perstN kept => Sys2Proof.Machine.execPerstN kept s
  | .refclkLost => Sys2Proof.Machine.execRefclkLost s
  | .coldPowerOn inp => Sys2Proof.Machine.execColdPowerOn inp s
  | .peatCounterSave => Sys2Proof.Machine.execPeatCounterSave s
  | .wearMinute => Sys2Proof.Machine.execWearMinute s
  | .poweredHour => Sys2Proof.Machine.execPoweredHour s
  | .stillN => Sys2Proof.Machine.execStillN s
  | .freezeRelease kept => Sys2Proof.Machine.execFreezeRelease kept s
  | .bypass bits => Sys2Proof.Machine.execBypass bits s
  | .idcode => Sys2Proof.Machine.execIdcode s
  | .samplePreload preload => Sys2Proof.Machine.execSamplePreload preload s
  | .extest bits => Sys2Proof.Machine.execExtest bits s
  | .regAccess v wr off => Sys2Proof.Machine.execRegAccess v wr off s
  | .dumpSel => Sys2Proof.Machine.execDumpSel s
  | .setEndpointId eid => Sys2Proof.Machine.execSetEndpointId eid s
  | .getTid => Sys2Proof.Machine.execGetTid s
  | .setTid tid => Sys2Proof.Machine.execSetTid tid s
  | .getPldmVersion => Sys2Proof.Machine.execGetPldmVersion s
  | .getPldmTypes => Sys2Proof.Machine.execGetPldmTypes s
  | .getPldmCommands => Sys2Proof.Machine.execGetPldmCommands s
  | .stateEffecterSet v => Sys2Proof.Machine.execStateEffecterSet v s
  | .requestUpdate image => Sys2Proof.Machine.execRequestUpdate image s
  | .activateFirmware kept => Sys2Proof.Machine.execActivateFirmware kept s
  | .getVersion req => Sys2Proof.Machine.execGetVersion req s
  | .getCapabilities req => Sys2Proof.Machine.execGetCapabilities req s
  | .negotiateAlgorithms req => Sys2Proof.Machine.execNegotiateAlgorithms req s
  | .getDigests req => Sys2Proof.Machine.execGetDigests req s
  | .getCertificate req => Sys2Proof.Machine.execGetCertificate req s
  | .challenge req => Sys2Proof.Machine.execChallenge req s
  | .getMeasurements req => Sys2Proof.Machine.execGetMeasurements req s
  | .refclkStable => Sys2Proof.Machine.execRefclkStable s
  | .inputBackWithinRange => Sys2Proof.Machine.execInputBackWithinRange s
  | .hostLinkUp width speed form => Sys2Proof.Machine.execHostLinkUp width speed form s
  | .transitFault d => Sys2Proof.Machine.execTransitFault d s
  | .numericSensorRead id => Sys2Proof.Machine.execNumericSensorRead id s
  | .stateSensorRead id => Sys2Proof.Machine.execStateSensorRead id s
  | .pdrRepositoryRead handle => Sys2Proof.Machine.execPdrRepositoryRead handle s
  | .platformEventPoll => Sys2Proof.Machine.execPlatformEventPoll s
  | .fruDataRead => Sys2Proof.Machine.execFruDataRead s
  | .chunking chunk last => Sys2Proof.Machine.execChunking chunk last s

end Sys2Proof.Machine
end

