-- ==== Sys2Proof/WellFormed.lean ====
section
/-!
DEFINITION. Well-formed commands: the operands name units that exist, and the words are those of the row (a descriptor carries its row's OP or KIND, the two rows
that split an opcode by a field carry that field). Any other term stands for no command that can be sent (notes/assumptions/7.md), and its meaning answers with a fault.
-/
namespace Sys2Proof

open Sys2Proof.Machine

/-- Whether a term stands for a command of its row. -/
def Instr.wellFormed : Instr → Bool
  | .planLoad _ _ => true
  | .segmentStaged _ => true
  | .planArm _ _ => true
  | .planDisarm _ => true
  | .gustSet _ _ _ _ => true
  | .jobStart _ _ => true
  | .jobStop _ => true
  | .jobRewind _ => true
  | .kvRootSet _ _ _ _ _ => true
  | .kvFork _ _ _ => true
  | .kvTrim _ _ _ _ => true
  | .kvEvict _ _ _ _ _ _ => true
  | .kvPrefetch _ _ _ _ _ _ => true
  | .kvPageCopyDone _ => true
  | .memRead _ _ _ _ => true
  | .memWrite _ _ _ _ => true
  | .memFence _ _ _ => true
  | .peatRead _ _ _ _ => true
  | .peatProgram _ _ _ _ => true
  | .peatErase _ _ _ => true
  | .peatStatus _ _ _ _ => true
  | .peatNandDone _ _ _ => true
  | .retirePage _ _ _ => true
  | .retireBank _ _ _ => true
  | .spareEnableColumn _ _ _ => true
  | .spareEnableRow _ _ _ => true
  | .spareEnableBond _ _ _ => true
  | .spareEnableSite _ _ _ => true
  | .spareEnableChannel _ _ _ => true
  | .spareEnableWire _ _ _ => true
  | .spareEnableLane _ _ _ _ => true
  | .siteMigrationDone _ => true
  | .marshMigrationDone _ => true
  | .repairMapRead _ _ _ => true
  | .repairMapSave => true
  | .partCreate _ _ _ => true
  | .partCreateDone _ => true
  | .partReset _ => true
  | .partResetDone _ => true
  | .partResetTimeout _ => true
  | .partDestroy _ => true
  | .partDestroyDone _ => true
  | .powerState _ p0 => fieldOf p0 5 4 != 1 && fieldOf p0 5 4 != 2
  | .diePowerState _ p0 => fieldOf p0 5 4 == 1 || fieldOf p0 5 4 == 2
  | .powerStateEntered => true
  | .thermLimitSet _ p0 => !flagOf p0 32
  | .clearTrip _ p0 => flagOf p0 32
  | .monConfig _ _ _ _ _ => true
  | .monRead _ _ _ _ => true
  | .linkRetrain _ _ => true
  | .freeze _ => true
  | .licenceLoad _ _ _ => true
  | .attest _ _ _ _ => true
  | .fwLoad _ _ _ => true
  | .fwWriteDone => true
  | .doldrumsEnter _ => true
  | .doldrumsExit _ => true
  | .sqTail _ _ => true
  | .cqHead _ _ => true
  | .packetFetch => true
  | .coalesceTimeout _ => true
  | .windowRead _ off n => decide (1 ≤ n ∧ n ≤ 4096 ∧ off + n ≤ 2 ^ 36)
  | .windowWrite _ off bytes => decide (1 ≤ bytes.length ∧ bytes.length ≤ 4096 ∧ off + bytes.length ≤ 2 ^ 36)
  | .vfFlr _ => true
  | .pfFlr => true
  | .hotReset => true
  | .linkDown _ => true
  | .registerWrite _ _ _ _ _ => true
  | .registerReadClear _ _ _ => true
  | .hstRingEnable _ _ _ => true
  | .evtLogEnable _ _ => true
  | .evtHoldoff _ => true
  | .arrCtlEnable _ _ _ => true
  | .reedCtlEnable _ _ => true
  | .attCtlEnable _ _ => true
  | .kvwCtlEnable _ _ => true
  | .peatCtlEnable _ => true
  | .xniPortEnable _ _ => true
  | .xniPortRetrain _ => true
  | .dmaChEnable _ _ => true
  | .dmaChStop _ _ => true
  | .arrInjectArm _ _ _ => true
  | .fenFlipArm _ _ => true
  | .mrsFlipArm _ _ => true
  | .regulatorWrite _ _ _ => true
  | .peatMapWrite i _ => decide (i < 524288)
  | .pwrWakeCtlWrite _ => true
  | .warmReset _ _ => true
  | .gustBoundary => true
  | .lullStart => true
  | .commitDecision => true
  | .commitComplete _ => true
  | .guardInterval => true
  | .gustSyncEdge _ => true
  | .markerSend => true
  | .gustMarker _ _ _ _ _ => true
  | .regulatorRefill => true
  | .planCodeInstruction _ => true
  | .waitLoad _ _ _ => true
  | .slotEnd _ => true
  | .pass _ w0 _ _ _ => fieldOf w0 3 0 == 1
  | .elementwise _ w0 _ _ _ => fieldOf w0 3 0 == 2
  | .drain _ w0 _ _ _ => fieldOf w0 3 0 == 3
  | .passStart _ _ => true
  | .vld _ w0 _ => fieldOf w0 7 0 == 0x01
  | .vst _ w0 _ => fieldOf w0 7 0 == 0x02
  | .vdrain _ w0 _ => fieldOf w0 7 0 == 0x03
  | .vadd _ w0 _ => fieldOf w0 7 0 == 0x10
  | .vsub _ w0 _ => fieldOf w0 7 0 == 0x11
  | .vmul _ w0 _ => fieldOf w0 7 0 == 0x12
  | .vfma _ w0 _ => fieldOf w0 7 0 == 0x13
  | .vmax _ w0 _ => fieldOf w0 7 0 == 0x14
  | .vmin _ w0 _ => fieldOf w0 7 0 == 0x15
  | .vmuls _ w0 _ => fieldOf w0 7 0 == 0x16
  | .vadds _ w0 _ => fieldOf w0 7 0 == 0x17
  | .vcmpgt _ w0 _ => fieldOf w0 7 0 == 0x18
  | .vsel _ w0 _ => fieldOf w0 7 0 == 0x19
  | .viota _ w0 _ => fieldOf w0 7 0 == 0x1A
  | .vrnd _ w0 _ => fieldOf w0 7 0 == 0x1B
  | .vexp2 _ w0 _ => fieldOf w0 7 0 == 0x20
  | .vrcp _ w0 _ => fieldOf w0 7 0 == 0x21
  | .vrsqrt _ w0 _ => fieldOf w0 7 0 == 0x22
  | .vlogi _ w0 _ => fieldOf w0 7 0 == 0x23
  | .vrsum _ w0 _ => fieldOf w0 7 0 == 0x28
  | .vrmax _ w0 _ => fieldOf w0 7 0 == 0x29
  | .vprefix _ w0 _ => fieldOf w0 7 0 == 0x2A
  | .vfirst _ w0 _ => fieldOf w0 7 0 == 0x2B
  | .vlast _ w0 _ => fieldOf w0 7 0 == 0x2C
  | .tclr _ w0 _ => fieldOf w0 7 0 == 0x30
  | .tfeed _ w0 _ => fieldOf w0 7 0 == 0x31
  | .tfeedx _ w0 _ => fieldOf w0 7 0 == 0x32
  | .tread _ w0 _ => fieldOf w0 7 0 == 0x33
  | .vrand _ w0 _ => fieldOf w0 7 0 == 0x38
  | .matvec _ w0 _ _ _ _ _ => fieldOf w0 3 0 == 1
  | .bcast _ w0 _ _ _ _ _ => fieldOf w0 3 0 == 2
  | .gather _ w0 _ _ _ _ _ => fieldOf w0 3 0 == 3
  | .copy _ w0 _ _ _ _ _ => fieldOf w0 3 0 == 4
  | .copyX _ w0 _ _ _ _ _ => fieldOf w0 3 0 == 5
  | .init _ w0 _ _ _ _ _ => fieldOf w0 3 0 == 6
  | .logic _ w0 _ _ _ _ _ => fieldOf w0 3 0 == 7
  | .latch _ w0 _ _ _ _ _ => fieldOf w0 3 0 == 8
  | .popc _ w0 _ _ _ _ _ => fieldOf w0 3 0 == 9
  | .popcAnd _ w0 _ _ _ _ _ => fieldOf w0 3 0 == 10
  | .grainBoundary _ _ => true
  | .forward _ w0 _ _ _ _ _ _ _ => fieldOf w0 3 0 == 1
  | .backward _ w0 _ _ _ _ _ _ _ => fieldOf w0 3 0 == 2
  | .attentionOpStart _ => true
  | .attentionOpComplete _ _ => true
  | .append _ w0 _ _ _ => fieldOf w0 3 0 == 1
  | .length _ w0 _ _ _ => fieldOf w0 3 0 == 2
  | .touch _ w0 _ _ _ => fieldOf w0 3 0 == 3
  | .netRead _ w0 _ _ _ _ _ => fieldOf w0 3 0 == 1
  | .netWrite _ w0 _ _ _ _ _ => fieldOf w0 3 0 == 2
  | .netAtomic _ w0 _ _ _ _ _ => fieldOf w0 3 0 == 3
  | .netContrib _ w0 _ _ _ _ _ => fieldOf w0 3 0 == 4
  | .netFence _ w0 _ _ _ _ _ => fieldOf w0 3 0 == 5
  | .netWait _ w0 _ _ _ _ _ => fieldOf w0 3 0 == 6
  | .atomAdd _ _ _ _ => true
  | .atomSmin _ _ _ _ => true
  | .atomSmax _ _ _ _ => true
  | .atomUmin _ _ _ _ => true
  | .atomUmax _ _ _ _ => true
  | .atomCas _ _ _ _ _ => true
  | .dmaPoll _ => true
  | .dmaCopy _ w0 _ _ _ _ _ _ _ => fieldOf w0 7 4 == 1
  | .dmaSplit _ w0 _ _ _ _ _ _ _ => fieldOf w0 7 4 == 2
  | .dmaMerge _ w0 _ _ _ _ _ _ _ => fieldOf w0 7 4 == 3
  | .dmaFill _ w0 _ _ _ _ _ _ _ => fieldOf w0 7 4 == 4
  | .dmaContrib _ w0 _ _ _ _ _ _ _ => fieldOf w0 7 4 == 5
  | .dmaAtomic _ w0 _ _ _ _ _ _ _ => fieldOf w0 7 4 == 6
  | .dmaWriteBack _ => true
  | .refreshIntervalDue _ _ _ => true
  | .marshRefreshDue _ _ _ _ => true
  | .selfRefreshExit _ => true
  | .zynFlitReceive _ _ _ => true
  | .linkTrainingState _ _ _ => true
  | .zynGroupRetrain _ => true
  | .xniFlitReceive _ _ => true
  | .alignmentLost _ => true
  | .portTrainingState _ _ => true
  | .mailboxWrite _ _ => true
  | .mailboxAck _ _ => true
  | .mailboxTimeout _ => true
  | .commitNotice _ _ _ _ _ => true
  | .releaseNotice _ _ _ => true
  | .sensorSample k i _ => decide (i < kindCount k)
  | .msTick _ => true
  | .trayRead _ _ _ => true
  | .flowPulse => true
  | .trayPresenceChange _ => true
  | .currentClamp => true
  | .clampRelease => true
  | .inputOutOfRange => true
  | .inputRangeTimeout => true
  | .powerFail => true
  | .alwaysOnBrownout => true
  | .wakeN _ => true
  | .smbusAddressMatch _ => true
  | .perstN _ => true
  | .refclkLost => true
  | .coldPowerOn _ => true
  | .peatCounterSave => true
  | .wearMinute => true
  | .poweredHour => true
  | .stillN => true
  | .freezeRelease _ => true
  | .bypass _ => true
  | .idcode => true
  | .samplePreload _ => true
  | .extest _ => true
  | .regAccess _ _ off => (tapReg off).isSome
  | .dumpSel => true
  | .setEndpointId _ => true
  | .getTid => true
  | .setTid _ => true
  | .getPldmVersion => true
  | .getPldmTypes => true
  | .getPldmCommands => true
  | .stateEffecterSet _ => true
  | .requestUpdate _ => true
  | .activateFirmware _ => true
  | .getVersion _ => true
  | .getCapabilities _ => true
  | .negotiateAlgorithms _ => true
  | .getDigests _ => true
  | .getCertificate _ => true
  | .challenge _ => true
  | .getMeasurements _ => true
  | .refclkStable => true
  | .inputBackWithinRange => true
  | .hostLinkUp width speed form => linkFormOk width.val speed.val form
  | .transitFault _ => true
  | .numericSensorRead _ => true
  | .stateSensorRead _ => true
  | .pdrRepositoryRead _ => true
  | .platformEventPoll => true
  | .fruDataRead => true
  | .chunking _ _ => true

end Sys2Proof
end

