-- ==== Sys2Proof/Safety.lean ====
section
/-!
DEFINITION. The terms in which claims about the block are stated: commands that need the module's clocks, a stopped module, host commands and when they are
accepted, what a command leaves as it was.
-/
namespace Sys2Proof

open Sys2Proof.Machine

/-- Commands whose effect needs the module's clocks (R366, R410): all but those of the debug port, the management path, the sensors, the power input and the
always-on domain. -/
def Instr.clockedOnly : Instr → Bool
  | .planLoad _ _ => true
  | .segmentStaged _ => true
  | .planArm _ _ => true
  | .planDisarm _ => true
  | .gustSet _ _ _ _ => true
  | .jobStart _ _ => true
  | .jobStop _ => true
  | .jobRewind _ => true
  | .kvRootSet _ _ _ _ _ => true
  | .kvFork _ _ _ => true
  | .kvTrim _ _ _ _ => true
  | .kvEvict _ _ _ _ _ _ => true
  | .kvPrefetch _ _ _ _ _ _ => true
  | .kvPageCopyDone _ => true
  | .memRead _ _ _ _ => true
  | .memWrite _ _ _ _ => true
  | .memFence _ _ _ => true
  | .peatRead _ _ _ _ => true
  | .peatProgram _ _ _ _ => true
  | .peatErase _ _ _ => true
  | .peatStatus _ _ _ _ => true
  | .peatNandDone _ _ _ => true
  | .retirePage _ _ _ => true
  | .retireBank _ _ _ => true
  | .spareEnableColumn _ _ _ => true
  | .spareEnableRow _ _ _ => true
  | .spareEnableBond _ _ _ => true
  | .spareEnableSite _ _ _ => true
  | .spareEnableChannel _ _ _ => true
  | .spareEnableWire _ _ _ => true
  | .spareEnableLane _ _ _ _ => true
  | .siteMigrationDone _ => true
  | .marshMigrationDone _ => true
  | .repairMapRead _ _ _ => true
  | .repairMapSave => true
  | .partCreate _ _ _ => true
  | .partCreateDone _ => true
  | .partReset _ => true
  | .partResetDone _ => true
  | .partResetTimeout _ => true
  | .partDestroy _ => true
  | .partDestroyDone _ => true
  | .powerState _ _ => true
  | .diePowerState _ _ => true
  | .powerStateEntered => true
  | .thermLimitSet _ _ => true
  | .clearTrip _ _ => false
  | .monConfig _ _ _ _ _ => true
  | .monRead _ _ _ _ => true
  | .linkRetrain _ _ => true
  | .freeze _ => true
  | .licenceLoad _ _ _ => true
  | .attest _ _ _ _ => true
  | .fwLoad _ _ _ => true
  | .fwWriteDone => true
  | .doldrumsEnter _ => true
  | .doldrumsExit _ => true
  | .sqTail _ _ => true
  | .cqHead _ _ => true
  | .packetFetch => true
  | .coalesceTimeout _ => true
  | .windowRead _ _ _ => true
  | .windowWrite _ _ _ => true
  | .vfFlr _ => true
  | .pfFlr => true
  | .hotReset => true
  | .linkDown _ => false
  | .registerWrite _ _ _ _ _ => true
  | .registerReadClear _ _ _ => true
  | .hstRingEnable _ _ _ => true
  | .evtLogEnable _ _ => true
  | .evtHoldoff _ => true
  | .arrCtlEnable _ _ _ => true
  | .reedCtlEnable _ _ => true
  | .attCtlEnable _ _ => true
  | .kvwCtlEnable _ _ => true
  | .peatCtlEnable _ => true
  | .xniPortEnable _ _ => true
  | .xniPortRetrain _ => true
  | .dmaChEnable _ _ => true
  | .dmaChStop _ _ => true
  | .arrInjectArm _ _ _ => true
  | .fenFlipArm _ _ => true
  | .mrsFlipArm _ _ => true
  | .regulatorWrite _ _ _ => true
  | .peatMapWrite _ _ => true
  | .pwrWakeCtlWrite _ => true
  | .warmReset _ _ => true
  | .gustBoundary => true
  | .lullStart => true
  | .commitDecision => true
  | .commitComplete _ => true
  | .guardInterval => true
  | .gustSyncEdge _ => true
  | .markerSend => true
  | .gustMarker _ _ _ _ _ => true
  | .regulatorRefill => true
  | .planCodeInstruction _ => true
  | .waitLoad _ _ _ => true
  | .slotEnd _ => true
  | .pass _ _ _ _ _ => true
  | .elementwise _ _ _ _ _ => true
  | .drain _ _ _ _ _ => true
  | .passStart _ _ => true
  | .vld _ _ _ => true
  | .vst _ _ _ => true
  | .vdrain _ _ _ => true
  | .vadd _ _ _ => true
  | .vsub _ _ _ => true
  | .vmul _ _ _ => true
  | .vfma _ _ _ => true
  | .vmax _ _ _ => true
  | .vmin _ _ _ => true
  | .vmuls _ _ _ => true
  | .vadds _ _ _ => true
  | .vcmpgt _ _ _ => true
  | .vsel _ _ _ => true
  | .viota _ _ _ => true
  | .vrnd _ _ _ => true
  | .vexp2 _ _ _ => true
  | .vrcp _ _ _ => true
  | .vrsqrt _ _ _ => true
  | .vlogi _ _ _ => true
  | .vrsum _ _ _ => true
  | .vrmax _ _ _ => true
  | .vprefix _ _ _ => true
  | .vfirst _ _ _ => true
  | .vlast _ _ _ => true
  | .tclr _ _ _ => true
  | .tfeed _ _ _ => true
  | .tfeedx _ _ _ => true
  | .tread _ _ _ => true
  | .vrand _ _ _ => true
  | .matvec _ _ _ _ _ _ _ => true
  | .bcast _ _ _ _ _ _ _ => true
  | .gather _ _ _ _ _ _ _ => true
  | .copy _ _ _ _ _ _ _ => true
  | .copyX _ _ _ _ _ _ _ => true
  | .init _ _ _ _ _ _ _ => true
  | .logic _ _ _ _ _ _ _ => true
  | .latch _ _ _ _ _ _ _ => true
  | .popc _ _ _ _ _ _ _ => true
  | .popcAnd _ _ _ _ _ _ _ => true
  | .grainBoundary _ _ => true
  | .forward _ _ _ _ _ _ _ _ _ => true
  | .backward _ _ _ _ _ _ _ _ _ => true
  | .attentionOpStart _ => true
  | .attentionOpComplete _ _ => true
  | .append _ _ _ _ _ => true
  | .length _ _ _ _ _ => true
  | .touch _ _ _ _ _ => true
  | .netRead _ _ _ _ _ _ _ => true
  | .netWrite _ _ _ _ _ _ _ => true
  | .netAtomic _ _ _ _ _ _ _ => true
  | .netContrib _ _ _ _ _ _ _ => true
  | .netFence _ _ _ _ _ _ _ => true
  | .netWait _ _ _ _ _ _ _ => true
  | .atomAdd _ _ _ _ => true
  | .atomSmin _ _ _ _ => true
  | .atomSmax _ _ _ _ => true
  | .atomUmin _ _ _ _ => true
  | .atomUmax _ _ _ _ => true
  | .atomCas _ _ _ _ _ => true
  | .dmaPoll _ => true
  | .dmaCopy _ _ _ _ _ _ _ _ _ => true
  | .dmaSplit _ _ _ _ _ _ _ _ _ => true
  | .dmaMerge _ _ _ _ _ _ _ _ _ => true
  | .dmaFill _ _ _ _ _ _ _ _ _ => true
  | .dmaContrib _ _ _ _ _ _ _ _ _ => true
  | .dmaAtomic _ _ _ _ _ _ _ _ _ => true
  | .dmaWriteBack _ => true
  | .refreshIntervalDue _ _ _ => true
  | .marshRefreshDue _ _ _ _ => true
  | .selfRefreshExit _ => true
  | .zynFlitReceive _ _ _ => true
  | .linkTrainingState _ _ _ => true
  | .zynGroupRetrain _ => true
  | .xniFlitReceive _ _ => true
  | .alignmentLost _ => true
  | .portTrainingState _ _ => true
  | .mailboxWrite _ _ => true
  | .mailboxAck _ _ => true
  | .mailboxTimeout _ => true
  | .commitNotice _ _ _ _ _ => true
  | .releaseNotice _ _ _ => true
  | .sensorSample _ _ _ => false
  | .msTick _ => false
  | .trayRead _ _ _ => false
  | .flowPulse => false
  | .trayPresenceChange _ => false
  | .currentClamp => false
  | .clampRelease => false
  | .inputOutOfRange => false
  | .inputRangeTimeout => false
  | .powerFail => false
  | .alwaysOnBrownout => false
  | .wakeN _ => false
  | .smbusAddressMatch _ => false
  | .perstN _ => false
  | .refclkLost => false
  | .coldPowerOn _ => false
  | .peatCounterSave => true
  | .wearMinute => false
  | .poweredHour => false
  | .stillN => true
  | .freezeRelease _ => false
  | .bypass _ => false
  | .idcode => false
  | .samplePreload _ => false
  | .extest _ => false
  | .regAccess _ _ _ => false
  | .dumpSel => false
  | .setEndpointId _ => false
  | .getTid => false
  | .setTid _ => false
  | .getPldmVersion => false
  | .getPldmTypes => false
  | .getPldmCommands => false
  | .stateEffecterSet _ => false
  | .requestUpdate _ => false
  | .activateFirmware _ => false
  | .getVersion _ => false
  | .getCapabilities _ => false
  | .negotiateAlgorithms _ => false
  | .getDigests _ => false
  | .getCertificate _ => false
  | .challenge _ => false
  | .getMeasurements _ => false
  | .refclkStable => false
  | .inputBackWithinRange => false
  | .hostLinkUp _ _ _ => true
  | .transitFault _ => true
  | .numericSensorRead _ => false
  | .stateSensorRead _ => false
  | .pdrRepositoryRead _ => false
  | .platformEventPoll => false
  | .fruDataRead => false
  | .chunking _ _ => false

/-- The host commands of R289, with the opcode, the header and the parameter words that they carry. -/
def Instr.hostCommand : Instr → Option (HostOp × Req × List Word)
  | .planLoad q p0 => some (opPlanLoad, q, [p0])
  | .segmentStaged _ => none
  | .planArm q p0 => some (opPlanArm, q, [p0])
  | .planDisarm q => some (opPlanDisarm, q, [])
  | .gustSet q p0 p1 p2 => some (opGustSet, q, [p0, p1, p2])
  | .jobStart q p0 => some (opJobStart, q, [p0])
  | .jobStop q => some (opJobStop, q, [])
  | .jobRewind q => some (opJobRewind, q, [])
  | .kvRootSet q p0 p1 p2 p3 => some (opKvRootSet, q, [p0, p1, p2, p3])
  | .kvFork q p0 p1 => some (opKvFork, q, [p0, p1])
  | .kvTrim q p0 p1 p2 => some (opKvTrim, q, [p0, p1, p2])
  | .kvEvict q p0 p1 p2 p3 p4 => some (opKvEvict, q, [p0, p1, p2, p3, p4])
  | .kvPrefetch q p0 p1 p2 p3 p4 => some (opKvPrefetch, q, [p0, p1, p2, p3, p4])
  | .kvPageCopyDone _ => none
  | .memRead q p0 p1 p2 => some (opMemRead, q, [p0, p1, p2])
  | .memWrite q p0 p1 p2 => some (opMemWrite, q, [p0, p1, p2])
  | .memFence q p0 p1 => some (opMemFence, q, [p0, p1])
  | .peatRead q p0 p1 p2 => some (opPeatRead, q, [p0, p1, p2])
  | .peatProgram q p0 p1 p2 => some (opPeatProgram, q, [p0, p1, p2])
  | .peatErase q p0 p1 => some (opPeatErase, q, [p0, p1])
  | .peatStatus q p0 p1 p2 => some (opPeatStatus, q, [p0, p1, p2])
  | .peatNandDone _ _ _ => none
  | .retirePage q p0 p1 => some (opRetirePage, q, [p0, p1])
  | .retireBank q p0 p1 => some (opRetireBank, q, [p0, p1])
  | .spareEnableColumn q p1 p2 => some (opSpareEnable 1, q, [BitVec.ofNat 64 1, p1, p2])
  | .spareEnableRow q p1 p2 => some (opSpareEnable 2, q, [BitVec.ofNat 64 2, p1, p2])
  | .spareEnableBond q p1 p2 => some (opSpareEnable 3, q, [BitVec.ofNat 64 3, p1, p2])
  | .spareEnableSite q p1 p2 => some (opSpareEnable 4, q, [BitVec.ofNat 64 4, p1, p2])
  | .spareEnableChannel q p1 p2 => some (opSpareEnable 5, q, [BitVec.ofNat 64 5, p1, p2])
  | .spareEnableWire q p1 p2 => some (opSpareEnable 6, q, [BitVec.ofNat 64 6, p1, p2])
  | .spareEnableLane q p1 p2 _ => some (opSpareEnable 7, q, [BitVec.ofNat 64 7, p1, p2])
  | .siteMigrationDone _ => none
  | .marshMigrationDone _ => none
  | .repairMapRead q p0 p1 => some (opRepairMapRead, q, [p0, p1])
  | .repairMapSave => none
  | .partCreate q p0 p1 => some (opPartCreate, q, [p0, p1])
  | .partCreateDone _ => none
  | .partReset q => some (opPartReset, q, [])
  | .partResetDone _ => none
  | .partResetTimeout _ => none
  | .partDestroy q => some (opPartDestroy, q, [])
  | .partDestroyDone _ => none
  | .powerState q p0 => some (opPowerState, q, [p0])
  | .diePowerState q p0 => some (opPowerState, q, [p0])
  | .powerStateEntered => none
  | .thermLimitSet q p0 => some (opThermLimitSet, q, [p0])
  | .clearTrip q p0 => some (opThermLimitSet, q, [p0])
  | .monConfig q p0 p1 p2 p3 => some (opMonConfig, q, [p0, p1, p2, p3])
  | .monRead q p0 p1 p2 => some (opMonRead, q, [p0, p1, p2])
  | .linkRetrain q p0 => some (opLinkRetrain, q, [p0])
  | .freeze q => some (opFreeze, q, [])
  | .licenceLoad q p0 p1 => some (opLicenceLoad, q, [p0, p1])
  | .attest q p0 p1 p2 => some (opAttest, q, [p0, p1, p2])
  | .fwLoad q p0 p1 => some (opFwLoad, q, [p0, p1])
  | .fwWriteDone => none
  | .doldrumsEnter q => some (opDoldrumsEnter, q, [])
  | .doldrumsExit q => some (opDoldrumsExit, q, [])
  | .sqTail _ _ => none
  | .cqHead _ _ => none
  | .packetFetch => none
  | .coalesceTimeout _ => none
  | .windowRead _ _ _ => none
  | .windowWrite _ _ _ => none
  | .vfFlr _ => none
  | .pfFlr => none
  | .hotReset => none
  | .linkDown _ => none
  | .registerWrite _ _ _ _ _ => none
  | .registerReadClear _ _ _ => none
  | .hstRingEnable _ _ _ => none
  | .evtLogEnable _ _ => none
  | .evtHoldoff _ => none
  | .arrCtlEnable _ _ _ => none
  | .reedCtlEnable _ _ => none
  | .attCtlEnable _ _ => none
  | .kvwCtlEnable _ _ => none
  | .peatCtlEnable _ => none
  | .xniPortEnable _ _ => none
  | .xniPortRetrain _ => none
  | .dmaChEnable _ _ => none
  | .dmaChStop _ _ => none
  | .arrInjectArm _ _ _ => none
  | .fenFlipArm _ _ => none
  | .mrsFlipArm _ _ => none
  | .regulatorWrite _ _ _ => none
  | .peatMapWrite _ _ => none
  | .pwrWakeCtlWrite _ => none
  | .warmReset _ _ => none
  | .gustBoundary => none
  | .lullStart => none
  | .commitDecision => none
  | .commitComplete _ => none
  | .guardInterval => none
  | .gustSyncEdge _ => none
  | .markerSend => none
  | .gustMarker _ _ _ _ _ => none
  | .regulatorRefill => none
  | .planCodeInstruction _ => none
  | .waitLoad _ _ _ => none
  | .slotEnd _ => none
  | .pass _ _ _ _ _ => none
  | .elementwise _ _ _ _ _ => none
  | .drain _ _ _ _ _ => none
  | .passStart _ _ => none
  | .vld _ _ _ => none
  | .vst _ _ _ => none
  | .vdrain _ _ _ => none
  | .vadd _ _ _ => none
  | .vsub _ _ _ => none
  | .vmul _ _ _ => none
  | .vfma _ _ _ => none
  | .vmax _ _ _ => none
  | .vmin _ _ _ => none
  | .vmuls _ _ _ => none
  | .vadds _ _ _ => none
  | .vcmpgt _ _ _ => none
  | .vsel _ _ _ => none
  | .viota _ _ _ => none
  | .vrnd _ _ _ => none
  | .vexp2 _ _ _ => none
  | .vrcp _ _ _ => none
  | .vrsqrt _ _ _ => none
  | .vlogi _ _ _ => none
  | .vrsum _ _ _ => none
  | .vrmax _ _ _ => none
  | .vprefix _ _ _ => none
  | .vfirst _ _ _ => none
  | .vlast _ _ _ => none
  | .tclr _ _ _ => none
  | .tfeed _ _ _ => none
  | .tfeedx _ _ _ => none
  | .tread _ _ _ => none
  | .vrand _ _ _ => none
  | .matvec _ _ _ _ _ _ _ => none
  | .bcast _ _ _ _ _ _ _ => none
  | .gather _ _ _ _ _ _ _ => none
  | .copy _ _ _ _ _ _ _ => none
  | .copyX _ _ _ _ _ _ _ => none
  | .init _ _ _ _ _ _ _ => none
  | .logic _ _ _ _ _ _ _ => none
  | .latch _ _ _ _ _ _ _ => none
  | .popc _ _ _ _ _ _ _ => none
  | .popcAnd _ _ _ _ _ _ _ => none
  | .grainBoundary _ _ => none
  | .forward _ _ _ _ _ _ _ _ _ => none
  | .backward _ _ _ _ _ _ _ _ _ => none
  | .attentionOpStart _ => none
  | .attentionOpComplete _ _ => none
  | .append _ _ _ _ _ => none
  | .length _ _ _ _ _ => none
  | .touch _ _ _ _ _ => none
  | .netRead _ _ _ _ _ _ _ => none
  | .netWrite _ _ _ _ _ _ _ => none
  | .netAtomic _ _ _ _ _ _ _ => none
  | .netContrib _ _ _ _ _ _ _ => none
  | .netFence _ _ _ _ _ _ _ => none
  | .netWait _ _ _ _ _ _ _ => none
  | .atomAdd _ _ _ _ => none
  | .atomSmin _ _ _ _ => none
  | .atomSmax _ _ _ _ => none
  | .atomUmin _ _ _ _ => none
  | .atomUmax _ _ _ _ => none
  | .atomCas _ _ _ _ _ => none
  | .dmaPoll _ => none
  | .dmaCopy _ _ _ _ _ _ _ _ _ => none
  | .dmaSplit _ _ _ _ _ _ _ _ _ => none
  | .dmaMerge _ _ _ _ _ _ _ _ _ => none
  | .dmaFill _ _ _ _ _ _ _ _ _ => none
  | .dmaContrib _ _ _ _ _ _ _ _ _ => none
  | .dmaAtomic _ _ _ _ _ _ _ _ _ => none
  | .dmaWriteBack _ => none
  | .refreshIntervalDue _ _ _ => none
  | .marshRefreshDue _ _ _ _ => none
  | .selfRefreshExit _ => none
  | .zynFlitReceive _ _ _ => none
  | .linkTrainingState _ _ _ => none
  | .zynGroupRetrain _ => none
  | .xniFlitReceive _ _ => none
  | .alignmentLost _ => none
  | .portTrainingState _ _ => none
  | .mailboxWrite _ _ => none
  | .mailboxAck _ _ => none
  | .mailboxTimeout _ => none
  | .commitNotice _ _ _ _ _ => none
  | .releaseNotice _ _ _ => none
  | .sensorSample _ _ _ => none
  | .msTick _ => none
  | .trayRead _ _ _ => none
  | .flowPulse => none
  | .trayPresenceChange _ => none
  | .currentClamp => none
  | .clampRelease => none
  | .inputOutOfRange => none
  | .inputRangeTimeout => none
  | .powerFail => none
  | .alwaysOnBrownout => none
  | .wakeN _ => none
  | .smbusAddressMatch _ => none
  | .perstN _ => none
  | .refclkLost => none
  | .coldPowerOn _ => none
  | .peatCounterSave => none
  | .wearMinute => none
  | .poweredHour => none
  | .stillN => none
  | .freezeRelease _ => none
  | .bypass _ => none
  | .idcode => none
  | .samplePreload _ => none
  | .extest _ => none
  | .regAccess _ _ _ => none
  | .dumpSel => none
  | .setEndpointId _ => none
  | .getTid => none
  | .setTid _ => none
  | .getPldmVersion => none
  | .getPldmTypes => none
  | .getPldmCommands => none
  | .stateEffecterSet _ => none
  | .requestUpdate _ => none
  | .activateFirmware _ => none
  | .getVersion _ => none
  | .getCapabilities _ => none
  | .negotiateAlgorithms _ => none
  | .getDigests _ => none
  | .getCertificate _ => none
  | .challenge _ => none
  | .getMeasurements _ => none
  | .refclkStable => none
  | .inputBackWithinRange => none
  | .hostLinkUp _ _ _ => none
  | .transitFault _ => none
  | .numericSensorRead _ => none
  | .stateSensorRead _ => none
  | .pdrRepositoryRead _ => none
  | .platformEventPoll => none
  | .fruDataRead => none
  | .chunking _ _ => none

end Sys2Proof

namespace Sys2Proof.Machine

/-- A safe run of the block goes on: its step answers a next state. -/
def State.goesOn (s : State) : Prop := ∃ t, step s = .next t

/-- Every command that waits can be sent, and none is left that a module with stopped clocks would act on (R366, R410): a module with a command waiting has its
clocks stopped, and the command needs them. -/
def State.heldStill (s : State) : Prop := ∀ c ∈ s.pending, c.wellFormed = true ∧ c.clockedOnly = true ∧ s.clocked = false

/-- A host command is accepted (R276, R286, R292, R317, R367): the clocks run, its function is bound, its packet is in form, neither Doldrums mode nor Sleep bars it, and
its partition's state lets it pass as it is. -/
structure State.Accepts (s : State) (op : HostOp) (q : Req) (ps : List Word) : Prop where
  clocked : s.clocked = true
  bound : s.get .HST_RING_CTL_OWNER q.ring.val = 0 ∨ s.on .HST_FUNC_CTL_BOUND (s.get .HST_RING_CTL_OWNER q.ring.val) = true
  formed : s.packetReason op q ps = 0
  awake : s.inDoldrums = false ∨ doldrumsAccepts op.code = true
  powered : s.get .PWR_STATE_STATE 0 ≠ 2 ∨ sleepAccepts op.code = true
  gate : s.gate q.part.val op.code = (none, s)

/-- The entry that a host command adds to those in progress. -/
def State.cmdsWith (s : State) (q : Req) (op : Nat) (k : CmdKind) : List Cmd := s.cmds ++ [⟨q, s.get .HST_RING_CTL_OWNER q.ring.val, op, k, false⟩]

/-- A boundary command accepted (R284, R290): it is in progress, and EARLY_ACK posts an interim completion with ST_QUEUED. -/
def State.waiting (s : State) (q : Req) (op : Nat) (k : CmdKind) : State :=
  let t := { s with cmds := s.cmdsWith q op k }
  if q.earlyAck then t.postComp ⟨q.ring.val, q.tag.toNat, stQueued, s.gust, 0, 0, q.interrupt⟩ else t

/-- A module in which nothing is in progress: no command, job, core, engine, link, port, regulator, monitor, memory fault, failed wire or word of a commit is
listed, no partition exists, no ring of outputs is metered, and the reference clock is the boundary source. -/
structure State.Quiet (s : State) : Prop where
  clocked : s.clocked = true
  gusts : s.gustsRun = true
  cmds : s.cmds = []
  parts : s.parts = []
  cores : s.cores = []
  engines : s.engines = []
  links : s.links = []
  xports : s.xports = []
  regs : s.regs = []
  mons : s.mons = []
  nand : s.nand = []
  stage : s.stage = []
  deskew : s.deskew = []
  faults : s.faults = []
  wires : s.deadWires = []
  ondie : s.ondie = []
  sram : s.sram = []
  atomHeld : s.atomHeld = []
  xni : s.xniHeld = [] ∧ s.xniIn = [] ∧ s.xniWait = []
  peatMapNew : s.peatMapNew = []
  due : s.therm.due = []
  prodSeen : s.prodSeen = []
  gustWords : ∃ w, s.gustWords = Tri.of w
  power : s.on .PWR_STATE_BUSY 0 = false
  local_ : s.get .GST_SYNC_CTL_SRC 0 = 0
  unmetered : ∀ p, p < 12 → s.get .MON_OUT_RING_ENABLE p = 0
  absent : ∀ p, p < 12 → s.get .PART_STATUS_STATE p = 0

/-- Nothing is at work in the module but what core site `n`'s reeds and attention engine hold, and nothing waits: no other core is listed, the site's arrays, vector
unit, walker and network port are idle, every write of its units is seen, and no command, engine, fault or failed wire is listed. -/
structure State.Alone (s : State) (n : Nat) : Prop where
  cores : s.cores = [(n, s.core n)]
  arrays : (s.core n).aq = [] ∧ (s.core n).passDue = none
  vector : (s.core n).vq = []
  walker : (s.core n).kvq = []
  network : (s.core n).netq = []
  attention : (s.core n).attq = []
  seen : (s.core n).unseen = []
  cmds : s.cmds = []
  nand : s.nand = []
  engines : s.engines = []
  atomHeld : s.atomHeld = []
  xni : s.xniHeld = [] ∧ s.xniIn = [] ∧ s.xniWait = []
  faults : s.faults = []
  wires : s.deadWires = []
  sram : s.sram = []

/-- Work of partition `p` (R107, R211): what `f` reads meets no bank that a grain holds and no marsh port in training, and none of the partition's regulators is out of
tokens. -/
def State.flows (s : State) (p : Nat) (f : State → State) : Prop :=
  ((f { s with metering := some ⟨[], [], false⟩ }).metering.getD ⟨[], [], false⟩).blocked = false ∧ (12 ≤ p ∨ ∀ r, 0 < (s.reg r p).ceil)

/-- No register field but those at the keys `ks` differs between two states. -/
def State.fieldsKept (s t : State) (ks : List Nat) : Prop := ∀ k d, k ∉ ks → SMap.get t.flds k d = SMap.get s.flds k d

/-- Only register fields differ, and of them only those at the keys `ks`. -/
def State.onlyFields (s t : State) (ks : List Nat) : Prop := t = { s with flds := t.flds } ∧ s.fieldsKept t ks

/-- Only core site `c` and register fields at the keys `ks` differ. -/
def State.onlyCore (s t : State) (c : Nat) (ks : List Nat) : Prop :=
  t = { s with flds := t.flds, cores := t.cores } ∧ s.fieldsKept t ks ∧ ∀ j, j ≠ c → t.core j = s.core j

/-- The byte of device memory at a physical key. -/
def State.byteAt (s : State) (k : Nat) : Byte := SMap.get s.mem k 0

/-- A lane of a vector register of a core. -/
def State.lane (s : State) (c r l : Nat) : F32 := SMap.get (s.core c).v (256 * r + l) 0

end Sys2Proof.Machine
end

