-- ==== Sys2Proof/Certificates/Slice0/Obligations.lean ====
section
/-!
DEFINITION. The statements for the provers.
-/

open Sys2Proof Sys2Proof.Machine

/-- With command c at the front of the queue, a step is exec of c on the state whose queue is the rest: commands take effect one at a time, first in first out. A step with an empty queue answers the same state, and a table word spells no command, so withFetchWord changes nothing: both are the model's choice (notes/assumptions/1.md). (00_scope.md, 14_host_commands.md R284.) -/
def Obligations.StepRunsFrontCommand : Prop :=
  ∀ (s : State), (∀ c rest, s.pending = c :: rest → step s = exec c { s with pending := rest }) ∧
    (s.pending = [] → step s = .next s) ∧ ∀ nbits w, decodeTableWord nbits w = none ∧ s.withFetchWord nbits w = s

/-- For every command and state: a well-formed command answers a next state, and a term that stands for no command (an operand that names no unit, words of another row) answers the fault illFormed (the model's choice of name, log entry 7). No command is refused. (00_scope.md, 14_host_commands.md R289, 21_connectors.md R431.) -/
def Obligations.FormedCommandsRun : Prop :=
  ∀ (i : Instr) (s : State), (i.wellFormed = true → ∃ t : State, exec i s = .next t) ∧ (i.wellFormed = false → exec i s = .fault .illFormed)

/-- An invariant that every step keeps: whatever waits is a command that can be sent and needs the module's clocks, and the clocks are stopped (frozen, in Deep or Off, or without its rails). Each step then takes its command off the queue and leaves everything else exactly as it was, for every one of the commands that need the clocks. (18_power.md R366, 20_monitors_freeze.md R410, 20_monitors_freeze.md R411.) -/
def Obligations.StoppedModuleHoldsStill : Prop :=
  ∀ (s t : State), s.heldStill → step s = .next t → t.heldStill ∧ t = { s with pending := s.pending.tail }

/-- At reset the gust period is 1.0 ms and the lull 30 µs in units of 100 ns, the gust number is 0, no partition exists, no ring and no log is enabled, every array, reed port, attention engine and walker is enabled, the power limit is 4,800 W, the module is on, neither frozen nor in Doldrums mode, and no command waits, so the invariant of StoppedModuleHoldsStill holds. (02_gust.md R18, 14_host_commands.md R278, 16_faults_repair.md R339, 18_power.md R376, 17_heat.md R358.) -/
def Obligations.ResetValues : Prop :=
  let s := State.reset
  s.get .GST_PERIOD_PERIOD 0 = 10000 ∧ s.get .GST_LULL_LULL 0 = 300 ∧ s.gust = 0 ∧
  (∀ p, p < 12 → s.get .PART_STATUS_STATE p = 0) ∧ (∀ r, r < 64 → s.on .HST_RING_CTL_ENABLE r = false) ∧ (∀ f, f < 13 → s.on .EVT_LOG_CTL_ENABLE f = false) ∧
  (∀ c, c < 816 → s.on .REED_CTL_ENABLE c = true ∧ s.on .ATT_CTL_ENABLE c = true ∧ s.on .KVW_CTL_ENABLE c = true ∧ ∀ a, a < 4 → s.on .ARR_CTL_ENABLE (ix2 4 c a) = true) ∧
  s.get .PWR_LIMIT_LIMIT 0 = 4800 ∧ s.get .PWR_STATE_STATE 0 = 0 ∧ s.clocked = true ∧ s.inDoldrums = false ∧ s.pending = [] ∧ s.heldStill

/-- For every host command of R289 that is sent while the clocks run, by the PF or a bound VF, and whose header fails a check (a reserved bit set, an issuer that may not send it, a foreign partition, TAG 0xFFFF): HST_BAD_LAST latches the ring, the tag, the opcode and the reason and nothing else changes but the completion with ST_BAD_PACKET. The order of the checks is the model's (log entry 11). (14_host_commands.md R286, 14_host_commands.md R298, 14_host_commands.md R276, 14_host_commands.md R289.) -/
def Obligations.MalformedPacketsRefused : Prop :=
  ∀ (i : Instr) (op : HostOp) (q : Req) (ps : List Word) (s : State), i.hostCommand = some (op, q, ps) → i.wellFormed = true → s.clocked = true →
    (s.get .HST_RING_CTL_OWNER q.ring.val = 0 ∨ s.on .HST_FUNC_CTL_BOUND (s.get .HST_RING_CTL_OWNER q.ring.val) = true) →
    s.packetReason op q ps ≠ 0 →
    ∃ u : State, exec i s = .next (u.done q stBadPacket) ∧
      s.onlyFields u [Fld.HST_BAD_LAST_VALID.key 0, Fld.HST_BAD_LAST_RING.key 0, Fld.HST_BAD_LAST_TAG.key 0, Fld.HST_BAD_LAST_REASON.key 0,
        Fld.HST_BAD_LAST_OPCODE.key 0] ∧
      u.on .HST_BAD_LAST_VALID 0 = true ∧ u.get .HST_BAD_LAST_RING 0 = q.ring.val ∧ u.get .HST_BAD_LAST_TAG 0 = q.tag.toNat ∧
      u.get .HST_BAD_LAST_REASON 0 = s.packetReason op q ps ∧ u.get .HST_BAD_LAST_OPCODE 0 = op.code

/-- A host command on a ring of a VF that is bound to no partition completes with ST_DISABLED and has no other effect. From the ring of a bound VF, a command whose reserved bits are clear and whose PARTITION is not 12 to 14, which are out of range: one that R289 gives to the PF is refused with reason 4, and one for a partition the VF is not bound to with reason 3; both complete with ST_BAD_PACKET and change nothing but HST_BAD_LAST. (14_host_commands.md R276, 14_host_commands.md R289, 14_host_commands.md R286.) -/
def Obligations.IssuersChecked : Prop :=
  ∀ (i : Instr) (op : HostOp) (q : Req) (ps : List Word) (s : State), i.hostCommand = some (op, q, ps) → i.wellFormed = true → s.clocked = true →
    s.get .HST_RING_CTL_OWNER q.ring.val ≠ 0 →
    (s.on .HST_FUNC_CTL_BOUND (s.get .HST_RING_CTL_OWNER q.ring.val) = false → exec i s = .next (s.done q stDisabled)) ∧
    (s.on .HST_FUNC_CTL_BOUND (s.get .HST_RING_CTL_OWNER q.ring.val) = true → reservedSet ps op.masks = false → ¬(12 ≤ q.part.val ∧ q.part.val ≤ 14) →
      (op.scope = .pf ∨ op.scope = .pfModule → exec i s = .next (s.badPacket q op.code 4)) ∧
      (op.scope = .any ∨ op.scope = .anyOr15 → q.part.val ≠ s.get .HST_FUNC_CTL_PARTITION (s.get .HST_RING_CTL_OWNER q.ring.val) →
        exec i s = .next (s.badPacket q op.code 3)))

/-- In Doldrums mode every host command whose opcode is not MEM_READ, MON_CONFIG, MON_READ, REPAIR_MAP_READ, THERM_LIMIT_SET, POWER_STATE, ATTEST, FW_LOAD or DOLDRUMS_EXIT completes with ST_DOLDRUMS and has no other effect. In Sleep, outside Doldrums mode, every one but POWER_STATE, THERM_LIMIT_SET, MON_CONFIG, MON_READ, REPAIR_MAP_READ, ATTEST, DOLDRUMS_ENTER and DOLDRUMS_EXIT completes with ST_DISABLED and has no other effect. A malformed packet is refused first (log entry 11). (14_host_commands.md R292, 16_faults_repair.md R335, 18_power.md R367.) -/
def Obligations.ModesRefuseCommands : Prop :=
  ∀ (i : Instr) (op : HostOp) (q : Req) (ps : List Word) (s : State), i.hostCommand = some (op, q, ps) → i.wellFormed = true → s.clocked = true →
    s.get .HST_RING_CTL_OWNER q.ring.val = 0 →
    (s.inDoldrums = true → op.code ∉ [0x18, 0x3C, 0x3D, 0x2B, 0x39, 0x38, 0x49, 0x4A, 0x51] →
      exec i s = .next (s.done q stDoldrums) ∨ ∃ r, r ≠ 0 ∧ exec i s = .next (s.badPacket q op.code r)) ∧
    (s.inDoldrums = false → s.get .PWR_STATE_STATE 0 = 2 → op.code ∉ [0x38, 0x39, 0x3C, 0x3D, 0x2B, 0x49, 0x50, 0x51] →
      exec i s = .next (s.done q stDisabled) ∨ ∃ r, r ≠ 0 ∧ exec i s = .next (s.badPacket q op.code r))

/-- A host command in form for a partition 0 to 11, outside Doldrums mode and Sleep: where the partition does not exist it completes with ST_DISABLED; while it resets, PART_DESTROY completes with ST_BUSY and every command but PART_RESET with ST_TARGET_RESETTING; while it is created or destroyed, with ST_BUSY. Nothing else changes. Where the partition exists, a parameter that is out of range is refused first. Where a partition is created (STATE 2) or lost (STATE 5) and its map entry stands in three equal intact copies, the gate answers no status and the same state; with PARTITION 15 it does so always. (14_host_commands.md R286, 14_host_commands.md R297, 16_faults_repair.md R317, 16_faults_repair.md R318, 16_faults_repair.md R325, 16_faults_repair.md R327.) -/
def Obligations.PartitionStateGates : Prop :=
  (∀ (i : Instr) (op : HostOp) (q : Req) (ps : List Word) (s : State), i.hostCommand = some (op, q, ps) → i.wellFormed = true → s.clocked = true →
    s.get .HST_RING_CTL_OWNER q.ring.val = 0 → s.inDoldrums = false → s.get .PWR_STATE_STATE 0 ≠ 2 → s.packetReason op q ps = 0 → q.part.val < 12 →
    (s.get .PART_STATUS_STATE q.part.val = 0 → exec i s = .next (s.done q stDisabled)) ∧
    (s.get .PART_STATUS_STATE q.part.val = 3 → op.code ≠ 0x31 →
      exec i s = .next (s.done q (if op.code = 0x32 then stBusy else stTargetResetting)) ∨ ∃ r, r ≠ 0 ∧ exec i s = .next (s.badPacket q op.code r)) ∧
    (s.get .PART_STATUS_STATE q.part.val = 1 ∨ s.get .PART_STATUS_STATE q.part.val = 4 →
      exec i s = .next (s.done q stBusy) ∨ ∃ r, r ≠ 0 ∧ exec i s = .next (s.badPacket q op.code r))) ∧
  (∀ (s : State) (p op : Nat) (w : List Word),
    (12 ≤ p → s.gate p op = (none, s)) ∧
    (p < 12 → s.get .PART_STATUS_STATE p = 2 ∨ s.get .PART_STATUS_STATE p = 5 → SMap.wf s.parts (fun _ => Part.fresh) = true →
      (s.part p).mapLost = false → (s.part p).map = Tri.of w → s.gate p op = (none, s)))

/-- Of a word held in three copies, two intact copies with one value give that value whatever the third holds, and the vote leaves three equal intact copies; where no two intact copies agree the vote is lost and the copies stay. (16_faults_repair.md R325, 16_faults_repair.md R326.) -/
def Obligations.VotesRecoverMinority : Prop :=
  ∀ (v : List Word) (x : Option (List Word)),
    (Tri.vote ⟨some v, some v, x⟩ = (some v, !decide (x = some v), Tri.of v)) ∧
    (x ≠ some v → Tri.vote ⟨some v, x, some v⟩ = (some v, true, Tri.of v) ∧ Tri.vote ⟨x, some v, some v⟩ = (some v, true, Tri.of v)) ∧
    (∀ t : Tri (List Word), (t.c0 = none ∨ (t.c0 ≠ t.c1 ∧ t.c0 ≠ t.c2)) → (t.c1 = none ∨ t.c1 ≠ t.c2) → Tri.vote t = (none, false, t))

/-- Where the link is up, host memory answers, and the completion ring stands in host memory with room and without coalescing: the 32 bytes at CQ_BASE + 32 × producer are the words of R287 (tag, status, ring and phase; gust and submission head; the two results), the producer advances modulo the ring size, the phase flips when it wraps, the ring's vector fires, no other byte of host memory changes and nothing else of the module does. A quiet success writes nothing. (14_host_commands.md R284, 14_host_commands.md R285, 14_host_commands.md R287.) -/
def Obligations.CompletionEntryWritten : Prop :=
  ∀ (s : State) (q : Req) (status r0 r1 : Nat), let r := q.ring.val; let g := s.ring r; let a := s.get .HST_RING_CQ_BASE_BASE r * 4096 + 32 * g.prod
    s.hostUp = true → s.on .HST_RING_CTL_CQ_DEVICE r = false → s.get .HST_RING_CTL_COALESCE_COUNT r = 0 → g.full = false → g.waiting = [] →
    (q.quiet = true ∧ status = stOk → s.done q status r0 r1 = s) ∧
    (¬(q.quiet = true ∧ status = stOk) →
      let t := s.done q status r0 r1
      t.hostRead a 32 = wordsToBytes
        [BitVec.ofNat 64 (q.tag.toNat + status * 2 ^ 16 + r * 2 ^ 32 + (if g.phase then 2 ^ 63 else 0)),
         BitVec.ofNat 64 (s.gust % 2 ^ 48 + s.get .HST_RING_STATUS_SQ_HEAD r * 2 ^ 48), BitVec.ofNat 64 r0, BitVec.ofNat 64 r1] ∧
      (∀ k, k < a ∨ a + 32 ≤ k → SMap.get t.hostMem k 0 = SMap.get s.hostMem k 0) ∧
      (t.ring r).prod = (g.prod + 1) % 2 ^ (s.get .HST_RING_CTL_SIZE r + 4) ∧
      (t.ring r).phase = (if (t.ring r).prod = 0 then !g.phase else g.phase) ∧ (t.ring r).full = decide ((t.ring r).prod = g.cons) ∧
      (∀ j, j ≠ r → t.ring j = s.ring j) ∧
      t.msix = (if s.get .HST_RING_CTL_VECTOR r < vectorsOf (s.get .HST_RING_CTL_OWNER r) then [(s.get .HST_RING_CTL_OWNER r, s.get .HST_RING_CTL_VECTOR r)] else []) ++ s.msix ∧
      t = { s with hostMem := t.hostMem, rings := t.rings, msix := t.msix })

/-- Accepted with nothing against them, these commands have no effect but to join the commands in progress, with an interim completion if EARLY_ACK asks for one: PLAN_ARM where every check of the loaded plan passes, PLAN_DISARM with a plan armed, GUST_SET within the table of R18 and with no plan armed, JOB_START of a job that does not run, JOB_STOP of one that runs. (02_gust.md R21, 02_gust.md R18, 02_gust.md R31, 14_host_commands.md R284, 14_host_commands.md R290.) -/
def Obligations.BoundaryCommandsWait : Prop :=
  ∀ (q : Req) (p0 p1 p2 : Word) (s : State), let p := q.part.val
    (s.Accepts opPlanArm q [p0] → ∀ x, s.armCheck p = (.ok x, s) → exec (.planArm q p0) s = .next (s.waiting q 0x02 (.boundary (.planArm p0.toNat)))) ∧
    (s.Accepts opPlanDisarm q [] → (s.part p).armed.isSome = true → exec (.planDisarm q) s = .next (s.waiting q 0x03 (.boundary .planDisarm))) ∧
    (s.Accepts opGustSet q [p0, p1, p2] → gustValuesOk (fieldOf p1 17 0) (fieldOf p1 47 32) = true → s.gustBegun p0.toNat = false →
      (∀ k, k < 12 → s.armed k = false) →
      exec (.gustSet q p0 p1 p2) s = .next (s.waiting q 0x04
        (.boundary (.gustSet p0.toNat (fieldOf p1 17 0) (fieldOf p1 47 32) (if flagOf p2 63 then some (fieldOf p2 47 0) else none))))) ∧
    (s.Accepts opJobStart q [p0] → s.get .PART_STATUS_STATE p ≠ 5 → (s.part p).running = false → s.pendingFor p BCmd.isStart = false →
      exec (.jobStart q p0) s = .next (s.waiting q 0x05 (.boundary (.jobStart p0.toNat)))) ∧
    (s.Accepts opJobStop q [] → (s.part p).running = true → exec (.jobStop q) s = .next (s.waiting q 0x06 (.boundary .jobStop)))

/-- PLAN_DISARM with no plan armed and none waiting to be armed, JOB_START of a running job, and JOB_STOP of a job that neither runs nor waits to start complete with ST_OK and the current step, and change nothing else. PLAN_ARM without a loaded plan, GUST_SET while a plan is armed and JOB_START of a lost partition complete with ST_BUSY. JOB_REWIND flags the running job for a rewind (cause 6) unless a fault has flagged it already, and completes with ST_OK. (02_gust.md R21, 02_gust.md R29, 02_gust.md R31, 02_gust.md R18.) -/
def Obligations.JobCommandsAtOnce : Prop :=
  ∀ (q : Req) (p0 p1 p2 : Word) (s : State), let p := q.part.val; let step := s.get .GST_PART_STEP_STEP p
    (s.Accepts opPlanDisarm q [] → (s.part p).armed = none → s.pendingFor p BCmd.isArm = false → exec (.planDisarm q) s = .next (s.done q stOk step)) ∧
    (s.Accepts opJobStart q [p0] → s.get .PART_STATUS_STATE p ≠ 5 → (s.part p).running = true → exec (.jobStart q p0) s = .next (s.done q stOk step)) ∧
    (s.Accepts opJobStart q [p0] → s.get .PART_STATUS_STATE p = 5 → exec (.jobStart q p0) s = .next (s.done q stBusy)) ∧
    (s.Accepts opJobStop q [] → (s.part p).running = false → s.pendingFor p BCmd.isStart = false →
      exec (.jobStop q) s = .next (s.done q stOk step (s.get .GST_PART_COMMIT_GUST p))) ∧
    (s.Accepts opPlanArm q [p0] → (s.part p).loaded = none → exec (.planArm q p0) s = .next (s.done q stBusy)) ∧
    (s.Accepts opGustSet q [p0, p1, p2] → gustValuesOk (fieldOf p1 17 0) (fieldOf p1 47 32) = true → s.gustBegun p0.toNat = false →
      (∃ k, k < 12 ∧ s.armed k = true) → exec (.gustSet q p0 p1 p2) s = .next (s.done q stBusy)) ∧
    (s.Accepts opJobRewind q [] → p < 12 → (s.part p).running = true →
      ∃ u : State, exec (.jobRewind q) s = .next (u.done q stOk) ∧ u = { s with parts := u.parts } ∧ (∀ j, j ≠ p → u.part j = s.part j) ∧
        u.part p = { s.part p with flag := some ((s.part p).flag.getD (6, stOk)) })

/-- PLAN_LOAD of a partition with an earlier load in staging or waiting joins the commands in progress and waits, as does one whose reads have no tokens. Otherwise, where header, table and segments have been read and staged, it is in progress with the header, and with whether a segment failed a check; where a read or a check fails it completes with the status of that failure. A header that breaks R22 fails with ST_BAD_PACKET and leaves the partition without a loaded plan. (02_gust.md R21, 02_gust.md R22, 05_vector_control.md R94, 05_vector_control.md R99, 10_marsh_cache.md R211.) -/
def Obligations.PlanLoadStages : Prop :=
  ∀ (q : Req) (p0 : Word) (s : State), let p := q.part.val
    (s.Accepts opPlanLoad q [p0] → (s.cmdRange p p0.toNat 64).isSome = true →
      ((s.cmds.any fun c => c.staging p || c.awaitsLoad p) = true → exec (.planLoad q p0) s = .next { s with cmds := s.cmdsWith q 0x01 (.planLoad [p0] false) }) ∧
      ((s.cmds.any fun c => c.staging p || c.awaitsLoad p) = false →
        (∀ (h : List Word) (bad : Bool) (u : State), s.tryLoad p p0.toNat = (some (.ok (h, bad)), u) →
          exec (.planLoad q p0) s = .next { u with cmds := u.cmdsWith q 0x01 (.planLoad h bad) }) ∧
        (∀ (st : Nat) (u : State), s.tryLoad p p0.toNat = (some (.error st), u) → exec (.planLoad q p0) s = .next (u.done q st)) ∧
        (∀ u : State, s.tryLoad p p0.toNat = (none, u) → exec (.planLoad q p0) s = .next { u with cmds := u.cmdsWith q 0x01 (.planLoad [p0] false) }))) ∧
    ∀ (hb : List Byte) (v : State), s.loadRead p p0.toNat 64 false = (.ok hb, v) → hdrOk (bytesToWords 8 hb) = false →
      ∃ u : State, s.beginLoad p p0.toNat = (.error stBadPacket, u) ∧ (u.part p).loaded = none ∧
        u.get .GST_PART_STATE_STATE p = (if v.get .GST_PART_STATE_STATE p = 1 then 0 else v.get .GST_PART_STATE_STATE p)

/-- SEGMENT_STAGED ends the PLAN_LOAD in staging, where no other load waits: with every check passed the partition holds the plan loaded, in three equal copies, an idle partition (STATE 0) becomes loaded (STATE 1), every core of the partition shows STAGED, and the command completes with ST_OK and the plan identifier; with a check failed the partition holds no loaded plan and the command completes with ST_BAD_PACKET. (05_vector_control.md R94, 02_gust.md R20, 02_gust.md R21.) -/
def Obligations.SegmentStagedLoadsPlan : Prop :=
  ∀ (p : Fin 12) (c : Cmd) (h : List Word) (bad : Bool) (s : State), s.clocked = true → s.cmds = [c] → c.kind = .planLoad h bad → h.length = 8 → c.q.part.val = p.val →
    (bad = false → ∃ u : State, exec (.segmentStaged p) s = .next (u.endCmd c stOk u.gust (hdrPlanId h) 0) ∧ (u.part p.val).loaded = some (Tri.of h) ∧ u.cmds = [c] ∧
      u.get .GST_PART_STATE_STATE p.val = (if s.get .GST_PART_STATE_STATE p.val = 0 then 1 else s.get .GST_PART_STATE_STATE p.val) ∧
      ∀ k ∈ s.partSites p.val, u.on .CORE_PROG_STATUS_STAGED k = true) ∧
    (bad = true → ∃ u : State, exec (.segmentStaged p) s = .next (u.endCmd c stBadPacket u.gust 0 0) ∧ (u.part p.val).loaded = none ∧ u.cmds = [c] ∧
      ∀ k ∈ s.partSites p.val, u.on .CORE_PROG_STATUS_STAGED k = false)

/-- At its boundary GUST_SET, with no plan armed, sets period, lull and, with RENUMBER, the number, and stands in the triplicated settings; JOB_START of a partition with a plan armed sets the job running (STATE 3), with no fault flag and an empty rewind window; JOB_STOP of a running job leaves it at its last commit (STATE 4); PLAN_DISARM with a plan armed leaves none armed. Each completes with ST_OK. (02_gust.md R18, 02_gust.md R20, 02_gust.md R21, 02_gust.md R31.) -/
def Obligations.BoundaryEffects : Prop :=
  ∀ (c : Cmd) (s : State) (g period lull : Nat) (renumber : Option Nat), let p := c.q.part.val
    (s.anyArmed = false → period < 2 ^ 18 → lull < 2 ^ 16 →
      ∃ u : State, s.boundaryEffect c (.gustSet g period lull renumber) = u.endCmd c stOk u.gust u.gust 0 ∧ u.get .GST_PERIOD_PERIOD 0 = period ∧
        u.get .GST_LULL_LULL 0 = lull ∧ u.gust = (match renumber with | some n => n % 2 ^ 48 | none => s.gust) ∧
        s.fieldsKept u [Fld.GST_PERIOD_PERIOD.key 0, Fld.GST_LULL_LULL.key 0, Fld.GST_NUMBER_NUMBER.key 0] ∧
        u = { s with flds := u.flds, gustWords := Tri.of [period, lull, u.regValue .GST_SYNC_CTL 0] }) ∧
    (p < 12 → (s.part p).armed.isSome = true → s.get .PART_STATUS_STATE p ≠ 5 →
      ∃ u : State, s.boundaryEffect c (.jobStart g) = (u.jobEvent p 3 stOk).endCmd c stOk u.gust (s.get .GST_PART_STEP_STEP p) 0 ∧
        (u.part p).running = true ∧ (u.part p).flag = none ∧ (u.part p).rewinds = [] ∧ u.get .GST_PART_STATE_STATE p = 3 ∧
        u.get .GST_PART_STATE_REWINDS_IN_WINDOW p = 0 ∧ u.on .GST_PART_STATE_RERUN p = false ∧ u = { s with flds := u.flds, parts := u.parts }) ∧
    ((s.part p).running = true → ∃ u v : State, s.boundaryEffect c .jobStop = v.endCmd c stOk v.gust (v.get .GST_PART_STEP_STEP p) (v.get .GST_PART_COMMIT_GUST p) ∧
      v = u.jobEvent p 2 stOk ∧ (u.part p).running = false ∧ (u.part p).flag = none ∧ u.get .GST_PART_STATE_STATE p = 4 ∧
      u.get .GST_PART_STEP_STEP p = s.get .GST_PART_STEP_STEP p)

/-- While the clocks run and boundaries come, in every state: LULL_START in the work window begins the lull, and in any other phase has no effect; COMMIT_DECISION answers the state after the decision, and has no effect once it is made; GUARD_INTERVAL answers the state in the guard and then has no effect; GUST_BOUNDARY begins the work window. On a module in which nothing is in progress LULL_START changes nothing but the phase, refresh debts and DMA suspensions, COMMIT_DECISION nothing but the phase, and at GUST_BOUNDARY the gust number rises by one (modulo 2^48), every register change that waited for the boundary is in force, no reduction group is open, and device memory, host memory, partitions, cores and commands are as they were. (02_gust.md R18, 02_gust.md R20, 02_gust.md R24, 06_fen.md R124.) -/
def Obligations.GustOfQuietModule : Prop :=
  (∀ (s : State), s.clocked = true → s.gustsRun = true →
    (s.phase = 0 → ∃ t : State, exec .lullStart s = .next t ∧ t.phase = 1) ∧ (s.phase ≠ 0 → exec .lullStart s = .next s) ∧
    (s.phase ≤ 1 → ∃ t : State, exec .commitDecision s = .next t ∧ t.phase = 2) ∧ (2 ≤ s.phase → exec .commitDecision s = .next s) ∧
    (s.phase ≤ 2 → ∃ t : State, exec .guardInterval s = .next t ∧ t.phase = 3) ∧ (3 ≤ s.phase → exec .guardInterval s = .next s) ∧
    (∃ t : State, exec .gustBoundary s = .next t ∧ t.phase = 0)) ∧
  (∀ (s : State), s.Quiet →
    (s.phase = 0 → ∃ t : State, exec .lullStart s = .next t ∧ t = { s with flds := t.flds, phase := 1 } ∧
      ∀ c b, c < 816 → b < 128 → s.on .FEN_BANK_CTL_GRAIN (ix2 128 c b) = false → t.get .FEN_BANK_CTL_DEBT (ix2 128 c b) = 0) ∧
    (s.phase = 1 → exec .commitDecision s = .next { s with phase := 2 }) ∧
    (s.phase = 3 → ∃ t : State, exec .gustBoundary s = .next t ∧ t.gust = (s.gust + 1) % 2 ^ 48 ∧ t.phase = 0 ∧ t.eff = [] ∧ t.groups = [] ∧ t.badGroups = [] ∧ t.mem = s.mem ∧
      t.hostMem = s.hostMem ∧ t.parts = [] ∧ t.cores = [] ∧ t.cmds = [] ∧ t.get .GST_PERIOD_PERIOD 0 = s.get .GST_PERIOD_PERIOD 0 ∧
      t.get .GST_LULL_LULL 0 = s.get .GST_LULL_LULL 0))

/-- On a module in which nothing is in progress and after the decision, GUARD_INTERVAL answers the state in the guard: patrol scrub has gone on (its registers and places only), and memory, host memory, partitions, cores and commands are as they were. (02_gust.md R24, 06_fen.md R120, 10_marsh_cache.md R202.) -/
def Obligations.GuardOfGust : Prop :=
  ∀ (s : State), s.Quiet → s.phase = 2 → ∃ t : State, exec .guardInterval s = .next t ∧ t.phase = 3 ∧ t.mem = s.mem ∧ t.hostMem = s.hostMem ∧ t.parts = s.parts ∧
    t.cores = s.cores ∧ t.cmds = s.cmds ∧ t.gust = s.gust

/-- The check at the lull of a partition whose gust is incomplete raises a record of class 7 with the number of cores that have not ended, and flags the partition with cause 1 and ST_SQUALL unless another fault has flagged it; a partition whose gust is complete is as it was. A core of the partition that has not reached the end of its slot makes the gust incomplete. (02_gust.md R19, 02_gust.md R25, 02_gust.md R29, 02_gust.md R30.) -/
def Obligations.SquallFlagsPartition : Prop :=
  ∀ (s : State) (p : Nat), p < 12 →
    (s.incomplete p = false → s.squallCheck p = s) ∧
    (s.incomplete p = true → ∃ u : State, s.squallCheck p = u.event ⟨5, 12, 0, 7, p, stSquall, (u.notEnded p).length, u.get .GST_PART_STEP_STEP p⟩ ∧
      u = { s with parts := u.parts } ∧ (∀ j, j ≠ p → u.part j = s.part j) ∧ u.part p = { s.part p with flag := some ((s.part p).flag.getD (1, stSquall)) }) ∧
    ((∃ c ∈ s.partSites p, (s.core c).ended = false) → s.incomplete p = true)

/-- In the phase after the decision, of a partition whose job runs, that was decided to commit, has not completed it and met no fault since: with the commit word intact and equal to the gust, COMMIT_COMPLETE marks the commit complete; with nothing decided the command has no effect. Where moreover no engine, mailbox, command or output ring is to be served, it raises the step of the partition by one (modulo 2^48), sets its commit gust to the current gust, and leaves every other partition and all memory as they were. (02_gust.md R20, 02_gust.md R24, 02_gust.md R27.) -/
def Obligations.CommitAdvancesStep : Prop :=
  (∀ (p : Fin 12) (s : State), s.clocked = true → s.gustsRun = true → s.phase = 2 →
    ((s.part p.val).running = false ∨ (s.part p.val).decision ≠ some true ∨ (s.part p.val).committed = true → exec (.commitComplete p) s = .next s) ∧
    ((s.part p.val).running = true → (s.part p.val).decision = some true → (s.part p.val).committed = false → (s.part p.val).flag = none →
      (s.part p.val).commitWord = Tri.of s.gust → ∃ t : State, exec (.commitComplete p) s = .next t ∧ (t.part p.val).committed = true)) ∧
  ∀ (p : Fin 12) (s : State), s.clocked = true → s.gustsRun = true → s.phase = 2 → s.cmds = [] → s.stage = [] → (s.part p.val).running = true →
    (s.part p.val).flag = none → (s.part p.val).decision = some true → (s.part p.val).committed = false → (s.part p.val).commitWord = Tri.of s.gust → (s.part p.val).carried = [] →
    (s.part p.val).rewrites = [] → s.partEngines p.val = [] → (∀ n, n < 64 → s.on .XNI_OUTBOX_VALID (ix2 64 p.val n) = false) →
    s.get .XNI_MBOX_BASE_BASE p.val = 0 → s.inRegion p.val 0 32 = false → s.inForce .MON_OUT_RING_ENABLE p.val = 0 →
    ∃ t : State, exec (.commitComplete p) s = .next t ∧ t.get .GST_PART_STEP_STEP p.val = (s.get .GST_PART_STEP_STEP p.val + 1) % 2 ^ 48 ∧
      t.get .GST_PART_COMMIT_GUST p.val = s.gust % 2 ^ 48 ∧ (t.part p.val).committed = true ∧ (t.part p.val).running = true ∧
      (∀ j, j ≠ p.val → t.part j = s.part j) ∧ t.mem = s.mem ∧ t.hostMem = s.hostMem ∧
      s.fieldsKept t [Fld.GST_PART_STEP_STEP.key p.val, Fld.GST_PART_COMMIT_GUST.key p.val]

/-- A rewind of a partition for a cause other than JOB_REWIND adds the gust to the counted rewinds of the last 64 gusts and one of JOB_REWIND adds none; it clears the fault flag, takes the decision against a commit, records the cause and the number of counted rewinds up to 3, and counts the rewind. With three counted rewinds in the window, or where the vote of the commit word was lost, the job is stopped and the partition lost; otherwise it goes on. (02_gust.md R29, 02_gust.md R31, 16_faults_repair.md R320.) -/
def Obligations.RewindsCounted : Prop :=
  ∀ (s : State) (p cause status : Nat) (last : Bool), p < 12 → cause < 8 →
    let v := (s.rewindGust p).jobEvent p 1 status
    let ws := (if cause = 6 then (v.part p).rewinds else v.gust :: (v.part p).rewinds).filter fun g => v.gust < g + 64
    ∃ u : State, s.rewind p cause status last = (if last = true ∨ (cause ≠ 6 ∧ 3 ≤ ws.length) then (u.stopJob p status).losePart p status else u) ∧
      (u.part p).flag = none ∧ (u.part p).decision = some false ∧ (u.part p).rewinds = ws ∧ u.get .GST_PART_STATE_LAST_CAUSE p = cause ∧
      u.get .GST_PART_STATE_REWINDS_IN_WINDOW p = min 3 ws.length ∧ u.gust = v.gust ∧
      u.get .GST_PART_REWINDS_COUNT p = (v.bump .GST_PART_REWINDS_COUNT p 1).get .GST_PART_REWINDS_COUNT p

/-- With GUST_SYNC as the source (SRC 1) an edge within 1 µs is taken: its offset shows, and the fourth in a row within 25 ns locks; one farther off sets PIN_REJECT; with another source an edge has no effect. A master sends one marker per relay port that carries traffic, with hop count 0, a LEAD of MARKER_LEAD less up to a pair of codewords (a free value), and, with a plan armed or with nothing that renumbers the gust, the number of the next gust; a module that is no master sends none. A marker on the upstream port (SRC 2) is relayed with one hop more and its LEAD less the delay of the port and the time spent here. One that announces a boundary at least 2.5 µs ahead is taken: with no plan armed its number is adopted, and with a plan armed a number that is not the next sets NUM_MISMATCH. A marker on any other port is only counted. (02_gust.md R33, 02_gust.md R34, 13_xeunni.md R269.) -/
def Obligations.GustAlignment : Prop :=
  ∀ (s : State), s.clocked = true → s.gustsRun = true →
    (∀ off : Int, s.get .GST_SYNC_CTL_SRC 0 ≠ 1 → exec (.gustSyncEdge off) s = .next s) ∧
    (∀ off : Int, s.get .GST_SYNC_CTL_SRC 0 = 1 → off.natAbs ≤ 1000 → ∃ t : State, exec (.gustSyncEdge off) s = .next t ∧
      signedOf 16 (t.get .GST_SYNC_STATUS_OFFSET 0) = off ∧ t.sync.pendingNs = off ∧ t.sync.seen = true ∧ t.sync.missed = 0 ∧
      t.sync.good = (if off.natAbs ≤ 25 then s.sync.good + 1 else 0) ∧
      (4 ≤ t.sync.good → t.on .GST_SYNC_STATUS_LOCKED 0 = true) ∧
      s.fieldsKept t [Fld.GST_SYNC_STATUS_OFFSET.key 0, Fld.GST_SYNC_STATUS_LOCKED.key 0] ∧ t = { s with flds := t.flds, sync := t.sync }) ∧
    (∀ off : Int, s.get .GST_SYNC_CTL_SRC 0 = 1 → 1000 < off.natAbs → ∃ u : State, exec (.gustSyncEdge off) s = .next (u.syncEvent 4 off) ∧
      u.on .GST_SYNC_STATUS_PIN_REJECT 0 = true ∧ s.onlyFields u [Fld.GST_SYNC_STATUS_PIN_REJECT.key 0]) ∧
    let ports := (List.range 16).filter fun k => bitOf (s.get .GST_SYNC_CTL_RELAY_MASK 0) k && s.portUp k
    (s.on .GST_SYNC_CTL_MASTER 0 = false → exec .markerSend s = .next s) ∧
    (s.on .GST_SYNC_CTL_MASTER 0 = true → ∃ (n : Nat) (w : Word), (s.anyArmed = true ∨ (s.cmds = [] ∧ s.sync.adopt = none) → n = (s.gust + 1) % 2 ^ 48) ∧
      exec .markerSend s = .next { s with freeCtr := s.freeCtr + 1, markersOut :=
        (ports.map fun k => (k, n % 2 ^ 48, 0, (s.get .XNI_CTL_MARKER_LEAD 0 * 100000 - w.toNat % 10625) % 2 ^ 32)) ++ s.markersOut }) ∧
    ∀ (k : Fin 16) (num hops lead : Nat) (at_ : MarkerTimes), let ahead : Int := (lead : Int) - s.get .XNI_PORT_DELAY_DELAY k.val
      let upstream := s.get .GST_SYNC_CTL_SRC 0 = 2 ∧ s.get .GST_SYNC_CTL_UPSTREAM_PORT 0 = k.val ∧ s.portUp k.val = true
      let relayed := (ports.map fun j => (j, num % 2 ^ 48, (hops + 1) % 16, (ahead - at_.dwell).toNat % 2 ^ 32)) ++ s.markersOut
      (¬upstream → exec (.gustMarker k num hops lead at_) s = .next (s.bump .XNI_STATS_MARKERS_IGNORED 0 1)) ∧
      (upstream → ahead < 2500000 → exec (.gustMarker k num hops lead at_) s = .next { s with markersOut := relayed }) ∧
      (upstream → 2500000 ≤ ahead → s.anyArmed = false → ∃ t : State, exec (.gustMarker k num hops lead at_) s = .next t ∧ t.sync.adopt = some (num % 2 ^ 48) ∧
        t.sync.pendingNs = (at_.own - ahead) / 1000 ∧ t.sync.seen = true ∧ t.markersOut = relayed) ∧
      (upstream → 2500000 ≤ ahead → s.anyArmed = true → num % 2 ^ 48 ≠ (s.gust + 1) % 2 ^ 48 →
        ∃ u : State, exec (.gustMarker k num hops lead at_) s = .next (u.syncEvent 2 ((at_.own - ahead) / 1000)) ∧ u.on .GST_SYNC_STATUS_NUM_MISMATCH 0 = true ∧ u.markersOut = relayed)

/-- A REGULATOR_WRITE within the limits (guarantee at most the ceiling, guarantees of all partitions together within the resource) stands in the registers at once and is in force from the next boundary; one outside them sets REJECT and changes nothing else. On a module in which nothing is in progress but the regulators, a refill leaves every ceiling count at 1,000 bytes per GB/s less what was overdrawn, and raises the guaranteed count by as much per GB/s up to eight refills; refresh debts of idle banks may be repaid, and nothing else changes. (10_marsh_cache.md R211, 10_marsh_cache.md R213.) -/
def Obligations.RegulatorsRefillAndCheck : Prop :=
  (∀ (g : RegRes) (p : Fin 12) (v : Word) (s : State), s.clocked = true →
    let res := (resOf g).1; let lim := (resOf g).2; let i := (regFields res p.val).2.2
    (s.regWordOk res lim p.val (fieldOf v 31 16) (fieldOf v 15 0) = true → ∃ t : State, exec (.regulatorWrite g p v) s = .next t ∧
      t = { s with flds := t.flds, eff := t.eff } ∧ t.get (regFields res p.val).1 i = fieldOf v 31 16 ∧ t.get (regFields res p.val).2.1 i = fieldOf v 15 0 ∧
      t.inForce (regFields res p.val).1 i = s.inForce (regFields res p.val).1 i ∧ t.inForce (regFields res p.val).2.1 i = s.inForce (regFields res p.val).2.1 i ∧
      s.fieldsKept t [(regFields res p.val).1.key i, (regFields res p.val).2.1.key i]) ∧
    (s.regWordOk res lim p.val (fieldOf v 31 16) (fieldOf v 15 0) = false → ∃ t : State, exec (.regulatorWrite g p v) s = .next t ∧
      t.on (rejectField res) i = true ∧ s.onlyFields t [(rejectField res).key i])) ∧
  (∀ (s : State) (r : SMap Reg), s.Quiet → let x := { s with regs := r }
    ∃ t : State, exec .regulatorRefill x = .next t ∧ t = { s with flds := t.flds, regs := t.regs } ∧
      (∀ k d, keyField k ≠ Fld.FEN_BANK_CTL_DEBT.id → SMap.get t.flds k d = SMap.get s.flds k d) ∧ ∀ res p, res < 15 → p < 12 →
      (t.reg res p).ceil = (x.regCeiling res p : Int) * 1000 + min (x.reg res p).ceil 0 ∧
      (t.reg res p).guar = min ((x.reg res p).guar + (x.regGuarantee res p : Int) * 1000) ((x.regGuarantee res p : Int) * 8000))

/-- On a module without faulty transfers, words, bonds or wires, and without spare rows in use, a write of bytes within a store reads back as those bytes with nothing uncorrectable; every byte of device memory outside the range written, by its physical key, is as it was; the write changes device memory and, on a pool, a reservation on the bytes written, and nothing else. (06_fen.md R101, 06_fen.md R102, 06_fen.md R116, 06_fen.md R117, 10_marsh_cache.md R196, 14_host_commands.md R280.) -/
def Obligations.DeviceMemoryReadsBack : Prop :=
  ∀ (s : State) (st : Store) (off : Nat) (bs : List Byte), s.faults = [] → s.deadWires = [] → s.sram = [] → s.rowSpares = [] → off + bs.length ≤ st.size →
    ∃ t : State, s.writeMem st off bs = ⟨t, none, []⟩ ∧ (t.readMem st off bs.length).bytes = bs ∧ (t.readMem st off bs.length).bad = false ∧
      (∀ k, (∀ i, i < bs.length → k ≠ s.physKey st (off + i)) → t.byteAt k = s.byteAt k) ∧ t = { s with mem := t.mem, cores := t.cores } ∧
      (∀ c, (t.core c).resv = (s.core c).resv ∨ (st = .pool c ∧ (t.core c).resv = none)) ∧ (∀ c, { t.core c with resv := none } = { s.core c with resv := none })

/-- For a range within one 2 KiB chunk, from the PF with PARTITION 15, on a module with no faulty memory, no spare row in use, no other command in progress, no flip mask armed, the range in reach, not withdrawn and held by no grain: MEM_READ stores the bytes of the device at the host address and completes with ST_OK and the byte count; MEM_WRITE stores the host's bytes in the device, changes no other byte of it, and completes in the same way; a read of the window answers the bytes, and a write of it stores them. (14_host_commands.md R289, 14_host_commands.md R281, 10_marsh_cache.md R212.) -/
def Obligations.MemoryTransfersComplete : Prop :=
  ∀ (q : Req) (p0 p1 p2 : Word) (s : State) (st : Store) (off : Nat) (fb : Bool), let n := p1.toNat
    s.cmds = [] → s.faults = [] → s.deadWires = [] → s.sram = [] → s.rowSpares = [] → s.inDoldrums = false → s.hostUp = true → 1 ≤ n → off % 2048 + n ≤ 2048 →
    s.anyWithdrawn st off n = false → s.bankHeld st off n = false → s.rowUndefined st off n = false → s.reach none st = .served fb →
    (∀ c, c < 816 → s.on .FEN_FLIP_CTL_ARM c = false) → (∀ m, m < 12 → s.on .MRS_FLIP_CTL_ARM m = false) →
    (q.part.val = 15 → s.devRange p0.toNat n = some (st, off) →
      (s.Accepts opMemRead q [p0, p1, p2] → exec (.memRead q p0 p1 p2) s = .next ((s.hostStore p2.toNat (s.rawBytes st off n)).done q stOk n)) ∧
      (s.Accepts opMemWrite q [p0, p1, p2] → ∃ u : State, exec (.memWrite q p0 p1 p2) s = .next (u.done q stOk n) ∧ u.rawBytes st off n = s.hostRead p2.toNat n ∧
        (∀ k, (∀ i, i < n → k ≠ s.physKey st (off + i)) → u.byteAt k = s.byteAt k) ∧ u = { s with mem := u.mem, cores := u.cores })) ∧
    (∀ o, s.clocked = true → o + n ≤ 2 ^ 36 → s.on .HST_WIN_ENABLE 0 = true → s.devRange (s.windowAddr 0 o) n = some (st, off) → s.ownerOf st off = none →
      exec (.windowRead 0 o n) s = .next (s.answer (.window 0 (some (s.rawBytes st off n)))) ∧
      ∀ bs : List Byte, bs.length = n → ∃ t : State, exec (.windowWrite 0 o bs) s = .next t ∧ t.rawBytes st off n = bs ∧
        (∀ k, (∀ i, i < n → k ≠ s.physKey st (off + i)) → t.byteAt k = s.byteAt k) ∧ t = { s with mem := t.mem, cores := t.cores })

/-- MEM_FENCE of a range that its partition may name completes at once with ST_OK where no reed descriptor in progress writes a row of it; otherwise it is in progress, with exactly those descriptors to wait for, and nothing else changes. (07_reeds.md R142.) -/
def Obligations.MemoryFences : Prop :=
  ∀ (q : Req) (p0 p1 : Word) (s : State), s.Accepts opMemFence q [p0, p1] → fenceReason q p0.toNat p1.toNat s = 0 →
    let ops := (s.slicesOf p0.toNat p1.toNat).flatMap fun x => ((s.core x.1).rq.filter fun o => o.writes x.2.1 x.2.2).map fun o => (x.1, o.num)
    (ops = [] → exec (.memFence q p0 p1) s = .next (s.done q stOk)) ∧
    (ops ≠ [] → exec (.memFence q p0 p1) s = .next { s with cmds := s.cmdsWith q 0x1A (.memFence ops) })

/-- KV_ROOT_SET of words in form, licensed where the cache is long, with the root table mapped, waits with its words. The other four begin as a whole once the reads they begin with hold tokens and lie in no held bank, and their charges are taken then; otherwise they wait. Begun, KV_TRIM of a readable root waits for the lull, except that a length beyond what is committed completes with ST_NOT_COMMITTED; KV_FORK of roots of one shape with no page below the position to share waits; KV_EVICT and KV_PREFETCH that select no page complete with ST_OK. The roots are read from three copies that agree. (09_kv_pages.md R190, 09_kv_pages.md R191, 09_kv_pages.md R192, 09_kv_pages.md R193, 10_marsh_cache.md R211.) -/
def Obligations.KvCommandsWait : Prop :=
  ∀ (q : Req) (p0 p1 p2 p3 p4 : Word) (s : State), let p := q.part.val
    (s.Accepts opKvRootSet q [p0, p1, p2, p3] → s.rootIndexOk p p0.toNat = true → rootSetOk [p1, p2, p3] = true →
      ((Root.of [p1, p2, p3]).long = false ∨ s.licLong p = true) → (s.cmdRange p (s.rootAt p p0.toNat 2) 32).isSome = true →
      exec (.kvRootSet q p0 p1 p2 p3) s = .next { s with cmds := s.cmdsWith q 0x10 (.kvRootSet p0.toNat [p1, p2, p3]) }) ∧
    let z : State := { s with metering := some ⟨[], [], false⟩ }
    let begun (i : Instr) (f : State) := ∀ m, f.metering = some m → m.blocked = false → s.barred p m.uses m.charges = none →
      exec i s = .next ({ f with metering := s.metering }.chargeAll p m.uses m.charges)
    (∀ w y, s.Accepts opKvTrim q [p0, p1, p2] → s.rootIndexOk p p0.toNat = true → fieldOf p1 63 32 % 256 = 0 → (flagOf p2 0 = false → fieldOf p1 63 32 ≤ fieldOf p1 31 0) →
      z.hostRoot p p0.toNat = (.ok w, y) →
      begun (.kvTrim q p0 p1 p2) (if flagOf p2 0 = false ∧ (Root.of w).length < fieldOf p1 31 0 then y.done q stNotCommitted
        else { y with cmds := y.cmdsWith q 0x12 (.kvTrim p0.toNat (fieldOf p1 31 0) (fieldOf p1 63 32) (flagOf p2 0)) })) ∧
    (∀ wa wb ps y1 y2 y, s.Accepts opKvFork q [p0, p1] → y.cmds = [] → s.rootIndexOk p (fieldOf p0 31 0) = true → s.rootIndexOk p (fieldOf p0 63 32) = true →
      z.hostRoot p (fieldOf p0 31 0) = (.ok wa, y1) → y1.hostRoot p (fieldOf p0 63 32) = (.ok wb, y2) → sameShape (Root.of wa) (Root.of wb) = true →
      p1.toNat ≤ (Root.of wa).length → y2.pageEntries p (Root.of wa) = (.ok ps, y) → (∀ e ∈ ps, p1.toNat ≤ e.first) →
      begun (.kvFork q p0 p1) { y with cmds := y.cmdsWith q 0x11 (.kvFork (fieldOf p0 31 0) (fieldOf p0 63 32) p1.toNat [] []) }) ∧
    (∀ w y1 y, z.hostRoot p (fieldOf p0 31 0) = (.ok w, y1) → fieldOf p1 15 0 + (fieldOf p1 31 16 + 1) ≤ (Root.of w).streams → fieldOf p2 63 32 ≤ (Root.of w).length →
      y1.pageEntries p (Root.of w) = (.ok [], y) →
      (s.Accepts opKvEvict q [p0, p1, p2, p3, p4] → kvMoveReason q true p0 p1 p2 p3 p4 s = 0 → (fieldOf p1 33 32 = 2 → y1.licLong p = true) →
        begun (.kvEvict q p0 p1 p2 p3 p4) (y.done q stOk)) ∧
      (s.Accepts opKvPrefetch q [p0, p1, p2, p3, p4] → kvMoveReason q false p0 p1 p2 p3 p4 s = 0 → begun (.kvPrefetch q p0 p1 p2 p3 p4) (y.done q stOk)))

/-- For the one KV_EVICT or KV_PREFETCH of a partition, whose next page lies outside the peat and goes outside it, with both ranges mapped, whole, not withdrawn and in no held bank, tokens to spare and no faulty memory: the destination then holds the 32 KiB of the page, no other byte of device memory changes, and the page has moved from those to copy to those copied. With no such command in progress the event has no effect. (09_kv_pages.md R192, 07_reeds.md R141.) -/
def Obligations.KvPageCopied : Prop :=
  (∀ (p : Fin 12) (s : State), s.clocked = true → (∀ c ∈ s.cmds, c.q.part.val ≠ p.val) → exec (.kvPageCopyDone p) s = .next s) ∧
  ∀ (p : Fin 12) (c : Cmd) (root moved g : Nat) (m : KvMove) (ms copied : List KvMove) (s u : State) (ss ds : Store) (so doff : Nat),
    s.clocked = true → s.cmds = [c] → c.q.part.val = p.val → c.kind = .kvMove root (m :: ms) copied moved none g → m.finished = false → m.store ≠ 2 → entStore m.old ≠ 2 →
    s.devRange (entAddr m.old) 32768 = some (ss, so) → s.devRange m.dest 32768 = some (ds, doff) → s.anyWithdrawn ss so 32768 = false →
    s.anyWithdrawn ds doff 32768 = false → s.bankHeld ss so 32768 = false → s.bankHeld ds doff 32768 = false →
    s.faults = [] → s.deadWires = [] → s.sram = [] → s.rowSpares = [] → s.rowUndefined ss so 32768 = false →
    s.grant p.val (ss.bgOf ++ ds.bgOf) (ss.resOf ++ ds.resOf) 32768 = (some u, u) →
    ∃ t : State, exec (.kvPageCopyDone p) s = .next t ∧ t.rawBytes ds doff 32768 = s.rawBytes ss so 32768 ∧
      (∀ k, (∀ i, i < 32768 → k ≠ s.physKey ds (doff + i)) → t.byteAt k = s.byteAt k) ∧
      t.cmds = [{ c with kind := .kvMove root ms (copied ++ [m]) moved none g }]

/-- From the PF with PARTITION 15, with the peat enabled, no other command in progress, no NAND operation at work, outside the lull and not held by the power state, blocks that allow the operation, a die warm enough and a destination that may be named: the operation is at the die and the command is in progress, issued; nothing else changes. PEAT_ERASE sets the mode that its SLC bit names. (11_peat.md R222, 11_peat.md R220, 11_peat.md R229, 11_peat.md R231.) -/
def Obligations.PeatCommandsIssue : Prop :=
  ∀ (q : Req) (p0 p1 p2 : Word) (s : State), let keys := paKeys p0.toNat (fieldOf p1 2 0); let d := paDie p0.toNat
    q.part.val = 15 → s.cmds = [] → s.nand = [] → s.inForce .PEAT_CTL_ENABLE 0 = 1 → s.inLull = false → s.powerHeld = false → paIsSlot p0.toNat = false →
    (s.Accepts opPeatErase q [p0, p1] → s.peatAddrReason q p0.toNat (fieldOf p1 2 0) 1 false = 0 → paPage p0.toNat = 0 →
      s.nandAllowed ⟨2, keys, 0, 0, if flagOf p1 8 then 2 else 1⟩ = true → s.nandTempOk d 2 = true → 0 < s.get .PEAT_CTL_ACTIVE_MAX 0 →
      exec (.peatErase q p0 p1) s = .next { s with
        cmds := s.cmdsWith q 0x22 (.peatErase p0.toNat (fieldOf p1 2 0) (flagOf p1 8) true),
        nand := [(d, ⟨2, keys, 0, 0, if flagOf p1 8 then 2 else 1⟩)] }) ∧
    (∀ st off, s.Accepts opPeatRead q [p0, p1, p2] → s.peatAddrReason q p0.toNat (fieldOf p1 2 0) (fieldOf p1 24 16) true = 0 → 1 ≤ fieldOf p1 24 16 → fieldOf p1 24 16 ≤ 256 →
      s.peatDeviceOk q p2.toNat (16384 * fieldOf p1 2 0 * fieldOf p1 24 16) = true → s.devRange p2.toNat (16384 * fieldOf p1 2 0) = some (st, off) →
      s.anyWithdrawn st off (16384 * fieldOf p1 2 0) = false → s.nandAllowed ⟨0, keys, paPage p0.toNat, fieldOf p1 24 16, 0⟩ = true → s.nandTempOk d 0 = true →
      exec (.peatRead q p0 p1 p2) s = .next { s with
        cmds := s.cmdsWith q 0x20 (.peatRead p0.toNat (fieldOf p1 2 0) (fieldOf p1 24 16) 0 p2.toNat 0 0 true),
        nand := [(d, ⟨0, keys, paPage p0.toNat, 1, 0⟩)] })

/-- PEAT_PROGRAM of one plane in SLC mode, under the conditions of PeatCommandsIssue and with wear budget left, puts its program operation at the die and the source's bytes in the page. PEAT_NAND_DONE of an erase of one block without failure takes the operation off the die, erases the block (one erase more, no reads, pointer 0, the mode named) and completes the command with ST_OK; with no operation at the die it changes nothing. (11_peat.md R220, 11_peat.md R227, 11_peat.md R230, 11_peat.md R231.) -/
def Obligations.PeatProgramAndEnd : Prop :=
  (∀ (q : Req) (p0 p1 p2 : Word) (s : State) (st : Store) (off : Nat), let k := blockKey (paDie p0.toNat) (paPlane p0.toNat) (paBlock p0.toNat)
    q.part.val = 15 → s.cmds = [] → s.nand = [] → s.inForce .PEAT_CTL_ENABLE 0 = 1 → s.inLull = false → s.powerHeld = false → paIsSlot p0.toNat = false →
    s.faults = [] → s.deadWires = [] → s.sram = [] → fieldOf p1 2 0 = 1 → (s.block k).mode = 2 →
    s.Accepts opPeatProgram q [p0, p1, p2] → s.peatAddrReason q p0.toNat 1 1 false = 0 → s.peatDeviceOk q p2.toNat 16384 = true → s.devRange p2.toNat 16384 = some (st, off) →
    s.anyWithdrawn st off 16384 = false → s.rowUndefined st off 16384 = false → s.nandAllowed ⟨1, [k], paPage p0.toNat, 1, 0⟩ = true →
    s.nandTempOk (paDie p0.toNat) 1 = true → 0 < s.get .PEAT_CTL_ACTIVE_MAX 0 → s.wearAllows 16384 = true →
    ∃ t : State, exec (.peatProgram q p0 p1 p2) s = .next t ∧ t.nand = [(paDie p0.toNat, ⟨1, [k], paPage p0.toNat, 1, 0⟩)] ∧
      t.cmds = s.cmdsWith q 0x21 (.peatProgram p0.toNat 1 p2.toNat true) ∧
      SMap.getList 0 t.peatData (pageKey k (paPage p0.toNat)) 16384 = s.rawBytes st off 16384 ∧ t.wearUsed = s.wearUsed + 16384 ∧
      t = { s with cmds := t.cmds, nand := t.nand, peatData := t.peatData, wear := t.wear }) ∧
  (∀ (ch : Fin 16) (die : Fin 8) (s : State), s.clocked = true →
    (s.nand = [] → exec (.peatNandDone ch die ⟨[], []⟩) s = .next s) ∧
    (∀ (k mode a : Nat) (slc : Bool) (c : Cmd), s.nand = [(peatDie ch.val die.val, ⟨2, [k], 0, 0, mode⟩)] → s.cmds = [c] → c.kind = .peatErase a 1 slc true →
      paDie a = peatDie ch.val die.val →
      ∃ u : State, exec (.peatNandDone ch die ⟨[], []⟩) s = .next (u.endCmd c stOk u.gust 0 0) ∧ u.nand = [] ∧
        u.block k = ⟨saturate 24 ((s.block k).erases + 1), 0, 0, mode, false, false, false, false, true, []⟩ ∧ (∀ j, j ≠ k → u.block j = s.block j)))

/-- PEAT_STATUS of one block by the PF for PARTITION 15, outside the lull and with nothing in its way, writes its 16-byte record to the destination and completes with ST_OK and counts of good, factory-bad and failed blocks. A write of a region entry waits for the boundary and shows as pending; a write of PEAT_CTL keeps ENABLE in force until the boundary. The save of counters makes the counters last saved equal to the present ones. A minute starts a new entry of the 1,440-minute window. (11_peat.md R221, 11_peat.md R228, 11_peat.md R230, 11_peat.md R231, 11_peat.md R234.) -/
def Obligations.PeatHousekeeping : Prop :=
  (∀ (q : Req) (p0 p1 p2 : Word) (s : State) (st : Store) (off : Nat),
    let k := blockKey (peatDie (fieldOf p0 3 0) (fieldOf p0 6 4)) (fieldOf p0 8 7) (fieldOf p0 20 9)
    let bad := s.peatBad.contains k; let fail := (s.block k).progFail || (s.block k).eraseFail
    s.Accepts opPeatStatus q [p0, p1, p2] → q.part.val = 15 → s.get .HST_RING_CTL_OWNER q.ring.val = 0 → fieldOf p1 11 0 = 1 → fieldOf p0 20 9 + 1 ≤ 2800 →
    journalBlock k = false → s.peatDeviceOk q p2.toNat 16 = true → s.devRange p2.toNat 16 = some (st, off) → s.anyWithdrawn st off 16 = false →
    s.inForce .PEAT_CTL_ENABLE 0 = 1 → s.cmds = [] → s.powerHeld = false → s.inLull = false → s.bankHeld st off 16 = false →
    s.faults = [] → s.deadWires = [] → s.sram = [] → s.rowSpares = [] → (∀ c, c < 816 → s.on .FEN_FLIP_CTL_ARM c = false) → (∀ m, m < 12 → s.on .MRS_FLIP_CTL_ARM m = false) →
    ∃ u : State, exec (.peatStatus q p0 p1 p2) s = .next (u.done q stOk ((if bad || fail then 0 else 1) + (if bad then 2 ^ 32 else 0)) (if fail then 1 else 0)) ∧
      u.rawBytes st off 16 = s.blockRecord k ∧ u = { s with mem := u.mem, cores := u.cores }) ∧
  (∀ (s : State) (i : Nat) (v : Word), s.clocked = true → i < 524288 → ∃ t : State, exec (.peatMapWrite i v) s = .next t ∧
    SMap.get t.peatMapNew i 0 = v.toNat % 4096 + (if v.toNat / 2 ^ 15 % 2 = 1 then 2 ^ 15 else 0) ∧ t.on .PEAT_MAP_STATUS_PENDING 0 = true ∧
    t = { s with flds := t.flds, peatMapNew := t.peatMapNew } ∧ s.fieldsKept t [Fld.PEAT_MAP_STATUS_PENDING.key 0]) ∧
  (∀ (s : State) (v : Word), s.clocked = true → ∃ t : State, exec (.peatCtlEnable v) s = .next t ∧ t.inForce .PEAT_CTL_ENABLE 0 = s.inForce .PEAT_CTL_ENABLE 0 ∧
    t.get .PEAT_CTL_ENABLE 0 = v.toNat / 2 ^ (Fld.PEAT_CTL_ENABLE.lo) % 2 ∧ t = { s with flds := t.flds, eff := t.eff } ∧
    s.fieldsKept t [Fld.PEAT_CTL_ENABLE.key 0, Fld.PEAT_CTL_ACTIVE_MAX.key 0, Fld.PEAT_CTL_DISTURB_EVENT.key 0]) ∧
  (∀ s : State, s.clocked = true → ∃ t : State, exec .peatCounterSave s = .next t ∧ t.peatSaved = t.peatBlocks ∧ t.wearSaved = s.wear ∧
    (∀ e ∈ t.peatBlocks, e.2.dirty = false) ∧ t = { s with peatBlocks := t.peatBlocks, peatSaved := t.peatSaved, wearSaved := t.wearSaved }) ∧
  (∀ s : State, s.get .PWR_STATE_STATE 0 ≠ 4 → exec .wearMinute s = .next { s with wear := 0 :: s.wear.take 1439 })

/-- Accepted, with a location in range and a gust that has not begun: RETIRE_PAGE and RETIRE_BANK of what is not yet retired, and SPARE_ENABLE of a free spare, are in progress until the boundary, with an interim completion if EARLY_ACK asks for one; kinds 4 and 5 are in progress as migrations. Training starts for an untrained wire group, and the far end of a lane's port is told the lane and the gust, the next where none is named. What is retired already completes with ST_OK, and what names no free spare with the status of its kind, and neither changes anything else. Where the far end of a lane confirms at once, its port holds the confirmation as well. (16_faults_repair.md R329, 16_faults_repair.md R330, 16_faults_repair.md R331, 06_fen.md R119, 14_host_commands.md R289.) -/
def Obligations.RepairCommandsWait : Prop :=
  ∀ (q : Req) (p0 p1 p2 : Word) (s : State),
    (∀ st off, s.Accepts opRetirePage q [p0, p1] → p0.toNat % 2048 = 0 → s.gustBegun p1.toNat = false → s.devLoc p0.toNat = some (st, off) → st.isStack = true →
      exec (.retirePage q p0 p1) s = .next (match s.retireStatus p0.toNat with
        | some e => s.done q e
        | none => s.waiting q 0x28 (.boundary (.retirePage p1.toNat p0.toNat)))) ∧
    (s.Accepts opRetireBank q [p0, p1] → siteLocOk p0.toNat = true → s.gustBegun p1.toNat = false →
      exec (.retireBank q p0 p1) s = .next (if s.on .FEN_BANK_CTL_RETIRED (ix2 128 (locSite p0.toNat) (fieldOf p0 17 11)) then s.done q stOk
        else s.waiting q 0x29 (.boundary (.retireBank p1.toNat p0.toNat)))) ∧
    ∀ e ∈ [(Instr.spareEnableColumn q p1 p2, 1, s), (.spareEnableRow q p1 p2, 2, s), (.spareEnableBond q p1 p2, 3, s), (.spareEnableSite q p1 p2, 4, s),
        (.spareEnableChannel q p1 p2, 5, s), (.spareEnableWire q p1 p2, 6, s), (.spareEnableLane q p1 p2 false, 7, s),
        (.spareEnableLane q p1 p2 true, 7, s.farSpare p1.toNat (s.laneGust p2.toNat))],
      let kind : Nat := e.2.1; let x : State := e.2.2; let loc := p1.toNat; let g := p2.toNat; let named := if kind = 7 ∧ g ≤ s.gust then s.gust + 1 else g
      s.Accepts (opSpareEnable kind) q [BitVec.ofNat 64 kind, p1, p2] → locOk kind loc = true → s.gustBegun g = false →
      (s.spareStatus kind loc ≠ stOk → exec e.1 s = .next (x.done q (s.spareStatus kind loc))) ∧
      (s.spareStatus kind loc = stOk → exec e.1 s = .next (
        if kind = 4 then x.waiting q 0x2A (.migrateSite g loc false none 0)
        else if kind = 5 then x.waiting q 0x2A (.migrateChannel g loc false none)
        else (if kind = 6 ∧ s.trained 6 loc = false then x.startGroups (bitsOf loc 4 0) [32, bitsOf loc 15 6 / 32]
          else if kind = 7 then x.tellSpare loc named else x).waiting q 0x2A (.boundary (.spare named kind loc none))))

/-- With every entry of the map held in three equal copies: REPAIR_MAP_READ on a trained module with its host link up writes to the host the 32-byte header, with the version and the number of entries, and the 16-byte entries, or as many whole entries as fit, and completes with the bytes needed and the version, ST_OK if all fitted and ST_BAD_PACKET if not; saving the map makes the flash hold the entries and the version and sets PART_REPAIR.SAVED. The end of the copying of a site or a channel of a module without faulty words, bonds or wires leaves the migration waiting for its boundary with no uncorrectable word counted. (16_faults_repair.md R328, 16_faults_repair.md R329, 16_faults_repair.md R331, 16_faults_repair.md R330.) -/
def Obligations.RepairRecordsAndMigrations : Prop :=
  ∀ (s : State), s.clocked = true →
    (∀ ws : List (List Word), s.repairMap = ws.map Tri.of →
      (∀ (q : Req) (p0 p1 : Word), let n := p1.toNat; let need := 32 + 16 * ws.length
        s.Accepts opRepairMapRead q [p0, p1] → s.untrained = false → s.hostUp = true →
        exec (.repairMapRead q p0 p1) s = .next ((s.hostStore p0.toNat ((wordsToBytes [BitVec.ofNat 64 (s.repairVer + placed ws.length 32),
            BitVec.ofNat 64 (s.get .PART_REPAIR_SAVED 0), 0, 0] ++ ws.flatMap wordsToBytes).take
            (if n < 32 then 0 else if need ≤ n then need else 32 + (n - 32) / 16 * 16))).done q (if need ≤ n then stOk else stBadPacket) need s.repairVer)) ∧
      ∃ t : State, exec .repairMapSave s = .next t ∧ t.flashMap = ws ∧ t.flashVer = s.repairVer ∧ t.get .PART_REPAIR_SAVED 0 = 1 ∧
        s.fieldsKept t [Fld.PART_REPAIR_SAVED.key 0] ∧ t = { s with flds := t.flds, flashMap := ws, flashVer := s.repairVer }) ∧
    (∀ (c : Site) (x : Cmd) (g loc w : Nat), s.cmds = [x] → x.kind = .migrateSite g loc true none w → s.siteOf (bitsOf loc 3 0) (bitsOf loc 16 11) = some (siteNo c) →
      s.faults = [] → s.deadWires = [] → exec (.siteMigrationDone c) s = .next { s with cmds := [{ x with kind := .migrateSite g loc true (some 0) w }] }) ∧
    (∀ (m : Fin 12) (x : Cmd) (g loc : Nat), s.cmds = [x] → x.kind = .migrateChannel g loc true none → bitsOf loc 3 0 = m.val → s.faults = [] → s.deadWires = [] →
      ∃ t : State, exec (.marshMigrationDone m) s = .next t ∧ t.cmds = [{ x with kind := .migrateChannel g loc true (some 0) }] ∧
        t.get .MRS_SPARE_PROGRESS m.val = 255 ∧ t.get .MRS_SPARE_UNCORR_COPIED m.val = 0 ∧ t = { s with flds := t.flds, cmds := t.cmds } ∧
        s.fieldsKept t [Fld.MRS_SPARE_PROGRESS.key m.val, Fld.MRS_SPARE_UNCORR_COPIED.key m.val]) ∧
    (s.cmds = [] → (∀ c, exec (.siteMigrationDone c) s = .next s) ∧ ∀ m, exec (.marshMigrationDone m) s = .next s)

/-- PART_CREATE of an absent partition whose block passes every check leaves the partition in creation (STATE 1) with the dies and the VF it names, and is in progress; no other partition changes. One that fails a check completes with the status of that check and changes nothing else. When the creation is done the partition is ready (STATE 2), its VF is bound to it, the DMA engines of its mask belong to it, its cores are as after reset, and the command completes with ST_OK; without a creation the event has no effect. (16_faults_repair.md R315, 16_faults_repair.md R316, 16_faults_repair.md R333.) -/
def Obligations.PartitionIsCreated : Prop :=
  (∀ (q : Req) (p0 p1 : Word) (s : State), let p := fieldOf p0 3 0; let w := bytesToWords 512 (s.hostRead p1.toNat 4096)
    let st := s.createStatus p (fieldOf p0 19 8) (fieldOf p0 27 24) (some w)
    s.Accepts opPartCreate q [p0, p1] → p < 12 → fieldOf p0 27 24 ≤ 12 → s.hostUp = true →
    (st ≠ stOk → exec (.partCreate q p0 p1) s = .next (s.done q st)) ∧
    (st = stOk → ∃ t : State, exec (.partCreate q p0 p1) s = .next t ∧ t.get .PART_STATUS_STATE p = 1 ∧ t.get .PART_STATUS_DIE_MASK p = fieldOf p0 19 8 ∧
      t.get .PART_STATUS_VF p = fieldOf p0 27 24 ∧ t.cmds = s.cmdsWith q 0x30 (.partCreate p w) ∧ t.part p = Part.fresh ∧ (∀ j, j ≠ p → t.part j = s.part j) ∧
      (∀ j, j < 12 → j ≠ p → t.get .PART_STATUS_STATE j = s.get .PART_STATUS_STATE j) ∧ t = { s with flds := t.flds, parts := t.parts, regs := t.regs, cmds := t.cmds })) ∧
  (∀ (p : Fin 12) (s : State), s.clocked = true →
    (s.get .PART_STATUS_STATE p.val ≠ 1 → exec (.partCreateDone p) s = .next s) ∧
    (∀ (c : Cmd) (w : List Word), s.get .PART_STATUS_STATE p.val = 1 → s.get .PART_STATUS_VF p.val ≤ 12 → s.cmds = [c] → c.kind = .partCreate p.val w →
      ∃ u : State, exec (.partCreateDone p) s = .next (u.endCmd c stOk u.gust 0 0) ∧ u.cmds = [c] ∧ u.get .PART_STATUS_STATE p.val = 2 ∧
        (s.get .PART_STATUS_VF p.val ≠ 0 → u.on .HST_FUNC_CTL_BOUND (s.get .PART_STATUS_VF p.val) = true ∧
          u.get .HST_FUNC_CTL_PARTITION (s.get .PART_STATUS_VF p.val) = p.val) ∧
        (∀ e, e < 32 → bitOf (s.get .PART_DMA_MASK p.val) e = true → u.get .DMA_CH_CTL_PARTITION e = p.val) ∧
        ∀ k ∈ s.partAllSites p.val, u.core k = Core.fresh))

/-- PART_RESET of an existing partition that is not resetting leaves it resetting (STATE 3, with GST_PART_STATE.STATE 5) and is in progress; a second PART_RESET of it joins the first. Where no job runs and nothing of the partition is in progress it keeps the step and gust last committed, and memory. When the reset is done, with every entry of the repair map readable, the partition is ready (STATE 2), with its job state 0, no plan loaded or armed, an empty rewind window and its partition map as before. A reset that does not end in time loses the partition (STATE 5), or, as the third loss within 60 minutes, enters Doldrums mode. Both complete the PART_RESET commands of the partition. Neither event has an effect on a partition that is not resetting. (16_faults_repair.md R317, 16_faults_repair.md R320, 16_faults_repair.md R334.) -/
def Obligations.PartitionIsReset : Prop :=
  (∀ (q : Req) (s : State), let p := q.part.val
    s.Accepts opPartReset q [] → p < 12 →
    (s.get .PART_STATUS_STATE p = 3 → exec (.partReset q) s = .next { s with cmds := s.cmdsWith q 0x31 (.partReset p) }) ∧
    (s.get .PART_STATUS_STATE p ≠ 3 → ∃ t : State, exec (.partReset q) s = .next t ∧ t.get .PART_STATUS_STATE p = 3 ∧ t.get .GST_PART_STATE_STATE p = 5 ∧
      (∃ u : State, t.cmds = u.cmdsWith q 0x31 (.partReset p)) ∧
      ((s.part p).running = false → (s.part p).undo = [] → (s.part p).wrote = [] → (s.part p).carried = [] → s.cmds = [] → s.xniHeld = [] → s.partEngines p = [] →
        t.get .GST_PART_STEP_STEP p = s.get .GST_PART_STEP_STEP p ∧ t.get .GST_PART_COMMIT_GUST p = s.get .GST_PART_COMMIT_GUST p ∧
        (t.part p).prior = s.get .PART_STATUS_STATE p ∧ t.mem = s.mem))) ∧
  (∀ (p : Fin 12) (s : State), s.clocked = true →
    (s.get .PART_STATUS_STATE p.val ≠ 3 → exec (.partResetDone p) s = .next s ∧ exec (.partResetTimeout p) s = .next s) ∧
    (s.get .PART_STATUS_STATE p.val = 3 →
      (∀ rs : List (List Word), s.repairMap = rs.map Tri.of → ∃ t : State, exec (.partResetDone p) s = .next t ∧ t.get .PART_STATUS_STATE p.val = 2 ∧
        t.get .GST_PART_STATE_STATE p.val = 0 ∧ t.get .GST_PART_STATE_REWINDS_IN_WINDOW p.val = 0 ∧ (t.part p.val).map = (s.part p.val).map ∧
        (t.part p.val).loaded = none ∧ (t.part p.val).armed = none ∧ (t.part p.val).running = false ∧ ((∀ c ∈ s.cmds, c.kind = .partReset p.val) → t.cmds = [])) ∧
      ∃ t : State, exec (.partResetTimeout p) s = .next t ∧ (s.recentLosses.length < 2 → t.get .PART_STATUS_STATE p.val = 5) ∧
        (2 ≤ s.recentLosses.length → t.inDoldrums = true) ∧ ((∀ c ∈ s.cmds, c.kind = .partReset p.val) → t.cmds = [])))

/-- PART_DESTROY with a plan armed and the map readable completes with ST_BUSY and changes nothing else. Otherwise the partition is in destruction (STATE 4), its VF is unbound and the command is in progress. When the destruction is done the partition is absent (STATE 0), with no dies, no VF, job state 0 and nothing kept of it, and the command completes with ST_OK; a partition that is not in destruction is left as it is. (16_faults_repair.md R318, 16_faults_repair.md R339.) -/
def Obligations.PartitionIsDestroyed : Prop :=
  (∀ (q : Req) (s : State), let p := q.part.val
    s.Accepts opPartDestroy q [] → p < 12 →
    (s.armed p = true → (s.part p).mapLost = false → exec (.partDestroy q) s = .next (s.done q stBusy)) ∧
    (s.armed p = false → (s.part p).undo = [] → (s.part p).wrote = [] → (s.part p).carried = [] → s.cmds = [] → s.xniHeld = [] → s.partEngines p = [] → s.partVf p ≤ 12 →
      ∃ t : State, exec (.partDestroy q) s = .next t ∧ t.get .PART_STATUS_STATE p = 4 ∧ t.get .PART_STATUS_VF p = 0 ∧ t.cmds = s.cmdsWith q 0x32 (.partDestroy p) ∧
        (s.partVf p ≠ 0 → t.on .HST_FUNC_CTL_BOUND (s.partVf p) = false))) ∧
  (∀ (p : Fin 12) (s : State), s.clocked = true →
    (s.get .PART_STATUS_STATE p.val ≠ 4 → exec (.partDestroyDone p) s = .next s) ∧
    (∀ c, s.get .PART_STATUS_STATE p.val = 4 → s.cmds = [c] → c.kind = .partDestroy p.val → s.engines = [] →
      ∃ u : State, exec (.partDestroyDone p) s = .next (u.endCmd c stOk u.gust 0 0) ∧ u.cmds = [c] ∧ u.get .PART_STATUS_STATE p.val = 0 ∧
        u.get .PART_STATUS_DIE_MASK p.val = 0 ∧ u.get .PART_STATUS_VF p.val = 0 ∧ u.get .GST_PART_STATE_STATE p.val = 0 ∧ u.part p.val = Part.fresh ∧
        ∀ j, j < 12 → j ≠ p.val → u.get .PART_STATUS_STATE j = s.get .PART_STATUS_STATE j))

/-- With no power command in progress and no plan armed, POWER_STATE to Run, Idle, Sleep or Deep from a state that accepts it shows BUSY and the target and is in progress; one from a state that does not accept it completes with ST_BAD_PACKET. For a die held by no partition, switching its cores is in progress. When Sleep may be entered, POWER_STATE_ENTERED shows state 2 and no BUSY, and loses fabric lock. A die whose cores return is struck from CORES_OFF and its command completes with ST_OK. (18_power.md R367, 18_power.md R369, 18_power.md R366, 18_power.md R376.) -/
def Obligations.PowerStatesChange : Prop :=
  (∀ (q : Req) (p0 : Word) (s : State), let t := fieldOf p0 2 0
    s.Accepts opPowerState q [p0] → t ≤ 4 → s.cmds = [] → s.on .PWR_STATE_BUSY 0 = false → s.engines = [] → s.anyArmed = false →
    (fieldOf p0 5 4 = 0 → powerFrom t (s.get .PWR_STATE_STATE 0) = true → t < 4 →
      ∃ u : State, exec (.powerState q p0) s = .next u ∧ u.on .PWR_STATE_BUSY 0 = true ∧ u.get .PWR_STATE_TARGET 0 = t ∧
        u.cmds = s.cmdsWith q 0x38 (.powerState t) ∧
        (t < 2 → u = { s with flds := u.flds, cmds := u.cmds } ∧ s.fieldsKept u [Fld.PWR_STATE_BUSY.key 0, Fld.PWR_STATE_TARGET.key 0])) ∧
    (fieldOf p0 5 4 = 0 → powerFrom t (s.get .PWR_STATE_STATE 0) = false → exec (.powerState q p0) s = .next (s.done q stBadPacket)) ∧
    (∀ scope d, scope = fieldOf p0 5 4 → d = fieldOf p0 11 8 → scope = 1 ∨ scope = 2 → d < 12 → s.dieRefused scope d = false → t = 0 ∨ t = 4 →
      exec (.diePowerState q p0) s = .next (if scope = 1 ∧ t = 4 then s.waiting q 0x38 (.diePower scope d false)
        else { s with cmds := s.cmdsWith q 0x38 (.diePower scope d (t == 0)) }))) ∧
  (∀ (s : State) (c : Cmd), s.clocked = true → s.cmds = [c] → s.always.wakePend = none → s.nand = [] → s.engines = [] →
    (s.on .PWR_STATE_BUSY 0 = true → s.get .PWR_STATE_TARGET 0 = 2 → c.kind = .powerState 2 → s.anyArmed = false → s.mgmt.effecter = false →
      ∃ u : State, exec .powerStateEntered s = .next u ∧ u.get .PWR_STATE_STATE 0 = 2 ∧ u.on .PWR_STATE_BUSY 0 = false ∧ u.get .PWR_STATE_TARGET 0 = 0 ∧
        u.on .GST_SYNC_STATUS_LOCKED 0 = false ∧ u.cmds = []) ∧
    (∀ d, s.on .PWR_STATE_BUSY 0 = false → c.kind = .diePower 1 d true → d < 12 →
      ∃ u : State, exec .powerStateEntered s = .next (u.endCmd c stOk u.gust 0 0) ∧ bitOf (u.get .PWR_STATE_CORES_OFF 0) d = false ∧
        u = { s with flds := u.flds } ∧ s.fieldsKept u [Fld.PWR_STATE_CORES_OFF.key 0, Fld.ZYN_TRANSIT_STATE.key d]))

/-- THERM_LIMIT_SET writes the limits that it gives, keeps those it gives as 0, and completes with ST_OK; one with a limit out of its range completes with ST_BAD_PACKET. CLEAR_TRIP does the same on a module that has not tripped. On one that a trip has shut off, and that would accept the command with its clocks running: with a sensor not yet cool it completes with ST_BAD_PACKET; with every sensor cool it lets the module start, with wake source 5, and the trip is no longer driven. A write of PWR_WAKE_CTL sets its three enables, and one that would clear all three has no effect. (18_power.md R365, 17_heat.md R342, 17_heat.md R353, 18_power.md R370.) -/
def Obligations.LimitsAndTrip : Prop :=
  (∀ (q : Req) (p0 : Word) (s : State), let w := fieldOf p0 15 0; let l := fieldOf p0 23 16; let m := fieldOf p0 31 24
    s.Accepts opThermLimitSet q [p0] →
    let out := (w ≠ 0 ∧ (w < 1000 ∨ 4800 < w)) ∨ s.get .THM_LIMITS_LOGIC_THROTTLE 0 < l ∨ s.get .THM_LIMITS_MEM_THROTTLE 0 < m
    (∀ c, (c = Instr.thermLimitSet q p0 ∧ flagOf p0 32 = false) ∨ (c = Instr.clearTrip q p0 ∧ flagOf p0 32 = true ∧ s.tripped = false) →
      (out → exec c s = .next (s.done q stBadPacket)) ∧
      (¬out → ∃ u : State, exec c s = .next (u.done q stOk) ∧
        u.get .PWR_LIMIT_LIMIT 0 = (if w = 0 then s.get .PWR_LIMIT_LIMIT 0 else w) ∧
        u.get .THM_LIMITS_LOGIC_THROTTLE 0 = (if l = 0 then s.get .THM_LIMITS_LOGIC_THROTTLE 0 else l) ∧
        u.get .THM_LIMITS_MEM_THROTTLE 0 = (if m = 0 then s.get .THM_LIMITS_MEM_THROTTLE 0 else m) ∧
        s.onlyFields u [Fld.PWR_LIMIT_LIMIT.key 0, Fld.THM_LIMITS_LOGIC_THROTTLE.key 0, Fld.THM_LIMITS_MEM_THROTTLE.key 0])) ∧
    ∀ z, z = { s with always := { s.always with shut := 1 } } → flagOf p0 32 = true → s.tripped = true →
      (s.allCool = false → exec (.clearTrip q p0) z = .next (z.done q stBadPacket)) ∧
      (s.allCool = true → ¬out → ∃ t : State, exec (.clearTrip q p0) z = .next t ∧ t.always.cleared = true ∧ t.always.shut = 3 ∧ t.always.source = 5 ∧
        t.on .BOOT_PINS_TRIP_DRIVEN 0 = false ∧ t.tripped = false)) ∧
  (∀ (v : Word) (s : State), s.clocked = true → let bit (f : Fld) := v.toNat / 2 ^ f.lo % 2
    let a := bit .PWR_WAKE_CTL_PERST_EN; let b := bit .PWR_WAKE_CTL_SMBUS_EN; let c := bit .PWR_WAKE_CTL_WAKEN_EN
    (a = 0 ∧ b = 0 ∧ c = 0 → exec (.pwrWakeCtlWrite v) s = .next s) ∧
    (¬(a = 0 ∧ b = 0 ∧ c = 0) → ∃ t : State, exec (.pwrWakeCtlWrite v) s = .next t ∧ t.get .PWR_WAKE_CTL_PERST_EN 0 = a ∧ t.get .PWR_WAKE_CTL_SMBUS_EN 0 = b ∧
      t.get .PWR_WAKE_CTL_WAKEN_EN 0 = c ∧
      s.onlyFields t [Fld.PWR_WAKE_CTL_PERST_EN.key 0, Fld.PWR_WAKE_CTL_SMBUS_EN.key 0, Fld.PWR_WAKE_CTL_WAKEN_EN.key 0]))

/-- With its rails on, the module answers an over-current by showing the clamp and putting every die's limiter at level 15, and its release by showing no clamp. An input out of range is shown until the input is back; one that stays out holds Doldrums cause 4. A power failure shuts the module off with a report to make; a brownout of the always-on domain shuts it off, clears the trip record and is shown in PWR_WAKE. A module whose input has failed already is left as it is by a second failure. (18_power.md R360, 18_power.md R364, 16_faults_repair.md R334, 18_power.md R371.) -/
def Obligations.InputPowerEvents : Prop :=
  ∀ (s : State),
    (s.railsOn = true → ∃ t : State, exec .currentClamp s = .next t ∧ t.on .PWR_STATUS_CLAMP 0 = true ∧ ∀ d, d < 12 → t.limiter d = 15) ∧
    (s.railsOn = false → exec .currentClamp s = .next s) ∧
    (∃ t : State, exec .clampRelease s = .next t ∧ t.on .PWR_STATUS_CLAMP 0 = false ∧ s.onlyFields t [Fld.PWR_STATUS_CLAMP.key 0]) ∧
    (∃ t : State, exec .inputOutOfRange s = .next t ∧ t.on .PWR_STATUS_OUT_OF_RANGE 0 = true ∧ t.always.inSince = none) ∧
    (s.railsOn = true → s.on .PWR_STATUS_OUT_OF_RANGE 0 = true →
      ∃ t : State, exec .inputRangeTimeout s = .next t ∧ t.inDoldrums = true ∧ bitOf (t.get .PART_DOLDRUMS_HELD 0) 3 = true) ∧
    (s.railsOn = false ∨ s.on .PWR_STATUS_OUT_OF_RANGE 0 = false → exec .inputRangeTimeout s = .next s) ∧
    (s.on .PWR_STATUS_OUT_OF_RANGE 0 = true → ∃ t : State, exec .inputBackWithinRange s = .next t ∧ t.on .PWR_STATUS_OUT_OF_RANGE 0 = false) ∧
    (s.on .PWR_STATUS_OUT_OF_RANGE 0 = false → exec .inputBackWithinRange s = .next s) ∧
    (s.always.shut = 1 → exec .powerFail s = .next s) ∧
    (s.always.shut ≠ 1 → ∃ t : State, exec .powerFail s = .next t ∧ t.always.shut = 2 ∧ t.always.failReport = true ∧ t.on .HST_LINK_STATUS_UP 0 = false ∧
      t.on .HST_CP_STATUS_READY 0 = false ∧ t.clocked = false ∧ t.mem = s.mem) ∧
    (∃ t : State, exec .alwaysOnBrownout s = .next t ∧ t.always.shut = 3 ∧ t.always.brownReport = true ∧ t.on .PWR_WAKE_BROWNOUT 0 = true ∧ t.on .THM_TRIP_VALID 0 = false ∧
      t.clocked = false)

/-- MON_CONFIG whose words and monitor its sender may use waits for the boundary, with an interim completion if EARLY_ACK asks for one. MON_READ with room for it writes the 640-byte record of the monitor to the host and completes with ST_OK and 640; a live monitor (window 0) starts a new record; no other monitor changes. With less room it completes with ST_BAD_PACKET and the bytes needed. (20_monitors_freeze.md R404, 20_monitors_freeze.md R405, 14_host_commands.md R289.) -/
def Obligations.MonitorsAreConfiguredAndRead : Prop :=
  ∀ (q : Req) (p0 p1 p2 p3 : Word) (s : State), let i := p0.toNat
    (s.Accepts opMonConfig q [p0, p1, p2, p3] → monReason q i [p1, p2, p3] s = 0 →
      exec (.monConfig q p0 p1 p2 p3) s = .next (s.waiting q 0x3C (.boundary (.monConfig i [p1, p2, p3])))) ∧
    (s.Accepts opMonRead q [p0, p1, p2] → monReadReason q i s = 0 → s.inDoldrums = false →
      (p2.toNat < 640 → exec (.monRead q p0 p1 p2) s = .next (s.done q stBadPacket 640)) ∧
      (640 ≤ p2.toNat → s.hostUp = true → ∃ u : State, exec (.monRead q p0 p1 p2) s = .next (u.done q stOk 640) ∧
        u.mon i = (if (s.mon i).window = 0 then { s.mon i with live := MonRec.start s.gust } else s.mon i) ∧ (∀ j, j ≠ i → u.mon j = s.mon j) ∧
        u = { s.hostStore p1.toNat (wordsToBytes (s.monWords i)) with mons := u.mons }))

/-- LINK_RETRAIN is in progress for a ring link or spoke, a marsh port or a Xeunni port: a full retrain of a link whose dies pass traffic puts it in training (STATE 1), once a group at work is done; one of a marsh port puts it at its first state; a group retrain of a link that carries traffic queues its 33 groups, and of an ACTIVE marsh port its 17 channels; a port that may train is put in training. A unit that may not train completes the command with ST_OK and its state, and nothing changes. (12_zyneno.md R242, 12_zyneno.md R243, 14_host_commands.md R289, 13_xeunni.md R260.) -/
def Obligations.LinkRetrainStarts : Prop :=
  ∀ (q : Req) (p0 : Word) (s : State), let i := fieldOf p0 9 4; let full := flagOf p0 10
    let out (d : Nat) := s.transitFaults.contains d || bitOf (s.get .PWR_STATE_TRANSIT_OFF 0) d
    s.Accepts opLinkRetrain q [p0] →
    (fieldOf p0 1 0 = 0 → i < 24 →
      (full = true → (linkDies i).any out = false → (s.link i).groups = [] → ∃ t : State, exec (.linkRetrain q p0) s = .next t ∧
        t.get .ZYN_LINK_STATUS_STATE i = 1 ∧ t.cmds = s.cmdsWith q 0x40 (.linkRetrain i 1) ∧ t = { s with flds := t.flds, links := t.links, cmds := t.cmds } ∧
        s.fieldsKept t ([Fld.ZYN_LINK_STATUS_STATE.key i, Fld.ZYN_LINK_STATUS_GROUP.key i] ++ (linkDies i).map Fld.ZYN_TRANSIT_STATE.key) ∧ ∀ j, j ≠ i → t.link j = s.link j) ∧
      (full = true → (linkDies i).any out = false → (s.link i).groups ≠ [] → exec (.linkRetrain q p0) s = .next
        ({ s with cmds := s.cmdsWith q 0x40 (.linkRetrain i 1) }.setLink i { s.link i with fullDue := true })) ∧
      (full = false → s.linkUp i = true → ∃ t : State, exec (.linkRetrain q p0) s = .next t ∧ (∀ g, g < 33 → g ∈ (t.link i).groups) ∧
        t.cmds = s.cmdsWith q 0x40 (.linkRetrain i 0) ∧ t = { s with flds := t.flds, links := t.links, cmds := t.cmds } ∧
        s.fieldsKept t [Fld.ZYN_LINK_STATUS_GROUP.key i] ∧ ∀ j, j ≠ i → t.link j = s.link j) ∧
      ((full = true ∧ (linkDies i).any out = true) ∨ (full = false ∧ s.linkUp i = false) →
        exec (.linkRetrain q p0) s = .next (s.done q stOk (s.get .ZYN_LINK_STATUS_STATE i)))) ∧
    (fieldOf p0 1 0 = 1 → i < 12 →
      (full = true → out i = false → ∃ t : State, exec (.linkRetrain q p0) s = .next t ∧ (t.link (24 + i)).port = 1 ∧ t.cmds = s.cmdsWith q 0x40 (.linkRetrain (64 + i) 1)) ∧
      (full = false → (s.link (24 + i)).port = 6 → exec (.linkRetrain q p0) s = .next
        ({ s with cmds := s.cmdsWith q 0x40 (.linkRetrain (64 + i) 0) }.setLink (24 + i) { s.link (24 + i) with chLeft := 17 })) ∧
      ((full = true ∧ out i = true) ∨ (full = false ∧ (s.link (24 + i)).port ≠ 6) → exec (.linkRetrain q p0) s = .next (s.done q stOk (s.link (24 + i)).port))) ∧
    (fieldOf p0 1 0 = 2 → i < 16 →
      (s.portMay i = true → ∃ t : State, exec (.linkRetrain q p0) s = .next t ∧ t.get .XNI_PORT_STATUS_STATE i = 1 ∧ t.cmds = s.cmdsWith q 0x40 (.linkRetrain (128 + i) 1) ∧
        t = { s with flds := t.flds, xports := t.xports, cmds := t.cmds } ∧ s.fieldsKept t [Fld.XNI_PORT_STATUS_STATE.key i]) ∧
      (s.portMay i = false → exec (.linkRetrain q p0) s = .next (s.done q stOk (s.get .XNI_PORT_STATUS_STATE i))))

/-- An ACTIVE ring link or spoke that receives the flit it awaits, whole, awaits the next of the direction, counts no failure of it any longer, lets the flits it acknowledges leave the replay buffer of the other direction and takes the latencies of its packets into its monitor; nothing else changes. A flit that fails its check or is out of turn counts a CRC error, a replay and a failure. An ACTIVE marsh port counts the command beats that fail their parity, and trains in full at the eighth in a row. An ACTIVE Xeunni port that receives the flit it awaits, whole, in codewords that correct, awaits the next and lets the acknowledged flits leave its replay buffer; a flit that fails is counted and answered with NAK, and the eighth in a row puts the port into training. Loss of alignment puts an ACTIVE port into training too and, where it held nothing, counts it as exhausted. A retrain puts a port that may train in training. A link or port that is not ACTIVE is left as it is. (12_zyneno.md R240, 12_zyneno.md R241, 13_xeunni.md R261, 13_xeunni.md R262, 13_xeunni.md R264.) -/
def Obligations.FlitsReceived : Prop :=
  (∀ (l : Fin 24) (dir : Bool) (fl : ZynFlit) (s : State), let k := s.link l.val; let c := ZynCtl.ofWords fl.words
    let d := k.dir dir; let o := k.dir !dir; let good := zynCrcOk fl.words
    s.clocked = true → fl.eye = [] →
    (s.get .ZYN_LINK_STATUS_STATE l.val ≠ 6 → exec (.zynFlitReceive (.zyn l) dir fl) s = .next s) ∧
    (s.get .ZYN_LINK_STATUS_STATE l.val = 6 →
      (good = true → c.seq = d.rx → d.failed = [] → (c.nak = false ∨ (o.sent.any fun e => e.1 == (c.ack + 1) % 4096) = true) →
        ∃ t : State, exec (.zynFlitReceive (.zyn l) dir fl) s = .next t ∧
        ((t.link l.val).dir dir).rx = (d.rx + 1) % 4096 ∧ ((t.link l.val).dir dir).fails = 0 ∧ ((t.link l.val).dir !dir).sent = ackedUpTo o.sent c.ack ∧
        (∀ j, j ≠ l.val → t.link j = s.link j) ∧ (∀ m, m ≠ monLinkLatency + 2 * l.val + Bool.bit dir → t.mon m = s.mon m) ∧
        t = { s with links := t.links, mons := t.mons }) ∧
      (¬(good = true ∧ c.seq = d.rx) → d.fails < 7 → ∃ t : State, exec (.zynFlitReceive (.zyn l) dir fl) s = .next t ∧
        ((t.link l.val).dir dir).rx = d.rx ∧ ((t.link l.val).dir dir).fails = d.fails + 1 ∧ (t.link l.val).replays = k.replays + 1 ∧
        (t.link l.val).dir (!dir) = o ∧ (∀ j, j ≠ l.val → t.link j = s.link j) ∧
        { t with links := s.links } = (s.bump .ZYN_LINK_ERR_CRC_ERRORS l.val 1).bump .ZYN_LINK_ERR_REPLAYS l.val 1))) ∧
  (∀ (m : Fin 12) (dir : Bool) (fl : ZynFlit) (s : State), let k := s.link (24 + m.val)
    s.clocked = true →
    (k.port ≠ 6 → exec (.zynFlitReceive (.marsh m) dir fl) s = .next s) ∧
    (k.port = 6 → beatOk fl.words = true → exec (.zynFlitReceive (.marsh m) dir fl) s = .next (s.setLink (24 + m.val) { k with d0 := { k.d0 with fails := 0 } })) ∧
    (k.port = 6 → beatOk fl.words = false → k.d0.fails < 7 →
      exec (.zynFlitReceive (.marsh m) dir fl) s = .next (s.setLink (24 + m.val) { k with d0 := { k.d0 with fails := k.d0.fails + 1 } })) ∧
    (k.port = 6 → beatOk fl.words = false → 7 ≤ k.d0.fails → ∃ t : State, exec (.zynFlitReceive (.marsh m) dir fl) s = .next t ∧ (t.link (24 + m.val)).port = 1)) ∧
  (∀ (k : Fin 16) (fl : XniFlit) (s : State), let x := s.xport k.val; let b := fl.pair.flits.getD fl.place.val []; let c := XniCtl.ofBytes b
    let whole := (flitCodewords fl.place.val).all fl.pair.corrects && xniCrcOk b && c.seq == x.rx
    let counts := [Fld.XNI_PORT_ERR_FEC_SYMBOLS.key k.val, Fld.XNI_PORT_ERR_FEC_UNCORR.key k.val]
    s.clocked = true →
    (s.portUp k.val = false → exec (.xniFlitReceive k fl) s = .next s ∧ exec (.alignmentLost k) s = .next s) ∧
    (s.portUp k.val = true → s.linkPower = .l0 →
      (whole = true → fl.packets = [] → c.marker = false → (c.nak = false ∨ (c.ack + 1) % 4096 = x.tx) → ∃ t : State, exec (.xniFlitReceive k fl) s = .next t ∧
        (t.xport k.val).rx = (x.rx + 1) % 4096 ∧ (t.xport k.val).fails = 0 ∧ (t.xport k.val).sent = ackedUpTo x.sent c.ack ∧
        (t.xport k.val).pairNo = fl.pair.number.toNat ∧ (∀ j, j ≠ k.val → t.xport j = s.xport j) ∧
        t = { s with flds := t.flds, xports := t.xports } ∧ s.fieldsKept t counts) ∧
      (whole = false → x.fails < 7 → ∃ t : State, exec (.xniFlitReceive k fl) s = .next t ∧
        (t.xport k.val).fails = x.fails + 1 ∧ (t.xport k.val).rx = x.rx ∧ t.get .XNI_PORT_ERR_REPLAYS k.val = (s.bump .XNI_PORT_ERR_REPLAYS k.val 1).get .XNI_PORT_ERR_REPLAYS k.val ∧
        t.xniOut = ⟨k.val, x.tx, (x.rx + 4095) % 4096, true, none⟩ :: s.xniOut ∧
        t = { s with flds := t.flds, xports := t.xports, xniOut := t.xniOut } ∧ s.fieldsKept t (Fld.XNI_PORT_ERR_REPLAYS.key k.val :: counts)) ∧
      (whole = false → 7 ≤ x.fails → ∃ t : State, exec (.xniFlitReceive k fl) s = .next t ∧ t.get .XNI_PORT_STATUS_STATE k.val = 1)) ∧
    (s.portUp k.val = true → ∃ t : State, exec (.alignmentLost k) s = .next t ∧ t.get .XNI_PORT_STATUS_STATE k.val = 1 ∧
      (s.xniWait = [] → x.sent = [] → s.on .EVT_LOG_CTL_ENABLE 0 = false → s.pfLogOpened = false → s.heldRecs.length < 1024 →
        t.get .XNI_PORT_ERR_EXHAUSTED k.val = (s.bump .XNI_PORT_ERR_EXHAUSTED k.val 1).get .XNI_PORT_ERR_EXHAUSTED k.val ∧
        s.fieldsKept t [Fld.XNI_PORT_STATUS_STATE.key k.val, Fld.XNI_PORT_ERR_EXHAUSTED.key k.val])) ∧
    (s.portMay k.val = false → exec (.xniPortRetrain k) s = .next s) ∧
    (s.portMay k.val = true → ∃ t : State, exec (.xniPortRetrain k) s = .next t ∧ t.get .XNI_PORT_STATUS_STATE k.val = 1 ∧
      t = { s with flds := t.flds, xports := t.xports } ∧ s.fieldsKept t [Fld.XNI_PORT_STATUS_STATE.key k.val]))

/-- With no command and no network operation in progress: a link that is DOWN starts training where its dies pass traffic; in states 1 and 2 it moves to the next; in state 3 it records the wires that fail; in state 4 it moves on where none failed; in state 5 it becomes ACTIVE (state 6) with the lower of the versions and the capabilities of that version that both ends offer, or goes DOWN where the version is unknown. A marsh port moves to states 1, 2 and 3 and then is ACTIVE, or DOWN where a wire of its command bundle failed. A group retrain at work passes to the next group, and after the last shows 63; where the groups of a link stop it, it waits in the lull. A full training that waited starts then. A transit domain that fails is out of service (ZYN_TRANSIT 3). (12_zyneno.md R242, 12_zyneno.md R243, 12_zyneno.md R244, 12_zyneno.md R248.) -/
def Obligations.LinksTrain : Prop :=
  ∀ (s : State), s.clocked = true → s.cmds = [] → s.atomHeld = [] → s.netCores = [] →
    let out (d : Nat) := s.transitFaults.contains d || bitOf (s.get .PWR_STATE_TRANSIT_OFF 0) d
    (∀ (l : Fin 24) (tr : LinkTrain), let st := s.get .ZYN_LINK_STATUS_STATE l.val; let v := tr.far.version
      (st = 0 → (linkDies l.val).any out = true → exec (.linkTrainingState (.zyn l) tr.bad tr.far) s = .next s) ∧
      (st = 0 → (linkDies l.val).any out = false → (s.link l.val).groups = [] → ∃ t : State, exec (.linkTrainingState (.zyn l) tr.bad tr.far) s = .next t ∧
        t.get .ZYN_LINK_STATUS_STATE l.val = 1 ∧ t = { s with flds := t.flds, links := t.links }) ∧
      (st = 1 ∨ st = 2 → exec (.linkTrainingState (.zyn l) tr.bad tr.far) s = .next (s.put .ZYN_LINK_STATUS_STATE l.val (st + 1))) ∧
      (st = 3 → exec (.linkTrainingState (.zyn l) tr.bad tr.far) s = .next ((s.setLink l.val { s.link l.val with bad := tr.bad }).put .ZYN_LINK_STATUS_STATE l.val 4)) ∧
      (st = 4 → (s.link l.val).bad = [] → exec (.linkTrainingState (.zyn l) tr.bad tr.far) s = .next (s.put .ZYN_LINK_STATUS_STATE l.val 5)) ∧
      (st = 5 → v = 1 ∨ v = 2 → ∃ t : State, exec (.linkTrainingState (.zyn l) tr.bad tr.far) s = .next t ∧ t.get .ZYN_LINK_STATUS_STATE l.val = 6 ∧
        t.get .ZYN_LINK_STATUS_VERSION l.val = (if l.val < 12 then v else 1) ∧ t.get .ZYN_LINK_STATUS_CAPS l.val = (if l.val < 12 ∧ v = 2 then tr.far.caps % 4 else 0) ∧
        t = { s with flds := t.flds }) ∧
      (st = 5 → v ≠ 1 → v ≠ 2 → ∃ t : State, exec (.linkTrainingState (.zyn l) tr.bad tr.far) s = .next t ∧ t.get .ZYN_LINK_STATUS_STATE l.val = 0) ∧
      (st = 6 → exec (.linkTrainingState (.zyn l) tr.bad tr.far) s = .next s) ∧
      let held := s.inLull && !bitOf (s.get .ZYN_LINK_STATUS_CAPS l.val) 0
      ((s.link l.val).groups = [] ∨ held = true → exec (.zynGroupRetrain l) s = .next s) ∧
      (∀ g rest, (s.link l.val).groups = g :: rest → held = false →
        ((s.link l.val).fullDue = true → ∃ t : State, exec (.zynGroupRetrain l) s = .next t ∧ (t.link l.val).groups = [] ∧ t.get .ZYN_LINK_STATUS_STATE l.val = 1 ∧
          t = { s with flds := t.flds, links := t.links }) ∧
        ((s.link l.val).fullDue = false → rest ≠ [] → exec (.zynGroupRetrain l) s = .next
          ((s.setLink l.val { s.link l.val with groups := rest }).put .ZYN_LINK_STATUS_GROUP l.val (rest.headD 63))) ∧
        ((s.link l.val).fullDue = false → rest = [] → ∃ t : State, exec (.zynGroupRetrain l) s = .next t ∧ (t.link l.val).groups = [] ∧
          t.get .ZYN_LINK_STATUS_GROUP l.val = 63 ∧ t = { s with flds := t.flds, links := t.links }))) ∧
    (∀ (m : Fin 12) (tr : LinkTrain), let k := s.link (24 + m.val)
      (k.port = 0 → out m.val = true → exec (.linkTrainingState (.marsh m) tr.bad tr.far) s = .next s) ∧
      (k.port = 0 → out m.val = false → ∃ t : State, exec (.linkTrainingState (.marsh m) tr.bad tr.far) s = .next t ∧ (t.link (24 + m.val)).port = 1) ∧
      (k.port = 1 ∨ k.port = 2 → exec (.linkTrainingState (.marsh m) tr.bad tr.far) s = .next (s.setLink (24 + m.val) { k with port := k.port + 1 })) ∧
      (k.port = 3 → tr.bad.any Prod.fst = false → ∃ t : State, exec (.linkTrainingState (.marsh m) tr.bad tr.far) s = .next t ∧ (t.link (24 + m.val)).port = 6 ∧
        t = { s with flds := t.flds, links := t.links, selfRefresh := t.selfRefresh }) ∧
      (k.port = 3 → tr.bad.any Prod.fst = true → ∃ t : State, exec (.linkTrainingState (.marsh m) tr.bad tr.far) s = .next t ∧ (t.link (24 + m.val)).port = 0) ∧
      ∃ t : State, exec (.transitFault m) s = .next t ∧ m.val ∈ t.transitFaults ∧ t.get .ZYN_TRANSIT_STATE m.val = 3)

/-- With no command in progress, a port that may train leaves DOWN for state 1; with a signal it moves on to states 2 and 3, without one it goes DOWN; it records failed lanes, moves on where none failed, records its delay, and with version 1 and a peer other than this module becomes ACTIVE (state 7) and shows the peer, else it goes DOWN. A write of ENABLE is kept until the boundary and does not change what is in force; a fifth port without the pod licence is not enabled and sets LIC_REFUSED. (13_xeunni.md R260, 13_xeunni.md R271, 13_xeunni.md R273, 19_bringup.md R397.) -/
def Obligations.PortsTrain : Prop :=
  ∀ (k : Fin 16) (s : State), s.clocked = true → s.cmds = [] → let st := s.get .XNI_PORT_STATUS_STATE k.val
    (∀ (tr : PortTrain),
      (st = 0 → s.portMay k.val = false → exec (.portTrainingState k tr) s = .next s) ∧
      (st = 0 → s.portMay k.val = true → ∃ t : State, exec (.portTrainingState k tr) s = .next t ∧ t.get .XNI_PORT_STATUS_STATE k.val = 1) ∧
      ((st = 1 ∧ tr.signal = true) ∨ st = 2 → exec (.portTrainingState k tr) s = .next (s.put .XNI_PORT_STATUS_STATE k.val (st + 1))) ∧
      (st = 1 → tr.signal = false → ∃ t : State, exec (.portTrainingState k tr) s = .next t ∧ t.get .XNI_PORT_STATUS_STATE k.val = 0) ∧
      (st = 3 → exec (.portTrainingState k tr) s = .next ((s.setXport k.val { s.xport k.val with bad := tr.bad }).put .XNI_PORT_STATUS_STATE k.val 4)) ∧
      (st = 4 → (s.xport k.val).bad = [] → exec (.portTrainingState k tr) s = .next (s.put .XNI_PORT_STATUS_STATE k.val 5)) ∧
      (st = 5 → exec (.portTrainingState k tr) s = .next ((s.put .XNI_PORT_DELAY_DELAY k.val tr.delay).put .XNI_PORT_STATUS_STATE k.val 6)) ∧
      (st = 6 → tr.far.version = 1 → tr.far.id ≠ s.moduleId → ∃ t : State, exec (.portTrainingState k tr) s = .next t ∧ t.get .XNI_PORT_STATUS_STATE k.val = 7 ∧
        t.get .XNI_PORT_STATUS_PEER_ID k.val = tr.far.id % 2048 ∧
        s.onlyFields t [Fld.XNI_PORT_STATUS_STATE.key k.val, Fld.XNI_PORT_STATUS_PEER_ID.key k.val, Fld.XNI_PORT_STATUS_SPARES.key k.val]) ∧
      (st = 6 → tr.far.version ≠ 1 ∨ tr.far.id = s.moduleId → ∃ t : State, exec (.portTrainingState k tr) s = .next t ∧ t.get .XNI_PORT_STATUS_STATE k.val = 0) ∧
      (st = 7 → exec (.portTrainingState k tr) s = .next s)) ∧
    (∀ v : Word, let others := ((List.range 16).filter fun j => j != k.val && s.on .XNI_PORT_CTL_ENABLE j).length
      bitOf v.toNat 1 = false →
      (bitOf v.toNat 0 = true → s.on .XNI_PORT_CTL_ENABLE k.val = false → bitOf (s.get .LIC_STATE_IN_FORCE 0) 1 = false → 4 ≤ others →
        exec (.xniPortEnable k v) s = .next (s.put .XNI_STATS_LIC_REFUSED 0 1)) ∧
      (bitOf v.toNat 0 = false ∨ s.on .XNI_PORT_CTL_ENABLE k.val = true ∨ others < 4 ∨ bitOf (s.get .LIC_STATE_IN_FORCE 0) 1 = true → ∃ t : State, exec (.xniPortEnable k v) s = .next t ∧
        t.get .XNI_PORT_CTL_ENABLE k.val = Bool.bit (bitOf v.toNat 0) ∧ t.inForce .XNI_PORT_CTL_ENABLE k.val = s.inForce .XNI_PORT_CTL_ENABLE k.val ∧
        t = { s with flds := t.flds, eff := t.eff } ∧ s.fieldsKept t [Fld.XNI_PORT_CTL_ENABLE.key k.val]))

/-- With no network operation in progress and memory without faults: a mailbox write that comes over an ACTIVE port from another module, that its regulator lets through, to a valid mailbox of the peer and step it names and within its slot, is stored in the slot of its step, and its acknowledgement leaves by the port that routes to the sender. An acknowledgement takes one from those an engine awaits, and one with an error marks the partition as refused. A time-out flags the partition for a rewind (cause 5) unless flagged already. A commit notice that advances a valid mailbox stores its step; a release notice raises the outbox's released step and never lowers it. (13_xeunni.md R266, 13_xeunni.md R267, 13_xeunni.md R268.) -/
def Obligations.MailboxesArrive : Prop :=
  (∀ (k : Fin 16) (pkt : MboxPkt) (m : Mbox) (s u : State), let p := pkt.part.val; let a := m.slot0 + pkt.step % 2 * m.slotBytes + pkt.offset
    s.clocked = true → s.atomHeld = [] → s.netCores = [] → s.faults = [] → s.deadWires = [] → s.sram = [] →
    (s.portUp k.val = false → exec (.mailboxWrite k pkt) s = .next s) ∧
    (s.portUp k.val = true → pkt.srcModule ≠ s.moduleId → s.grant p [] [resCache] pkt.data.length = (some u, u) → u.mbox p pkt.mbox = (some m, u) →
      s.get .PART_STATUS_STATE p ≠ 0 → s.get .PART_STATUS_STATE p ≠ 3 → m.valid = true → m.peerModule = pkt.srcModule → m.peerPart = pkt.srcPart →
      pkt.offset + pkt.data.length ≤ m.slotBytes → m.step ≤ pkt.step → u.inRegion p a pkt.data.length = true → a + pkt.data.length ≤ Store.cache.size →
      ∃ t : State, exec (.mailboxWrite k pkt) s = .next t ∧ t.rawBytes .cache a pkt.data.length = pkt.data ∧
        (∀ j, (∀ i, i < pkt.data.length → j ≠ s.physKey .cache (a + i)) → t.byteAt j = s.byteAt j) ∧
        (∀ r, s.routePort pkt.srcModule = some r → t.xniOut =
          ⟨r, (s.xport r).tx, ((s.xport r).rx + 4095) % 4096, false, some (pkt.srcModule, 1, .ack pkt.engine stOk)⟩ :: s.xniOut))) ∧
  (∀ (e : Fin 32) (status : Nat) (s : State), s.clocked = true → s.xniWait = [] →
    ((s.engine e.val).cur = none → exec (.mailboxAck e status) s = .next s) ∧
    (∀ d, (s.engine e.val).cur = some d → 0 < d.acks →
      (status = stOk → exec (.mailboxAck e status) s = .next (s.setEngine e.val { s.engine e.val with cur := some { d with acks := d.acks - 1, result := d.result } })) ∧
      (status ≠ stOk → s.get .DMA_CH_CTL_PARTITION e.val < 12 → ∃ t : State, exec (.mailboxAck e status) s = .next t ∧
        (t.engine e.val).cur = some { d with acks := d.acks - 1, result := some (d.result.getD status) } ∧
        (t.part (s.get .DMA_CH_CTL_PARTITION e.val)).refused = true)) ∧
    exec (.mailboxTimeout e) s = .next s) ∧
  (∀ (e : Fin 32) (k : Nat) (s : State), let p := s.get .DMA_CH_CTL_PARTITION e.val
    s.clocked = true → s.xniWait = [(e.val, k)] → p < 12 → ∃ t : State, exec (.mailboxTimeout e) s = .next t ∧ t.xniWait = [] ∧
      (t.part p).flag = some ((s.part p).flag.getD (5, stUncorrectable))) ∧
  (∀ (p : Fin 12) (mb n : Fin 64) (src step : Nat) (sp : Fin 16) (s : State), s.clocked = true → s.atomHeld = [] → s.netCores = [] → s.faults = [] → s.deadWires = [] → s.sram = [] →
    (s.get .PART_STATUS_STATE p.val = 0 ∨ s.get .PART_STATUS_STATE p.val = 3 → exec (.commitNotice p mb src sp step) s = .next s ∧ exec (.releaseNotice p n step) s = .next s) ∧
    (s.get .PART_STATUS_STATE p.val ≠ 0 → s.get .PART_STATUS_STATE p.val ≠ 3 →
      (∀ m, s.mbox p.val mb.val = (some m, s) →
        (m.valid = true → m.peerModule = src → m.peerPart = sp.val → m.step < step → ∃ t : State, exec (.commitNotice p mb src sp step) s = .next t ∧
          t.rawBytes .cache (s.mboxAt p.val mb.val + 16) 8 = toBytesLE 8 (step % 2 ^ 48)) ∧
        (¬(m.valid = true ∧ m.peerModule = src ∧ m.peerPart = sp.val ∧ m.step < step) → exec (.commitNotice p mb src sp step) s = .next s)) ∧
      (s.xniHeld = [] → ∃ t : State, exec (.releaseNotice p n step) s = .next t ∧
        t.get .XNI_OUTBOX_REL_RELEASED (ix2 64 p.val n.val) = max (s.get .XNI_OUTBOX_REL_RELEASED (ix2 64 p.val n.val)) (step % 2 ^ 48) ∧
        s.onlyFields t [Fld.XNI_OUTBOX_REL_RELEASED.key (ix2 64 p.val n.val)])))

/-- Row r, burst u of bank b of a slice lies at offset (128 r + 4 (b mod 32) + b / 32) x 2048 + 32 u, and every offset below 0x4800_0000 maps to chunk, column, bank and row as R102 computes them, with bank below 128 and row below 4,608: the two maps are inverse. The logical row passes through the bank's row repair map before it reaches the array. The example of R102 comes out as given. (06_fen.md R102, 07_reeds.md R126.) -/
def Obligations.SliceMap : Prop :=
  (∀ b r u, b < 128 → r < 4608 → u < 64 → let o := rowOffset b r + 32 * u
    o = (128 * r + 4 * (b % 32) + b / 32) * 2048 + 32 * u ∧ bankOfChunk (o / 2 ^ 11) = b ∧ o / 2 ^ 11 / 2 ^ 7 = r ∧ o % 0x800 = 32 * u ∧ o < Store.size (.fen 0)) ∧
  (∀ o, o < 0x48000000 → let chunk := o / 2 ^ 11
    chunk ≤ 589823 ∧ bankOfChunk chunk = 32 * (chunk % 4) + chunk / 2 ^ 2 % 32 ∧ bankOfChunk chunk < 128 ∧ chunk / 2 ^ 7 < 4608 ∧
    rowOffset (bankOfChunk chunk) (chunk / 2 ^ 7) + o % 0x800 = o) ∧
  (∀ (s : State) (c o : Nat), o < 0x48000000 → let chunk := o / 2 ^ 11; let row := s.physRow c (bankOfChunk chunk) (chunk / 2 ^ 7)
    s.physKey (.fen c) o = c * 2 ^ 31 + (row * 128 + chunk % 128) * 2048 + o % 2048 ∧
    (SMap.get s.rowSpares (rowKey c (bankOfChunk chunk) (chunk / 2 ^ 7)) 0 = 0 → row = chunk / 2 ^ 7)) ∧
  bankOfChunk (0x01234567 / 2 ^ 11) = 26 ∧ 0x01234567 / 2 ^ 11 / 2 ^ 7 = 72 ∧ 0x01234567 % 0x800 = 1383

/-- In a VF's BAR0 of 64 KiB, a read at 0 answers HST_ID and at 4 the VF's own HST_FUNC_CTL; offset o of the group at 0x1000 + 0x40 j is what the PF finds at offset o of the group of the j-th ring that the VF owns, in increasing ring number; a read or write of either size at any other offset answers an Unsupported Request and has no other effect. Where the host has VF Enable cleared (R275) a VF's access has no effect. (14_host_commands.md R279.) -/
def Obligations.VfRegisterMap : Prop :=
  ∀ (f : Fin 13) (s : State), f.val ≠ 0 → s.clocked = true →
    (s.vfEnable = false → ∀ off size v fw, exec (.registerReadClear f off size) s = .next s ∧ exec (.registerWrite f off size v fw) s = .next s) ∧
    (s.vfEnable = true → let rings := (List.range 64).filter fun r => s.get .HST_RING_CTL_OWNER r == f.val
    exec (.registerReadClear f 0 4) s = .next (s.answer (.reg f.val ((s.get .HST_ID_DEVICE 0 * 2 ^ 16 + s.get .HST_ID_REV 0 * 2 ^ 8) % 2 ^ 32))) ∧
    exec (.registerReadClear f 4 4) s = .next (s.answer (.reg f.val ((s.get .HST_FUNC_CTL_BOUND f.val * 2 ^ 31 + s.get .HST_FUNC_CTL_PARTITION f.val * 2 ^ 24 +
      s.get .HST_FUNC_CTL_NOTICE_RING f.val * 2 ^ 16 + s.get .HST_FUNC_CTL_ENABLE_NOTICES f.val) % 2 ^ 32))) ∧
    (∀ j r o, rings[j]? = some r → o < 0x40 → s.place f.val (0x1000 + 0x40 * j + o) = s.place 0 (0x1000 + 0x40 * r + o)) ∧
    ∀ off size v fw, off < 65536 → size = 4 ∨ size = 8 → off % size = 0 → 8 ≤ off → (off < 0x1000 ∨ rings.length ≤ (off - 0x1000) / 0x40) →
      exec (.registerReadClear f off size) s = .next (s.answer (.unsupported f.val)) ∧ exec (.registerWrite f off size v fw) s = .next (s.answer (.unsupported f.val)))

/-- A read of 32 bits of a register answers its value and clears what reading clears; a write goes to the register. The ENABLE of an array, of a reed port, of an attention engine and of a walker takes the bit written and keeps in force what was in force until the boundary. A write of ARR_INJECT with its ARM bit arms the injection and sets its delta; of a flip control with its ARM bit arms the flip; other units are left as they are. (14_host_commands.md R277, 16_faults_repair.md R332, 03_core_arrays.md R64, 06_fen.md R121, 16_faults_repair.md R330.) -/
def Obligations.RegisterAccesses : Prop :=
  (∀ (s : State) (off i : Nat) (r : RegName) (v : Word), s.clocked = true → off % 4 = 0 → s.place 0 off = .reg r i 0 →
    (∀ n, s.readReg r i = (n, s) → exec (.registerReadClear 0 off 4) s = .next (((s.clearLocated r i (2 ^ 32 - 1)).clearRead r i (2 ^ 32 - 1)).answer (.reg 0 (n % 2 ^ 32)))) ∧
    exec (.registerWrite 0 off 4 v none) s = .next (s.regWrite 0 r i (v.toNat % 2 ^ 32) (2 ^ 32 - 1))) ∧
  (∀ (c : Site) (a : Fin 4) (v : Word) (s : State), s.clocked = true →
    (∀ x ∈ [(Instr.arrCtlEnable c a v, Fld.ARR_CTL_ENABLE, ix2 4 (siteNo c) a.val), (.reedCtlEnable c v, .REED_CTL_ENABLE, siteNo c),
        (.attCtlEnable c v, .ATT_CTL_ENABLE, siteNo c), (.kvwCtlEnable c v, .KVW_CTL_ENABLE, siteNo c)],
      ∃ t : State, exec x.1 s = .next t ∧ t.get x.2.1 x.2.2 = v.toNat % 2 ∧ t.inForce x.2.1 x.2.2 = s.inForce x.2.1 x.2.2 ∧
        t = { s with flds := t.flds, eff := t.eff } ∧ s.fieldsKept t [x.2.1.key x.2.2]) ∧
    (bitOf v.toNat 31 = true → ∃ t : State, exec (.arrInjectArm c a v) s = .next t ∧ SMap.get (t.core (siteNo c)).injectArmed a.val false = true ∧
      t.get .ARR_INJECT_DELTA (ix2 4 (siteNo c) a.val) = v.toNat % 2 ^ 16 ∧
      (∀ b, b ≠ a.val → SMap.get (t.core (siteNo c)).injectArmed b false = SMap.get (s.core (siteNo c)).injectArmed b false) ∧
      s.onlyCore t (siteNo c) [Fld.ARR_INJECT_DELTA.key (ix2 4 (siteNo c) a.val), Fld.ARR_INJECT_PHYS_COLUMN.key (ix2 4 (siteNo c) a.val),
        Fld.ARR_INJECT_STREAM.key (ix2 4 (siteNo c) a.val)]) ∧
    (∃ t : State, exec (.fenFlipArm c v) s = .next t ∧ (bitOf v.toNat 0 = true → t.on .FEN_FLIP_CTL_ARM (siteNo c) = true) ∧
      t.get .FEN_FLIP_CTL_TARGET (siteNo c) = v.toNat / 2 % 2 ∧ (bitOf v.toNat 2 = true → t.on .FEN_FLIP_CTL_DONE (siteNo c) = false) ∧
      s.onlyFields t [Fld.FEN_FLIP_CTL_ARM.key (siteNo c), Fld.FEN_FLIP_CTL_TARGET.key (siteNo c), Fld.FEN_FLIP_CTL_DONE.key (siteNo c)])) ∧
  (∀ (m : Fin 12) (v : Word) (s : State), s.clocked = true → ∃ t : State, exec (.mrsFlipArm m v) s = .next t ∧ (bitOf v.toNat 0 = true → t.on .MRS_FLIP_CTL_ARM m.val = true) ∧
    t.get .MRS_FLIP_CTL_CHANNEL m.val = v.toNat / 16 % 16 ∧ t.get .MRS_FLIP_CTL_TARGET m.val = v.toNat / 2 % 2 ∧
    s.onlyFields t [Fld.MRS_FLIP_CTL_ARM.key m.val, Fld.MRS_FLIP_CTL_TARGET.key m.val, Fld.MRS_FLIP_CTL_DONE.key m.val, Fld.MRS_FLIP_CTL_CHANNEL.key m.val])

/-- A doorbell of a running ring sets its tail or its consumer index, and one beyond the ring's size stops the ring with error kind 1; a doorbell of another ring has no effect. The owner's write of ENABLE to a ring that is off starts it empty at index 0 with the settings written; a write that clears ENABLE changes nothing else; a function that does not own the ring gets an Unsupported Request. A VF with VF Enable cleared changes no ring. A log is enabled at index 0, phase 1 and sequence 0. When a coalescing time or a hold-off ends, the interrupt that is due is sent and no other. (14_host_commands.md R282, 14_host_commands.md R283, 14_host_commands.md R284, 14_host_commands.md R285, 14_host_commands.md R298, 16_faults_repair.md R324.) -/
def Obligations.RingsAndLogs : Prop :=
  ∀ (s : State), s.clocked = true →
    (∀ (r : Fin 64) (v : Word), let n := fieldOf v 15 0; let g := s.ring r.val
      (s.ringRuns r.val = false → exec (.sqTail r v) s = .next s ∧ exec (.cqHead r v) s = .next s) ∧
      (s.ringRuns r.val = true → n < s.ringSize r.val → exec (.sqTail r v) s = .next (s.setRing r.val { g with tail := n }) ∧
        (g.waiting = [] → exec (.cqHead r v) s = .next (s.setRing r.val { g with cons := n, full := false }))) ∧
      (s.ringRuns r.val = true → s.ringSize r.val ≤ n → ∃ t : State, exec (.sqTail r v) s = .next t ∧ exec (.cqHead r v) s = .next t ∧
        t.on .HST_RING_STATUS_ERROR r.val = true ∧ t.get .HST_RING_STATUS_ERR_KIND r.val = 1 ∧ t.ringRuns r.val = false) ∧
      (g.uncounted = 0 → exec (.coalesceTimeout r) s = .next s) ∧
      (g.uncounted ≠ 0 → exec (.coalesceTimeout r) s =
        .next ((s.setRing r.val { g with uncounted := 0 }).fire (s.get .HST_RING_CTL_OWNER r.val) (s.get .HST_RING_CTL_VECTOR r.val)))) ∧
    (∀ (f : Fin 13) (r : Fin 64) (v : Word), let heard := f.val = 0 ∨ s.vfEnable = true
      (¬heard → exec (.hstRingEnable f r v) s = .next s) ∧
      (f.val ≠ 0 → heard → s.get .HST_RING_CTL_OWNER r.val ≠ f.val → exec (.hstRingEnable f r v) s = .next (s.answer (.unsupported f.val))) ∧
      (heard → s.get .HST_RING_CTL_OWNER r.val = f.val → s.on .HST_RING_CTL_ENABLE r.val = false → bitOf v.toNat 31 = true → (s.ring r.val).waiting = [] → bitsOf v.toNat 28 25 = f.val →
        ∃ t : State, exec (.hstRingEnable f r v) s = .next t ∧ t.on .HST_RING_CTL_ENABLE r.val = true ∧ t.get .HST_RING_STATUS_SQ_HEAD r.val = 0 ∧ t.ring r.val = Ring.fresh ∧
          t.get .HST_RING_CTL_OWNER r.val = f.val ∧ t.get .HST_RING_CTL_VECTOR r.val = bitsOf v.toNat 18 12 ∧
          (bitsOf v.toNat 22 19 ≤ 12 → t.get .HST_RING_CTL_SIZE r.val = bitsOf v.toNat 22 19) ∧ (∀ j, j ≠ r.val → t.ring j = s.ring j) ∧
          t = { s with flds := t.flds, rings := t.rings }) ∧
      (heard → s.get .HST_RING_CTL_OWNER r.val = f.val → s.on .HST_RING_CTL_ENABLE r.val = true → bitOf v.toNat 31 = false →
        ∃ t : State, exec (.hstRingEnable f r v) s = .next t ∧ t.on .HST_RING_CTL_ENABLE r.val = false ∧ s.onlyFields t [Fld.HST_RING_CTL_ENABLE.key r.val])) ∧
    (∀ (f : Fin 13) (v : Word), s.on .EVT_LOG_CTL_ENABLE f.val = false → bitOf v.toNat 31 = true → f.val ≠ 0 ∨ s.pfLogOpened = true →
      ∃ t : State, exec (.evtLogEnable f v) s = .next t ∧ t.on .EVT_LOG_CTL_ENABLE f.val = true ∧ t.get .EVT_LOG_STATUS_WRITE f.val = 0 ∧ t.get .EVT_LOG_STATUS_PHASE f.val = 1 ∧
        SMap.get t.logSeq f.val 0 = 0 ∧ t.get .EVT_LOG_CTL_HOLDOFF_US f.val = v.toNat % 2 ^ 16 ∧ t = { s with flds := t.flds, logSeq := t.logSeq }) ∧
    (∀ f : Fin 13, let held := SMap.get s.heldIrq f.val false
      ∃ t : State, exec (.evtHoldoff f) s = .next t ∧ SMap.get t.heldIrq f.val false = false ∧ SMap.get t.holdoff f.val false = held ∧
        t.msix = (if held = true then [(f.val, logVector f.val)] else []) ++ s.msix ∧ t = { s with heldIrq := t.heldIrq, holdoff := t.holdoff, msix := t.msix })

/-- Where the module takes packets and the ring served next holds a packet of a command of R289, with its opcode, header and parameters and its other words and bits zero, that command has an effect on the state whose head has advanced, and the fetch has exactly that effect. With no ring to serve, or a module that takes no packets, the fetch has no effect; a packet that cannot be read stops its ring with error kind 2; one in host memory is read while the link is up. (14_host_commands.md R284, 14_host_commands.md R286, 14_host_commands.md R289, 14_host_commands.md R298.) -/
def Obligations.PacketsRunTheirCommand : Prop :=
  ∀ (s : State), s.clocked = true →
    (s.on .HST_CP_STATUS_READY 0 = false → s.inDoldrums = false → exec .packetFetch s = .next s) ∧ (s.nextRing = none → exec .packetFetch s = .next s) ∧
    (s.on .HST_CP_STATUS_READY 0 = true ∨ s.inDoldrums = true → ∀ r, s.nextRing = some r →
      ∀ z, z = { s with lastRing := SMap.set s.lastRing (s.get .HST_RING_CTL_PRIORITY r) r 63 } →
      (∀ u, z.packetWords r = (none, u) → ∃ t : State, exec .packetFetch s = .next t ∧ t.on .HST_RING_STATUS_ERROR r = true ∧ t.get .HST_RING_STATUS_ERR_KIND r = 2) ∧
      (∀ (ws : List Word) (u : State) (i : Instr) (op : HostOp) (q : Req) (ps : List Word), z.packetWords r = (some ws, u) → i.hostCommand = some (op, q, ps) →
        i.wellFormed = true → let k := Packet.ofWords ws
        k.reserved = false → k.op = op.code → k.req (Fin.ofNat 64 r) = q → k.ps = ps ++ List.replicate (k.ps.length - ps.length) 0 →
        ∃ t : State, exec i (u.put .HST_RING_STATUS_SQ_HEAD r ((u.get .HST_RING_STATUS_SQ_HEAD r + 1) % u.ringSize r)) = .next t ∧ exec .packetFetch s = .next t) ∧
      (s.on .HST_RING_CTL_SQ_DEVICE r = false → s.hostUp = true → z.packetWords r = (some (bytesToWords 8 (s.hostRead (s.packetAddr r) 64)), z)))

/-- FW_LOAD of an authentic image that fits is in progress while its slot is written, and its end makes the image that of the slot and completes the command; an image too large or not authentic completes with ST_BAD_PACKET and a busy slot with ST_BUSY. LICENCE_LOAD of an authentic record with a higher sequence stores it, puts in force what it grants at the present hours and completes with ST_OK; a record not authentic completes with ST_LICENCE, an older one or another form with ST_BAD_PACKET. ATTEST writes the answer to its SPDM request, or gives the room needed. A powered hour counts. (16_faults_repair.md R333, 19_bringup.md R391, 19_bringup.md R394, 19_bringup.md R395, 19_bringup.md R398.) -/
def Obligations.FirmwareAndLicences : Prop :=
  (∀ (q : Req) (p0 p1 p2 : Word) (s : State),
    (let n := fieldOf p1 31 0; let b := s.hostRead p0.toNat n
      s.Accepts opFwLoad q [p0, p1] → s.hostUp = true → exec (.fwLoad q p0 p1) s = .next (
        if slotBytes < n ∨ s.imageOk b = false then s.done q stBadPacket else if s.slotBusy then s.done q stBusy
        else { s with cmds := s.cmdsWith q 0x4A (.fwLoad b (imgCore b)) })) ∧
    (let b := s.hostRead p0.toNat (fieldOf p1 15 0); let force := inForceAt b (s.get .LIC_HOURS_HOURS 0)
      s.Accepts opLicenceLoad q [p0, p1] → s.hostUp = true →
      (licenceForm b = true → s.recordOk 2 b = true → recSequence s.flash.licence < recSequence b → ∃ u : State, exec (.licenceLoad q p0 p1) s = .next (u.done q stOk force) ∧
        u.flash.licence = b ∧ u.get .LIC_STATE_IN_FORCE 0 = force ∧ u.licWord = Tri.of force ∧ u = { s with flds := u.flds, flash := u.flash, licWord := u.licWord }) ∧
      (licenceForm b = true → s.recordOk 2 b = false → exec (.licenceLoad q p0 p1) s = .next (s.done q stLicence)) ∧
      (licenceForm b = true → s.recordOk 2 b = true → recSequence b ≤ recSequence s.flash.licence → exec (.licenceLoad q p0 p1) s = .next (s.done q stBadPacket)) ∧
      (licenceForm b = false → serviceForm b = true → s.recordOk 3 b = true → (∀ p, p < 12 → s.get .PART_STATUS_STATE p = 0) →
        exec (.licenceLoad q p0 p1) s = .next ({ s with flash := { s.flash with service := b } }.done q stOk (s.get .LIC_STATE_IN_FORCE 0))) ∧
      (licenceForm b = false → serviceForm b = false → exec (.licenceLoad q p0 p1) s = .next (s.done q stBadPacket))) ∧
    (let req := s.hostRead p0.toNat (fieldOf p1 15 0)
      ∀ b u, s.Accepts opAttest q [p0, p1, p2] → s.hostUp = true → s.spdmServe (Config.spdmKind req).val req = (b, u) →
        exec (.attest q p0 p1 p2) s = .next (if fieldOf p1 47 32 < b.length then s.done q stBadPacket b.length else (u.hostStore p2.toNat b).done q stOk b.length))) ∧
  (∀ (s : State), s.clocked = true →
    (∀ (c : Cmd) (b : List Byte) (v : Nat), s.cmds = [c] → c.kind = .fwLoad b v →
      ∃ u : State, exec .fwWriteDone s = .next (u.endCmd c stOk u.gust (imgCp b + placed (imgCore b) 16 + placed (imgSvn b) 32) 0) ∧ u.flash.image = b ∧
        u.get .PART_FW_CURRENT 0 = imgCore b ∧ u.cmds = [c]) ∧
    (s.cmds = [] → s.mgmt.update = none → exec .fwWriteDone s = .next s)) ∧
  (∀ (s : State), (3 ≤ s.get .PWR_STATE_STATE 0 → exec .poweredHour s = .next s) ∧
    (s.get .PWR_STATE_STATE 0 < 3 → ∃ t : State, exec .poweredHour s = .next t ∧ t.get .LIC_HOURS_HOURS 0 = (s.bump .LIC_HOURS_HOURS 0 1).get .LIC_HOURS_HOURS 0 ∧
      t.flash.hours = t.get .LIC_HOURS_HOURS 0 ∧ (s.on .HST_CP_STATUS_READY 0 = true → t.get .LIC_STATE_IN_FORCE 0 = s.get .LIC_STATE_IN_FORCE 0 &&& inForceAt s.flash.licence t.flash.hours)))

/-- DOLDRUMS_ENTER holds cause 1 in Doldrums mode: no job runs and every port is DOWN; it completes with ST_OK. DOLDRUMS_EXIT outside the mode completes with ST_OK; with a held cause that persists, with ST_DOLDRUMS; otherwise the module leaves the mode with no cause held, and resets its partitions. FREEZE completes and freezes the module with source 2 and its clocks stopped. A warm reset without its bit set has no effect; with a plan armed, before READY or during a firmware write it is refused and shown; where retention is lost it cuts the power for a restart from cold, else with an authentic image it is READY again at once. (16_faults_repair.md R334, 16_faults_repair.md R335, 16_faults_repair.md R337, 20_monitors_freeze.md R410, 19_bringup.md R391, 19_bringup.md R392.) -/
def Obligations.ModesEntered : Prop :=
  (∀ (q : Req) (s : State),
    (s.Accepts opDoldrumsEnter q [] → ∃ u : State, exec (.doldrumsEnter q) s = .next (u.done q stOk) ∧ u.inDoldrums = true ∧ bitOf (u.get .PART_DOLDRUMS_HELD 0) 0 = true ∧
      (s.inDoldrums = false → u.get .PART_DOLDRUMS_CAUSE 0 = 1 ∧ (∀ p, p < 12 → (u.part p).running = false) ∧ ∀ k, k < 16 → u.get .XNI_PORT_STATUS_STATE k = 0)) ∧
    (s.Accepts opDoldrumsExit q [] →
      (s.inDoldrums = false → exec (.doldrumsExit q) s = .next (s.done q stOk)) ∧
      (∀ c, c < 5 → s.inDoldrums = true → bitOf (s.get .PART_DOLDRUMS_HELD 0) c = true → s.causeAllows (c + 1) = false → exec (.doldrumsExit q) s = .next (s.done q stDoldrums)) ∧
      (s.inDoldrums = true → (∀ c, c < 5 → bitOf (s.get .PART_DOLDRUMS_HELD 0) c = true → s.causeAllows (c + 1) = true) →
        ∃ t : State, exec (.doldrumsExit q) s = .next t ∧ t.inDoldrums = false ∧ t.get .PART_DOLDRUMS_HELD 0 = 0 ∧
          (s.on .HST_CP_STATUS_READY 0 = true → ∀ p, p < 12 → s.get .PART_STATUS_STATE p = 2 ∨ s.get .PART_STATUS_STATE p = 5 → (s.part p).mapLost = false →
            t.get .PART_STATUS_STATE p = 3))) ∧
    (s.Accepts opFreeze q [] → ∃ t : State, exec (.freeze q) s = .next t ∧ t.on .FRZ_STATUS_FROZEN 0 = true ∧ t.get .FRZ_STATUS_SOURCE 0 = 2 ∧ t.get .FRZ_STATUS_GUST 0 = s.gust % 2 ^ 48 ∧
      t.clocked = false ∧ t.on .GST_SYNC_STATUS_LOCKED 0 = false)) ∧
  (∀ (v : Word) (kept : Bool) (s : State), s.clocked = true →
    let refused := s.anyArmed = true ∨ s.on .HST_CP_STATUS_READY 0 = false ∨ s.slotWriting = true
    (flagOf v 0 = false → exec (.warmReset v kept) s = .next s) ∧
    (flagOf v 0 = true → refused → exec (.warmReset v kept) s = .next (s.put .BOOT_STATUS_WARM_REFUSED 0 1)) ∧
    (flagOf v 0 = true → ¬refused →
      (kept = false → ∃ t : State, exec (.warmReset v kept) s = .next t ∧ t.always.shut = 3 ∧ t.on .BOOT_STATUS_RETENTION_BAD 0 = true ∧ t.clocked = false) ∧
      (kept = true → ∃ t : State, exec (.warmReset v kept) s = .next t ∧ t.get .PWR_STATE_STATE 0 = 0 ∧ t.on .FRZ_STATUS_FROZEN 0 = false ∧
        (s.imageOk s.flash.image = true → t.cmds = [] ∧ t.engines = [] ∧ t.on .HST_CP_STATUS_READY 0 = true ∧ t.get .BOOT_STATUS_START 0 = 1))))

/-- A function-level reset of a VF that is bound to no partition clears its rings and its window; one of the PF, a hot reset and a link-down clear every ring, and the last two take the link down; a link that comes up in a form of R274 while PERST_N is released and REFCLK runs is shown with its width and speed and has VF Enable as the host sets it. A lost REFCLK is shown and takes the link down. A wake source that is enabled starts a module in Off, recorded in PWR_WAKE; one that is not enabled has no effect. A cold power-on at reset with an authentic image reaches READY; without one it holds Doldrums cause 2 at step 3. (14_host_commands.md R298, 14_host_commands.md R285, 19_bringup.md R377, 19_bringup.md R390, 18_power.md R370, 18_power.md R373.) -/
def Obligations.LinkAndPowerPins : Prop :=
  (∀ (s : State), s.clocked = true →
    (∀ (v : Fin 12), s.on .HST_FUNC_CTL_BOUND (v.val + 1) = false → ∃ t : State, exec (.vfFlr v) s = .next t ∧
      (∀ r, r < 64 → s.get .HST_RING_CTL_OWNER r = v.val + 1 → t.on .HST_RING_CTL_ENABLE r = false ∧ t.ring r = Ring.fresh ∧ t.get .HST_RING_CTL_OWNER r = v.val + 1) ∧
      (∀ r, r < 64 → s.get .HST_RING_CTL_OWNER r ≠ v.val + 1 → t.ring r = s.ring r ∧ t.get .HST_RING_CTL_ENABLE r = s.get .HST_RING_CTL_ENABLE r) ∧
      t.on .HST_WIN_ENABLE (v.val + 1) = false ∧ t = { s with flds := t.flds, rings := t.rings, cmds := t.cmds }) ∧
    (∀ i ∈ [(Instr.pfFlr, false), (.hotReset, true), (.linkDown false, true)], ∃ t : State, exec i.1 s = .next t ∧ (∀ r, r < 64 → t.on .HST_RING_CTL_ENABLE r = false ∧ t.ring r = Ring.fresh) ∧
      (i.2 = true → t.on .HST_LINK_STATUS_UP 0 = false) ∧ t.vfEnable = false ∧ t.mem = s.mem ∧ ∀ c ∈ t.cmds, c.discard = true ∧ c.kind.isHostTransfer = false) ∧
    (∀ (w : Fin 17) (g : Fin 7) (form : HostForm), linkFormOk w.val g.val form = true →
      (s.on .BOOT_PINS_PERST_N 0 = true → s.on .BOOT_PINS_REFCLK_OK 0 = true → ∃ t : State, exec (.hostLinkUp w g form) s = .next t ∧ t.on .HST_LINK_STATUS_UP 0 = true ∧
        t.get .HST_LINK_STATUS_WIDTH 0 = w.val ∧ t.get .HST_LINK_STATUS_SPEED 0 = g.val ∧ t.get .HST_LINK_STATUS_L0P 0 = Bool.bit form.l0p ∧ t = { s with flds := t.flds, vfEnable := form.vfs }) ∧
      (s.on .BOOT_PINS_PERST_N 0 = false ∨ s.on .BOOT_PINS_REFCLK_OK 0 = false → exec (.hostLinkUp w g form) s = .next s)) ∧
    (∃ t : State, exec .refclkLost s = .next t ∧ t.on .BOOT_PINS_REFCLK_LOST 0 = true ∧ t.on .BOOT_PINS_REFCLK_OK 0 = false ∧ t.on .HST_LINK_STATUS_UP 0 = false ∧ t.always.refBack = false) ∧
    (s.on .BOOT_PINS_REFCLK_OK 0 = false → exec .refclkStable s = .next { s with always := { s.always with refBack := true } }) ∧
    (s.on .BOOT_PINS_REFCLK_OK 0 = true → exec .refclkStable s = .next s)) ∧
  (∀ (kept : Bool) (s : State), ∀ x ∈ [(Instr.wakeN kept, 2, Fld.PWR_WAKE_CTL_WAKEN_EN), (.smbusAddressMatch kept, 3, .PWR_WAKE_CTL_SMBUS_EN), (.perstN kept, 4, .PWR_WAKE_CTL_PERST_EN)],
    (s.on x.2.2 0 = true → s.always.shut = 0 → s.get .PWR_STATE_STATE 0 = 4 → ∃ t : State, exec x.1 s = .next t ∧ t.always.shut = 3 ∧ t.always.source = x.2.1 ∧
      t.get .PWR_WAKE_SOURCE 0 = x.2.1 ∧ t.get .PWR_WAKE_FROM_STATE 0 = 4) ∧
    (s.on x.2.2 0 = false → ∃ t : State, exec x.1 s = .next t ∧ t = { s with flds := t.flds, always := t.always } ∧ s.fieldsKept t [Fld.BOOT_PINS_PERST_N.key 0] ∧ t.always.shut = s.always.shut)) ∧
  (∀ (inp : BootIn) (s : State), s.always.shut = 0 → s.on .HST_CP_STATUS_READY 0 = false → s.get .PWR_STATE_STATE 0 = 0 → s.inDoldrums = false → s.cmds = [] →
    s.always.tripReport = false → inp.floorLost = false → inp.factoryOk = true →
    (s.imageOk s.flash.image = true → ∃ t : State, exec (.coldPowerOn inp) s = .next t ∧ t.on .HST_CP_STATUS_READY 0 = true ∧ t.get .BOOT_STATUS_STEP 0 = 15 ∧
      t.flash.running = s.flash.image ∧ t.get .PART_FW_CURRENT 0 = imgCore s.flash.image ∧ t.get .BOOT_PINS_SMB_ADDR 0 = 0x58 + inp.straps.val) ∧
    (s.imageOk s.flash.image = false → ∃ t : State, exec (.coldPowerOn inp) s = .next t ∧ t.inDoldrums = true ∧ t.get .PART_DOLDRUMS_CAUSE 0 = 2 ∧ t.get .BOOT_STATUS_STEP 0 = 3 ∧
      t.on .HST_CP_STATUS_READY 0 = false))

/-- On an engine that may take a descriptor, an owned descriptor of any of the six kinds: with the engine disabled ends with ST_DISABLED; one that a rule refuses ends with the status of that rule; one of a single row whose requests and row its stores accept ends with ST_OK and its bytes counted. In particular a COPY, SPLIT, MERGE or FILL of one row of at most 2 KiB between places in host memory ends with ST_OK, and a COPY or FILL leaves the bytes it should at the destination; an ATOMIC on the cache without errors ends with ST_OK and the old value as its result. A poll that fetches an owned descriptor does what the descriptor's command does, and one of a ring in host memory that finds none owned has no effect. The write-back of an ended descriptor of a ring in host memory frees the engine, advances its head and shows its status and tag. Outside Sleep and Doldrums mode a write of DMA_CH_CTL starts an engine at head 0; with STOP it halts an idle engine that has no descriptor waiting at once, and leaves one at work to its boundary. (15_dma.md R301, 15_dma.md R302, 15_dma.md R303, 15_dma.md R304, 15_dma.md R308, 15_dma.md R309, 15_dma.md R312.) -/
def Obligations.DmaEnginesRun : Prop :=
  (∀ (e : Fin 32) (w0 w1 w2 w3 w4 w5 w6 w7 : Word) (s : State), let w := [w0, w1, w2, w3, w4, w5, w6, w7]; let d := DmaDesc.ofWords w; let own := flagOf w0 0
    s.clocked = true → s.dmaReady e.val = true →
    ∀ x ∈ [(Instr.dmaCopy e w0 w1 w2 w3 w4 w5 w6 w7, 1), (.dmaSplit e w0 w1 w2 w3 w4 w5 w6 w7, 2), (.dmaMerge e w0 w1 w2 w3 w4 w5 w6 w7, 3),
        (.dmaFill e w0 w1 w2 w3 w4 w5 w6 w7, 4), (.dmaContrib e w0 w1 w2 w3 w4 w5 w6 w7, 5), (.dmaAtomic e w0 w1 w2 w3 w4 w5 w6 w7, 6)], fieldOf w0 7 4 = x.2 →
      let cur (row bytes asked : Nat) (ov : Bool) (st : Option Nat) : DmaCur := ⟨w, row, bytes, 0, ov, none, st, asked⟩
      let ov := d.kind != 6 && d.dstSpace != 2 && d.overlaps
      (own = false → exec x.1 s = .next s) ∧
      (own = true → s.on .DMA_CH_CTL_ENABLE e.val = false →
        exec x.1 s = .next (s.setEngine e.val { s.engine e.val with cur := some (cur 0 0 0 false (some stDisabled)) })) ∧
      (own = true → s.on .DMA_CH_CTL_ENABLE e.val = true →
        (∀ st, s.dmaRefusal e.val w = some st → ∃ t : State, exec x.1 s = .next t ∧ (t.engine e.val).cur = some (cur 0 0 0 false (some st))) ∧
        (s.dmaRefusal e.val w = none → d.rowSize ≤ 2048 → (x.2 = 6 ∨ d.rows = 1) →
          (∀ z u v n, z = (s.setEngine e.val { s.engine e.val with cur := some (cur 0 0 0 ov none) }).put .DMA_CH_STATUS_STATE e.val 1 →
            z.dmaRequest e.val w 0 0 = (u, .moved d.rowSize) → u.engine e.val = z.engine e.val →
            (u.setEngine e.val { z.engine e.val with cur := some (cur 0 0 d.rowSize ov none) }).dmaRow e.val w ov 0 = (v, .moved n) →
            v.engine e.val = { z.engine e.val with cur := some (cur 0 0 d.rowSize ov none) } → v.atomHeld = [] → v.netCores = [] →
            ∃ t : State, exec x.1 s = .next t ∧ (t.engine e.val).cur = some (cur 1 n 0 ov (some stOk)) ∧ t = { v with engines := t.engines }) ∧
          (12 ≤ s.enginePart e.val → s.atomHeld = [] → s.netCores = [] →
            (x.2 ≤ 4 → d.dstSpace = 1 → (d.srcHost = true ∨ x.2 = 4) → d.overlaps = false → s.hostUp = true →
              ∃ t : State, exec x.1 s = .next t ∧ (t.engine e.val).cur = some (cur 1 d.rowBytes 0 false (some stOk)) ∧
                t = { s with flds := t.flds, engines := t.engines, hostMem := t.hostMem } ∧ s.fieldsKept t [Fld.DMA_CH_STATUS_STATE.key e.val] ∧
                (x.2 = 1 → t.hostRead (d.dstAt 0).toNat d.rowBytes = s.hostRead (d.srcAt 0).toNat d.rowBytes) ∧
                (x.2 = 4 → t.hostRead (d.dstAt 0).toNat d.rowBytes = (List.range d.rowBytes).map fun j => BitVec.ofNat 8 (d.param / 256 ^ (j % 8)))) ∧
            (x.2 = 6 → s.faults = [] → s.sram = [] → s.deadWires = [] → ∃ t old, exec x.1 s = .next t ∧ (t.engine e.val).cur = some (cur 1 old 0 false (some stOk)))))) ∧
      (s.on .DMA_CH_CTL_ENABLE e.val = true ∨ s.get .DMA_CH_STATUS_STATE e.val = 3 →
        (s.dmaMetered e.val (fun s => s.dmaFetch e.val) = (some (some w), s) → ∃ t : State, exec x.1 s = .next t ∧ exec (.dmaPoll e) s = .next t) ∧
        (s.on .DMA_CH_CTL_RING_HOST e.val = true → s.hostUp = true → 12 ≤ s.enginePart e.val →
          bytesToWords 8 (s.hostRead (s.dmaHeadAddr e.val) 64) = w → s.dmaMetered e.val (fun s => s.dmaFetch e.val) = (some (some w), s)))) ∧
  (∀ (e : Fin 32) (s : State), s.clocked = true → let host := s.on .DMA_CH_CTL_RING_HOST e.val = true ∧ s.hostUp = true ∧ 12 ≤ s.enginePart e.val
    ((s.engine e.val).cur = none → exec (.dmaWriteBack e) s = .next s) ∧
    (∀ c st, (s.engine e.val).cur = some c → c.status = some st → st < 65536 → (s.engine e.val).flush = none → s.on .DMA_CH_CTL_STOP e.val = false →
      s.on .DMA_CH_CTL_ENABLE e.val = true → s.powerHeld = false → s.inDoldrums = false → s.atomHeld = [] → s.netCores = [] → host →
      ∃ t : State, exec (.dmaWriteBack e) s = .next t ∧ (t.engine e.val).cur = none ∧ t.get .DMA_CH_STATUS_LAST_STATUS e.val = st ∧
        t.get .DMA_CH_STATUS_LAST_TAG e.val = fieldOf (wordAt c.w 0) 23 16 ∧ t.get .DMA_CH_STATUS_STATE e.val = 0 ∧
        t.get .DMA_CH_STATUS_HEAD e.val = (s.get .DMA_CH_STATUS_HEAD e.val + 1) % 2 ^ (s.get .DMA_CH_CTL_SIZE e.val + 4) % 65536) ∧
    ∀ v : Word, ∀ i ∈ [Instr.dmaChEnable e v, .dmaChStop e v],
      (s.powerHeld = false → s.inDoldrums = false → s.on .DMA_CH_CTL_ENABLE e.val = false → bitOf v.toNat 31 = true → bitOf v.toNat 30 = false → ∃ t : State, exec i s = .next t ∧ t.on .DMA_CH_CTL_ENABLE e.val = true ∧
        t.on .DMA_CH_CTL_STOP e.val = false ∧ t.get .DMA_CH_STATUS_HEAD e.val = 0 ∧ t.get .DMA_CH_STATUS_STATE e.val = 0 ∧
        t.get .DMA_CH_CTL_VECTOR e.val = bitsOf v.toNat 19 13 ∧ t.get .DMA_CH_CTL_PARTITION e.val = s.get .DMA_CH_CTL_PARTITION e.val ∧ t = { s with flds := t.flds }) ∧
      (s.on .DMA_CH_CTL_ENABLE e.val = true → bitOf v.toNat 31 = true → bitOf v.toNat 30 = true →
        (s.dmaIdle e.val = false → ∃ t : State, exec i s = .next t ∧ t.on .DMA_CH_CTL_STOP e.val = true ∧ s.onlyFields t [Fld.DMA_CH_CTL_STOP.key e.val]) ∧
        (s.dmaIdle e.val = true → (s.engine e.val).flush = none →
          s.get .DMA_CH_STATUS_STATE e.val = 2 ∨ (host ∧ flagOf (wordAt (bytesToWords 8 (s.hostRead (s.dmaHeadAddr e.val) 64)) 0) 0 = false) →
          ∃ t : State, exec i s = .next t ∧ t.on .DMA_CH_CTL_STOP e.val = true ∧ t.get .DMA_CH_STATUS_STATE e.val = 2)))

/-- A core that runs and fetches an arithmetic instruction, LUI, JAL or a branch writes its result to the destination (x0 stays 0) and goes to the next or the target address; nothing else changes. An instruction that cannot be fetched, or is illegal, traps with its cause. A wait whose units are done answers 0, and one whose units are not stalls the core; a slot end ends its slot. A core that does not run is left as it is. An array descriptor that is valid, with its arrays enabled, joins a queue with room, and an invalid one traps. An error of a pass whose column checks are e and (n + 1) e is located in logical column n. A pass that may start once the loaders have filled the free shadows leaves the queue, and one that may not stays; DRAIN delivers the accumulators of the four arrays, row by row, to the vector unit. (05_vector_control.md R92, 05_vector_control.md R95, 05_vector_control.md R96, 05_vector_control.md R98, 03_core_arrays.md R52, 03_core_arrays.md R60, 03_core_arrays.md R62.) -/
def Obligations.CoresRun : Prop :=
  ∀ (c : Site) (s : State), let n := siteNo c; let k := s.core n
    s.clocked = true →
    (s.coreRuns n = false → exec (.planCodeInstruction c) s = .next s ∧ exec (.slotEnd c) s = .next s) ∧
    (s.coreRuns n = true → exec (.slotEnd c) s = .next (s.setCore n { k with slotEnd := true }) ∧
      (k.fetch = none → ∃ t : State, exec (.planCodeInstruction c) s = .next t ∧ t.get .CORE_PROG_STATUS_STATE n = 3 ∧ t.get .CORE_TRAP_INFO_CAUSE n = trapAccess) ∧
      (∀ len, k.fetch = some (none, len) → ∃ t : State, exec (.planCodeInstruction c) s = .next t ∧ t.get .CORE_PROG_STATUS_STATE n = 3 ∧ t.get .CORE_TRAP_INFO_CAUSE n = trapIllegal) ∧
      ∀ i len, k.fetch = some (some i, len) → let next := k.pc + len; let rel (off : Word) := (BitVec.ofNat 64 k.pc + off).toNat
        let goes (rd : Nat) (v : Word) (pc : Nat) := exec (.planCodeInstruction c) s = .next (s.setCore n { k.setX rd v with pc := pc % 2 ^ 64 })
        (∀ op rd rs1 r, i = .alu false op rd rs1 (.reg r) → goes rd (op.run (k.getX rs1) (k.getX r)) next) ∧
        (∀ op rd rs1 v, i = .alu false op rd rs1 (.imm v) → goes rd (op.run (k.getX rs1) v) next) ∧
        (∀ op rd rs1 v, i = .alu true op rd rs1 (.imm v) → goes rd (op.run32 (k.getX rs1) v) next) ∧
        (∀ rd v, i = .lui rd v → goes rd v next) ∧ (∀ rd v, i = .auipc rd v → goes rd (BitVec.ofNat 64 (rel v)) next) ∧
        (∀ rd off, i = .jal rd off → goes rd (BitVec.ofNat 64 next) (rel off)) ∧
        (∀ f3 rs1 rs2 off, i = .branch f3 rs1 rs2 off → goes 0 0 (if rvTaken f3 (k.getX rs1) (k.getX rs2) then rel off else next))) ∧
    (∀ (m : Fin 64) (rd : Fin 32), s.get .CORE_PROG_STATUS_STATE n = 1 → k.trapHalt = false → k.slotEnd = false → k.waitReg = none ∨ k.waitReg = some (m.val, rd.val) →
      exec (.waitLoad c m rd) s = .next (s.setCore n (if k.unitsDone m.val then { (k.waited m.val).setX rd.val 0 with waitReg := none } else { k with waitReg := some (m.val, rd.val) }))) ∧
    (∀ w0 w1 w2 w3, let w := [w0, w1, w2, w3]; let d := PassDesc.of w
      ∀ x ∈ [(Instr.pass c w0 w1 w2 w3, 1), (.elementwise c w0 w1 w2 w3, 2), (.drain c w0 w1 w2 w3, 3)], fieldOf w0 3 0 = x.2 →
        (d.valid k n w = false → ∃ t : State, exec x.1 s = .next t ∧ t.get .CORE_PROG_STATUS_STATE n = 3 ∧ t.get .CORE_TRAP_INFO_CAUSE n = trapDescriptor) ∧
        (d.valid k n w = true → (∀ a ∈ arraysOf d.mask, s.inForce .ARR_CTL_ENABLE (ix2 4 n a) ≠ 0) →
          (8 ≤ k.aq.length → exec x.1 s = .next s) ∧ (k.aq.length < 8 → ∃ t : State, exec x.1 s = .next t ∧ (t.core n).aq = k.aq ++ [w ++ s.issueWords n]))) ∧
    (∀ errs, k.aq = [] → exec (.passStart c errs) s = .next s) ∧
    (∀ (e f m : Nat) (time tail : Bool), m < 64 → 0 < e → e < 8191 → f = (m + 1) * e % 8191 → errLoc e f time tail = some m) ∧
    ∀ w rest errs, k.aq = w :: rest → let d := PassDesc.of w; let z := s.arrLoad n
      (z.passReady n d = false → exec (.passStart c errs) s = .next z) ∧
      (z.passReady n d = true → z.rangesHeld (d.streamRanges n) = false → ∃ t : State, exec (.passStart c errs) s = .next t ∧ (t.core n).aq = rest) ∧
      (d.op = 3 → d.mask = 15 → s.inLull = false → k.drainRoom = true → k.accFault = [] → k.vq = [] → rest = [] → ∃ t : State, exec (.passStart c errs) s = .next t ∧ (t.core n).aq = [] ∧
        (t.core n).drain = k.drain ++ (List.range d.v).map fun r => (List.range 4).flatMap fun a => (List.range 64).map fun j => k.accAt (accKey a (d.acc + r) j))

/-- With no instruction queued before it and nothing to wait for, a valid instruction runs at once. One that works lane by lane gives every lane of its mask the result of R86 for its operands, and leaves the other lanes, every other vector register, every other core and all of memory as they are; a load does so with the elements read, a drain with the row delivered. Compares write a mask register, reductions all lanes, VFIRST and VLAST the result lane, the top-k instructions the held pairs; a store of all lanes writes its elements to memory, one of no lane changes no byte, and none changes a byte outside its operand. A full queue stalls the issue; an invalid instruction traps. (05_vector_control.md R84, 05_vector_control.md R85, 05_vector_control.md R86, 05_vector_control.md R87, 05_vector_control.md R88, 05_vector_control.md R89, 05_vector_control.md R98.) -/
def Obligations.VectorInstructions : Prop :=
  ∀ (c : Site) (w0 w1 : Word) (s : State), let n := siteNo c; let k := s.core n; let w := [w0, w1]; let i := VecIns.of w
    s.clocked = true → fieldOf w0 7 0 = i.op →
    let A (l : Nat) := s.lane n i.va l; let B (l : Nat) := s.lane n i.vb l; let D (l : Nat) := s.lane n i.vc l; let S : F32 := BitVec.ofNat 32 i.operand
    let m := k.kreg i.mask; let regs := (List.range (i.count + 1)).map fun j => k.vreg (i.va + j); let on := (List.range 256).filter fun l => bitOf m l
    let st := i.store n; let keys := Fld.VEC_STATUS_ISSUED.key n :: RegName.CORE_NUM_FLAGS.fields.map fun f => f.key n
    let lanes (t : State) (f : Nat → F32) : Prop := (∀ l, l < 256 → t.lane n i.vd l = if bitOf m l then f l else s.lane n i.vd l) ∧
      ∀ r, r ≠ i.vd → ∀ l, l < 256 → t.lane n r l = s.lane n r l
    (i.valid w = true → k.vq = [] →
      (∀ x ∈ [(Instr.vadd c w0 w1, 0x10, fun l => (fadd (A l) (B l)).1), (.vsub c w0 w1, 0x11, fun l => (fadd (A l) (fneg (B l))).1),
          (.vmul c w0 w1, 0x12, fun l => (fmul (A l) (B l)).1), (.vfma c w0 w1, 0x13, fun l => (ffma (A l) (B l) (D l)).1), (.vmax c w0 w1, 0x14, fun l => fmax (A l) (B l)),
          (.vmin c w0 w1, 0x15, fun l => fmin (A l) (B l)), (.vmuls c w0 w1, 0x16, fun l => (fmul (A l) S).1), (.vadds c w0 w1, 0x17, fun l => (fadd (A l) S).1),
          (.vsel c w0 w1, 0x19, fun l => if bitOf (k.kreg i.vc) l then A l else B l), (.viota c w0 w1, 0x1A, fun l => BitVec.ofNat 32 (i.operand + l)),
          (.vrnd c w0 w1, 0x1B, fun l => (frnd (A l)).1), (.vexp2 c w0 w1, 0x20, fun l => (exp2F (A l)).1), (.vrcp c w0 w1, 0x21, fun l => (recipF (A l)).1),
          (.vrsqrt c w0 w1, 0x22, fun l => frsqrt (A l)), (.vlogi c w0 w1, 0x23, fun l => flogi (A l)),
          (.vrand c w0 w1, 0x38, vecRandom i (s.get .VEC_RNG_KEY_K0 n) (s.get .VEC_RNG_KEY_K1 n))], i.op = x.2.1 →
        ∃ t : State, exec x.1 s = .next t ∧ lanes t x.2.2 ∧ s.onlyCore t n keys) ∧
      (i.op = 0x18 → ∃ t : State, exec (.vcmpgt c w0 w1) s = .next t ∧ s.onlyCore t n keys ∧ (i.vd ≠ 0 → ∀ l, l < 256 →
        bitOf ((t.core n).kreg i.vd) l = if bitOf m l then (ofF32 (B l)).lt (ofF32 (A l)) else bitOf (k.kreg i.vd) l) ∧ ∀ r l, t.lane n r l = s.lane n r l) ∧
      (i.op = 0x28 → ∃ t : State, exec (.vrsum c w0 w1) s = .next t ∧ s.onlyCore t n keys ∧ (∀ l, l < 256 → t.lane n i.vd l = (vecReduce fadd m regs).1)) ∧
      (i.op = 0x29 → ∃ t : State, exec (.vrmax c w0 w1) s = .next t ∧ s.onlyCore t n keys ∧ (∀ l, l < 256 → t.lane n i.vd l = (vecReduce (fun a b => (fmax a b, 0)) m regs).1)) ∧
      (i.op = 0x2A → ∃ t : State, exec (.vprefix c w0 w1) s = .next t ∧ s.onlyCore t n keys ∧ (∀ l, l < 256 → bitOf m l = false → t.lane n i.vd l = s.lane n i.vd l) ∧
        ∀ r, r ≠ i.vd → ∀ l, l < 256 → t.lane n r l = s.lane n r l) ∧
      (i.op = 0x2B → ∃ t : State, exec (.vfirst c w0 w1) s = .next t ∧ s.onlyCore t n (Fld.VEC_RESULT_LANE.key n :: keys) ∧
        t.get .VEC_RESULT_LANE n = ((on.filter fun l => bitOf (k.kreg i.va) l).head?).getD 256) ∧
      (i.op = 0x2C → ∃ t : State, exec (.vlast c w0 w1) s = .next t ∧ s.onlyCore t n (Fld.VEC_RESULT_LANE.key n :: keys) ∧
        t.get .VEC_RESULT_LANE n = ((on.filter fun l => bitOf (k.kreg i.va) l).getLast?).getD 256) ∧
      (i.op = 0x30 → ∃ t : State, exec (.tclr c w0 w1) s = .next t ∧ s.onlyCore t n keys ∧ (t.core n).topk = [] ∧ (t.core n).topN = i.operand) ∧
      (∀ x ∈ [(Instr.tfeed c w0 w1, 0x31, fun l => (A l, (i.operand + l) % 2 ^ 32)), (.tfeedx c w0 w1, 0x32, fun l => (A l, (B l).toNat))], i.op = x.2.1 →
        ∃ t : State, exec x.1 s = .next t ∧ s.onlyCore t n keys ∧ (t.core n).topk = (k.offer (on.map x.2.2)).topk) ∧
      (i.op = 0x33 → ∃ t : State, exec (.tread c w0 w1) s = .next t ∧ s.onlyCore t n keys ∧ (t.core n).topk = k.topk ∧ ∀ l, l < 256 → bitOf m l = true →
        t.lane n i.vd l = (k.topk.getD l (0xFF800000, 0xFFFFFFFF)).1 ∧ t.lane n (i.vd + 1) l = BitVec.ofNat 32 (k.topk.getD l (0xFF800000, 0xFFFFFFFF)).2) ∧
      (∀ row rest, i.op = 0x03 → k.drain = row :: rest → ∃ t : State, exec (.vdrain c w0 w1) s = .next t ∧ lanes t (fun l => row.getD l 0) ∧ (t.core n).drain = rest ∧ s.onlyCore t n keys) ∧
      (s.faults = [] → s.deadWires = [] → s.sram = [] → s.rowSpares = [] → s.anyWithdrawn st i.operand i.bytes = false → s.bankHeld st i.operand i.bytes = false →
        (i.op = 0x01 → s.rowUndefined st i.operand i.bytes = false → k.unseen = [] →
          ∃ t : State, exec (.vld c w0 w1) s = .next t ∧ lanes t (fun l => (vecLoadLane i (s.rawBytes st i.operand i.bytes) l).1) ∧ s.onlyCore t n keys) ∧
        (i.op = 0x02 → ∃ t : State, exec (.vst c w0 w1) s = .next t ∧
          (allLanes m = true → i.bytes % st.unit = 0 → t.rawBytes st i.operand i.bytes = (vecStoreBytes i m (k.vreg i.va) (s.rawBytes st i.operand i.bytes)).1) ∧
          (m = 0 → ∀ j, t.byteAt j = s.byteAt j) ∧
          (∀ j, (∀ b, b < i.bytes → j ≠ s.physKey st (i.operand + b)) → t.byteAt j = s.byteAt j) ∧ ∀ r l, t.lane n r l = s.lane n r l))) ∧
    (i.op = 0x10 → i.valid w = false → ∃ t : State, exec (.vadd c w0 w1) s = .next t ∧ t.get .CORE_PROG_STATUS_STATE n = 3 ∧ t.get .CORE_TRAP_INFO_CAUSE n = trapVector) ∧
    (i.op = 0x10 → i.valid w = true → 16 ≤ k.vq.length → exec (.vadd c w0 w1) s = .next s)

/-- At an enabled port a valid descriptor of any of the ten operations, naming no retired bank, joins a queue with room; in the lull nothing starts and nothing else changes. A full queue stalls the issue; a disabled port and an invalid descriptor trap. Outside the lull a bank operation that nothing holds back starts: it holds the banks of its mask. BCAST with no fault in its path puts its elements into the activation buffer of every bank of its mask and ends, and GATHER without a sum puts the accumulators of the banks into the pool and ends. With nothing else at work, the boundary of the last grain of INIT fills the row of the bank with its pattern, that of COPY makes the row equal to its source, and the bank is free. A boundary of a bank where no grain is at work has no effect. (07_reeds.md R132, 07_reeds.md R135, 07_reeds.md R137, 07_reeds.md R140, 07_reeds.md R144.) -/
def Obligations.ReedOperations : Prop :=
  ∀ (c : Site) (s : State), let n := siteNo c; let k := s.core n
    s.clocked = true →
    (∀ w0 w1 w2 w3 w4 w5, let w := [w0, w1, w2, w3, w4, w5]; let d := ReedDesc.of w
      ∀ x ∈ [(Instr.matvec c w0 w1 w2 w3 w4 w5, 1), (.bcast c w0 w1 w2 w3 w4 w5, 2), (.gather c w0 w1 w2 w3 w4 w5, 3), (.copy c w0 w1 w2 w3 w4 w5, 4),
          (.copyX c w0 w1 w2 w3 w4 w5, 5), (.init c w0 w1 w2 w3 w4 w5, 6), (.logic c w0 w1 w2 w3 w4 w5, 7), (.latch c w0 w1 w2 w3 w4 w5, 8),
          (.popc c w0 w1 w2 w3 w4 w5, 9), (.popcAnd c w0 w1 w2 w3 w4 w5, 10)], fieldOf w0 3 0 = x.2 →
        (s.inForce .REED_CTL_ENABLE n = 0 ∨ d.valid w = false → ∃ t : State, exec x.1 s = .next t ∧ t.get .CORE_PROG_STATUS_STATE n = 3 ∧ t.get .CORE_TRAP_INFO_CAUSE n = trapDescriptor ∧
          t.on .REED_FAULT_VALID n = true) ∧
        (s.inForce .REED_CTL_ENABLE n ≠ 0 → d.valid w = true → s.reedRetired n d = none →
          (16 ≤ (k.rq.filter fun o => !o.started).length → exec x.1 s = .next s) ∧
          ((k.rq.filter fun o => !o.started).length < 16 → s.inLull = true →
            exec x.1 s = .next (s.setCore n { k with rq := k.rq ++ [⟨k.rseq, w ++ s.issueWords n, false, [], false⟩], rseq := k.rseq + 1 })) ∧
          (k.rq = [] → k.attRun = [] → k.attq = [] → s.inLull = false → x.2 ≠ 2 → x.2 ≠ 3 → ∃ t : State, exec x.1 s = .next t ∧
            (t.core n).rq = [⟨k.rseq, w ++ s.issueWords n, true, d.banks.map fun b => (b, 0), false⟩] ∧ (∀ b ∈ d.banks, t.on .FEN_BANK_CTL_GRAIN (ix2 128 n b) = true) ∧ t.mem = s.mem) ∧
          (k.rq = [] → k.attRun = [] → k.attq = [] → s.inLull = false → s.sram = [] → k.unseen = [] → s.cmds = [] →
            (x.2 = 2 → ∃ t : State, exec x.1 s = .next t ∧ (t.core n).rq = [] ∧ t.mem = s.mem ∧ ∀ b ∈ d.banks, ∀ j, j < d.elems →
              SMap.get (t.core n).act (4096 * b + 2048 * d.act + j) none = some (ofBytesLE (s.rawBytes (.pool n) (d.pool + 2 * j) 2))) ∧
            (x.2 = 3 → d.sub = 0 → ∃ t : State, exec x.1 s = .next t ∧ (t.core n).rq = [] ∧
              t.rawBytes (.pool n) d.pool (4 * d.count * d.banks.length) =
                (d.banks.flatMap fun b => (List.range d.count).flatMap fun e => toBytesLE 4 (k.raccAt (256 * b + d.acc + e)).toNat) ∧
              ∀ j, (∀ i, i < 4 * d.count * d.banks.length → j ≠ s.physKey (.pool n) (d.pool + i)) → t.byteAt j = s.byteAt j)))) ∧
    (∀ b : Fin 128, s.on .FEN_BANK_CTL_GRAIN (ix2 128 n b.val) = false → exec (.grainBoundary c b) s = .next s) ∧
    ∀ (b : Fin 128) (w : List Word) (num : Nat), let d := ReedDesc.of w
      s.Alone n → k.attRun = [] → k.rq = [⟨num, w, true, [(b.val, 0)], false⟩] → s.on .FEN_BANK_CTL_GRAIN (ix2 128 n b.val) = true → s.rowSpares = [] → s.inLull = false →
      d.length = 1 → d.rowA < 4608 → d.rowD < 4608 → (d.op = 6 ∨ d.op = 4) →
      ∃ t : State, exec (.grainBoundary c b) s = .next t ∧ (t.core n).rq = [] ∧ t.on .FEN_BANK_CTL_GRAIN (ix2 128 n b.val) = false ∧
        t.rawBytes (.fen n) (rowOffset b.val d.rowD) 2048 = (if d.op = 6 then (List.range 512).flatMap fun _ => toBytesLE 4 d.pattern
          else s.rawBytes (.fen n) (rowOffset b.val d.rowA) 2048) ∧
        (∀ j, (∀ i, i < 2048 → j ≠ s.physKey (.fen n) (rowOffset b.val d.rowD + i)) → t.byteAt j = s.byteAt j)

/-- At an enabled port a valid attention descriptor without arguments joins a queue with room, BACKWARD only under its licence; a disabled port and an invalid descriptor trap. An operation whose banks and regions are clear leaves the queue. With nothing else at work, one that meets no held bank, no marsh port in training and no empty regulator, whose pages and inputs can be read and whose passes meet no mismatch, completes: it leaves those running and writes its status word, ST_OK in bits [15:0] and the number of pages in bits [63:32]. A walker descriptor at a disabled port, or one out of form, traps; a full queue stalls the issue, and behind another the descriptor waits. One at the head, whose root is in the root cache and allows it, runs: LENGTH stages the root as the walker's function gives it, APPEND does its pairs as far as they can go and stays in the queue only where one waits, and a TOUCH of no position ends without effect on memory. (08_attention.md R153, 08_attention.md R154, 08_attention.md R165, 08_attention.md R168, 08_attention.md R170, 09_kv_pages.md R185, 09_kv_pages.md R186, 09_kv_pages.md R188.) -/
def Obligations.AttentionAndWalker : Prop :=
  ∀ (c : Site) (s : State), let n := siteNo c; let k := s.core n
    s.clocked = true →
    (∀ w0 w1 w2 w3 w4 w5 w6 w7, let w := [w0, w1, w2, w3, w4, w5, w6, w7]; let d := AttDesc.of w
      ∀ x ∈ [(Instr.forward c w0 w1 w2 w3 w4 w5 w6 w7, 1), (.backward c w0 w1 w2 w3 w4 w5 w6 w7, 2)], fieldOf w0 3 0 = x.2 →
        (s.inForce .ATT_CTL_ENABLE n = 0 ∨ d.valid w = false → ∃ t : State, exec x.1 s = .next t ∧ t.get .CORE_PROG_STATUS_STATE n = 3 ∧ t.get .CORE_TRAP_INFO_CAUSE n = trapDescriptor) ∧
        (s.inForce .ATT_CTL_ENABLE n ≠ 0 → d.valid w = true → d.needsArgs = false → d.placed (AttArgs.of []) n = true →
          (x.2 = 2 → s.diePart (dieOf n) < 12 ∧ bitOf (s.get .PART_STATUS_LIC (s.diePart (dieOf n))) 0 = true) → d.op = x.2 →
          exec x.1 s = .next (if 8 ≤ k.attq.length then s
            else s.setCore n { k with attq := k.attq ++ [⟨k.rseq, w ++ s.issueWords n, [], [], none⟩], rseq := k.rseq + 1 }))) ∧
    (s.inLull = true ∨ k.attq = [] → exec (.attentionOpStart c) s = .next s) ∧
    (∀ o, let p := s.diePart (dieOf n)
      s.inLull = false → k.attq = [o] → (∀ bs, s.attClear n bs o = true) →
      s.flows p (fun x => (x.modCore n fun q => { q with attq := [] }).atWork n 3 (o.w.drop 8) (State.attBegin n p o)) → ∃ t : State, exec (.attentionOpStart c) s = .next t ∧ (t.core n).attq = []) ∧
    (∀ (i : Fin 4) met, k.attRun[i.val]? = none → exec (.attentionOpComplete c (i, met)) s = .next s) ∧
    (∀ (o : AttOp) (met : AttEnd) (z1 z2 : State) (pages : List PageData) (bs : List (List Byte)), let d := AttDesc.of o.w; let p := s.diePart (dieOf n)
      let x := ({ s with metering := some ⟨[], [], false⟩ }.attHold n o 0).atUnit n 3 (o.w.drop 8)
      let a := if d.needsArgs then AttArgs.of (bytesToWords 8 (x.peek (.pool n) d.args 64)) else AttArgs.of []
      s.Alone n → k.attRun = [o] → k.rq = [] → s.flows p (fun y => (y.attHold n o 0).atWork n 3 (o.w.drop 8) (State.attEnd n p o met)) →
      ((d.inputs a n).foldl (fun y e => y.metre none e.1 e.2.1 e.2.2) x).attFetchAll n p d o.pages met.flash [] = (.ok pages, z1) → z1.readRanges n (d.inputs a n) = (.data bs, z2) →
      z2.sram = [] → (d.arrays = true → met.found = [] ∧ (z2.core n).injectArmed = []) → d.status + 8 ≤ 0x400000 → o.pages.length < 2 ^ 32 →
      ∃ t : State, exec (.attentionOpComplete c (0, met)) s = .next t ∧ t.rawBytes (.pool n) d.status 8 = toBytesLE 8 (stOk + o.pages.length * 2 ^ 32) ∧ (t.core n).attRun = []) ∧
    ∀ w0 w1 w2 w3, let w := [w0, w1, w2, w3]; let d := WalkDesc.of w; let p := s.diePart (dieOf n)
      ∀ x ∈ [(Instr.append c w0 w1 w2 w3, 1), (.length c w0 w1 w2 w3, 2), (.touch c w0 w1 w2 w3, 3)], fieldOf w0 3 0 = x.2 →
        (s.inForce .KVW_CTL_ENABLE n = 0 ∨ walkWordsOk w = false ∨ s.get .KVW_ROOT_COUNT_COUNT p ≤ d.root → ∃ t : State, exec x.1 s = .next t ∧
          t.get .CORE_PROG_STATUS_STATE n = 3 ∧ t.get .CORE_TRAP_INFO_CAUSE n = trapDescriptor ∧ t.on .KVW_FAULT_VALID n = true) ∧
        (s.inForce .KVW_CTL_ENABLE n ≠ 0 → walkWordsOk w = true → d.root < s.get .KVW_ROOT_COUNT_COUNT p →
          (17 ≤ k.kvq.length → exec x.1 s = .next s) ∧
          ∀ e, let z := ((s.modCore n fun q => { q with kvq := q.kvq ++ [w ++ s.issueWords n] }).atUnit n 4 (s.issueWords n)).modCore n fun q => { q with rootCache := e :: q.rootCache.erase e }
            k.kvq = [] → (k.rootCache.find? fun e => e.1 == d.root) = some e → walkRootReason z p d e.2 = 0 →
            (x.2 = 1 → ∃ t : State, exec x.1 s = .next t ∧ (let r := z.appendWork n p d (Root.of e.2)
              t.mem = r.2.mem ∧ t.stage = r.2.stage ∧ (t.core n).kvq = if r.1 then [] else [w ++ s.issueWords n])) ∧
            (x.2 = 2 → ∃ t : State, exec x.1 s = .next t ∧ t.mem = s.mem ∧ t.stage = (z.lengthWork n p d e.2).stage ∧ (t.core n).kvq = []) ∧
            (x.2 = 3 → d.count = 0 → ∃ t : State, exec x.1 s = .next t ∧ t.mem = s.mem ∧ t.stage = s.stage ∧ (t.core n).kvq = []))

/-- With no other network operation, tokens in its regulators, memory without faults and a target that is owned, served and held by no grain, and no status wanted: READ copies the bytes of the target to the pool, WRITE those of the pool to the target, ATOMIC writes the result of its operation to the cache word and the old value to the pool, a WAIT that is met puts the word in the pool, and one that is not waits; a CONTRIB that its group accepts ends, and one whose regulator has no token waits; a FENCE with nothing before it ends at once; an invalid descriptor traps. An atomic packet of any of the six operations, aligned and within its partition's region, does the same to the cache word and answers the old value; one that is not has no effect. (12_zyneno.md R250, 12_zyneno.md R251, 12_zyneno.md R253, 10_marsh_cache.md R205, 10_marsh_cache.md R206, 10_marsh_cache.md R213.) -/
def Obligations.NetworkAndAtomics : Prop :=
  (∀ (c : Site) (w0 w1 w2 w3 w4 w5 : Word) (s : State), let n := siteNo c; let k := s.core n; let w := [w0, w1, w2, w3, w4, w5]; let d := NetDesc.ofWords w
    let p := (s.dieOwner (dieOf n)).getD 15; let size := if d.op = 1 ∨ d.op = 2 then d.len else 8
    s.clocked = true → s.netCores = [] → s.atomHeld = [] →
    (∀ x ∈ [(Instr.netRead c w0 w1 w2 w3 w4 w5, 1), (.netWrite c w0 w1 w2 w3 w4 w5, 2), (.netAtomic c w0 w1 w2 w3 w4 w5, 3), (.netContrib c w0 w1 w2 w3 w4 w5, 4),
        (.netFence c w0 w1 w2 w3 w4 w5, 5), (.netWait c w0 w1 w2 w3 w4 w5, 6)], fieldOf w0 3 0 = x.2 → d.valid w = false →
      ∃ t : State, exec x.1 s = .next t ∧ t.get .CORE_PROG_STATUS_STATE n = 3 ∧ t.get .CORE_TRAP_INFO_CAUSE n = trapDescriptor) ∧
    (d.valid w = true → d.statusEn = false → s.faults = [] → s.deadWires = [] → s.sram = [] → s.rowSpares = [] → k.unseen = [] →
      (d.op = 5 → ∃ t : State, exec (.netFence c w0 w1 w2 w3 w4 w5) s = .next t ∧ (t.core n).netq = [] ∧ t.mem = s.mem) ∧
      ∀ st, s.netStore d = some st → s.ownsRange p st d.remote d.bytes = true → s.anyWithdrawn st d.remote d.bytes = false → s.bankHeld st d.remote d.bytes = false →
        s.rowUndefined st d.remote d.bytes = false → s.rowUndefined (.pool n) d.pool size = false → s.reach (some (dieOf n)) st = .served false →
        (∀ r ∈ st.resOf, 0 < (s.reg r p).ceil) →
        (d.op = 1 → ∃ t : State, exec (.netRead c w0 w1 w2 w3 w4 w5) s = .next t ∧ t.rawBytes (.pool n) d.pool d.len = s.rawBytes st d.remote d.len ∧ (t.core n).netq = [] ∧
          ∀ j, (∀ b, b < d.len → j ≠ s.physKey (.pool n) (d.pool + b)) → t.byteAt j = s.byteAt j) ∧
        (d.op = 2 → ∃ t : State, exec (.netWrite c w0 w1 w2 w3 w4 w5) s = .next t ∧ t.rawBytes st d.remote d.len = s.rawBytes (.pool n) d.pool d.len ∧ (t.core n).netq = [] ∧
          ∀ j, (∀ b, b < d.len → j ≠ s.physKey st (d.remote + b)) → t.byteAt j = s.byteAt j) ∧
        (∀ wd o, d.op = 3 → Aop.ofCode d.aop = some (wd, o) → let old := ofBytesLE (s.rawBytes .cache d.remote (wd / 8))
          ∃ t : State, exec (.netAtomic c w0 w1 w2 w3 w4 w5) s = .next t ∧ t.rawBytes .cache d.remote (wd / 8) = toBytesLE (wd / 8) (o.apply wd old d.operand d.compare) ∧
            t.rawBytes (.pool n) d.pool 8 = toBytesLE 8 old ∧ (t.core n).netq = []) ∧
        (d.op = 6 → d.operand ≤ ofBytesLE (s.rawBytes .cache d.remote 8) → ∃ t : State, exec (.netWait c w0 w1 w2 w3 w4 w5) s = .next t ∧ (t.core n).netq = [] ∧
          t.rawBytes (.pool n) d.pool 8 = s.rawBytes .cache d.remote 8) ∧
        (d.op = 6 → ofBytesLE (s.rawBytes .cache d.remote 8) < d.operand → ∃ t : State, exec (.netWait c w0 w1 w2 w3 w4 w5) s = .next t ∧ (t.core n).netq = [(k.netSeq, w ++ s.issueWords n)] ∧
          t.mem = s.mem)) ∧
    (∀ z g g2 v bs, d.op = 4 → d.valid w = true → s.netStore d = some .cache → s.reach (some (dieOf n)) .cache = .served false →
      z = (s.modCore n fun q => { q with netSeq := k.netSeq + 1, netq := q.netq ++ [(k.netSeq, w ++ s.issueWords n)] }).atUnit n 5 (s.issueWords n) → z.grant p [] [resCache] d.charge = (some g, g) →
      g.coreRead n (.pool n) d.pool d.len = (some bs, g2) → g2.contrib p d.group d.contributor d.remote bs = (v, .accepted) → ∃ t : State, exec (.netContrib c w0 w1 w2 w3 w4 w5) s = .next t ∧ (t.core n).netq = []) ∧
    (∀ fb, d.op = 4 → d.valid w = true → s.netStore d = some .cache → s.reach (some (dieOf n)) .cache = .served fb → p < 12 → (s.reg resCache p).ceil ≤ 0 → ∃ t : State, exec (.netContrib c w0 w1 w2 w3 w4 w5) s = .next t ∧
      (t.core n).netq = [(k.netSeq, w ++ s.issueWords n)] ∧ t.mem = s.mem)) ∧
  (∀ (p : Fin 12) (wide : Bool) (off : Nat) (v cmp : Word) (s : State), let wd := if wide then 64 else 32; let b := wd / 8
    let old := ofBytesLE (s.rawBytes .cache off b)
    s.clocked = true → ∀ x ∈ [(Instr.atomAdd p wide off v, Aop.add), (.atomSmin p wide off v, .smin), (.atomSmax p wide off v, .smax), (.atomUmin p wide off v, .umin),
        (.atomUmax p wide off v, .umax), (.atomCas p wide off cmp v, .cas)],
      (off % b ≠ 0 ∨ s.inRegion p.val off b = false → exec x.1 s = .next s) ∧
      (off % b = 0 → s.inRegion p.val off b = true → s.netCores = [] → s.atomHeld = [] → s.faults = [] → s.sram = [] → 0 < (s.reg resCache p.val).ceil →
        ∃ t : State, exec x.1 s = .next t ∧ t.rawBytes .cache off b = toBytesLE b (x.2.apply wd old v.toNat cmp.toNat) ∧ t.answers = .atomic p.val (some old) :: s.answers ∧
          ∀ j, (∀ i, i < b → j ≠ s.physKey .cache (off + i)) → t.byteAt j = s.byteAt j))

/-- A refresh that falls due on a bank of a slice leaves no debt where no grain holds the bank and it is idle and unwanted or its debt has reached the bound, and otherwise adds one; a marsh bank likewise; a bank in self-refresh is left as it is, and an exit from self-refresh of a clocked unit leaves it without debts. A reading outside its range counts a failure and keeps the value; one in range is shown and clears the count, and below every shutdown threshold it trips nothing. A tray that is absent shows its three sensors lost. A flow pulse counts. A tick advances the millisecond clock, and does no more in a frozen module; in Deep or Off none of these happens. (06_fen.md R109, 06_fen.md R110, 06_fen.md R113, 10_marsh_cache.md R199, 17_heat.md R340, 17_heat.md R344, 17_heat.md R354, 21_connectors.md R427, 17_heat.md R341.) -/
def Obligations.RefreshAndSensors : Prop :=
  (∀ (c : Site) (b : Fin 128) (busy : Bool) (s : State), let n := siteNo c; let i := ix2 128 n b.val; let debt := (s.bump .FEN_BANK_CTL_DEBT i 1).get .FEN_BANK_CTL_DEBT i
    let z := (s.bump .FEN_BANK_CTL_DEBT i 1).raise .FEN_REFRESH_STATUS_MAX_DEBT n debt
    s.clocked = true →
    (SMap.get s.selfRefresh n false = true → exec (.refreshIntervalDue c b busy) s = .next s) ∧
    (SMap.get s.selfRefresh n false = false → ∃ t : State, exec (.refreshIntervalDue c b busy) s = .next t ∧
      t.get .FEN_BANK_CTL_DEBT i = (if s.on .FEN_BANK_CTL_GRAIN i = true ∨ (debt < z.forceAt n ∧ (busy || z.bankWanted n b.val) = true) then debt else 0) ∧
      t.get .FEN_REFRESH_STATUS_MAX_DEBT n = (s.raise .FEN_REFRESH_STATUS_MAX_DEBT n debt).get .FEN_REFRESH_STATUS_MAX_DEBT n ∧
      s.onlyFields t [Fld.FEN_BANK_CTL_DEBT.key i, Fld.FEN_REFRESH_STATUS_MAX_DEBT.key n]) ∧
    (s.unitClocked (.fen c) = true → ∃ t : State, exec (.selfRefreshExit (.fen c)) s = .next t ∧ SMap.get t.selfRefresh n false = false ∧
      (∀ j, j < 128 → t.get .FEN_BANK_CTL_DEBT (ix2 128 n j) = 0) ∧ t = { s with flds := t.flds, selfRefresh := t.selfRefresh }) ∧
    (∀ u, s.unitClocked u = false → exec (.selfRefreshExit u) s = .next s)) ∧
  (∀ (m : Fin 12) (ch : Fin 16) (b : Fin 48) (busy : Bool) (s : State), let key := marshBank m.val ch.val b.val; let debt := SMap.get s.marshDebt key 0 + 1
    s.clocked = true →
    (SMap.get s.selfRefresh (816 + m.val) false = true → exec (.marshRefreshDue m ch b busy) s = .next s) ∧
    (SMap.get s.selfRefresh (816 + m.val) false = false → ∃ t : State, exec (.marshRefreshDue m ch b busy) s = .next t ∧
      SMap.get t.marshDebt key 0 = (if busy = true ∧ debt < s.inForce .MRS_CTL_POSTPONE_MAX m.val then debt else 0) ∧
      (∀ j, j ≠ key → SMap.get t.marshDebt j 0 = SMap.get s.marshDebt j 0) ∧ t = { s with flds := t.flds, marshDebt := t.marshDebt } ∧
      s.fieldsKept t [Fld.MRS_STATUS_MAX_DEBT.key m.val])) ∧
  (∀ (k : SensorKind) (i : Nat) (v : Option Int) (s : State), let n := kindBase k + i; let good := v.filter fun x => -320 ≤ x && x ≤ 1200
    i < kindCount k →
    (3 ≤ s.get .PWR_STATE_STATE 0 → exec (.sensorSample k i v) s = .next s) ∧
    (s.get .PWR_STATE_STATE 0 < 3 → (good = none → (s.sens n).bad < 2 → exec (.sensorSample k i v) s = .next (s.setSens n { s.sens n with bad := (s.sens n).bad + 1, overs := 0 })) ∧
      (∀ x, good = some x → x ≤ 840 → ∃ t : State, exec (.sensorSample k i v) s = .next t ∧ (t.sens n).t = x ∧ (t.sens n).bad = 0 ∧ (t.sens n).overs = 0 ∧ t.always = s.always))) ∧
  ∀ (s : State),
    (3 ≤ s.get .PWR_STATE_STATE 0 → exec .flowPulse s = .next s ∧ (∀ a b f, exec (.trayRead a b f) s = .next s) ∧ ∀ inp, exec (.msTick inp) s = .next s) ∧
    (s.get .PWR_STATE_STATE 0 < 3 → exec .flowPulse s = .next { s with therm := { s.therm with pulse := s.therm.pulse + 1 } } ∧
      (∀ a b f, s.on .BOOT_PINS_TRAY_PRESENT 0 = false → ∃ t : State, exec (.trayRead a b f) s = .next t ∧ t.on .THM_COOLANT_INLET_LOST 0 = true ∧ t.on .THM_COOLANT_OUTLET_LOST 0 = true ∧
        t.on .THM_COOLANT_FLOW_LOST 0 = true ∧ t = { s with flds := t.flds, therm := t.therm }) ∧
      (∀ inp, s.always.shut ≠ 0 ∨ s.on .FRZ_STATUS_FROZEN 0 = true → exec (.msTick inp) s = .next { s with msClock := s.msClock + 1 }) ∧
      ∀ inp, s.always.shut = 0 → s.on .FRZ_STATUS_FROZEN 0 = false → ∃ t : State, exec (.msTick inp) s = .next t ∧ t.msClock = s.msClock + 1) ∧
    (∃ t : State, exec (.trayPresenceChange true) s = .next t ∧ t.on .BOOT_PINS_TRAY_PRESENT 0 = true ∧ s.onlyFields t [Fld.BOOT_PINS_TRAY_PRESENT.key 0]) ∧
    (∃ t : State, exec (.trayPresenceChange false) s = .next t ∧ t.on .BOOT_PINS_TRAY_PRESENT 0 = false ∧ t.on .THM_COOLANT_INLET_LOST 0 = true ∧ t.on .THM_COOLANT_FLOW_LOST 0 = true)

/-- STILL_N freezes a module past step 4 with its pin enabled, with source 1 and stopped clocks, and has no effect where the pin is not. With the TAP powered, IDCODE answers the identity with the revision, BYPASS its bits one later, a read of a register its value, a write of FRZ_CTL sets its PIN_EN or, with RELEASE, leaves the module not frozen; SAMPLE_PRELOAD and, in a frozen module, EXTEST load the cells. Read-out of a frozen module answers the heads of its eight segments and the trailer. A release of a frozen module with retention lost restarts it from cold; a module that is not frozen is left as it is by both. With the management core powered and not frozen, each request is answered once and changes nothing else but what it sets: the endpoint identifier, the TID; PLDM discovery; sensor, state, PDR, event and FRU reads; the power effecter, refused with ERROR_NOT_READY while a transition is in progress; a firmware update of an image that is not authentic, refused; activation that must wait; SPDM requests and their chunks. Otherwise a request is not answered and has no effect. (20_monitors_freeze.md R410, 20_monitors_freeze.md R411, 21_connectors.md R430, 21_connectors.md R431, 14_host_commands.md R294, 14_host_commands.md R295, 14_host_commands.md R296, 18_power.md R368, 20_monitors_freeze.md R409, 19_bringup.md R391, 19_bringup.md R398.) -/
def Obligations.DebugAndManagement : Prop :=
  (∀ (s : State),
    (s.clocked = true → s.on .FRZ_CTL_PIN_EN 0 = true → 4 < s.get .BOOT_STATUS_STEP 0 → ∃ t : State, exec .stillN s = .next t ∧ t.on .FRZ_STATUS_FROZEN 0 = true ∧
      t.get .FRZ_STATUS_SOURCE 0 = 1 ∧ t.get .FRZ_STATUS_GUST 0 = s.gust % 2 ^ 48 ∧ t.clocked = false ∧ t.mem = s.mem) ∧
    (s.on .FRZ_CTL_PIN_EN 0 = false → exec .stillN s = .next s) ∧
    (s.on .FRZ_STATUS_FROZEN 0 = false → exec .dumpSel s = .next s ∧ ∀ kept, exec (.freezeRelease kept) s = .next s) ∧
    (s.on .FRZ_STATUS_FROZEN 0 = true → (∃ t heads, exec .dumpSel s = .next t ∧ t.answers = .dump heads :: s.answers ∧ heads.length = 9 ∧ t.get .FRZ_DUMP_SEGMENTS 0 = 9 ∧
        t.on .FRZ_STATUS_FROZEN 0 = true ∧ t.mem = s.mem) ∧
      (∃ t : State, exec (.freezeRelease false) s = .next t ∧ t.on .FRZ_STATUS_FROZEN 0 = false ∧ t.always.shut = 3 ∧ t.on .BOOT_STATUS_RETENTION_BAD 0 = true) ∧
      ∃ t : State, exec (.freezeRelease true) s = .next t ∧ t.on .FRZ_STATUS_FROZEN 0 = false ∧ t.cmds = []) ∧
    (3 ≤ s.get .PWR_STATE_STATE 0 → exec .idcode s = .next s ∧ ∀ bits, exec (.bypass bits) s = .next s ∧ exec (.samplePreload bits) s = .next s ∧ exec (.extest bits) s = .next s) ∧
    (s.get .PWR_STATE_STATE 0 < 3 →
      exec .idcode s = .next (s.answer (.tap (s.get .HST_ID_REV 0 % 16 * 2 ^ 28 + 0x0127256B))) ∧
      (∀ bits, exec (.bypass bits) s = .next (s.answer (.tap (ofBits ((false :: bits).take bits.length))))) ∧
      (∀ bits, ∃ t : State, exec (.samplePreload bits) s = .next t ∧ t.tapState.cells = bits ∧ t.tapState.extest = s.tapState.extest ∧
        t = { s with freeCtr := t.freeCtr, tapState := t.tapState, answers := t.answers }) ∧
      (∀ bits, s.on .FRZ_STATUS_FROZEN 0 = true → ∃ t : State, exec (.extest bits) s = .next t ∧ t.tapState.cells = bits ∧ t.tapState.extest = true ∧
        t = { s with freeCtr := t.freeCtr, tapState := t.tapState, answers := t.answers }) ∧
      (∀ bits, s.on .FRZ_STATUS_FROZEN 0 = false → ∃ t : State, exec (.extest bits) s = .next t ∧ t.tapState.extest = s.tapState.extest ∧
        t.answers = .tap (ofBits ((false :: bits).take bits.length)) :: s.answers) ∧
      (∀ off r v, tapReg off = some r → exec (.regAccess v false off) s = .next ((s.readReg r 0).2.answer (.tap (s.readReg r 0).1))) ∧
      ∀ off v, tapReg off = some .FRZ_CTL →
        (flagOf v 1 = false → ∃ t : State, exec (.regAccess v true off) s = .next t ∧ t.on .FRZ_CTL_PIN_EN 0 = flagOf v 0 ∧ s.onlyFields t [Fld.FRZ_CTL_PIN_EN.key 0]) ∧
        (flagOf v 1 = true → ∃ t : State, exec (.regAccess v true off) s = .next t ∧ t.on .FRZ_STATUS_FROZEN 0 = false))) ∧
  (∀ (s : State),
    (3 ≤ s.get .PWR_STATE_STATE 0 ∨ s.on .FRZ_STATUS_FROZEN 0 = true → exec .getTid s = .next s ∧ exec .getPldmVersion s = .next s ∧ exec .fruDataRead s = .next s ∧
      exec .platformEventPoll s = .next s ∧ ∀ v, exec (.stateEffecterSet v) s = .next s) ∧
    (s.get .PWR_STATE_STATE 0 < 3 → s.on .FRZ_STATUS_FROZEN 0 = false →
      (∀ x ∈ [(Instr.getTid, Reply.tid s.mgmt.tid), (.getPldmVersion, .versions pldmVersions), (.getPldmTypes, .types [0, 2, 4, 5]),
          (.getPldmCommands, .commands [.getTid, .setTid, .getPldmVersion, .getPldmTypes, .getPldmCommands]), (.fruDataRead, .fru Config.fruData)], exec x.1 s = .next (s.reply x.2)) ∧
      (∀ v, exec (.setEndpointId v) s = .next ({ s with mgmt := { s.mgmt with eid := v.val } }.reply (.endpointId v.val))) ∧
      (∀ v, exec (.setTid v) s = .next ({ s with mgmt := { s.mgmt with tid := v.val } }.reply .done)) ∧
      (∀ i v, s.numericSensor i = some v → exec (.numericSensorRead i) s = .next (s.reply (.numeric i v))) ∧
      (∀ i v, s.stateSensor i = some v → exec (.stateSensorRead i) s = .next (s.reply (.stateOf i v))) ∧
      (∀ h e, s.pdrs[h]? = some e → exec (.pdrRepositoryRead h) s = .next (s.reply (.pdr h e.1 e.2))) ∧
      exec .platformEventPoll s = .next ({ s with mgmtOut := s.mgmtOut.dropLast }.reply (.event s.mgmtOut.getLast?)) ∧
      (∀ v : Fin 256, v.val ≠ 3 → v.val ≠ 4 → exec (.stateEffecterSet v) s = .next (s.reply .invalidStateValue)) ∧
      (∀ v : Fin 256, v.val = 3 ∨ v.val = 4 → s.on .PWR_STATE_BUSY 0 = true → exec (.stateEffecterSet v) s = .next (s.reply .notReady)) ∧
      (s.on .PWR_STATE_BUSY 0 = false → s.always.shut = 0 → s.anyArmed = false → s.engines = [] → ∃ t : State, exec (.stateEffecterSet 3) s = .next t ∧ t.on .PWR_STATE_BUSY 0 = true ∧
        t.get .PWR_STATE_TARGET 0 = 3 ∧ t.mgmt.effecter = true) ∧
      (∀ image, slotBytes < image.length ∨ s.imageOk image = false ∨ s.slotBusy = true → ∃ t code, exec (.requestUpdate image) s = .next t ∧ t.mctpOut = .refused code :: s.mctpOut ∧
        t = { s with freeCtr := t.freeCtr, mctpOut := t.mctpOut }) ∧
      (∀ image, image.length ≤ slotBytes → s.imageOk image = true → s.slotBusy = false → s.always.shut = 0 →
        exec (.requestUpdate image) s = .next ({ s with mgmt := { s.mgmt with update := some image } }.reply .done)) ∧
      (∀ kept, s.anyArmed = true ∨ s.slotWriting = true ∨ s.on .HST_CP_STATUS_READY 0 = false → exec (.activateFirmware kept) s = .next (s.reply .notReady)) ∧
      (s.anyArmed = false → s.slotWriting = false → s.on .HST_CP_STATUS_READY 0 = true → ∃ t : State, exec (.activateFirmware false) s = .next t ∧ t.mctpOut = .done :: s.mctpOut ∧
        t.always.shut = 3) ∧
      (∀ (req : List Byte), ∀ x ∈ [(Instr.getVersion req, 1), (.getCapabilities req, 2), (.negotiateAlgorithms req, 3), (.getDigests req, 4), (.getCertificate req, 5), (.challenge req, 6),
          (.getMeasurements req, 7)], ∀ b u, s.spdmServe x.2 req = (b, u) → exec x.1 s = .next (
            if 6 ≤ x.2 ∧ s.on .BOOT_STATUS_PUF_FAIL 0 = true then u.reply .spdmUnspecified else u.reply (if x.2 = 7 then .measurements s.measurements b else .spdm b))) ∧
      (∀ chunk, exec (.chunking chunk false) s = .next ({ s with mgmt := { s.mgmt with chunks := s.mgmt.chunks ++ chunk } }.reply .chunkTaken)) ∧
      ∀ chunk, ∃ t r, exec (.chunking chunk true) s = .next t ∧ t.mgmt.chunks = [] ∧ t.mctpOut = r :: s.mctpOut))
end

