-- ==== Sys2Proof/Laws/Sparse.lean ====
section
/-!
SUPPORT. Laws of the sparse maps: a read after a write at the same key and at another, and the canonical form that every operation keeps.
-/
namespace Sys2Proof.Machine

theorem SMap.get_erase_same {β : Type} (m : SMap β) (k : Nat) (d : β) : (m.erase k).get k d = d := by
  induction m with
  | nil => rfl
  | cons e r ih => by_cases h : e.1 = k <;> simp [SMap.erase, SMap.get, h, ih]

theorem SMap.get_erase_other {β : Type} (m : SMap β) {j k : Nat} (d : β) (h : j ≠ k) : (m.erase k).get j d = m.get j d := by
  induction m with
  | nil => rfl
  | cons e r ih =>
    by_cases h1 : e.1 = k
    · have : e.1 ≠ j := fun x => h (x.symm.trans h1)
      simp [SMap.erase, SMap.get, h1, ih, h1 ▸ this]
    · by_cases h2 : e.1 = j
      · subst h2; simp [SMap.erase, SMap.get, h]
      · simp [SMap.erase, SMap.get, h1, h2, ih]

theorem SMap.get_insert_same {β : Type} (m : SMap β) (k : Nat) (v d : β) : (m.insert k v).get k d = v := by
  induction m with
  | nil => simp [SMap.insert, SMap.get]
  | cons e r ih =>
    by_cases h1 : e.1 < k
    · simp [SMap.insert, SMap.get, h1, ih, Nat.ne_of_lt h1]
    · by_cases h2 : e.1 = k <;> simp [SMap.insert, SMap.get, h1, h2]

theorem SMap.get_insert_other {β : Type} (m : SMap β) {j k : Nat} (v d : β) (h : j ≠ k) : (m.insert k v).get j d = m.get j d := by
  induction m with
  | nil => simp [SMap.insert, SMap.get, Ne.symm h]
  | cons e r ih =>
    by_cases h1 : e.1 < k
    · by_cases h2 : e.1 = j
      · subst h2; simp [SMap.insert, SMap.get, h1]
      · simp [SMap.insert, SMap.get, h1, h2, ih]
    · by_cases h2 : e.1 = k
      · have : e.1 ≠ j := fun x => h (x.symm.trans h2)
        simp [SMap.insert, SMap.get, h2, h2 ▸ this]
      · simp [SMap.insert, SMap.get, h1, h2, Ne.symm h]

/-- A key reads as it was last written. -/
@[simp] theorem SMap.get_set_same {β : Type} [DecidableEq β] (m : SMap β) (k : Nat) (v d : β) : (m.set k v d).get k d = v := by
  unfold SMap.set
  split
  · next h => rw [SMap.get_erase_same, h]
  · exact SMap.get_insert_same m k v d

/-- A write leaves every other key alone. -/
theorem SMap.get_set_other {β : Type} [DecidableEq β] (m : SMap β) {j k : Nat} (v d e : β) (h : j ≠ k) : (m.set k v d).get j e = m.get j e := by
  unfold SMap.set
  split
  · exact SMap.get_erase_other m e h
  · exact SMap.get_insert_other m v e h

theorem SMap.get_set {β : Type} [DecidableEq β] (m : SMap β) (j k : Nat) (v d : β) : (m.set k v d).get j d = if j = k then v else m.get j d := by
  split
  · next h => rw [h, SMap.get_set_same]
  · next h => exact SMap.get_set_other m v d d h

/-! ### Lists of consecutive keys -/

/-- A list written from key `k` reads back at its keys, and every other key is as it was. -/
theorem SMap.get_setList {β : Type} [DecidableEq β] (d : β) (l : List β) (m : SMap β) (k j : Nat) :
    (SMap.setList d m k l).get j d = if k ≤ j ∧ j < k + l.length then l.getD (j - k) d else m.get j d := by
  induction l generalizing m k with
  | nil =>
    have : ¬(k ≤ j ∧ j < k) := by omega
    simp [SMap.setList, this]
  | cons v r ih =>
    rw [SMap.setList, ih, SMap.get_set]
    rcases Nat.lt_trichotomy j k with h | h | h
    · have h1 : ¬(k + 1 ≤ j ∧ j < k + 1 + r.length) := by omega
      have h2 : ¬(k ≤ j ∧ j < k + (v :: r).length) := by omega
      rw [if_neg h1, if_neg h2, if_neg (Nat.ne_of_lt h)]
    · subst h
      simp
    · have e : j - k = (j - (k + 1)) + 1 := by omega
      have e1 : (k + 1 ≤ j ∧ j < k + 1 + r.length) ↔ (k ≤ j ∧ j < k + (v :: r).length) := by
        rw [List.length_cons]; omega
      rw [if_neg (Nat.ne_of_gt h), if_congr e1 rfl rfl, e, List.getD_cons_succ]

theorem SMap.getList_length {β : Type} (d : β) (m : SMap β) (k n : Nat) : (SMap.getList d m k n).length = n := by
  induction n generalizing k with
  | zero => rfl
  | succ n ih => simp [SMap.getList, ih]

theorem SMap.getList_getD {β : Type} (d : β) (m : SMap β) (k n i : Nat) (h : i < n) : (SMap.getList d m k n).getD i d = m.get (k + i) d := by
  induction n generalizing k i with
  | zero => omega
  | succ n ih =>
    cases i with
    | zero => simp [SMap.getList]
    | succ i => rw [SMap.getList, List.getD_cons_succ, ih (k + 1) i (by omega)]; congr 1; omega

/-- What was written as a list reads back as that list. -/
theorem SMap.getList_setList {β : Type} [DecidableEq β] (d : β) (l : List β) (m : SMap β) (k : Nat) :
    SMap.getList d (SMap.setList d m k l) k l.length = l := by
  apply List.ext_getElem (SMap.getList_length ..)
  intro i h1 h2
  have e := SMap.getList_getD d (SMap.setList d m k l) k l.length i h2
  rw [SMap.get_setList] at e
  have : k ≤ k + i ∧ k + i < k + l.length := by omega
  rw [if_pos this, Nat.add_sub_cancel_left, List.getD_eq_getElem _ _ h1, List.getD_eq_getElem _ _ h2] at e
  exact e

/-! ### The canonical form -/

/-- Every key of a map is above `k`. -/
def SMap.above {β : Type} (m : SMap β) (k : Nat) : Prop := ∀ e ∈ m, k < e.1

theorem SMap.rising_cons {β : Type} (a : Nat) (v : β) (r : SMap β) : SMap.rising ((a, v) :: r) = true ↔ SMap.above r a ∧ SMap.rising r = true := by
  induction r generalizing a v with
  | nil => simp [SMap.rising, SMap.above]
  | cons e r ih =>
    obtain ⟨b, x⟩ := e
    rw [SMap.rising]
    simp only [Bool.and_eq_true, decide_eq_true_eq, ih]
    constructor
    · rintro ⟨h1, h2, h3⟩
      refine ⟨?_, h2, h3⟩
      intro e he
      rcases List.mem_cons.1 he with rfl | he
      · exact h1
      · exact Nat.lt_trans h1 (h2 e he)
    · rintro ⟨h1, h2, h3⟩
      exact ⟨h1 (b, x) (List.mem_cons_self ..), h2, h3⟩

theorem SMap.wf_iff {β : Type} [DecidableEq β] (m : SMap β) (d : Nat → β) :
    m.wf d = true ↔ SMap.rising m = true ∧ ∀ e ∈ m, e.2 ≠ d e.1 := by
  simp [SMap.wf, List.all_eq_true]

theorem SMap.mem_erase {β : Type} {m : SMap β} {k : Nat} {e : Nat × β} (h : e ∈ m.erase k) : e ∈ m := by
  induction m with
  | nil => simp [SMap.erase] at h
  | cons x r ih =>
    unfold SMap.erase at h
    split at h
    · exact List.mem_cons_of_mem _ (ih h)
    · rcases List.mem_cons.1 h with rfl | h
      · exact List.mem_cons_self ..
      · exact List.mem_cons_of_mem _ (ih h)

theorem SMap.mem_insert {β : Type} {m : SMap β} {k : Nat} {v : β} {e : Nat × β} (h : e ∈ m.insert k v) : e = (k, v) ∨ e ∈ m := by
  induction m with
  | nil => simpa [SMap.insert] using h
  | cons x r ih =>
    unfold SMap.insert at h
    split at h
    · rcases List.mem_cons.1 h with rfl | h
      · exact .inr (List.mem_cons_self ..)
      · exact (ih h).imp id (List.mem_cons_of_mem _)
    · split at h
      · rcases List.mem_cons.1 h with rfl | h
        · exact .inl rfl
        · exact .inr (List.mem_cons_of_mem _ h)
      · rcases List.mem_cons.1 h with rfl | h
        · exact .inl rfl
        · exact .inr h

theorem SMap.rising_erase {β : Type} {m : SMap β} (k : Nat) (h : m.rising = true) : (m.erase k).rising = true := by
  induction m with
  | nil => exact h
  | cons x r ih =>
    obtain ⟨a, v⟩ := x
    obtain ⟨h1, h2⟩ := (SMap.rising_cons a v r).1 h
    unfold SMap.erase
    split
    · exact ih h2
    · exact (SMap.rising_cons a v _).2 ⟨fun e he => h1 e (SMap.mem_erase he), ih h2⟩

theorem SMap.rising_insert {β : Type} {m : SMap β} (k : Nat) (v : β) (h : m.rising = true) : (m.insert k v).rising = true := by
  induction m with
  | nil => simp [SMap.insert, SMap.rising]
  | cons x r ih =>
    obtain ⟨a, w⟩ := x
    obtain ⟨h1, h2⟩ := (SMap.rising_cons a w r).1 h
    unfold SMap.insert
    split
    · next hlt =>
      refine (SMap.rising_cons a w _).2 ⟨fun e he => ?_, ih h2⟩
      rcases SMap.mem_insert he with rfl | he
      · exact hlt
      · exact h1 e he
    · next hn =>
      split
      · next he => subst he; exact (SMap.rising_cons _ v r).2 ⟨h1, h2⟩
      · next hne =>
        refine (SMap.rising_cons k v _).2 ⟨fun e he => ?_, h⟩
        have hk : k < a := by omega
        rcases List.mem_cons.1 he with rfl | he
        · exact hk
        · exact Nat.lt_trans hk (h1 e he)

/-- A write keeps the canonical form. -/
theorem SMap.wf_set {β : Type} [DecidableEq β] {m : SMap β} {d : Nat → β} (k : Nat) (v : β) (h : m.wf d = true) : (m.set k v (d k)).wf d = true := by
  rw [SMap.wf_iff] at h ⊢
  unfold SMap.set
  split
  · exact ⟨SMap.rising_erase k h.1, fun e he => h.2 e (SMap.mem_erase he)⟩
  · next hv =>
    refine ⟨SMap.rising_insert k v h.1, fun e he => ?_⟩
    rcases SMap.mem_insert he with rfl | he
    · exact hv
    · exact h.2 e he

/-- Writing a list keeps the canonical form. -/
theorem SMap.wf_setList {β : Type} [DecidableEq β] (d : β) (l : List β) {m : SMap β} (k : Nat) (h : m.wf (fun _ => d) = true) :
    (SMap.setList d m k l).wf (fun _ => d) = true := by
  induction l generalizing m k with
  | nil => exact h
  | cons v r ih => exact ih (k + 1) (SMap.wf_set (d := fun _ => d) k v h)

theorem SMap.wf_filter {β : Type} [DecidableEq β] {m : SMap β} {d : Nat → β} (p : Nat × β → Bool) (h : m.wf d = true) : SMap.wf (m.filter p) d = true := by
  induction m with
  | nil => exact h
  | cons x r ih =>
    rw [SMap.wf_iff] at h
    obtain ⟨a, v⟩ := x
    obtain ⟨h1, h2⟩ := (SMap.rising_cons a v r).1 h.1
    have hr : SMap.wf r d = true := (SMap.wf_iff r d).2 ⟨h2, fun e he => h.2 e (List.mem_cons_of_mem _ he)⟩
    rw [List.filter_cons]
    split
    · have w := (SMap.wf_iff _ d).1 (ih hr)
      refine (SMap.wf_iff _ d).2 ⟨(SMap.rising_cons a v _).2 ⟨fun e he => h1 e (List.mem_filter.1 he).1, w.1⟩, fun e he => ?_⟩
      rcases List.mem_cons.1 he with rfl | he
      · exact h.2 _ (List.mem_cons_self ..)
      · exact w.2 e he
    · exact ih hr

theorem SMap.wf_clearRange {β : Type} [DecidableEq β] {m : SMap β} {d : Nat → β} (lo hi : Nat) (h : m.wf d = true) : (m.clearRange lo hi).wf d = true :=
  SMap.wf_filter _ h

/-- Copying a range onto another keeps the canonical form. -/
theorem SMap.wf_copyRange {β : Type} [DecidableEq β] (d : β) {m : SMap β} (src dst n : Nat) (h : m.wf (fun _ => d) = true) :
    (SMap.copyRange d m src dst n).wf (fun _ => d) = true := by
  have key : ∀ (l : List (Nat × β)) (acc : SMap β), acc.wf (fun _ => d) = true →
      SMap.wf (l.foldl (fun acc e => acc.set (dst + (e.1 - src)) e.2 d) acc) (fun _ => d) = true := by
    intro l
    induction l with
    | nil => exact fun acc h => h
    | cons e r ih => exact fun acc h => ih _ (SMap.wf_set (d := fun _ => d) _ _ h)
  exact key _ _ (SMap.wf_clearRange _ _ h)

theorem SMap.get_of_missing {β : Type} {m : SMap β} {k : Nat} (d : β) (h : ∀ e ∈ m, e.1 ≠ k) : m.get k d = d ∧ m.erase k = m := by
  induction m with
  | nil => exact ⟨rfl, rfl⟩
  | cons x r ih =>
    have h1 := h x (List.mem_cons_self ..)
    have h2 := ih fun e he => h e (List.mem_cons_of_mem _ he)
    simp [SMap.get, SMap.erase, h1, h2]

/-- The value read is written back with no effect on a map in canonical form. -/
theorem SMap.set_get_self {β : Type} [DecidableEq β] {m : SMap β} {d : Nat → β} (k : Nat) (h : m.wf d = true) : m.set k (m.get k (d k)) (d k) = m := by
  induction m with
  | nil => simp [SMap.get, SMap.set, SMap.erase]
  | cons x r ih =>
    obtain ⟨a, v⟩ := x
    have w := (SMap.wf_iff _ d).1 h
    obtain ⟨h1, h2⟩ := (SMap.rising_cons a v r).1 w.1
    have ih := ih ((SMap.wf_iff r d).2 ⟨h2, fun e he => w.2 e (List.mem_cons_of_mem _ he)⟩)
    by_cases hk : a = k
    · subst hk
      have hv : v ≠ d a := w.2 _ (List.mem_cons_self ..)
      simp [SMap.get, SMap.set, SMap.insert, hv]
    · by_cases hlt : a < k
      · simp only [SMap.get, if_neg hk]
        unfold SMap.set at ih ⊢
        split
        · next hd => rw [if_pos hd] at ih; simp [SMap.erase, hk, ih]
        · next hd => rw [if_neg hd] at ih; simp [SMap.insert, hlt, ih]
      · have hm : ∀ e ∈ ((a, v) :: r : SMap β), e.1 ≠ k := fun e he => by
          rcases List.mem_cons.1 he with rfl | he
          · exact hk
          · have := h1 e he; omega
        have g := SMap.get_of_missing (d k) hm
        rw [g.1, SMap.set, if_pos rfl, g.2]

end Sys2Proof.Machine
end

