-- ==== Sys2Proof/Laws/State.lean ====
section
/-!
SUPPORT. Laws of the state: each named write changes its own field and no other, and what is written is read back.
-/
namespace Sys2Proof.Machine

/-! ### Register fields -/

@[simp] theorem State.get_put_same (s : State) (f : Fld) (i v : Nat) : (s.put f i v).get f i = v % 2 ^ f.width := by
  simp [State.get, State.put]

theorem State.get_put_other (s : State) {f g : Fld} {i j : Nat} (v : Nat) (h : g.key j ≠ f.key i) : (s.put f i v).get g j = s.get g j := by
  simp [State.get, State.put, SMap.get_set_other _ _ _ _ h]

theorem State.flds_put_other (s : State) (f : Fld) (i v k d : Nat) (h : k ≠ f.key i) : SMap.get (s.put f i v).flds k d = SMap.get s.flds k d :=
  SMap.get_set_other _ _ _ _ h

/-- A key tells its field, numbered below 4,096, and its copy. -/
theorem Fld.key_inj {f g : Fld} {i j : Nat} (hf : f.id < 4096) (hg : g.id < 4096) (h : f.key i = g.key j) : f.id = g.id ∧ i = j := by
  unfold Fld.key at h; omega

/-- Writing several fields of a copy touches their keys only. -/
theorem State.flds_puts_other (s : State) (i : Nat) (fs : List (Fld × Nat)) (k d : Nat) (h : ∀ e ∈ fs, k ≠ e.1.key i) :
    SMap.get (s.puts i fs).flds k d = SMap.get s.flds k d := by
  unfold State.puts
  induction fs generalizing s with
  | nil => rfl
  | cons e r ih =>
    rw [List.foldl_cons, ih _ fun x hx => h x (List.mem_cons_of_mem _ hx), State.flds_put_other _ _ _ _ _ _ (h e (List.mem_cons_self ..))]

/-- Writing several fields changes register fields only. -/
theorem State.puts_eq (s : State) (i : Nat) (fs : List (Fld × Nat)) : s.puts i fs = { s with flds := (s.puts i fs).flds } := by
  unfold State.puts
  induction fs generalizing s with
  | nil => rfl
  | cons e r ih => rw [List.foldl_cons, ih]; rfl

/-! ### Units -/

@[simp] theorem State.core_set_same (s : State) (k : Nat) (v : Core) : (s.setCore k v).core k = v := SMap.get_set_same ..

theorem State.core_set_other (s : State) {j k : Nat} (v : Core) (h : j ≠ k) : (s.setCore k v).core j = s.core j := SMap.get_set_other _ _ _ _ h

@[simp] theorem State.part_set_same (s : State) (k : Nat) (v : Part) : (s.setPart k v).part k = v := SMap.get_set_same ..

theorem State.part_set_other (s : State) {j k : Nat} (v : Part) (h : j ≠ k) : (s.setPart k v).part j = s.part j := SMap.get_set_other _ _ _ _ h

@[simp] theorem State.ring_set_same (s : State) (k : Nat) (v : Ring) : (s.setRing k v).ring k = v := SMap.get_set_same ..

theorem State.ring_set_other (s : State) {j k : Nat} (v : Ring) (h : j ≠ k) : (s.setRing k v).ring j = s.ring j := SMap.get_set_other _ _ _ _ h

@[simp] theorem State.engine_set_same (s : State) (k : Nat) (v : DmaEng) : (s.setEngine k v).engine k = v := SMap.get_set_same ..

theorem State.engine_set_other (s : State) {j k : Nat} (v : DmaEng) (h : j ≠ k) : (s.setEngine k v).engine j = s.engine j := SMap.get_set_other _ _ _ _ h

@[simp] theorem State.link_set_same (s : State) (k : Nat) (v : Link) : (s.setLink k v).link k = v := SMap.get_set_same ..

theorem State.link_set_other (s : State) {j k : Nat} (v : Link) (h : j ≠ k) : (s.setLink k v).link j = s.link j := SMap.get_set_other _ _ _ _ h

@[simp] theorem State.xport_set_same (s : State) (k : Nat) (v : XPort) : (s.setXport k v).xport k = v := SMap.get_set_same ..

theorem State.xport_set_other (s : State) {j k : Nat} (v : XPort) (h : j ≠ k) : (s.setXport k v).xport j = s.xport j := SMap.get_set_other _ _ _ _ h

@[simp] theorem State.mon_set_same (s : State) (k : Nat) (v : Mon) : (s.setMon k v).mon k = v := SMap.get_set_same ..

theorem State.mon_set_other (s : State) {j k : Nat} (v : Mon) (h : j ≠ k) : (s.setMon k v).mon j = s.mon j := SMap.get_set_other _ _ _ _ h

/-! ### put -/

@[simp] theorem State.put_pending (s : State) (f : Fld) (i v : Nat) : (s.put f i v).pending = s.pending := rfl
@[simp] theorem State.put_freeCtr (s : State) (f : Fld) (i v : Nat) : (s.put f i v).freeCtr = s.freeCtr := rfl
@[simp] theorem State.put_eff (s : State) (f : Fld) (i v : Nat) : (s.put f i v).eff = s.eff := rfl
@[simp] theorem State.put_vfEnable (s : State) (f : Fld) (i v : Nat) : (s.put f i v).vfEnable = s.vfEnable := rfl
@[simp] theorem State.put_mem (s : State) (f : Fld) (i v : Nat) : (s.put f i v).mem = s.mem := rfl
@[simp] theorem State.put_faults (s : State) (f : Fld) (i v : Nat) : (s.put f i v).faults = s.faults := rfl
@[simp] theorem State.put_deadWires (s : State) (f : Fld) (i v : Nat) : (s.put f i v).deadWires = s.deadWires := rfl
@[simp] theorem State.put_spareCopy (s : State) (f : Fld) (i v : Nat) : (s.put f i v).spareCopy = s.spareCopy := rfl
@[simp] theorem State.put_sram (s : State) (f : Fld) (i v : Nat) : (s.put f i v).sram = s.sram := rfl
@[simp] theorem State.put_ondie (s : State) (f : Fld) (i v : Nat) : (s.put f i v).ondie = s.ondie := rfl
@[simp] theorem State.put_rowSpares (s : State) (f : Fld) (i v : Nat) : (s.put f i v).rowSpares = s.rowSpares := rfl
@[simp] theorem State.put_retired (s : State) (f : Fld) (i v : Nat) : (s.put f i v).retired = s.retired := rfl
@[simp] theorem State.put_hostMem (s : State) (f : Fld) (i v : Nat) : (s.put f i v).hostMem = s.hostMem := rfl
@[simp] theorem State.put_hostOk (s : State) (f : Fld) (i v : Nat) : (s.put f i v).hostOk = s.hostOk := rfl
@[simp] theorem State.put_cmds (s : State) (f : Fld) (i v : Nat) : (s.put f i v).cmds = s.cmds := rfl
@[simp] theorem State.put_rings (s : State) (f : Fld) (i v : Nat) : (s.put f i v).rings = s.rings := rfl
@[simp] theorem State.put_lastRing (s : State) (f : Fld) (i v : Nat) : (s.put f i v).lastRing = s.lastRing := rfl
@[simp] theorem State.put_msix (s : State) (f : Fld) (i v : Nat) : (s.put f i v).msix = s.msix := rfl
@[simp] theorem State.put_mgmtOut (s : State) (f : Fld) (i v : Nat) : (s.put f i v).mgmtOut = s.mgmtOut := rfl
@[simp] theorem State.put_logSeq (s : State) (f : Fld) (i v : Nat) : (s.put f i v).logSeq = s.logSeq := rfl
@[simp] theorem State.put_logLost (s : State) (f : Fld) (i v : Nat) : (s.put f i v).logLost = s.logLost := rfl
@[simp] theorem State.put_holdoff (s : State) (f : Fld) (i v : Nat) : (s.put f i v).holdoff = s.holdoff := rfl
@[simp] theorem State.put_heldIrq (s : State) (f : Fld) (i v : Nat) : (s.put f i v).heldIrq = s.heldIrq := rfl
@[simp] theorem State.put_heldRecs (s : State) (f : Fld) (i v : Nat) : (s.put f i v).heldRecs = s.heldRecs := rfl
@[simp] theorem State.put_pfLogOpened (s : State) (f : Fld) (i v : Nat) : (s.put f i v).pfLogOpened = s.pfLogOpened := rfl
@[simp] theorem State.put_parts (s : State) (f : Fld) (i v : Nat) : (s.put f i v).parts = s.parts := rfl
@[simp] theorem State.put_regs (s : State) (f : Fld) (i v : Nat) : (s.put f i v).regs = s.regs := rfl
@[simp] theorem State.put_stage (s : State) (f : Fld) (i v : Nat) : (s.put f i v).stage = s.stage := rfl
@[simp] theorem State.put_commitSites (s : State) (f : Fld) (i v : Nat) : (s.put f i v).commitSites = s.commitSites := rfl
@[simp] theorem State.put_scrubPos (s : State) (f : Fld) (i v : Nat) : (s.put f i v).scrubPos = s.scrubPos := rfl
@[simp] theorem State.put_gustWords (s : State) (f : Fld) (i v : Nat) : (s.put f i v).gustWords = s.gustWords := rfl
@[simp] theorem State.put_msClock (s : State) (f : Fld) (i v : Nat) : (s.put f i v).msClock = s.msClock := rfl
@[simp] theorem State.put_losses (s : State) (f : Fld) (i v : Nat) : (s.put f i v).losses = s.losses := rfl
@[simp] theorem State.put_phase (s : State) (f : Fld) (i v : Nat) : (s.put f i v).phase = s.phase := rfl
@[simp] theorem State.put_cores (s : State) (f : Fld) (i v : Nat) : (s.put f i v).cores = s.cores := rfl
@[simp] theorem State.put_groups (s : State) (f : Fld) (i v : Nat) : (s.put f i v).groups = s.groups := rfl
@[simp] theorem State.put_metering (s : State) (f : Fld) (i v : Nat) : (s.put f i v).metering = s.metering := rfl
@[simp] theorem State.put_badGroups (s : State) (f : Fld) (i v : Nat) : (s.put f i v).badGroups = s.badGroups := rfl
@[simp] theorem State.put_atomHeld (s : State) (f : Fld) (i v : Nat) : (s.put f i v).atomHeld = s.atomHeld := rfl
@[simp] theorem State.put_engines (s : State) (f : Fld) (i v : Nat) : (s.put f i v).engines = s.engines := rfl
@[simp] theorem State.put_links (s : State) (f : Fld) (i v : Nat) : (s.put f i v).links = s.links := rfl
@[simp] theorem State.put_transitFaults (s : State) (f : Fld) (i v : Nat) : (s.put f i v).transitFaults = s.transitFaults := rfl
@[simp] theorem State.put_marshDebt (s : State) (f : Fld) (i v : Nat) : (s.put f i v).marshDebt = s.marshDebt := rfl
@[simp] theorem State.put_selfRefresh (s : State) (f : Fld) (i v : Nat) : (s.put f i v).selfRefresh = s.selfRefresh := rfl
@[simp] theorem State.put_xports (s : State) (f : Fld) (i v : Nat) : (s.put f i v).xports = s.xports := rfl
@[simp] theorem State.put_xniHeld (s : State) (f : Fld) (i v : Nat) : (s.put f i v).xniHeld = s.xniHeld := rfl
@[simp] theorem State.put_xniWait (s : State) (f : Fld) (i v : Nat) : (s.put f i v).xniWait = s.xniWait := rfl
@[simp] theorem State.put_xniIn (s : State) (f : Fld) (i v : Nat) : (s.put f i v).xniIn = s.xniIn := rfl
@[simp] theorem State.put_xniOut (s : State) (f : Fld) (i v : Nat) : (s.put f i v).xniOut = s.xniOut := rfl
@[simp] theorem State.put_markersOut (s : State) (f : Fld) (i v : Nat) : (s.put f i v).markersOut = s.markersOut := rfl
@[simp] theorem State.put_sync (s : State) (f : Fld) (i v : Nat) : (s.put f i v).sync = s.sync := rfl
@[simp] theorem State.put_answers (s : State) (f : Fld) (i v : Nat) : (s.put f i v).answers = s.answers := rfl
@[simp] theorem State.put_peatBlocks (s : State) (f : Fld) (i v : Nat) : (s.put f i v).peatBlocks = s.peatBlocks := rfl
@[simp] theorem State.put_peatSaved (s : State) (f : Fld) (i v : Nat) : (s.put f i v).peatSaved = s.peatSaved := rfl
@[simp] theorem State.put_peatBad (s : State) (f : Fld) (i v : Nat) : (s.put f i v).peatBad = s.peatBad := rfl
@[simp] theorem State.put_peatData (s : State) (f : Fld) (i v : Nat) : (s.put f i v).peatData = s.peatData := rfl
@[simp] theorem State.put_peatMap (s : State) (f : Fld) (i v : Nat) : (s.put f i v).peatMap = s.peatMap := rfl
@[simp] theorem State.put_peatMapNew (s : State) (f : Fld) (i v : Nat) : (s.put f i v).peatMapNew = s.peatMapNew := rfl
@[simp] theorem State.put_nand (s : State) (f : Fld) (i v : Nat) : (s.put f i v).nand = s.nand := rfl
@[simp] theorem State.put_wear (s : State) (f : Fld) (i v : Nat) : (s.put f i v).wear = s.wear := rfl
@[simp] theorem State.put_wearSaved (s : State) (f : Fld) (i v : Nat) : (s.put f i v).wearSaved = s.wearSaved := rfl
@[simp] theorem State.put_repairMap (s : State) (f : Fld) (i v : Nat) : (s.put f i v).repairMap = s.repairMap := rfl
@[simp] theorem State.put_repairVer (s : State) (f : Fld) (i v : Nat) : (s.put f i v).repairVer = s.repairVer := rfl
@[simp] theorem State.put_flashMap (s : State) (f : Fld) (i v : Nat) : (s.put f i v).flashMap = s.flashMap := rfl
@[simp] theorem State.put_flashVer (s : State) (f : Fld) (i v : Nat) : (s.put f i v).flashVer = s.flashVer := rfl
@[simp] theorem State.put_licWord (s : State) (f : Fld) (i v : Nat) : (s.put f i v).licWord = s.licWord := rfl
@[simp] theorem State.put_deskew (s : State) (f : Fld) (i v : Nat) : (s.put f i v).deskew = s.deskew := rfl
@[simp] theorem State.put_peatTrained (s : State) (f : Fld) (i v : Nat) : (s.put f i v).peatTrained = s.peatTrained := rfl
@[simp] theorem State.put_mons (s : State) (f : Fld) (i v : Nat) : (s.put f i v).mons = s.mons := rfl
@[simp] theorem State.put_prodSeen (s : State) (f : Fld) (i v : Nat) : (s.put f i v).prodSeen = s.prodSeen := rfl
@[simp] theorem State.put_therm (s : State) (f : Fld) (i v : Nat) : (s.put f i v).therm = s.therm := rfl
@[simp] theorem State.put_always (s : State) (f : Fld) (i v : Nat) : (s.put f i v).always = s.always := rfl
@[simp] theorem State.put_flash (s : State) (f : Fld) (i v : Nat) : (s.put f i v).flash = s.flash := rfl
@[simp] theorem State.put_tapState (s : State) (f : Fld) (i v : Nat) : (s.put f i v).tapState = s.tapState := rfl
@[simp] theorem State.put_mgmt (s : State) (f : Fld) (i v : Nat) : (s.put f i v).mgmt = s.mgmt := rfl
@[simp] theorem State.put_mctpOut (s : State) (f : Fld) (i v : Nat) : (s.put f i v).mctpOut = s.mctpOut := rfl

/-! ### setCore -/

@[simp] theorem State.setCore_pending (s : State) (c : Nat) (k : Core) : (s.setCore c k).pending = s.pending := rfl
@[simp] theorem State.setCore_freeCtr (s : State) (c : Nat) (k : Core) : (s.setCore c k).freeCtr = s.freeCtr := rfl
@[simp] theorem State.setCore_flds (s : State) (c : Nat) (k : Core) : (s.setCore c k).flds = s.flds := rfl
@[simp] theorem State.setCore_eff (s : State) (c : Nat) (k : Core) : (s.setCore c k).eff = s.eff := rfl
@[simp] theorem State.setCore_vfEnable (s : State) (c : Nat) (k : Core) : (s.setCore c k).vfEnable = s.vfEnable := rfl
@[simp] theorem State.setCore_mem (s : State) (c : Nat) (k : Core) : (s.setCore c k).mem = s.mem := rfl
@[simp] theorem State.setCore_faults (s : State) (c : Nat) (k : Core) : (s.setCore c k).faults = s.faults := rfl
@[simp] theorem State.setCore_deadWires (s : State) (c : Nat) (k : Core) : (s.setCore c k).deadWires = s.deadWires := rfl
@[simp] theorem State.setCore_spareCopy (s : State) (c : Nat) (k : Core) : (s.setCore c k).spareCopy = s.spareCopy := rfl
@[simp] theorem State.setCore_sram (s : State) (c : Nat) (k : Core) : (s.setCore c k).sram = s.sram := rfl
@[simp] theorem State.setCore_ondie (s : State) (c : Nat) (k : Core) : (s.setCore c k).ondie = s.ondie := rfl
@[simp] theorem State.setCore_rowSpares (s : State) (c : Nat) (k : Core) : (s.setCore c k).rowSpares = s.rowSpares := rfl
@[simp] theorem State.setCore_retired (s : State) (c : Nat) (k : Core) : (s.setCore c k).retired = s.retired := rfl
@[simp] theorem State.setCore_hostMem (s : State) (c : Nat) (k : Core) : (s.setCore c k).hostMem = s.hostMem := rfl
@[simp] theorem State.setCore_hostOk (s : State) (c : Nat) (k : Core) : (s.setCore c k).hostOk = s.hostOk := rfl
@[simp] theorem State.setCore_cmds (s : State) (c : Nat) (k : Core) : (s.setCore c k).cmds = s.cmds := rfl
@[simp] theorem State.setCore_rings (s : State) (c : Nat) (k : Core) : (s.setCore c k).rings = s.rings := rfl
@[simp] theorem State.setCore_lastRing (s : State) (c : Nat) (k : Core) : (s.setCore c k).lastRing = s.lastRing := rfl
@[simp] theorem State.setCore_msix (s : State) (c : Nat) (k : Core) : (s.setCore c k).msix = s.msix := rfl
@[simp] theorem State.setCore_mgmtOut (s : State) (c : Nat) (k : Core) : (s.setCore c k).mgmtOut = s.mgmtOut := rfl
@[simp] theorem State.setCore_logSeq (s : State) (c : Nat) (k : Core) : (s.setCore c k).logSeq = s.logSeq := rfl
@[simp] theorem State.setCore_logLost (s : State) (c : Nat) (k : Core) : (s.setCore c k).logLost = s.logLost := rfl
@[simp] theorem State.setCore_holdoff (s : State) (c : Nat) (k : Core) : (s.setCore c k).holdoff = s.holdoff := rfl
@[simp] theorem State.setCore_heldIrq (s : State) (c : Nat) (k : Core) : (s.setCore c k).heldIrq = s.heldIrq := rfl
@[simp] theorem State.setCore_heldRecs (s : State) (c : Nat) (k : Core) : (s.setCore c k).heldRecs = s.heldRecs := rfl
@[simp] theorem State.setCore_pfLogOpened (s : State) (c : Nat) (k : Core) : (s.setCore c k).pfLogOpened = s.pfLogOpened := rfl
@[simp] theorem State.setCore_parts (s : State) (c : Nat) (k : Core) : (s.setCore c k).parts = s.parts := rfl
@[simp] theorem State.setCore_regs (s : State) (c : Nat) (k : Core) : (s.setCore c k).regs = s.regs := rfl
@[simp] theorem State.setCore_stage (s : State) (c : Nat) (k : Core) : (s.setCore c k).stage = s.stage := rfl
@[simp] theorem State.setCore_commitSites (s : State) (c : Nat) (k : Core) : (s.setCore c k).commitSites = s.commitSites := rfl
@[simp] theorem State.setCore_scrubPos (s : State) (c : Nat) (k : Core) : (s.setCore c k).scrubPos = s.scrubPos := rfl
@[simp] theorem State.setCore_gustWords (s : State) (c : Nat) (k : Core) : (s.setCore c k).gustWords = s.gustWords := rfl
@[simp] theorem State.setCore_msClock (s : State) (c : Nat) (k : Core) : (s.setCore c k).msClock = s.msClock := rfl
@[simp] theorem State.setCore_losses (s : State) (c : Nat) (k : Core) : (s.setCore c k).losses = s.losses := rfl
@[simp] theorem State.setCore_phase (s : State) (c : Nat) (k : Core) : (s.setCore c k).phase = s.phase := rfl
@[simp] theorem State.setCore_groups (s : State) (c : Nat) (k : Core) : (s.setCore c k).groups = s.groups := rfl
@[simp] theorem State.setCore_metering (s : State) (c : Nat) (k : Core) : (s.setCore c k).metering = s.metering := rfl
@[simp] theorem State.setCore_badGroups (s : State) (c : Nat) (k : Core) : (s.setCore c k).badGroups = s.badGroups := rfl
@[simp] theorem State.setCore_atomHeld (s : State) (c : Nat) (k : Core) : (s.setCore c k).atomHeld = s.atomHeld := rfl
@[simp] theorem State.setCore_engines (s : State) (c : Nat) (k : Core) : (s.setCore c k).engines = s.engines := rfl
@[simp] theorem State.setCore_links (s : State) (c : Nat) (k : Core) : (s.setCore c k).links = s.links := rfl
@[simp] theorem State.setCore_transitFaults (s : State) (c : Nat) (k : Core) : (s.setCore c k).transitFaults = s.transitFaults := rfl
@[simp] theorem State.setCore_marshDebt (s : State) (c : Nat) (k : Core) : (s.setCore c k).marshDebt = s.marshDebt := rfl
@[simp] theorem State.setCore_selfRefresh (s : State) (c : Nat) (k : Core) : (s.setCore c k).selfRefresh = s.selfRefresh := rfl
@[simp] theorem State.setCore_xports (s : State) (c : Nat) (k : Core) : (s.setCore c k).xports = s.xports := rfl
@[simp] theorem State.setCore_xniHeld (s : State) (c : Nat) (k : Core) : (s.setCore c k).xniHeld = s.xniHeld := rfl
@[simp] theorem State.setCore_xniWait (s : State) (c : Nat) (k : Core) : (s.setCore c k).xniWait = s.xniWait := rfl
@[simp] theorem State.setCore_xniIn (s : State) (c : Nat) (k : Core) : (s.setCore c k).xniIn = s.xniIn := rfl
@[simp] theorem State.setCore_xniOut (s : State) (c : Nat) (k : Core) : (s.setCore c k).xniOut = s.xniOut := rfl
@[simp] theorem State.setCore_markersOut (s : State) (c : Nat) (k : Core) : (s.setCore c k).markersOut = s.markersOut := rfl
@[simp] theorem State.setCore_sync (s : State) (c : Nat) (k : Core) : (s.setCore c k).sync = s.sync := rfl
@[simp] theorem State.setCore_answers (s : State) (c : Nat) (k : Core) : (s.setCore c k).answers = s.answers := rfl
@[simp] theorem State.setCore_peatBlocks (s : State) (c : Nat) (k : Core) : (s.setCore c k).peatBlocks = s.peatBlocks := rfl
@[simp] theorem State.setCore_peatSaved (s : State) (c : Nat) (k : Core) : (s.setCore c k).peatSaved = s.peatSaved := rfl
@[simp] theorem State.setCore_peatBad (s : State) (c : Nat) (k : Core) : (s.setCore c k).peatBad = s.peatBad := rfl
@[simp] theorem State.setCore_peatData (s : State) (c : Nat) (k : Core) : (s.setCore c k).peatData = s.peatData := rfl
@[simp] theorem State.setCore_peatMap (s : State) (c : Nat) (k : Core) : (s.setCore c k).peatMap = s.peatMap := rfl
@[simp] theorem State.setCore_peatMapNew (s : State) (c : Nat) (k : Core) : (s.setCore c k).peatMapNew = s.peatMapNew := rfl
@[simp] theorem State.setCore_nand (s : State) (c : Nat) (k : Core) : (s.setCore c k).nand = s.nand := rfl
@[simp] theorem State.setCore_wear (s : State) (c : Nat) (k : Core) : (s.setCore c k).wear = s.wear := rfl
@[simp] theorem State.setCore_wearSaved (s : State) (c : Nat) (k : Core) : (s.setCore c k).wearSaved = s.wearSaved := rfl
@[simp] theorem State.setCore_repairMap (s : State) (c : Nat) (k : Core) : (s.setCore c k).repairMap = s.repairMap := rfl
@[simp] theorem State.setCore_repairVer (s : State) (c : Nat) (k : Core) : (s.setCore c k).repairVer = s.repairVer := rfl
@[simp] theorem State.setCore_flashMap (s : State) (c : Nat) (k : Core) : (s.setCore c k).flashMap = s.flashMap := rfl
@[simp] theorem State.setCore_flashVer (s : State) (c : Nat) (k : Core) : (s.setCore c k).flashVer = s.flashVer := rfl
@[simp] theorem State.setCore_licWord (s : State) (c : Nat) (k : Core) : (s.setCore c k).licWord = s.licWord := rfl
@[simp] theorem State.setCore_deskew (s : State) (c : Nat) (k : Core) : (s.setCore c k).deskew = s.deskew := rfl
@[simp] theorem State.setCore_peatTrained (s : State) (c : Nat) (k : Core) : (s.setCore c k).peatTrained = s.peatTrained := rfl
@[simp] theorem State.setCore_mons (s : State) (c : Nat) (k : Core) : (s.setCore c k).mons = s.mons := rfl
@[simp] theorem State.setCore_prodSeen (s : State) (c : Nat) (k : Core) : (s.setCore c k).prodSeen = s.prodSeen := rfl
@[simp] theorem State.setCore_therm (s : State) (c : Nat) (k : Core) : (s.setCore c k).therm = s.therm := rfl
@[simp] theorem State.setCore_always (s : State) (c : Nat) (k : Core) : (s.setCore c k).always = s.always := rfl
@[simp] theorem State.setCore_flash (s : State) (c : Nat) (k : Core) : (s.setCore c k).flash = s.flash := rfl
@[simp] theorem State.setCore_tapState (s : State) (c : Nat) (k : Core) : (s.setCore c k).tapState = s.tapState := rfl
@[simp] theorem State.setCore_mgmt (s : State) (c : Nat) (k : Core) : (s.setCore c k).mgmt = s.mgmt := rfl
@[simp] theorem State.setCore_mctpOut (s : State) (c : Nat) (k : Core) : (s.setCore c k).mctpOut = s.mctpOut := rfl
@[simp] theorem State.setCore_get (s : State) (c : Nat) (k : Core) (x : Fld) (y : Nat) : (s.setCore c k).get x y = s.get x y := rfl

/-! ### setPart -/

@[simp] theorem State.setPart_pending (s : State) (p : Nat) (v : Part) : (s.setPart p v).pending = s.pending := rfl
@[simp] theorem State.setPart_freeCtr (s : State) (p : Nat) (v : Part) : (s.setPart p v).freeCtr = s.freeCtr := rfl
@[simp] theorem State.setPart_flds (s : State) (p : Nat) (v : Part) : (s.setPart p v).flds = s.flds := rfl
@[simp] theorem State.setPart_eff (s : State) (p : Nat) (v : Part) : (s.setPart p v).eff = s.eff := rfl
@[simp] theorem State.setPart_vfEnable (s : State) (p : Nat) (v : Part) : (s.setPart p v).vfEnable = s.vfEnable := rfl
@[simp] theorem State.setPart_mem (s : State) (p : Nat) (v : Part) : (s.setPart p v).mem = s.mem := rfl
@[simp] theorem State.setPart_faults (s : State) (p : Nat) (v : Part) : (s.setPart p v).faults = s.faults := rfl
@[simp] theorem State.setPart_deadWires (s : State) (p : Nat) (v : Part) : (s.setPart p v).deadWires = s.deadWires := rfl
@[simp] theorem State.setPart_spareCopy (s : State) (p : Nat) (v : Part) : (s.setPart p v).spareCopy = s.spareCopy := rfl
@[simp] theorem State.setPart_sram (s : State) (p : Nat) (v : Part) : (s.setPart p v).sram = s.sram := rfl
@[simp] theorem State.setPart_ondie (s : State) (p : Nat) (v : Part) : (s.setPart p v).ondie = s.ondie := rfl
@[simp] theorem State.setPart_rowSpares (s : State) (p : Nat) (v : Part) : (s.setPart p v).rowSpares = s.rowSpares := rfl
@[simp] theorem State.setPart_retired (s : State) (p : Nat) (v : Part) : (s.setPart p v).retired = s.retired := rfl
@[simp] theorem State.setPart_hostMem (s : State) (p : Nat) (v : Part) : (s.setPart p v).hostMem = s.hostMem := rfl
@[simp] theorem State.setPart_hostOk (s : State) (p : Nat) (v : Part) : (s.setPart p v).hostOk = s.hostOk := rfl
@[simp] theorem State.setPart_cmds (s : State) (p : Nat) (v : Part) : (s.setPart p v).cmds = s.cmds := rfl
@[simp] theorem State.setPart_rings (s : State) (p : Nat) (v : Part) : (s.setPart p v).rings = s.rings := rfl
@[simp] theorem State.setPart_lastRing (s : State) (p : Nat) (v : Part) : (s.setPart p v).lastRing = s.lastRing := rfl
@[simp] theorem State.setPart_msix (s : State) (p : Nat) (v : Part) : (s.setPart p v).msix = s.msix := rfl
@[simp] theorem State.setPart_mgmtOut (s : State) (p : Nat) (v : Part) : (s.setPart p v).mgmtOut = s.mgmtOut := rfl
@[simp] theorem State.setPart_logSeq (s : State) (p : Nat) (v : Part) : (s.setPart p v).logSeq = s.logSeq := rfl
@[simp] theorem State.setPart_logLost (s : State) (p : Nat) (v : Part) : (s.setPart p v).logLost = s.logLost := rfl
@[simp] theorem State.setPart_holdoff (s : State) (p : Nat) (v : Part) : (s.setPart p v).holdoff = s.holdoff := rfl
@[simp] theorem State.setPart_heldIrq (s : State) (p : Nat) (v : Part) : (s.setPart p v).heldIrq = s.heldIrq := rfl
@[simp] theorem State.setPart_heldRecs (s : State) (p : Nat) (v : Part) : (s.setPart p v).heldRecs = s.heldRecs := rfl
@[simp] theorem State.setPart_pfLogOpened (s : State) (p : Nat) (v : Part) : (s.setPart p v).pfLogOpened = s.pfLogOpened := rfl
@[simp] theorem State.setPart_regs (s : State) (p : Nat) (v : Part) : (s.setPart p v).regs = s.regs := rfl
@[simp] theorem State.setPart_stage (s : State) (p : Nat) (v : Part) : (s.setPart p v).stage = s.stage := rfl
@[simp] theorem State.setPart_commitSites (s : State) (p : Nat) (v : Part) : (s.setPart p v).commitSites = s.commitSites := rfl
@[simp] theorem State.setPart_scrubPos (s : State) (p : Nat) (v : Part) : (s.setPart p v).scrubPos = s.scrubPos := rfl
@[simp] theorem State.setPart_gustWords (s : State) (p : Nat) (v : Part) : (s.setPart p v).gustWords = s.gustWords := rfl
@[simp] theorem State.setPart_msClock (s : State) (p : Nat) (v : Part) : (s.setPart p v).msClock = s.msClock := rfl
@[simp] theorem State.setPart_losses (s : State) (p : Nat) (v : Part) : (s.setPart p v).losses = s.losses := rfl
@[simp] theorem State.setPart_phase (s : State) (p : Nat) (v : Part) : (s.setPart p v).phase = s.phase := rfl
@[simp] theorem State.setPart_cores (s : State) (p : Nat) (v : Part) : (s.setPart p v).cores = s.cores := rfl
@[simp] theorem State.setPart_groups (s : State) (p : Nat) (v : Part) : (s.setPart p v).groups = s.groups := rfl
@[simp] theorem State.setPart_metering (s : State) (p : Nat) (v : Part) : (s.setPart p v).metering = s.metering := rfl
@[simp] theorem State.setPart_badGroups (s : State) (p : Nat) (v : Part) : (s.setPart p v).badGroups = s.badGroups := rfl
@[simp] theorem State.setPart_atomHeld (s : State) (p : Nat) (v : Part) : (s.setPart p v).atomHeld = s.atomHeld := rfl
@[simp] theorem State.setPart_engines (s : State) (p : Nat) (v : Part) : (s.setPart p v).engines = s.engines := rfl
@[simp] theorem State.setPart_links (s : State) (p : Nat) (v : Part) : (s.setPart p v).links = s.links := rfl
@[simp] theorem State.setPart_transitFaults (s : State) (p : Nat) (v : Part) : (s.setPart p v).transitFaults = s.transitFaults := rfl
@[simp] theorem State.setPart_marshDebt (s : State) (p : Nat) (v : Part) : (s.setPart p v).marshDebt = s.marshDebt := rfl
@[simp] theorem State.setPart_selfRefresh (s : State) (p : Nat) (v : Part) : (s.setPart p v).selfRefresh = s.selfRefresh := rfl
@[simp] theorem State.setPart_xports (s : State) (p : Nat) (v : Part) : (s.setPart p v).xports = s.xports := rfl
@[simp] theorem State.setPart_xniHeld (s : State) (p : Nat) (v : Part) : (s.setPart p v).xniHeld = s.xniHeld := rfl
@[simp] theorem State.setPart_xniWait (s : State) (p : Nat) (v : Part) : (s.setPart p v).xniWait = s.xniWait := rfl
@[simp] theorem State.setPart_xniIn (s : State) (p : Nat) (v : Part) : (s.setPart p v).xniIn = s.xniIn := rfl
@[simp] theorem State.setPart_xniOut (s : State) (p : Nat) (v : Part) : (s.setPart p v).xniOut = s.xniOut := rfl
@[simp] theorem State.setPart_markersOut (s : State) (p : Nat) (v : Part) : (s.setPart p v).markersOut = s.markersOut := rfl
@[simp] theorem State.setPart_sync (s : State) (p : Nat) (v : Part) : (s.setPart p v).sync = s.sync := rfl
@[simp] theorem State.setPart_answers (s : State) (p : Nat) (v : Part) : (s.setPart p v).answers = s.answers := rfl
@[simp] theorem State.setPart_peatBlocks (s : State) (p : Nat) (v : Part) : (s.setPart p v).peatBlocks = s.peatBlocks := rfl
@[simp] theorem State.setPart_peatSaved (s : State) (p : Nat) (v : Part) : (s.setPart p v).peatSaved = s.peatSaved := rfl
@[simp] theorem State.setPart_peatBad (s : State) (p : Nat) (v : Part) : (s.setPart p v).peatBad = s.peatBad := rfl
@[simp] theorem State.setPart_peatData (s : State) (p : Nat) (v : Part) : (s.setPart p v).peatData = s.peatData := rfl
@[simp] theorem State.setPart_peatMap (s : State) (p : Nat) (v : Part) : (s.setPart p v).peatMap = s.peatMap := rfl
@[simp] theorem State.setPart_peatMapNew (s : State) (p : Nat) (v : Part) : (s.setPart p v).peatMapNew = s.peatMapNew := rfl
@[simp] theorem State.setPart_nand (s : State) (p : Nat) (v : Part) : (s.setPart p v).nand = s.nand := rfl
@[simp] theorem State.setPart_wear (s : State) (p : Nat) (v : Part) : (s.setPart p v).wear = s.wear := rfl
@[simp] theorem State.setPart_wearSaved (s : State) (p : Nat) (v : Part) : (s.setPart p v).wearSaved = s.wearSaved := rfl
@[simp] theorem State.setPart_repairMap (s : State) (p : Nat) (v : Part) : (s.setPart p v).repairMap = s.repairMap := rfl
@[simp] theorem State.setPart_repairVer (s : State) (p : Nat) (v : Part) : (s.setPart p v).repairVer = s.repairVer := rfl
@[simp] theorem State.setPart_flashMap (s : State) (p : Nat) (v : Part) : (s.setPart p v).flashMap = s.flashMap := rfl
@[simp] theorem State.setPart_flashVer (s : State) (p : Nat) (v : Part) : (s.setPart p v).flashVer = s.flashVer := rfl
@[simp] theorem State.setPart_licWord (s : State) (p : Nat) (v : Part) : (s.setPart p v).licWord = s.licWord := rfl
@[simp] theorem State.setPart_deskew (s : State) (p : Nat) (v : Part) : (s.setPart p v).deskew = s.deskew := rfl
@[simp] theorem State.setPart_peatTrained (s : State) (p : Nat) (v : Part) : (s.setPart p v).peatTrained = s.peatTrained := rfl
@[simp] theorem State.setPart_mons (s : State) (p : Nat) (v : Part) : (s.setPart p v).mons = s.mons := rfl
@[simp] theorem State.setPart_prodSeen (s : State) (p : Nat) (v : Part) : (s.setPart p v).prodSeen = s.prodSeen := rfl
@[simp] theorem State.setPart_therm (s : State) (p : Nat) (v : Part) : (s.setPart p v).therm = s.therm := rfl
@[simp] theorem State.setPart_always (s : State) (p : Nat) (v : Part) : (s.setPart p v).always = s.always := rfl
@[simp] theorem State.setPart_flash (s : State) (p : Nat) (v : Part) : (s.setPart p v).flash = s.flash := rfl
@[simp] theorem State.setPart_tapState (s : State) (p : Nat) (v : Part) : (s.setPart p v).tapState = s.tapState := rfl
@[simp] theorem State.setPart_mgmt (s : State) (p : Nat) (v : Part) : (s.setPart p v).mgmt = s.mgmt := rfl
@[simp] theorem State.setPart_mctpOut (s : State) (p : Nat) (v : Part) : (s.setPart p v).mctpOut = s.mctpOut := rfl
@[simp] theorem State.setPart_get (s : State) (p : Nat) (v : Part) (x : Fld) (y : Nat) : (s.setPart p v).get x y = s.get x y := rfl

/-! ### setRing -/

@[simp] theorem State.setRing_pending (s : State) (r : Nat) (v : Ring) : (s.setRing r v).pending = s.pending := rfl
@[simp] theorem State.setRing_freeCtr (s : State) (r : Nat) (v : Ring) : (s.setRing r v).freeCtr = s.freeCtr := rfl
@[simp] theorem State.setRing_flds (s : State) (r : Nat) (v : Ring) : (s.setRing r v).flds = s.flds := rfl
@[simp] theorem State.setRing_eff (s : State) (r : Nat) (v : Ring) : (s.setRing r v).eff = s.eff := rfl
@[simp] theorem State.setRing_vfEnable (s : State) (r : Nat) (v : Ring) : (s.setRing r v).vfEnable = s.vfEnable := rfl
@[simp] theorem State.setRing_mem (s : State) (r : Nat) (v : Ring) : (s.setRing r v).mem = s.mem := rfl
@[simp] theorem State.setRing_faults (s : State) (r : Nat) (v : Ring) : (s.setRing r v).faults = s.faults := rfl
@[simp] theorem State.setRing_deadWires (s : State) (r : Nat) (v : Ring) : (s.setRing r v).deadWires = s.deadWires := rfl
@[simp] theorem State.setRing_spareCopy (s : State) (r : Nat) (v : Ring) : (s.setRing r v).spareCopy = s.spareCopy := rfl
@[simp] theorem State.setRing_sram (s : State) (r : Nat) (v : Ring) : (s.setRing r v).sram = s.sram := rfl
@[simp] theorem State.setRing_ondie (s : State) (r : Nat) (v : Ring) : (s.setRing r v).ondie = s.ondie := rfl
@[simp] theorem State.setRing_rowSpares (s : State) (r : Nat) (v : Ring) : (s.setRing r v).rowSpares = s.rowSpares := rfl
@[simp] theorem State.setRing_retired (s : State) (r : Nat) (v : Ring) : (s.setRing r v).retired = s.retired := rfl
@[simp] theorem State.setRing_hostMem (s : State) (r : Nat) (v : Ring) : (s.setRing r v).hostMem = s.hostMem := rfl
@[simp] theorem State.setRing_hostOk (s : State) (r : Nat) (v : Ring) : (s.setRing r v).hostOk = s.hostOk := rfl
@[simp] theorem State.setRing_cmds (s : State) (r : Nat) (v : Ring) : (s.setRing r v).cmds = s.cmds := rfl
@[simp] theorem State.setRing_lastRing (s : State) (r : Nat) (v : Ring) : (s.setRing r v).lastRing = s.lastRing := rfl
@[simp] theorem State.setRing_msix (s : State) (r : Nat) (v : Ring) : (s.setRing r v).msix = s.msix := rfl
@[simp] theorem State.setRing_mgmtOut (s : State) (r : Nat) (v : Ring) : (s.setRing r v).mgmtOut = s.mgmtOut := rfl
@[simp] theorem State.setRing_logSeq (s : State) (r : Nat) (v : Ring) : (s.setRing r v).logSeq = s.logSeq := rfl
@[simp] theorem State.setRing_logLost (s : State) (r : Nat) (v : Ring) : (s.setRing r v).logLost = s.logLost := rfl
@[simp] theorem State.setRing_holdoff (s : State) (r : Nat) (v : Ring) : (s.setRing r v).holdoff = s.holdoff := rfl
@[simp] theorem State.setRing_heldIrq (s : State) (r : Nat) (v : Ring) : (s.setRing r v).heldIrq = s.heldIrq := rfl
@[simp] theorem State.setRing_heldRecs (s : State) (r : Nat) (v : Ring) : (s.setRing r v).heldRecs = s.heldRecs := rfl
@[simp] theorem State.setRing_pfLogOpened (s : State) (r : Nat) (v : Ring) : (s.setRing r v).pfLogOpened = s.pfLogOpened := rfl
@[simp] theorem State.setRing_parts (s : State) (r : Nat) (v : Ring) : (s.setRing r v).parts = s.parts := rfl
@[simp] theorem State.setRing_regs (s : State) (r : Nat) (v : Ring) : (s.setRing r v).regs = s.regs := rfl
@[simp] theorem State.setRing_stage (s : State) (r : Nat) (v : Ring) : (s.setRing r v).stage = s.stage := rfl
@[simp] theorem State.setRing_commitSites (s : State) (r : Nat) (v : Ring) : (s.setRing r v).commitSites = s.commitSites := rfl
@[simp] theorem State.setRing_scrubPos (s : State) (r : Nat) (v : Ring) : (s.setRing r v).scrubPos = s.scrubPos := rfl
@[simp] theorem State.setRing_gustWords (s : State) (r : Nat) (v : Ring) : (s.setRing r v).gustWords = s.gustWords := rfl
@[simp] theorem State.setRing_msClock (s : State) (r : Nat) (v : Ring) : (s.setRing r v).msClock = s.msClock := rfl
@[simp] theorem State.setRing_losses (s : State) (r : Nat) (v : Ring) : (s.setRing r v).losses = s.losses := rfl
@[simp] theorem State.setRing_phase (s : State) (r : Nat) (v : Ring) : (s.setRing r v).phase = s.phase := rfl
@[simp] theorem State.setRing_cores (s : State) (r : Nat) (v : Ring) : (s.setRing r v).cores = s.cores := rfl
@[simp] theorem State.setRing_groups (s : State) (r : Nat) (v : Ring) : (s.setRing r v).groups = s.groups := rfl
@[simp] theorem State.setRing_metering (s : State) (r : Nat) (v : Ring) : (s.setRing r v).metering = s.metering := rfl
@[simp] theorem State.setRing_badGroups (s : State) (r : Nat) (v : Ring) : (s.setRing r v).badGroups = s.badGroups := rfl
@[simp] theorem State.setRing_atomHeld (s : State) (r : Nat) (v : Ring) : (s.setRing r v).atomHeld = s.atomHeld := rfl
@[simp] theorem State.setRing_engines (s : State) (r : Nat) (v : Ring) : (s.setRing r v).engines = s.engines := rfl
@[simp] theorem State.setRing_links (s : State) (r : Nat) (v : Ring) : (s.setRing r v).links = s.links := rfl
@[simp] theorem State.setRing_transitFaults (s : State) (r : Nat) (v : Ring) : (s.setRing r v).transitFaults = s.transitFaults := rfl
@[simp] theorem State.setRing_marshDebt (s : State) (r : Nat) (v : Ring) : (s.setRing r v).marshDebt = s.marshDebt := rfl
@[simp] theorem State.setRing_selfRefresh (s : State) (r : Nat) (v : Ring) : (s.setRing r v).selfRefresh = s.selfRefresh := rfl
@[simp] theorem State.setRing_xports (s : State) (r : Nat) (v : Ring) : (s.setRing r v).xports = s.xports := rfl
@[simp] theorem State.setRing_xniHeld (s : State) (r : Nat) (v : Ring) : (s.setRing r v).xniHeld = s.xniHeld := rfl
@[simp] theorem State.setRing_xniWait (s : State) (r : Nat) (v : Ring) : (s.setRing r v).xniWait = s.xniWait := rfl
@[simp] theorem State.setRing_xniIn (s : State) (r : Nat) (v : Ring) : (s.setRing r v).xniIn = s.xniIn := rfl
@[simp] theorem State.setRing_xniOut (s : State) (r : Nat) (v : Ring) : (s.setRing r v).xniOut = s.xniOut := rfl
@[simp] theorem State.setRing_markersOut (s : State) (r : Nat) (v : Ring) : (s.setRing r v).markersOut = s.markersOut := rfl
@[simp] theorem State.setRing_sync (s : State) (r : Nat) (v : Ring) : (s.setRing r v).sync = s.sync := rfl
@[simp] theorem State.setRing_answers (s : State) (r : Nat) (v : Ring) : (s.setRing r v).answers = s.answers := rfl
@[simp] theorem State.setRing_peatBlocks (s : State) (r : Nat) (v : Ring) : (s.setRing r v).peatBlocks = s.peatBlocks := rfl
@[simp] theorem State.setRing_peatSaved (s : State) (r : Nat) (v : Ring) : (s.setRing r v).peatSaved = s.peatSaved := rfl
@[simp] theorem State.setRing_peatBad (s : State) (r : Nat) (v : Ring) : (s.setRing r v).peatBad = s.peatBad := rfl
@[simp] theorem State.setRing_peatData (s : State) (r : Nat) (v : Ring) : (s.setRing r v).peatData = s.peatData := rfl
@[simp] theorem State.setRing_peatMap (s : State) (r : Nat) (v : Ring) : (s.setRing r v).peatMap = s.peatMap := rfl
@[simp] theorem State.setRing_peatMapNew (s : State) (r : Nat) (v : Ring) : (s.setRing r v).peatMapNew = s.peatMapNew := rfl
@[simp] theorem State.setRing_nand (s : State) (r : Nat) (v : Ring) : (s.setRing r v).nand = s.nand := rfl
@[simp] theorem State.setRing_wear (s : State) (r : Nat) (v : Ring) : (s.setRing r v).wear = s.wear := rfl
@[simp] theorem State.setRing_wearSaved (s : State) (r : Nat) (v : Ring) : (s.setRing r v).wearSaved = s.wearSaved := rfl
@[simp] theorem State.setRing_repairMap (s : State) (r : Nat) (v : Ring) : (s.setRing r v).repairMap = s.repairMap := rfl
@[simp] theorem State.setRing_repairVer (s : State) (r : Nat) (v : Ring) : (s.setRing r v).repairVer = s.repairVer := rfl
@[simp] theorem State.setRing_flashMap (s : State) (r : Nat) (v : Ring) : (s.setRing r v).flashMap = s.flashMap := rfl
@[simp] theorem State.setRing_flashVer (s : State) (r : Nat) (v : Ring) : (s.setRing r v).flashVer = s.flashVer := rfl
@[simp] theorem State.setRing_licWord (s : State) (r : Nat) (v : Ring) : (s.setRing r v).licWord = s.licWord := rfl
@[simp] theorem State.setRing_deskew (s : State) (r : Nat) (v : Ring) : (s.setRing r v).deskew = s.deskew := rfl
@[simp] theorem State.setRing_peatTrained (s : State) (r : Nat) (v : Ring) : (s.setRing r v).peatTrained = s.peatTrained := rfl
@[simp] theorem State.setRing_mons (s : State) (r : Nat) (v : Ring) : (s.setRing r v).mons = s.mons := rfl
@[simp] theorem State.setRing_prodSeen (s : State) (r : Nat) (v : Ring) : (s.setRing r v).prodSeen = s.prodSeen := rfl
@[simp] theorem State.setRing_therm (s : State) (r : Nat) (v : Ring) : (s.setRing r v).therm = s.therm := rfl
@[simp] theorem State.setRing_always (s : State) (r : Nat) (v : Ring) : (s.setRing r v).always = s.always := rfl
@[simp] theorem State.setRing_flash (s : State) (r : Nat) (v : Ring) : (s.setRing r v).flash = s.flash := rfl
@[simp] theorem State.setRing_tapState (s : State) (r : Nat) (v : Ring) : (s.setRing r v).tapState = s.tapState := rfl
@[simp] theorem State.setRing_mgmt (s : State) (r : Nat) (v : Ring) : (s.setRing r v).mgmt = s.mgmt := rfl
@[simp] theorem State.setRing_mctpOut (s : State) (r : Nat) (v : Ring) : (s.setRing r v).mctpOut = s.mctpOut := rfl
@[simp] theorem State.setRing_get (s : State) (r : Nat) (v : Ring) (x : Fld) (y : Nat) : (s.setRing r v).get x y = s.get x y := rfl

/-! ### setEngine -/

@[simp] theorem State.setEngine_pending (s : State) (e : Nat) (v : DmaEng) : (s.setEngine e v).pending = s.pending := rfl
@[simp] theorem State.setEngine_freeCtr (s : State) (e : Nat) (v : DmaEng) : (s.setEngine e v).freeCtr = s.freeCtr := rfl
@[simp] theorem State.setEngine_flds (s : State) (e : Nat) (v : DmaEng) : (s.setEngine e v).flds = s.flds := rfl
@[simp] theorem State.setEngine_eff (s : State) (e : Nat) (v : DmaEng) : (s.setEngine e v).eff = s.eff := rfl
@[simp] theorem State.setEngine_vfEnable (s : State) (e : Nat) (v : DmaEng) : (s.setEngine e v).vfEnable = s.vfEnable := rfl
@[simp] theorem State.setEngine_mem (s : State) (e : Nat) (v : DmaEng) : (s.setEngine e v).mem = s.mem := rfl
@[simp] theorem State.setEngine_faults (s : State) (e : Nat) (v : DmaEng) : (s.setEngine e v).faults = s.faults := rfl
@[simp] theorem State.setEngine_deadWires (s : State) (e : Nat) (v : DmaEng) : (s.setEngine e v).deadWires = s.deadWires := rfl
@[simp] theorem State.setEngine_spareCopy (s : State) (e : Nat) (v : DmaEng) : (s.setEngine e v).spareCopy = s.spareCopy := rfl
@[simp] theorem State.setEngine_sram (s : State) (e : Nat) (v : DmaEng) : (s.setEngine e v).sram = s.sram := rfl
@[simp] theorem State.setEngine_ondie (s : State) (e : Nat) (v : DmaEng) : (s.setEngine e v).ondie = s.ondie := rfl
@[simp] theorem State.setEngine_rowSpares (s : State) (e : Nat) (v : DmaEng) : (s.setEngine e v).rowSpares = s.rowSpares := rfl
@[simp] theorem State.setEngine_retired (s : State) (e : Nat) (v : DmaEng) : (s.setEngine e v).retired = s.retired := rfl
@[simp] theorem State.setEngine_hostMem (s : State) (e : Nat) (v : DmaEng) : (s.setEngine e v).hostMem = s.hostMem := rfl
@[simp] theorem State.setEngine_hostOk (s : State) (e : Nat) (v : DmaEng) : (s.setEngine e v).hostOk = s.hostOk := rfl
@[simp] theorem State.setEngine_cmds (s : State) (e : Nat) (v : DmaEng) : (s.setEngine e v).cmds = s.cmds := rfl
@[simp] theorem State.setEngine_rings (s : State) (e : Nat) (v : DmaEng) : (s.setEngine e v).rings = s.rings := rfl
@[simp] theorem State.setEngine_lastRing (s : State) (e : Nat) (v : DmaEng) : (s.setEngine e v).lastRing = s.lastRing := rfl
@[simp] theorem State.setEngine_msix (s : State) (e : Nat) (v : DmaEng) : (s.setEngine e v).msix = s.msix := rfl
@[simp] theorem State.setEngine_mgmtOut (s : State) (e : Nat) (v : DmaEng) : (s.setEngine e v).mgmtOut = s.mgmtOut := rfl
@[simp] theorem State.setEngine_logSeq (s : State) (e : Nat) (v : DmaEng) : (s.setEngine e v).logSeq = s.logSeq := rfl
@[simp] theorem State.setEngine_logLost (s : State) (e : Nat) (v : DmaEng) : (s.setEngine e v).logLost = s.logLost := rfl
@[simp] theorem State.setEngine_holdoff (s : State) (e : Nat) (v : DmaEng) : (s.setEngine e v).holdoff = s.holdoff := rfl
@[simp] theorem State.setEngine_heldIrq (s : State) (e : Nat) (v : DmaEng) : (s.setEngine e v).heldIrq = s.heldIrq := rfl
@[simp] theorem State.setEngine_heldRecs (s : State) (e : Nat) (v : DmaEng) : (s.setEngine e v).heldRecs = s.heldRecs := rfl
@[simp] theorem State.setEngine_pfLogOpened (s : State) (e : Nat) (v : DmaEng) : (s.setEngine e v).pfLogOpened = s.pfLogOpened := rfl
@[simp] theorem State.setEngine_parts (s : State) (e : Nat) (v : DmaEng) : (s.setEngine e v).parts = s.parts := rfl
@[simp] theorem State.setEngine_regs (s : State) (e : Nat) (v : DmaEng) : (s.setEngine e v).regs = s.regs := rfl
@[simp] theorem State.setEngine_stage (s : State) (e : Nat) (v : DmaEng) : (s.setEngine e v).stage = s.stage := rfl
@[simp] theorem State.setEngine_commitSites (s : State) (e : Nat) (v : DmaEng) : (s.setEngine e v).commitSites = s.commitSites := rfl
@[simp] theorem State.setEngine_scrubPos (s : State) (e : Nat) (v : DmaEng) : (s.setEngine e v).scrubPos = s.scrubPos := rfl
@[simp] theorem State.setEngine_gustWords (s : State) (e : Nat) (v : DmaEng) : (s.setEngine e v).gustWords = s.gustWords := rfl
@[simp] theorem State.setEngine_msClock (s : State) (e : Nat) (v : DmaEng) : (s.setEngine e v).msClock = s.msClock := rfl
@[simp] theorem State.setEngine_losses (s : State) (e : Nat) (v : DmaEng) : (s.setEngine e v).losses = s.losses := rfl
@[simp] theorem State.setEngine_phase (s : State) (e : Nat) (v : DmaEng) : (s.setEngine e v).phase = s.phase := rfl
@[simp] theorem State.setEngine_cores (s : State) (e : Nat) (v : DmaEng) : (s.setEngine e v).cores = s.cores := rfl
@[simp] theorem State.setEngine_groups (s : State) (e : Nat) (v : DmaEng) : (s.setEngine e v).groups = s.groups := rfl
@[simp] theorem State.setEngine_metering (s : State) (e : Nat) (v : DmaEng) : (s.setEngine e v).metering = s.metering := rfl
@[simp] theorem State.setEngine_badGroups (s : State) (e : Nat) (v : DmaEng) : (s.setEngine e v).badGroups = s.badGroups := rfl
@[simp] theorem State.setEngine_atomHeld (s : State) (e : Nat) (v : DmaEng) : (s.setEngine e v).atomHeld = s.atomHeld := rfl
@[simp] theorem State.setEngine_links (s : State) (e : Nat) (v : DmaEng) : (s.setEngine e v).links = s.links := rfl
@[simp] theorem State.setEngine_transitFaults (s : State) (e : Nat) (v : DmaEng) : (s.setEngine e v).transitFaults = s.transitFaults := rfl
@[simp] theorem State.setEngine_marshDebt (s : State) (e : Nat) (v : DmaEng) : (s.setEngine e v).marshDebt = s.marshDebt := rfl
@[simp] theorem State.setEngine_selfRefresh (s : State) (e : Nat) (v : DmaEng) : (s.setEngine e v).selfRefresh = s.selfRefresh := rfl
@[simp] theorem State.setEngine_xports (s : State) (e : Nat) (v : DmaEng) : (s.setEngine e v).xports = s.xports := rfl
@[simp] theorem State.setEngine_xniHeld (s : State) (e : Nat) (v : DmaEng) : (s.setEngine e v).xniHeld = s.xniHeld := rfl
@[simp] theorem State.setEngine_xniWait (s : State) (e : Nat) (v : DmaEng) : (s.setEngine e v).xniWait = s.xniWait := rfl
@[simp] theorem State.setEngine_xniIn (s : State) (e : Nat) (v : DmaEng) : (s.setEngine e v).xniIn = s.xniIn := rfl
@[simp] theorem State.setEngine_xniOut (s : State) (e : Nat) (v : DmaEng) : (s.setEngine e v).xniOut = s.xniOut := rfl
@[simp] theorem State.setEngine_markersOut (s : State) (e : Nat) (v : DmaEng) : (s.setEngine e v).markersOut = s.markersOut := rfl
@[simp] theorem State.setEngine_sync (s : State) (e : Nat) (v : DmaEng) : (s.setEngine e v).sync = s.sync := rfl
@[simp] theorem State.setEngine_answers (s : State) (e : Nat) (v : DmaEng) : (s.setEngine e v).answers = s.answers := rfl
@[simp] theorem State.setEngine_peatBlocks (s : State) (e : Nat) (v : DmaEng) : (s.setEngine e v).peatBlocks = s.peatBlocks := rfl
@[simp] theorem State.setEngine_peatSaved (s : State) (e : Nat) (v : DmaEng) : (s.setEngine e v).peatSaved = s.peatSaved := rfl
@[simp] theorem State.setEngine_peatBad (s : State) (e : Nat) (v : DmaEng) : (s.setEngine e v).peatBad = s.peatBad := rfl
@[simp] theorem State.setEngine_peatData (s : State) (e : Nat) (v : DmaEng) : (s.setEngine e v).peatData = s.peatData := rfl
@[simp] theorem State.setEngine_peatMap (s : State) (e : Nat) (v : DmaEng) : (s.setEngine e v).peatMap = s.peatMap := rfl
@[simp] theorem State.setEngine_peatMapNew (s : State) (e : Nat) (v : DmaEng) : (s.setEngine e v).peatMapNew = s.peatMapNew := rfl
@[simp] theorem State.setEngine_nand (s : State) (e : Nat) (v : DmaEng) : (s.setEngine e v).nand = s.nand := rfl
@[simp] theorem State.setEngine_wear (s : State) (e : Nat) (v : DmaEng) : (s.setEngine e v).wear = s.wear := rfl
@[simp] theorem State.setEngine_wearSaved (s : State) (e : Nat) (v : DmaEng) : (s.setEngine e v).wearSaved = s.wearSaved := rfl
@[simp] theorem State.setEngine_repairMap (s : State) (e : Nat) (v : DmaEng) : (s.setEngine e v).repairMap = s.repairMap := rfl
@[simp] theorem State.setEngine_repairVer (s : State) (e : Nat) (v : DmaEng) : (s.setEngine e v).repairVer = s.repairVer := rfl
@[simp] theorem State.setEngine_flashMap (s : State) (e : Nat) (v : DmaEng) : (s.setEngine e v).flashMap = s.flashMap := rfl
@[simp] theorem State.setEngine_flashVer (s : State) (e : Nat) (v : DmaEng) : (s.setEngine e v).flashVer = s.flashVer := rfl
@[simp] theorem State.setEngine_licWord (s : State) (e : Nat) (v : DmaEng) : (s.setEngine e v).licWord = s.licWord := rfl
@[simp] theorem State.setEngine_deskew (s : State) (e : Nat) (v : DmaEng) : (s.setEngine e v).deskew = s.deskew := rfl
@[simp] theorem State.setEngine_peatTrained (s : State) (e : Nat) (v : DmaEng) : (s.setEngine e v).peatTrained = s.peatTrained := rfl
@[simp] theorem State.setEngine_mons (s : State) (e : Nat) (v : DmaEng) : (s.setEngine e v).mons = s.mons := rfl
@[simp] theorem State.setEngine_prodSeen (s : State) (e : Nat) (v : DmaEng) : (s.setEngine e v).prodSeen = s.prodSeen := rfl
@[simp] theorem State.setEngine_therm (s : State) (e : Nat) (v : DmaEng) : (s.setEngine e v).therm = s.therm := rfl
@[simp] theorem State.setEngine_always (s : State) (e : Nat) (v : DmaEng) : (s.setEngine e v).always = s.always := rfl
@[simp] theorem State.setEngine_flash (s : State) (e : Nat) (v : DmaEng) : (s.setEngine e v).flash = s.flash := rfl
@[simp] theorem State.setEngine_tapState (s : State) (e : Nat) (v : DmaEng) : (s.setEngine e v).tapState = s.tapState := rfl
@[simp] theorem State.setEngine_mgmt (s : State) (e : Nat) (v : DmaEng) : (s.setEngine e v).mgmt = s.mgmt := rfl
@[simp] theorem State.setEngine_mctpOut (s : State) (e : Nat) (v : DmaEng) : (s.setEngine e v).mctpOut = s.mctpOut := rfl
@[simp] theorem State.setEngine_get (s : State) (e : Nat) (v : DmaEng) (x : Fld) (y : Nat) : (s.setEngine e v).get x y = s.get x y := rfl

/-! ### setLink -/

@[simp] theorem State.setLink_pending (s : State) (l : Nat) (v : Link) : (s.setLink l v).pending = s.pending := rfl
@[simp] theorem State.setLink_freeCtr (s : State) (l : Nat) (v : Link) : (s.setLink l v).freeCtr = s.freeCtr := rfl
@[simp] theorem State.setLink_flds (s : State) (l : Nat) (v : Link) : (s.setLink l v).flds = s.flds := rfl
@[simp] theorem State.setLink_eff (s : State) (l : Nat) (v : Link) : (s.setLink l v).eff = s.eff := rfl
@[simp] theorem State.setLink_vfEnable (s : State) (l : Nat) (v : Link) : (s.setLink l v).vfEnable = s.vfEnable := rfl
@[simp] theorem State.setLink_mem (s : State) (l : Nat) (v : Link) : (s.setLink l v).mem = s.mem := rfl
@[simp] theorem State.setLink_faults (s : State) (l : Nat) (v : Link) : (s.setLink l v).faults = s.faults := rfl
@[simp] theorem State.setLink_deadWires (s : State) (l : Nat) (v : Link) : (s.setLink l v).deadWires = s.deadWires := rfl
@[simp] theorem State.setLink_spareCopy (s : State) (l : Nat) (v : Link) : (s.setLink l v).spareCopy = s.spareCopy := rfl
@[simp] theorem State.setLink_sram (s : State) (l : Nat) (v : Link) : (s.setLink l v).sram = s.sram := rfl
@[simp] theorem State.setLink_ondie (s : State) (l : Nat) (v : Link) : (s.setLink l v).ondie = s.ondie := rfl
@[simp] theorem State.setLink_rowSpares (s : State) (l : Nat) (v : Link) : (s.setLink l v).rowSpares = s.rowSpares := rfl
@[simp] theorem State.setLink_retired (s : State) (l : Nat) (v : Link) : (s.setLink l v).retired = s.retired := rfl
@[simp] theorem State.setLink_hostMem (s : State) (l : Nat) (v : Link) : (s.setLink l v).hostMem = s.hostMem := rfl
@[simp] theorem State.setLink_hostOk (s : State) (l : Nat) (v : Link) : (s.setLink l v).hostOk = s.hostOk := rfl
@[simp] theorem State.setLink_cmds (s : State) (l : Nat) (v : Link) : (s.setLink l v).cmds = s.cmds := rfl
@[simp] theorem State.setLink_rings (s : State) (l : Nat) (v : Link) : (s.setLink l v).rings = s.rings := rfl
@[simp] theorem State.setLink_lastRing (s : State) (l : Nat) (v : Link) : (s.setLink l v).lastRing = s.lastRing := rfl
@[simp] theorem State.setLink_msix (s : State) (l : Nat) (v : Link) : (s.setLink l v).msix = s.msix := rfl
@[simp] theorem State.setLink_mgmtOut (s : State) (l : Nat) (v : Link) : (s.setLink l v).mgmtOut = s.mgmtOut := rfl
@[simp] theorem State.setLink_logSeq (s : State) (l : Nat) (v : Link) : (s.setLink l v).logSeq = s.logSeq := rfl
@[simp] theorem State.setLink_logLost (s : State) (l : Nat) (v : Link) : (s.setLink l v).logLost = s.logLost := rfl
@[simp] theorem State.setLink_holdoff (s : State) (l : Nat) (v : Link) : (s.setLink l v).holdoff = s.holdoff := rfl
@[simp] theorem State.setLink_heldIrq (s : State) (l : Nat) (v : Link) : (s.setLink l v).heldIrq = s.heldIrq := rfl
@[simp] theorem State.setLink_heldRecs (s : State) (l : Nat) (v : Link) : (s.setLink l v).heldRecs = s.heldRecs := rfl
@[simp] theorem State.setLink_pfLogOpened (s : State) (l : Nat) (v : Link) : (s.setLink l v).pfLogOpened = s.pfLogOpened := rfl
@[simp] theorem State.setLink_parts (s : State) (l : Nat) (v : Link) : (s.setLink l v).parts = s.parts := rfl
@[simp] theorem State.setLink_regs (s : State) (l : Nat) (v : Link) : (s.setLink l v).regs = s.regs := rfl
@[simp] theorem State.setLink_stage (s : State) (l : Nat) (v : Link) : (s.setLink l v).stage = s.stage := rfl
@[simp] theorem State.setLink_commitSites (s : State) (l : Nat) (v : Link) : (s.setLink l v).commitSites = s.commitSites := rfl
@[simp] theorem State.setLink_scrubPos (s : State) (l : Nat) (v : Link) : (s.setLink l v).scrubPos = s.scrubPos := rfl
@[simp] theorem State.setLink_gustWords (s : State) (l : Nat) (v : Link) : (s.setLink l v).gustWords = s.gustWords := rfl
@[simp] theorem State.setLink_msClock (s : State) (l : Nat) (v : Link) : (s.setLink l v).msClock = s.msClock := rfl
@[simp] theorem State.setLink_losses (s : State) (l : Nat) (v : Link) : (s.setLink l v).losses = s.losses := rfl
@[simp] theorem State.setLink_phase (s : State) (l : Nat) (v : Link) : (s.setLink l v).phase = s.phase := rfl
@[simp] theorem State.setLink_cores (s : State) (l : Nat) (v : Link) : (s.setLink l v).cores = s.cores := rfl
@[simp] theorem State.setLink_groups (s : State) (l : Nat) (v : Link) : (s.setLink l v).groups = s.groups := rfl
@[simp] theorem State.setLink_metering (s : State) (l : Nat) (v : Link) : (s.setLink l v).metering = s.metering := rfl
@[simp] theorem State.setLink_badGroups (s : State) (l : Nat) (v : Link) : (s.setLink l v).badGroups = s.badGroups := rfl
@[simp] theorem State.setLink_atomHeld (s : State) (l : Nat) (v : Link) : (s.setLink l v).atomHeld = s.atomHeld := rfl
@[simp] theorem State.setLink_engines (s : State) (l : Nat) (v : Link) : (s.setLink l v).engines = s.engines := rfl
@[simp] theorem State.setLink_transitFaults (s : State) (l : Nat) (v : Link) : (s.setLink l v).transitFaults = s.transitFaults := rfl
@[simp] theorem State.setLink_marshDebt (s : State) (l : Nat) (v : Link) : (s.setLink l v).marshDebt = s.marshDebt := rfl
@[simp] theorem State.setLink_selfRefresh (s : State) (l : Nat) (v : Link) : (s.setLink l v).selfRefresh = s.selfRefresh := rfl
@[simp] theorem State.setLink_xports (s : State) (l : Nat) (v : Link) : (s.setLink l v).xports = s.xports := rfl
@[simp] theorem State.setLink_xniHeld (s : State) (l : Nat) (v : Link) : (s.setLink l v).xniHeld = s.xniHeld := rfl
@[simp] theorem State.setLink_xniWait (s : State) (l : Nat) (v : Link) : (s.setLink l v).xniWait = s.xniWait := rfl
@[simp] theorem State.setLink_xniIn (s : State) (l : Nat) (v : Link) : (s.setLink l v).xniIn = s.xniIn := rfl
@[simp] theorem State.setLink_xniOut (s : State) (l : Nat) (v : Link) : (s.setLink l v).xniOut = s.xniOut := rfl
@[simp] theorem State.setLink_markersOut (s : State) (l : Nat) (v : Link) : (s.setLink l v).markersOut = s.markersOut := rfl
@[simp] theorem State.setLink_sync (s : State) (l : Nat) (v : Link) : (s.setLink l v).sync = s.sync := rfl
@[simp] theorem State.setLink_answers (s : State) (l : Nat) (v : Link) : (s.setLink l v).answers = s.answers := rfl
@[simp] theorem State.setLink_peatBlocks (s : State) (l : Nat) (v : Link) : (s.setLink l v).peatBlocks = s.peatBlocks := rfl
@[simp] theorem State.setLink_peatSaved (s : State) (l : Nat) (v : Link) : (s.setLink l v).peatSaved = s.peatSaved := rfl
@[simp] theorem State.setLink_peatBad (s : State) (l : Nat) (v : Link) : (s.setLink l v).peatBad = s.peatBad := rfl
@[simp] theorem State.setLink_peatData (s : State) (l : Nat) (v : Link) : (s.setLink l v).peatData = s.peatData := rfl
@[simp] theorem State.setLink_peatMap (s : State) (l : Nat) (v : Link) : (s.setLink l v).peatMap = s.peatMap := rfl
@[simp] theorem State.setLink_peatMapNew (s : State) (l : Nat) (v : Link) : (s.setLink l v).peatMapNew = s.peatMapNew := rfl
@[simp] theorem State.setLink_nand (s : State) (l : Nat) (v : Link) : (s.setLink l v).nand = s.nand := rfl
@[simp] theorem State.setLink_wear (s : State) (l : Nat) (v : Link) : (s.setLink l v).wear = s.wear := rfl
@[simp] theorem State.setLink_wearSaved (s : State) (l : Nat) (v : Link) : (s.setLink l v).wearSaved = s.wearSaved := rfl
@[simp] theorem State.setLink_repairMap (s : State) (l : Nat) (v : Link) : (s.setLink l v).repairMap = s.repairMap := rfl
@[simp] theorem State.setLink_repairVer (s : State) (l : Nat) (v : Link) : (s.setLink l v).repairVer = s.repairVer := rfl
@[simp] theorem State.setLink_flashMap (s : State) (l : Nat) (v : Link) : (s.setLink l v).flashMap = s.flashMap := rfl
@[simp] theorem State.setLink_flashVer (s : State) (l : Nat) (v : Link) : (s.setLink l v).flashVer = s.flashVer := rfl
@[simp] theorem State.setLink_licWord (s : State) (l : Nat) (v : Link) : (s.setLink l v).licWord = s.licWord := rfl
@[simp] theorem State.setLink_deskew (s : State) (l : Nat) (v : Link) : (s.setLink l v).deskew = s.deskew := rfl
@[simp] theorem State.setLink_peatTrained (s : State) (l : Nat) (v : Link) : (s.setLink l v).peatTrained = s.peatTrained := rfl
@[simp] theorem State.setLink_mons (s : State) (l : Nat) (v : Link) : (s.setLink l v).mons = s.mons := rfl
@[simp] theorem State.setLink_prodSeen (s : State) (l : Nat) (v : Link) : (s.setLink l v).prodSeen = s.prodSeen := rfl
@[simp] theorem State.setLink_therm (s : State) (l : Nat) (v : Link) : (s.setLink l v).therm = s.therm := rfl
@[simp] theorem State.setLink_always (s : State) (l : Nat) (v : Link) : (s.setLink l v).always = s.always := rfl
@[simp] theorem State.setLink_flash (s : State) (l : Nat) (v : Link) : (s.setLink l v).flash = s.flash := rfl
@[simp] theorem State.setLink_tapState (s : State) (l : Nat) (v : Link) : (s.setLink l v).tapState = s.tapState := rfl
@[simp] theorem State.setLink_mgmt (s : State) (l : Nat) (v : Link) : (s.setLink l v).mgmt = s.mgmt := rfl
@[simp] theorem State.setLink_mctpOut (s : State) (l : Nat) (v : Link) : (s.setLink l v).mctpOut = s.mctpOut := rfl
@[simp] theorem State.setLink_get (s : State) (l : Nat) (v : Link) (x : Fld) (y : Nat) : (s.setLink l v).get x y = s.get x y := rfl

/-! ### setXport -/

@[simp] theorem State.setXport_pending (s : State) (k : Nat) (v : XPort) : (s.setXport k v).pending = s.pending := rfl
@[simp] theorem State.setXport_freeCtr (s : State) (k : Nat) (v : XPort) : (s.setXport k v).freeCtr = s.freeCtr := rfl
@[simp] theorem State.setXport_flds (s : State) (k : Nat) (v : XPort) : (s.setXport k v).flds = s.flds := rfl
@[simp] theorem State.setXport_eff (s : State) (k : Nat) (v : XPort) : (s.setXport k v).eff = s.eff := rfl
@[simp] theorem State.setXport_vfEnable (s : State) (k : Nat) (v : XPort) : (s.setXport k v).vfEnable = s.vfEnable := rfl
@[simp] theorem State.setXport_mem (s : State) (k : Nat) (v : XPort) : (s.setXport k v).mem = s.mem := rfl
@[simp] theorem State.setXport_faults (s : State) (k : Nat) (v : XPort) : (s.setXport k v).faults = s.faults := rfl
@[simp] theorem State.setXport_deadWires (s : State) (k : Nat) (v : XPort) : (s.setXport k v).deadWires = s.deadWires := rfl
@[simp] theorem State.setXport_spareCopy (s : State) (k : Nat) (v : XPort) : (s.setXport k v).spareCopy = s.spareCopy := rfl
@[simp] theorem State.setXport_sram (s : State) (k : Nat) (v : XPort) : (s.setXport k v).sram = s.sram := rfl
@[simp] theorem State.setXport_ondie (s : State) (k : Nat) (v : XPort) : (s.setXport k v).ondie = s.ondie := rfl
@[simp] theorem State.setXport_rowSpares (s : State) (k : Nat) (v : XPort) : (s.setXport k v).rowSpares = s.rowSpares := rfl
@[simp] theorem State.setXport_retired (s : State) (k : Nat) (v : XPort) : (s.setXport k v).retired = s.retired := rfl
@[simp] theorem State.setXport_hostMem (s : State) (k : Nat) (v : XPort) : (s.setXport k v).hostMem = s.hostMem := rfl
@[simp] theorem State.setXport_hostOk (s : State) (k : Nat) (v : XPort) : (s.setXport k v).hostOk = s.hostOk := rfl
@[simp] theorem State.setXport_cmds (s : State) (k : Nat) (v : XPort) : (s.setXport k v).cmds = s.cmds := rfl
@[simp] theorem State.setXport_rings (s : State) (k : Nat) (v : XPort) : (s.setXport k v).rings = s.rings := rfl
@[simp] theorem State.setXport_lastRing (s : State) (k : Nat) (v : XPort) : (s.setXport k v).lastRing = s.lastRing := rfl
@[simp] theorem State.setXport_msix (s : State) (k : Nat) (v : XPort) : (s.setXport k v).msix = s.msix := rfl
@[simp] theorem State.setXport_mgmtOut (s : State) (k : Nat) (v : XPort) : (s.setXport k v).mgmtOut = s.mgmtOut := rfl
@[simp] theorem State.setXport_logSeq (s : State) (k : Nat) (v : XPort) : (s.setXport k v).logSeq = s.logSeq := rfl
@[simp] theorem State.setXport_logLost (s : State) (k : Nat) (v : XPort) : (s.setXport k v).logLost = s.logLost := rfl
@[simp] theorem State.setXport_holdoff (s : State) (k : Nat) (v : XPort) : (s.setXport k v).holdoff = s.holdoff := rfl
@[simp] theorem State.setXport_heldIrq (s : State) (k : Nat) (v : XPort) : (s.setXport k v).heldIrq = s.heldIrq := rfl
@[simp] theorem State.setXport_heldRecs (s : State) (k : Nat) (v : XPort) : (s.setXport k v).heldRecs = s.heldRecs := rfl
@[simp] theorem State.setXport_pfLogOpened (s : State) (k : Nat) (v : XPort) : (s.setXport k v).pfLogOpened = s.pfLogOpened := rfl
@[simp] theorem State.setXport_parts (s : State) (k : Nat) (v : XPort) : (s.setXport k v).parts = s.parts := rfl
@[simp] theorem State.setXport_regs (s : State) (k : Nat) (v : XPort) : (s.setXport k v).regs = s.regs := rfl
@[simp] theorem State.setXport_stage (s : State) (k : Nat) (v : XPort) : (s.setXport k v).stage = s.stage := rfl
@[simp] theorem State.setXport_commitSites (s : State) (k : Nat) (v : XPort) : (s.setXport k v).commitSites = s.commitSites := rfl
@[simp] theorem State.setXport_scrubPos (s : State) (k : Nat) (v : XPort) : (s.setXport k v).scrubPos = s.scrubPos := rfl
@[simp] theorem State.setXport_gustWords (s : State) (k : Nat) (v : XPort) : (s.setXport k v).gustWords = s.gustWords := rfl
@[simp] theorem State.setXport_msClock (s : State) (k : Nat) (v : XPort) : (s.setXport k v).msClock = s.msClock := rfl
@[simp] theorem State.setXport_losses (s : State) (k : Nat) (v : XPort) : (s.setXport k v).losses = s.losses := rfl
@[simp] theorem State.setXport_phase (s : State) (k : Nat) (v : XPort) : (s.setXport k v).phase = s.phase := rfl
@[simp] theorem State.setXport_cores (s : State) (k : Nat) (v : XPort) : (s.setXport k v).cores = s.cores := rfl
@[simp] theorem State.setXport_groups (s : State) (k : Nat) (v : XPort) : (s.setXport k v).groups = s.groups := rfl
@[simp] theorem State.setXport_metering (s : State) (k : Nat) (v : XPort) : (s.setXport k v).metering = s.metering := rfl
@[simp] theorem State.setXport_badGroups (s : State) (k : Nat) (v : XPort) : (s.setXport k v).badGroups = s.badGroups := rfl
@[simp] theorem State.setXport_atomHeld (s : State) (k : Nat) (v : XPort) : (s.setXport k v).atomHeld = s.atomHeld := rfl
@[simp] theorem State.setXport_engines (s : State) (k : Nat) (v : XPort) : (s.setXport k v).engines = s.engines := rfl
@[simp] theorem State.setXport_links (s : State) (k : Nat) (v : XPort) : (s.setXport k v).links = s.links := rfl
@[simp] theorem State.setXport_transitFaults (s : State) (k : Nat) (v : XPort) : (s.setXport k v).transitFaults = s.transitFaults := rfl
@[simp] theorem State.setXport_marshDebt (s : State) (k : Nat) (v : XPort) : (s.setXport k v).marshDebt = s.marshDebt := rfl
@[simp] theorem State.setXport_selfRefresh (s : State) (k : Nat) (v : XPort) : (s.setXport k v).selfRefresh = s.selfRefresh := rfl
@[simp] theorem State.setXport_xniHeld (s : State) (k : Nat) (v : XPort) : (s.setXport k v).xniHeld = s.xniHeld := rfl
@[simp] theorem State.setXport_xniWait (s : State) (k : Nat) (v : XPort) : (s.setXport k v).xniWait = s.xniWait := rfl
@[simp] theorem State.setXport_xniIn (s : State) (k : Nat) (v : XPort) : (s.setXport k v).xniIn = s.xniIn := rfl
@[simp] theorem State.setXport_xniOut (s : State) (k : Nat) (v : XPort) : (s.setXport k v).xniOut = s.xniOut := rfl
@[simp] theorem State.setXport_markersOut (s : State) (k : Nat) (v : XPort) : (s.setXport k v).markersOut = s.markersOut := rfl
@[simp] theorem State.setXport_sync (s : State) (k : Nat) (v : XPort) : (s.setXport k v).sync = s.sync := rfl
@[simp] theorem State.setXport_answers (s : State) (k : Nat) (v : XPort) : (s.setXport k v).answers = s.answers := rfl
@[simp] theorem State.setXport_peatBlocks (s : State) (k : Nat) (v : XPort) : (s.setXport k v).peatBlocks = s.peatBlocks := rfl
@[simp] theorem State.setXport_peatSaved (s : State) (k : Nat) (v : XPort) : (s.setXport k v).peatSaved = s.peatSaved := rfl
@[simp] theorem State.setXport_peatBad (s : State) (k : Nat) (v : XPort) : (s.setXport k v).peatBad = s.peatBad := rfl
@[simp] theorem State.setXport_peatData (s : State) (k : Nat) (v : XPort) : (s.setXport k v).peatData = s.peatData := rfl
@[simp] theorem State.setXport_peatMap (s : State) (k : Nat) (v : XPort) : (s.setXport k v).peatMap = s.peatMap := rfl
@[simp] theorem State.setXport_peatMapNew (s : State) (k : Nat) (v : XPort) : (s.setXport k v).peatMapNew = s.peatMapNew := rfl
@[simp] theorem State.setXport_nand (s : State) (k : Nat) (v : XPort) : (s.setXport k v).nand = s.nand := rfl
@[simp] theorem State.setXport_wear (s : State) (k : Nat) (v : XPort) : (s.setXport k v).wear = s.wear := rfl
@[simp] theorem State.setXport_wearSaved (s : State) (k : Nat) (v : XPort) : (s.setXport k v).wearSaved = s.wearSaved := rfl
@[simp] theorem State.setXport_repairMap (s : State) (k : Nat) (v : XPort) : (s.setXport k v).repairMap = s.repairMap := rfl
@[simp] theorem State.setXport_repairVer (s : State) (k : Nat) (v : XPort) : (s.setXport k v).repairVer = s.repairVer := rfl
@[simp] theorem State.setXport_flashMap (s : State) (k : Nat) (v : XPort) : (s.setXport k v).flashMap = s.flashMap := rfl
@[simp] theorem State.setXport_flashVer (s : State) (k : Nat) (v : XPort) : (s.setXport k v).flashVer = s.flashVer := rfl
@[simp] theorem State.setXport_licWord (s : State) (k : Nat) (v : XPort) : (s.setXport k v).licWord = s.licWord := rfl
@[simp] theorem State.setXport_deskew (s : State) (k : Nat) (v : XPort) : (s.setXport k v).deskew = s.deskew := rfl
@[simp] theorem State.setXport_peatTrained (s : State) (k : Nat) (v : XPort) : (s.setXport k v).peatTrained = s.peatTrained := rfl
@[simp] theorem State.setXport_mons (s : State) (k : Nat) (v : XPort) : (s.setXport k v).mons = s.mons := rfl
@[simp] theorem State.setXport_prodSeen (s : State) (k : Nat) (v : XPort) : (s.setXport k v).prodSeen = s.prodSeen := rfl
@[simp] theorem State.setXport_therm (s : State) (k : Nat) (v : XPort) : (s.setXport k v).therm = s.therm := rfl
@[simp] theorem State.setXport_always (s : State) (k : Nat) (v : XPort) : (s.setXport k v).always = s.always := rfl
@[simp] theorem State.setXport_flash (s : State) (k : Nat) (v : XPort) : (s.setXport k v).flash = s.flash := rfl
@[simp] theorem State.setXport_tapState (s : State) (k : Nat) (v : XPort) : (s.setXport k v).tapState = s.tapState := rfl
@[simp] theorem State.setXport_mgmt (s : State) (k : Nat) (v : XPort) : (s.setXport k v).mgmt = s.mgmt := rfl
@[simp] theorem State.setXport_mctpOut (s : State) (k : Nat) (v : XPort) : (s.setXport k v).mctpOut = s.mctpOut := rfl
@[simp] theorem State.setXport_get (s : State) (k : Nat) (v : XPort) (x : Fld) (y : Nat) : (s.setXport k v).get x y = s.get x y := rfl

/-! ### setReg -/

@[simp] theorem State.setReg_pending (s : State) (r p : Nat) (v : Reg) : (s.setReg r p v).pending = s.pending := rfl
@[simp] theorem State.setReg_freeCtr (s : State) (r p : Nat) (v : Reg) : (s.setReg r p v).freeCtr = s.freeCtr := rfl
@[simp] theorem State.setReg_flds (s : State) (r p : Nat) (v : Reg) : (s.setReg r p v).flds = s.flds := rfl
@[simp] theorem State.setReg_eff (s : State) (r p : Nat) (v : Reg) : (s.setReg r p v).eff = s.eff := rfl
@[simp] theorem State.setReg_vfEnable (s : State) (r p : Nat) (v : Reg) : (s.setReg r p v).vfEnable = s.vfEnable := rfl
@[simp] theorem State.setReg_mem (s : State) (r p : Nat) (v : Reg) : (s.setReg r p v).mem = s.mem := rfl
@[simp] theorem State.setReg_faults (s : State) (r p : Nat) (v : Reg) : (s.setReg r p v).faults = s.faults := rfl
@[simp] theorem State.setReg_deadWires (s : State) (r p : Nat) (v : Reg) : (s.setReg r p v).deadWires = s.deadWires := rfl
@[simp] theorem State.setReg_spareCopy (s : State) (r p : Nat) (v : Reg) : (s.setReg r p v).spareCopy = s.spareCopy := rfl
@[simp] theorem State.setReg_sram (s : State) (r p : Nat) (v : Reg) : (s.setReg r p v).sram = s.sram := rfl
@[simp] theorem State.setReg_ondie (s : State) (r p : Nat) (v : Reg) : (s.setReg r p v).ondie = s.ondie := rfl
@[simp] theorem State.setReg_rowSpares (s : State) (r p : Nat) (v : Reg) : (s.setReg r p v).rowSpares = s.rowSpares := rfl
@[simp] theorem State.setReg_retired (s : State) (r p : Nat) (v : Reg) : (s.setReg r p v).retired = s.retired := rfl
@[simp] theorem State.setReg_hostMem (s : State) (r p : Nat) (v : Reg) : (s.setReg r p v).hostMem = s.hostMem := rfl
@[simp] theorem State.setReg_hostOk (s : State) (r p : Nat) (v : Reg) : (s.setReg r p v).hostOk = s.hostOk := rfl
@[simp] theorem State.setReg_cmds (s : State) (r p : Nat) (v : Reg) : (s.setReg r p v).cmds = s.cmds := rfl
@[simp] theorem State.setReg_rings (s : State) (r p : Nat) (v : Reg) : (s.setReg r p v).rings = s.rings := rfl
@[simp] theorem State.setReg_lastRing (s : State) (r p : Nat) (v : Reg) : (s.setReg r p v).lastRing = s.lastRing := rfl
@[simp] theorem State.setReg_msix (s : State) (r p : Nat) (v : Reg) : (s.setReg r p v).msix = s.msix := rfl
@[simp] theorem State.setReg_mgmtOut (s : State) (r p : Nat) (v : Reg) : (s.setReg r p v).mgmtOut = s.mgmtOut := rfl
@[simp] theorem State.setReg_logSeq (s : State) (r p : Nat) (v : Reg) : (s.setReg r p v).logSeq = s.logSeq := rfl
@[simp] theorem State.setReg_logLost (s : State) (r p : Nat) (v : Reg) : (s.setReg r p v).logLost = s.logLost := rfl
@[simp] theorem State.setReg_holdoff (s : State) (r p : Nat) (v : Reg) : (s.setReg r p v).holdoff = s.holdoff := rfl
@[simp] theorem State.setReg_heldIrq (s : State) (r p : Nat) (v : Reg) : (s.setReg r p v).heldIrq = s.heldIrq := rfl
@[simp] theorem State.setReg_heldRecs (s : State) (r p : Nat) (v : Reg) : (s.setReg r p v).heldRecs = s.heldRecs := rfl
@[simp] theorem State.setReg_pfLogOpened (s : State) (r p : Nat) (v : Reg) : (s.setReg r p v).pfLogOpened = s.pfLogOpened := rfl
@[simp] theorem State.setReg_parts (s : State) (r p : Nat) (v : Reg) : (s.setReg r p v).parts = s.parts := rfl
@[simp] theorem State.setReg_stage (s : State) (r p : Nat) (v : Reg) : (s.setReg r p v).stage = s.stage := rfl
@[simp] theorem State.setReg_commitSites (s : State) (r p : Nat) (v : Reg) : (s.setReg r p v).commitSites = s.commitSites := rfl
@[simp] theorem State.setReg_scrubPos (s : State) (r p : Nat) (v : Reg) : (s.setReg r p v).scrubPos = s.scrubPos := rfl
@[simp] theorem State.setReg_gustWords (s : State) (r p : Nat) (v : Reg) : (s.setReg r p v).gustWords = s.gustWords := rfl
@[simp] theorem State.setReg_msClock (s : State) (r p : Nat) (v : Reg) : (s.setReg r p v).msClock = s.msClock := rfl
@[simp] theorem State.setReg_losses (s : State) (r p : Nat) (v : Reg) : (s.setReg r p v).losses = s.losses := rfl
@[simp] theorem State.setReg_phase (s : State) (r p : Nat) (v : Reg) : (s.setReg r p v).phase = s.phase := rfl
@[simp] theorem State.setReg_cores (s : State) (r p : Nat) (v : Reg) : (s.setReg r p v).cores = s.cores := rfl
@[simp] theorem State.setReg_groups (s : State) (r p : Nat) (v : Reg) : (s.setReg r p v).groups = s.groups := rfl
@[simp] theorem State.setReg_metering (s : State) (r p : Nat) (v : Reg) : (s.setReg r p v).metering = s.metering := rfl
@[simp] theorem State.setReg_badGroups (s : State) (r p : Nat) (v : Reg) : (s.setReg r p v).badGroups = s.badGroups := rfl
@[simp] theorem State.setReg_atomHeld (s : State) (r p : Nat) (v : Reg) : (s.setReg r p v).atomHeld = s.atomHeld := rfl
@[simp] theorem State.setReg_engines (s : State) (r p : Nat) (v : Reg) : (s.setReg r p v).engines = s.engines := rfl
@[simp] theorem State.setReg_links (s : State) (r p : Nat) (v : Reg) : (s.setReg r p v).links = s.links := rfl
@[simp] theorem State.setReg_transitFaults (s : State) (r p : Nat) (v : Reg) : (s.setReg r p v).transitFaults = s.transitFaults := rfl
@[simp] theorem State.setReg_marshDebt (s : State) (r p : Nat) (v : Reg) : (s.setReg r p v).marshDebt = s.marshDebt := rfl
@[simp] theorem State.setReg_selfRefresh (s : State) (r p : Nat) (v : Reg) : (s.setReg r p v).selfRefresh = s.selfRefresh := rfl
@[simp] theorem State.setReg_xports (s : State) (r p : Nat) (v : Reg) : (s.setReg r p v).xports = s.xports := rfl
@[simp] theorem State.setReg_xniHeld (s : State) (r p : Nat) (v : Reg) : (s.setReg r p v).xniHeld = s.xniHeld := rfl
@[simp] theorem State.setReg_xniWait (s : State) (r p : Nat) (v : Reg) : (s.setReg r p v).xniWait = s.xniWait := rfl
@[simp] theorem State.setReg_xniIn (s : State) (r p : Nat) (v : Reg) : (s.setReg r p v).xniIn = s.xniIn := rfl
@[simp] theorem State.setReg_xniOut (s : State) (r p : Nat) (v : Reg) : (s.setReg r p v).xniOut = s.xniOut := rfl
@[simp] theorem State.setReg_markersOut (s : State) (r p : Nat) (v : Reg) : (s.setReg r p v).markersOut = s.markersOut := rfl
@[simp] theorem State.setReg_sync (s : State) (r p : Nat) (v : Reg) : (s.setReg r p v).sync = s.sync := rfl
@[simp] theorem State.setReg_answers (s : State) (r p : Nat) (v : Reg) : (s.setReg r p v).answers = s.answers := rfl
@[simp] theorem State.setReg_peatBlocks (s : State) (r p : Nat) (v : Reg) : (s.setReg r p v).peatBlocks = s.peatBlocks := rfl
@[simp] theorem State.setReg_peatSaved (s : State) (r p : Nat) (v : Reg) : (s.setReg r p v).peatSaved = s.peatSaved := rfl
@[simp] theorem State.setReg_peatBad (s : State) (r p : Nat) (v : Reg) : (s.setReg r p v).peatBad = s.peatBad := rfl
@[simp] theorem State.setReg_peatData (s : State) (r p : Nat) (v : Reg) : (s.setReg r p v).peatData = s.peatData := rfl
@[simp] theorem State.setReg_peatMap (s : State) (r p : Nat) (v : Reg) : (s.setReg r p v).peatMap = s.peatMap := rfl
@[simp] theorem State.setReg_peatMapNew (s : State) (r p : Nat) (v : Reg) : (s.setReg r p v).peatMapNew = s.peatMapNew := rfl
@[simp] theorem State.setReg_nand (s : State) (r p : Nat) (v : Reg) : (s.setReg r p v).nand = s.nand := rfl
@[simp] theorem State.setReg_wear (s : State) (r p : Nat) (v : Reg) : (s.setReg r p v).wear = s.wear := rfl
@[simp] theorem State.setReg_wearSaved (s : State) (r p : Nat) (v : Reg) : (s.setReg r p v).wearSaved = s.wearSaved := rfl
@[simp] theorem State.setReg_repairMap (s : State) (r p : Nat) (v : Reg) : (s.setReg r p v).repairMap = s.repairMap := rfl
@[simp] theorem State.setReg_repairVer (s : State) (r p : Nat) (v : Reg) : (s.setReg r p v).repairVer = s.repairVer := rfl
@[simp] theorem State.setReg_flashMap (s : State) (r p : Nat) (v : Reg) : (s.setReg r p v).flashMap = s.flashMap := rfl
@[simp] theorem State.setReg_flashVer (s : State) (r p : Nat) (v : Reg) : (s.setReg r p v).flashVer = s.flashVer := rfl
@[simp] theorem State.setReg_licWord (s : State) (r p : Nat) (v : Reg) : (s.setReg r p v).licWord = s.licWord := rfl
@[simp] theorem State.setReg_deskew (s : State) (r p : Nat) (v : Reg) : (s.setReg r p v).deskew = s.deskew := rfl
@[simp] theorem State.setReg_peatTrained (s : State) (r p : Nat) (v : Reg) : (s.setReg r p v).peatTrained = s.peatTrained := rfl
@[simp] theorem State.setReg_mons (s : State) (r p : Nat) (v : Reg) : (s.setReg r p v).mons = s.mons := rfl
@[simp] theorem State.setReg_prodSeen (s : State) (r p : Nat) (v : Reg) : (s.setReg r p v).prodSeen = s.prodSeen := rfl
@[simp] theorem State.setReg_therm (s : State) (r p : Nat) (v : Reg) : (s.setReg r p v).therm = s.therm := rfl
@[simp] theorem State.setReg_always (s : State) (r p : Nat) (v : Reg) : (s.setReg r p v).always = s.always := rfl
@[simp] theorem State.setReg_flash (s : State) (r p : Nat) (v : Reg) : (s.setReg r p v).flash = s.flash := rfl
@[simp] theorem State.setReg_tapState (s : State) (r p : Nat) (v : Reg) : (s.setReg r p v).tapState = s.tapState := rfl
@[simp] theorem State.setReg_mgmt (s : State) (r p : Nat) (v : Reg) : (s.setReg r p v).mgmt = s.mgmt := rfl
@[simp] theorem State.setReg_mctpOut (s : State) (r p : Nat) (v : Reg) : (s.setReg r p v).mctpOut = s.mctpOut := rfl
@[simp] theorem State.setReg_get (s : State) (r p : Nat) (v : Reg) (x : Fld) (y : Nat) : (s.setReg r p v).get x y = s.get x y := rfl

/-! ### setMon -/

@[simp] theorem State.setMon_pending (s : State) (m : Nat) (v : Mon) : (s.setMon m v).pending = s.pending := rfl
@[simp] theorem State.setMon_freeCtr (s : State) (m : Nat) (v : Mon) : (s.setMon m v).freeCtr = s.freeCtr := rfl
@[simp] theorem State.setMon_flds (s : State) (m : Nat) (v : Mon) : (s.setMon m v).flds = s.flds := rfl
@[simp] theorem State.setMon_eff (s : State) (m : Nat) (v : Mon) : (s.setMon m v).eff = s.eff := rfl
@[simp] theorem State.setMon_vfEnable (s : State) (m : Nat) (v : Mon) : (s.setMon m v).vfEnable = s.vfEnable := rfl
@[simp] theorem State.setMon_mem (s : State) (m : Nat) (v : Mon) : (s.setMon m v).mem = s.mem := rfl
@[simp] theorem State.setMon_faults (s : State) (m : Nat) (v : Mon) : (s.setMon m v).faults = s.faults := rfl
@[simp] theorem State.setMon_deadWires (s : State) (m : Nat) (v : Mon) : (s.setMon m v).deadWires = s.deadWires := rfl
@[simp] theorem State.setMon_spareCopy (s : State) (m : Nat) (v : Mon) : (s.setMon m v).spareCopy = s.spareCopy := rfl
@[simp] theorem State.setMon_sram (s : State) (m : Nat) (v : Mon) : (s.setMon m v).sram = s.sram := rfl
@[simp] theorem State.setMon_ondie (s : State) (m : Nat) (v : Mon) : (s.setMon m v).ondie = s.ondie := rfl
@[simp] theorem State.setMon_rowSpares (s : State) (m : Nat) (v : Mon) : (s.setMon m v).rowSpares = s.rowSpares := rfl
@[simp] theorem State.setMon_retired (s : State) (m : Nat) (v : Mon) : (s.setMon m v).retired = s.retired := rfl
@[simp] theorem State.setMon_hostMem (s : State) (m : Nat) (v : Mon) : (s.setMon m v).hostMem = s.hostMem := rfl
@[simp] theorem State.setMon_hostOk (s : State) (m : Nat) (v : Mon) : (s.setMon m v).hostOk = s.hostOk := rfl
@[simp] theorem State.setMon_cmds (s : State) (m : Nat) (v : Mon) : (s.setMon m v).cmds = s.cmds := rfl
@[simp] theorem State.setMon_rings (s : State) (m : Nat) (v : Mon) : (s.setMon m v).rings = s.rings := rfl
@[simp] theorem State.setMon_lastRing (s : State) (m : Nat) (v : Mon) : (s.setMon m v).lastRing = s.lastRing := rfl
@[simp] theorem State.setMon_msix (s : State) (m : Nat) (v : Mon) : (s.setMon m v).msix = s.msix := rfl
@[simp] theorem State.setMon_mgmtOut (s : State) (m : Nat) (v : Mon) : (s.setMon m v).mgmtOut = s.mgmtOut := rfl
@[simp] theorem State.setMon_logSeq (s : State) (m : Nat) (v : Mon) : (s.setMon m v).logSeq = s.logSeq := rfl
@[simp] theorem State.setMon_logLost (s : State) (m : Nat) (v : Mon) : (s.setMon m v).logLost = s.logLost := rfl
@[simp] theorem State.setMon_holdoff (s : State) (m : Nat) (v : Mon) : (s.setMon m v).holdoff = s.holdoff := rfl
@[simp] theorem State.setMon_heldIrq (s : State) (m : Nat) (v : Mon) : (s.setMon m v).heldIrq = s.heldIrq := rfl
@[simp] theorem State.setMon_heldRecs (s : State) (m : Nat) (v : Mon) : (s.setMon m v).heldRecs = s.heldRecs := rfl
@[simp] theorem State.setMon_pfLogOpened (s : State) (m : Nat) (v : Mon) : (s.setMon m v).pfLogOpened = s.pfLogOpened := rfl
@[simp] theorem State.setMon_parts (s : State) (m : Nat) (v : Mon) : (s.setMon m v).parts = s.parts := rfl
@[simp] theorem State.setMon_regs (s : State) (m : Nat) (v : Mon) : (s.setMon m v).regs = s.regs := rfl
@[simp] theorem State.setMon_stage (s : State) (m : Nat) (v : Mon) : (s.setMon m v).stage = s.stage := rfl
@[simp] theorem State.setMon_commitSites (s : State) (m : Nat) (v : Mon) : (s.setMon m v).commitSites = s.commitSites := rfl
@[simp] theorem State.setMon_scrubPos (s : State) (m : Nat) (v : Mon) : (s.setMon m v).scrubPos = s.scrubPos := rfl
@[simp] theorem State.setMon_gustWords (s : State) (m : Nat) (v : Mon) : (s.setMon m v).gustWords = s.gustWords := rfl
@[simp] theorem State.setMon_msClock (s : State) (m : Nat) (v : Mon) : (s.setMon m v).msClock = s.msClock := rfl
@[simp] theorem State.setMon_losses (s : State) (m : Nat) (v : Mon) : (s.setMon m v).losses = s.losses := rfl
@[simp] theorem State.setMon_phase (s : State) (m : Nat) (v : Mon) : (s.setMon m v).phase = s.phase := rfl
@[simp] theorem State.setMon_cores (s : State) (m : Nat) (v : Mon) : (s.setMon m v).cores = s.cores := rfl
@[simp] theorem State.setMon_groups (s : State) (m : Nat) (v : Mon) : (s.setMon m v).groups = s.groups := rfl
@[simp] theorem State.setMon_metering (s : State) (m : Nat) (v : Mon) : (s.setMon m v).metering = s.metering := rfl
@[simp] theorem State.setMon_badGroups (s : State) (m : Nat) (v : Mon) : (s.setMon m v).badGroups = s.badGroups := rfl
@[simp] theorem State.setMon_atomHeld (s : State) (m : Nat) (v : Mon) : (s.setMon m v).atomHeld = s.atomHeld := rfl
@[simp] theorem State.setMon_engines (s : State) (m : Nat) (v : Mon) : (s.setMon m v).engines = s.engines := rfl
@[simp] theorem State.setMon_links (s : State) (m : Nat) (v : Mon) : (s.setMon m v).links = s.links := rfl
@[simp] theorem State.setMon_transitFaults (s : State) (m : Nat) (v : Mon) : (s.setMon m v).transitFaults = s.transitFaults := rfl
@[simp] theorem State.setMon_marshDebt (s : State) (m : Nat) (v : Mon) : (s.setMon m v).marshDebt = s.marshDebt := rfl
@[simp] theorem State.setMon_selfRefresh (s : State) (m : Nat) (v : Mon) : (s.setMon m v).selfRefresh = s.selfRefresh := rfl
@[simp] theorem State.setMon_xports (s : State) (m : Nat) (v : Mon) : (s.setMon m v).xports = s.xports := rfl
@[simp] theorem State.setMon_xniHeld (s : State) (m : Nat) (v : Mon) : (s.setMon m v).xniHeld = s.xniHeld := rfl
@[simp] theorem State.setMon_xniWait (s : State) (m : Nat) (v : Mon) : (s.setMon m v).xniWait = s.xniWait := rfl
@[simp] theorem State.setMon_xniIn (s : State) (m : Nat) (v : Mon) : (s.setMon m v).xniIn = s.xniIn := rfl
@[simp] theorem State.setMon_xniOut (s : State) (m : Nat) (v : Mon) : (s.setMon m v).xniOut = s.xniOut := rfl
@[simp] theorem State.setMon_markersOut (s : State) (m : Nat) (v : Mon) : (s.setMon m v).markersOut = s.markersOut := rfl
@[simp] theorem State.setMon_sync (s : State) (m : Nat) (v : Mon) : (s.setMon m v).sync = s.sync := rfl
@[simp] theorem State.setMon_answers (s : State) (m : Nat) (v : Mon) : (s.setMon m v).answers = s.answers := rfl
@[simp] theorem State.setMon_peatBlocks (s : State) (m : Nat) (v : Mon) : (s.setMon m v).peatBlocks = s.peatBlocks := rfl
@[simp] theorem State.setMon_peatSaved (s : State) (m : Nat) (v : Mon) : (s.setMon m v).peatSaved = s.peatSaved := rfl
@[simp] theorem State.setMon_peatBad (s : State) (m : Nat) (v : Mon) : (s.setMon m v).peatBad = s.peatBad := rfl
@[simp] theorem State.setMon_peatData (s : State) (m : Nat) (v : Mon) : (s.setMon m v).peatData = s.peatData := rfl
@[simp] theorem State.setMon_peatMap (s : State) (m : Nat) (v : Mon) : (s.setMon m v).peatMap = s.peatMap := rfl
@[simp] theorem State.setMon_peatMapNew (s : State) (m : Nat) (v : Mon) : (s.setMon m v).peatMapNew = s.peatMapNew := rfl
@[simp] theorem State.setMon_nand (s : State) (m : Nat) (v : Mon) : (s.setMon m v).nand = s.nand := rfl
@[simp] theorem State.setMon_wear (s : State) (m : Nat) (v : Mon) : (s.setMon m v).wear = s.wear := rfl
@[simp] theorem State.setMon_wearSaved (s : State) (m : Nat) (v : Mon) : (s.setMon m v).wearSaved = s.wearSaved := rfl
@[simp] theorem State.setMon_repairMap (s : State) (m : Nat) (v : Mon) : (s.setMon m v).repairMap = s.repairMap := rfl
@[simp] theorem State.setMon_repairVer (s : State) (m : Nat) (v : Mon) : (s.setMon m v).repairVer = s.repairVer := rfl
@[simp] theorem State.setMon_flashMap (s : State) (m : Nat) (v : Mon) : (s.setMon m v).flashMap = s.flashMap := rfl
@[simp] theorem State.setMon_flashVer (s : State) (m : Nat) (v : Mon) : (s.setMon m v).flashVer = s.flashVer := rfl
@[simp] theorem State.setMon_licWord (s : State) (m : Nat) (v : Mon) : (s.setMon m v).licWord = s.licWord := rfl
@[simp] theorem State.setMon_deskew (s : State) (m : Nat) (v : Mon) : (s.setMon m v).deskew = s.deskew := rfl
@[simp] theorem State.setMon_peatTrained (s : State) (m : Nat) (v : Mon) : (s.setMon m v).peatTrained = s.peatTrained := rfl
@[simp] theorem State.setMon_prodSeen (s : State) (m : Nat) (v : Mon) : (s.setMon m v).prodSeen = s.prodSeen := rfl
@[simp] theorem State.setMon_therm (s : State) (m : Nat) (v : Mon) : (s.setMon m v).therm = s.therm := rfl
@[simp] theorem State.setMon_always (s : State) (m : Nat) (v : Mon) : (s.setMon m v).always = s.always := rfl
@[simp] theorem State.setMon_flash (s : State) (m : Nat) (v : Mon) : (s.setMon m v).flash = s.flash := rfl
@[simp] theorem State.setMon_tapState (s : State) (m : Nat) (v : Mon) : (s.setMon m v).tapState = s.tapState := rfl
@[simp] theorem State.setMon_mgmt (s : State) (m : Nat) (v : Mon) : (s.setMon m v).mgmt = s.mgmt := rfl
@[simp] theorem State.setMon_mctpOut (s : State) (m : Nat) (v : Mon) : (s.setMon m v).mctpOut = s.mctpOut := rfl
@[simp] theorem State.setMon_get (s : State) (m : Nat) (v : Mon) (x : Fld) (y : Nat) : (s.setMon m v).get x y = s.get x y := rfl

/-! ### answer -/

@[simp] theorem State.answer_pending (s : State) (a : Answer) : (s.answer a).pending = s.pending := rfl
@[simp] theorem State.answer_freeCtr (s : State) (a : Answer) : (s.answer a).freeCtr = s.freeCtr := rfl
@[simp] theorem State.answer_flds (s : State) (a : Answer) : (s.answer a).flds = s.flds := rfl
@[simp] theorem State.answer_eff (s : State) (a : Answer) : (s.answer a).eff = s.eff := rfl
@[simp] theorem State.answer_vfEnable (s : State) (a : Answer) : (s.answer a).vfEnable = s.vfEnable := rfl
@[simp] theorem State.answer_mem (s : State) (a : Answer) : (s.answer a).mem = s.mem := rfl
@[simp] theorem State.answer_faults (s : State) (a : Answer) : (s.answer a).faults = s.faults := rfl
@[simp] theorem State.answer_deadWires (s : State) (a : Answer) : (s.answer a).deadWires = s.deadWires := rfl
@[simp] theorem State.answer_spareCopy (s : State) (a : Answer) : (s.answer a).spareCopy = s.spareCopy := rfl
@[simp] theorem State.answer_sram (s : State) (a : Answer) : (s.answer a).sram = s.sram := rfl
@[simp] theorem State.answer_ondie (s : State) (a : Answer) : (s.answer a).ondie = s.ondie := rfl
@[simp] theorem State.answer_rowSpares (s : State) (a : Answer) : (s.answer a).rowSpares = s.rowSpares := rfl
@[simp] theorem State.answer_retired (s : State) (a : Answer) : (s.answer a).retired = s.retired := rfl
@[simp] theorem State.answer_hostMem (s : State) (a : Answer) : (s.answer a).hostMem = s.hostMem := rfl
@[simp] theorem State.answer_hostOk (s : State) (a : Answer) : (s.answer a).hostOk = s.hostOk := rfl
@[simp] theorem State.answer_cmds (s : State) (a : Answer) : (s.answer a).cmds = s.cmds := rfl
@[simp] theorem State.answer_rings (s : State) (a : Answer) : (s.answer a).rings = s.rings := rfl
@[simp] theorem State.answer_lastRing (s : State) (a : Answer) : (s.answer a).lastRing = s.lastRing := rfl
@[simp] theorem State.answer_msix (s : State) (a : Answer) : (s.answer a).msix = s.msix := rfl
@[simp] theorem State.answer_mgmtOut (s : State) (a : Answer) : (s.answer a).mgmtOut = s.mgmtOut := rfl
@[simp] theorem State.answer_logSeq (s : State) (a : Answer) : (s.answer a).logSeq = s.logSeq := rfl
@[simp] theorem State.answer_logLost (s : State) (a : Answer) : (s.answer a).logLost = s.logLost := rfl
@[simp] theorem State.answer_holdoff (s : State) (a : Answer) : (s.answer a).holdoff = s.holdoff := rfl
@[simp] theorem State.answer_heldIrq (s : State) (a : Answer) : (s.answer a).heldIrq = s.heldIrq := rfl
@[simp] theorem State.answer_heldRecs (s : State) (a : Answer) : (s.answer a).heldRecs = s.heldRecs := rfl
@[simp] theorem State.answer_pfLogOpened (s : State) (a : Answer) : (s.answer a).pfLogOpened = s.pfLogOpened := rfl
@[simp] theorem State.answer_parts (s : State) (a : Answer) : (s.answer a).parts = s.parts := rfl
@[simp] theorem State.answer_regs (s : State) (a : Answer) : (s.answer a).regs = s.regs := rfl
@[simp] theorem State.answer_stage (s : State) (a : Answer) : (s.answer a).stage = s.stage := rfl
@[simp] theorem State.answer_commitSites (s : State) (a : Answer) : (s.answer a).commitSites = s.commitSites := rfl
@[simp] theorem State.answer_scrubPos (s : State) (a : Answer) : (s.answer a).scrubPos = s.scrubPos := rfl
@[simp] theorem State.answer_gustWords (s : State) (a : Answer) : (s.answer a).gustWords = s.gustWords := rfl
@[simp] theorem State.answer_msClock (s : State) (a : Answer) : (s.answer a).msClock = s.msClock := rfl
@[simp] theorem State.answer_losses (s : State) (a : Answer) : (s.answer a).losses = s.losses := rfl
@[simp] theorem State.answer_phase (s : State) (a : Answer) : (s.answer a).phase = s.phase := rfl
@[simp] theorem State.answer_cores (s : State) (a : Answer) : (s.answer a).cores = s.cores := rfl
@[simp] theorem State.answer_groups (s : State) (a : Answer) : (s.answer a).groups = s.groups := rfl
@[simp] theorem State.answer_metering (s : State) (a : Answer) : (s.answer a).metering = s.metering := rfl
@[simp] theorem State.answer_badGroups (s : State) (a : Answer) : (s.answer a).badGroups = s.badGroups := rfl
@[simp] theorem State.answer_atomHeld (s : State) (a : Answer) : (s.answer a).atomHeld = s.atomHeld := rfl
@[simp] theorem State.answer_engines (s : State) (a : Answer) : (s.answer a).engines = s.engines := rfl
@[simp] theorem State.answer_links (s : State) (a : Answer) : (s.answer a).links = s.links := rfl
@[simp] theorem State.answer_transitFaults (s : State) (a : Answer) : (s.answer a).transitFaults = s.transitFaults := rfl
@[simp] theorem State.answer_marshDebt (s : State) (a : Answer) : (s.answer a).marshDebt = s.marshDebt := rfl
@[simp] theorem State.answer_selfRefresh (s : State) (a : Answer) : (s.answer a).selfRefresh = s.selfRefresh := rfl
@[simp] theorem State.answer_xports (s : State) (a : Answer) : (s.answer a).xports = s.xports := rfl
@[simp] theorem State.answer_xniHeld (s : State) (a : Answer) : (s.answer a).xniHeld = s.xniHeld := rfl
@[simp] theorem State.answer_xniWait (s : State) (a : Answer) : (s.answer a).xniWait = s.xniWait := rfl
@[simp] theorem State.answer_xniIn (s : State) (a : Answer) : (s.answer a).xniIn = s.xniIn := rfl
@[simp] theorem State.answer_xniOut (s : State) (a : Answer) : (s.answer a).xniOut = s.xniOut := rfl
@[simp] theorem State.answer_markersOut (s : State) (a : Answer) : (s.answer a).markersOut = s.markersOut := rfl
@[simp] theorem State.answer_sync (s : State) (a : Answer) : (s.answer a).sync = s.sync := rfl
@[simp] theorem State.answer_peatBlocks (s : State) (a : Answer) : (s.answer a).peatBlocks = s.peatBlocks := rfl
@[simp] theorem State.answer_peatSaved (s : State) (a : Answer) : (s.answer a).peatSaved = s.peatSaved := rfl
@[simp] theorem State.answer_peatBad (s : State) (a : Answer) : (s.answer a).peatBad = s.peatBad := rfl
@[simp] theorem State.answer_peatData (s : State) (a : Answer) : (s.answer a).peatData = s.peatData := rfl
@[simp] theorem State.answer_peatMap (s : State) (a : Answer) : (s.answer a).peatMap = s.peatMap := rfl
@[simp] theorem State.answer_peatMapNew (s : State) (a : Answer) : (s.answer a).peatMapNew = s.peatMapNew := rfl
@[simp] theorem State.answer_nand (s : State) (a : Answer) : (s.answer a).nand = s.nand := rfl
@[simp] theorem State.answer_wear (s : State) (a : Answer) : (s.answer a).wear = s.wear := rfl
@[simp] theorem State.answer_wearSaved (s : State) (a : Answer) : (s.answer a).wearSaved = s.wearSaved := rfl
@[simp] theorem State.answer_repairMap (s : State) (a : Answer) : (s.answer a).repairMap = s.repairMap := rfl
@[simp] theorem State.answer_repairVer (s : State) (a : Answer) : (s.answer a).repairVer = s.repairVer := rfl
@[simp] theorem State.answer_flashMap (s : State) (a : Answer) : (s.answer a).flashMap = s.flashMap := rfl
@[simp] theorem State.answer_flashVer (s : State) (a : Answer) : (s.answer a).flashVer = s.flashVer := rfl
@[simp] theorem State.answer_licWord (s : State) (a : Answer) : (s.answer a).licWord = s.licWord := rfl
@[simp] theorem State.answer_deskew (s : State) (a : Answer) : (s.answer a).deskew = s.deskew := rfl
@[simp] theorem State.answer_peatTrained (s : State) (a : Answer) : (s.answer a).peatTrained = s.peatTrained := rfl
@[simp] theorem State.answer_mons (s : State) (a : Answer) : (s.answer a).mons = s.mons := rfl
@[simp] theorem State.answer_prodSeen (s : State) (a : Answer) : (s.answer a).prodSeen = s.prodSeen := rfl
@[simp] theorem State.answer_therm (s : State) (a : Answer) : (s.answer a).therm = s.therm := rfl
@[simp] theorem State.answer_always (s : State) (a : Answer) : (s.answer a).always = s.always := rfl
@[simp] theorem State.answer_flash (s : State) (a : Answer) : (s.answer a).flash = s.flash := rfl
@[simp] theorem State.answer_tapState (s : State) (a : Answer) : (s.answer a).tapState = s.tapState := rfl
@[simp] theorem State.answer_mgmt (s : State) (a : Answer) : (s.answer a).mgmt = s.mgmt := rfl
@[simp] theorem State.answer_mctpOut (s : State) (a : Answer) : (s.answer a).mctpOut = s.mctpOut := rfl
@[simp] theorem State.answer_get (s : State) (a : Answer) (x : Fld) (y : Nat) : (s.answer a).get x y = s.get x y := rfl

/-! ### startCmd -/

@[simp] theorem State.startCmd_pending (s : State) (q : Req) (op : Nat) (k : CmdKind) : (s.startCmd q op k).pending = s.pending := rfl
@[simp] theorem State.startCmd_freeCtr (s : State) (q : Req) (op : Nat) (k : CmdKind) : (s.startCmd q op k).freeCtr = s.freeCtr := rfl
@[simp] theorem State.startCmd_flds (s : State) (q : Req) (op : Nat) (k : CmdKind) : (s.startCmd q op k).flds = s.flds := rfl
@[simp] theorem State.startCmd_eff (s : State) (q : Req) (op : Nat) (k : CmdKind) : (s.startCmd q op k).eff = s.eff := rfl
@[simp] theorem State.startCmd_vfEnable (s : State) (q : Req) (op : Nat) (k : CmdKind) : (s.startCmd q op k).vfEnable = s.vfEnable := rfl
@[simp] theorem State.startCmd_mem (s : State) (q : Req) (op : Nat) (k : CmdKind) : (s.startCmd q op k).mem = s.mem := rfl
@[simp] theorem State.startCmd_faults (s : State) (q : Req) (op : Nat) (k : CmdKind) : (s.startCmd q op k).faults = s.faults := rfl
@[simp] theorem State.startCmd_deadWires (s : State) (q : Req) (op : Nat) (k : CmdKind) : (s.startCmd q op k).deadWires = s.deadWires := rfl
@[simp] theorem State.startCmd_spareCopy (s : State) (q : Req) (op : Nat) (k : CmdKind) : (s.startCmd q op k).spareCopy = s.spareCopy := rfl
@[simp] theorem State.startCmd_sram (s : State) (q : Req) (op : Nat) (k : CmdKind) : (s.startCmd q op k).sram = s.sram := rfl
@[simp] theorem State.startCmd_ondie (s : State) (q : Req) (op : Nat) (k : CmdKind) : (s.startCmd q op k).ondie = s.ondie := rfl
@[simp] theorem State.startCmd_rowSpares (s : State) (q : Req) (op : Nat) (k : CmdKind) : (s.startCmd q op k).rowSpares = s.rowSpares := rfl
@[simp] theorem State.startCmd_retired (s : State) (q : Req) (op : Nat) (k : CmdKind) : (s.startCmd q op k).retired = s.retired := rfl
@[simp] theorem State.startCmd_hostMem (s : State) (q : Req) (op : Nat) (k : CmdKind) : (s.startCmd q op k).hostMem = s.hostMem := rfl
@[simp] theorem State.startCmd_hostOk (s : State) (q : Req) (op : Nat) (k : CmdKind) : (s.startCmd q op k).hostOk = s.hostOk := rfl
@[simp] theorem State.startCmd_rings (s : State) (q : Req) (op : Nat) (k : CmdKind) : (s.startCmd q op k).rings = s.rings := rfl
@[simp] theorem State.startCmd_lastRing (s : State) (q : Req) (op : Nat) (k : CmdKind) : (s.startCmd q op k).lastRing = s.lastRing := rfl
@[simp] theorem State.startCmd_msix (s : State) (q : Req) (op : Nat) (k : CmdKind) : (s.startCmd q op k).msix = s.msix := rfl
@[simp] theorem State.startCmd_mgmtOut (s : State) (q : Req) (op : Nat) (k : CmdKind) : (s.startCmd q op k).mgmtOut = s.mgmtOut := rfl
@[simp] theorem State.startCmd_logSeq (s : State) (q : Req) (op : Nat) (k : CmdKind) : (s.startCmd q op k).logSeq = s.logSeq := rfl
@[simp] theorem State.startCmd_logLost (s : State) (q : Req) (op : Nat) (k : CmdKind) : (s.startCmd q op k).logLost = s.logLost := rfl
@[simp] theorem State.startCmd_holdoff (s : State) (q : Req) (op : Nat) (k : CmdKind) : (s.startCmd q op k).holdoff = s.holdoff := rfl
@[simp] theorem State.startCmd_heldIrq (s : State) (q : Req) (op : Nat) (k : CmdKind) : (s.startCmd q op k).heldIrq = s.heldIrq := rfl
@[simp] theorem State.startCmd_heldRecs (s : State) (q : Req) (op : Nat) (k : CmdKind) : (s.startCmd q op k).heldRecs = s.heldRecs := rfl
@[simp] theorem State.startCmd_pfLogOpened (s : State) (q : Req) (op : Nat) (k : CmdKind) : (s.startCmd q op k).pfLogOpened = s.pfLogOpened := rfl
@[simp] theorem State.startCmd_parts (s : State) (q : Req) (op : Nat) (k : CmdKind) : (s.startCmd q op k).parts = s.parts := rfl
@[simp] theorem State.startCmd_regs (s : State) (q : Req) (op : Nat) (k : CmdKind) : (s.startCmd q op k).regs = s.regs := rfl
@[simp] theorem State.startCmd_stage (s : State) (q : Req) (op : Nat) (k : CmdKind) : (s.startCmd q op k).stage = s.stage := rfl
@[simp] theorem State.startCmd_commitSites (s : State) (q : Req) (op : Nat) (k : CmdKind) : (s.startCmd q op k).commitSites = s.commitSites := rfl
@[simp] theorem State.startCmd_scrubPos (s : State) (q : Req) (op : Nat) (k : CmdKind) : (s.startCmd q op k).scrubPos = s.scrubPos := rfl
@[simp] theorem State.startCmd_gustWords (s : State) (q : Req) (op : Nat) (k : CmdKind) : (s.startCmd q op k).gustWords = s.gustWords := rfl
@[simp] theorem State.startCmd_msClock (s : State) (q : Req) (op : Nat) (k : CmdKind) : (s.startCmd q op k).msClock = s.msClock := rfl
@[simp] theorem State.startCmd_losses (s : State) (q : Req) (op : Nat) (k : CmdKind) : (s.startCmd q op k).losses = s.losses := rfl
@[simp] theorem State.startCmd_phase (s : State) (q : Req) (op : Nat) (k : CmdKind) : (s.startCmd q op k).phase = s.phase := rfl
@[simp] theorem State.startCmd_cores (s : State) (q : Req) (op : Nat) (k : CmdKind) : (s.startCmd q op k).cores = s.cores := rfl
@[simp] theorem State.startCmd_groups (s : State) (q : Req) (op : Nat) (k : CmdKind) : (s.startCmd q op k).groups = s.groups := rfl
@[simp] theorem State.startCmd_metering (s : State) (q : Req) (op : Nat) (k : CmdKind) : (s.startCmd q op k).metering = s.metering := rfl
@[simp] theorem State.startCmd_badGroups (s : State) (q : Req) (op : Nat) (k : CmdKind) : (s.startCmd q op k).badGroups = s.badGroups := rfl
@[simp] theorem State.startCmd_atomHeld (s : State) (q : Req) (op : Nat) (k : CmdKind) : (s.startCmd q op k).atomHeld = s.atomHeld := rfl
@[simp] theorem State.startCmd_engines (s : State) (q : Req) (op : Nat) (k : CmdKind) : (s.startCmd q op k).engines = s.engines := rfl
@[simp] theorem State.startCmd_links (s : State) (q : Req) (op : Nat) (k : CmdKind) : (s.startCmd q op k).links = s.links := rfl
@[simp] theorem State.startCmd_transitFaults (s : State) (q : Req) (op : Nat) (k : CmdKind) : (s.startCmd q op k).transitFaults = s.transitFaults := rfl
@[simp] theorem State.startCmd_marshDebt (s : State) (q : Req) (op : Nat) (k : CmdKind) : (s.startCmd q op k).marshDebt = s.marshDebt := rfl
@[simp] theorem State.startCmd_selfRefresh (s : State) (q : Req) (op : Nat) (k : CmdKind) : (s.startCmd q op k).selfRefresh = s.selfRefresh := rfl
@[simp] theorem State.startCmd_xports (s : State) (q : Req) (op : Nat) (k : CmdKind) : (s.startCmd q op k).xports = s.xports := rfl
@[simp] theorem State.startCmd_xniHeld (s : State) (q : Req) (op : Nat) (k : CmdKind) : (s.startCmd q op k).xniHeld = s.xniHeld := rfl
@[simp] theorem State.startCmd_xniWait (s : State) (q : Req) (op : Nat) (k : CmdKind) : (s.startCmd q op k).xniWait = s.xniWait := rfl
@[simp] theorem State.startCmd_xniIn (s : State) (q : Req) (op : Nat) (k : CmdKind) : (s.startCmd q op k).xniIn = s.xniIn := rfl
@[simp] theorem State.startCmd_xniOut (s : State) (q : Req) (op : Nat) (k : CmdKind) : (s.startCmd q op k).xniOut = s.xniOut := rfl
@[simp] theorem State.startCmd_markersOut (s : State) (q : Req) (op : Nat) (k : CmdKind) : (s.startCmd q op k).markersOut = s.markersOut := rfl
@[simp] theorem State.startCmd_sync (s : State) (q : Req) (op : Nat) (k : CmdKind) : (s.startCmd q op k).sync = s.sync := rfl
@[simp] theorem State.startCmd_answers (s : State) (q : Req) (op : Nat) (k : CmdKind) : (s.startCmd q op k).answers = s.answers := rfl
@[simp] theorem State.startCmd_peatBlocks (s : State) (q : Req) (op : Nat) (k : CmdKind) : (s.startCmd q op k).peatBlocks = s.peatBlocks := rfl
@[simp] theorem State.startCmd_peatSaved (s : State) (q : Req) (op : Nat) (k : CmdKind) : (s.startCmd q op k).peatSaved = s.peatSaved := rfl
@[simp] theorem State.startCmd_peatBad (s : State) (q : Req) (op : Nat) (k : CmdKind) : (s.startCmd q op k).peatBad = s.peatBad := rfl
@[simp] theorem State.startCmd_peatData (s : State) (q : Req) (op : Nat) (k : CmdKind) : (s.startCmd q op k).peatData = s.peatData := rfl
@[simp] theorem State.startCmd_peatMap (s : State) (q : Req) (op : Nat) (k : CmdKind) : (s.startCmd q op k).peatMap = s.peatMap := rfl
@[simp] theorem State.startCmd_peatMapNew (s : State) (q : Req) (op : Nat) (k : CmdKind) : (s.startCmd q op k).peatMapNew = s.peatMapNew := rfl
@[simp] theorem State.startCmd_nand (s : State) (q : Req) (op : Nat) (k : CmdKind) : (s.startCmd q op k).nand = s.nand := rfl
@[simp] theorem State.startCmd_wear (s : State) (q : Req) (op : Nat) (k : CmdKind) : (s.startCmd q op k).wear = s.wear := rfl
@[simp] theorem State.startCmd_wearSaved (s : State) (q : Req) (op : Nat) (k : CmdKind) : (s.startCmd q op k).wearSaved = s.wearSaved := rfl
@[simp] theorem State.startCmd_repairMap (s : State) (q : Req) (op : Nat) (k : CmdKind) : (s.startCmd q op k).repairMap = s.repairMap := rfl
@[simp] theorem State.startCmd_repairVer (s : State) (q : Req) (op : Nat) (k : CmdKind) : (s.startCmd q op k).repairVer = s.repairVer := rfl
@[simp] theorem State.startCmd_flashMap (s : State) (q : Req) (op : Nat) (k : CmdKind) : (s.startCmd q op k).flashMap = s.flashMap := rfl
@[simp] theorem State.startCmd_flashVer (s : State) (q : Req) (op : Nat) (k : CmdKind) : (s.startCmd q op k).flashVer = s.flashVer := rfl
@[simp] theorem State.startCmd_licWord (s : State) (q : Req) (op : Nat) (k : CmdKind) : (s.startCmd q op k).licWord = s.licWord := rfl
@[simp] theorem State.startCmd_deskew (s : State) (q : Req) (op : Nat) (k : CmdKind) : (s.startCmd q op k).deskew = s.deskew := rfl
@[simp] theorem State.startCmd_peatTrained (s : State) (q : Req) (op : Nat) (k : CmdKind) : (s.startCmd q op k).peatTrained = s.peatTrained := rfl
@[simp] theorem State.startCmd_mons (s : State) (q : Req) (op : Nat) (k : CmdKind) : (s.startCmd q op k).mons = s.mons := rfl
@[simp] theorem State.startCmd_prodSeen (s : State) (q : Req) (op : Nat) (k : CmdKind) : (s.startCmd q op k).prodSeen = s.prodSeen := rfl
@[simp] theorem State.startCmd_therm (s : State) (q : Req) (op : Nat) (k : CmdKind) : (s.startCmd q op k).therm = s.therm := rfl
@[simp] theorem State.startCmd_always (s : State) (q : Req) (op : Nat) (k : CmdKind) : (s.startCmd q op k).always = s.always := rfl
@[simp] theorem State.startCmd_flash (s : State) (q : Req) (op : Nat) (k : CmdKind) : (s.startCmd q op k).flash = s.flash := rfl
@[simp] theorem State.startCmd_tapState (s : State) (q : Req) (op : Nat) (k : CmdKind) : (s.startCmd q op k).tapState = s.tapState := rfl
@[simp] theorem State.startCmd_mgmt (s : State) (q : Req) (op : Nat) (k : CmdKind) : (s.startCmd q op k).mgmt = s.mgmt := rfl
@[simp] theorem State.startCmd_mctpOut (s : State) (q : Req) (op : Nat) (k : CmdKind) : (s.startCmd q op k).mctpOut = s.mctpOut := rfl
@[simp] theorem State.startCmd_get (s : State) (q : Req) (op : Nat) (k : CmdKind) (x : Fld) (y : Nat) : (s.startCmd q op k).get x y = s.get x y := rfl

/-! ### What acts only while the clocks run -/

theorem State.whenClocked_on {s : State} (f : State → State) (h : s.clocked = true) : s.whenClocked f = f s := if_pos h

theorem State.whenClocked_off {s : State} (f : State → State) (h : s.clocked = false) : s.whenClocked f = s := by
  simp [State.whenClocked, h]

end Sys2Proof.Machine
end

