-- ==== Sys2Proof/Laws/Memory.lean ====
section
/-!
SUPPORT. Laws of memory: every operation that writes device memory, host memory or peat pages keeps the canonical form, the memories at reset have it, and
a write changes the keys it names and no other.
-/
namespace Sys2Proof.Machine

/-- The three memories of the state in canonical form. -/
structure State.MemWf (s : State) : Prop where
  device : Memory.wf s.mem = true
  host : Memory.wf s.hostMem = true
  peat : Memory.wf s.peatData = true

theorem State.reset_memWf : State.reset.MemWf := ⟨rfl, rfl, rfl⟩

/-- What depends on the three memories only. -/
theorem State.MemWf.congr {s t : State} (h : s.MemWf) (h1 : t.mem = s.mem) (h2 : t.hostMem = s.hostMem) (h3 : t.peatData = s.peatData) : t.MemWf :=
  ⟨h1 ▸ h.device, h2 ▸ h.host, h3 ▸ h.peat⟩

theorem State.MemWf.withMem {s : State} (h : s.MemWf) {m : SMap Byte} (hm : Memory.wf m = true) : State.MemWf { s with mem := m } := ⟨hm, h.host, h.peat⟩

/-! ### Stores of bytes -/

/-- A byte stored at a key, then every other. -/
theorem Memory.get_storeAt (key : Nat → Nat) (l : List (Byte × Nat)) (m : SMap Byte) (k : Nat) (h : ∀ e ∈ l, key e.2 ≠ k) :
    SMap.get (l.foldl (fun m e => SMap.set m (key e.2) e.1 0) m) k 0 = SMap.get m k 0 := by
  induction l generalizing m with
  | nil => rfl
  | cons e r ih =>
    rw [List.foldl_cons, ih _ fun x hx => h x (List.mem_cons_of_mem _ hx)]
    exact SMap.get_set_other _ _ _ _ fun c => h e (List.mem_cons_self ..) c.symm

theorem Memory.wf_storeAt (key : Nat → Nat) (l : List (Byte × Nat)) {m : SMap Byte} (h : Memory.wf m = true) :
    Memory.wf (l.foldl (fun m e => SMap.set m (key e.2) e.1 0) m) = true := by
  induction l generalizing m with
  | nil => exact h
  | cons e r ih => exact ih (SMap.wf_set (d := fun _ => 0) _ _ h)

@[simp] theorem State.breakResv_mem (s : State) (st : Store) (off n : Nat) : (s.breakResv st off n).mem = s.mem := by
  unfold State.breakResv; repeat' split
  all_goals rfl

/-- Breaking a reservation writes cores only. -/
theorem State.breakResv_eq (s : State) (st : Store) (off n : Nat) : s.breakResv st off n = { s with cores := (s.breakResv st off n).cores } := by
  unfold State.breakResv; repeat' split
  all_goals rfl

/-- Everything a store of bytes does: it writes memory, and may break a reservation. -/
theorem State.rawWrite_eq (s : State) (st : Store) (off : Nat) (bs : List Byte) :
    s.rawWrite st off bs = { s with mem := (s.rawWrite st off bs).mem, cores := (s.rawWrite st off bs).cores } := by
  unfold State.rawWrite; rw [State.breakResv_eq]

/-- A store changes the keys of the bytes it names only. -/
theorem State.rawWrite_other (s : State) (st : Store) (off : Nat) (bs : List Byte) (k : Nat) (h : ∀ i, i < bs.length → s.physKey st (off + i) ≠ k) :
    SMap.get (s.rawWrite st off bs).mem k 0 = SMap.get s.mem k 0 := by
  simp only [State.rawWrite, State.breakResv_mem]
  refine Memory.get_storeAt (fun i => s.physKey st (off + i)) _ _ k fun e he => h _ ?_
  obtain ⟨i, hi, rfl⟩ := List.getElem_of_mem he
  simpa using hi

theorem State.rawWrite_memWf {s : State} (h : s.MemWf) (st : Store) (off : Nat) (bs : List Byte) : (s.rawWrite st off bs).MemWf := by
  rw [State.rawWrite_eq]
  refine ⟨?_, h.host, h.peat⟩
  simp only [State.rawWrite, State.breakResv_mem]
  exact Memory.wf_storeAt (fun i => s.physKey st (off + i)) _ h.device

/-! ### Counters and codes leave the memories -/

/-- `t` differs from `s` only in what reads count and what becomes of stored codes. -/
def State.CountsOnly (s t : State) : Prop :=
  t = { s with flds := t.flds, freeCtr := t.freeCtr, faults := t.faults, spareCopy := t.spareCopy, sram := t.sram, ondie := t.ondie }

theorem State.CountsOnly.same (s : State) : s.CountsOnly s := Eq.refl s

theorem State.CountsOnly.trans {s t u : State} (h1 : s.CountsOnly t) (h2 : t.CountsOnly u) : s.CountsOnly u := Eq.trans h2 (by rw [h1])

theorem State.CountsOnly.foldl {α : Type} {f : State → α → State} (hf : ∀ (t : State) (x : α), t.CountsOnly (f t x)) (l : List α) (s : State) : s.CountsOnly (l.foldl f s) := by
  induction l generalizing s with
  | nil => exact .same s
  | cons x r ih => exact (hf s x).trans (ih _)

theorem State.MemWf.counts {s t : State} (h : s.MemWf) (c : s.CountsOnly t) : t.MemWf := by
  rw [c]
  exact ⟨h.device, h.host, h.peat⟩

theorem State.put_counts (s : State) (f : Fld) (i v : Nat) : s.CountsOnly (s.put f i v) := Eq.refl _

theorem State.puts_counts (s : State) (i : Nat) (fs : List (Fld × Nat)) : s.CountsOnly (s.puts i fs) := by
  rw [State.puts_eq]
  exact Eq.refl _

theorem State.bump_counts (s : State) (f : Fld) (i n : Nat) : s.CountsOnly (s.bump f i n) := Eq.refl _

theorem State.CountsOnly.ondie {s t : State} (h : s.CountsOnly t) (m : SMap Nat) : s.CountsOnly { t with ondie := m } := h.trans (Eq.refl _)

/-- Damage on a transfer's way uses free values only. -/
theorem State.wireDamage_counts (s : State) (st : Store) (off : Nat) : s.CountsOnly (s.wireDamage st off).2 := by
  unfold State.wireDamage
  suffices ∀ (l : List Nat) (acc : Nat × State), s.CountsOnly acc.2 →
      s.CountsOnly (l.foldl (fun acc y => let (w, t) := acc.2.free; (acc.1 ^^^ (w.toNat % 256 * 256 ^ y), t)) acc).2 from this _ _ (.same s)
  intro l
  induction l with
  | nil => exact fun _ h => h
  | cons y r ih => exact fun acc h => ih _ (h.trans (Eq.refl _))

theorem State.met_counts (s : State) (st : Store) (off key : Nat) : s.CountsOnly (s.met st off key).2 := s.wireDamage_counts st off

theorem State.layDamage_counts (s : State) (st : Store) (off key : Nat) : s.CountsOnly (s.layDamage st off key) :=
  (s.wireDamage_counts st off).trans (Eq.refl _)

theorem State.clearFault_counts (s : State) (st : Store) (t : Nat) : s.CountsOnly (s.clearFault st t) := by
  have h : ∀ k : Nat, s.CountsOnly ((if (SMap.get s.faults k MemFault.clean).cells then s
      else { s with faults := SMap.set s.faults k MemFault.clean MemFault.clean }).layDamage st (64 * t) k) := fun k => by
    refine State.CountsOnly.trans ?_ (State.layDamage_counts _ st (64 * t) k)
    split
    exacts [.same s, Eq.refl _]
  unfold State.clearFault
  dsimp only
  have hd := h (s.physKey st (64 * t) / 64)
  generalize State.layDamage _ st (64 * t) (s.physKey st (64 * t) / 64) = d at hd ⊢
  repeat' split
  exacts [hd.trans (Eq.refl _), hd, hd]

theorem State.recode_counts (s : State) (st : Store) (t : Nat) : s.CountsOnly (s.recode st t) := by
  unfold State.recode
  split
  exacts [Eq.refl _, s.clearFault_counts st t]

theorem State.countSram_counts (s : State) (st : Store) (v : SecdedVerdict) : s.CountsOnly (s.countSram st v) := by
  unfold State.countSram
  split
  exacts [s.bump_counts .., s.bump_counts .., s.bump_counts .., s.bump_counts .., .same s]

/-- Counting the codes of a transfer. -/
theorem State.countEcc_counts (s : State) (st : Store) (off : Nat) (o : TransferOutcome) (b : Bool) : s.CountsOnly (s.countEcc st off o b) := by
  have h0 := State.CountsOnly.ondie (.same s)
  unfold State.countEcc
  cases st with
  | fen c =>
    dsimp only
    split
    · exact ((h0 _).trans (State.bump_counts ..)).trans (State.puts_counts ..)
    · split
      · exact h0 _
      · exact ((((h0 _).trans (State.bump_counts ..)).trans (State.puts_counts ..)).trans (State.put_counts ..)).trans (State.put_counts ..)
  | marsh m =>
    dsimp only
    split
    · exact ((h0 _).trans (State.bump_counts ..)).trans (State.puts_counts ..)
    · split
      · exact h0 _
      · exact ((h0 _).trans (State.bump_counts ..)).trans (State.puts_counts ..)
  | cache => exact .same s
  | pool c => exact .same s

theorem readTransfer_counts (st : Store) (off : Nat) (r : ReadRes) (t : Nat) : r.st.CountsOnly (readTransfer st off r t).st := by
  have h := r.st.met_counts st (64 * t) (r.st.physKey st (64 * t) / 64)
  unfold readTransfer
  dsimp only
  split
  exacts [h, h.trans (State.countEcc_counts ..)]

theorem readSramWord_counts (st : Store) (off : Nat) (r : ReadRes) (t : Nat) : r.st.CountsOnly (readSramWord st off r t).st := by
  unfold readSramWord
  dsimp only
  split
  exacts [.same _, State.countSram_counts .., State.countSram_counts .., State.countSram_counts ..]

/-- Everything a read can change. -/
theorem State.readMem_counts (s : State) (st : Store) (off n : Nat) : s.CountsOnly (s.readMem st off n).st := by
  have fold (f : ReadRes → Nat → ReadRes) (hf : ∀ (r : ReadRes) (k : Nat), r.st.CountsOnly (f r k).st) (l : List Nat) (r : ReadRes) : r.st.CountsOnly (l.foldl f r).st := by
    induction l generalizing r with
    | nil => exact .same _
    | cons k l ih => exact (hf r k).trans (ih _)
  unfold State.readMem
  dsimp only
  split
  · split
    exacts [.same s, fold _ (fun r k => readSramWord_counts st off r (off / 8 + k)) _ _]
  · split
    exacts [.same s, fold _ (fun r k => readTransfer_counts st off r (off / 64 + k)) _ _]

/-! ### Writes -/

/-- `t` differs from `s` only in what a write of device memory changes: the memory, its codes and counters, reservations it breaks. -/
def State.StoresOnly (s t : State) : Prop :=
  t = { s with
    flds := t.flds, freeCtr := t.freeCtr, faults := t.faults, spareCopy := t.spareCopy, sram := t.sram, ondie := t.ondie, mem := t.mem, cores := t.cores }

theorem State.StoresOnly.same (s : State) : s.StoresOnly s := Eq.refl s

theorem State.StoresOnly.trans {s t u : State} (h1 : s.StoresOnly t) (h2 : t.StoresOnly u) : s.StoresOnly u := Eq.trans h2 (by rw [h1])

theorem State.CountsOnly.stores {s t : State} (h : s.CountsOnly t) : s.StoresOnly t := Eq.trans h (by rw [h])

theorem State.rawWrite_stores (s : State) (st : Store) (off : Nat) (bs : List Byte) : s.StoresOnly (s.rawWrite st off bs) := by
  rw [State.rawWrite_eq]
  exact Eq.refl _

/-- One piece of a write. -/
theorem writeUnit_stores (st : Store) (r : WriteRes) (e : Nat × List Byte) : r.st.StoresOnly (writeUnit st r e).st := by
  unfold writeUnit
  dsimp only
  split
  · exact .same _
  · split
    · exact (State.recode_counts ..).stores.trans (State.rawWrite_stores ..)
    · have h := r.st.readMem_counts st (e.1 / st.unit * st.unit) st.unit
      split
      exacts [h.stores, (h.trans (State.recode_counts ..)).stores.trans (State.rawWrite_stores ..)]

theorem writeUnit_memWf (st : Store) {r : WriteRes} (h : r.st.MemWf) (e : Nat × List Byte) : (writeUnit st r e).st.MemWf := by
  unfold writeUnit
  dsimp only
  split
  · exact h
  · split
    · exact State.rawWrite_memWf (h.counts (State.recode_counts ..)) ..
    · have hr := h.counts (r.st.readMem_counts st (e.1 / st.unit * st.unit) st.unit)
      split
      exacts [hr, State.rawWrite_memWf (hr.counts (State.recode_counts ..)) ..]

/-- Everything a write can change (R117). -/
theorem State.writeMem_stores (s : State) (st : Store) (off : Nat) (bs : List Byte) : s.StoresOnly (s.writeMem st off bs).st := by
  have fold (l : List (Nat × List Byte)) (r : WriteRes) : r.st.StoresOnly (l.foldl (writeUnit st) r).st := by
    induction l generalizing r with
    | nil => exact .same _
    | cons e l ih => exact (writeUnit_stores st r e).trans (ih _)
  unfold State.writeMem
  generalize (if st.isSram = true then s.sram.isEmpty else s.noFaults) = clean
  split
  · exact .same s
  · split
    exacts [s.rawWrite_stores .., fold _ _]

theorem State.writeMem_memWf {s : State} (h : s.MemWf) (st : Store) (off : Nat) (bs : List Byte) : (s.writeMem st off bs).st.MemWf := by
  have fold (l : List (Nat × List Byte)) (r : WriteRes) (hr : r.st.MemWf) : (l.foldl (writeUnit st) r).st.MemWf := by
    induction l generalizing r with
    | nil => exact hr
    | cons e l ih => exact ih _ (writeUnit_memWf st hr e)
  unfold State.writeMem
  generalize (if st.isSram = true then s.sram.isEmpty else s.noFaults) = clean
  split
  · exact h
  · split
    exacts [State.rawWrite_memWf h .., fold _ _ h]

/-- With no pattern stored and no bond or wire failed, a write stores its bytes and finds nothing. -/
theorem State.writeMem_clean {s : State} (st : Store) (off : Nat) {bs : List Byte} (hb : bs ≠ []) (h : (if st.isSram then s.sram.isEmpty else s.noFaults) = true) :
    s.writeMem st off bs = ⟨s.rawWrite st off bs, none, []⟩ := by
  have : bs.isEmpty = false := by cases bs <;> simp_all
  simp [State.writeMem, this, h]

/-! ### The host path and host memory -/

theorem State.hostStore_memWf {s : State} (h : s.MemWf) (a : Nat) (bs : List Byte) : (s.hostStore a bs).MemWf :=
  ⟨h.device, SMap.wf_setList 0 bs a h.host, h.peat⟩

/-- A store to host memory reads back. -/
theorem State.hostRead_hostStore (s : State) (a : Nat) (bs : List Byte) : (s.hostStore a bs).hostRead a bs.length = bs :=
  SMap.getList_setList 0 bs s.hostMem a

/-- A store to host memory changes the bytes it names only. -/
theorem State.hostStore_other (s : State) (a : Nat) (bs : List Byte) (k : Nat) (h : ¬(a ≤ k ∧ k < a + bs.length)) :
    SMap.get (s.hostStore a bs).hostMem k 0 = SMap.get s.hostMem k 0 := by
  simp [State.hostStore, SMap.get_setList, h]

/-- A flip mask's pattern is a code's matter. -/
theorem State.layFlip_counts (s : State) (st : Store) (t target data check : Nat) : s.CountsOnly (s.layFlip st t target data check) := by
  unfold State.layFlip
  dsimp only
  split <;> exact Eq.refl _

/-- A write from the host path adds to a write the pattern of an armed flip mask, and reports it (R121). -/
theorem State.hostWriteMem_counts (s : State) (st : Store) (off : Nat) (bs : List Byte) : (s.writeMem st off bs).st.CountsOnly (s.hostWriteMem st off bs).st := by
  have flip (t : State) (st : Store) (u a b c : Nat) (f g : Fld) (i j : Nat) : t.CountsOnly (((t.layFlip st u a b c).put f i 0).put g j 1) :=
    ((t.layFlip_counts ..).trans (State.put_counts ..)).trans (State.put_counts ..)
  unfold State.hostWriteMem
  cases st with
  | fen c =>
    dsimp only
    repeat' split
    all_goals first
      | exact flip ..
      | exact .same _
  | marsh m =>
    dsimp only
    repeat' split
    all_goals first
      | exact flip ..
      | exact .same _
  | cache => exact .same _
  | pool c => exact .same _

theorem State.hostWriteMem_memWf {s : State} (h : s.MemWf) (st : Store) (off : Nat) (bs : List Byte) : (s.hostWriteMem st off bs).st.MemWf :=
  (State.writeMem_memWf h st off bs).counts (s.hostWriteMem_counts st off bs)

theorem State.busWrite_memWf {s : State} (h : s.MemWf) (device : Bool) (a : Nat) (bs : List Byte) : (s.busWrite device a bs).1.MemWf := by
  unfold State.busWrite
  dsimp only
  split
  · split
    · split
      exacts [h, State.writeMem_memWf h ..]
    · exact h
  · split
    exacts [State.hostStore_memWf h a bs, h]

/-! ### Clearing, copying and moving -/

theorem State.zeroStore_memWf {s : State} (h : s.MemWf) (st : Store) (off n : Nat) : (s.zeroStore st off n).MemWf := by
  unfold State.zeroStore
  split <;> exact ⟨SMap.wf_clearRange _ _ h.device, h.host, h.peat⟩

theorem State.copyWrite_memWf {s : State} (h : s.MemWf) (key left : Nat) (bad : Bool) : (s.copyWrite key left bad).MemWf := by
  unfold State.copyWrite
  dsimp only
  split
  · exact h.congr rfl rfl rfl
  · exact ⟨SMap.wf_setList 0 _ _ h.device, h.host, h.peat⟩

/-- Pages filled in an operation's order. -/
theorem State.peatFill_memWf {s : State} (h : s.MemWf) (o : NandOp) (bs : List Byte) : (s.peatFill o bs).MemWf := by
  unfold State.peatFill
  dsimp only
  generalize List.range (o.pages * o.blocks.length) = l
  induction l generalizing s with
  | nil => exact h
  | cons i r ih => exact ih ⟨h.device, h.host, SMap.wf_setList 0 _ _ h.peat⟩

end Sys2Proof.Machine
end

