-- ==== Sys2Proof/Laws/Ops.lean ====
section
/-!
SUPPORT. Laws of the shared operations (R284 to R287, R319 to R324): everything a record, an interrupt or a completion can change, said once, and that
they keep the memories in canonical form.
-/
namespace Sys2Proof.Machine

/-- `t` differs from `s` only in what records, interrupts and completions write. -/
def State.RecordsOnly (s t : State) : Prop :=
  t = { s with
    flds := t.flds, mem := t.mem, faults := t.faults, spareCopy := t.spareCopy, sram := t.sram, ondie := t.ondie, cores := t.cores, hostMem := t.hostMem, rings := t.rings, msix := t.msix, mgmtOut := t.mgmtOut,
    logSeq := t.logSeq, logLost := t.logLost, holdoff := t.holdoff, heldIrq := t.heldIrq, heldRecs := t.heldRecs, freeCtr := t.freeCtr }

theorem State.RecordsOnly.rfl {s : State} : s.RecordsOnly s := Eq.refl s

theorem State.RecordsOnly.trans {s t u : State} (h1 : s.RecordsOnly t) (h2 : t.RecordsOnly u) : s.RecordsOnly u :=
  Eq.trans h2 (by rw [h1])

/-- What they never change: commands waiting, commands in progress, partitions, the rest of the module. -/
theorem State.RecordsOnly.keeps {s t : State} (h : s.RecordsOnly t) :
    t.pending = s.pending ∧ t.cmds = s.cmds ∧ t.parts = s.parts ∧ t.regs = s.regs ∧ t.engines = s.engines ∧ t.links = s.links ∧ t.xports = s.xports ∧
    t.repairMap = s.repairMap ∧ t.peatBlocks = s.peatBlocks ∧ t.peatData = s.peatData ∧ t.mons = s.mons ∧ t.therm = s.therm ∧ t.always = s.always ∧ t.flash = s.flash := by
  rw [h]
  and_intros <;> exact Eq.refl _

/-! ### Module writes and interrupts -/

theorem State.StoresOnly.records {s t : State} (h : s.StoresOnly t) : s.RecordsOnly t := Eq.trans h (by rw [h])

theorem State.busWrite_only (s : State) (device : Bool) (a : Nat) (bs : List Byte) : s.RecordsOnly (s.busWrite device a bs).1 := by
  unfold State.busWrite
  dsimp only
  split
  · split
    · split
      exacts [.rfl, (s.writeMem_stores ..).records]
    · exact .rfl
  · split
    exacts [Eq.refl _, .rfl]

theorem State.fire_only (s : State) (f v : Nat) : s.RecordsOnly (s.fire f v) := by unfold State.fire; split <;> exact .rfl

/-- An interrupt outside a function's table fires nothing; inside it, exactly one message (R285). -/
theorem State.fire_msix (s : State) (f v : Nat) : (s.fire f v).msix = if v < vectorsOf f then (f, v) :: s.msix else s.msix := by
  unfold State.fire; split <;> rfl

theorem State.logInterrupt_only (s : State) (f : Nat) : s.RecordsOnly (s.logInterrupt f) := by
  unfold State.logInterrupt
  repeat' split
  all_goals first
    | exact State.fire_only ..
    | exact .rfl
    | exact (State.fire_only s f _).trans .rfl

theorem State.logDrop_only (s : State) (f : Nat) : s.RecordsOnly (s.logDrop f) := Eq.refl _

/-! ### Records (R321 to R324) -/

theorem State.put_only (s : State) (f : Fld) (i v : Nat) : s.RecordsOnly (s.put f i v) := Eq.refl _

theorem State.RecordsOnly.seq {s t : State} (h : s.RecordsOnly t) (a : SMap Nat) (b : SMap Bool) : s.RecordsOnly { t with logSeq := a, logLost := b } :=
  h.trans (Eq.refl _)

theorem State.RecordsOnly.irq {s t : State} (h : s.RecordsOnly t) (f : Nat) : s.RecordsOnly (t.logInterrupt f) := h.trans (t.logInterrupt_only f)

theorem State.RecordsOnly.put {s t : State} (h : s.RecordsOnly t) (f : Fld) (i v : Nat) : s.RecordsOnly (t.put f i v) := h.trans (t.put_only f i v)

theorem State.logWrite_only (s : State) (f : Nat) (ws : List Word) : s.RecordsOnly (s.logWrite f ws) := by
  unfold State.logWrite
  split
  · exact s.logDrop_only f
  · dsimp only
    have h := s.busWrite_only (s.on .EVT_LOG_CTL_DEVICE f) (s.get .EVT_LOG_BASE_BASE f * 4096 + 32 * s.get .EVT_LOG_STATUS_WRITE f)
    split
    · exact (h _).trans (State.logDrop_only _ f)
    · exact ((((h _).put ..).put ..).seq ..).irq f

theorem State.free_only (s : State) : s.RecordsOnly s.free.2 := Eq.refl _

/-- Everything raising a record can change. -/
theorem State.event_only (s : State) (r : Rec) : s.RecordsOnly (s.event r) := by
  have pf (t : State) (ws : List Word) : t.RecordsOnly (if t.pfLogOpened || t.on .EVT_LOG_CTL_ENABLE 0 then t.logWrite 0 ws
      else if t.heldRecs.length < 1024 then { t with heldRecs := t.heldRecs ++ [ws] } else t.logDrop 0) := by
    repeat' split
    exacts [t.logWrite_only 0 ws, Eq.refl _, t.logDrop_only 0]
  have vf (t : State) (v : Nat) (ws : List Word) : t.RecordsOnly (if v = 0 then t else t.logWrite v ws) := by
    split
    exacts [.rfl, t.logWrite_only v ws]
  have mg (t u : State) (l : List (List Word)) (h : t.RecordsOnly u) : t.RecordsOnly { u with mgmtOut := l } := h.trans (Eq.refl _)
  have both (v : Nat) (ws : List Word) := (s.free_only.trans (pf s.free.2 ws)).trans (vf _ v ws)
  unfold State.event
  dsimp only
  split
  · exact mg _ _ _ (both _ _)
  · exact both _ _

theorem State.eventFree_only (s : State) (r : Rec) : s.RecordsOnly (s.eventFree r) := s.free_only.trans (State.event_only _ _)

theorem State.eccEvent_only (s : State) (n : EccNote) : s.RecordsOnly (s.eccEvent n) := by
  unfold State.eccEvent State.eccEventOf
  split <;> exact State.event_only ..

theorem State.eccEvents_only (ns : List EccNote) (s : State) : s.RecordsOnly (s.eccEvents ns) := by
  induction ns generalizing s with
  | nil => exact .rfl
  | cons n r ih => exact (s.eccEvent_only n).trans (ih _)

/-! ### Completions (R284, R287) -/

theorem State.setRing_only (s : State) (r : Nat) (v : Ring) : s.RecordsOnly (s.setRing r v) := Eq.refl _

theorem State.coalesce_only (s : State) (r : Nat) (intr : Bool) : s.RecordsOnly (s.coalesce r intr) := by
  unfold State.coalesce
  dsimp only
  split
  · exact (s.setRing_only ..).trans (State.fire_only ..)
  · exact s.setRing_only ..

theorem State.ringError_only (s : State) (r kind a : Nat) : s.RecordsOnly (s.ringError r kind a) := by
  unfold State.ringError
  exact (((s.put_only ..).put ..).trans (State.setRing_only ..)).trans (State.event_only ..)

/-- Everything writing a completion can change. -/
theorem State.writeComp_only (s : State) (c : Comp) : s.RecordsOnly (s.writeComp c) := by
  unfold State.writeComp
  dsimp only
  split
  · exact .rfl
  · split
    · exact (s.busWrite_only ..).trans (State.ringError_only ..)
    · exact (s.busWrite_only ..).trans ((State.setRing_only ..).trans (State.coalesce_only ..))

theorem State.postComp_only (s : State) (c : Comp) : s.RecordsOnly (s.postComp c) := by
  unfold State.postComp
  dsimp only
  split
  exacts [s.setRing_only .., s.writeComp_only c]

theorem State.flushComps_only (fuel : Nat) (s : State) (r : Nat) : s.RecordsOnly (s.flushComps fuel r) := by
  induction fuel generalizing s with
  | zero => exact .rfl
  | succ n ih =>
    unfold State.flushComps
    dsimp only
    split
    · exact .rfl
    · split
      · exact .rfl
      · exact ((s.setRing_only ..).trans (State.writeComp_only ..)).trans (ih _)

/-- A command's completion changes what a completion writes, and nothing else. -/
theorem State.complete_only (s : State) (q : Req) (d : Bool) (status gust r0 r1 : Nat) : s.RecordsOnly (s.complete q d status gust r0 r1) := by
  unfold State.complete
  split
  exacts [.rfl, s.postComp_only _]

theorem State.done_only (s : State) (q : Req) (status r0 r1 : Nat) : s.RecordsOnly (s.done q status r0 r1) := s.complete_only ..

/-- No completion with QUIET and ST_OK (R286). -/
theorem State.done_quiet (s : State) {q : Req} (h : q.quiet = true) (r0 r1 : Nat) : s.done q stOk r0 r1 = s := by
  simp [State.done, State.complete, h]

/-- While its completion ring is full, a completion waits (R284). -/
theorem State.postComp_full (s : State) (c : Comp) (h : (s.ring c.ring).full = true) :
    s.postComp c = s.setRing c.ring { s.ring c.ring with waiting := (s.ring c.ring).waiting ++ [c] } := by
  simp [State.postComp, h]

/-! ### The memories keep their canonical form -/

theorem State.MemWf.put {s : State} (h : s.MemWf) (f : Fld) (i v : Nat) : (s.put f i v).MemWf := ⟨h.device, h.host, h.peat⟩

theorem State.MemWf.setRing {s : State} (h : s.MemWf) (r : Nat) (v : Ring) : (s.setRing r v).MemWf := ⟨h.device, h.host, h.peat⟩

theorem State.MemWf.seq {s : State} (h : s.MemWf) (a : SMap Nat) (b : SMap Bool) : State.MemWf { s with logSeq := a, logLost := b } := ⟨h.device, h.host, h.peat⟩

theorem State.MemWf.mgmt {s : State} (h : s.MemWf) (a : List (List Word)) : State.MemWf { s with mgmtOut := a } := ⟨h.device, h.host, h.peat⟩

theorem State.MemWf.drop {s : State} (h : s.MemWf) (f : Nat) : (s.logDrop f).MemWf := ⟨h.device, h.host, h.peat⟩

theorem State.MemWf.irq {s : State} (h : s.MemWf) (f : Nat) : (s.logInterrupt f).MemWf := by
  unfold State.logInterrupt State.fire
  repeat' split
  all_goals exact ⟨h.device, h.host, h.peat⟩

theorem State.logWrite_memWf {s : State} (h : s.MemWf) (f : Nat) (ws : List Word) : (s.logWrite f ws).MemWf := by
  unfold State.logWrite
  split
  · exact h.drop f
  · dsimp only
    have hb := State.busWrite_memWf h (s.on .EVT_LOG_CTL_DEVICE f) (s.get .EVT_LOG_BASE_BASE f * 4096 + 32 * s.get .EVT_LOG_STATUS_WRITE f)
    split
    · exact (hb _).drop f
    · exact ((((hb _).put ..).put ..).seq ..).irq f

theorem State.event_memWf {s : State} (h : s.MemWf) (r : Rec) : (s.event r).MemWf := by
  have pf (t : State) (ht : t.MemWf) (ws : List Word) : (if t.pfLogOpened || t.on .EVT_LOG_CTL_ENABLE 0 then t.logWrite 0 ws
      else if t.heldRecs.length < 1024 then { t with heldRecs := t.heldRecs ++ [ws] } else t.logDrop 0).MemWf := by
    repeat' split
    exacts [State.logWrite_memWf ht 0 ws, ⟨ht.device, ht.host, ht.peat⟩, ht.drop 0]
  have vf (t : State) (ht : t.MemWf) (v : Nat) (ws : List Word) : (if v = 0 then t else t.logWrite v ws).MemWf := by
    split
    exacts [ht, State.logWrite_memWf ht v ws]
  have hf : s.free.2.MemWf := ⟨h.device, h.host, h.peat⟩
  have both (v : Nat) (ws : List Word) := vf _ (pf s.free.2 hf ws) v ws
  unfold State.event
  dsimp only
  split
  exacts [(both _ _).mgmt _, both _ _]

theorem State.eccEvents_memWf (ns : List EccNote) {s : State} (h : s.MemWf) : (s.eccEvents ns).MemWf := by
  have one (t : State) (ht : t.MemWf) (n : EccNote) : (t.eccEvent n).MemWf := by
    unfold State.eccEvent State.eccEventOf
    split <;> exact State.event_memWf ht _
  induction ns generalizing s with
  | nil => exact h
  | cons n r ih => exact ih (one s h n)

theorem State.writeComp_memWf {s : State} (h : s.MemWf) (c : Comp) : (s.writeComp c).MemWf := by
  have co (t : State) (ht : t.MemWf) (r : Nat) (b : Bool) : (t.coalesce r b).MemWf := by
    unfold State.coalesce State.fire
    dsimp only
    repeat' split
    all_goals exact ⟨ht.device, ht.host, ht.peat⟩
  unfold State.writeComp
  dsimp only
  split
  · exact h
  · have hb := State.busWrite_memWf h (s.on .HST_RING_CTL_CQ_DEVICE c.ring) (s.get .HST_RING_CQ_BASE_BASE c.ring * 4096 + 32 * (s.ring c.ring).prod)
      (wordsToBytes (s.compWords c))
    split
    · unfold State.ringError
      exact State.event_memWf (((hb.put ..).put ..).setRing ..) _
    · exact co _ (hb.setRing ..) _ _

theorem State.done_memWf {s : State} (h : s.MemWf) (q : Req) (status r0 r1 : Nat) : (s.done q status r0 r1).MemWf := by
  unfold State.done State.complete
  split
  · exact h
  · unfold State.postComp
    dsimp only
    split
    · exact ⟨h.device, h.host, h.peat⟩
    · exact State.writeComp_memWf h _

theorem State.MemWf.puts {s : State} (h : s.MemWf) (i : Nat) (fs : List (Fld × Nat)) : (s.puts i fs).MemWf := by
  rw [State.puts_eq]
  exact ⟨h.device, h.host, h.peat⟩

theorem State.MemWf.bump {s : State} (h : s.MemWf) (f : Fld) (i n : Nat) : (s.bump f i n).MemWf := h.put ..

theorem State.MemWf.ondie {s : State} (h : s.MemWf) (m : SMap Nat) : State.MemWf { s with ondie := m } := ⟨h.device, h.host, h.peat⟩

/-- A store: its write, and the records of what it found. -/
theorem State.store_only (s : State) (st : Store) (off : Nat) (bs : List Byte) : s.RecordsOnly (s.store st off bs).1 :=
  (s.writeMem_stores st off bs).records.trans (State.eccEvents_only ..)

theorem State.store_memWf {s : State} (h : s.MemWf) (st : Store) (off : Nat) (bs : List Byte) : (s.store st off bs).1.MemWf :=
  State.eccEvents_memWf _ (State.writeMem_memWf h st off bs)

/-- A store where nothing can hold an error: the bytes, no record, no refusal. -/
theorem State.store_clean {s : State} (st : Store) (off : Nat) {bs : List Byte} (hb : bs ≠ []) (h : (if st.isSram then s.sram.isEmpty else s.noFaults) = true) :
    s.store st off bs = (s.rawWrite st off bs, false) := by
  simp [State.store, State.writeMem_clean st off hb h, WriteRes.settle, State.eccEvents]

theorem State.hostWrite_memWf {s : State} (h : s.MemWf) (st : Store) (off : Nat) (bs : List Byte) : (s.hostWrite st off bs).1.MemWf :=
  State.eccEvents_memWf _ (State.hostWriteMem_memWf h st off bs)

/-! ### Copies to spares -/

theorem State.copyRead_memWf {s : State} (h : s.MemWf) (st : Store) (off key : Nat) : (s.copyRead st off key).1.MemWf := by
  have hm := h.counts (s.met_counts st off key)
  unfold State.copyRead
  dsimp only
  split
  exacts [hm, State.eccEvents_memWf _ (hm.counts (State.countEcc_counts ..))]

theorem State.MemWf.overBonds {s : State} (h : s.MemWf) (t : State) : (s.overBonds t).MemWf := ⟨h.device, h.host, h.peat⟩

/-- Copying a row to a spare. -/
theorem State.copyRow_memWf {s : State} (h : s.MemWf) (site off src dst : Nat) : (s.copyRow site off src dst).1.MemWf := by
  unfold State.copyRow
  dsimp only
  have h0 : State.MemWf { s.atBanks with mem := SMap.copyRange 0 s.mem src dst 2048 } := ⟨SMap.wf_copyRange 0 src dst 2048 h.device, h.host, h.peat⟩
  refine State.MemWf.overBonds ?_ s
  suffices ∀ (l : List Nat) (acc : State × Nat), acc.1.MemWf → (l.foldl (fun acc k =>
      let (s, left, bad) := acc.1.copyRead (.fen site) (off + 64 * k) (src / 64 + k)
      (s.copyWrite (dst / 64 + k) left bad, acc.2 + Bool.bit bad)) acc).1.MemWf from this _ _ h0
  intro l
  induction l with
  | nil => exact fun _ ha => ha
  | cons k r ih => exact fun acc ha => ih _ (State.copyWrite_memWf (State.copyRead_memWf ha ..) _ _ _)

theorem State.MemWf.foldl {α : Type} {f : State → α → State} (hf : ∀ t x, t.MemWf → (f t x).MemWf) (l : List α) {t : State} (ht : t.MemWf) : (l.foldl f t).MemWf := by
  induction l generalizing t with
  | nil => exact ht
  | cons x r ih => exact ih (hf t x ht)

theorem State.MemWf.storeByte {s : State} (h : s.MemWf) (k : Nat) (v : Byte) : State.MemWf { s with mem := SMap.set s.mem k v 0 } :=
  ⟨SMap.wf_set (d := fun _ => 0) _ _ h.device, h.host, h.peat⟩

/-- Moving a slice. -/
theorem State.moveSlice_memWf {s : State} (h : s.MemWf) (a b : Nat) : (s.moveSlice a b).MemWf := by
  unfold State.moveSlice
  generalize sliceKeys a = ks
  have hz := State.zeroStore_memWf h (.fen b) 0 0x48000000
  generalize s.zeroStore (.fen b) 0 0x48000000 = z at hz ⊢
  obtain ⟨lo, hi⟩ := ks
  refine State.MemWf.foldl (fun t x ht => ?_) _ (State.MemWf.foldl (fun t x ht => ?_) _ hz)
  · dsimp only
    split
    exacts [State.copyWrite_memWf ht _ _ _, ht]
  · split
    exacts [ht.storeByte _ _, ht]

end Sys2Proof.Machine
end

