-- ==== Sys2Proof/Laws/Host.lean ====
section
/-!
SUPPORT. Laws of the packet wrapper (R286, R292, R298, R366, R367): the cases of a host command, each said once.
-/
namespace Sys2Proof.Machine

/-- An accepted command runs: nothing of the wrapper is left. -/
theorem hostRow_accepted {s : State} {op : HostOp} {q : Req} {ps : List Word} (h : s.Accepts op q ps) {chk : State → Nat} (hc : chk s = 0) (run : State → State) :
    hostRow op q ps chk run s = .next (run s) := by
  have hb : ¬(s.get .HST_RING_CTL_OWNER q.ring.val ≠ 0 ∧ (!s.on .HST_FUNC_CTL_BOUND (s.get .HST_RING_CTL_OWNER q.ring.val)) = true) := by
    rintro ⟨h1, h2⟩
    rcases h.bound with h3 | h3
    · exact h1 h3
    · simp [h3] at h2
  have hd : (s.inDoldrums && !doldrumsAccepts op.code) = false := by rcases h.awake with h1 | h1 <;> simp [h1]
  have hp : ¬(s.get .PWR_STATE_STATE 0 = 2 ∧ (!sleepAccepts op.code) = true) := by
    rintro ⟨h1, h2⟩
    rcases h.powered with h3 | h3
    · exact h3 h1
    · simp [h3] at h2
  simp only [hostRow, State.whenClocked, h.clocked, if_true, State.hostCmd, if_neg hb, h.formed, hc, ite_self, ne_eq, not_true, if_false, hd, Bool.false_eq_true,
    if_neg hp, h.gate]

/-- Clocks that stand still (R366, R410): nothing happens. -/
theorem hostRow_stopped {s : State} (h : s.clocked = false) (op : HostOp) (q : Req) (ps : List Word) (chk : State → Nat) (run : State → State) :
    hostRow op q ps chk run s = .next s := by simp [hostRow, State.whenClocked, h]

/-- A function that is bound to no partition gets ST_DISABLED (R276). -/
theorem hostRow_unbound {s : State} (hk : s.clocked = true) {q : Req} (h0 : s.get .HST_RING_CTL_OWNER q.ring.val ≠ 0)
    (hb : s.on .HST_FUNC_CTL_BOUND (s.get .HST_RING_CTL_OWNER q.ring.val) = false) (op : HostOp) (ps : List Word) (chk : State → Nat) (run : State → State) :
    hostRow op q ps chk run s = .next (s.done q stDisabled) := by
  simp [hostRow, State.whenClocked, hk, State.hostCmd, h0, hb]

/-- A malformed packet of a bound function is refused with its REASON (R292, R298). -/
theorem hostRow_malformed {s : State} (hk : s.clocked = true) {q : Req} {op : HostOp} {ps : List Word}
    (hb : s.get .HST_RING_CTL_OWNER q.ring.val = 0 ∨ s.on .HST_FUNC_CTL_BOUND (s.get .HST_RING_CTL_OWNER q.ring.val) = true)
    (hr : s.packetReason op q ps ≠ 0) (chk : State → Nat) (run : State → State) :
    hostRow op q ps chk run s = .next (s.badPacket q op.code (s.packetReason op q ps)) := by
  have hb' : ¬(s.get .HST_RING_CTL_OWNER q.ring.val ≠ 0 ∧ (!s.on .HST_FUNC_CTL_BOUND (s.get .HST_RING_CTL_OWNER q.ring.val)) = true) := by
    rintro ⟨h1, h2⟩
    rcases hb with h3 | h3
    · exact h1 h3
    · simp [h3] at h2
  have hn : ¬(s.packetReason op q ps = 0 ∧ (12 ≤ q.part.val ∨ s.get .PART_STATUS_STATE q.part.val ≠ 0)) := fun c => hr c.1
  simp only [hostRow, State.whenClocked, hk, if_true, State.hostCmd, if_neg hb', if_neg hn, if_pos hr]

/-- A command with PARTITION 15 passes every partition's gate. -/
theorem State.gate_module (s : State) (op p : Nat) (h : 12 ≤ p) : s.gate p op = (none, s) := by
  unfold State.gate
  simp only [ge_iff_le, h, if_true]

/-- A host row always answers a next state. -/
theorem hostRow_next (op : HostOp) (q : Req) (ps : List Word) (chk : State → Nat) (run : State → State) (s : State) : ∃ t, hostRow op q ps chk run s = .next t :=
  ⟨_, rfl⟩

end Sys2Proof.Machine
end

