-- ==== Sys2Proof/Tests/Slice0.lean ====
section
/-!
SUPPORT. Tests: a term that each check of WellFormed refuses, witnesses for the statements' hypotheses, and small facts with their values taken from the spec.
-/
open Sys2Proof Sys2Proof.Machine
namespace Sys2Proof.Tests

set_option Elab.async false

/-! ### Small states -/

/-- Fields set one after another. -/
def setAll (s : State) (fs : List (Fld × Nat × Nat)) : State := fs.foldl (fun t e => t.put e.1 e.2.1 e.2.2) s

/-- A header on ring 0 for a partition. -/
def hdr (p : Fin 16) : Req := ⟨0, 7, p, false, false, false, false⟩

/-- The module with its host link up. -/
def up : State := setAll State.reset [(.HST_LINK_STATUS_UP, 0, 1)]

/-- Partition 0 created with an intact map entry, a shared cache region of 1 MiB, and the job state given; its dies are left to each test. -/
def owned (x : Part) : State :=
  (setAll up [(.PART_STATUS_STATE, 0, 2), (.PART_SHC_BYTES, 0, 0x100000)]).setPart 0 { x with map := Tri.of [1] }

/-- Ring 0 owned by VF 1, bound to partition 2 or not. -/
def vfRing (bound : Nat) : State :=
  setAll up [(.HST_RING_CTL_OWNER, 0, 1), (.HST_FUNC_CTL_BOUND, 1, bound), (.HST_FUNC_CTL_PARTITION, 1, 2)]

/-- A plan header for partition 0 without dies: one slot, the reset period and lull, its CRC right (R22). -/
def planWords : List Word :=
  let w : List Word := [0x0000002A00010001, 0x0000012C00002710, 0x40000000400, 0, 0, 0, 0]
  w ++ [BitVec.ofNat 64 (crc32 (wordsToBytes w))]

/-- Partition 0 with tokens at the shared cache. -/
def paid (n : Int) : State := (owned Part.fresh).setReg resCache 0 { Reg.zero with ceil := n }

/-- The plan of `planWords` at the bottom of the shared cache. -/
def planned (n : Int) : State := ((paid n).writeMem .cache 0 (wordsToBytes planWords)).1

/-- A function's answer, where what it gives first is known. -/
theorem answer_of {α β : Type} {x : α × β} {a : α} (h : x.1 = a) : ∃ b, x = (a, b) := ⟨x.2, by rw [← h]⟩

/-! ### Witnesses: the hypotheses of each statement hold together in a small state -/

theorem witness_FormedCommandsRun : (Instr.lullStart).wellFormed = true ∧ (Instr.windowWrite 0 0 []).wellFormed = false := by decide +kernel

theorem witness_StoppedModuleHoldsStill :
    let s : State := { setAll State.reset [(.FRZ_STATUS_FROZEN, 0, 1)] with pending := [.lullStart, .markerSend] }
    s.heldStill ∧ step s = .next { s with pending := [.markerSend] } := ⟨by unfold State.heldStill; decide +kernel, rfl⟩

theorem witness_MalformedPacketsRefused :
    (Instr.jobStart { hdr 0 with tag := 0xFFFF } 0).hostCommand = some (opJobStart, { hdr 0 with tag := 0xFFFF }, [0]) ∧
    (Instr.jobStart { hdr 0 with tag := 0xFFFF } 0).wellFormed = true ∧ up.clocked = true ∧ up.get .HST_RING_CTL_OWNER 0 = 0 ∧
    up.packetReason opJobStart { hdr 0 with tag := 0xFFFF } [0] = 5 := ⟨rfl, by decide +kernel, by decide +kernel, by decide +kernel, by decide +kernel⟩

theorem witness_IssuersChecked_unbound : (vfRing 0).clocked = true ∧ (vfRing 0).get .HST_RING_CTL_OWNER 0 = 1 ∧ (vfRing 0).on .HST_FUNC_CTL_BOUND 1 = false := by decide +kernel

theorem witness_IssuersChecked_bound : (vfRing 1).clocked = true ∧ (vfRing 1).get .HST_RING_CTL_OWNER 0 = 1 ∧ (vfRing 1).on .HST_FUNC_CTL_BOUND 1 = true ∧
    (vfRing 1).get .HST_FUNC_CTL_PARTITION 1 = 2 ∧ reservedSet [0] opJobStart.masks = false ∧ opJobStart.scope = .any ∧ opGustSet.scope = .pfModule ∧
    (Instr.gustSet (hdr 15) 0 0 0).hostCommand = some (opGustSet, hdr 15, [0, 0, 0]) := by decide +kernel

theorem witness_ModesRefuseCommands_doldrums : let s := setAll up [(.PART_DOLDRUMS_ACTIVE, 0, 1)]
    s.clocked = true ∧ s.get .HST_RING_CTL_OWNER 0 = 0 ∧ s.inDoldrums = true ∧ opJobStart.code ∉ [0x18, 0x3C, 0x3D, 0x2B, 0x39, 0x38, 0x49, 0x4A, 0x51] := by decide +kernel

theorem witness_ModesRefuseCommands_sleep : let s := setAll up [(.PWR_STATE_STATE, 0, 2)]
    s.clocked = true ∧ s.get .HST_RING_CTL_OWNER 0 = 0 ∧ s.inDoldrums = false ∧ s.get .PWR_STATE_STATE 0 = 2 ∧
    opJobStart.code ∉ [0x38, 0x39, 0x3C, 0x3D, 0x2B, 0x49, 0x50, 0x51] := by decide +kernel

theorem witness_PartitionStateGates : ∀ st : Nat, st < 6 → let s := setAll up [(.PART_STATUS_STATE, 0, st)]
    s.clocked = true ∧ s.get .HST_RING_CTL_OWNER 0 = 0 ∧ s.inDoldrums = false ∧ s.get .PWR_STATE_STATE 0 ≠ 2 ∧ s.packetReason opJobStart (hdr 0) [0] = 0 ∧
    s.get .PART_STATUS_STATE 0 = st := by decide +kernel

theorem witness_PartitionStateGates_passes : (owned Part.fresh).get .PART_STATUS_STATE 0 = 2 ∧ SMap.wf (owned Part.fresh).parts (fun _ => Part.fresh) = true ∧
    ((owned Part.fresh).part 0).mapLost = false ∧ ((owned Part.fresh).part 0).map = Tri.of [1] := by decide +kernel

theorem witness_VotesRecoverMinority : let t : Tri (List Word) := ⟨some [1], some [2], none⟩
    (none : Option (List Word)) ≠ some [1] ∧ (t.c0 = none ∨ (t.c0 ≠ t.c1 ∧ t.c0 ≠ t.c2)) ∧ (t.c1 = none ∨ t.c1 ≠ t.c2) := by decide +kernel

theorem witness_CompletionEntryWritten : up.hostUp = true ∧ up.on .HST_RING_CTL_CQ_DEVICE 0 = false ∧ up.get .HST_RING_CTL_COALESCE_COUNT 0 = 0 ∧
    (up.ring 0).full = false ∧ (up.ring 0).waiting = [] ∧ ¬((hdr 0).quiet = true ∧ stOk = 0) := by decide +kernel

/-! Jobs and plans. -/

/-- Acceptance, as one fact to decide. -/
theorem accepts_of {s : State} {op : HostOp} {q : Req} {ps : List Word}
    (h : s.clocked = true ∧ (s.get .HST_RING_CTL_OWNER q.ring.val = 0 ∨ s.on .HST_FUNC_CTL_BOUND (s.get .HST_RING_CTL_OWNER q.ring.val) = true) ∧
      s.packetReason op q ps = 0 ∧ (s.inDoldrums = false ∨ doldrumsAccepts op.code = true) ∧ (s.get .PWR_STATE_STATE 0 ≠ 2 ∨ sleepAccepts op.code = true) ∧
      s.gate q.part.val op.code = (none, s)) : s.Accepts op q ps := ⟨h.1, h.2.1, h.2.2.1, h.2.2.2.1, h.2.2.2.2.1, h.2.2.2.2.2⟩

theorem witness_PlanArm : ∃ s x, State.Accepts s opPlanArm (hdr 0) [5] ∧ s.armCheck 0 = (.ok x, s) :=
  ⟨owned { Part.fresh with loaded := some (Tri.of planWords) }, (planWords, []), accepts_of (by decide +kernel), by decide +kernel⟩

theorem witness_PlanDisarm : ∃ s, State.Accepts s opPlanDisarm (hdr 0) [] ∧ (s.part 0).armed.isSome = true :=
  ⟨owned { Part.fresh with armed := some (Tri.of planWords) }, accepts_of (by decide +kernel), by decide +kernel⟩

theorem witness_PlanDisarm_none : ∃ s, State.Accepts s opPlanDisarm (hdr 0) [] ∧ (s.part 0).armed = none ∧ s.pendingFor 0 BCmd.isArm = false :=
  ⟨owned Part.fresh, accepts_of (by decide +kernel), by decide +kernel⟩

theorem witness_GustSet : up.Accepts opGustSet (hdr 15) [1, 0x12C00002710, 0] ∧ gustValuesOk (fieldOf 0x12C00002710 17 0) (fieldOf 0x12C00002710 47 32) = true ∧
    up.gustBegun 1 = false ∧ ∀ k, k < 12 → up.armed k = false := ⟨accepts_of (by decide +kernel), by decide +kernel, by decide +kernel, by decide +kernel⟩

theorem witness_GustSet_armed : let s := owned { Part.fresh with armed := some (Tri.of planWords) }
    s.Accepts opGustSet (hdr 15) [1, 0x12C00002710, 0] ∧ s.gustBegun 1 = false ∧ s.armed 0 = true := ⟨accepts_of (by decide +kernel), by decide +kernel, by decide +kernel⟩

theorem witness_JobStart : ∃ s, State.Accepts s opJobStart (hdr 0) [0] ∧ s.get .PART_STATUS_STATE 0 ≠ 5 ∧ (s.part 0).running = false ∧ s.pendingFor 0 BCmd.isStart = false :=
  ⟨owned Part.fresh, accepts_of (by decide +kernel), by decide +kernel⟩

theorem witness_JobRuns : ∃ s, State.Accepts s opJobStop (hdr 0) [] ∧ State.Accepts s opJobStart (hdr 0) [0] ∧ State.Accepts s opJobRewind (hdr 0) [] ∧
    (s.part 0).running = true ∧ s.get .PART_STATUS_STATE 0 ≠ 5 :=
  ⟨owned { Part.fresh with running := true }, accepts_of (by decide +kernel), accepts_of (by decide +kernel),
    accepts_of (by decide +kernel), by decide +kernel⟩

theorem witness_JobOfLost : let s := setAll (owned Part.fresh) [(.PART_STATUS_STATE, 0, 5)]
    s.Accepts opJobStart (hdr 0) [0] ∧ s.Accepts opPlanArm (hdr 0) [0] ∧ s.get .PART_STATUS_STATE 0 = 5 ∧ (s.part 0).loaded = none ∧ (s.part 0).running = false :=
  ⟨accepts_of (by decide +kernel), accepts_of (by decide +kernel), by decide +kernel⟩

theorem witness_PlanLoad : (planned 1000).Accepts opPlanLoad (hdr 0) [0x40000000000] ∧ ((planned 1000).cmdRange 0 0x40000000000 64).isSome = true ∧
    ((planned 1000).cmds.any fun c => c.staging 0 || c.awaitsLoad 0) = false ∧ ∃ x, (planned 1000).tryLoad 0 0x40000000000 = (some (.ok (planWords, false)), x) :=
  ⟨accepts_of (by decide +kernel), by decide +kernel, by decide +kernel, answer_of (by decide +kernel)⟩

/-- A header of zeros. -/
theorem witness_PlanLoad_broken : (paid 1000).Accepts opPlanLoad (hdr 0) [0x40000000000] ∧ (∃ x, (paid 1000).tryLoad 0 0x40000000000 = (some (.error stBadPacket), x)) ∧
    (∃ v, (paid 1000).loadRead 0 0x40000000000 64 false = (.ok (List.replicate 64 0), v)) ∧ hdrOk (bytesToWords 8 (List.replicate 64 0)) = false :=
  ⟨accepts_of (by decide +kernel), answer_of (by decide +kernel), answer_of (by decide +kernel), by decide +kernel⟩

/-- No tokens at the shared cache: a load waits for them. -/
theorem witness_PlanLoad_tokens : (planned 0).Accepts opPlanLoad (hdr 0) [0x40000000000] ∧ ∃ x, (planned 0).tryLoad 0 0x40000000000 = (none, x) :=
  ⟨accepts_of (by decide +kernel), answer_of (by decide +kernel)⟩

/-- A load in staging. -/
def loading (bad : Bool) : Cmd := ⟨hdr 0, 0, 1, .planLoad planWords bad, false⟩

theorem witness_PlanLoad_waits : let s : State := { owned Part.fresh with cmds := [loading false] }
    s.Accepts opPlanLoad (hdr 0) [0x40000000000] ∧ (s.cmdRange 0 0x40000000000 64).isSome = true ∧ (s.cmds.any fun c => c.staging 0 || c.awaitsLoad 0) = true :=
  ⟨accepts_of (by decide +kernel), by decide +kernel, by decide +kernel⟩

theorem witness_SegmentStagedLoadsPlan : let s : State := { owned Part.fresh with cmds := [loading false] }
    s.clocked = true ∧ s.cmds = [loading false] ∧ (loading false).kind = .planLoad planWords false ∧ planWords.length = 8 ∧ (loading false).q.part.val = 0 := by decide +kernel

theorem witness_BoundaryEffects : (loading false).q.part.val = 0 ∧ (owned Part.fresh).anyArmed = false ∧
    ((owned { Part.fresh with armed := some (Tri.of planWords) }).part 0).armed.isSome = true ∧ (owned { Part.fresh with armed := some (Tri.of planWords) }).get .PART_STATUS_STATE 0 ≠ 5 ∧
    ((owned { Part.fresh with running := true }).part 0).running = true := by decide +kernel

/-! Gusts. -/

/-- A module in which nothing is in progress, at a place of the gust. -/
def quietAt (phase : Nat) : State := { up with phase := phase }

theorem up_quiet : up.Quiet := by
  constructor
  case gustWords => exact ⟨[10000, 300, 0], by decide +kernel⟩
  all_goals decide +kernel

theorem quietAt_quiet (n : Nat) : (quietAt n).Quiet :=
  have h := up_quiet
  ⟨h.clocked, h.gusts, h.cmds, h.parts, h.cores, h.engines, h.links, h.xports, h.regs, h.mons, h.nand, h.stage, h.deskew, h.faults, h.wires, h.ondie, h.sram, h.atomHeld,
    h.xni, h.peatMapNew, h.due, h.prodSeen, h.gustWords, h.power, h.local_, h.unmetered, h.absent⟩

theorem witness_GustOfQuietModule : ∀ n, (quietAt n).Quiet ∧ (quietAt n).phase = n := fun n => ⟨quietAt_quiet n, rfl⟩

theorem witness_SquallFlagsPartition : (owned Part.fresh).incomplete 0 = false ∧ (owned { Part.fresh with refused := true }).incomplete 0 = true := by decide +kernel

theorem witness_SquallFlagsPartition_core : let s := setAll (owned Part.fresh) [(.PART_STATUS_DIE_MASK, 0, 1)]
    ∃ c ∈ s.partSites 0, (s.core c).ended = false := ⟨0, by decide +kernel, by decide +kernel⟩

theorem witness_CommitAdvancesStep : let s : State := { setAll (owned { Part.fresh with running := true, decision := some true, commitWord := Tri.of 0 }) [(.PART_SHC_BYTES, 0, 0)] with phase := 2 }
    s.clocked = true ∧ s.gustsRun = true ∧ s.phase = 2 ∧ s.cmds = [] ∧ s.stage = [] ∧ (s.part 0).running = true ∧ (s.part 0).decision = some true ∧
    (s.part 0).committed = false ∧ (s.part 0).flag = none ∧ (s.part 0).commitWord = Tri.of s.gust ∧ (s.part 0).carried = [] ∧ (s.part 0).rewrites = [] ∧ s.partEngines 0 = [] ∧
    (∀ n, n < 64 → s.on .XNI_OUTBOX_VALID (ix2 64 0 n) = false) ∧ s.get .XNI_MBOX_BASE_BASE 0 = 0 ∧ s.inRegion 0 0 32 = false ∧
    s.inForce .MON_OUT_RING_ENABLE 0 = 0 := by decide +kernel

theorem witness_GustAlignment : let s := setAll up [(.GST_SYNC_CTL_SRC, 0, 1)]; let m := setAll up [(.GST_SYNC_CTL_SRC, 0, 2), (.GST_SYNC_CTL_MASTER, 0, 1), (.XNI_PORT_STATUS_STATE, 0, 7)]
    s.clocked = true ∧ s.gustsRun = true ∧ s.get .GST_SYNC_CTL_SRC 0 = 1 ∧ m.clocked = true ∧ m.gustsRun = true ∧ m.on .GST_SYNC_CTL_MASTER 0 = true ∧
    m.get .GST_SYNC_CTL_SRC 0 = 2 ∧ m.get .GST_SYNC_CTL_UPSTREAM_PORT 0 = 0 ∧ m.get .XNI_PORT_STATUS_STATE 0 = 7 ∧ (∀ p, p < 12 → m.armed p = false) := by decide +kernel

theorem witness_GustAlignment_armed :
    let s := setAll (owned { Part.fresh with armed := some (Tri.of planWords) }) [(.GST_SYNC_CTL_SRC, 0, 2), (.XNI_PORT_STATUS_STATE, 0, 7)]
    s.anyArmed = true ∧ s.get .GST_SYNC_CTL_SRC 0 = 2 ∧ s.get .GST_SYNC_CTL_UPSTREAM_PORT 0 = 0 ∧ s.portUp 0 = true ∧ (7 : Nat) % 2 ^ 48 ≠ (s.gust + 1) % 2 ^ 48 := by decide +kernel

theorem witness_RegulatorsRefillAndCheck : up.clocked = true ∧ up.regWordOk (resOf .cache).1 (resOf .cache).2 0 0 0 = true ∧
    up.regWordOk (resOf .cache).1 (resOf .cache).2 0 1 2 = false ∧ (quietAt 0).Quiet := ⟨by decide +kernel, by decide +kernel, by decide +kernel, quietAt_quiet 0⟩

/-! Memory, key-value pages and peat. -/

theorem witness_DeviceMemoryReadsBack : up.faults = [] ∧ up.deadWires = [] ∧ up.sram = [] ∧ up.rowSpares = [] ∧ 0x47FFFFFF + [(0xA5 : Byte)].length ≤ (Store.fen 815).size ∧
    0x17FFFFFFFF + [(0xA5 : Byte)].length ≤ (Store.marsh 11).size := by decide +kernel

/-- MEM_READ and MEM_WRITE of 16 bytes at the end of a chunk of the cache; the window shows the cache. -/
def windowed : State := setAll up [(.HST_WIN_ENABLE, 0, 1), (.HST_WIN_BASE, 0, 0x40)]

theorem witness_MemoryTransfersComplete : windowed.cmds = [] ∧ windowed.faults = [] ∧ windowed.deadWires = [] ∧ windowed.sram = [] ∧ windowed.rowSpares = [] ∧ windowed.inDoldrums = false ∧
    windowed.hostUp = true ∧ (2032 : Nat) % 2048 + 16 ≤ 2048 ∧ 2032 + 16 ≤ 2 ^ 36 ∧ windowed.anyWithdrawn .cache 2032 16 = false ∧ windowed.bankHeld .cache 2032 16 = false ∧
    windowed.rowUndefined .cache 2032 16 = false ∧ windowed.reach none .cache = .served false ∧ windowed.devRange 0x400000007F0 16 = some (.cache, 2032) ∧
    windowed.windowAddr 0 2032 = 0x400000007F0 ∧ windowed.on .HST_WIN_ENABLE 0 = true ∧ windowed.ownerOf .cache 2032 = none := by decide +kernel

theorem witness_MemoryTransfersComplete_flips : (∀ c, c < 816 → windowed.on .FEN_FLIP_CTL_ARM c = false) ∧ (∀ m, m < 12 → windowed.on .MRS_FLIP_CTL_ARM m = false) := by
  decide +kernel

theorem witness_MemoryTransfersComplete_accepts :
    windowed.Accepts opMemRead (hdr 15) [0x400000007F0, 16, 64] ∧ windowed.Accepts opMemWrite (hdr 15) [0x400000007F0, 16, 64] :=
  ⟨accepts_of (by decide +kernel), accepts_of (by decide +kernel)⟩

theorem witness_MemoryFences_none : up.Accepts opMemFence (hdr 15) [0x40000000000, 64] ∧ fenceReason (hdr 15) 0x40000000000 64 up = 0 ∧
    up.slicesOf 0x40000000000 64 = [] := ⟨accepts_of (by decide +kernel), by decide +kernel, by decide +kernel⟩

/-- A reed descriptor INIT of one row of bank 0 of site 0 that is not complete. -/
def reedBusy : State := up.setCore 0 { Core.fresh with rq := [⟨1, [0x0000000100000006, 1, 0, 0, 0, 0], false, [], false⟩] }

theorem witness_MemoryFences_waits : reedBusy.Accepts opMemFence (hdr 15) [0, 64] ∧ fenceReason (hdr 15) 0 64 reedBusy = 0 ∧
    ((reedBusy.slicesOf 0 64).flatMap fun x => ((reedBusy.core x.1).rq.filter fun o => o.writes x.2.1 x.2.2).map fun o => (x.1, o.num)) = [(0, 1)] :=
  ⟨accepts_of (by decide +kernel), by decide +kernel, by decide +kernel⟩

/-- A root record of class 0 with one stream, no page, and length 256, sealed (R176). -/
def rootWords : List Word := rootSealed [0x40000002011, 0x100, 0]

/-- What a state has noted, where it is known to hold. -/
theorem metering_of {s : State} {q : Meter → Bool} (h : s.metering.any q = true) : ∃ m, s.metering = some m ∧ q m = true := by
  cases e : s.metering with
  | none => simp [e] at h
  | some m => exact ⟨m, rfl, by simpa [e] using h⟩

/-- Partition 0 with four roots at 4 KiB of its cache region, of which roots 0 and 1 stand in three copies. -/
def rooted : State :=
  [0, 128, 256].foldl (fun t k => ((t.writeMem .cache (0x1000 + k) (wordsToBytes rootWords)).1.writeMem .cache (0x1020 + k) (wordsToBytes rootWords)).1)
    (setAll (paid 1000) [(.KVW_ROOT_BASE_BASE, 0, 0x40000001), (.KVW_ROOT_COUNT_COUNT, 0, 4)])

theorem witness_KvCommandsWait_set : rooted.Accepts opKvRootSet (hdr 0) [1, 0x40000002011, 0x100, 0] ∧ rooted.rootIndexOk 0 1 = true ∧
    rootSetOk [0x40000002011, 0x100, 0] = true ∧ (Root.of [0x40000002011, 0x100, 0]).long = false ∧ (rooted.cmdRange 0 (rooted.rootAt 0 1 2) 32).isSome = true :=
  ⟨accepts_of (by decide +kernel), by decide +kernel⟩

/-- The roots read with what they take noted. -/
def counted : State := { rooted with metering := some ⟨[], [], false⟩ }

theorem witness_KvCommandsWait_roots : let y1 := (counted.hostRoot 0 0).2; let y2 := (y1.hostRoot 0 1).2; let y := (y2.pageEntries 0 (Root.of rootWords)).2
    (counted.hostRoot 0 0).1 = .ok rootWords ∧ (y1.hostRoot 0 1).1 = .ok rootWords ∧ (y2.pageEntries 0 (Root.of rootWords)).1 = .ok [] ∧ (y1.pageEntries 0 (Root.of rootWords)).1 = .ok [] ∧
    (sameShape (Root.of rootWords) (Root.of rootWords) = true ∧ (Root.of rootWords).length = 256 ∧ (Root.of rootWords).streams = 1 ∧ y.cmds = []) ∧
    ∃ m, y.metering = some m ∧ (!m.blocked && (rooted.barred 0 m.uses m.charges).isNone) = true :=
  ⟨by decide +kernel, by decide +kernel, by decide +kernel, by decide +kernel, by decide +kernel, metering_of (by decide +kernel)⟩

theorem witness_KvCommandsWait_trim : rooted.Accepts opKvTrim (hdr 0) [0, 0x100, 0] ∧ rooted.Accepts opKvTrim (hdr 0) [0, 0x101, 0] ∧ rooted.rootIndexOk 0 0 = true :=
  ⟨accepts_of (by decide +kernel), accepts_of (by decide +kernel), by decide +kernel⟩

theorem witness_KvCommandsWait_fork : rooted.Accepts opKvFork (hdr 0) [0x100000000, 256] := accepts_of (by decide +kernel)

theorem witness_KvCommandsWait_move :
    rooted.Accepts opKvEvict (hdr 0) [0, 0x100000000, 0x10000000000, 0, 0] ∧ kvMoveReason (hdr 0) true 0 0x100000000 0x10000000000 0 0 rooted = 0 ∧
    rooted.Accepts opKvPrefetch (hdr 0) [0, 0, 0x10000000000, 0, 0] ∧ kvMoveReason (hdr 0) false 0 0 0x10000000000 0 0 rooted = 0 :=
  ⟨accepts_of (by decide +kernel), by decide +kernel, accepts_of (by decide +kernel), by decide +kernel⟩

/-- A page of marsh stack 0 on its way to the cache. -/
def move0 : KvMove := ⟨0, mkEntry 1 0 0x20000000000 0 true, 0, 0x40000008000, 0, none, true, false⟩
def moving : State :=
  State.setReg (State.setReg { owned Part.fresh with cmds := [⟨hdr 0, 0, 0x13, .kvMove 0 [move0] [] 0 none 0, false⟩] }
    (resMarsh 0) 0 { Reg.zero with ceil := 100000 }) resCache 0 { Reg.zero with ceil := 100000 }

theorem witness_KvPageCopied : moving.clocked = true ∧ move0.finished = false ∧ move0.store ≠ 2 ∧ entStore move0.old ≠ 2 ∧
    moving.devRange (entAddr move0.old) 32768 = some (.marsh 0, 0) ∧ moving.devRange move0.dest 32768 = some (.cache, 0x8000) ∧
    moving.anyWithdrawn (.marsh 0) 0 32768 = false ∧ moving.anyWithdrawn .cache 0x8000 32768 = false ∧ moving.bankHeld (.marsh 0) 0 32768 = false ∧ moving.bankHeld .cache 0x8000 32768 = false ∧ moving.faults = [] ∧ moving.deadWires = [] ∧ moving.sram = [] ∧ moving.rowSpares = [] ∧
    moving.rowUndefined (.marsh 0) 0 32768 = false ∧
    ((moving.grant 0 ((Store.marsh 0).bgOf ++ Store.cache.bgOf) ((Store.marsh 0).resOf ++ Store.cache.resOf) 32768).1 =
      some (moving.grant 0 ((Store.marsh 0).bgOf ++ Store.cache.bgOf) ((Store.marsh 0).resOf ++ Store.cache.resOf) 32768).2) := by decide +kernel

/-- The peat enabled, block 0 in SLC mode with one page written. -/
def peaty : State :=
  { setAll up [(.PEAT_CTL_ENABLE, 0, 1), (.PEAT_CTL_ACTIVE_MAX, 0, 4)] with peatBlocks := [(0, ⟨1, 0, 1, 2, false, false, false, false, false, []⟩)] }

theorem witness_Peat : peaty.cmds = [] ∧ peaty.nand = [] ∧ peaty.inForce .PEAT_CTL_ENABLE 0 = 1 ∧ peaty.inLull = false ∧ peaty.powerHeld = false ∧ paIsSlot 0 = false ∧
    peaty.peatAddrReason (hdr 15) 0 1 1 false = 0 ∧ peaty.peatAddrReason (hdr 15) 0 1 1 true = 0 ∧ paPage 0 = 0 ∧ peaty.nandTempOk 0 0 = true ∧ peaty.nandTempOk 0 1 = true ∧
    peaty.nandTempOk 0 2 = true ∧ 0 < peaty.get .PEAT_CTL_ACTIVE_MAX 0 ∧ peaty.peatDeviceOk (hdr 15) 0x20000000000 16384 = true ∧
    peaty.devRange 0x20000000000 16384 = some (.marsh 0, 0) ∧ peaty.anyWithdrawn (.marsh 0) 0 16384 = false ∧ peaty.rowUndefined (.marsh 0) 0 16384 = false ∧
    peaty.faults = [] ∧ peaty.deadWires = [] ∧ peaty.sram = [] ∧ (peaty.block 0).mode = 2 := by decide +kernel

theorem witness_PeatCommandsIssue : peaty.Accepts opPeatErase (hdr 15) [0, 0x101] ∧ peaty.nandAllowed ⟨2, paKeys 0 1, 0, 0, 2⟩ = true ∧
    peaty.Accepts opPeatRead (hdr 15) [0, 0x10001, 0x20000000000] ∧ peaty.nandAllowed ⟨0, paKeys 0 1, 0, 1, 0⟩ = true :=
  ⟨accepts_of (by decide +kernel), by decide +kernel, accepts_of (by decide +kernel), by decide +kernel⟩

theorem witness_PeatProgramAndEnd : let a : Word := BitVec.ofNat 64 (placed 1 21)
    paPage a.toNat = 1 ∧ peaty.Accepts opPeatProgram (hdr 15) [a, 1, 0x20000000000] ∧ peaty.peatAddrReason (hdr 15) a.toNat 1 1 false = 0 ∧
    peaty.nandAllowed ⟨1, [0], 1, 1, 0⟩ = true ∧ peaty.wearAllows 16384 = true :=
  ⟨by decide +kernel, accepts_of (by decide +kernel), by decide +kernel, by decide +kernel, by decide +kernel⟩

theorem witness_PeatProgramAndEnd_erase : let c : Cmd := ⟨hdr 15, 0, 0x22, .peatErase 0 1 false true, false⟩
    let s : State := { peaty with nand := [(peatDie 0 0, ⟨2, [0], 0, 0, 1⟩)], cmds := [c] }
    s.clocked = true ∧ s.nand = [(peatDie 0 0, ⟨2, [0], 0, 0, 1⟩)] ∧ s.cmds = [c] ∧ c.kind = .peatErase 0 1 false true ∧ paDie 0 = peatDie 0 0 := by decide +kernel

theorem witness_PeatHousekeeping : peaty.Accepts opPeatStatus (hdr 15) [0, 1, 0x20000000000] ∧ peaty.get .HST_RING_CTL_OWNER 0 = 0 ∧ journalBlock (blockKey 0 0 0) = false ∧
    peaty.peatDeviceOk (hdr 15) 0x20000000000 16 = true ∧ peaty.devRange 0x20000000000 16 = some (.marsh 0, 0) ∧ peaty.anyWithdrawn (.marsh 0) 0 16 = false ∧
    peaty.bankHeld (.marsh 0) 0 16 = false ∧ peaty.rowSpares = [] ∧ peaty.get .PWR_STATE_STATE 0 ≠ 4 := ⟨accepts_of (by decide +kernel), by decide +kernel⟩

theorem witness_PeatHousekeeping_flips : (∀ c, c < 816 → peaty.on .FEN_FLIP_CTL_ARM c = false) ∧ (∀ m, m < 12 → peaty.on .MRS_FLIP_CTL_ARM m = false) := by decide +kernel

/-! Repairs, partitions, power. -/

theorem witness_RepairCommandsWait_retire : up.Accepts opRetirePage (hdr 15) [0x20000000000, 1] ∧ up.Accepts opRetireBank (hdr 15) [0x800, 1] ∧ (0x20000000000 : Word).toNat % 2048 = 0 ∧ up.gustBegun 1 = false ∧
    up.devLoc 0x20000000000 = some (.marsh 0, 0) ∧ (Store.marsh 0).isStack = true ∧ up.retireStatus 0x20000000000 = none ∧
    siteLocOk 0x800 = true :=
  ⟨accepts_of (by decide +kernel), accepts_of (by decide +kernel), by decide +kernel⟩

theorem witness_RepairCommandsWait_spares : ∀ kind ∈ [1, 2, 3, 5, 6, 7], up.packetReason (opSpareEnable kind) (hdr 15) [BitVec.ofNat 64 kind, 0, 1] = 0 ∧
    locOk kind 0 = true ∧ up.spareStatus kind 0 = stOk ∧ up.gustBegun 1 = false := by decide +kernel

theorem witness_RepairCommandsWait_site : up.packetReason (opSpareEnable 4) (hdr 15) [4, 0x400, 1] = 0 ∧ locOk 4 0x400 = true ∧ up.spareStatus 4 0x400 = stOk ∧
    up.spareStatus 4 0 = stBadPacket := by decide +kernel

/-- A map of one entry. -/
def mapped : State := { up with repairMap := [Tri.of [1, 2]], repairVer := 3 }

theorem witness_RepairRecordsAndMigrations_map : mapped.clocked = true ∧ mapped.repairMap = [[1, 2]].map Tri.of ∧ mapped.Accepts opRepairMapRead (hdr 15) [64, 48] ∧
    mapped.Accepts opRepairMapRead (hdr 15) [64, 33] ∧ mapped.untrained = false ∧ mapped.hostUp = true :=
  ⟨by decide +kernel, by decide +kernel, accepts_of (by decide +kernel), accepts_of (by decide +kernel), by decide +kernel, by decide +kernel⟩

theorem witness_RepairRecordsAndMigrations_end :
    let x : Cmd := ⟨hdr 15, 0, 0x2A, .migrateSite 1 0x400 true none 0, false⟩; let y : Cmd := ⟨hdr 15, 0, 0x2A, .migrateChannel 1 0 true none, false⟩
    up.siteOf (bitsOf 0x400 3 0) (bitsOf 0x400 16 11) = some (siteNo ⟨0, 0⟩) ∧ up.faults = [] ∧ up.deadWires = [] ∧ up.cmds = [] ∧ bitsOf 0 3 0 = (0 : Fin 12).val ∧
    x.kind = .migrateSite 1 0x400 true none 0 ∧ y.kind = .migrateChannel 1 0 true none := by decide +kernel

/-- A parameter block at host address 0x10000: version 1, 1 MiB of the cache (R315). -/
def blockAt : State := (up.hostStore 0x10000 [1]).hostStore 0x1000E [0x10]

theorem witness_PartitionIsCreated : blockAt.Accepts opPartCreate (hdr 15) [0x1000100, 0x10000] ∧ fieldOf 0x1000100 3 0 < 12 ∧ fieldOf 0x1000100 27 24 = 1 ∧
    blockAt.hostUp = true ∧ blockAt.createStatus 0 1 1 (some (bytesToWords 512 (blockAt.hostRead 0x10000 4096))) = stOk ∧
    up.createStatus 0 1 1 (some (bytesToWords 512 (up.hostRead 0x10000 4096))) = stBadPacket := ⟨accepts_of (by decide +kernel), by decide +kernel⟩

/-- Partition 0 in creation on die 0 for VF 1. -/
def creating : State :=
  { setAll up [(.PART_STATUS_STATE, 0, 1), (.PART_STATUS_DIE_MASK, 0, 1), (.PART_STATUS_VF, 0, 1)] with
    cmds := [⟨hdr 15, 0, 0x30, .partCreate 0 (bytesToWords 512 (blockAt.hostRead 0x10000 4096)), false⟩] }

theorem witness_PartitionIsCreated_done : creating.clocked = true ∧ creating.get .PART_STATUS_STATE 0 = 1 ∧ creating.licWord = Tri.of 0 ∧
    creating.get .PART_STATUS_VF 0 ≠ 0 ∧ creating.cmds.length = 1 ∧ 0 ∈ creating.partAllSites 0 := by decide +kernel

theorem witness_PartitionIsReset : (owned Part.fresh).Accepts opPartReset (hdr 0) [] ∧ (setAll (owned Part.fresh) [(.PART_STATUS_STATE, 0, 3)]).Accepts opPartReset (hdr 0) [] ∧ (owned Part.fresh).get .PART_STATUS_STATE 0 ≠ 3 ∧
    ((owned Part.fresh).part 0).running = false ∧ ((owned Part.fresh).part 0).undo = [] ∧ ((owned Part.fresh).part 0).wrote = [] ∧ ((owned Part.fresh).part 0).carried = [] ∧ (owned Part.fresh).cmds = [] ∧
    (owned Part.fresh).partEngines 0 = [] ∧ (owned Part.fresh).xniHeld = [] :=
  ⟨accepts_of (by decide +kernel), accepts_of (by decide +kernel), by decide +kernel⟩

/-- Partition 0 resetting. -/
def resetting : State := { setAll (owned Part.fresh) [(.PART_STATUS_STATE, 0, 3)] with cmds := [⟨hdr 0, 0, 0x31, .partReset 0, false⟩] }

theorem witness_PartitionIsReset_done : resetting.clocked = true ∧ (∀ c ∈ resetting.cmds, c.kind = .partReset 0) ∧ resetting.get .PART_STATUS_STATE 0 = 3 ∧
    resetting.recentLosses.length < 2 ∧ 2 ≤ ({ resetting with losses := [0, 0] } : State).recentLosses.length ∧ resetting.repairMap = ([] : List (List Word)).map Tri.of := by decide +kernel

theorem witness_PartitionIsDestroyed : (owned Part.fresh).Accepts opPartDestroy (hdr 0) [] ∧ (owned Part.fresh).armed 0 = false ∧
    (owned { Part.fresh with armed := some (Tri.of planWords) }).Accepts opPartDestroy (hdr 0) [] ∧
    (owned { Part.fresh with armed := some (Tri.of planWords) }).armed 0 = true ∧ ((owned { Part.fresh with armed := some (Tri.of planWords) }).part 0).mapLost = false :=
  ⟨accepts_of (by decide +kernel), by decide +kernel, accepts_of (by decide +kernel), by decide +kernel, by decide +kernel⟩

theorem witness_PartitionIsDestroyed_done : let s : State := { setAll up [(.PART_STATUS_STATE, 0, 4)] with cmds := [⟨hdr 0, 0, 0x32, .partDestroy 0, false⟩] }
    s.clocked = true ∧ s.get .PART_STATUS_STATE 0 = 4 ∧ s.cmds = [⟨hdr 0, 0, 0x32, .partDestroy 0, false⟩] ∧ s.engines = [] := by decide +kernel

theorem witness_PowerStatesChange : up.Accepts opPowerState (hdr 15) [1] ∧ up.Accepts opPowerState (hdr 15) [0] ∧ up.Accepts opPowerState (hdr 15) [0x14] ∧ up.cmds = [] ∧ up.on .PWR_STATE_BUSY 0 = false ∧ up.engines = [] ∧ up.anyArmed = false ∧
    powerFrom 1 (up.get .PWR_STATE_STATE 0) = true ∧ powerFrom 0 (up.get .PWR_STATE_STATE 0) = false ∧
    fieldOf 0x14 5 4 = 1 ∧ fieldOf 0x14 2 0 = 4 ∧ up.dieRefused 1 0 = false :=
  ⟨accepts_of (by decide +kernel), accepts_of (by decide +kernel), accepts_of (by decide +kernel), by decide +kernel⟩

theorem witness_PowerStatesChange_entered :
    let s : State := { setAll up [(.PWR_STATE_BUSY, 0, 1), (.PWR_STATE_TARGET, 0, 2)] with cmds := [⟨hdr 15, 0, 0x38, .powerState 2, false⟩] }
    let d : State := { setAll up [(.PWR_STATE_CORES_OFF, 0, 1)] with cmds := [⟨hdr 15, 0, 0x38, .diePower 1 0 true, false⟩] }
    s.clocked = true ∧ s.cmds.length = 1 ∧ s.always.wakePend = none ∧ s.nand = [] ∧ s.engines = [] ∧ s.on .PWR_STATE_BUSY 0 = true ∧ s.get .PWR_STATE_TARGET 0 = 2 ∧
    s.anyArmed = false ∧ s.mgmt.effecter = false ∧ d.clocked = true ∧ d.cmds.length = 1 ∧ d.always.wakePend = none ∧ d.on .PWR_STATE_BUSY 0 = false := by decide +kernel

/-- A module that a trip has shut off, but for the shutting off. -/
def hot : State := setAll up [(.THM_TRIP_VALID, 0, 1)]

theorem witness_LimitsAndTrip : hot.Accepts opThermLimitSet (hdr 15) [0x100000000] ∧ hot.tripped = true ∧ flagOf (0x100000000 : Word) 32 = true ∧ up.tripped = false ∧
    up.Accepts opThermLimitSet (hdr 15) [1200] ∧ up.Accepts opThermLimitSet (hdr 15) [999] ∧ up.Accepts opThermLimitSet (hdr 15) [0x100000000] :=
  ⟨accepts_of (by decide +kernel), by decide +kernel, by decide +kernel, by decide +kernel, accepts_of (by decide +kernel), accepts_of (by decide +kernel),
    accepts_of (by decide +kernel)⟩

theorem witness_LimitsAndTrip_cool : hot.allCool = true ∧ ({ hot with therm := { hot.therm with sens := [(0, { hot.sens 0 with t := 560 })] } } : State).allCool = false := by
  decide +kernel

theorem witness_InputPowerEvents : up.railsOn = true ∧ (setAll up [(.PWR_STATUS_OUT_OF_RANGE, 0, 1)]).on .PWR_STATUS_OUT_OF_RANGE 0 = true ∧
    up.on .PWR_STATUS_OUT_OF_RANGE 0 = false ∧ (setAll up [(.PWR_STATE_STATE, 0, 3)]).railsOn = false ∧ up.always.shut ≠ 1 := by decide +kernel

theorem witness_MonitorsAreConfiguredAndRead : up.Accepts opMonConfig (hdr 15) [0, 0x0000000A00000001, 5, 0] ∧ monReason (hdr 15) 0 [0x0000000A00000001, 5, 0] up = 0 ∧
    up.Accepts opMonRead (hdr 15) [0, 64, 640] ∧ up.Accepts opMonRead (hdr 15) [0, 64, 639] ∧ monReadReason (hdr 15) 0 up = 0 ∧ up.inDoldrums = false ∧ up.hostUp = true :=
  ⟨accepts_of (by decide +kernel), by decide +kernel, accepts_of (by decide +kernel), accepts_of (by decide +kernel), by decide +kernel, by decide +kernel, by decide +kernel⟩

/-! Links and ports. -/

/-- Ring link 0 ACTIVE, marsh port 0 ACTIVE, Xeunni port 0 ACTIVE and enabled. -/
def linked : State :=
  (setAll up [(.ZYN_LINK_STATUS_STATE, 0, 6), (.XNI_PORT_STATUS_STATE, 0, 7), (.XNI_PORT_CTL_ENABLE, 0, 1), (.ZYN_UCIE_STATUS_PORTS, 0, 4),
    (.XNI_ROUTE_VALID, 9, 1)]).setLink 24 { Link.down with port := 6 }

theorem witness_LinkRetrainStarts : linked.Accepts opLinkRetrain (hdr 15) [0x400] ∧ linked.Accepts opLinkRetrain (hdr 15) [0] ∧ linked.Accepts opLinkRetrain (hdr 15) [1] ∧
    linked.Accepts opLinkRetrain (hdr 15) [2] ∧ linked.Accepts opLinkRetrain (hdr 15) [0x401] ∧
    ((linkDies 0).any fun d => linked.transitFaults.contains d || bitOf (linked.get .PWR_STATE_TRANSIT_OFF 0) d) = false ∧ (linked.link 0).groups = [] ∧
    linked.linkUp 0 = true ∧ linked.linkUp 1 = false ∧ (linked.link 24).port = 6 ∧ linked.portMay 0 = true ∧ linked.portMay 1 = false :=
  ⟨accepts_of (by decide +kernel), accepts_of (by decide +kernel), accepts_of (by decide +kernel), accepts_of (by decide +kernel), accepts_of (by decide +kernel),
    by decide +kernel⟩

/-- A pair whose flit 0 is of zeros with its CRC-32C, and one without. -/
def pairOf (crc : List Byte) : XniPair := ⟨0, [List.replicate 8 0 ++ crc], []⟩

theorem witness_FlitsReceived : linked.clocked = true ∧ linked.get .ZYN_LINK_STATUS_STATE 0 = 6 ∧ linked.get .ZYN_LINK_STATUS_STATE 1 ≠ 6 ∧
    (ZynCtl.ofWords []).seq = ((linked.link 0).dir false).rx ∧ (ZynCtl.ofWords []).nak = false ∧ ((linked.link 0).dir false).failed = [] ∧ ((linked.link 0).dir false).fails < 7 ∧
    (linked.link 24).port = 6 ∧ (linked.link 25).port ≠ 6 ∧ beatOk [] = true ∧ beatOk [1] = false ∧ (linked.link 24).d0.fails < 7 ∧ linked.xniWait = [] := by decide +kernel

/-- Words of zeros have the CRC 0. -/
theorem crc64_zeros (n : Nat) : crc64 (List.replicate n 0) = 0 := by
  induction n with
  | zero => rfl
  | succ n ih =>
    rw [List.replicate_succ, crc64, List.foldl_cons]
    have : (List.range 8).foldl (fun (c : BitVec 64) j => Nat.repeat crc64Step 8 (c ^^^ (((0 : Word) >>> (8 * j) &&& 0xFF) <<< 56))) 0 = 0 := by decide +kernel
    rw [this]; exact ih

theorem witness_FlitsReceived_crc : zynCrcOk [] = true ∧ zynCrcOk [0, 0, 0, 0, 0, 0, 0, 1] = false := by
  have z : ∀ w ∈ [([] : List Word), [0, 0, 0, 0, 0, 0, 0, 1]], ((List.range 128).map (wordAt w)).set 7 0 = List.replicate 128 0 := by decide +kernel
  unfold zynCrcOk
  rw [z _ (by simp), z _ (by simp), crc64_zeros]
  decide +kernel

theorem witness_FlitsReceived_port : let b := (pairOf [0x5D, 0xB5, 0x60, 0x2B]).flits.getD 0 []
    (flitCodewords 0).all (pairOf [0x5D, 0xB5, 0x60, 0x2B]).corrects = true ∧ xniCrcOk b = true ∧ (XniCtl.ofBytes b).seq = (linked.xport 0).rx ∧ (XniCtl.ofBytes b).marker = false ∧
    (XniCtl.ofBytes b).nak = false ∧ xniCrcOk ((pairOf [0, 0, 0, 0]).flits.getD 0 []) = false ∧ linked.linkPower = .l0 ∧ linked.portUp 0 = true ∧ linked.portUp 1 = false ∧
    (linked.xport 0).fails < 7 ∧ (linked.xport 0).sent = [] ∧ linked.on .EVT_LOG_CTL_ENABLE 0 = false ∧ linked.pfLogOpened = false ∧ linked.heldRecs.length < 1024 ∧
    linked.portMay 0 = true ∧ linked.portMay 1 = false := by decide +kernel

/-- A link, a marsh port and a port one failure short of the eighth. -/
theorem witness_FlitsReceived_eighth : let s := (linked.setLink 24 { Link.down with port := 6, d0 := { Link.down.d0 with fails := 7 } }).setXport 0 { linked.xport 0 with fails := 7 }
    (s.link 24).port = 6 ∧ 7 ≤ (s.link 24).d0.fails ∧ 7 ≤ (s.xport 0).fails ∧ s.portUp 0 = true := by decide +kernel

theorem witness_LinksTrain : linked.clocked = true ∧ linked.cmds = [] ∧ linked.atomHeld = [] ∧ linked.netCores = [] ∧ linked.get .ZYN_LINK_STATUS_STATE 0 = 6 ∧
    linked.get .ZYN_LINK_STATUS_STATE 1 = 0 ∧ (linked.link 24).port = 6 ∧ (linked.link 25).port = 0 ∧ (linked.link 1).groups = [] ∧ (linked.link 1).bad = [] ∧
    (∀ st : Nat, st < 8 → (setAll up [(.ZYN_LINK_STATUS_STATE, 3, st)]).get .ZYN_LINK_STATUS_STATE 3 = st) ∧
    (∀ n : Nat, n < 7 → ((up.setLink 24 { Link.down with port := n }).link 24).port = n) ∧
    ((up.setLink 0 { Link.down with groups := [5, 6] }).link 0).groups = [5, 6] ∧ ((up.setLink 0 { Link.down with groups := [32] }).link 0).groups = [32] ∧
    ((up.setLink 0 { Link.down with groups := [32] }).link 0).fullDue = false := by decide +kernel

/-- In the lull the groups of a link without reduced width wait. -/
theorem witness_LinksTrain_lull : let s : State := { linked with phase := 1 }
    (s.inLull && !bitOf (s.get .ZYN_LINK_STATUS_CAPS 0) 0) = true ∧ (linked.inLull && !bitOf (linked.get .ZYN_LINK_STATUS_CAPS 0) 0) = false := by decide +kernel

theorem witness_PortsTrain : linked.clocked = true ∧ linked.cmds = [] ∧ linked.portMay 0 = true ∧ linked.portMay 1 = false ∧ (linked.xport 0).bad = [] ∧
    (∀ st : Nat, st < 8 → (setAll up [(.XNI_PORT_STATUS_STATE, 3, st)]).get .XNI_PORT_STATUS_STATE 3 = st) ∧ (7 : Nat) ≠ up.moduleId := by decide +kernel

theorem witness_PortsTrain_fifth :
    let s := setAll up [(.XNI_PORT_CTL_ENABLE, 0, 1), (.XNI_PORT_CTL_ENABLE, 1, 1), (.XNI_PORT_CTL_ENABLE, 2, 1), (.XNI_PORT_CTL_ENABLE, 3, 1)]
    bitOf (s.get .LIC_STATE_IN_FORCE 0) 1 = false ∧ s.on .XNI_PORT_CTL_ENABLE 4 = false ∧
      ((List.range 16).filter fun j => j != 4 && s.on .XNI_PORT_CTL_ENABLE j).length = 4 := by decide +kernel

/-- Mailbox 0 of partition 0: slots of 64 bytes at 0x2000 of its region, peer module 9, partition 0, valid, step 5. -/
def boxed : State :=
  (((setAll (linked.setPart 0 { Part.fresh with map := Tri.of [1] }) [(.PART_STATUS_STATE, 0, 2), (.PART_SHC_BYTES, 0, 0x100000), (.XNI_MBOX_BASE_BASE, 0, 128)]).writeMem .cache 0x1000
    (wordsToBytes [0x0000004000002000, BitVec.ofNat 64 (9 + placed 1 15), 5, 0])).1).setReg resCache 0 { Reg.zero with ceil := 1000 }

/-- A write of eight bytes from module 9 into the slot of step 6. -/
def mail : MboxPkt := ⟨9, 0, 3, 0, 0, 6, 56, List.replicate 8 0xA5⟩

theorem witness_MailboxesArrive : boxed.clocked = true ∧ boxed.atomHeld = [] ∧ boxed.netCores = [] ∧ boxed.faults = [] ∧ boxed.deadWires = [] ∧ boxed.sram = [] ∧ boxed.portUp 0 = true ∧
    boxed.portUp 1 = false ∧ mail.srcModule ≠ boxed.moduleId ∧ boxed.get .PART_STATUS_STATE 0 = 2 ∧ boxed.routePort 9 = some 0 ∧ boxed.xniWait = [] ∧ boxed.xniHeld = [] ∧
    (boxed.grant 0 [] [resCache] 8).1 = some (boxed.grant 0 [] [resCache] 8).2 := by decide +kernel

theorem witness_MailboxesArrive_box : let u := (boxed.grant 0 [] [resCache] 8).2; let m : Mbox := ⟨0x2000, 64, 9, 0, true, 0, 5, 0⟩
    u.mbox 0 0 = (some m, u) ∧ boxed.mbox 0 0 = (some m, boxed) ∧ mail.offset + mail.data.length ≤ m.slotBytes ∧ m.step ≤ mail.step ∧
    u.inRegion 0 (m.slot0 + mail.step % 2 * m.slotBytes + mail.offset) 8 = true := by decide +kernel

theorem witness_MailboxesArrive_ack : let d : DmaCur := ⟨[], 0, 0, 1, false, none, none, 0⟩
    let s := setAll (boxed.setEngine 3 { DmaEng.idle with cur := some d }) [(.DMA_CH_CTL_PARTITION, 3, 0)]
    s.clocked = true ∧ s.xniWait = [] ∧ (s.engine 3).cur = some d ∧ 0 < d.acks ∧ s.get .DMA_CH_CTL_PARTITION 3 < 12 ∧ (s.engine 4).cur = none := by decide +kernel

/-! Registers, rings, firmware, modes, pins, DMA. -/

theorem witness_VfRegisterMap : (vfRing 1).clocked = true ∧ (1 : Fin 13).val ≠ 0 ∧ ((List.range 64).filter fun r => (vfRing 1).get .HST_RING_CTL_OWNER r == 1)[0]? = some 0 ∧
    (12 : Nat) % 4 = 0 ∧ (16 : Nat) % 8 = 0 ∧ (vfRing 1).vfEnable = false ∧ ({ vfRing 1 with vfEnable := true } : State).vfEnable = true := by decide +kernel

theorem witness_RegisterAccesses : up.place 0 0 = .reg .HST_ID 0 0 ∧ up.clocked = true ∧ bitOf (0x80000001 : Word).toNat 31 = true ∧ bitOf (0x80000001 : Word).toNat 0 = true := by
  decide +kernel

theorem witness_RegisterAccesses_read : ∃ n, up.readReg .HST_ID 0 = (n, up) := ⟨(up.readReg .HST_ID 0).1, by decide +kernel⟩

/-- Ring 0 enabled by the PF, with one packet in host memory: PLAN_DISARM of partition 15, which its issuer may not send; with TAG 7. -/
def ringed (w : List Word) : State :=
  (setAll (up.hostStore 0 (wordsToBytes w)) [(.HST_RING_CTL_ENABLE, 0, 1), (.HST_CP_STATUS_READY, 0, 1)]).setRing 0 { Ring.fresh with tail := 1 }

theorem witness_RingsAndLogs : (ringed []).clocked = true ∧ (ringed []).ringRuns 0 = true ∧ fieldOf (3 : Word) 15 0 < (ringed []).ringSize 0 ∧
    (ringed []).ringSize 0 ≤ fieldOf (16 : Word) 15 0 ∧ ((ringed []).ring 0).waiting = [] ∧ (ringed []).ringRuns 1 = false ∧
    (vfRing 1).get .HST_RING_CTL_OWNER 0 = 1 ∧ (vfRing 1).get .HST_RING_CTL_OWNER 1 ≠ 1 ∧ bitOf (0x82000000 : Word).toNat 31 = true ∧
    bitsOf (0x82000000 : Word).toNat 28 25 = 1 ∧ (vfRing 1).on .HST_RING_CTL_ENABLE 0 = false ∧ ((vfRing 1).ring 0).waiting = [] ∧
    (ringed []).on .HST_RING_CTL_ENABLE 0 = true ∧ up.on .EVT_LOG_CTL_ENABLE 1 = false ∧ up.vfEnable = false ∧ ({ vfRing 1 with vfEnable := true } : State).vfEnable = true := by decide +kernel

/-- PLAN_DISARM (opcode 3), partition 0, TAG 7. -/
def disarmPacket : List Word := [0x0000000007000003, 0, 0, 0, 0, 0, 0, 0]

theorem witness_PacketsRunTheirCommand : let s := ringed disarmPacket; let z : State := { s with lastRing := SMap.set s.lastRing (s.get .HST_RING_CTL_PRIORITY 0) 0 63 }
    s.clocked = true ∧ s.on .HST_CP_STATUS_READY 0 = true ∧ s.nextRing = some 0 ∧ s.on .HST_RING_CTL_SQ_DEVICE 0 = false ∧ s.hostUp = true ∧ z.packetWords 0 = (some disarmPacket, z) ∧
    (Instr.planDisarm (hdr 0)).hostCommand = some (opPlanDisarm, hdr 0, []) ∧ (Instr.planDisarm (hdr 0)).wellFormed = true ∧
    (Packet.ofWords disarmPacket).reserved = false ∧ (Packet.ofWords disarmPacket).op = opPlanDisarm.code ∧ (Packet.ofWords disarmPacket).req (Fin.ofNat 64 0) = hdr 0 ∧
    (Packet.ofWords disarmPacket).ps = List.replicate 7 0 := by decide +kernel

theorem witness_PacketsRunTheirCommand_none : up.on .HST_CP_STATUS_READY 0 = false ∧ up.inDoldrums = false ∧ up.nextRing = none := by decide +kernel

theorem witness_PacketsRunTheirCommand_lost : let s : State := { ringed disarmPacket with hostOk := false }
    let z : State := { s with lastRing := SMap.set s.lastRing (s.get .HST_RING_CTL_PRIORITY 0) 0 63 }
    s.nextRing = some 0 ∧ z.packetWords 0 = (none, z) := by decide +kernel

theorem witness_FirmwareAndLicences : up.Accepts opFwLoad (hdr 15) [64, 4096] ∧ up.Accepts opLicenceLoad (hdr 15) [64, 256] ∧ up.hostUp = true ∧
    licenceForm (up.hostRead 64 256) = false ∧ serviceForm (up.hostRead 64 256) = false ∧ up.Accepts opAttest (hdr 15) [64, 0x1000000004, 128] ∧ up.cmds = [] ∧
    up.mgmt.update = none ∧ up.get .PWR_STATE_STATE 0 < 3 :=
  ⟨accepts_of (by decide +kernel), accepts_of (by decide +kernel), by decide +kernel, by decide +kernel, by decide +kernel, accepts_of (by decide +kernel),
    by decide +kernel, by decide +kernel, by decide +kernel⟩

/-- Whether a record or an image is authentic is opaque (notes/assumptions/10.md), so it stays a premise here; what else the clauses of authentic records ask is met. -/
theorem witness_FirmwareAndLicences_authentic (b : List Byte) (s : State) (_ : s.recordOk 2 b = true) (hs : 0 < recSequence b) :
    recSequence { up with flash := Flash.blank }.flash.licence < recSequence b := by
  simpa [recSequence, Flash.blank, leAt, ofBytesLE] using hs

theorem witness_FirmwareAndLicences_written : let c : Cmd := ⟨hdr 15, 0, 0x4A, .fwLoad [1] 5, false⟩
    ({ up with cmds := [c] } : State).clocked = true ∧ c.kind = .fwLoad [1] 5 := by decide +kernel

theorem witness_ModesEntered : up.Accepts opDoldrumsEnter (hdr 15) [] ∧ up.Accepts opDoldrumsExit (hdr 15) [] ∧ up.inDoldrums = false ∧ up.Accepts opFreeze (hdr 15) [] :=
  ⟨accepts_of (by decide +kernel), accepts_of (by decide +kernel), by decide +kernel, accepts_of (by decide +kernel)⟩

theorem witness_ModesEntered_exit : let s := setAll up [(.PART_DOLDRUMS_ACTIVE, 0, 1), (.PART_DOLDRUMS_HELD, 0, 1)]; let t := setAll s [(.PART_DOLDRUMS_HELD, 0, 3)]
    s.Accepts opDoldrumsExit (hdr 15) [] ∧ s.inDoldrums = true ∧ (∀ c, c < 5 → bitOf (s.get .PART_DOLDRUMS_HELD 0) c = true → s.causeAllows (c + 1) = true) ∧
    t.Accepts opDoldrumsExit (hdr 15) [] ∧ bitOf (t.get .PART_DOLDRUMS_HELD 0) 1 = true ∧ t.causeAllows 2 = false :=
  ⟨accepts_of (by decide +kernel), by decide +kernel, by decide +kernel, accepts_of (by decide +kernel), by decide +kernel, by decide +kernel⟩

theorem witness_ModesEntered_warm : up.clocked = true ∧ up.on .HST_CP_STATUS_READY 0 = false ∧ flagOf (1 : Word) 0 = true ∧ flagOf (2 : Word) 0 = false ∧
    (let s := setAll up [(.HST_CP_STATUS_READY, 0, 1)]; ¬(s.anyArmed = true ∨ s.on .HST_CP_STATUS_READY 0 = false ∨ s.slotWriting = true)) := by decide +kernel

theorem witness_LinkAndPowerPins : up.clocked = true ∧ up.on .HST_FUNC_CTL_BOUND 1 = false ∧ (vfRing 0).get .HST_RING_CTL_OWNER 0 = 1 ∧ linkFormOk 16 5 ⟨true, true, false⟩ = true ∧ linkFormOk 16 5 ⟨true, false, true⟩ = true ∧
    (setAll up [(.BOOT_PINS_PERST_N, 0, 1), (.BOOT_PINS_REFCLK_OK, 0, 1)]).on .BOOT_PINS_REFCLK_OK 0 = true ∧
    (setAll up [(.BOOT_PINS_PERST_N, 0, 1), (.BOOT_PINS_REFCLK_OK, 0, 1)]).on .BOOT_PINS_PERST_N 0 = true ∧
    (∀ f ∈ [Fld.PWR_WAKE_CTL_WAKEN_EN, .PWR_WAKE_CTL_SMBUS_EN, .PWR_WAKE_CTL_PERST_EN], (setAll up [(f, 0, 1), (.PWR_STATE_STATE, 0, 4)]).on f 0 = true ∧
      (setAll up [(f, 0, 0)]).on f 0 = false ∧ (setAll up [(f, 0, 1), (.PWR_STATE_STATE, 0, 4)]).always.shut = 0) := by decide +kernel

theorem witness_LinkAndPowerPins_cold : State.reset.always.shut = 0 ∧ State.reset.on .HST_CP_STATUS_READY 0 = false ∧ State.reset.get .PWR_STATE_STATE 0 = 0 ∧
    State.reset.inDoldrums = false ∧ State.reset.cmds = [] ∧ State.reset.always.tripReport = false ∧ State.reset.imageOk State.reset.flash.image = false := by decide +kernel

/-- FILL of 64 bytes of the cache, one row, owned by engine 0. -/
def fillWords : List Word := [0x41, 0, 0x40000000040, 64, 0, 0, 0x1122334455667788, 0]

/-- Engine 0 enabled, with the descriptor at the head of its ring in host memory. -/
def filling : State := setAll (up.hostStore 0 (wordsToBytes fillWords)) [(.DMA_CH_CTL_ENABLE, 0, 1), (.DMA_CH_CTL_RING_HOST, 0, 1)]

theorem witness_DmaEnginesRun : filling.clocked = true ∧ filling.dmaReady 0 = true ∧ flagOf (0x41 : Word) 0 = true ∧ fieldOf (0x41 : Word) 7 4 = 4 ∧
    filling.on .DMA_CH_CTL_ENABLE 0 = true ∧ filling.dmaRefusal 0 fillWords = none ∧ (DmaDesc.ofWords fillWords).rows = 1 ∧ (DmaDesc.ofWords fillWords).rowSize ≤ 2048 ∧
    up.on .DMA_CH_CTL_ENABLE 0 = false ∧ up.dmaReady 0 = true ∧ filling.dmaRefusal 0 [0x41, 0, 0x7FFFFFFFFFFFF, 64, 0, 0, 0, 0] = some stBadPacket := by decide +kernel

theorem witness_DmaEnginesRun_row : let ov := (DmaDesc.ofWords fillWords).overlaps; let cur (n : Nat) : DmaCur := ⟨fillWords, 0, 0, 0, ov, none, none, n⟩
    let z := (filling.setEngine 0 { filling.engine 0 with cur := some (cur 0) }).put .DMA_CH_STATUS_STATE 0 1
    let r := z.dmaRequest 0 fillWords 0 0; let y := (r.1.setEngine 0 { z.engine 0 with cur := some (cur 64) }).dmaRow 0 fillWords ov 0
    r.2 = .moved 64 ∧ r.1.engine 0 = z.engine 0 ∧ y.2 = .moved 64 ∧ y.1.engine 0 = { z.engine 0 with cur := some (cur 64) } ∧ y.1.atomHeld = [] ∧ y.1.netCores = [] := by decide +kernel

/-- COPY and FILL of 64 bytes within host memory; ATOMIC on the cache. -/
theorem witness_DmaEnginesRun_host : ∀ w ∈ [([0x311, 0x1000, 0x2000, 64, 0, 0, 0, 0] : List Word), [0x241, 0, 0x2000, 64, 0, 0, 0x55, 0]], let d := DmaDesc.ofWords w
    filling.dmaRefusal 0 w = none ∧ d.rows = 1 ∧ d.rowSize ≤ 2048 ∧ d.dstSpace = 1 ∧ (d.srcHost = true ∨ d.kind = 4) ∧ d.overlaps = false ∧ 12 ≤ filling.enginePart 0 ∧
    filling.hostUp = true ∧ filling.atomHeld = [] ∧ filling.netCores = [] := by decide +kernel

theorem witness_DmaEnginesRun_atomic : let w : List Word := [0x61, 0, 0x40000000040, 0, 0, 1, 5, 0]
    filling.dmaRefusal 0 w = none ∧ filling.faults = [] ∧ filling.sram = [] ∧ filling.deadWires = [] ∧ (DmaDesc.ofWords w).kind = 6 := by decide +kernel

theorem witness_DmaEnginesRun_poll : filling.on .DMA_CH_CTL_RING_HOST 0 = true ∧ bytesToWords 8 (filling.hostRead (filling.dmaHeadAddr 0) 64) = fillWords ∧
    filling.dmaMetered 0 (fun s => s.dmaFetch 0) = (some (some fillWords), filling) := by decide +kernel

theorem witness_DmaEnginesRun_writeBack : let c : DmaCur := ⟨fillWords, 1, 64, 0, false, none, some 0, 0⟩; let s := filling.setEngine 0 { DmaEng.idle with cur := some c }
    s.clocked = true ∧ (s.engine 0).cur = some c ∧ c.status = some 0 ∧ (s.engine 0).flush = none ∧ s.on .DMA_CH_CTL_STOP 0 = false ∧ s.on .DMA_CH_CTL_ENABLE 0 = true ∧
    s.powerHeld = false ∧ s.inDoldrums = false ∧ s.atomHeld = [] ∧ s.netCores = [] ∧ s.on .DMA_CH_CTL_RING_HOST 0 = true ∧ s.hostUp = true ∧ 12 ≤ s.enginePart 0 ∧ s.dmaIdle 0 = false ∧
    bitOf (0xC0000000 : Word).toNat 31 = true ∧ bitOf (0xC0000000 : Word).toNat 30 = true ∧ bitOf (0x80000000 : Word).toNat 30 = false ∧ (s.engine 1).cur = none := by decide +kernel

/-- STOP at an engine whose ring holds no owned descriptor. -/
theorem witness_DmaEnginesRun_stop : let s := setAll up [(.DMA_CH_CTL_ENABLE, 0, 1), (.DMA_CH_CTL_RING_HOST, 0, 1)]
    s.dmaIdle 0 = true ∧ (s.engine 0).flush = none ∧ s.hostUp = true ∧ 12 ≤ s.enginePart 0 ∧
    flagOf (wordAt (bytesToWords 8 (s.hostRead (s.dmaHeadAddr 0) 64)) 0) 0 = false := by decide +kernel

/-! Cores and their units. -/

/-- Site 0 with a core that runs, as given. -/
def cored (k : Core) : State := (setAll up [(.CORE_PROG_STATUS_STATE, 0, 1)]).setCore 0 k

/-- A core at the start of its bank, with instruction words there. -/
def coded (w : List (BitVec 32)) : Core := { Core.fresh with active := w.flatMap fun x => toBytesLE 4 x.toNat, pc := ccBank }

theorem witness_CoresRun : (cored Core.fresh).clocked = true ∧ up.coreRuns 0 = false ∧ (cored (coded [0x00500093])).coreRuns 0 = true ∧
    (cored { Core.fresh with pc := 0 }).coreRuns 0 = true ∧ { Core.fresh with pc := 0 }.fetch = none ∧
    (coded [0x00500093]).fetch = some (some (.alu false .add 1 0 (.imm 5)), 4) ∧ (coded [0xFFFFFFFF]).fetch = some (none, 4) := by decide +kernel

theorem witness_CoresRun_forms : (coded [0x002081B3]).fetch = some (some (.alu false .add 3 1 (.reg 2)), 4) ∧ (coded [0x0050009B]).fetch = some (some (.alu true .add 1 0 (.imm 5)), 4) ∧
    (coded [0x123450B7]).fetch = some (some (.lui 1 0x12345000), 4) ∧ (coded [0x12345097]).fetch = some (some (.auipc 1 0x12345000), 4) ∧
    (coded [0x008000EF]).fetch = some (some (.jal 1 8), 4) ∧ (coded [0x00208463]).fetch = some (some (.branch 0 1 2 8), 4) := by decide +kernel

theorem witness_CoresRun_wait : (cored Core.fresh).get .CORE_PROG_STATUS_STATE 0 = 1 ∧ Core.fresh.trapHalt = false ∧ Core.fresh.slotEnd = false ∧ Core.fresh.waitReg = none := by
  decide +kernel

/-- DRAIN of one row of all four arrays. -/
def drainWords : List Word := [0xF3, 0, 0, 0]

theorem witness_CoresRun_pass : fieldOf (0xF3 : Word) 3 0 = 3 ∧ (PassDesc.of drainWords).valid Core.fresh 0 drainWords = true ∧
    (∀ a ∈ arraysOf (PassDesc.of drainWords).mask, (cored Core.fresh).inForce .ARR_CTL_ENABLE (ix2 4 0 a) ≠ 0) ∧ Core.fresh.aq.length < 8 ∧
    (PassDesc.of [3, 0, 0, 0]).valid Core.fresh 0 [3, 0, 0, 0] = false ∧ (List.replicate 8 drainWords).length = 8 := by decide +kernel

theorem witness_CoresRun_start : let k : Core := { Core.fresh with aq := [drainWords] }; let s := cored k
    s.inLull = false ∧ k.drainRoom = true ∧ s.rangesHeld ((PassDesc.of drainWords).streamRanges 0) = false ∧ (PassDesc.of drainWords).op = 3 ∧
    (PassDesc.of drainWords).mask = 15 ∧ k.accFault = [] ∧ k.vq = [] := by decide +kernel

theorem witness_CoresRun_held : let k : Core := { Core.fresh with aq := [drainWords] }; let s := cored k; let z := s.arrLoad 0
    z.passReady 0 (PassDesc.of drainWords) = true ∧ z.rangesHeld ((PassDesc.of drainWords).streamRanges 0) = false ∧
    ({ s with phase := 1 } : State).passReady 0 (PassDesc.of drainWords) = false := by decide +kernel

theorem witness_CoresRun_error : (6 : Nat) < 64 ∧ (0 : Nat) < 5 ∧ (5 : Nat) < 8191 ∧ (35 : Nat) = (6 + 1) * 5 % 8191 := by decide

/-- The rows of R52, one error each: a column, S, T, the stream, the tail, none located, no fault. -/
theorem test_errors_located : [errLoc 5 35 false false, errLoc 5 0 false false, errLoc 0 5 false false, errLoc 0 0 true false, errLoc 0 0 false true, errLoc 1 65 false false,
    errLoc 0 0 false false] = [some 6, some 64, some 65, some 66, some 67, some 127, none] := by decide +kernel

/-- Each vector opcode with zero fields, and an operand that the opcode takes. -/
theorem witness_VectorInstructions : ∀ op ∈ [0x01, 0x02, 0x03, 0x10, 0x11, 0x12, 0x13, 0x14, 0x15, 0x16, 0x17, 0x18, 0x19, 0x1A, 0x1B, 0x20, 0x21, 0x22, 0x23, 0x28, 0x29, 0x2A, 0x2B,
      0x2C, 0x30, 0x31, 0x32, 0x33, 0x38], let w : List Word := [BitVec.ofNat 64 (op + if op = 0x38 then placed 6 32 else 0), if op = 0x30 then 8 else 0]
    (VecIns.of w).op = op ∧ (VecIns.of w).valid w = true := by decide +kernel

theorem witness_VectorInstructions_memory : let i := VecIns.of [0x01, 64]; let s := cored Core.fresh
    s.faults = [] ∧ s.deadWires = [] ∧ s.sram = [] ∧ s.rowSpares = [] ∧ Core.fresh.unseen = [] ∧ i.bytes % (i.store 0).unit = 0 ∧ allLanes ((Core.fresh).kreg 0) = true ∧
    s.anyWithdrawn (i.store 0) i.operand i.bytes = false ∧ s.rowUndefined (i.store 0) i.operand i.bytes = false ∧
    s.bankHeld (i.store 0) i.operand i.bytes = false ∧ Core.fresh.vq = [] ∧ { Core.fresh with drain := [[1, 2]] }.drain = [[1, 2]] ∧
    (VecIns.of [0x4000000010, 0]).op = 0x10 ∧ (VecIns.of [0x4000000010, 0]).valid [0x4000000010, 0] = false := by decide +kernel

/-- INIT of row 5 of bank 1, and COPY of row 4 to row 5 of it. -/
def initWords : List Word := [0x0000000100000006, 2, 0, 0, BitVec.ofNat 64 (5 + placed 0xA5A5A5A5 32), 0]
def copyWords : List Word := [0x0000000100000004, 2, 0, 4, 5, 0]

theorem witness_ReedOperations : (ReedDesc.of initWords).valid initWords = true ∧ (ReedDesc.of copyWords).valid copyWords = true ∧ up.inForce .REED_CTL_ENABLE 0 ≠ 0 ∧
    up.reedRetired 0 (ReedDesc.of initWords) = none ∧ up.inLull = false ∧ ({ up with phase := 1 } : State).inLull = true ∧ (ReedDesc.of [0x4, 0, 0, 0, 0, 0]).valid [0x4, 0, 0, 0, 0, 0] = false ∧
    fieldOf (0x0000000100000006 : Word) 3 0 = 6 ∧ Core.fresh.rq = [] ∧ Core.fresh.attRun = [] ∧ Core.fresh.attq = [] := by decide +kernel

/-- BCAST of 16 elements to banks 0 and 1, and GATHER of one entry of each. -/
def bcastWords : List Word := [2, 3, 0, 0, 0, BitVec.ofNat 64 (0x100 + placed 16 32)]
def gatherWords : List Word := [0x0000000100000003, 3, 0, 0, 0, 0x100]

theorem witness_ReedOperations_bus : (ReedDesc.of bcastWords).valid bcastWords = true ∧ (ReedDesc.of bcastWords).op = 2 ∧ (ReedDesc.of gatherWords).valid gatherWords = true ∧
    (ReedDesc.of gatherWords).op = 3 ∧ (ReedDesc.of gatherWords).sub = 0 ∧ up.sram = [] ∧ Core.fresh.unseen = [] ∧ up.cmds = [] := by decide +kernel

/-- Only core site 0 listed, as given. -/
def only (k : Core) : State := setAll { up with cores := [(0, k)] } [(.CORE_PROG_STATUS_STATE, 0, 1)]

theorem alone_of {s : State} {n : Nat} (h : (s.cores = [(n, s.core n)] ∧ (s.core n).aq = [] ∧ (s.core n).passDue = none ∧ (s.core n).vq = [] ∧ (s.core n).kvq = [] ∧
      (s.core n).netq = [] ∧ (s.core n).attq = [] ∧ (s.core n).unseen = []) ∧ s.cmds = [] ∧ s.nand = [] ∧ s.engines = [] ∧ s.atomHeld = [] ∧
      (s.xniHeld = [] ∧ s.xniIn = [] ∧ s.xniWait = []) ∧ s.faults = [] ∧ s.deadWires = [] ∧ s.sram = []) : s.Alone n :=
  have ⟨⟨c, a, d, v, w, x, y, u⟩, m, o, e, b, i, f, g, r⟩ := h
  ⟨c, ⟨a, d⟩, v, w, x, y, u, m, o, e, b, i, f, g, r⟩

theorem witness_ReedOperations_grain : ∀ w ∈ [initWords, copyWords], let k : Core := { Core.fresh with rq := [⟨1, w, true, [(1, 0)], false⟩] }
    let s : State := setAll (only k) [(.FEN_BANK_CTL_GRAIN, 1, 1)]
    s.clocked = true ∧ s.Alone 0 ∧ s.core 0 = k ∧ k.attRun = [] ∧ s.on .FEN_BANK_CTL_GRAIN (ix2 128 0 1) = true ∧ s.rowSpares = [] ∧ s.inLull = false ∧
    (ReedDesc.of w).length = 1 ∧ (ReedDesc.of w).rowA < 4608 ∧ (ReedDesc.of w).rowD < 4608 ∧ ((ReedDesc.of w).op = 6 ∨ (ReedDesc.of w).op = 4) := by
  intro w hw
  simp only [List.mem_cons, List.not_mem_nil, or_false] at hw
  rcases hw with rfl | rfl <;>
    exact ⟨by decide +kernel, alone_of (by decide +kernel), by decide +kernel⟩

/-- FORWARD on the arrays, one row and one position group, its outputs apart. -/
def attWords : List Word := [0x11, 0, 0, 0, 0, BitVec.ofNat 64 (0x10000 + placed 0x20000 32), BitVec.ofNat 64 (0x30000 + placed 0x40000 32), 0]

theorem witness_AttentionAndWalker : (AttDesc.of attWords).valid attWords = true ∧ up.inForce .ATT_CTL_ENABLE 0 ≠ 0 ∧ (AttDesc.of attWords).needsArgs = false ∧
    (AttDesc.of attWords).placed (AttArgs.of []) 0 = true ∧ (AttDesc.of attWords).op = 1 ∧ (AttDesc.of [0x13, 0, 0, 0, 0, 0, 0, 0]).valid [0x13, 0, 0, 0, 0, 0, 0, 0] = false ∧
    (setAll (owned Part.fresh) [(.PART_STATUS_DIE_MASK, 0, 1), (.PART_STATUS_LIC, 0, 1)]).diePart 0 = 0 ∧
    bitOf ((setAll (owned Part.fresh) [(.PART_STATUS_DIE_MASK, 0, 1), (.PART_STATUS_LIC, 0, 1)]).get .PART_STATUS_LIC 0) 0 = true := by decide +kernel

/-- A running attention operation without pages. -/
def attOp : AttOp := ⟨1, attWords ++ [0, 0], [], [], none⟩

theorem witness_AttentionAndWalker_complete : let s := only { Core.fresh with attRun := [attOp] }; let met : AttEnd := ⟨[], []⟩; let d := AttDesc.of attOp.w
    let x := ({ s with metering := some ⟨[], [], false⟩ }.attHold 0 attOp 0).atUnit 0 3 (attOp.w.drop 8)
    let r := ((d.inputs (AttArgs.of []) 0).foldl (fun y e => y.metre none e.1 e.2.1 e.2.2) x).attFetchAll 0 15 d [] [] []
    let q := r.2.readRanges 0 (d.inputs (AttArgs.of []) 0)
    s.diePart 0 = 15 ∧ s.Alone 0 ∧ s.core 0 = { Core.fresh with attRun := [attOp] } ∧ d.needsArgs = false ∧
    s.flows 15 (fun y => (y.attHold 0 attOp 0).atWork 0 3 (attOp.w.drop 8) (State.attEnd 0 15 attOp met)) ∧ r.1 = .ok [] ∧ (∃ bs, q.1 = .data bs) ∧ q.2.sram = [] ∧
    (q.2.core 0).injectArmed = [] ∧ d.status + 8 ≤ 0x400000 :=
  ⟨by decide +kernel, alone_of (by decide +kernel), by decide +kernel, by decide +kernel, ⟨by decide +kernel, .inl (by decide)⟩, by decide +kernel, ⟨_, rfl⟩, by decide +kernel,
    by decide +kernel, by decide +kernel⟩

theorem witness_AttentionAndWalker_start : let k : Core := { Core.fresh with attq := [attOp] }
    (cored k).flows 15 (fun x => (x.modCore 0 fun q => { q with attq := [] }).atWork 0 3 (attOp.w.drop 8) (State.attBegin 0 15 attOp)) ∧
    ∀ bs, (cored k).attClear 0 bs attOp = true := by
  intro k
  refine ⟨⟨by decide +kernel, .inl (by decide)⟩, fun bs => ?_⟩
  have h : k.attRun = [] := by decide +kernel
  have h2 : k.rq = [] := by decide +kernel
  have h3 : (k.attq.filter fun x => decide (x.num < attOp.num)) = [] := by decide +kernel
  have h4 : (cored k).core 0 = k := by decide +kernel
  simp [State.attClear, h4, h, h2, h3]

/-- Site 0 of partition 0, with root 0 in its root cache. -/
def walking : State := (setAll rooted [(.PART_STATUS_DIE_MASK, 0, 1)]).setCore 0 { Core.fresh with rootCache := [(0, rootWords)] }

theorem witness_AttentionAndWalker_walker : ∀ w ∈ [([3, 0, 0, 0] : List Word), [2, 0, 0, 0], [1, 0, 1, 0]], let d := WalkDesc.of w; let s := walking
    let z := ((s.modCore 0 fun q => { q with kvq := q.kvq ++ [w ++ s.issueWords 0] }).atUnit 0 4 (s.issueWords 0)).modCore 0 fun q => { q with rootCache := (0, rootWords) :: q.rootCache.erase (0, rootWords) }
    s.diePart 0 = 0 ∧ s.inForce .KVW_CTL_ENABLE 0 ≠ 0 ∧ walkWordsOk w = true ∧ d.root < s.get .KVW_ROOT_COUNT_COUNT 0 ∧ (s.core 0).kvq = [] ∧
    ((s.core 0).rootCache.find? fun e => e.1 == d.root) = some (0, rootWords) ∧ walkRootReason z 0 d rootWords = 0 := by decide +kernel

theorem witness_AttentionAndWalker_refused : walkWordsOk [1, 0x100000000, 0, 0] = false ∧ (WalkDesc.of [3, 0, 0, 0]).count = 0 ∧
    (List.replicate 17 ([] : List Word)).length = 17 := by decide +kernel

/-- Site 0 of partition 0 with tokens at the cache. -/
def netted : State := (setAll (owned Part.fresh) [(.PART_STATUS_DIE_MASK, 0, 1), (.SHC_GROUP_BASE_BASE, 0, 0x80)]).setReg resCache 0 { Reg.zero with ceil := 1000 }

/-- A network descriptor to the cache at 0x100, with the pool at 0. -/
def netWords (op aop len operand : Nat) : List Word :=
  [BitVec.ofNat 64 (op + placed 2 8 + placed aop 4 + placed len 32), 0x100, 0, BitVec.ofNat 64 operand, 0, 0]

theorem witness_NetworkAndAtomics : ∀ x ∈ [(1, 0, 64, 0), (2, 0, 64, 0), (3, 1, 0, 5), (6, 0, 0, 0), (6, 0, 0, 9), (5, 0, 0, 0)],
    let w := netWords x.1 x.2.1 x.2.2.1 x.2.2.2; let d := NetDesc.ofWords w
    d.op = x.1 ∧ d.valid w = true ∧ d.statusEn = false ∧ netted.netStore d = some .cache ∧ netted.anyWithdrawn .cache d.remote d.bytes = false ∧
    netted.bankHeld .cache d.remote d.bytes = false ∧ netted.rowUndefined .cache d.remote d.bytes = false ∧ netted.rowUndefined (.pool 0) d.pool 64 = false ∧
    netted.ownsRange 0 .cache 0x100 64 = true := by decide +kernel

theorem witness_NetworkAndAtomics_state : netted.clocked = true ∧ netted.netCores = [] ∧ netted.atomHeld = [] ∧ netted.faults = [] ∧ netted.deadWires = [] ∧ (netted.core 0).unseen = [] ∧ netted.sram = [] ∧ netted.rowSpares = [] ∧
    (netted.dieOwner 0).getD 15 = 0 ∧ netted.inRegion 0 0x100 8 = true ∧ 0 < (netted.reg resCache 0).ceil ∧
    (∀ r ∈ Store.cache.resOf, 0 < (netted.reg r 0).ceil) ∧ Aop.ofCode 1 = some (32, .add) ∧ (NetDesc.ofWords [7, 0, 0, 0, 0, 0]).valid [7, 0, 0, 0, 0, 0] = false := by decide +kernel

theorem witness_NetworkAndAtomics_reach : (setAll netted [(.ZYN_LINK_STATUS_STATE, 12, 6)]).reach (some 0) .cache = .served false ∧
    (setAll netted [(.ZYN_LINK_STATUS_STATE, 12, 6)]).ownsRange 0 .cache 0x100 64 = true ∧ (setAll netted [(.ZYN_LINK_STATUS_STATE, 12, 6)]).netCores = [] := by decide +kernel

/-- A reduction group of two contributors of four elements, and a CONTRIB to it from the pool. -/
def grouped : State := ((setAll netted [(.ZYN_LINK_STATUS_STATE, 12, 6)]).writeMem .cache 0x1000 (wordsToBytes [0x0000000100000004, 0x2000, 0x3000, 0x4000])).1
def contribWords : List Word := [0x4000000204, 0, 0, 0, 0, 0]

theorem witness_NetworkAndAtomics_contrib : let d := NetDesc.ofWords contribWords; let k := grouped.core 0
    let z := (grouped.modCore 0 fun q => { q with netSeq := k.netSeq + 1, netq := q.netq ++ [(k.netSeq, contribWords ++ grouped.issueWords 0)] }).atUnit 0 5 (grouped.issueWords 0)
    let g := (z.grant 0 [] [resCache] d.charge).2; let r := g.coreRead 0 (.pool 0) d.pool d.len
    d.op = 4 ∧ d.valid contribWords = true ∧ grouped.netStore d = some .cache ∧ grouped.reach (some 0) .cache = .served false ∧
    (z.grant 0 [] [resCache] d.charge).1 = some g ∧ r.1 = some (List.replicate 64 0) ∧ (r.2.contrib 0 d.group d.contributor d.remote (List.replicate 64 0)).2 = .accepted := by
  decide +kernel

/-- A site without tokens. -/
theorem witness_NetworkAndAtomics_tokens : let s := setAll (netted.setReg resCache 0 Reg.zero) [(.ZYN_LINK_STATUS_STATE, 12, 6)]
    s.reach (some 0) .cache = .served false ∧ (s.reg resCache 0).ceil ≤ 0 ∧ (s.dieOwner 0).getD 15 = 0 ∧ s.netCores = [] ∧ s.atomHeld = [] := by decide +kernel

/-! Refresh, sensors, debug, management. -/

theorem witness_RefreshAndSensors : up.clocked = true ∧ SMap.get up.selfRefresh 0 false = false ∧
    SMap.get ({ up with selfRefresh := [(0, true), (816, true)] } : State).selfRefresh 0 false = true ∧
    SMap.get ({ up with selfRefresh := [(0, true), (816, true)] } : State).selfRefresh 816 false = true ∧ up.unitClocked (.fen ⟨0, 0⟩) = true ∧
    SMap.get up.selfRefresh 816 false = false ∧ up.get .PWR_STATE_STATE 0 < 3 ∧ 3 ≤ (setAll up [(.PWR_STATE_STATE, 0, 3)]).get .PWR_STATE_STATE 0 ∧
    (up.sens 0).bad < 2 ∧ (some (840 : Int)).filter (fun x => -320 ≤ x && x ≤ 1200) = some 840 ∧ (some (1201 : Int)).filter (fun x => -320 ≤ x && x ≤ 1200) = none ∧
    up.always.shut = 0 ∧ up.on .FRZ_STATUS_FROZEN 0 = false ∧ (setAll up [(.BOOT_PINS_TRAY_PRESENT, 0, 0)]).on .BOOT_PINS_TRAY_PRESENT 0 = false := by decide +kernel

theorem witness_RefreshAndSensors_off : (setAll up [(.PWR_STATE_STATE, 0, 4)]).unitClocked (.fen ⟨0, 0⟩) = false := by decide +kernel

theorem witness_DebugAndManagement : let p := setAll up [(.FRZ_CTL_PIN_EN, 0, 1), (.BOOT_STATUS_STEP, 0, 15)]; let f := setAll up [(.FRZ_STATUS_FROZEN, 0, 1)]
    p.clocked = true ∧ p.on .FRZ_CTL_PIN_EN 0 = true ∧ 4 < p.get .BOOT_STATUS_STEP 0 ∧ up.on .FRZ_STATUS_FROZEN 0 = false ∧ f.on .FRZ_STATUS_FROZEN 0 = true ∧
    up.get .PWR_STATE_STATE 0 < 3 ∧ up.on .PWR_STATE_BUSY 0 = false ∧ up.always.shut = 0 ∧ up.anyArmed = false ∧ up.engines = [] ∧ up.imageOk [] = false ∧
    (setAll up [(.PWR_STATE_BUSY, 0, 1)]).on .PWR_STATE_BUSY 0 = true ∧ up.slotWriting = false ∧ up.slotBusy = false ∧
    (setAll up [(.HST_CP_STATUS_READY, 0, 1)]).on .HST_CP_STATUS_READY 0 = true := by decide +kernel

theorem witness_DebugAndManagement_reads : (up.numericSensor 0).isSome = true ∧ (up.stateSensor 0).isSome = true ∧ (up.pdrs[0]?).isSome = true ∧ (tapReg 0xF0000).isSome = true := by
  decide +kernel

/-! ### A term each check of `Instr.wellFormed` refuses -/

/-- Words whose OP is 0 are no descriptor of any row. -/
theorem test_illFormed_array_passes : ∀ i ∈ ([.pass ⟨0, 0⟩ 0 0 0 0, .elementwise ⟨0, 0⟩ 0 0 0 0, .drain ⟨0, 0⟩ 0 0 0 0] : List Instr), i.wellFormed = false := by decide +kernel

/-- Words whose OP is 0 are no descriptor of any row. -/
theorem test_illFormed_vector : ∀ i ∈ ([.vld ⟨0, 0⟩ 0 0, .vst ⟨0, 0⟩ 0 0, .vdrain ⟨0, 0⟩ 0 0, .vadd ⟨0, 0⟩ 0 0, .vsub ⟨0, 0⟩ 0 0, .vmul ⟨0, 0⟩ 0 0, .vfma ⟨0, 0⟩ 0 0, .vmax ⟨0, 0⟩ 0 0, .vmin ⟨0, 0⟩ 0 0, .vmuls ⟨0, 0⟩ 0 0, .vadds ⟨0, 0⟩ 0 0, .vcmpgt ⟨0, 0⟩ 0 0, .vsel ⟨0, 0⟩ 0 0, .viota ⟨0, 0⟩ 0 0, .vrnd ⟨0, 0⟩ 0 0, .vexp2 ⟨0, 0⟩ 0 0, .vrcp ⟨0, 0⟩ 0 0, .vrsqrt ⟨0, 0⟩ 0 0, .vlogi ⟨0, 0⟩ 0 0, .vrsum ⟨0, 0⟩ 0 0, .vrmax ⟨0, 0⟩ 0 0, .vprefix ⟨0, 0⟩ 0 0, .vfirst ⟨0, 0⟩ 0 0, .vlast ⟨0, 0⟩ 0 0, .tclr ⟨0, 0⟩ 0 0, .tfeed ⟨0, 0⟩ 0 0, .tfeedx ⟨0, 0⟩ 0 0, .tread ⟨0, 0⟩ 0 0, .vrand ⟨0, 0⟩ 0 0] : List Instr), i.wellFormed = false := by decide +kernel

/-- Words whose OP is 0 are no descriptor of any row. -/
theorem test_illFormed_reeds : ∀ i ∈ ([.matvec ⟨0, 0⟩ 0 0 0 0 0 0, .bcast ⟨0, 0⟩ 0 0 0 0 0 0, .gather ⟨0, 0⟩ 0 0 0 0 0 0, .copy ⟨0, 0⟩ 0 0 0 0 0 0, .copyX ⟨0, 0⟩ 0 0 0 0 0 0, .init ⟨0, 0⟩ 0 0 0 0 0 0, .logic ⟨0, 0⟩ 0 0 0 0 0 0, .latch ⟨0, 0⟩ 0 0 0 0 0 0, .popc ⟨0, 0⟩ 0 0 0 0 0 0, .popcAnd ⟨0, 0⟩ 0 0 0 0 0 0] : List Instr), i.wellFormed = false := by decide +kernel

/-- Words whose OP is 0 are no descriptor of any row. -/
theorem test_illFormed_attention_and_walker : ∀ i ∈ ([.forward ⟨0, 0⟩ 0 0 0 0 0 0 0 0, .backward ⟨0, 0⟩ 0 0 0 0 0 0 0 0, .append ⟨0, 0⟩ 0 0 0 0, .length ⟨0, 0⟩ 0 0 0 0, .touch ⟨0, 0⟩ 0 0 0 0] : List Instr), i.wellFormed = false := by decide +kernel

/-- Words whose OP is 0 are no descriptor of any row. -/
theorem test_illFormed_network : ∀ i ∈ ([.netRead ⟨0, 0⟩ 0 0 0 0 0 0, .netWrite ⟨0, 0⟩ 0 0 0 0 0 0, .netAtomic ⟨0, 0⟩ 0 0 0 0 0 0, .netContrib ⟨0, 0⟩ 0 0 0 0 0 0, .netFence ⟨0, 0⟩ 0 0 0 0 0 0, .netWait ⟨0, 0⟩ 0 0 0 0 0 0] : List Instr), i.wellFormed = false := by decide +kernel

/-- Words whose OP is 0 are no descriptor of any row. -/
theorem test_illFormed_dma : ∀ i ∈ ([.dmaCopy 0 0 0 0 0 0 0 0 0, .dmaSplit 0 0 0 0 0 0 0 0 0, .dmaMerge 0 0 0 0 0 0 0 0 0, .dmaFill 0 0 0 0 0 0 0 0 0, .dmaContrib 0 0 0 0 0 0 0 0 0, .dmaAtomic 0 0 0 0 0 0 0 0 0] : List Instr), i.wellFormed = false := by decide +kernel

/-- POWER_STATE of a die, DIE_POWER_STATE of the module, THERM_LIMIT_SET with the CLEAR_TRIP flag, CLEAR_TRIP without it. -/
theorem test_illFormed_host : ∀ i ∈ ([.powerState (hdr 15) 0x10, .powerState (hdr 15) 0x20, .diePowerState (hdr 15) 0, .diePowerState (hdr 15) 0x30,
    .thermLimitSet (hdr 15) 0x100000000, .clearTrip (hdr 15) 0] : List Instr), i.wellFormed = false := by decide +kernel

/-- A window access of no byte, of more than a request carries, or past the window; a map entry, a sensor and a debug register that do not exist; no link width. -/
theorem test_illFormed_outside : ∀ i ∈ ([.windowRead 0 0 0, .windowRead 0 0 4097, .windowRead 0 0xFFFFFFFFF 2, .windowWrite 0 0 [], .windowWrite 0 0xFFFFFFFFF [1, 2],
    .peatMapWrite 524288 0, .sensorSample .logic 1632 none, .sensorSample .ioDie 16 none, .regAccess 0 false 0,
    .hostLinkUp 3 1 ⟨false, false, false⟩, .hostLinkUp 16 0 ⟨true, false, false⟩, .hostLinkUp 8 5 ⟨true, true, false⟩, .hostLinkUp 16 5 ⟨false, true, false⟩] : List Instr), i.wellFormed = false := by decide +kernel

/-- An ill-formed term has no effect: its meaning stops. -/
theorem test_illFormed_stops : exec (.vadd ⟨0, 0⟩ 0 0) State.reset = .fault .illFormed := rfl

/-! ### Values the spec works out -/

/-- R102's example: offset 0x0123_4567 lies in bank 26, row 72. -/
theorem test_bank_of_offset : bankOfChunk (0x01234567 / 2048) = 26 ∧ 0x01234567 / 2048 / 128 = 72 := by decide

/-- R126's example: row 40 starts at 0x00A0_0000 in bank 0 and at 0x00A3_F800 in bank 127. -/
theorem test_row_40 : bankOfChunk (0x00A00000 / 2048) = 0 ∧ bankOfChunk (0x00A3F800 / 2048) = 127 ∧ 0x00A00000 / 2048 / 128 = 40 ∧ 0x00A3F800 / 2048 / 128 = 40 := by decide

/-- The FP4 block of "Number formats": 0.75, −2.6, 1.1 and 0.05 take scale code 0x7E and codes 3, 0xF, 4 and 0. -/
theorem test_fp4_block :
    let b := convertBlock .fp4 ([ofF32 0x3F400000, ofF32 0xC0266666, ofF32 0x3F8CCCCD, ofF32 0x3D4CCCCD] ++ List.replicate 28 (ofF32 0))
    b.1 = 0x7E ∧ b.2.1.take 5 = [3, 0xF, 4, 0, 0] := by decide +kernel

/-- The block of "one block, exact against sequential": 16 products of 2,688, one of 2^−10 and 15 of −2,688 sum to 0x4528_0004. -/
theorem test_exact_block :
    let w := List.replicate 16 (Fmt.fp4.decode 7) ++ [Fmt.fp4.decode 1] ++ List.replicate 15 (Fmt.fp4.decode 7)
    let a := List.replicate 16 (Fmt.e4m3.decode 0x7E) ++ [Fmt.e4m3.decode 1] ++ List.replicate 15 (Fmt.e4m3.decode 0xFE)
    (blockValue ((w.zip a).map fun e => [e.1, e.2, scaleNum 0x7F])).1 = 0x45280004 := by decide +kernel

/-- R306's example: elements 5, −3, 7 and −8 give low plane nibbles 7, 4, 7 and 0xA. -/
theorem test_planes : (List.range 4).map (fun p => planeOf 4 p [0xD5, 0x87, 0, 0]) = [[7], [4], [7], [0xA]] := by decide +kernel

/-- R187's example: a group whose largest magnitude is 5.3, at headroom 1, takes the scale 2^−5, 0x3D00; 5.3 is stored as 0x73. -/
theorem test_group_scale : groupScale 1 1 [0x40A9999A, 0] = 0x3D00 ∧
    (Fmt.e4m3.convert ((ofF32 0x40A9999A).mul (.fin ⟨false, 1, 5⟩))).bits = 0x73 := by decide +kernel

/-- The example of the peat chapter: slot 0x0123_4567 lies on channel 7, die 6, planes 0 and 1, page 325, by the map entries 254,097 and 255,121. -/
theorem test_peat_slot :
    let s : State := { peaty with peatMap := [(254097, Tri.of 0x8009), (255121, Tri.of 0x8009)], peatBlocks := [0, 1].map fun pl => (blockKey 62 pl 9, { PeatBlock.fresh with mode := 2 }) }
    (match (s.slotOp 0x01234567 0).1 with | .ok o => some (o.die, o.op.page) | .error _ => none) = some (62, 325) := by decide +kernel

/-- The vector unit adds 1.0 and 3.0 to 4.0, without a flag. -/
theorem test_add : fadd 0x3F800000 0x40400000 = (0x40800000, 0) := by decide +kernel

end Sys2Proof.Tests
end

section
/-!
PROOFS. The host commands of plans and jobs (R18, R21, R29, R31): what each does once it is accepted, and the statements O11 and O12.
-/
namespace Sys2Proof.Machine

/-! ### A command that joins those in progress -/

/-- A boundary command that starts and acknowledges early leaves the state `waiting` describes. -/
theorem State.ackEarly_startCmd (s : State) (q : Req) (op : Nat) (k : CmdKind) : (s.startCmd q op k).ackEarly q = s.waiting q op k := rfl

theorem State.anyArmed_iff (s : State) : s.anyArmed = true ↔ ∃ k, k < 12 ∧ s.armed k = true := by
  simp [State.anyArmed]

theorem State.anyArmed_eq_false_iff (s : State) : s.anyArmed = false ↔ ∀ k, k < 12 → s.armed k = false := by
  simp [State.anyArmed]

/-! ### What each command does once it is accepted -/

section
variable {s : State} {q : Req} {p0 p1 p2 : Word}

theorem exec_planArm (h : s.Accepts opPlanArm q [p0]) : exec (.planArm q p0) s = .next (planArm q p0 s) := hostRow_accepted h (chk := noCheck) rfl _

theorem exec_planDisarm (h : s.Accepts opPlanDisarm q []) : exec (.planDisarm q) s = .next (planDisarm q s) := hostRow_accepted h (chk := noCheck) rfl _

theorem exec_jobStart (h : s.Accepts opJobStart q [p0]) : exec (.jobStart q p0) s = .next (jobStart q p0 s) := hostRow_accepted h (chk := noCheck) rfl _

theorem exec_jobStop (h : s.Accepts opJobStop q []) : exec (.jobStop q) s = .next (jobStop q s) := hostRow_accepted h (chk := noCheck) rfl _

theorem exec_jobRewind (h : s.Accepts opJobRewind q []) : exec (.jobRewind q) s = .next (jobRewind q s) := hostRow_accepted h (chk := noCheck) rfl _

/-- GUST_SET runs where its values lie within the table of R18 and the gust it names has not begun. -/
theorem exec_gustSet (h : s.Accepts opGustSet q [p0, p1, p2]) (hv : gustValuesOk (fieldOf p1 17 0) (fieldOf p1 47 32) = true)
    (hg : s.gustBegun p0.toNat = false) : exec (.gustSet q p0 p1 p2) s = .next (gustSet q p0 p1 p2 s) :=
  hostRow_accepted h (by simp [hv, hg]) _

theorem planArm_waits {x : List Word × List (Nat × Nat)} (h : s.armCheck q.part.val = (.ok x, s)) :
    planArm q p0 s = s.waiting q 0x02 (.boundary (.planArm p0.toNat)) := by
  simp only [planArm, h, State.ackEarly_startCmd]

theorem armCheck_unloaded {p : Nat} (h : (s.part p).loaded = none) : s.armCheck p = (.error stBusy, s) := by
  simp only [State.armCheck, h]

theorem planArm_unloaded (h : (s.part q.part.val).loaded = none) : planArm q p0 s = s.done q stBusy := by
  simp only [planArm, armCheck_unloaded h]

theorem planDisarm_waits (h : (s.part q.part.val).armed.isSome = true) : planDisarm q s = s.waiting q 0x03 (.boundary .planDisarm) := by
  have hn : (s.part q.part.val).armed.isNone = false := by rw [Option.isNone_eq_false_iff, h]
  simp [planDisarm, hn, State.ackEarly_startCmd]

theorem planDisarm_idle (h : (s.part q.part.val).armed = none) (hp : s.pendingFor q.part.val BCmd.isArm = false) :
    planDisarm q s = s.done q stOk (s.get .GST_PART_STEP_STEP q.part.val) := by
  simp [planDisarm, h, hp]

theorem gustSet_armed (h : s.anyArmed = true) : gustSet q p0 p1 p2 s = s.done q stBusy := if_pos h

theorem gustSet_waits (h : s.anyArmed = false) : gustSet q p0 p1 p2 s = s.waiting q 0x04
    (.boundary (.gustSet p0.toNat (fieldOf p1 17 0) (fieldOf p1 47 32) (if flagOf p2 63 then some (fieldOf p2 47 0) else none))) := by
  simp only [gustSet, h, Bool.false_eq_true, if_false, State.ackEarly_startCmd]

theorem jobStart_lost (h : s.get .PART_STATUS_STATE q.part.val = 5) : jobStart q p0 s = s.done q stBusy := if_pos h

theorem jobStart_running (h5 : s.get .PART_STATUS_STATE q.part.val ≠ 5) (h : (s.part q.part.val).running = true) :
    jobStart q p0 s = s.done q stOk (s.get .GST_PART_STEP_STEP q.part.val) := by
  simp [jobStart, h5, h]

theorem jobStart_waits (h5 : s.get .PART_STATUS_STATE q.part.val ≠ 5) (h : (s.part q.part.val).running = false)
    (hp : s.pendingFor q.part.val BCmd.isStart = false) : jobStart q p0 s = s.waiting q 0x05 (.boundary (.jobStart p0.toNat)) := by
  simp [jobStart, h5, h, hp, State.ackEarly_startCmd]

theorem jobStop_waits (h : (s.part q.part.val).running = true) : jobStop q s = s.waiting q 0x06 (.boundary .jobStop) := by
  simp [jobStop, h, State.ackEarly_startCmd]

theorem jobStop_idle (h : (s.part q.part.val).running = false) (hp : s.pendingFor q.part.val BCmd.isStart = false) :
    jobStop q s = s.done q stOk (s.get .GST_PART_STEP_STEP q.part.val) (s.get .GST_PART_COMMIT_GUST q.part.val) := by
  simp [jobStop, h, hp]

theorem jobRewind_running (h : (s.part q.part.val).running = true) : jobRewind q s = (s.flagPart q.part.val 6 stOk).done q stOk := by
  simp [jobRewind, h]

end

/-! ### The fault flag (R29) -/

/-- Flagging a partition changes partitions only. -/
theorem State.flagPart_eq (s : State) (p cause status : Nat) : s.flagPart p cause status = { s with parts := (s.flagPart p cause status).parts } := by
  unfold State.flagPart; split <;> rfl

theorem State.flagPart_other (s : State) {p j : Nat} (cause status : Nat) (h : j ≠ p) : (s.flagPart p cause status).part j = s.part j := by
  unfold State.flagPart
  split
  · exact State.part_set_other s _ h
  · rfl

/-- The first fault is the one kept. -/
theorem State.flagPart_same (s : State) {p : Nat} (cause status : Nat) (h : p < 12) :
    (s.flagPart p cause status).part p = { s.part p with flag := some ((s.part p).flag.getD (cause, status)) } := by
  simp only [State.flagPart, if_pos h, State.modPart, State.part_set_same]
  generalize s.part p = x
  obtain ⟨_, _, _, _, flag, _⟩ := x
  cases flag <;> rfl

end Sys2Proof.Machine

namespace Sys2Proof.Proofs
open Sys2Proof Sys2Proof.Machine

/-- Settles O11: accepted, each command joins those in progress. -/
theorem boundaryCommandsWait : Obligations.BoundaryCommandsWait := by
  intro q p0 p1 p2 s
  refine ⟨fun ha x hx => ?_, fun ha hx => ?_, fun ha hv hg hk => ?_, fun ha h5 hr hp => ?_, fun ha hr => ?_⟩
  · rw [exec_planArm ha, planArm_waits hx]
  · rw [exec_planDisarm ha, planDisarm_waits hx]
  · rw [exec_gustSet ha hv hg, gustSet_waits (s.anyArmed_eq_false_iff.2 hk)]
  · rw [exec_jobStart ha, jobStart_waits h5 hr hp]
  · rw [exec_jobStop ha, jobStop_waits hr]

/-- Settles O12: accepted with nothing to wait for, each command completes at once; JOB_REWIND flags the partition. -/
theorem jobCommandsAtOnce : Obligations.JobCommandsAtOnce := by
  intro q p0 p1 p2 s
  refine ⟨fun ha hx hp => ?_, fun ha h5 hr => ?_, fun ha h5 => ?_, fun ha hr hp => ?_, fun ha hl => ?_, fun ha hv hg hk => ?_, fun ha hp hr => ?_⟩
  · rw [exec_planDisarm ha, planDisarm_idle hx hp]
  · rw [exec_jobStart ha, jobStart_running h5 hr]
  · rw [exec_jobStart ha, jobStart_lost h5]
  · rw [exec_jobStop ha, jobStop_idle hr hp]
  · rw [exec_planArm ha, planArm_unloaded hl]
  · rw [exec_gustSet ha hv hg, gustSet_armed (s.anyArmed_iff.2 hk)]
  · refine ⟨s.flagPart q.part.val 6 stOk, ?_, s.flagPart_eq .., fun j hj => s.flagPart_other _ _ hj, s.flagPart_same _ _ hp⟩
    rw [exec_jobRewind ha, jobRewind_running hr]

end Sys2Proof.Proofs
end

section
/-!
PROOFS. The check at the lull (R19, R25, R30) and the statement O18.
-/
namespace Sys2Proof.Machine

@[simp] theorem State.flagPart_notEnded (s : State) (p cause status j : Nat) : (s.flagPart p cause status).notEnded j = s.notEnded j := by
  rw [State.flagPart_eq]; rfl

@[simp] theorem State.flagPart_get (s : State) (p cause status : Nat) (f : Fld) (i : Nat) : (s.flagPart p cause status).get f i = s.get f i := by
  rw [State.flagPart_eq]; rfl

theorem State.mem_notEnded (s : State) (p c : Nat) : c ∈ s.notEnded p ↔ c ∈ s.partSites p ∧ (s.core c).ended = false := by
  simp [State.notEnded]

/-- A core that has not ended its slot makes the gust incomplete. -/
theorem State.incomplete_of_notEnded {s : State} {p c : Nat} (h : c ∈ s.notEnded p) : s.incomplete p = true := by
  have hn : (s.notEnded p).isEmpty = false := List.isEmpty_eq_false_iff.2 (List.ne_nil_of_mem h)
  simp [State.incomplete, hn]

/-- The check of an incomplete gust, in the state it has flagged. -/
theorem State.squallCheck_incomplete {s : State} {p : Nat} (h : s.incomplete p = true) :
    let u := s.flagPart p 1 stSquall
    s.squallCheck p = u.event ⟨5, 12, 0, 7, p, stSquall, (u.notEnded p).length, u.get .GST_PART_STEP_STEP p⟩ := by
  simp only [State.squallCheck, if_pos h, State.flagPart_notEnded, State.flagPart_get]

theorem State.squallCheck_complete {s : State} {p : Nat} (h : s.incomplete p = false) : s.squallCheck p = s := by
  simp [State.squallCheck, h]

end Sys2Proof.Machine

namespace Sys2Proof.Proofs
open Sys2Proof Sys2Proof.Machine

/-- Settles O18: the check flags an incomplete gust and then raises its record. -/
theorem squallFlagsPartition : Obligations.SquallFlagsPartition := by
  intro s p hp
  refine ⟨State.squallCheck_complete, fun h => ?_, fun ⟨c, hc, he⟩ => State.incomplete_of_notEnded ((s.mem_notEnded p c).2 ⟨hc, he⟩)⟩
  exact ⟨s.flagPart p 1 stSquall, State.squallCheck_incomplete h, s.flagPart_eq .., fun j hj => s.flagPart_other _ _ hj, s.flagPart_same _ _ hp⟩

end Sys2Proof.Proofs
end

section
/-!
PROOFS. The module at reset (R7) and the statement O4.
-/
namespace Sys2Proof.Machine

/-- At reset every field reads as its table's Reset column. -/
theorem State.reset_get (f : Fld) (i : Nat) : State.reset.get f i = f.resetAt i := rfl

theorem State.reset_on (f : Fld) (i : Nat) : State.reset.on f i = (f.resetAt i == 1) := rfl

end Sys2Proof.Machine

namespace Sys2Proof.Proofs
open Sys2Proof Sys2Proof.Machine

/-- Settles O4: every field is read from the Reset column of its table, and no command waits. -/
theorem resetValues : Obligations.ResetValues := by
  have parts (p : Nat) : State.reset.get .PART_STATUS_STATE p = 0 := State.reset_get _ p
  have rings (r : Nat) : State.reset.on .HST_RING_CTL_ENABLE r = false := State.reset_on _ r
  have logs (f : Nat) : State.reset.on .EVT_LOG_CTL_ENABLE f = false := State.reset_on _ f
  have units (c : Nat) : State.reset.on .REED_CTL_ENABLE c = true ∧ State.reset.on .ATT_CTL_ENABLE c = true ∧ State.reset.on .KVW_CTL_ENABLE c = true ∧
      ∀ a, a < 4 → State.reset.on .ARR_CTL_ENABLE (ix2 4 c a) = true :=
    ⟨State.reset_on _ c, State.reset_on _ c, State.reset_on _ c, fun a _ => State.reset_on _ (ix2 4 c a)⟩
  have held : State.reset.heldStill := fun _ h => absurd h List.not_mem_nil
  exact ⟨State.reset_get _ 0, State.reset_get _ 0, State.reset_get _ 0, fun p _ => parts p, fun r _ => rings r, fun f _ => logs f, fun c _ => units c,
    State.reset_get _ 0, State.reset_get _ 0, rfl, rfl, rfl, held⟩

end Sys2Proof.Proofs
end

section
/-!
PROOFS. PLAN_LOAD (R21, R22, R94, R99) and the statement O13.
-/
namespace Sys2Proof.Machine

/-! ### Fields with different numbers are kept apart -/

theorem Fld.key_ne {f g : Fld} (i j : Nat) (hf : f.id < 4096) (hg : g.id < 4096) (h : f.id ≠ g.id) : f.key i ≠ g.key j :=
  fun e => h (Fld.key_inj hf hg e).1

/-- Writing a field leaves every field with another number as it was. -/
theorem State.get_put_of_id (s : State) {f g : Fld} (i j v : Nat) (hf : f.id < 4096) (hg : g.id < 4096) (h : g.id ≠ f.id) :
    (s.put f i v).get g j = s.get g j :=
  State.get_put_other s v (Fld.key_ne j i hg hf h)

@[simp] theorem State.puts_nil (s : State) (i : Nat) : s.puts i [] = s := rfl

@[simp] theorem State.puts_cons (s : State) (i : Nat) (f : Fld) (v : Nat) (fs : List (Fld × Nat)) : s.puts i ((f, v) :: fs) = (s.put f i v).puts i fs := rfl

/-- What every round of a loop leaves, the loop leaves. -/
theorem State.foldl_keeps {α β : Type} (g : State → β) {f : State → α → State} (hf : ∀ t x, g (f t x) = g t) (l : List α) (s : State) :
    g (l.foldl f s) = g s := by
  induction l generalizing s with
  | nil => rfl
  | cons x r ih => rw [List.foldl_cons, ih, hf]

/-! ### What each branch of PLAN_LOAD does -/

theorem exec_planLoad {s : State} {q : Req} {p0 : Word} (h : s.Accepts opPlanLoad q [p0]) (hr : (s.cmdRange q.part.val p0.toNat 64).isSome = true) :
    exec (.planLoad q p0) s = .next (planLoad q p0 s) :=
  hostRow_accepted h (by simp [addrReason, hr]) _

theorem planLoad_behind {s : State} {q : Req} {p0 : Word} (h : (s.cmds.any fun c => c.staging q.part.val || c.awaitsLoad q.part.val) = true) :
    planLoad q p0 s = { s with cmds := s.cmdsWith q 0x01 (.planLoad [p0] false) } := if_pos h

section
variable {s u : State} {q : Req} {p0 : Word} (h : (s.cmds.any fun c => c.staging q.part.val || c.awaitsLoad q.part.val) = false)
include h

theorem planLoad_stages {hd : List Word} {bad : Bool} (hu : s.tryLoad q.part.val p0.toNat = (some (.ok (hd, bad)), u)) :
    planLoad q p0 s = { u with cmds := u.cmdsWith q 0x01 (.planLoad hd bad) } := by
  simp only [planLoad, h, Bool.false_eq_true, if_false, hu]; rfl

theorem planLoad_fails {st : Nat} (hu : s.tryLoad q.part.val p0.toNat = (some (.error st), u)) : planLoad q p0 s = u.done q st := by
  simp only [planLoad, h, Bool.false_eq_true, if_false, hu]

theorem planLoad_untokened (hu : s.tryLoad q.part.val p0.toNat = (none, u)) :
    planLoad q p0 s = { u with cmds := u.cmdsWith q 0x01 (.planLoad [p0] false) } := by
  simp only [planLoad, h, Bool.false_eq_true, if_false, hu]; rfl

end

/-! ### A partition left without a loaded plan (R21) -/

/-- Marking the cores of a partition writes no field but those of CORE_PROG_STATUS that say so. -/
theorem State.stagedMark_get (s : State) (p : Nat) (ok : Bool) (f : Fld) (i : Nat) (hf : f.id < 4096) (h1 : f.id ≠ Fld.CORE_PROG_STATUS_STAGED.id)
    (h2 : f.id ≠ Fld.CORE_PROG_STATUS_STATE.id) : (s.stagedMark p ok).get f i = s.get f i := by
  refine State.foldl_keeps (fun t : State => t.get f i) (fun t c => ?_) _ s
  dsimp only
  split
  · rw [State.get_put_of_id _ _ _ _ (by decide) hf h2, State.get_put_of_id _ _ _ _ (by decide) hf h1]
  · rw [State.get_put_of_id _ _ _ _ (by decide) hf h1]

theorem State.stagedMark_part (s : State) (p : Nat) (ok : Bool) (j : Nat) : (s.stagedMark p ok).part j = s.part j := by
  refine State.foldl_keeps (fun t : State => t.part j) (fun t c => ?_) _ s
  dsimp only
  split <;> rfl

theorem State.unload_loaded (s : State) (p : Nat) : ((s.unload p).part p).loaded = none := by
  have h : (((s.modPart p fun x => { x with loaded := none }).stagedMark p false).part p).loaded = none := by
    rw [State.stagedMark_part, State.modPart, State.part_set_same]
  unfold State.unload
  dsimp only
  split
  · exact h
  · exact h

/-- A partition in the loaded state becomes idle; every other state stays. -/
theorem State.unload_state (s : State) (p : Nat) :
    (s.unload p).get .GST_PART_STATE_STATE p = if s.get .GST_PART_STATE_STATE p = 1 then 0 else s.get .GST_PART_STATE_STATE p := by
  have h : ((s.modPart p fun x => { x with loaded := none }).stagedMark p false).get .GST_PART_STATE_STATE p = s.get .GST_PART_STATE_STATE p :=
    State.stagedMark_get _ p false _ p (by decide) (by decide) (by decide)
  unfold State.unload
  dsimp only
  rw [h]
  split
  · exact State.get_put_same ..
  · exact h

/-- A header that breaks R22 ends the load. -/
theorem State.beginLoad_broken {s v : State} {p a : Nat} {hb : List Byte} (h : s.loadRead p a 64 false = (.ok hb, v)) (hh : hdrOk (bytesToWords 8 hb) = false) :
    s.beginLoad p a = (.error stBadPacket, v.unload p) := by
  simp [State.beginLoad, h, hh]

end Sys2Proof.Machine

namespace Sys2Proof.Proofs
open Sys2Proof Sys2Proof.Machine

/-- Settles O13: PLAN_LOAD waits behind an earlier load, and otherwise does as its reads and checks say. -/
theorem planLoadStages : Obligations.PlanLoadStages := by
  intro q p0 s
  refine ⟨fun ha hr => ⟨fun hb => ?_, fun hf => ⟨fun h bad u hu => ?_, fun st u hu => ?_, fun u hu => ?_⟩⟩, fun hb v hv hh => ?_⟩
  · rw [exec_planLoad ha hr, planLoad_behind hb]
  · rw [exec_planLoad ha hr, planLoad_stages hf hu]
  · rw [exec_planLoad ha hr, planLoad_fails hf hu]
  · rw [exec_planLoad ha hr, planLoad_untokened hf hu]
  · exact ⟨v.unload q.part.val, State.beginLoad_broken hv hh, State.unload_loaded .., State.unload_state ..⟩

end Sys2Proof.Proofs
end

section
/-!
PROOFS. Rewinds (R29, R31) and the statement O20.
-/
namespace Sys2Proof.Machine

/-- The counted rewinds of the last 64 gusts after a rewind for a cause: JOB_REWIND (cause 6) adds none (R31). -/
def State.rewindWindow (s : State) (p cause : Nat) : List Nat :=
  (if cause = 6 then (s.part p).rewinds else s.gust :: (s.part p).rewinds).filter fun g => s.gust < g + 64

/-- What a rewind records once the gust is undone: the partition's flag and decision, the window `ws`, the cause and the count. -/
def State.recordRewind (s : State) (p cause status : Nat) (ws : List Nat) : State :=
  ((s.modPart p fun x => { x with flag := none, refused := false, decision := some false, lastStatus := status, rewinds := ws }).puts p
    [(.GST_PART_STATE_LAST_CAUSE, cause), (.GST_PART_STATE_REWINDS_IN_WINDOW, min 3 ws.length)]).bump .GST_PART_REWINDS_COUNT p 1

/-- A rewind undoes the gust, records itself, and with three in the window or the vote lost costs the partition. -/
theorem State.rewind_eq (s : State) (p cause status : Nat) (last : Bool) :
    let v := (s.rewindGust p).jobEvent p 1 status
    let ws := v.rewindWindow p cause
    let u := v.recordRewind p cause status ws
    s.rewind p cause status last = if last = true ∨ (cause ≠ 6 ∧ 3 ≤ ws.length) then (u.stopJob p status).losePart p status else u := rfl

section
variable (s : State) (p cause status : Nat) (ws : List Nat)

theorem State.recordRewind_part : (s.recordRewind p cause status ws).part p =
    { s.part p with flag := none, refused := false, decision := some false, lastStatus := status, rewinds := ws } :=
  State.part_set_same ..

/-- A field that a rewind does not write is as it was. -/
theorem State.recordRewind_get_other {f : Fld} (i : Nat) (hf : f.id < 4096) (h1 : f.id ≠ Fld.GST_PART_STATE_LAST_CAUSE.id)
    (h2 : f.id ≠ Fld.GST_PART_STATE_REWINDS_IN_WINDOW.id) (h3 : f.id ≠ Fld.GST_PART_REWINDS_COUNT.id) :
    (s.recordRewind p cause status ws).get f i = s.get f i := by
  rw [State.recordRewind, State.bump, State.puts_cons, State.puts_cons, State.puts_nil, State.get_put_of_id _ _ _ _ (by decide) hf h3,
    State.get_put_of_id _ _ _ _ (by decide) hf h2, State.get_put_of_id _ _ _ _ (by decide) hf h1]
  rfl

theorem State.recordRewind_cause (h : cause < 8) : (s.recordRewind p cause status ws).get .GST_PART_STATE_LAST_CAUSE p = cause := by
  have hm : cause % 2 ^ Fld.GST_PART_STATE_LAST_CAUSE.width = cause := Nat.mod_eq_of_lt h
  simp (disch := decide) [State.recordRewind, State.bump, State.get_put_of_id, hm]

theorem State.recordRewind_window : (s.recordRewind p cause status ws).get .GST_PART_STATE_REWINDS_IN_WINDOW p = min 3 ws.length := by
  have hm : min 3 ws.length % 2 ^ Fld.GST_PART_STATE_REWINDS_IN_WINDOW.width = min 3 ws.length :=
    Nat.mod_eq_of_lt (Nat.lt_of_le_of_lt (Nat.min_le_left ..) (by decide))
  simp (disch := decide) [State.recordRewind, State.bump, State.get_put_of_id, hm]

theorem State.recordRewind_count :
    (s.recordRewind p cause status ws).get .GST_PART_REWINDS_COUNT p = (s.bump .GST_PART_REWINDS_COUNT p 1).get .GST_PART_REWINDS_COUNT p := by
  simp (disch := decide) [State.recordRewind, State.bump, State.get_put_of_id, State.modPart]

end

end Sys2Proof.Machine

namespace Sys2Proof.Proofs
open Sys2Proof Sys2Proof.Machine

/-- Settles O20: a rewind is its record, followed by the stop and loss of the partition where the window or the vote says so. -/
theorem rewindsCounted : Obligations.RewindsCounted := by
  intro s p cause status last _ hc
  dsimp only
  generalize hv : (s.rewindGust p).jobEvent p 1 status = v
  have hp := v.recordRewind_part p cause status (v.rewindWindow p cause)
  refine ⟨v.recordRewind p cause status (v.rewindWindow p cause), ?_, by rw [hp], by rw [hp], ?_, v.recordRewind_cause _ _ _ _ hc,
    v.recordRewind_window .., v.recordRewind_get_other _ _ _ _ 0 (by decide) (by decide) (by decide) (by decide), v.recordRewind_count ..⟩
  · rw [State.rewind_eq, hv]; rfl
  · rw [hp]; rfl

end Sys2Proof.Proofs
end

section
/-!
PROOFS. Alignment of the gust (R33, R34, R269) and the statement O21.
-/
namespace Sys2Proof.Machine

/-- While the clocks run and boundaries come, an event of the gust happens. -/
theorem State.whenGusts_on {s : State} (f : State → State) (hc : s.clocked = true) (hg : s.gustsRun = true) : s.whenGusts f = f s := by
  simp [State.whenGusts, hc, hg]

theorem State.on_put_one (s : State) (f : Fld) (i : Nat) (h : 0 < f.width) : (s.put f i 1).on f i = true := by
  have : 1 % 2 ^ f.width = 1 := Nat.mod_eq_of_lt (Nat.one_lt_two_pow (Nat.ne_of_gt h))
  simp [State.on, this]

/-- A number within the range of a signed pattern is what the pattern spells. -/
theorem signedOf_ofSigned16 {x : Int} (h : x.natAbs ≤ 1000) : signedOf 16 (ofSigned 16 x % 2 ^ 16) = x := by
  unfold signedOf ofSigned
  split <;> omega

/-! ### An edge or marker taken (R34) -/

section
variable (s : State) (off : Int)

/-- Edges and markers in a row within 25 ns, once one `off` ns away is taken. -/
def State.goodAfter (s : State) (off : Int) : Nat := if off.natAbs ≤ 25 then s.sync.good + 1 else 0

/-- The offset shown and the correction due of an edge or marker `off` ns away, before the lock is looked at. -/
def State.offsetNoted (s : State) (off : Int) : State :=
  { s.put .GST_SYNC_STATUS_OFFSET 0 (ofSigned 16 (max (-32767) (min 32767 off))) with
    sync := { s.sync with good := s.goodAfter off, missed := 0, seen := true, pendingNs := off } }

theorem State.syncTaken_eq : s.syncTaken off =
    if 4 ≤ s.goodAfter off then (s.offsetNoted off).put .GST_SYNC_STATUS_LOCKED 0 1 else s.offsetNoted off := rfl

theorem State.offsetNoted_get : (s.offsetNoted off).get .GST_SYNC_STATUS_OFFSET 0 = ofSigned 16 (max (-32767) (min 32767 off)) % 2 ^ 16 :=
  s.get_put_same .GST_SYNC_STATUS_OFFSET 0 _

theorem State.offsetNoted_flds {k : Nat} (d : Nat) (h : k ≠ Fld.GST_SYNC_STATUS_OFFSET.key 0) :
    SMap.get (s.offsetNoted off).flds k d = SMap.get s.flds k d :=
  s.flds_put_other _ _ _ _ _ h

theorem State.syncTaken_frame : s.syncTaken off = { s with flds := (s.syncTaken off).flds, sync := (s.syncTaken off).sync } := by
  rw [State.syncTaken_eq]
  split <;> rfl

theorem State.syncTaken_sync : (s.syncTaken off).sync = { s.sync with good := s.goodAfter off, missed := 0, seen := true, pendingNs := off } := by
  rw [State.syncTaken_eq]
  split <;> rfl

theorem State.syncTaken_kept : s.fieldsKept (s.syncTaken off) [Fld.GST_SYNC_STATUS_OFFSET.key 0, Fld.GST_SYNC_STATUS_LOCKED.key 0] := by
  intro k d hk
  simp only [List.mem_cons, List.not_mem_nil, or_false, not_or] at hk
  rw [State.syncTaken_eq]
  split
  · rw [State.flds_put_other _ _ _ _ _ _ hk.2, State.offsetNoted_flds _ _ _ hk.1]
  · exact State.offsetNoted_flds _ _ _ hk.1

@[simp] theorem State.syncTaken_markersOut : (s.syncTaken off).markersOut = s.markersOut := by rw [State.syncTaken_frame]

@[simp] theorem State.syncTaken_anyArmed : (s.syncTaken off).anyArmed = s.anyArmed := by rw [State.syncTaken_frame]; rfl

@[simp] theorem State.syncTaken_gust : (s.syncTaken off).gust = s.gust := by
  refine s.syncTaken_kept off _ _ fun h => ?_
  simp only [List.mem_cons, List.not_mem_nil, or_false] at h
  exact h.elim (Fld.key_ne 0 0 (by decide) (by decide) (by decide)) (Fld.key_ne 0 0 (by decide) (by decide) (by decide))

theorem State.syncTaken_offset : (s.syncTaken off).get .GST_SYNC_STATUS_OFFSET 0 = ofSigned 16 (max (-32767) (min 32767 off)) % 2 ^ 16 := by
  rw [State.syncTaken_eq]
  split
  · rw [State.get_put_of_id _ _ _ _ (by decide) (by decide) (by decide), State.offsetNoted_get]
  · exact State.offsetNoted_get ..

/-- Four in a row lock. -/
theorem State.syncTaken_locked (h : 4 ≤ s.goodAfter off) : (s.syncTaken off).on .GST_SYNC_STATUS_LOCKED 0 = true := by
  rw [State.syncTaken_eq, if_pos h]
  exact State.on_put_one _ _ _ (by decide)

end

/-! ### Edges -/

theorem gustSyncEdge_otherSource {s : State} {off : Int} (h : s.get .GST_SYNC_CTL_SRC 0 ≠ 1) : gustSyncEdge off s = s := if_pos h

theorem gustSyncEdge_near {s : State} {off : Int} (h : s.get .GST_SYNC_CTL_SRC 0 = 1) (ho : off.natAbs ≤ 1000) : gustSyncEdge off s = s.syncTaken off := by
  simp [gustSyncEdge, h, Nat.not_lt.2 ho]

theorem gustSyncEdge_far {s : State} {off : Int} (h : s.get .GST_SYNC_CTL_SRC 0 = 1) (ho : 1000 < off.natAbs) :
    gustSyncEdge off s = (s.put .GST_SYNC_STATUS_PIN_REJECT 0 1).syncEvent 4 off := by
  simp [gustSyncEdge, h, ho]

/-! ### Markers -/

/-- With a plan armed, or with nothing that renumbers the gust, the next number is one more. -/
theorem State.nextNumber_plain {s : State} (h : s.anyArmed = true ∨ (s.cmds = [] ∧ s.sync.adopt = none)) : s.nextNumber = (s.gust + 1) % 2 ^ 48 := by
  unfold State.nextNumber
  dsimp only
  rcases h with h | ⟨hc, ha⟩
  · rw [if_pos h]
  · simp [hc, ha]

theorem markerSend_master {s : State} (h : s.on .GST_SYNC_CTL_MASTER 0 = true) :
    markerSend s = s.free.2.sendMarkers s.nextNumber 0 (s.get .XNI_CTL_MARKER_LEAD 0 * 100000 - s.free.1.toNat % 10625) := if_pos h

theorem markerSend_follower {s : State} (h : s.on .GST_SYNC_CTL_MASTER 0 = false) : markerSend s = s := by
  simp [markerSend, h]

/-- Whether a marker on port `k` comes from the module's upstream. -/
def State.upstream (s : State) (k : Nat) : Prop := s.get .GST_SYNC_CTL_SRC 0 = 2 ∧ s.get .GST_SYNC_CTL_UPSTREAM_PORT 0 = k ∧ s.portUp k = true

/-- How far ahead of its receive reference the boundary lies that a marker on port `k` announces, in ps. -/
def State.markerAhead (s : State) (k lead : Nat) : Int := (lead : Int) - s.get .XNI_PORT_DELAY_DELAY k

section
variable {s : State} {k num hops lead : Nat} {own : Int} {dwell : Nat}

theorem gustMarker_ignored (h : ¬s.upstream k) : gustMarker k num hops lead own dwell s = s.bump .XNI_STATS_MARKERS_IGNORED 0 1 := by
  refine if_pos ?_
  simpa only [State.upstream, not_and_or, Bool.not_eq_true'  , ← Bool.not_eq_true] using h

/-- A marker on the upstream port is relayed, and then taken where its boundary lies far enough ahead. -/
theorem gustMarker_upstream (h : s.upstream k) : gustMarker k num hops lead own dwell s =
    let u := s.sendMarkers num (hops + 1) (s.markerAhead k lead - dwell).toNat
    if s.markerAhead k lead < 2500000 then u
    else
      let v := u.syncTaken ((own - s.markerAhead k lead) / 1000)
      if !v.anyArmed then { v with sync := { v.sync with adopt := some (num % 2 ^ 48) } }
      else if num % 2 ^ 48 = (v.gust + 1) % 2 ^ 48 then v
      else (v.put .GST_SYNC_STATUS_NUM_MISMATCH 0 1).syncEvent 2 ((own - s.markerAhead k lead) / 1000) := by
  obtain ⟨h1, h2, h3⟩ := h
  refine if_neg ?_
  simp [h1, h2, h3]

/-- A marker whose boundary is less than 2.5 µs ahead is relayed and not taken. -/
theorem gustMarker_late (h : s.upstream k) (ha : s.markerAhead k lead < 2500000) :
    gustMarker k num hops lead own dwell s = s.sendMarkers num (hops + 1) (s.markerAhead k lead - dwell).toNat := by
  rw [gustMarker_upstream h]
  exact if_pos ha

/-- With no plan armed, a marker's number is adopted. -/
theorem gustMarker_adopted (h : s.upstream k) (ha : 2500000 ≤ s.markerAhead k lead) (hn : s.anyArmed = false) :
    gustMarker k num hops lead own dwell s =
      let v := (s.sendMarkers num (hops + 1) (s.markerAhead k lead - dwell).toNat).syncTaken ((own - s.markerAhead k lead) / 1000)
      { v with sync := { v.sync with adopt := some (num % 2 ^ 48) } } := by
  have hv : (s.sendMarkers num (hops + 1) (s.markerAhead k lead - dwell).toNat).anyArmed = false := hn
  rw [gustMarker_upstream h]
  simp only [Int.not_lt.2 ha, if_false, State.syncTaken_anyArmed, hv, Bool.not_false, if_true]

/-- With a plan armed, a marker's number that is not the next is reported. -/
theorem gustMarker_mismatch (h : s.upstream k) (ha : 2500000 ≤ s.markerAhead k lead) (hp : s.anyArmed = true) (hn : num % 2 ^ 48 ≠ (s.gust + 1) % 2 ^ 48) :
    gustMarker k num hops lead own dwell s =
      (((s.sendMarkers num (hops + 1) (s.markerAhead k lead - dwell).toNat).syncTaken ((own - s.markerAhead k lead) / 1000)).put
        .GST_SYNC_STATUS_NUM_MISMATCH 0 1).syncEvent 2 ((own - s.markerAhead k lead) / 1000) := by
  have hv : (s.sendMarkers num (hops + 1) (s.markerAhead k lead - dwell).toNat).anyArmed = true := hp
  have hg : (s.sendMarkers num (hops + 1) (s.markerAhead k lead - dwell).toNat).gust = s.gust := rfl
  rw [gustMarker_upstream h]
  simp only [Int.not_lt.2 ha, if_false, State.syncTaken_anyArmed, hv, State.syncTaken_gust, hg, Bool.not_true, Bool.false_eq_true, if_neg hn]

end

end Sys2Proof.Machine

namespace Sys2Proof.Proofs
open Sys2Proof Sys2Proof.Machine

/-- Settles O21: an edge or a marker is taken as `syncTaken` says, and markers go out on the relay ports. -/
theorem gustAlignment : Obligations.GustAlignment := by
  intro s hc hg
  have edge (off : Int) : exec (.gustSyncEdge off) s = .next (gustSyncEdge off s) := congrArg _ (State.whenGusts_on _ hc hg)
  have send : exec .markerSend s = .next (markerSend s) := congrArg _ (State.whenGusts_on _ hc hg)
  have marker (k : Fin 16) (num hops lead : Nat) (at_ : MarkerTimes) :
      exec (.gustMarker k num hops lead at_) s = .next (gustMarker k.val num hops lead at_.own at_.dwell s) := congrArg _ (State.whenGusts_on _ hc hg)
  refine ⟨fun off h => ?_, fun off h ho => ?_, fun off h ho => ?_, fun h => ?_, fun h => ?_, fun k num hops lead at_ => ⟨fun h => ?_, fun h ha => ?_, fun h ha hn => ?_, fun h ha hp hn => ?_⟩⟩
  · rw [edge, gustSyncEdge_otherSource h]
  · have hs := s.syncTaken_sync off
    have hgood : (s.syncTaken off).sync.good = s.goodAfter off := by rw [hs]
    refine ⟨s.syncTaken off, by rw [edge, gustSyncEdge_near h ho], ?_, by rw [hs], by rw [hs], by rw [hs], hgood, fun h4 => ?_, s.syncTaken_kept off, s.syncTaken_frame off⟩
    · have hb : max (-32767) (min 32767 off) = off := by omega
      rw [State.syncTaken_offset, hb, signedOf_ofSigned16 ho]
    · exact s.syncTaken_locked off (hgood ▸ h4)
  · refine ⟨s.put .GST_SYNC_STATUS_PIN_REJECT 0 1, by rw [edge, gustSyncEdge_far h ho], State.on_put_one _ _ _ (by decide), rfl, fun k d hk => ?_⟩
    exact State.flds_put_other _ _ _ _ _ _ fun e => hk (List.mem_singleton.2 e)
  · rw [send, markerSend_follower h]
  · refine ⟨s.nextNumber, s.free.1, State.nextNumber_plain, ?_⟩
    rw [send, markerSend_master h]
    rfl
  · rw [marker, gustMarker_ignored h]
  · rw [marker, gustMarker_late h ha]
    rfl
  · exact ⟨_, (marker ..).trans (congrArg _ (gustMarker_adopted h ha hn)), rfl, congrArg Sync.pendingNs (State.syncTaken_sync ..), congrArg Sync.seen (State.syncTaken_sync ..),
      State.syncTaken_markersOut ..⟩
  · exact ⟨_, (marker ..).trans (congrArg _ (gustMarker_mismatch h ha hp hn)), State.on_put_one _ _ _ (by decide), State.syncTaken_markersOut ..⟩

end Sys2Proof.Proofs
end

section
/-!
PROOFS. The events of a gust in every state (R24; notes/assumptions/48.md).
-/
namespace Sys2Proof.Machine

section
variable {s : State}

theorem lullStart_work (h : s.phase = 0) : (lullStart s).phase = 1 := by
  rw [lullStart, if_neg (not_not.2 h)]

theorem lullStart_later (h : s.phase ≠ 0) : lullStart s = s := if_pos h

theorem lullStart_phase (h : s.phase ≤ 1) : (lullStart s).phase = 1 := by
  rcases Nat.le_one_iff_eq_zero_or_eq_one.1 h with h0 | h1
  · exact lullStart_work h0
  · rw [lullStart_later (by omega), h1]

theorem commitDecision_open (h : s.phase ≤ 1) : (commitDecision s).phase = 2 := by
  rw [commitDecision, if_neg (not_not.2 (lullStart_phase h))]

theorem commitDecision_made (h : 2 ≤ s.phase) : commitDecision s = s := by
  rw [commitDecision, lullStart_later (by omega)]
  exact if_pos (by omega)

theorem commitDecision_phase (h : s.phase ≤ 2) : (commitDecision s).phase = 2 := by
  rcases Nat.le_or_eq_of_le_succ h with h1 | h2
  · exact commitDecision_open h1
  · rw [commitDecision_made h2.ge, h2]

theorem guardInterval_open (h : s.phase ≤ 2) : (guardInterval s).phase = 3 := by
  rw [guardInterval, if_neg (not_not.2 (commitDecision_phase h))]

theorem guardInterval_over (h : 3 ≤ s.phase) : guardInterval s = s := by
  rw [guardInterval, commitDecision_made (by omega)]
  exact if_pos (by omega)

theorem gustBoundary_phase : (gustBoundary s).phase = 0 := rfl

end

end Sys2Proof.Machine
end

section
/-!
PROOFS. COMMIT_COMPLETE (R20, R24, R27) and the statement O19.
-/
namespace Sys2Proof.Machine

/-! ### Fields that two states share -/

theorem State.get_of_kept {s t : State} {ks : List Nat} (h : s.fieldsKept t ks) {f : Fld} {i : Nat} (hf : f.key i ∉ ks) : t.get f i = s.get f i := h _ _ hf

theorem State.on_of_kept {s t : State} {ks : List Nat} (h : s.fieldsKept t ks) {f : Fld} {i : Nat} (hf : f.key i ∉ ks) : t.on f i = s.on f i :=
  congrArg (· == 1) (State.get_of_kept h hf)

/-- A key of a field is not among the keys of two fields with other numbers. -/
theorem Fld.key_not_mem_pair {f g h : Fld} (i j k : Nat) (hf : f.id < 4096) (hg : g.id < 4096) (hh : h.id < 4096) (h1 : f.id ≠ g.id) (h2 : f.id ≠ h.id) :
    f.key i ∉ [g.key j, h.key k] := by
  simp [Fld.key_ne i j hf hg h1, Fld.key_ne i k hf hh h2]

@[simp] theorem State.part_modPart_same (s : State) (p : Nat) (f : Part → Part) : (s.modPart p f).part p = f (s.part p) := State.part_set_same ..

@[simp] theorem State.modPart_get (s : State) (p : Nat) (f : Part → Part) (g : Fld) (i : Nat) : (s.modPart p f).get g i = s.get g i := rfl
@[simp] theorem State.modPart_flds (s : State) (p : Nat) (f : Part → Part) : (s.modPart p f).flds = s.flds := rfl
@[simp] theorem State.modPart_mem (s : State) (p : Nat) (f : Part → Part) : (s.modPart p f).mem = s.mem := rfl
@[simp] theorem State.modPart_hostMem (s : State) (p : Nat) (f : Part → Part) : (s.modPart p f).hostMem = s.hostMem := rfl

theorem State.part_modPart_other (s : State) {p j : Nat} (f : Part → Part) (h : j ≠ p) : (s.modPart p f).part j = s.part j := State.part_set_other _ _ h

/-! ### A commit with nothing to serve -/

/-- The fields that a commit of partition `p` writes of the partition's own. -/
def commitKeys (p : Nat) : List Nat := [Fld.GST_PART_STEP_STEP.key p, Fld.GST_PART_COMMIT_GUST.key p]

theorem Fld.key_not_mem_commitKeys {f : Fld} (i p : Nat) (hf : f.id < 4096) (h1 : f.id ≠ Fld.GST_PART_STEP_STEP.id) (h2 : f.id ≠ Fld.GST_PART_COMMIT_GUST.id) :
    f.key i ∉ commitKeys p :=
  Fld.key_not_mem_pair i p p hf (by decide) (by decide) h1 h2

/-- At a commit of partition `p` no command, engine, mailbox or output ring is to be served. -/
structure State.CommitIdle (s : State) (p : Nat) : Prop where
  cmds : s.cmds = []
  engines : s.partEngines p = []
  outboxes : ∀ n, n < 64 → s.on .XNI_OUTBOX_VALID (ix2 64 p n) = false
  mailboxes : s.get .XNI_MBOX_BASE_BASE p = 0 ∧ s.inRegion p 0 32 = false
  outputs : s.inForce .MON_OUT_RING_ENABLE p = 0

/-- What a commit writes of its own gives it nothing to serve. -/
theorem State.CommitIdle.congr {s t : State} {p : Nat} (h : s.CommitIdle p) (hc : t.cmds = s.cmds) (he : t.eff = s.eff) (hk : s.fieldsKept t (commitKeys p)) :
    t.CommitIdle p where
  cmds := hc.trans h.cmds
  engines := by
    have e (e : Nat) : t.enginePart e = s.enginePart e := State.get_of_kept hk (Fld.key_not_mem_commitKeys e p (by decide) (by decide) (by decide))
    simpa only [State.partEngines, e] using h.engines
  outboxes n hn := (State.on_of_kept hk (Fld.key_not_mem_commitKeys _ p (by decide) (by decide) (by decide))).trans (h.outboxes n hn)
  mailboxes := by
    have b : t.get .PART_SHC_BASE p = s.get .PART_SHC_BASE p := State.get_of_kept hk (Fld.key_not_mem_commitKeys p p (by decide) (by decide) (by decide))
    have n : t.get .PART_SHC_BYTES p = s.get .PART_SHC_BYTES p := State.get_of_kept hk (Fld.key_not_mem_commitKeys p p (by decide) (by decide) (by decide))
    have m : t.get .XNI_MBOX_BASE_BASE p = s.get .XNI_MBOX_BASE_BASE p := State.get_of_kept hk (Fld.key_not_mem_commitKeys p p (by decide) (by decide) (by decide))
    simpa only [State.inRegion, b, n, m] using h.mailboxes
  outputs := by
    have r : t.get .MON_OUT_RING_ENABLE p = s.get .MON_OUT_RING_ENABLE p := State.get_of_kept hk (Fld.key_not_mem_commitKeys p p (by decide) (by decide) (by decide))
    simpa only [State.inForce, r, he] using h.outputs

/-- Valid outboxes and a mailbox table are what notices go to. -/
theorem State.mboxNotices_idle {s : State} {p : Nat} (ho : ∀ n, n < 64 → s.on .XNI_OUTBOX_VALID (ix2 64 p n) = false)
    (hm : s.get .XNI_MBOX_BASE_BASE p = 0 ∧ s.inRegion p 0 32 = false) : s.mboxNotices p = s := by
  have loop (g : State → Nat → State) (l : List Nat) (hl : ∀ n ∈ l, n < 64) :
      l.foldl (fun t n => if t.on .XNI_OUTBOX_VALID (ix2 64 p n) = true then g t n else t) s = s := by
    induction l with
    | nil => rfl
    | cons n r ih =>
      rw [List.foldl_cons, ho n (hl n (List.mem_cons_self ..)), if_neg Bool.false_ne_true]
      exact ih fun k hk => hl k (List.mem_cons_of_mem _ hk)
  unfold State.mboxNotices
  split
  · rfl
  · dsimp only
    rw [loop _ _ fun n hn => List.mem_range.1 hn, if_pos ⟨hm.1, by rw [hm.2]; rfl⟩]

/-- With no command in progress and no root to rewrite, applying KV commands clears the list of rewrites alone. -/
theorem State.kvApply_idle {s : State} {p : Nat} (hc : s.cmds = []) (hr : (s.part p).rewrites = []) :
    s.kvApply p = s.modPart p fun x => { x with rewrites := [] } := by
  have hw : s.rewriteRoots p = s.modPart p fun x => { x with rewrites := [] } := by rw [State.rewriteRoots, hr]; rfl
  have hn : (s.rewriteRoots p).cmds = [] := by rw [hw]; exact hc
  rw [State.kvApply, hn, ← hw]
  rfl

theorem State.meter_off {s : State} {p : Nat} (h : s.inForce .MON_OUT_RING_ENABLE p = 0) : s.meter p = s := if_pos h

/-- What every commit records first: the step, the commit gust, and a partition with nothing left to undo and its carried regions copied. -/
def State.commitRecord (s : State) (p : Nat) : State :=
  (((s.put .GST_PART_STEP_STEP p ((s.get .GST_PART_STEP_STEP p + 1) % 2 ^ 48)).put .GST_PART_COMMIT_GUST p s.gust).modPart p
    fun x => { x with undo := [], wrote := [], refused := false }).captureCarried p

section
variable {s : State} {p : Nat}

theorem State.commitRecord_frame : s.commitRecord p = { s with flds := (s.commitRecord p).flds, parts := (s.commitRecord p).parts } := rfl

theorem State.commitRecord_kept : s.fieldsKept (s.commitRecord p) (commitKeys p) := by
  intro k d hk
  simp only [commitKeys, List.mem_cons, List.not_mem_nil, or_false, not_or] at hk
  exact (State.flds_put_other _ _ _ _ _ _ hk.2).trans (State.flds_put_other _ _ _ _ _ _ hk.1)

theorem State.commitRecord_step : (s.commitRecord p).get .GST_PART_STEP_STEP p = (s.get .GST_PART_STEP_STEP p + 1) % 2 ^ 48 := by
  refine (State.get_put_of_id _ _ _ _ (by decide) (by decide) (by decide)).trans ((State.get_put_same ..).trans ?_)
  exact Nat.mod_mod ..

theorem State.commitRecord_commit : (s.commitRecord p).get .GST_PART_COMMIT_GUST p = s.gust % 2 ^ 48 := State.get_put_same ..

theorem State.commitRecord_part_other {j : Nat} (h : j ≠ p) : (s.commitRecord p).part j = s.part j :=
  (State.part_modPart_other _ _ h).trans (State.part_modPart_other _ _ h)

/-- The record leaves the partition's job and its roots to rewrite as they were. -/
theorem State.commitRecord_part :
    ((s.commitRecord p).part p).running = (s.part p).running ∧ ((s.commitRecord p).part p).rewrites = (s.part p).rewrites := by
  simp only [State.commitRecord, State.captureCarried, State.part_modPart_same]
  exact ⟨rfl, rfl⟩

theorem State.commit_eq : s.commit p =
    (((((((s.commitRecord p).partEngines p).foldl State.dmaCommit (s.commitRecord p)).mboxNotices p).kvApply p).meter p).modPart p
      fun x => { x with committed := true }) := rfl

/-- With nothing to serve, a commit is its record and the mark that it is complete. -/
theorem State.commit_idle (h : s.CommitIdle p) (hr : (s.part p).rewrites = []) :
    s.commit p = ((s.commitRecord p).modPart p fun x => { x with rewrites := [] }).modPart p fun x => { x with committed := true } := by
  have hi : (s.commitRecord p).CommitIdle p := h.congr rfl rfl State.commitRecord_kept
  have hr' : ((s.commitRecord p).part p).rewrites = [] := State.commitRecord_part.2.trans hr
  have hm : ((s.commitRecord p).modPart p fun x => { x with rewrites := [] }).inForce .MON_OUT_RING_ENABLE p = 0 := hi.outputs
  rw [State.commit_eq, hi.engines, List.foldl_nil, State.mboxNotices_idle hi.outboxes hi.mailboxes, State.kvApply_idle hi.cmds hr', State.meter_off hm]

theorem State.commit_committed : ((s.commit p).part p).committed = true := by
  rw [State.commit, State.part_modPart_same]

end

/-! ### COMMIT_COMPLETE after the decision -/

section
variable {s : State} {p : Nat}

theorem commitComplete_undecided (h : (s.part p).running = false ∨ (s.part p).decision ≠ some true ∨ (s.part p).committed = true) : commitComplete p s = s := by
  refine if_pos ?_
  rcases h with h | h | h <;> simp [h]

/-- A partition that was decided to commit and has met no fault, its commit word intact and equal to the gust. -/
structure State.CommitDue (s : State) (p : Nat) : Prop where
  running : (s.part p).running = true
  decided : (s.part p).decision = some true
  open_ : (s.part p).committed = false
  unflagged : (s.part p).flag = none
  word : (s.part p).commitWord = Tri.of s.gust

theorem Tri.vote_of {α : Type} [DecidableEq α] (v : α) : (Tri.of v).vote = (some v, false, Tri.of v) := by
  simp [Tri.vote, Tri.of]

/-- The state in which the vote of the commit word leaves such a partition. -/
def State.commitVoted (s : State) (p : Nat) : State := s.modPart p fun x => { x with commitWord := Tri.of s.gust }

/-- Such a commit is made. -/
theorem commitComplete_due (hph : s.phase = 2) (h : s.CommitDue p) : commitComplete p s = (s.commitVoted p).commit p := by
  simp only [commitComplete, h.running, h.decided, h.open_, h.unflagged, h.word, hph, Tri.vote_of]
  exact if_pos rfl

theorem State.commitVoted_part : (s.commitVoted p).part p = { s.part p with commitWord := Tri.of s.gust } := State.part_modPart_same ..

theorem State.commitVoted_part_other {j : Nat} (h : j ≠ p) : (s.commitVoted p).part j = s.part j := State.part_modPart_other _ _ h

theorem State.CommitIdle.voted (h : s.CommitIdle p) : (s.commitVoted p).CommitIdle p := h.congr rfl rfl fun _ _ _ => rfl

end

end Sys2Proof.Machine

namespace Sys2Proof.Proofs
open Sys2Proof Sys2Proof.Machine

/-- Settles O19: a commit that is due is made, and with nothing to serve it is its record. -/
theorem commitAdvancesStep : Obligations.CommitAdvancesStep := by
  have run (p : Fin 12) {s : State} (hc : s.clocked = true) (hg : s.gustsRun = true) (hph : s.phase = 2) :
      exec (.commitComplete p) s = .next (commitComplete p.val s) := by
    refine congrArg _ ((State.whenGusts_on _ hc hg).trans ?_)
    rw [commitDecision_made hph.ge]
  refine ⟨fun p s hc hg hph => ⟨fun h => ?_, fun hr hd ho hf hw => ?_⟩, fun p s hc hg hph hcm _ hr hf hd ho hw _ hrw he hx hm hi hout => ?_⟩
  · rw [run p hc hg hph, commitComplete_undecided h]
  · exact ⟨_, (run p hc hg hph).trans (congrArg _ (commitComplete_due hph ⟨hr, hd, ho, hf, hw⟩)), State.commit_committed⟩
  · have hidle : s.CommitIdle p.val := ⟨hcm, he, hx, ⟨hm, hi⟩, hout⟩
    have hur : ((s.commitVoted p.val).part p.val).rewrites = [] := by rw [State.commitVoted_part]; exact hrw
    have hun : ((s.commitVoted p.val).part p.val).running = true := by rw [State.commitVoted_part]; exact hr
    have ht := (commitComplete_due hph ⟨hr, hd, ho, hf, hw⟩).trans (State.commit_idle hidle.voted hur)
    refine ⟨_, (run p hc hg hph).trans (congrArg _ ht), ?_, ?_, ?_, ?_, fun j hj => ?_, ?_, ?_, ?_⟩
    · rw [State.modPart_get, State.modPart_get, State.commitRecord_step]
      rfl
    · rw [State.modPart_get, State.modPart_get, State.commitRecord_commit]
      rfl
    · rw [State.part_modPart_same]
    · rw [State.part_modPart_same, State.part_modPart_same]
      exact State.commitRecord_part.1.trans hun
    · rw [State.part_modPart_other _ _ hj, State.part_modPart_other _ _ hj, State.commitRecord_part_other hj, State.commitVoted_part_other hj]
    · rw [State.modPart_mem, State.modPart_mem, State.commitRecord_frame]
      rfl
    · rw [State.modPart_hostMem, State.modPart_hostMem, State.commitRecord_frame]
      rfl
    · unfold State.fieldsKept
      rw [State.modPart_flds, State.modPart_flds]
      exact State.commitRecord_kept (s := s.commitVoted p.val)

end Sys2Proof.Proofs
end

section
/-!
PROOFS. What the steps of a module in which nothing is in progress keep: the work, and the fields that say that there is none.
-/
namespace Sys2Proof.Machine

/-! ### Reading a filtered map -/

theorem SMap.get_filter_kept {β : Type} (m : SMap β) (p : Nat × β → Bool) (k : Nat) (d : β) (h : ∀ v, p (k, v) = true) : SMap.get (m.filter p) k d = SMap.get m k d := by
  induction m with
  | nil => rfl
  | cons e r ih =>
    obtain ⟨a, v⟩ := e
    by_cases ha : a = k
    · subst ha
      rw [List.filter_cons_of_pos (h v), SMap.get, SMap.get, if_pos rfl, if_pos rfl]
    · rw [List.filter_cons]
      split <;> simp only [SMap.get, if_neg ha, ih]

theorem SMap.get_filter_dropped {β : Type} (m : SMap β) (p : Nat × β → Bool) (k : Nat) (d : β) (h : ∀ v, p (k, v) = false) : SMap.get (m.filter p) k d = d := by
  refine (SMap.get_of_missing d fun e he hk => ?_).1
  obtain ⟨a, v⟩ := e
  subst hk
  exact absurd (List.mem_filter.1 he).2 (by rw [h v]; exact Bool.false_ne_true)

theorem keyField_key {f : Fld} (i : Nat) (hf : f.id < 4096) : keyField (f.key i) = f.id := by
  unfold keyField Fld.key; omega

theorem keyCopy_key {f : Fld} (i : Nat) (hf : f.id < 4096) : keyCopy (f.key i) = i := by
  unfold keyCopy Fld.key; omega

/-! ### Fields that every copy keeps -/

/-- Every copy of the fields `fs` reads in `t` as in `s`. -/
def State.Reads (s t : State) (fs : List Fld) : Prop := ∀ f ∈ fs, ∀ i, t.get f i = s.get f i

theorem State.Reads.trans {s t u : State} {fs : List Fld} (h1 : s.Reads t fs) (h2 : t.Reads u fs) : s.Reads u fs :=
  fun f hf i => (h2 f hf i).trans (h1 f hf i)

theorem State.reads_put (s : State) {fs : List Fld} {g : Fld} (i v : Nat) (hg : g.id < 4096) (hfs : ∀ f ∈ fs, f.id < 4096 ∧ f.id ≠ g.id) :
    s.Reads (s.put g i v) fs :=
  fun f hf j => State.get_put_of_id s i j v hg (hfs f hf).1 (hfs f hf).2

theorem State.reads_resetFields (s : State) {fs : List Fld} {ids : List Nat} (hfs : ∀ f ∈ fs, f.id < 4096 ∧ f.id ∉ ids) : s.Reads (s.resetFields ids) fs := by
  intro f hf i
  refine SMap.get_filter_kept _ _ _ _ fun v => ?_
  simp [keyField_key i (hfs f hf).1, (hfs f hf).2]

/-! ### Steps of a quiet module -/

/-- The fields by which `State.Quiet` says that nothing is in progress. -/
def quietFields : List Fld := [.FRZ_STATUS_FROZEN, .PWR_STATE_STATE, .PWR_STATE_BUSY, .GST_SYNC_CTL_SRC, .MON_OUT_RING_ENABLE, .PART_STATUS_STATE]

/-- These, and the settings and number of the gust. -/
def gustFields : List Fld := quietFields ++ [.GST_PERIOD_PERIOD, .GST_LULL_LULL, .GST_NUMBER_NUMBER]

/-- `t` is `s` but for register fields, alignment, the slices of the last commit and the note of a reference clock that is back. -/
def State.SameWork (s t : State) : Prop :=
  t = { s with flds := t.flds, sync := t.sync, commitSites := t.commitSites, always := { s.always with refBack := t.always.refBack } }

theorem State.SameWork.trans {s t u : State} (h1 : s.SameWork t) (h2 : t.SameWork u) : s.SameWork u := Eq.trans h2 (by rw [h1])

/-- What a step of a quiet module's boundary may do: no work begins or ends, and the gust's fields stay. -/
structure State.IdleStep (s t : State) : Prop where
  work : s.SameWork t
  reads : s.Reads t gustFields

theorem State.IdleStep.refl (s : State) : s.IdleStep s := ⟨rfl, fun _ _ _ => rfl⟩

theorem State.IdleStep.trans {s t u : State} (h1 : s.IdleStep t) (h2 : t.IdleStep u) : s.IdleStep u := ⟨h1.work.trans h2.work, h1.reads.trans h2.reads⟩

theorem State.IdleStep.of_eq {s t : State} (h : t = s) : s.IdleStep t := h ▸ .refl s

/-- A field apart from those of the gust. -/
abbrev Fld.Aside (g : Fld) : Prop := g.id < 4096 ∧ ∀ f ∈ gustFields, f.id < 4096 ∧ f.id ≠ g.id

theorem State.idle_put (s : State) {g : Fld} (i v : Nat) (hg : g.Aside) : s.IdleStep (s.put g i v) := ⟨rfl, s.reads_put i v hg.1 hg.2⟩

/-- A module that reads the same in those fields, and differs elsewhere only where `State.Quiet` does not look, is quiet too. -/
theorem State.Quiet.congr {s t : State} (h : s.Quiet)
    (hw : t = { s with
      flds := t.flds, sync := t.sync, commitSites := t.commitSites, always := { s.always with refBack := t.always.refBack }
      phase := t.phase, eff := t.eff, groups := t.groups, badGroups := t.badGroups })
    (hr : s.Reads t quietFields) : t.Quiet := by
  have on (f : Fld) (hf : f ∈ quietFields) (i : Nat) : t.on f i = s.on f i := congrArg (· == 1) (hr f hf i)
  have frozen := on .FRZ_STATUS_FROZEN (by decide) 0
  have state := hr .PWR_STATE_STATE (by decide) 0
  have shut : t.always.shut = s.always.shut := by rw [hw]
  have clocked : t.clocked = s.clocked := by simp only [State.clocked, frozen, state, shut]
  have gusts : t.gustsRun = s.gustsRun := by simp only [State.gustsRun, state]
  have busy := on .PWR_STATE_BUSY (by decide) 0
  have src := hr .GST_SYNC_CTL_SRC (by decide) 0
  have rings (p : Nat) := hr .MON_OUT_RING_ENABLE (by decide) p
  have parts (p : Nat) := hr .PART_STATUS_STATE (by decide) p
  refine ⟨clocked.trans h.clocked, gusts.trans h.gusts, ?_, ?_, ?_, ?_, ?_, ?_, ?_, ?_, ?_, ?_, ?_, ?_, ?_, ?_, ?_, ?_, ?_, ?_, ?_, ?_, ?_, busy.trans h.power, src.trans h.local_,
    fun p hp => (rings p).trans (h.unmetered p hp), fun p hp => (parts p).trans (h.absent p hp)⟩
  all_goals rw [hw]
  exacts [h.cmds, h.parts, h.cores, h.engines, h.links, h.xports, h.regs, h.mons, h.nand, h.stage, h.deskew, h.faults, h.wires, h.ondie, h.sram, h.atomHeld, h.xni,
    h.peatMapNew, h.due, h.prodSeen, h.gustWords]

theorem State.Quiet.idle {s t : State} (h : s.Quiet) (hs : s.IdleStep t) : t.Quiet :=
  h.congr (Eq.trans hs.work (by rw [hs.work])) fun f hf => hs.reads f (List.mem_append_left _ hf)

/-- A loop whose every round is idle. -/
theorem State.idle_foldl {α : Type} {f : State → α → State} {l : List α} (hf : ∀ x ∈ l, ∀ u : State, u.Quiet → u.IdleStep (f u x)) {s : State} (hq : s.Quiet) :
    s.IdleStep (l.foldl f s) := by
  induction l generalizing s with
  | nil => exact .refl s
  | cons x r ih =>
    have h := hf x (List.mem_cons_self ..) s hq
    exact h.trans (ih (fun y hy => hf y (List.mem_cons_of_mem _ hy)) (hq.idle h))

/-- A loop of which no round does anything. -/
theorem foldl_id {α : Type} {f : State → α → State} {s : State} {l : List α} (hf : ∀ x ∈ l, f s x = s) : l.foldl f s = s := by
  induction l with
  | nil => rfl
  | cons x r ih =>
    rw [List.foldl_cons, hf x (List.mem_cons_self ..)]
    exact ih fun y hy => hf y (List.mem_cons_of_mem _ hy)

end Sys2Proof.Machine
end

section
/-!
PROOFS. The lull and the decision of a module in which nothing is in progress (R24, R111).
-/
namespace Sys2Proof.Machine

section
variable {s : State}

theorem State.part_of_none (h : s.parts = []) (p : Nat) : s.part p = Part.fresh := by rw [State.part, h]; rfl

theorem State.runningParts_of_none (h : s.parts = []) : s.runningParts = [] := by
  refine List.filter_eq_nil_iff.2 fun p _ => ?_
  rw [State.part_of_none h]
  exact Bool.false_ne_true

/-- Refresh debts of banks that no grain holds are repaid at the lull (R111). -/
theorem State.catchUp_debt (c b : Nat) (h : s.on .FEN_BANK_CTL_GRAIN (ix2 128 c b) = false) : s.catchUp.get .FEN_BANK_CTL_DEBT (ix2 128 c b) = 0 := by
  refine SMap.get_filter_dropped _ _ _ _ fun v => ?_
  rw [keyField_key _ (by decide), keyCopy_key _ (by decide), h, bne_self_eq_false, Bool.false_or]

theorem State.deskewLull_idle (h : s.deskew = []) : s.deskewLull = s := by rw [State.deskewLull, h]; rfl

theorem State.channelLull_idle (h : s.links = []) : s.channelLull = s :=
  foldl_id fun m _ => if_pos (Or.inl (by rw [State.link, h]; exact (by decide : Link.down.port ≠ 6)))

theorem State.engine_of_none (h : s.engines = []) (e : Nat) : s.engine e = DmaEng.idle := by rw [State.engine, h]; rfl

theorem State.suspendDma_idle (h : s.engines = []) : s.suspendDma = s := by
  refine foldl_id fun e _ => ?_
  rw [State.engine_of_none h]
  exact if_neg (by simp [DmaEng.idle])

theorem State.Quiet.lullStart (h : s.Quiet) (hp : s.phase = 0) : lullStart s = { { s with phase := 1 }.catchUp with phase := 1 } := by
  have hr : s.runningParts = [] := State.runningParts_of_none h.parts
  have hd : { s with phase := 1 }.catchUp.deskewLull = { s with phase := 1 }.catchUp := State.deskewLull_idle h.deskew
  have hl : { s with phase := 1 }.catchUp.channelLull = { s with phase := 1 }.catchUp := State.channelLull_idle h.links
  have he : { s with phase := 1 }.catchUp.suspendDma = { s with phase := 1 }.catchUp := State.suspendDma_idle h.engines
  rw [Machine.lullStart, if_neg (not_not.2 hp), hr, List.foldl_nil, hd, hl, he]

theorem State.sendReplans_idle (h : s.therm.due = []) : s.sendReplans = s := by
  have ht : { s.therm with due := [] } = s.therm := by rw [← h]
  rw [State.sendReplans, h, List.foldl_nil, ht]

theorem State.commitOrRewind_absent {p : Nat} (hr : (s.part p).running = false) (ha : s.get .PART_STATUS_STATE p = 0) : s.commitOrRewind p = s := by
  rw [State.commitOrRewind, hr, ha]
  exact if_pos ha

theorem State.Quiet.commitDecision (h : s.Quiet) (hp : s.phase = 1) : commitDecision s = { s with phase := 2 } := by
  have hs : s.sendReplans = s := State.sendReplans_idle h.due
  have hd : (List.range 12).foldl State.commitOrRewind s = s :=
    foldl_id fun p hp => State.commitOrRewind_absent (by rw [State.part_of_none h.parts]; rfl) (h.absent p (List.mem_range.1 hp))
  rw [Machine.commitDecision, lullStart_later (by omega), if_neg (not_not.2 hp), hs, hd]

end

end Sys2Proof.Machine
end

section
/-!
PROOFS. The boundary of a module in which nothing is in progress, step by step (R18, R20, R24, R124).
-/
namespace Sys2Proof.Machine

theorem SMap.set_nil {β : Type} [DecidableEq β] (k : Nat) (d : β) : SMap.set ([] : SMap β) k d d = [] := if_pos rfl

theorem State.idle_puts (s : State) (i : Nat) {fs : List (Fld × Nat)} (h : ∀ e ∈ fs, e.1.Aside) : s.IdleStep (s.puts i fs) := by
  induction fs generalizing s with
  | nil => exact .refl s
  | cons e r ih =>
    exact (s.idle_put i e.2 (h e (List.mem_cons_self ..))).trans (ih _ fun x hx => h x (List.mem_cons_of_mem _ hx))

section
variable {s : State}

/-! ### The gust that ends -/

theorem State.slackSamples_idle (h : s.parts = []) : s.slackSamples = s := by rw [State.slackSamples, State.runningParts_of_none h]; rfl

theorem State.monSample_idle (h : s.mons = []) (i : Nat) (x : Int) : s.monSample i x = s :=
  if_neg (by rw [State.mon, h]; exact Bool.false_ne_true)

theorem State.setLink_down (h : s.links = []) (l : Nat) : s.setLink l Link.down = s := by rw [State.setLink, h, SMap.set_nil, ← h]

theorem State.setXport_down (h : s.xports = []) (k : Nat) : s.setXport k XPort.down = s := by rw [State.setXport, h, SMap.set_nil, ← h]

theorem State.Quiet.retrySamples (h : s.Quiet) : s.retrySamples = s := by
  have links : (List.range 24).foldl (fun s l => (s.monSample (monLinkRetry + l) (s.link l).replays).setLink l { s.link l with replays := 0 }) s = s := by
    refine foldl_id fun l _ => ?_
    have hl : s.link l = Link.down := by rw [State.link, h.links]; rfl
    rw [State.monSample_idle h.mons, hl]
    exact State.setLink_down h.links l
  have ports : (List.range 16).foldl (fun s k => (s.monSample (monPortRetry + k) (s.xport k).replays).setXport k { s.xport k with replays := 0 }) s = s := by
    refine foldl_id fun k _ => ?_
    have hk : s.xport k = XPort.down := by rw [State.xport, h.xports]; rfl
    rw [State.monSample_idle h.mons, hk]
    exact State.setXport_down h.xports k
  rw [State.retrySamples, links, ports]

theorem accFields_aside (res : Nat) : (accFields res).1.Aside ∧ (accFields res).2.1.Aside ∧ (accFields res).2.2.Aside := by
  unfold accFields
  split_ifs <;> decide

theorem State.setReg_zero (h : s.regs = []) (res p : Nat) : s.setReg res p Reg.zero = s := by rw [State.setReg, h, SMap.set_nil, ← h]

theorem State.Quiet.latchAccount (h : s.Quiet) (res p : Nat) : s.IdleStep (s.latchAccount res p) := by
  obtain ⟨bytes, wait, ceiling⟩ := accFields_aside res
  have hz : s.reg res p = Reg.zero := by rw [State.reg, h.regs]; rfl
  have hp := s.idle_puts (regFields res p).2.2 (fs := [((accFields res).1, saturate 32 (Reg.zero.bytes / 1024)), ((accFields res).2.1, saturate 16 Reg.zero.waitUs),
    ((accFields res).2.2, Bool.bit Reg.zero.hit)]) (by simp only [List.forall_mem_cons]; exact ⟨bytes, wait, ceiling, fun _ h => absurd h List.not_mem_nil⟩)
  rw [State.latchAccount, hz]
  exact hp.trans (.of_eq (State.setReg_zero (hp.work ▸ h.regs) res p))

theorem State.Quiet.latchAccounts (h : s.Quiet) : s.IdleStep s.latchAccounts :=
  State.idle_foldl (l := List.range 12) (fun p _ _ hu => State.idle_foldl (l := resources) (fun r _ _ hv => hv.latchAccount r.1 p) hu) h

/-! ### The number, and what starts with it -/

/-- The number rises and the work window begins; writes that waited for the boundary are in force, and no group is open. -/
def State.newGust (s : State) : State := { s.put .GST_NUMBER_NUMBER 0 (s.gust + 1) with phase := 0, eff := [], groups := [], badGroups := [] }

theorem State.newGust_gust : s.newGust.gust = (s.gust + 1) % 2 ^ 48 := State.get_put_same ..

theorem State.Quiet.newGust (h : s.Quiet) : s.newGust.Quiet := h.congr rfl (s.reads_put 0 _ (by decide) (by decide))

theorem State.modPart_fresh (h : s.parts = []) (p : Nat) {f : Part → Part} (hf : f Part.fresh = Part.fresh) : s.modPart p f = s := by
  rw [State.modPart, State.part_of_none h, hf, State.setPart, h, SMap.set_nil, ← h]

/-! ### The steps of the boundary -/

theorem State.Quiet.clearCaches (h : s.Quiet) : s.IdleStep s.clearCaches := by
  rw [State.clearCaches, h.cores]
  exact ⟨rfl, s.reads_resetFields (by decide)⟩

theorem State.Quiet.applyPeatMap (h : s.Quiet) : s.IdleStep s.applyPeatMap := by
  have hs : { s with peatMapNew := [] } = s := by rw [← h.peatMapNew]
  rw [State.applyPeatMap, h.peatMapNew, List.foldl_nil, hs]
  exact s.idle_put _ _ (by decide)

theorem State.Quiet.monBoundary (h : s.Quiet) : s.monBoundary = s := by rw [State.monBoundary, h.mons]; rfl

theorem State.Quiet.linkStops (h : s.Quiet) : s.linkStops = s :=
  foldl_id fun p _ => if_neg (by rw [State.part_of_none h.parts]; exact Bool.false_ne_true)

theorem State.Quiet.boundaryCmds (h : s.Quiet) : s.boundaryCmds = s := by rw [State.boundaryCmds, h.cmds]; rfl

theorem State.Quiet.meterBoundary (h : s.Quiet) : s.meterBoundary = s := by
  refine foldl_id fun p hp => ?_
  rw [if_pos (h.unmetered p (List.mem_range.1 hp)), h.prodSeen, SMap.set_nil, ← h.prodSeen]

theorem State.Quiet.powerBoundary (h : s.Quiet) : s.powerBoundary = s := if_neg (by rw [h.power]; exact Bool.false_ne_true)

theorem State.Quiet.dieBoundary (h : s.Quiet) : s.dieBoundary = s := by rw [State.dieBoundary, h.cmds]; rfl

theorem State.Quiet.portsBoundary (h : s.Quiet) : s.IdleStep s.portsBoundary := by
  refine State.idle_foldl (fun k _ u _ => ?_) h
  split
  · exact u.idle_put _ _ (by decide)
  · exact .refl u

theorem State.Quiet.voteGust (h : s.Quiet) : s.voteGust = s := by
  obtain ⟨w, hw⟩ := h.gustWords
  have hs : { s with gustWords := Tri.of w } = s := by rw [← hw]
  rw [State.voteGust, hw, Tri.vote_of]
  dsimp only
  rw [hs]
  rfl

theorem State.Quiet.syncBoundary (h : s.Quiet) : s.IdleStep s.syncBoundary := by
  have hl : s.localSource = true := by rw [State.localSource, h.local_]; rfl
  rw [State.syncBoundary, if_pos hl]
  exact ⟨rfl, (s.idle_put (g := .GST_SYNC_STATUS_LOCKED) 0 0 (by decide)).reads⟩

theorem State.snapInputs_idle (h : s.parts = []) (p : Nat) : s.snapInputs p = s := by
  rw [State.snapInputs, State.part_of_none h]
  rfl

theorem State.ageRewinds_idle (h : s.parts = []) (p : Nat) : s.ageRewinds p = s := by
  rw [State.ageRewinds, State.part_of_none h]
  rfl

theorem State.startGust_idle (h : s.parts = []) (p : Nat) : s.startGust p = s := by
  rw [State.startGust, State.part_of_none h]
  rfl

theorem State.newAllowances_idle (h : s.parts = []) (p : Nat) : s.newAllowances p = s := by
  rw [State.newAllowances, State.part_of_none h]
  exact State.modPart_fresh h p rfl

/-! ### What waited is tried again -/

theorem State.settle_idle (ha : s.atomHeld = []) (hc : s.cores = []) : s.settle = s := by
  have hn : s.netCores = [] := by rw [State.netCores, hc]; rfl
  rw [State.settle, ha]
  change (if s.netCores.isEmpty then s else _) = s
  rw [hn]
  rfl

theorem State.xniRetry_idle (h : s.xniIn = []) : s.xniRetry = s := by rw [State.xniRetry, h, List.foldl_nil, ← h]

theorem State.dmaRetry_idle (h : s.engines = []) : s.dmaRetry = s := by rw [State.dmaRetry, h]; rfl

theorem State.memPass_idle (h : s.cmds = []) : s.memPass = s := by rw [State.memPass, h]; rfl

theorem State.peatPass_idle (h : s.cmds = []) : s.peatPass = s := by
  rw [State.peatPass, h]
  split
  · rfl
  · change s.cmds.foldl _ s = s
    rw [h]
    rfl

theorem State.forkPass_idle (h : s.cmds = []) : s.forkPass = s := by rw [State.forkPass, h]; rfl

theorem State.startPass_idle (h : s.cmds = []) : s.startPass = s := by
  rw [State.startPass, h]
  refine foldl_id fun p _ => if_pos ?_
  rw [List.foldl_nil, h]
  rfl

theorem State.idle_refreshBank (s : State) (c b : Nat) (busy : Bool) : s.IdleStep (s.refreshBank c b busy) := by
  rw [State.refreshBank]
  split_ifs
  · exact .refl s
  · exact s.idle_put _ _ (by decide)
  · exact .refl s

theorem State.Quiet.retryAll (h : s.Quiet) : s.IdleStep s.retryAll := by
  obtain ⟨-, arrived, -⟩ := h.xni
  rw [State.retryAll, h.cores, List.map_nil, List.foldl_nil, State.settle_idle h.atomHeld h.cores, State.xniRetry_idle arrived, State.dmaRetry_idle h.engines,
    State.memPass_idle h.cmds, State.peatPass_idle h.cmds, State.startPass_idle h.cmds, State.forkPass_idle h.cmds]
  exact State.idle_foldl (fun e _ u _ => u.idle_refreshBank e.1 e.2 false) h

/-! ### The whole boundary -/

/-- Every partition's input snapshot. -/
def State.snapAll (s : State) : State := (List.range 12).foldl State.snapInputs s

/-- Every partition's gust begins. -/
def State.startGusts (s : State) : State := (List.range 12).foldl (fun s p => ((s.ageRewinds p).startGust p).newAllowances p) s

/-- No commit writes go on, and a reference clock that came back shows. -/
def State.showClock (s : State) : State :=
  { s with commitSites := [], always := { s.always with refBack := false } }.put .BOOT_PINS_REFCLK_OK 0 (if s.always.refBack then 1 else s.get .BOOT_PINS_REFCLK_OK 0)

/-- The decisions of the lull are over. -/
def State.clearDecisions (s : State) : State := (List.range 12).foldl (fun s p => s.modPart p fun x => { x with decision := none, committed := false }) s

/-- Engines suspended in the lull go on. -/
def State.resumeDma (s : State) : State := (List.range 32).foldl (fun s e => s.put .DMA_CH_STATUS_SUSPENDED e 0) s

/-- Grains of every core go on. -/
def State.resumeCores (s : State) : State := (s.cores.map Prod.fst).foldl (fun s c => (s.resumeGrains c).reedPass 17 c) s

/-- The steps of the boundary after the number, in order. -/
def boundarySteps : List (State → State) :=
  [State.clearCaches, State.applyPeatMap, State.monBoundary, State.linkStops, State.boundaryCmds, State.meterBoundary, State.powerBoundary, State.dieBoundary,
    State.portsBoundary, State.voteGust, State.syncBoundary, State.snapAll, State.startGusts, State.showClock, State.clearDecisions, State.resumeDma, State.resumeCores,
    State.retryAll]

theorem gustBoundary_eq : gustBoundary s =
    { boundarySteps.foldl (fun t f => f t) (guardInterval s).slackSamples.retrySamples.latchAccounts.newGust with phase := 0 } := by
  unfold gustBoundary
  simp only [boundarySteps, List.foldl_cons, List.foldl_nil, State.snapAll, State.startGusts, State.showClock, State.clearDecisions, State.resumeDma, State.resumeCores,
    State.newGust]

theorem State.Quiet.snapAll (h : s.Quiet) : s.snapAll = s := foldl_id fun p _ => State.snapInputs_idle h.parts p

theorem State.Quiet.startGusts (h : s.Quiet) : s.startGusts = s := by
  refine foldl_id fun p _ => ?_
  rw [State.ageRewinds_idle h.parts, State.startGust_idle h.parts, State.newAllowances_idle h.parts]

theorem State.idle_showClock (s : State) : s.IdleStep s.showClock :=
  ⟨rfl, (s.idle_put (g := .BOOT_PINS_REFCLK_OK) 0 (if s.always.refBack then 1 else s.get .BOOT_PINS_REFCLK_OK 0) (by decide)).reads⟩

theorem State.Quiet.clearDecisions (h : s.Quiet) : s.clearDecisions = s := foldl_id fun p _ => State.modPart_fresh h.parts p rfl

theorem State.Quiet.resumeDma (h : s.Quiet) : s.IdleStep s.resumeDma := State.idle_foldl (fun e _ u _ => u.idle_put e 0 (by decide)) h

theorem State.Quiet.resumeCores (h : s.Quiet) : s.resumeCores = s := by rw [State.resumeCores, h.cores]; rfl

/-- Every step of the boundary is idle on a quiet module. -/
theorem boundarySteps_idle {f : State → State} (hf : f ∈ boundarySteps) {u : State} (hu : u.Quiet) : u.IdleStep (f u) := by
  simp only [boundarySteps, List.mem_cons, List.not_mem_nil, or_false] at hf
  rcases hf with rfl | rfl | rfl | rfl | rfl | rfl | rfl | rfl | rfl | rfl | rfl | rfl | rfl | rfl | rfl | rfl | rfl | rfl
  · exact hu.clearCaches
  · exact hu.applyPeatMap
  · exact .of_eq hu.monBoundary
  · exact .of_eq hu.linkStops
  · exact .of_eq hu.boundaryCmds
  · exact .of_eq hu.meterBoundary
  · exact .of_eq hu.powerBoundary
  · exact .of_eq hu.dieBoundary
  · exact hu.portsBoundary
  · exact .of_eq hu.voteGust
  · exact hu.syncBoundary
  · exact .of_eq hu.snapAll
  · exact .of_eq hu.startGusts
  · exact u.idle_showClock
  · exact .of_eq hu.clearDecisions
  · exact hu.resumeDma
  · exact .of_eq hu.resumeCores
  · exact hu.retryAll

end

end Sys2Proof.Machine
end

section
/-!
PROOFS. The statement about the gust of a module in which nothing is in progress: O16.
-/
namespace Sys2Proof.Machine

section
variable {s : State}

/-- The state that the boundary of a quiet module numbers: only the regulators' accounts differ. -/
theorem State.Quiet.gustBoundary_eq (h : s.Quiet) (hp : s.phase = 3) :
    gustBoundary s = { boundarySteps.foldl (fun t f => f t) s.latchAccounts.newGust with phase := 0 } := by
  rw [Machine.gustBoundary_eq, guardInterval_over hp.ge, State.slackSamples_idle h.parts, h.retrySamples]

/-- All the steps of the boundary together are idle. -/
theorem State.Quiet.boundarySteps (h : s.Quiet) : s.IdleStep (boundarySteps.foldl (fun t f => f t) s) :=
  State.idle_foldl (fun _ hf _ hu => boundarySteps_idle hf hu) h

/-- What an idle end of one gust, the new number and idle steps to the next work window leave. -/
structure State.Renumbered (s t : State) : Prop where
  number : t.gust = (s.gust + 1) % 2 ^ 48
  period : t.get .GST_PERIOD_PERIOD 0 = s.get .GST_PERIOD_PERIOD 0
  lull : t.get .GST_LULL_LULL 0 = s.get .GST_LULL_LULL 0
  work : { s with phase := 0, eff := [], groups := [], badGroups := [] }.SameWork t

theorem State.IdleStep.renumbered {a b : State} (ends : s.IdleStep a) (steps : a.newGust.IdleStep b) : s.Renumbered { b with phase := 0 } where
  number := by
    have same : a.gust = s.gust := ends.reads .GST_NUMBER_NUMBER (by decide) 0
    have kept : b.gust = a.newGust.gust := steps.reads .GST_NUMBER_NUMBER (by decide) 0
    exact kept.trans (State.newGust_gust.trans (by rw [same]))
  period := (steps.reads .GST_PERIOD_PERIOD (by decide) 0).trans
    ((State.get_put_of_id _ _ _ _ (by decide) (by decide) (by decide)).trans (ends.reads .GST_PERIOD_PERIOD (by decide) 0))
  lull := (steps.reads .GST_LULL_LULL (by decide) 0).trans
    ((State.get_put_of_id _ _ _ _ (by decide) (by decide) (by decide)).trans (ends.reads .GST_LULL_LULL (by decide) 0))
  work := by
    have first : a = _ := ends.work
    have last : b = _ := steps.work
    unfold State.SameWork
    rw [last, State.newGust, first]
    rfl

theorem State.Quiet.gustBoundary (h : s.Quiet) (hp : s.phase = 3) : s.Renumbered (gustBoundary s) := by
  rw [h.gustBoundary_eq hp]
  exact h.latchAccounts.renumbered (h.idle h.latchAccounts).newGust.boundarySteps

end

end Sys2Proof.Machine

namespace Sys2Proof.Proofs
open Sys2Proof Sys2Proof.Machine

/-- Settles O16: every event of the gust meets the phase it belongs to or changes nothing, and with nothing in progress each step of the boundary but the number writes
status fields alone. -/
theorem gustOfQuietModule : Obligations.GustOfQuietModule := by
  constructor
  · intro s hc hg
    have on (f : State → State) : s.whenGusts f = f s := State.whenGusts_on f hc hg
    have runs (f : State → State) : Host.Outcome.next (s.whenGusts f) = (.next (f s) : Host.Outcome State Fault Refusal) := congrArg _ (on f)
    exact ⟨fun h => ⟨_, runs lullStart, lullStart_work h⟩, fun h => (runs lullStart).trans (congrArg _ (lullStart_later h)),
      fun h => ⟨_, runs commitDecision, commitDecision_open h⟩, fun h => (runs commitDecision).trans (congrArg _ (commitDecision_made h)),
      fun h => ⟨_, runs guardInterval, guardInterval_open h⟩, fun h => (runs guardInterval).trans (congrArg _ (guardInterval_over h)),
      ⟨_, runs gustBoundary, gustBoundary_phase⟩⟩
  · intro s h
    have runs (f : State → State) : Host.Outcome.next (s.whenGusts f) = (.next (f s) : Host.Outcome State Fault Refusal) :=
      congrArg _ (State.whenGusts_on f h.clocked h.gusts)
    refine ⟨fun hp => ?_, fun hp => (runs commitDecision).trans (congrArg _ (h.commitDecision hp)), fun hp => ?_⟩
    · refine ⟨_, (runs lullStart).trans (congrArg _ (h.lullStart hp)), rfl, fun c b _ _ hb => ?_⟩
      exact State.catchUp_debt (s := { s with phase := 1 }) c b hb
    · obtain ⟨number, period, lull, work⟩ := h.gustBoundary hp
      unfold State.SameWork at work
      refine ⟨_, runs gustBoundary, number, gustBoundary_phase, ?_, ?_, ?_, ?_, ?_, ?_, ?_, ?_, period, lull⟩
      all_goals rw [work]
      exacts [h.parts, h.cores, h.cmds]

end Sys2Proof.Proofs
end

section
/-!
PROOFS. The end of staging (R20, R21, R94) and the statement O14.
-/
namespace Sys2Proof.Machine

/-! ### What staging shows (R94) -/

/-- One core marked at the end of staging. -/
def State.markSite (ok : Bool) (s : State) (c : Nat) : State :=
  let s := s.put .CORE_PROG_STATUS_STAGED c (Bool.bit ok)
  if s.get .CORE_PROG_STATUS_STATE c = 4 then s.put .CORE_PROG_STATUS_STATE c 0 else s

theorem State.stagedMark_eq (s : State) (p : Nat) (ok : Bool) : s.stagedMark p ok = (s.partSites p).foldl (State.markSite ok) s := rfl

theorem State.markSite_staged (s : State) (ok : Bool) (c k : Nat) :
    (s.markSite ok c).get .CORE_PROG_STATUS_STAGED k = if k = c then Bool.bit ok else s.get .CORE_PROG_STATUS_STAGED k := by
  have marked : (s.put .CORE_PROG_STATUS_STAGED c (Bool.bit ok)).get .CORE_PROG_STATUS_STAGED k = if k = c then Bool.bit ok else s.get .CORE_PROG_STATUS_STAGED k := by
    split
    · next h => rw [h, State.get_put_same]; cases ok <;> rfl
    · next h => exact State.get_put_other s _ fun e => h (Fld.key_inj (by decide) (by decide) e).2
  unfold State.markSite
  dsimp only
  split
  · rw [State.get_put_of_id _ _ _ _ (by decide) (by decide) (by decide), marked]
  · exact marked

theorem State.foldl_markSite_staged (ok : Bool) (l : List Nat) (s : State) (k : Nat) :
    (l.foldl (State.markSite ok) s).get .CORE_PROG_STATUS_STAGED k = if k ∈ l then Bool.bit ok else s.get .CORE_PROG_STATUS_STAGED k := by
  induction l generalizing s with
  | nil => simp
  | cons c r ih =>
    rw [List.foldl_cons, ih, State.markSite_staged]
    by_cases hr : k ∈ r <;> by_cases hc : k = c <;> simp [hr, hc]

/-- Every core of the partition shows how staging went. -/
theorem State.stagedMark_staged {s : State} {p k : Nat} (ok : Bool) (h : k ∈ s.partSites p) : (s.stagedMark p ok).on .CORE_PROG_STATUS_STAGED k = ok := by
  rw [State.on, State.stagedMark_eq, State.foldl_markSite_staged, if_pos h]
  cases ok <;> rfl

theorem State.stagedMark_cmds (s : State) (p : Nat) (ok : Bool) : (s.stagedMark p ok).cmds = s.cmds := by
  refine State.foldl_keeps State.cmds (fun t c => ?_) _ s
  dsimp only
  split <;> rfl

/-! ### A partition whose load has failed (R21) -/

theorem State.unload_staged {s : State} {p k : Nat} (h : k ∈ s.partSites p) : (s.unload p).on .CORE_PROG_STATUS_STAGED k = false := by
  have marked : ((s.modPart p fun x => { x with loaded := none }).stagedMark p false).on .CORE_PROG_STATUS_STAGED k = false := State.stagedMark_staged false h
  unfold State.unload
  dsimp only
  split
  · rw [State.on, State.get_put_of_id _ _ _ _ (by decide) (by decide) (by decide)]
    exact marked
  · exact marked

theorem State.unload_cmds (s : State) (p : Nat) : (s.unload p).cmds = s.cmds := by
  have marked : ((s.modPart p fun x => { x with loaded := none }).stagedMark p false).cmds = s.cmds := State.stagedMark_cmds ..
  unfold State.unload
  dsimp only
  split <;> exact marked

theorem State.unload_gust (s : State) (p : Nat) : (s.unload p).gust = s.gust := by
  have marked : ((s.modPart p fun x => { x with loaded := none }).stagedMark p false).gust = s.gust :=
    State.stagedMark_get _ p false _ 0 (by decide) (by decide) (by decide)
  unfold State.unload
  dsimp only
  split
  · exact (State.get_put_of_id _ _ _ _ (by decide) (by decide) (by decide)).trans marked
  · exact marked

/-! ### A partition whose plan is loaded (R20, R21) -/

/-- The partition holds the plan of header `h`, and every core of it shows the segment staged. -/
def State.planHeld (s : State) (p : Nat) (h : List Word) : State := (s.modPart p fun x => { x with loaded := some (Tri.of h) }).stagedMark p true

/-- The plan held, an idle partition becomes loaded. -/
def State.loadPlan (s : State) (p : Nat) (h : List Word) : State :=
  if (s.planHeld p h).get .GST_PART_STATE_STATE p = 0 then (s.planHeld p h).put .GST_PART_STATE_STATE p 1 else s.planHeld p h

section
variable {s : State} {p : Nat} {h : List Word}

theorem State.planHeld_state : (s.planHeld p h).get .GST_PART_STATE_STATE p = s.get .GST_PART_STATE_STATE p :=
  State.stagedMark_get _ p true _ p (by decide) (by decide) (by decide)

theorem State.loadPlan_loaded : ((s.loadPlan p h).part p).loaded = some (Tri.of h) := by
  have held : ((s.planHeld p h).part p).loaded = some (Tri.of h) := by rw [State.planHeld, State.stagedMark_part, State.part_modPart_same]
  unfold State.loadPlan
  split <;> exact held

theorem State.loadPlan_cmds : (s.loadPlan p h).cmds = s.cmds := by
  have held : (s.planHeld p h).cmds = s.cmds := State.stagedMark_cmds ..
  unfold State.loadPlan
  split <;> exact held

theorem State.loadPlan_state :
    (s.loadPlan p h).get .GST_PART_STATE_STATE p = if s.get .GST_PART_STATE_STATE p = 0 then 1 else s.get .GST_PART_STATE_STATE p := by
  rw [State.loadPlan, State.planHeld_state]
  split
  · exact State.get_put_same ..
  · exact State.planHeld_state

theorem State.loadPlan_staged {k : Nat} (hk : k ∈ s.partSites p) : (s.loadPlan p h).on .CORE_PROG_STATUS_STAGED k = true := by
  have held : (s.planHeld p h).on .CORE_PROG_STATUS_STAGED k = true := State.stagedMark_staged true hk
  unfold State.loadPlan
  split
  · rw [State.on, State.get_put_of_id _ _ _ _ (by decide) (by decide) (by decide)]
    exact held
  · exact held

end

/-! ### The PLAN_LOAD in staging ends -/

/-- Ending a command takes it out of those in progress. -/
theorem State.endCmd_cmds (s : State) (c : Cmd) (status gust r0 r1 : Nat) : (s.endCmd c status gust r0 r1).cmds = s.cmds.erase c := by
  obtain ⟨-, cmds, -⟩ := ({ s with cmds := s.cmds.erase c }.complete_only c.q c.discard status gust r0 r1).keeps
  exact cmds

/-- With no command in progress no load begins. -/
theorem State.nextLoads_idle {s : State} (h : s.cmds = []) (p : Nat) : s.nextLoads s.cmds.length p = s := by rw [h]; rfl

section
variable {s : State} {p : Nat} {c : Cmd} {h : List Word} {bad : Bool}
variable (hs : s.cmds = [c]) (hk : c.kind = .planLoad h bad) (hl : h.length = 8) (hp : c.q.part.val = p)
include hs hk hl hp

/-- The one command in progress, a PLAN_LOAD in staging, ends as its checks went, and no load follows. -/
theorem segmentStaged_eq : segmentStaged p s =
    if bad then (s.unload p).endCmd c stBadPacket (s.unload p).gust 0 0
    else (s.loadPlan p h).endCmd c stOk (s.loadPlan p h).gust (hdrPlanId h) 0 := by
  have staging : c.staging p = true := by simp [Cmd.staging, hk, hl, hp]
  have found : (s.cmds.find? fun c => c.staging p) = some c := by simp [hs, staging]
  have ends (u : State) (hu : u.cmds = s.cmds) (st r0 : Nat) :
      (u.endCmd c st u.gust r0 0).nextLoads (u.endCmd c st u.gust r0 0).cmds.length p = u.endCmd c st u.gust r0 0 :=
    State.nextLoads_idle (by rw [State.endCmd_cmds, hu, hs, List.erase_cons_head]) p
  unfold segmentStaged
  simp only [found, hk]
  cases bad with
  | true =>
    rw [← s.unload_gust p]
    exact ends _ (s.unload_cmds p) stBadPacket 0
  | false => exact ends _ State.loadPlan_cmds stOk (hdrPlanId h)

end

end Sys2Proof.Machine

namespace Sys2Proof.Proofs
open Sys2Proof Sys2Proof.Machine

/-- Settles O14: the PLAN_LOAD in staging is the one command in progress, so that the end of staging is its end and no load follows. -/
theorem segmentStagedLoadsPlan : Obligations.SegmentStagedLoadsPlan := by
  intro p c h bad s hc hs hk hl hp
  have runs : exec (.segmentStaged p) s = .next (segmentStaged p.val s) := congrArg _ (State.whenClocked_on _ hc)
  rw [runs, segmentStaged_eq hs hk hl hp]
  constructor
  · rintro rfl
    exact ⟨s.loadPlan p.val h, rfl, State.loadPlan_loaded, State.loadPlan_cmds.trans hs, State.loadPlan_state, fun _ => State.loadPlan_staged⟩
  · rintro rfl
    exact ⟨s.unload p.val, rfl, State.unload_loaded .., (State.unload_cmds ..).trans hs, fun _ => State.unload_staged⟩

end Sys2Proof.Proofs
end

section
/-!
PROOFS. What leaves the queue of a core's arrays as it was: records, reads and writes of its units, traps, loads and passes (R46, R60, R62, R84, R95, R98).
-/
namespace Sys2Proof.Machine

/-- What every round of a loop leaves, the loop leaves. -/
theorem foldl_fixes {α β γ : Type} (g : β → γ) {f : β → α → β} (hf : ∀ b x, g (f b x) = g b) (l : List α) (b : β) : g (l.foldl f b) = g b := by
  induction l generalizing b with
  | nil => rfl
  | cons x r ih => rw [List.foldl_cons, ih, hf]

/-- The array descriptors that wait at core `c`. -/
def State.arrQueue (s : State) (c : Nat) : List (List Word) := (s.core c).aq

section
variable (s : State) (c : Nat)

theorem State.arrQueue_congr {s t : State} (h : t.cores = s.cores) (c : Nat) : t.arrQueue c = s.arrQueue c := by
  unfold State.arrQueue State.core; rw [h]

theorem State.setCore_arrQueue {d : Nat} {k : Core} (h : k.aq = s.arrQueue d) : (s.setCore d k).arrQueue c = s.arrQueue c := by
  by_cases hc : c = d
  · subst hc
    rw [State.arrQueue, State.core_set_same, h]
  · rw [State.arrQueue, State.core_set_other s k hc]
    rfl

theorem State.modCore_arrQueue {d : Nat} {f : Core → Core} (h : ∀ k, (f k).aq = k.aq) : (s.modCore d f).arrQueue c = s.arrQueue c :=
  s.setCore_arrQueue c (h _)

@[simp] theorem State.put_arrQueue (f : Fld) (i v : Nat) : (s.put f i v).arrQueue c = s.arrQueue c := rfl

@[simp] theorem State.puts_arrQueue (i : Nat) (fs : List (Fld × Nat)) : (s.puts i fs).arrQueue c = s.arrQueue c := by
  rw [State.puts_eq]; rfl

@[simp] theorem State.bump_arrQueue (f : Fld) (i n : Nat) : (s.bump f i n).arrQueue c = s.arrQueue c := rfl

@[simp] theorem State.flagPart_arrQueue (p cause status : Nat) : (s.flagPart p cause status).arrQueue c = s.arrQueue c := by
  rw [State.flagPart_eq]; rfl

@[simp] theorem State.numFlags_arrQueue (d mask : Nat) : (s.numFlags d mask).arrQueue c = s.arrQueue c := by
  refine State.foldl_keeps (fun t : State => t.arrQueue c) (fun t f => ?_) _ s
  split <;> rfl

/-! ### Memory and records -/

theorem State.CountsOnly.arrQueue {s t : State} (h : s.CountsOnly t) (c : Nat) : t.arrQueue c = s.arrQueue c := State.arrQueue_congr (by rw [h]) c

/-- A write that breaks a reservation leaves the descriptors. -/
@[simp] theorem State.breakResv_arrQueue (st : Store) (off n : Nat) : (s.breakResv st off n).arrQueue c = s.arrQueue c := by
  unfold State.breakResv
  split
  · split
    · split
      · exact s.modCore_arrQueue c fun _ => rfl
      · rfl
    · rfl
  · rfl

@[simp] theorem State.rawWrite_arrQueue (st : Store) (off : Nat) (bs : List Byte) : (s.rawWrite st off bs).arrQueue c = s.arrQueue c :=
  State.breakResv_arrQueue ..

theorem writeUnit_arrQueue (st : Store) (r : WriteRes) (e : Nat × List Byte) : (writeUnit st r e).st.arrQueue c = r.st.arrQueue c := by
  unfold writeUnit
  dsimp only
  split
  · rfl
  · split
    · rw [State.rawWrite_arrQueue, (State.recode_counts ..).arrQueue]
    · split
      · rw [(State.readMem_counts ..).arrQueue]
      · rw [State.rawWrite_arrQueue, (State.recode_counts ..).arrQueue, (State.readMem_counts ..).arrQueue]

@[simp] theorem State.writeMem_arrQueue (st : Store) (off : Nat) (bs : List Byte) : (s.writeMem st off bs).st.arrQueue c = s.arrQueue c := by
  unfold State.writeMem
  generalize (if st.isSram = true then s.sram.isEmpty else s.noFaults) = clean
  split
  · rfl
  · split
    · exact State.rawWrite_arrQueue ..
    · exact foldl_fixes (fun r : WriteRes => r.st.arrQueue c) (writeUnit_arrQueue c st) _ _

@[simp] theorem State.busWrite_arrQueue (device : Bool) (a : Nat) (bs : List Byte) : (s.busWrite device a bs).1.arrQueue c = s.arrQueue c := by
  unfold State.busWrite
  dsimp only
  split
  · split
    · split
      · rfl
      · exact State.writeMem_arrQueue ..
    · rfl
  · split <;> rfl

@[simp] theorem State.logInterrupt_arrQueue (f : Nat) : (s.logInterrupt f).arrQueue c = s.arrQueue c := by
  unfold State.logInterrupt State.fire
  split_ifs <;> rfl

@[simp] theorem State.logDrop_arrQueue (f : Nat) : (s.logDrop f).arrQueue c = s.arrQueue c := rfl

@[simp] theorem State.logWrite_arrQueue (f : Nat) (ws : List Word) : (s.logWrite f ws).arrQueue c = s.arrQueue c := by
  unfold State.logWrite
  split
  · rfl
  · dsimp only
    have seq (t : State) (a : SMap Nat) (b : SMap Bool) : State.arrQueue { t with logSeq := a, logLost := b } c = t.arrQueue c := rfl
    split
    · rw [State.logDrop_arrQueue, State.busWrite_arrQueue]
    · rw [State.logInterrupt_arrQueue, seq, State.put_arrQueue, State.put_arrQueue, State.busWrite_arrQueue]

@[simp] theorem State.event_arrQueue (r : Rec) : (s.event r).arrQueue c = s.arrQueue c := by
  have pf (t : State) (ws : List Word) : (if t.pfLogOpened || t.on .EVT_LOG_CTL_ENABLE 0 then t.logWrite 0 ws
      else if t.heldRecs.length < 1024 then { t with heldRecs := t.heldRecs ++ [ws] } else t.logDrop 0).arrQueue c = t.arrQueue c := by
    split
    · exact State.logWrite_arrQueue ..
    · split <;> rfl
  have vf (t : State) (v : Nat) (ws : List Word) : (if v = 0 then t else t.logWrite v ws).arrQueue c = t.arrQueue c := by
    split
    · rfl
    · exact State.logWrite_arrQueue ..
  have both (v : Nat) (ws : List Word) := (vf _ v ws).trans (pf s.free.2 ws)
  have mg (t : State) (l : List (List Word)) : State.arrQueue { t with mgmtOut := l } c = t.arrQueue c := rfl
  unfold State.event
  dsimp only
  split
  · exact (mg _ _).trans (both _ _)
  · exact both _ _

@[simp] theorem State.eccEvent_arrQueue (n : EccNote) : (s.eccEvent n).arrQueue c = s.arrQueue c := by
  unfold State.eccEvent State.eccEventOf
  split <;> exact State.event_arrQueue ..

@[simp] theorem State.eccEvents_arrQueue (ns : List EccNote) : (s.eccEvents ns).arrQueue c = s.arrQueue c :=
  State.foldl_keeps (fun t : State => t.arrQueue c) (fun t n => t.eccEvent_arrQueue c n) ns s

@[simp] theorem State.store_arrQueue (st : Store) (off : Nat) (bs : List Byte) : (s.store st off bs).1.arrQueue c = s.arrQueue c :=
  (State.eccEvents_arrQueue ..).trans (State.writeMem_arrQueue ..)

/-! ### Reads and writes of a unit -/

@[simp] theorem State.readMem_arrQueue (st : Store) (off n : Nat) : (s.readMem st off n).st.arrQueue c = s.arrQueue c := (s.readMem_counts st off n).arrQueue c

@[simp] theorem State.defined_arrQueue (st : Store) (off : Nat) (bs : List Byte) : (s.defined st off bs).2.arrQueue c = s.arrQueue c := by
  unfold State.defined
  split <;> rfl

@[simp] theorem State.planRead_arrQueue (p : Nat) (st : Store) (off n : Nat) : (s.planRead p st off n).2.arrQueue c = s.arrQueue c := by
  unfold State.planRead
  dsimp only
  split <;> simp

@[simp] theorem State.unitSees_arrQueue (d : Nat) (st : Store) (off : Nat) (bs : List Byte) : (s.unitSees d st off bs).2.arrQueue c = s.arrQueue c := by
  unfold State.unitSees
  dsimp only
  split <;> rfl

@[simp] theorem State.coreRead_arrQueue (d : Nat) (st : Store) (off n : Nat) : (s.coreRead d st off n).2.arrQueue c = s.arrQueue c := by
  have read := s.planRead_arrQueue c (s.diePart (dieOf d)) st off n
  unfold State.coreRead
  split
  · next e => rwa [e] at read
  · next e =>
    rw [e] at read
    exact (State.unitSees_arrQueue ..).trans read

@[simp] theorem State.unitWrote_arrQueue (d : Nat) (st : Store) (off n : Nat) : (s.unitWrote d st off n).arrQueue c = s.arrQueue c := by
  unfold State.unitWrote
  split
  · exact s.modCore_arrQueue c fun _ => rfl
  · rfl

@[simp] theorem State.noteWrite_arrQueue (p : Nat) (st : Store) (off n : Nat) : (s.noteWrite p st off n).arrQueue c = s.arrQueue c := by
  unfold State.noteWrite
  split <;> rfl

@[simp] theorem State.trap_arrQueue (d cause tag status : Nat) : (s.trap d cause tag status).arrQueue c = s.arrQueue c := by
  unfold State.trap
  simp only [State.put_arrQueue]
  exact (State.modCore_arrQueue _ _ fun _ => by rfl).trans (State.event_arrQueue ..)

/-- Work of a unit that leaves the descriptors. -/
theorem State.atWork_arrQueue {d unit : Nat} {issued : List Word} {f : State → State} (hf : ∀ t, (f t).arrQueue c = t.arrQueue c) :
    (s.atWork d unit issued f).arrQueue c = s.arrQueue c :=
  (State.modCore_arrQueue _ _ fun _ => by rfl).trans ((hf _).trans (State.modCore_arrQueue _ _ fun _ => by rfl))

@[simp] theorem State.readRanges_arrQueue (d : Nat) (rs : List (Store × Nat × Nat)) : (s.readRanges d rs).2.arrQueue c = s.arrQueue c := by
  refine foldl_fixes (fun r : RangeRes × State => r.2.arrQueue c) (fun r x => ?_) rs _
  obtain ⟨data, t⟩ := r
  cases data with
  | data bs =>
    have read := t.coreRead_arrQueue c d x.1 x.2.1 x.2.2
    dsimp only
    split
    · rfl
    · split <;> (next e => rwa [e] at read)
  | bad => rfl
  | access => rfl

/-! ### Shadow loads -/

/-- A loader fills a shadow, and takes no descriptor from the queue. -/
@[simp] theorem State.arrLoadOne_arrQueue (d a : Nat) : (State.arrLoadOne d s a).arrQueue c = s.arrQueue c := by
  have fill (t : State) (x : Option Tile) : (t.modCore d fun k => { k with shadow := k.shadow.insert a x }).arrQueue c = t.arrQueue c :=
    State.modCore_arrQueue _ _ fun _ => by rfl
  unfold State.arrLoadOne
  dsimp only
  split
  · rfl
  · split
    · rfl
    · next w _ =>
      split
      · rfl
      · refine s.atWork_arrQueue c fun t => ?_
        have read := t.readRanges_arrQueue c d ((PassDesc.of w).loadOf d a)
        split <;> next e => rw [e] at read; simp only [fill, State.trap_arrQueue, read]

@[simp] theorem State.arrLoad_arrQueue (d : Nat) : (s.arrLoad d).arrQueue c = s.arrQueue c :=
  State.foldl_keeps (fun t : State => t.arrQueue c) (fun t a => t.arrLoadOne_arrQueue c d a) _ s

/-! ### The vector unit -/

@[simp] theorem State.vecLanes_arrQueue (d : Nat) (i : VecIns) (f : Nat → F32 × Nat) : (s.vecLanes d i f).arrQueue c = s.arrQueue c :=
  (State.numFlags_arrQueue ..).trans (State.modCore_arrQueue _ _ fun _ => by rfl)

@[simp] theorem State.vecMergeRead_arrQueue (st : Store) (i : VecIns) (use : Nat → UnitUse) : (s.vecMergeRead st i use).2.2.arrQueue c = s.arrQueue c := by
  refine foldl_fixes (fun r : List Byte × Bool × State => r.2.2.arrQueue c) (fun r u => ?_) _ _
  dsimp only
  split
  · exact (State.eccEvents_arrQueue ..).trans (State.readMem_arrQueue ..)
  · rfl

@[simp] theorem State.vecStore_arrQueue (d : Nat) (i : VecIns) : (s.vecStore d i).arrQueue c = s.arrQueue c := by
  have merged := s.vecMergeRead_arrQueue c (i.store d) i
  unfold State.vecStore
  dsimp only
  generalize (if (allLanes ((s.core d).kreg i.mask) && i.bytes % (i.store d).unit == 0) = true then _ else _ : Nat → UnitUse) = use
  split
  · rw [State.flagPart_arrQueue, merged]
  · rw [State.numFlags_arrQueue]
    refine (State.foldl_keeps (fun t : State => t.arrQueue c) (fun t u => ?_) _ _).trans (merged _)
    split
    · rfl
    · rw [State.unitWrote_arrQueue, State.store_arrQueue, State.noteWrite_arrQueue]

@[simp] theorem State.vecMemory_arrQueue (d : Nat) (i : VecIns) : (s.vecMemory d i).arrQueue c = s.arrQueue c := by
  have read := s.coreRead_arrQueue c d (i.store d) i.operand i.bytes
  unfold State.vecMemory
  dsimp only
  split
  · exact State.trap_arrQueue ..
  · split
    · split
      · next e => rwa [e] at read
      · next e =>
        rw [e] at read
        exact (State.vecLanes_arrQueue ..).trans read
    · exact State.vecStore_arrQueue ..

theorem Core.kput_aq (k : Core) (n v : Nat) : (k.kput n v).aq = k.aq := by
  unfold Core.kput
  split <;> rfl

/-- The operations that do not work lane by lane write registers of their core. -/
@[simp] theorem State.vecOther_arrQueue (d : Nat) (i : VecIns) : (s.vecOther d i).arrQueue c = s.arrQueue c := by
  have set (k : Core) (h : k.aq = (s.core d).aq) : (s.setCore d k).arrQueue c = s.arrQueue c := s.setCore_arrQueue c h
  unfold State.vecOther
  dsimp only
  split
  · split
    · rfl
    · exact (State.modCore_arrQueue _ _ fun _ => by rfl).trans (set _ rfl)
  · exact set _ (Core.kput_aq ..)
  · exact (State.numFlags_arrQueue ..).trans (set _ rfl)
  · exact set _ rfl
  · exact (State.numFlags_arrQueue ..).trans (set _ rfl)
  · rfl
  · rfl
  · exact set _ rfl
  · exact set _ rfl
  · exact set _ rfl
  · exact set _ rfl
  · exact set _ rfl
  · rfl

@[simp] theorem State.vecRun_arrQueue (d : Nat) (i : VecIns) : (s.vecRun d i).arrQueue c = s.arrQueue c := by
  unfold State.vecRun
  dsimp only
  split
  · rw [State.vecMemory_arrQueue, State.bump_arrQueue]
  · split
    · rw [State.vecLanes_arrQueue, State.bump_arrQueue]
    · rw [State.vecOther_arrQueue, State.bump_arrQueue]

@[simp] theorem State.vecPass_arrQueue (fuel d : Nat) : (State.vecPass fuel s d).arrQueue c = s.arrQueue c := by
  induction fuel generalizing s with
  | zero => rfl
  | succ n ih =>
    unfold State.vecPass
    split
    · rfl
    · dsimp only
      split
      · rfl
      · rw [ih, State.atWork_arrQueue _ _ fun t => t.vecRun_arrQueue c d _]
        exact State.modCore_arrQueue _ _ fun _ => by rfl

/-! ### Passes -/

theorem Core.accWrite_aq (k : Core) (key : Nat) (x : F32) : (k.accWrite key x).aq = k.aq := rfl

theorem PassAcc.start_core (x : PassAcc) (d : PassDesc) (a t n : Nat) : (x.start d a t n).2.k = x.k := by
  unfold PassAcc.start
  split <;> rfl

section
variable (d : PassDesc) (tile : Tile) (vec scales : List Nat) (errs : List BlockErr) (a t n : Nat) (x : PassAcc)

theorem passElem_core : (passElem d tile vec scales errs a t n x).2.k = x.k :=
  (foldl_fixes (fun r : F32 × PassAcc => r.2.k) (fun _ _ => by rfl) _ _).trans (x.start_core d a t n)

theorem elementElem_core : (elementElem d tile vec scales errs a t n x).2.k = x.k := x.start_core d a t n

/-- A data vector writes accumulators of its core. -/
theorem arrayVector_aq : (arrayVector d tile vec scales errs a t x).2.k.aq = x.k.aq := by
  refine foldl_fixes (fun r : List F32 × PassAcc => r.2.k.aq) (fun r n => ?_) _ _
  have elem : (if d.op = 2 then elementElem d tile vec scales errs a t n r.2 else passElem d tile vec scales errs a t n r.2).2.k = r.2.k := by
    split
    · exact elementElem_core ..
    · exact passElem_core ..
  dsimp only
  split
  · rw [elem]
  · rw [Core.accWrite_aq, elem]

end

theorem ArrRun.vector_aq (d : PassDesc) (tile : Tile) (scales : List (List Nat)) (errs : List (Nat × ArrErr)) (a : Nat) (r : ArrRun) (e : List Nat × Nat) :
    (ArrRun.vector d tile scales errs a r e).x.k.aq = r.x.k.aq := by
  unfold ArrRun.vector
  dsimp only
  split <;> exact arrayVector_aq ..

theorem arrayPass_aq (d : PassDesc) (tile : Tile) (vecs scales : List (List Nat)) (errs : List (Nat × ArrErr)) (a : Nat) (k : Core) :
    (arrayPass d tile vecs scales errs a k).x.k.aq = k.aq := by
  refine foldl_fixes (fun r : ArrRun => r.x.k.aq) (fun r g => ?_) _ _
  exact foldl_fixes (fun r : ArrRun => r.x.k.aq) (ArrRun.vector_aq d tile scales errs a) _ r

@[simp] theorem State.arrMismatch_arrQueue (d a tag loc vec : Nat) : (s.arrMismatch d a tag loc vec).arrQueue c = s.arrQueue c := by
  unfold State.arrMismatch
  dsimp only
  rw [State.flagPart_arrQueue, State.event_arrQueue]
  split
  · rw [State.put_arrQueue, State.bump_arrQueue]
  · rw [State.puts_arrQueue, State.bump_arrQueue]

/-- The results of an array put into its core leave the descriptors where they do. -/
theorem State.arrayEnd_arrQueue {d : Nat} (a tag : Nat) {x : PassAcc} (found : List (Nat × Nat)) (h : x.k.aq = s.arrQueue d) :
    (s.arrayEnd d a tag x found).arrQueue c = s.arrQueue c := by
  have found (l : List (Nat × Nat)) (t : State) : (l.foldl (fun t e => t.arrMismatch d a tag e.1 e.2) t).arrQueue c = t.arrQueue c := by
    refine State.foldl_keeps (fun t : State => t.arrQueue c) (fun t e => ?_) l t
    exact State.arrMismatch_arrQueue ..
  unfold State.arrayEnd
  rw [found, State.bump_arrQueue, State.numFlags_arrQueue]
  exact s.setCore_arrQueue c h

@[simp] theorem State.deliverRows_arrQueue (d n : Nat) (parts : List (Nat × List (List F32))) : (s.deliverRows d n parts).arrQueue c = s.arrQueue c :=
  (State.vecPass_arrQueue ..).trans (State.modCore_arrQueue _ _ fun _ => by rfl)

@[simp] theorem State.takeInject_arrQueue (d a : Nat) (af : Fmt) (first : Nat) : (s.takeInject d a af first).2.arrQueue c = s.arrQueue c := by
  have disarm : (s.modCore d fun k => { k with injectArmed := SMap.set k.injectArmed a false false }).arrQueue c = s.arrQueue c :=
    State.modCore_arrQueue _ _ fun _ => by rfl
  unfold State.takeInject
  dsimp only
  split
  · rfl
  · split
    · exact disarm
    · split <;> exact disarm

@[simp] theorem State.spoil_arrQueue (d a : Nat) (p : PassDesc) (rows : List (List F32)) (e : Nat × Nat) : (s.spoil d a p rows e).2.arrQueue c = s.arrQueue c := by
  unfold State.spoil
  dsimp only
  split
  · rfl
  · exact State.modCore_arrQueue _ _ fun _ => by rfl

/-! ### DRAIN (R60) -/

/-- One accumulator word of array `a` read for a row. -/
def drainWord (d : PassDesc) (a t : Nat) (acc : List F32 × PassAcc) (n : Nat) : List F32 × PassAcc :=
  let r := acc.2.k.accRead (accKey a (d.acc + t) n)
  (acc.1 ++ [r.1], { acc.2 with corrected := acc.2.corrected + Bool.bit r.2.1, bad := if r.2.2 then acc.2.bad ++ [(67, t)] else acc.2.bad })

/-- One row of array `a` read. -/
def drainRow (d : PassDesc) (a : Nat) (acc : List (List F32) × PassAcc) (t : Nat) : List (List F32) × PassAcc :=
  let r := (List.range 64).foldl (drainWord d a t) ([], acc.2)
  (acc.1 ++ [r.1], r.2)

/-- The rows of array `a` read, with what was found put into the core. -/
def drainArray (c : Nat) (d : PassDesc) (acc : List (Nat × List (List F32)) × State) (a : Nat) : List (Nat × List (List F32)) × State :=
  let r := (List.range d.v).foldl (drainRow d a) ([], (⟨acc.2.core c, 0, 0, []⟩ : PassAcc))
  (acc.1 ++ [(a, r.1)], (acc.2.arrayEnd c a d.tag r.2 []).modCore c fun k => { k with injectArmed := SMap.set k.injectArmed a false false })

theorem State.runDrain_eq (d : PassDesc) :
    s.runDrain c d = ((arraysOf d.mask).foldl (drainArray c d) ([], s)).2.deliverRows c d.v ((arraysOf d.mask).foldl (drainArray c d) ([], s)).1 := by
  unfold State.runDrain
  dsimp only
  rfl

theorem drainRow_core (d : PassDesc) (a : Nat) (acc : List (List F32) × PassAcc) (t : Nat) : (drainRow d a acc t).2.k = acc.2.k := by
  have words (l : List Nat) (x : List F32 × PassAcc) : (l.foldl (drainWord d a t) x).2.k = x.2.k :=
    foldl_fixes (fun r : List F32 × PassAcc => r.2.k) (fun _ _ => by rfl) l x
  exact words _ _

theorem drainArray_arrQueue (e : Nat) (d : PassDesc) (acc : List (Nat × List (List F32)) × State) (a : Nat) : (drainArray e d acc a).2.arrQueue c = acc.2.arrQueue c := by
  have rows (l : List Nat) (x : List (List F32) × PassAcc) : (l.foldl (drainRow d a) x).2.k = x.2.k :=
    foldl_fixes (fun r : List (List F32) × PassAcc => r.2.k) (drainRow_core d a) l x
  refine (State.modCore_arrQueue _ _ fun _ => by rfl).trans (State.arrayEnd_arrQueue _ _ _ _ _ ?_)
  rw [rows]
  rfl

@[simp] theorem State.runDrain_arrQueue (e : Nat) (d : PassDesc) : (s.runDrain e d).arrQueue c = s.arrQueue c := by
  rw [State.runDrain_eq, State.deliverRows_arrQueue]
  exact foldl_fixes (fun r : List (Nat × List (List F32)) × State => r.2.arrQueue c) (drainArray_arrQueue c e d) _ ([], s)

/-! ### PASS and ELEMENTWISE -/

/-- What array `a` does of a pass over data vectors `vecs`. -/
def passArray (c : Nat) (d : PassDesc) (vecs scales : List (List Nat)) (errs : List PassError) (acc : List (Nat × List (List F32)) × State) (a : Nat) :
    List (Nat × List (List F32)) × State :=
  let (ps, s) := acc
  match (s.core c).tiles.find? fun e => e.1 == a with
  | none => (ps, s)
  | some e =>
    let (js, s) := s.takeInject c a (fmtOf d.aFmt) ((vecs.headD []).getD 0 0)
    let es := (s.passErrs c a errs).filter (fun y => decide (y.1 < d.v)) ++ js
    let r := arrayPass d e.2 vecs scales es a (s.core c)
    let s := s.arrayEnd c a d.tag r.x r.found
    let s := if es.isEmpty then s else s.modCore c fun k => { k with tiles := k.tiles.insert a r.tile }
    let (rows, s) := (es.flatMap fun y => (tailErrs [y.2]).map fun n => (y.1, n)).foldl (fun acc y => acc.2.spoil c a d acc.1 y) (r.rows, s)
    (ps ++ [(a, rows)], s)

theorem passArray_arrQueue (e : Nat) (d : PassDesc) (vecs scales : List (List Nat)) (errs : List PassError) (acc : List (Nat × List (List F32)) × State) (a : Nat) :
    (passArray e d vecs scales errs acc a).2.arrQueue c = acc.2.arrQueue c := by
  have spoils (l : List (Nat × Nat)) (x : List (List F32) × State) :
      (l.foldl (fun acc y => acc.2.spoil e a d acc.1 y) x).2.arrQueue c = x.2.arrQueue c := by
    refine foldl_fixes (fun r : List (List F32) × State => r.2.arrQueue c) (fun r y => ?_) l x
    exact State.spoil_arrQueue ..
  obtain ⟨ps, s⟩ := acc
  have inject := s.takeInject_arrQueue c e a (fmtOf d.aFmt) ((vecs.headD []).getD 0 0)
  unfold passArray
  dsimp only
  split
  · rfl
  · dsimp only
    rw [spoils, ← inject]
    split
    · exact State.arrayEnd_arrQueue _ _ _ _ _ (arrayPass_aq ..)
    · exact (State.modCore_arrQueue _ _ fun _ => by rfl).trans (State.arrayEnd_arrQueue _ _ _ _ _ (arrayPass_aq ..))

@[simp] theorem State.runPass_arrQueue (e : Nat) (d : PassDesc) (bs : List (List Byte)) (errs : List PassError) :
    (s.runPass e d bs errs).arrQueue c = s.arrQueue c := by
  have arrays (vecs scales : List (List Nat)) (l : List Nat) (x : List (Nat × List (List F32)) × State) :
      (l.foldl (passArray e d vecs scales errs) x).2.arrQueue c = x.2.arrQueue c :=
    foldl_fixes (fun r : List (Nat × List (List F32)) × State => r.2.arrQueue c) (passArray_arrQueue c e d vecs scales errs) l x
  unfold State.runPass
  dsimp only
  split
  · rw [State.deliverRows_arrQueue]
    exact arrays _ _ _ _
  · exact arrays _ _ _ _

/-! ### The pass at the head of the queue -/

/-- A pass that starts leaves the queue, and whatever its work meets puts no descriptor back. -/
theorem State.passGo_arrQueue (w : List Word) (rest : List (List Word)) (errs : List PassError) : (s.passGo c w rest errs).arrQueue c = rest := by
  have taken (f : Core → Core) : (s.modCore c fun k => { f k with aq := rest, passDue := none }).arrQueue c = rest := by
    rw [State.arrQueue, State.modCore, State.core_set_same]
  unfold State.passGo
  dsimp only
  split
  · exact taken _
  · rw [State.atWork_arrQueue, taken]
    intro t
    split
    · exact State.runDrain_arrQueue ..
    · split
      · rfl
      · have read := t.readRanges_arrQueue c c ((PassDesc.of w).streamRanges c)
        split <;> next e => rw [e] at read; simp only [State.runPass_arrQueue, State.trap_arrQueue, read]

end

end Sys2Proof.Machine
end

section
/-!
PROOFS. PASS_START (R46) and what DRAIN delivers (R60).
-/
namespace Sys2Proof.Machine

/-! ### PASS_START (R46) -/

section
variable {s : State} {c : Nat}

theorem State.arrLoad_idle (h : ∀ a, (s.core c).nextLoad a = none) : s.arrLoad c = s := by
  refine foldl_id fun a _ => ?_
  unfold State.arrLoadOne
  dsimp only
  rw [h]
  split <;> rfl

theorem State.arrLoad_empty (h : s.arrQueue c = []) : s.arrLoad c = s := by
  refine State.arrLoad_idle fun a => ?_
  have hq : (s.core c).aq = [] := h
  rw [Core.nextLoad, hq, List.find?_nil]

theorem passStart_empty (h : s.arrQueue c = []) (errs : List PassError) : passStart c errs s = s := by
  have hq : ((s.arrLoad c).core c).aq = [] := (s.arrLoad_arrQueue c c).trans h
  simp only [passStart, hq]
  exact State.arrLoad_empty h

variable {w : List Word} {rest : List (List Word)} (hw : s.arrQueue c = w :: rest) (errs : List PassError)
include hw

theorem passStart_eq : passStart c errs s =
    if !(s.arrLoad c).passReady c (PassDesc.of w) then s.arrLoad c
    else if (s.arrLoad c).rangesHeld ((PassDesc.of w).streamRanges c) then (s.arrLoad c).modCore c fun k => { k with passDue := some errs }
    else ((s.arrLoad c).passGo c w rest errs).arrLoad c := by
  have hq : ((s.arrLoad c).core c).aq = w :: rest := (s.arrLoad_arrQueue c c).trans hw
  simp only [passStart, hq]

theorem passStart_waits (h : (s.arrLoad c).passReady c (PassDesc.of w) = false) : passStart c errs s = s.arrLoad c := by
  rw [passStart_eq hw, h]; rfl

theorem passStart_goes (h : (s.arrLoad c).passReady c (PassDesc.of w) = true) (hr : (s.arrLoad c).rangesHeld ((PassDesc.of w).streamRanges c) = false) :
    passStart c errs s = ((s.arrLoad c).passGo c w rest errs).arrLoad c := by
  rw [passStart_eq hw, h, hr]; rfl

end

/-! ### What DRAIN delivers -/

/-- A loop that appends what each round makes of a value that stays. -/
theorem foldl_appends {α β γ : Type} {f : List β × γ → α → List β × γ} {g : α → β} {x : γ} (hf : ∀ bs y, f (bs, x) y = (bs ++ [g y], x)) (l : List α) (bs : List β) :
    l.foldl f (bs, x) = (bs ++ l.map g, x) := by
  induction l generalizing bs with
  | nil => simp
  | cons y r ih => rw [List.foldl_cons, hf, ih, List.append_assoc]; rfl

theorem Core.accRead_clean {k : Core} (h : k.accFault = []) (key : Nat) : k.accRead key = (k.accAt key, false, false) := by
  unfold Core.accRead
  rw [h]
  rfl

/-- Row `t` of array `a`: the words of one accumulator entry. -/
def Core.drainedRow (k : Core) (d : PassDesc) (a t : Nat) : List F32 := (List.range 64).map fun n => k.accAt (accKey a (d.acc + t) n)

/-- The rows that array `a` gives. -/
def Core.drainedRows (k : Core) (d : PassDesc) (a : Nat) : List (List F32) := (List.range d.v).map (k.drainedRow d a)

theorem drainRow_clean {x : PassAcc} (h : x.k.accFault = []) (d : PassDesc) (a t : Nat) (rows : List (List F32)) :
    drainRow d a (rows, x) t = (rows ++ [x.k.drainedRow d a t], x) := by
  have word (row : List F32) (n : Nat) : drainWord d a t (row, x) n = (row ++ [x.k.accAt (accKey a (d.acc + t) n)], x) := by
    unfold drainWord
    rw [Core.accRead_clean h]
    rfl
  unfold drainRow
  dsimp only
  rw [foldl_appends word]
  rfl

/-- `k'` is `k` but for the armed injections, which DRAIN takes. -/
def Core.SameDrain (k k' : Core) : Prop := k' = { k with injectArmed := k'.injectArmed }

theorem Core.SameDrain.trans {k k' k'' : Core} (h1 : k.SameDrain k') (h2 : k'.SameDrain k'') : k.SameDrain k'' := Eq.trans h2 (by rw [h1])

theorem Core.SameDrain.drainedRows {k k' : Core} (h : k.SameDrain k') (d : PassDesc) (a : Nat) : k'.drainedRows d a = k.drainedRows d a := by
  rw [h]; rfl

theorem State.numFlags_core (s : State) (c mask d : Nat) : (s.numFlags c mask).core d = s.core d := by
  refine State.foldl_keeps (fun t : State => t.core d) (fun t f => ?_) _ s
  split <;> rfl

theorem drainArray_clean {s : State} {c : Nat} (h : (s.core c).accFault = []) (d : PassDesc) (parts : List (Nat × List (List F32))) (a : Nat) :
    (drainArray c d (parts, s) a).1 = parts ++ [(a, (s.core c).drainedRows d a)] ∧ (s.core c).SameDrain ((drainArray c d (parts, s) a).2.core c) := by
  have rows : (List.range d.v).foldl (drainRow d a) ([], (⟨s.core c, 0, 0, []⟩ : PassAcc)) = ((s.core c).drainedRows d a, ⟨s.core c, 0, 0, []⟩) :=
    foldl_appends (fun rows t => drainRow_clean h d a t rows) _ []
  unfold drainArray
  dsimp only
  rw [rows]
  refine ⟨rfl, ?_⟩
  have ended : (s.arrayEnd c a d.tag ⟨s.core c, 0, 0, []⟩ []).core c = s.core c := (State.numFlags_core ..).trans (State.core_set_same ..)
  rw [State.modCore, State.core_set_same, ended]
  rfl

/-- The arrays of a mask drained one after another. -/
theorem foldl_drainArray_clean {c : Nat} (d : PassDesc) (l : List Nat) (s : State) (parts : List (Nat × List (List F32))) (h : (s.core c).accFault = []) :
    (l.foldl (drainArray c d) (parts, s)).1 = parts ++ l.map (fun a => (a, (s.core c).drainedRows d a)) ∧
      (s.core c).SameDrain ((l.foldl (drainArray c d) (parts, s)).2.core c) := by
  induction l generalizing s parts with
  | nil => exact ⟨(List.append_nil _).symm, rfl⟩
  | cons a r ih =>
    obtain ⟨given, same⟩ := drainArray_clean h d parts a
    have clean : ((drainArray c d (parts, s) a).2.core c).accFault = [] := by rw [same]; exact h
    obtain ⟨rest, last⟩ := ih (drainArray c d (parts, s) a).2 (drainArray c d (parts, s) a).1 clean
    refine ⟨?_, same.trans last⟩
    rw [List.foldl_cons]
    refine rest.trans ?_
    simp only [given, same.drainedRows, List.map_cons, List.append_assoc, List.singleton_append]

theorem State.vecPass_empty {s : State} {c : Nat} (h : (s.core c).vq = []) (fuel : Nat) : State.vecPass fuel s c = s := by
  cases fuel with
  | zero => rfl
  | succ n => simp only [State.vecPass, h]

/-- What an array of a list gave is found under its number. -/
theorem find?_map_key {β : Type} (f : Nat → β) {l : List Nat} {a : Nat} (h : a ∈ l) : (l.map fun b => (b, f b)).find? (fun e => e.1 == a) = some (a, f a) := by
  induction l with
  | nil => exact absurd h List.not_mem_nil
  | cons b r ih =>
    by_cases hb : b = a
    · subst hb; simp
    · have hr : a ∈ r := (List.mem_cons.1 h).resolve_left (Ne.symm hb)
      simp [hb, ih hr]

/-- The rows that all four arrays give reach the vector unit, where no instruction takes them. -/
theorem State.deliverRows_drain {s : State} {c n : Nat} (hv : (s.core c).vq = []) (row : Nat → Nat → List F32) :
    ((s.deliverRows c n ((List.range 4).map fun a => (a, (List.range n).map (row a)))).core c).drain =
      (s.core c).drain ++ (List.range n).map fun t => (List.range 4).flatMap fun a => row a t := by
  unfold State.deliverRows
  dsimp only
  rw [State.vecPass_empty]
  · rw [State.modCore, State.core_set_same]
    refine congrArg ((s.core c).drain ++ ·) (List.map_congr_left fun t ht => ?_)
    refine congrArg List.flatten (List.map_congr_left fun a ha => ?_)
    rw [find?_map_key (fun a => (List.range n).map (row a)) ha]
    simp [List.mem_range.1 ht]
  · rw [State.modCore, State.core_set_same]
    exact hv

/-- DRAIN of all four arrays, with no accumulator word in error (R60). -/
theorem State.runDrain_drain {s : State} {c : Nat} {d : PassDesc} (hf : (s.core c).accFault = []) (hv : (s.core c).vq = []) (hm : d.mask = 15) :
    ((s.runDrain c d).core c).drain = (s.core c).drain ++ (List.range d.v).map fun t => (List.range 4).flatMap fun a => (s.core c).drainedRow d a t := by
  have all : arraysOf d.mask = List.range 4 := by rw [hm]; decide
  obtain ⟨given, same⟩ := foldl_drainArray_clean d (List.range 4) s [] hf
  rw [State.runDrain_eq, all, given, List.nil_append]
  unfold Core.SameDrain at same
  refine (State.deliverRows_drain (by rw [same]; exact hv) _).trans ?_
  rw [same]

section
variable {s : State} {c : Nat} {w : List Word} (hw : s.arrQueue c = [w]) (ho : (PassDesc.of w).op = 3)
include hw ho

/-- No loader works for a queue that holds a DRAIN alone. -/
theorem State.arrLoad_drain : s.arrLoad c = s := by
  refine State.arrLoad_idle fun a => ?_
  have hq : (s.core c).aq = [w] := hw
  have hl : loadsArray w a = false := by
    have : fieldOf (wordAt w 0) 3 0 = 3 := ho
    simp [loadsArray, this]
  rw [Core.nextLoad, hq, List.find?_cons_of_neg (by rw [hl]; exact Bool.false_ne_true), List.find?_nil]

theorem passStart_drain (hl : s.inLull = false) (hr : (s.core c).drainRoom = true) (errs : List PassError) : passStart c errs s = s.passGo c w [] errs := by
  have load : (PassDesc.of w).isLoad = false := by simp [PassDesc.isLoad, ho]
  have ready : s.passReady c (PassDesc.of w) = true := by simp [State.passReady, hl, hr, load]
  have streams : s.rangesHeld ((PassDesc.of w).streamRanges c) = false := by
    rw [PassDesc.streamRanges, if_pos ho]; rfl
  rw [passStart_goes hw errs (by rw [State.arrLoad_drain hw ho]; exact ready) (by rw [State.arrLoad_drain hw ho]; exact streams), State.arrLoad_drain hw ho]
  exact State.arrLoad_empty (State.passGo_arrQueue ..)

omit hw in
/-- A DRAIN that starts alone delivers what the four arrays hold. -/
theorem State.passGo_drain (hm : (PassDesc.of w).mask = 15) (hf : (s.core c).accFault = []) (hv : (s.core c).vq = []) (errs : List PassError) :
    ((s.passGo c w [] errs).core c).drain = (s.core c).drain ++
      (List.range (PassDesc.of w).v).map fun t => (List.range 4).flatMap fun a => (s.core c).drainedRow (PassDesc.of w) a t := by
  have load : (PassDesc.of w).isLoad = false := by simp [PassDesc.isLoad, ho]
  unfold State.passGo
  simp only [load, ho, Bool.false_and, Bool.false_eq_true, if_false, if_true]
  generalize hu : (s.modCore c fun k => { k with aq := [], passDue := none }).atUnit c 0 (w.drop 4) = u
  have work : u.core c = { s.core c with aq := [], passDue := none, trapPc := (u.core c).trapPc, atWork := (u.core c).atWork } := by
    rw [← hu, State.atUnit, State.modCore, State.core_set_same, State.modCore, State.core_set_same]
  rw [State.atWork, hu, State.backAt, State.modCore, State.core_set_same]
  refine (State.runDrain_drain (by rw [work]; exact hf) (by rw [work]; exact hv) hm).trans ?_
  rw [work]
  rfl

end

end Sys2Proof.Machine
end

section
/-!
PROOFS. The control core and the checks of the arrays (R52, R62, R92, R95, R96, R98), and the statement O54.
-/
namespace Sys2Proof.Machine

/-! ### Traps (R98) -/

theorem State.trap_state (s : State) (c cause tag status : Nat) : (s.trap c cause tag status).get .CORE_PROG_STATUS_STATE c = 3 := State.get_put_same ..

theorem State.trap_cause (s : State) (c tag status : Nat) {cause : Nat} (h : cause < 16) : (s.trap c cause tag status).get .CORE_TRAP_INFO_CAUSE c = cause := by
  unfold State.trap
  rw [State.get_put_of_id _ _ _ _ (by decide) (by decide) (by decide), State.get_put_of_id _ _ _ _ (by decide) (by decide) (by decide), State.get_put_same]
  exact Nat.mod_eq_of_lt h

/-! ### One instruction of plan code (R92) -/

section
variable {s : State} {c : Nat}

theorem planCode_idle (h : s.coreRuns c = false) : planCode c s = s := by simp [planCode, h]

theorem slotEnd_idle (h : s.coreRuns c = false) : slotEnd c s = s := by simp [slotEnd, h]

variable (h : s.coreRuns c = true)
include h

theorem slotEnd_runs : slotEnd c s = s.setCore c { s.core c with slotEnd := true } := if_pos h

theorem planCode_unfetched (hf : (s.core c).fetch = none) : planCode c s = s.trap c trapAccess 0 stBadPacket := by
  simp [planCode, h, hf, State.accessFault]

theorem planCode_illegal {len : Nat} (hf : (s.core c).fetch = some (none, len)) : planCode c s = s.trap c trapIllegal 0 stBadPacket := by
  simp [planCode, h, hf]

theorem planCode_runs {i : Rv} {len : Nat} (hf : (s.core c).fetch = some (some i, len)) : planCode c s = s.rvExec c i len := by
  simp [planCode, h, hf]

/-- A core that runs has not halted: its instruction retires. -/
theorem State.retire_runs (rd : Nat) (v : Word) (pc : Nat) : s.retire c rd v pc = s.setCore c { (s.core c).setX rd v with pc := pc % 2 ^ 64 } := by
  have running : (s.core c).trapHalt = false := by
    simp only [State.coreRuns, Bool.and_eq_true, Bool.not_eq_true'] at h
    obtain ⟨⟨⟨⟨-, halt⟩, -⟩, -⟩, -⟩ := h
    exact halt
  rw [State.retire, running]
  rfl

end

/-! ### Waits (R95) -/

/-- A wait on a core that runs, with no other load out, answers 0 once its units are done. -/
theorem waitLoad_runs {s : State} {c m rd : Nat} (hs : s.get .CORE_PROG_STATUS_STATE c = 1) (ht : (s.core c).trapHalt = false) (he : (s.core c).slotEnd = false)
    (hw : (s.core c).waitReg = none ∨ (s.core c).waitReg = some (m, rd)) :
    waitLoad c m rd s = s.setCore c (if (s.core c).unitsDone m then { ((s.core c).waited m).setX rd 0 with waitReg := none }
      else { s.core c with waitReg := some (m, rd) }) := by
  have own : ((s.core c).waitReg != none && (s.core c).waitReg != some (m, rd)) = false := by rcases hw with hw | hw <;> simp [hw]
  simp only [waitLoad, hs, ht, he, own, ne_eq, not_true, Bool.false_eq_true, or_self, if_false]
  split <;> rfl

/-! ### Array descriptors issued (R60, R62) -/

section
variable {s : State} {c : Nat} {w : List Word}

theorem arrIssue_invalid (h : (PassDesc.of w).valid (s.core c) c w = false) : arrIssue c w s = s.trap c trapDescriptor (PassDesc.of w).tag stBadPacket := by
  simp [arrIssue, h]

variable (h : (PassDesc.of w).valid (s.core c) c w = true) (he : ∀ a ∈ arraysOf (PassDesc.of w).mask, s.inForce .ARR_CTL_ENABLE (ix2 4 c a) ≠ 0)
include h he

/-- A valid descriptor of enabled arrays waits for room in the queue. -/
theorem arrIssue_valid : arrIssue c w s =
    if 8 ≤ (s.core c).aq.length then s else (s.modCore c fun k => { k with aq := k.aq ++ [w ++ s.issueWords c] }).arrLoad c := by
  have enabled : ((arraysOf (PassDesc.of w).mask).any fun a => s.inForce .ARR_CTL_ENABLE (ix2 4 c a) == 0) = false := by
    simpa using he
  simp only [arrIssue, h, enabled, Bool.not_true, Bool.false_eq_true, if_false]

theorem arrIssue_full (hq : 8 ≤ (s.core c).aq.length) : arrIssue c w s = s := by rw [arrIssue_valid h he, if_pos hq]

theorem arrIssue_queued (hq : (s.core c).aq.length < 8) : (arrIssue c w s).arrQueue c = s.arrQueue c ++ [w ++ s.issueWords c] := by
  rw [arrIssue_valid h he, if_neg (Nat.not_le.2 hq), State.arrLoad_arrQueue, State.arrQueue, State.modCore, State.core_set_same]
  rfl

end

/-- The rows of PASS, ELEMENTWISE and DRAIN: words of the row's OP are issued. -/
theorem arrRow_issues {s : State} {c : Site} {op : Nat} {w : List Word} (hc : s.clocked = true) (ho : fieldOf (wordAt w 0) 3 0 = op) :
    arrRow c op w s = .next (arrIssue (siteNo c) w s) := by
  rw [arrRow, if_pos ho, State.whenClocked_on _ hc]

/-! ### Where the column checks locate an error (R52) -/

/-- 8191 is prime: below it, multiples of `e` by numbers below it differ. -/
theorem residues_differ {e i j : Nat} (he : 0 < e) (he' : e < 8191) (hi : i < 8191) (hj : j < 8191) (h : i * e % 8191 = j * e % 8191) : i = j := by
  have prime : Nat.Prime 8191 := by norm_num
  have coprime : Nat.gcd 8191 e = 1 := (Nat.Prime.coprime_iff_not_dvd prime).2 (Nat.not_dvd_of_pos_of_lt he he')
  exact Nat.ModEq.eq_of_lt_of_lt (Nat.ModEq.cancel_right_of_coprime coprime h) hi hj

theorem errLoc_column {e m : Nat} (time tail : Bool) (hm : m < 64) (he : 0 < e) (he' : e < 8191) : errLoc e ((m + 1) * e % 8191) time tail = some m := by
  have nonzero : (m + 1) * e % 8191 ≠ 0 := fun h => by
    have := residues_differ he he' (by omega) (by omega) (h.trans (by rw [Nat.zero_mul] : 0 = 0 * e % 8191))
    omega
  have found : (List.range 64).find? (fun n => (n + 1) * e % 8191 == (m + 1) * e % 8191) = some m := by
    refine List.find?_range_eq_some.2 ⟨beq_self_eq_true _, List.mem_range.2 hm, fun n hn => ?_⟩
    have : (n + 1) * e % 8191 ≠ (m + 1) * e % 8191 := fun h => by
      have := residues_differ he he' (by omega) (by omega) h
      omega
    simp [this]
  rw [errLoc, if_neg (Nat.ne_of_gt he), if_neg nonzero, found]

end Sys2Proof.Machine

namespace Sys2Proof.Proofs
open Sys2Proof Sys2Proof.Machine

/-- Settles O54: every instruction listed retires with its result, an issued or started pass does what the checks say, and the queue of the arrays is left alone by
whatever their loaders, the passes and the vector unit meet. -/
theorem coresRun : Obligations.CoresRun := by
  intro c s n k hc
  have runs (f : State → State) : Host.Outcome.next (s.whenClocked f) = (.next (f s) : Host.Outcome State Fault Refusal) := congrArg _ (State.whenClocked_on f hc)
  have code : exec (.planCodeInstruction c) s = .next (planCode n s) := runs _
  have ends : exec (.slotEnd c) s = .next (slotEnd n s) := runs _
  have start (errs : List PassError) : exec (.passStart c errs) s = .next (passStart n errs s) := runs _
  refine ⟨fun h => ?_, fun h => ⟨?_, fun hf => ?_, fun len hf => ?_, fun i len hf => ?_⟩, fun m rd hs ht he hw => ?_, fun w0 w1 w2 w3 => ?_, fun errs hq => ?_,
    fun e f m time tail hm he he' hf => ?_, fun w rest errs hq => ⟨fun hr => ?_, fun hr hb => ?_, fun ho hm hl hd hf hv hrest => ?_⟩⟩
  · rw [code, ends, planCode_idle h, slotEnd_idle h]
    exact ⟨rfl, rfl⟩
  · rw [ends, slotEnd_runs h]
  · exact ⟨_, code.trans (congrArg _ (planCode_unfetched h hf)), State.trap_state .., State.trap_cause _ _ _ _ (by decide)⟩
  · exact ⟨_, code.trans (congrArg _ (planCode_illegal h hf)), State.trap_state .., State.trap_cause _ _ _ _ (by decide)⟩
  · have retires (rd : Nat) (v : Word) (pc : Nat) (hi : s.rvExec n i len = s.retire n rd v pc) :
        exec (.planCodeInstruction c) s = .next (s.setCore n { k.setX rd v with pc := pc % 2 ^ 64 }) := by
      rw [code, planCode_runs h hf, hi, State.retire_runs h]
    exact ⟨fun _ _ _ _ hi => retires _ _ _ (by rw [hi]; rfl), fun _ _ _ _ hi => retires _ _ _ (by rw [hi]; rfl),
      fun _ _ _ _ hi => retires _ _ _ (by rw [hi]; rfl), fun _ _ hi => retires _ _ _ (by rw [hi]; rfl), fun _ _ hi => retires _ _ _ (by rw [hi]; rfl),
      fun _ _ hi => retires _ _ _ (by rw [hi]; rfl), fun _ _ _ _ hi => retires _ _ _ (by rw [hi]; rfl)⟩
  · exact (runs _).trans (congrArg _ (waitLoad_runs hs ht he hw))
  · intro w d x hx ho
    have issue : exec x.1 s = .next (arrIssue n w s) := by
      simp only [List.mem_cons, List.not_mem_nil, or_false] at hx
      rcases hx with rfl | rfl | rfl <;> exact arrRow_issues hc ho
    rw [issue]
    refine ⟨fun hv => ⟨_, rfl, ?_⟩, fun hv he => ⟨fun hq => ?_, fun hq => ⟨_, rfl, arrIssue_queued hv he hq⟩⟩⟩
    · rw [arrIssue_invalid hv]
      exact ⟨State.trap_state .., State.trap_cause _ _ _ _ (by decide)⟩
    · rw [arrIssue_full hv he hq]
  · rw [start, passStart_empty hq]
  · rw [hf, errLoc_column time tail hm he he']
  · rw [start, passStart_waits hq errs hr]
  · refine ⟨_, start errs, ?_⟩
    rw [passStart_goes hq errs hr hb]
    exact (State.arrLoad_arrQueue ..).trans (State.passGo_arrQueue ..)
  · subst hrest
    refine ⟨_, start errs, ?_⟩
    rw [passStart_drain hq ho hl hd]
    exact ⟨State.passGo_arrQueue .., State.passGo_drain ho hm hf hv errs⟩

end Sys2Proof.Proofs
end

section
/-!
PROOFS. The maps of a slice (R102, R126) and the statement O45.
-/
namespace Sys2Proof.Machine

theorem bankOfChunk_lt (chunk : Nat) : bankOfChunk chunk < 128 := by
  unfold bankOfChunk; omega

/-- The chunk that holds a burst: the banks of one row lie in 128 neighbouring chunks, channel first. -/
theorem rowOffset_chunk (b r : Nat) {u : Nat} (hu : u < 64) : (rowOffset b r + 32 * u) / 2048 = 128 * r + 4 * (b % 32) + b / 32 := by
  unfold rowOffset; omega

theorem rowOffset_column (b r : Nat) {u : Nat} (hu : u < 64) : (rowOffset b r + 32 * u) % 2048 = 32 * u := by
  unfold rowOffset; omega

theorem bankOfChunk_of_row {b : Nat} (r : Nat) (hb : b < 128) : bankOfChunk (128 * r + 4 * (b % 32) + b / 32) = b := by
  have channel : (128 * r + 4 * (b % 32) + b / 32) % 4 = b / 32 := by omega
  have line : (128 * r + 4 * (b % 32) + b / 32) / 4 % 32 = b % 32 := by omega
  rw [bankOfChunk, channel, line, Nat.div_add_mod]

theorem row_of_chunk {b : Nat} (r : Nat) (hb : b < 128) : (128 * r + 4 * (b % 32) + b / 32) / 128 = r := by omega

/-- R126 undoes R102: the row and bank of a chunk lead back to its first byte. -/
theorem rowOffset_bankOfChunk (chunk : Nat) : rowOffset (bankOfChunk chunk) (chunk / 128) = chunk * 2048 := by
  have line : bankOfChunk chunk % 32 = chunk / 4 % 32 := by unfold bankOfChunk; omega
  have channel : bankOfChunk chunk / 32 = chunk % 4 := by unfold bankOfChunk; omega
  rw [rowOffset, line, channel]
  omega

theorem rowOffset_burst_lt_size {b r u : Nat} (site : Nat) (hb : b < 128) (hr : r < 4608) (hu : u < 64) : rowOffset b r + 32 * u < (Store.fen site).size := by
  simp only [rowOffset, Store.size]; omega

/-- A row without a spare is its own physical row (R118). -/
theorem State.physRow_unspared {s : State} {site bank row : Nat} (h : SMap.get s.rowSpares (rowKey site bank row) 0 = 0) : s.physRow site bank row = row := if_pos h

end Sys2Proof.Machine

namespace Sys2Proof.Proofs
open Sys2Proof Sys2Proof.Machine

/-- Settles O45: a burst's chunk and column give back its bank, row and place, and a chunk's bank and row its offset; the key of a byte is made from the physical row. -/
theorem sliceMap : Obligations.SliceMap := by
  refine ⟨fun b r u hb hr hu => ?_, fun o ho => ⟨by omega, rfl, bankOfChunk_lt _, by omega, ?_⟩, fun s c o _ => ⟨rfl, State.physRow_unspared⟩, by decide⟩
  · have chunk := rowOffset_chunk b r hu
    exact ⟨rfl, (congrArg bankOfChunk chunk).trans (bankOfChunk_of_row r hb), (congrArg (· / 128) chunk).trans (row_of_chunk r hb),
      rowOffset_column b r hu, rowOffset_burst_lt_size 0 hb hr hu⟩
  · exact (congrArg (· + o % 2048) (rowOffset_bankOfChunk (o / 2048))).trans (Nat.div_add_mod' o 2048)

end Sys2Proof.Proofs
end

section
/-!
PROOFS. Writes of device memory read back (R101, R102, R116, R117) and the statement O23.
-/
namespace Sys2Proof.Machine

/-! ### Physical keys -/

theorem State.physKey_congr {s t : State} (h : t.rowSpares = s.rowSpares) (st : Store) (off : Nat) : t.physKey st off = s.physKey st off := by
  unfold State.physKey State.physRow
  rw [h]

/-- Where no row has a spare, the bytes of a store lie at consecutive keys. -/
theorem State.physKey_noSpares {s : State} (h : s.rowSpares = []) (st : Store) (off : Nat) : s.physKey st off = s.physKey st 0 + off := by
  have row (site bank r : Nat) : s.physRow site bank r = r := State.physRow_unspared (by rw [h]; rfl)
  cases st with
  | fen site => simp only [State.physKey, row]; omega
  | marsh m => rw [State.physKey, State.physKey, Nat.add_zero]
  | cache => rw [State.physKey, State.physKey, Nat.add_zero]
  | pool site => rw [State.physKey, State.physKey, Nat.add_zero]

theorem State.physKey_add {s : State} (h : s.rowSpares = []) (st : Store) (off i : Nat) : s.physKey st (off + i) = s.physKey st off + i := by
  rw [State.physKey_noSpares h, State.physKey_noSpares h st off, Nat.add_assoc]

/-! ### Bytes stored and read at consecutive keys -/

theorem Memory.storeAt_eq_setList (k n : Nat) (bs : List Byte) (m : SMap Byte) :
    (bs.zipIdx n).foldl (fun m e => SMap.set m (k + e.2) e.1 0) m = SMap.setList 0 m (k + n) bs := by
  induction bs generalizing n m with
  | nil => rfl
  | cons b r ih => exact ih (n + 1) _

theorem Memory.map_get_eq_getList (m : SMap Byte) (k n : Nat) : (List.range n).map (fun i => SMap.get m (k + i) 0) = SMap.getList 0 m k n := by
  induction n generalizing k with
  | zero => rfl
  | succ n ih =>
    rw [List.range_succ_eq_map, List.map_cons, List.map_map, SMap.getList, ← ih (k + 1)]
    simp only [Function.comp_def, Nat.succ_eq_add_one, Nat.add_zero, Nat.add_assoc, Nat.add_comm 1]

section
variable {s : State} (h : s.rowSpares = []) (st : Store) (off : Nat)
include h

theorem State.rawBytes_noSpares (n : Nat) : s.rawBytes st off n = SMap.getList 0 s.mem (s.physKey st off) n := by
  simp only [State.rawBytes, State.physKey_add h]
  exact Memory.map_get_eq_getList ..

theorem State.rawWrite_mem_noSpares (bs : List Byte) : (s.rawWrite st off bs).mem = SMap.setList 0 s.mem (s.physKey st off) bs := by
  simp only [State.rawWrite, State.breakResv_mem, State.physKey_add h]
  exact Memory.storeAt_eq_setList _ 0 bs s.mem

/-- Bytes stored read back. -/
theorem State.rawBytes_rawWrite (bs : List Byte) : (s.rawWrite st off bs).rawBytes st off bs.length = bs := by
  have spares : (s.rawWrite st off bs).rowSpares = s.rowSpares := by rw [State.rawWrite_eq]
  rw [State.rawBytes_noSpares (spares.trans h), State.rawWrite_mem_noSpares h, State.physKey_congr spares, SMap.getList_setList]

end

/-! ### Memory without faults -/

/-- With no pattern stored and no bond or wire failed, a read delivers the bytes as stored and counts nothing. -/
theorem State.readMem_clean {s : State} {st : Store} (h : (if st.isSram then s.sram.isEmpty else s.noFaults) = true) (off n : Nat) :
    s.readMem st off n = ⟨s.rawBytes st off n, false, s, []⟩ := by
  cases hst : st.isSram with
  | true =>
    have words : s.sram.isEmpty = true := by simpa [hst] using h
    simp [State.readMem, hst, words]
  | false =>
    have transfers : s.noFaults = true := by simpa [hst] using h
    simp [State.readMem, hst, transfers]

theorem State.clean_of_noFaults {s : State} (hf : s.faults = []) (hw : s.deadWires = []) (hs : s.sram = []) (st : Store) :
    (if st.isSram then s.sram.isEmpty else s.noFaults) = true := by
  simp [State.noFaults, hf, hw, hs]

/-! ### Reservations -/

/-- A store leaves a core as it was, or takes the reservation of the core whose pool it writes. -/
theorem State.rawWrite_core (s : State) (st : Store) (off : Nat) (bs : List Byte) (c : Nat) :
    (s.rawWrite st off bs).core c = s.core c ∨ (st = .pool c ∧ (s.rawWrite st off bs).core c = { s.core c with resv := none }) := by
  unfold State.rawWrite State.breakResv
  cases st with
  | pool d =>
    dsimp only
    split
    · split
      · by_cases hc : c = d
        · subst hc
          exact .inr ⟨rfl, State.core_set_same ..⟩
        · exact .inl (State.core_set_other _ _ hc)
      · exact .inl rfl
    · exact .inl rfl
  | fen site => exact .inl rfl
  | marsh m => exact .inl rfl
  | cache => exact .inl rfl

end Sys2Proof.Machine

namespace Sys2Proof.Proofs
open Sys2Proof Sys2Proof.Machine

/-- Settles O23: without faults a write is a store of its bytes at consecutive keys, and a read delivers what those keys hold. -/
theorem deviceMemoryReadsBack : Obligations.DeviceMemoryReadsBack := by
  intro s st off bs hf hw hs hr _
  have clean (t : State) (ht : t = { s with mem := t.mem, cores := t.cores }) : t.readMem st off bs.length = ⟨t.rawBytes st off bs.length, false, t, []⟩ :=
    State.readMem_clean (State.clean_of_noFaults (by rw [ht, hf]) (by rw [ht, hw]) (by rw [ht, hs]) st) off bs.length
  by_cases hb : bs = []
  · subst hb
    have read := clean s rfl
    exact ⟨s, rfl, congrArg ReadRes.bytes read, congrArg ReadRes.bad read, fun _ _ => rfl, rfl, fun _ => .inl rfl, fun _ => rfl⟩
  · have only := s.rawWrite_eq st off bs
    refine ⟨s.rawWrite st off bs, State.writeMem_clean st off hb (State.clean_of_noFaults hf hw hs st), ?_, ?_, fun k hk => ?_, only, fun c => ?_, fun c => ?_⟩
    · rw [clean _ only, State.rawBytes_rawWrite hr]
    · exact congrArg ReadRes.bad (clean _ only)
    · exact s.rawWrite_other st off bs k fun i hi => (hk i hi).symm
    · exact (s.rawWrite_core st off bs c).imp (congrArg Core.resv) fun ⟨pool, taken⟩ => ⟨pool, congrArg Core.resv taken⟩
    · obtain kept | ⟨-, taken⟩ := s.rawWrite_core st off bs c
      · rw [kept]
      · rw [taken]

end Sys2Proof.Proofs
end

section
/-!
PROOFS. MEM_FENCE (R142) and the statement O25.
-/
namespace Sys2Proof.Machine

section
variable {s : State} {q : Req} {p0 p1 : Word}

theorem exec_memFence (h : s.Accepts opMemFence q [p0, p1]) (hr : fenceReason q p0.toNat p1.toNat s = 0) :
    exec (.memFence q p0 p1) s = .next (memFence q p0.toNat p1.toNat s) := hostRow_accepted h hr _

/-- The descriptors in progress that write a row of a device range: site and number. -/
def State.fenceOps (s : State) (a n : Nat) : List (Nat × Nat) :=
  (s.slicesOf a n).flatMap fun x => ((s.core x.1).rq.filter fun o => o.writes x.2.1 x.2.2).map fun o => (x.1, o.num)

theorem memFence_clear {a n : Nat} (h : s.fenceOps a n = []) : memFence q a n s = s.done q stOk :=
  if_pos (List.isEmpty_iff.2 h)

theorem memFence_waits {a n : Nat} (h : s.fenceOps a n ≠ []) :
    memFence q a n s = { s with cmds := s.cmdsWith q 0x1A (.memFence (s.fenceOps a n)) } :=
  if_neg fun e => h (List.isEmpty_iff.1 e)

end

end Sys2Proof.Machine

namespace Sys2Proof.Proofs
open Sys2Proof Sys2Proof.Machine

/-- Settles O25: an accepted fence looks once for the descriptors that write its range, and waits for those it finds. -/
theorem memoryFences : Obligations.MemoryFences := by
  intro q p0 p1 s ha hr ops
  rw [exec_memFence ha hr]
  exact ⟨fun none => congrArg _ (memFence_clear none), fun some => congrArg _ (memFence_waits some)⟩

end Sys2Proof.Proofs
end

section
/-!
PROOFS. The register fields that a record of the event log leaves as they were (R116, R124, R204, R321 to R324).
-/
namespace Sys2Proof.Machine

/-- The fields that a record and the write of it in device memory may touch: the log's own, and those that count and locate errors of codes. -/
def recordFields : List Fld :=
  [.EVT_LOG_STATUS, .FEN_ECC_COUNT, .FEN_ECC_LAST, .FEN_SYMBOL_LAST, .MRS_ECC_COUNT, .MRS_ECC_LAST, .CORE_POOL_ECC, .SHC_ECC_COUNT].flatMap RegName.fields

/-- A field apart from those of records. -/
def Fld.Unrecorded (f : Fld) : Prop := f.id < 4096 ∧ f.id ∉ recordFields.map Fld.id

theorem recordFields_id {g : Fld} (h : g ∈ recordFields) : g.id < 4096 := by
  have all : recordFields.all fun g => g.id < 4096 := by decide +kernel
  exact of_decide_eq_true (List.all_eq_true.1 all g h)

section
variable {f : Fld} (hf : f.Unrecorded) (i : Nat)
include hf

theorem State.get_put_record (s : State) {g : Fld} (hg : g ∈ recordFields) (j v : Nat) : (s.put g j v).get f i = s.get f i :=
  State.get_put_of_id s j i v (recordFields_id hg) hf.1 fun e => hf.2 (e ▸ List.mem_map_of_mem hg)

theorem State.get_bump_record (s : State) {g : Fld} (hg : g ∈ recordFields) (j n : Nat) : (s.bump g j n).get f i = s.get f i :=
  State.get_put_record hf i s hg j _

theorem State.get_puts_record (s : State) (j : Nat) {fs : List (Fld × Nat)} (hg : ∀ e ∈ fs, e.1 ∈ recordFields) : (s.puts j fs).get f i = s.get f i := by
  unfold State.puts
  induction fs generalizing s with
  | nil => rfl
  | cons e r ih =>
    rw [List.foldl_cons, ih _ fun x hx => hg x (List.mem_cons_of_mem _ hx)]
    exact State.get_put_record hf i s (hg e (List.mem_cons_self ..)) j e.2

/-! ### Reads of memory -/

omit hf in
theorem State.wireDamage_get (s : State) (st : Store) (off : Nat) : (s.wireDamage st off).2.get f i = s.get f i := by
  unfold State.wireDamage
  refine foldl_fixes (fun acc : Nat × State => acc.2.get f i) (fun acc y => ?_) _ (0, s)
  rfl

theorem State.countEcc_get (s : State) (st : Store) (off : Nat) (o : TransferOutcome) (b : Bool) : (s.countEcc st off o b).get f i = s.get f i := by
  unfold State.countEcc
  cases st with
  | fen c =>
    dsimp only
    split
    · rw [State.get_puts_record hf i _ _ (by simp [recordFields, RegName.fields]), State.get_bump_record hf i _ (by decide +kernel)]
      rfl
    · split
      · rfl
      · rw [State.get_put_record hf i _ (by decide +kernel), State.get_put_record hf i _ (by decide +kernel), State.get_puts_record hf i _ _ (by simp [recordFields, RegName.fields]),
          State.get_bump_record hf i _ (by decide +kernel)]
        rfl
  | marsh m =>
    dsimp only
    split
    · rw [State.get_puts_record hf i _ _ (by simp [recordFields, RegName.fields]), State.get_bump_record hf i _ (by decide +kernel)]
      rfl
    · split
      · rfl
      · rw [State.get_puts_record hf i _ _ (by simp [recordFields, RegName.fields]), State.get_bump_record hf i _ (by decide +kernel)]
        rfl
  | cache => rfl
  | pool c => rfl

theorem State.countSram_get (s : State) (st : Store) (v : SecdedVerdict) : (s.countSram st v).get f i = s.get f i := by
  unfold State.countSram
  split
  case h_5 => rfl
  all_goals exact State.get_bump_record hf i s (by decide +kernel) _ 1

theorem readTransfer_get (st : Store) (off : Nat) (r : ReadRes) (t : Nat) : (readTransfer st off r t).st.get f i = r.st.get f i := by
  have met : (r.st.met st (64 * t) (r.st.physKey st (64 * t) / 64)).2.get f i = r.st.get f i := State.wireDamage_get i r.st st (64 * t)
  unfold readTransfer
  dsimp only
  split
  · exact met
  · exact (State.countEcc_get hf i ..).trans met

theorem readSramWord_get (st : Store) (off : Nat) (r : ReadRes) (t : Nat) : (readSramWord st off r t).st.get f i = r.st.get f i := by
  unfold readSramWord
  dsimp only
  split
  · rfl
  all_goals exact State.countSram_get hf i ..

theorem State.readMem_get (s : State) (st : Store) (off n : Nat) : (s.readMem st off n).st.get f i = s.get f i := by
  unfold State.readMem
  dsimp only
  split
  · split
    · rfl
    · exact foldl_fixes (fun r : ReadRes => r.st.get f i) (fun r k => readSramWord_get hf i st off r _) _ _
  · split
    · rfl
    · exact foldl_fixes (fun r : ReadRes => r.st.get f i) (fun r k => readTransfer_get hf i st off r _) _ _

/-! ### Writes of memory -/

omit hf in
theorem State.rawWrite_get (s : State) (st : Store) (off : Nat) (bs : List Byte) : (s.rawWrite st off bs).get f i = s.get f i := by
  rw [State.rawWrite_eq]; rfl

omit hf in
theorem State.recode_get (s : State) (st : Store) (t : Nat) : (s.recode st t).get f i = s.get f i := by
  have cleared (k : Nat) : ((if (SMap.get s.faults k MemFault.clean).cells then s
      else { s with faults := SMap.set s.faults k MemFault.clean MemFault.clean }).layDamage st (64 * t) k).get f i = s.get f i := by
    refine (State.wireDamage_get i _ st (64 * t)).trans ?_
    split <;> rfl
  unfold State.recode State.clearFault
  split
  · rfl
  · dsimp only
    have laid := cleared (s.physKey st (64 * t) / 64)
    generalize State.layDamage _ st (64 * t) (s.physKey st (64 * t) / 64) = d at laid ⊢
    split
    · split
      · exact laid
      · exact laid
    · exact laid

theorem writeUnit_get (st : Store) (r : WriteRes) (e : Nat × List Byte) : (writeUnit st r e).st.get f i = r.st.get f i := by
  unfold writeUnit
  dsimp only
  split
  · rfl
  · split
    · rw [State.rawWrite_get, State.recode_get]
    · split
      · exact State.readMem_get hf i ..
      · rw [State.rawWrite_get, State.recode_get, State.readMem_get hf]

theorem State.writeMem_get (s : State) (st : Store) (off : Nat) (bs : List Byte) : (s.writeMem st off bs).st.get f i = s.get f i := by
  unfold State.writeMem
  generalize (if st.isSram = true then s.sram.isEmpty else s.noFaults) = clean
  split
  · rfl
  · split
    · exact State.rawWrite_get ..
    · exact foldl_fixes (fun r : WriteRes => r.st.get f i) (writeUnit_get hf i st) _ _

/-! ### Records -/

theorem State.busWrite_get (s : State) (device : Bool) (a : Nat) (bs : List Byte) : (s.busWrite device a bs).1.get f i = s.get f i := by
  unfold State.busWrite
  dsimp only
  split
  · split
    · split
      · rfl
      · exact State.writeMem_get hf i ..
    · rfl
  · split <;> rfl

omit hf in
theorem State.logInterrupt_get (s : State) (n : Nat) : (s.logInterrupt n).get f i = s.get f i := by
  unfold State.logInterrupt State.fire
  split_ifs <;> rfl

theorem State.logDrop_get (s : State) (n : Nat) : (s.logDrop n).get f i = s.get f i := State.get_bump_record hf i s (by decide +kernel) n 1

theorem State.logWrite_get (s : State) (n : Nat) (ws : List Word) : (s.logWrite n ws).get f i = s.get f i := by
  have seq (t : State) (a : SMap Nat) (b : SMap Bool) : State.get { t with logSeq := a, logLost := b } f i = t.get f i := rfl
  unfold State.logWrite
  split
  · exact State.logDrop_get hf i s n
  · dsimp only
    split
    · rw [State.logDrop_get hf, State.busWrite_get hf]
    · rw [State.logInterrupt_get, seq, State.get_put_record hf i _ (by decide +kernel), State.get_put_record hf i _ (by decide +kernel), State.busWrite_get hf]

/-- A record leaves every field but those of the log and of the codes. -/
theorem State.event_get (s : State) (r : Rec) : (s.event r).get f i = s.get f i := by
  have pf (t : State) (ws : List Word) : (if t.pfLogOpened || t.on .EVT_LOG_CTL_ENABLE 0 then t.logWrite 0 ws
      else if t.heldRecs.length < 1024 then { t with heldRecs := t.heldRecs ++ [ws] } else t.logDrop 0).get f i = t.get f i := by
    split
    · exact State.logWrite_get hf i ..
    · split
      · rfl
      · exact State.logDrop_get hf i ..
  have vf (t : State) (v : Nat) (ws : List Word) : (if v = 0 then t else t.logWrite v ws).get f i = t.get f i := by
    split
    · rfl
    · exact State.logWrite_get hf i ..
  have both (v : Nat) (ws : List Word) := (vf _ v ws).trans (pf s.free.2 ws)
  have mg (t : State) (l : List (List Word)) : State.get { t with mgmtOut := l } f i = t.get f i := rfl
  unfold State.event
  dsimp only
  split
  · exact (mg _ _).trans (both _ _)
  · exact both _ _

/-- A trap leaves every field but those of records and the core's own. -/
theorem State.trap_get (s : State) (c cause tag status : Nat) (h1 : f.id ≠ Fld.CORE_TRAP_INFO_CAUSE.id) (h2 : f.id ≠ Fld.CORE_TRAP_INFO_PC.id)
    (h3 : f.id ≠ Fld.CORE_PROG_STATUS_STATE.id) : (s.trap c cause tag status).get f i = s.get f i := by
  unfold State.trap
  rw [State.get_put_of_id _ _ _ _ (by decide) hf.1 h3, State.get_put_of_id _ _ _ _ (by decide) hf.1 h2, State.get_put_of_id _ _ _ _ (by decide) hf.1 h1]
  exact State.event_get hf i ..

end

end Sys2Proof.Machine
end

section
/-!
PROOFS. Reed descriptors issued and started (R132, R137, R140, R144).
-/
namespace Sys2Proof.Machine

/-! ### Descriptors refused (R140, R144) -/

/-- REED_FAULT is valid after a fault: it holds this one or an earlier one. -/
theorem State.reedFault_valid (s : State) (c bank : Nat) (d : ReedDesc) (reason row : Nat) : (s.reedFault c bank d reason row).on .REED_FAULT_VALID c = true := by
  unfold State.reedFault
  split
  · assumption
  · have later (u : State) (g : Fld) (v : Nat) (hg : g.id < 4096) (h : Fld.REED_FAULT_VALID.id ≠ g.id) :
        (u.put g c v).on .REED_FAULT_VALID c = u.on .REED_FAULT_VALID c := congrArg (· == 1) (State.get_put_of_id u c c v hg (by decide) h)
    simp only [State.puts, List.foldl_cons, List.foldl_nil]
    rw [later _ _ _ (by decide) (by decide), later _ _ _ (by decide) (by decide), later _ _ _ (by decide) (by decide), later _ _ _ (by decide) (by decide),
      later _ _ _ (by decide) (by decide)]
    exact State.on_put_one _ _ _ (by decide)

/-- A trap leaves the reed fault that it reports. -/
theorem State.trap_reedFault (s : State) (c cause tag status : Nat) : (s.trap c cause tag status).on .REED_FAULT_VALID c = s.on .REED_FAULT_VALID c :=
  congrArg (· == 1) (State.trap_get (f := .REED_FAULT_VALID) ⟨by decide, by decide +kernel⟩ c s c cause tag status (by decide) (by decide) (by decide))

/-- The rows of the reeds: words of the row's OP are issued. -/
theorem reedRow_issues {s : State} {c : Site} {op : Nat} {w : List Word} (hc : s.clocked = true) (ho : fieldOf (wordAt w 0) 3 0 = op) :
    reedRow c op w s = .next (reedIssue (siteNo c) w s) := by
  rw [reedRow, if_pos ho, State.whenClocked_on _ hc]

section
variable {s : State} {c : Nat} {w : List Word}

theorem reedIssue_refused (h : s.inForce .REED_CTL_ENABLE c = 0 ∨ (ReedDesc.of w).valid w = false) :
    ∃ reason status, reedIssue c w s = (s.reedFault c 0 (ReedDesc.of w) reason 0).trap c trapDescriptor (ReedDesc.of w).tag status := by
  by_cases he : s.inForce .REED_CTL_ENABLE c = 0
  · exact ⟨4, stDisabled, if_pos he⟩
  · have hv : (!(ReedDesc.of w).valid w) = true := by rw [h.resolve_left he]; rfl
    exact ⟨2, stBadPacket, (if_neg he).trans (if_pos hv)⟩

/-! ### Descriptors queued (R137) -/

/-- The entry that a descriptor issued now makes in the queue. -/
def State.reedEntry (s : State) (c : Nat) (w : List Word) : ReedOp := ⟨(s.core c).rseq, w ++ s.issueWords c, false, [], false⟩

/-- A descriptor at the end of the queue. -/
def State.reedQueued (s : State) (c : Nat) (w : List Word) : State :=
  s.setCore c { s.core c with rq := (s.core c).rq ++ [s.reedEntry c w], rseq := (s.core c).rseq + 1 }

/-- A descriptor that no check refuses waits at the port where 16 do already, and otherwise joins the queue, whose descriptors then start as they may. -/
theorem reedIssue_accepted (he : s.inForce .REED_CTL_ENABLE c ≠ 0) (hv : (ReedDesc.of w).valid w = true) (hr : s.reedRetired c (ReedDesc.of w) = none) :
    reedIssue c w s = if 16 ≤ ((s.core c).rq.filter fun o => !o.started).length then s else (s.reedQueued c w).reedPass 17 c := by
  unfold reedIssue
  simp only [if_neg he, hv, hr, Bool.not_true, Bool.false_eq_true, if_false]
  rfl

end

/-! ### Which descriptor starts (R137) -/

theorem State.reedPass_inLull {s : State} (h : s.inLull = true) (fuel c : Nat) : State.reedPass fuel s c = s := by
  cases fuel with
  | zero => rfl
  | succ n => exact if_pos h

theorem State.reedPass_stops {s : State} {c : Nat} (h : (s.core c).nextReed = none) (fuel : Nat) : State.reedPass fuel s c = s := by
  cases fuel with
  | zero => rfl
  | succ n => simp only [State.reedPass, h, ite_self]

theorem State.reedPass_starts {s : State} {c : Nat} {o : ReedOp} (hl : s.inLull = false) (h : (s.core c).nextReed = some o) (fuel : Nat) :
    State.reedPass (fuel + 1) s c = State.reedPass fuel (s.reedStart c o) c := by
  simp only [State.reedPass, hl, h, Bool.false_eq_true, if_false]

theorem Core.nextReed_none {k : Core} (h : ∀ o ∈ k.rq, o.started = true) : k.nextReed = none := by
  refine List.find?_eq_none.2 fun o ho => ?_
  simp [h o ho]

/-- A descriptor alone at the reeds waits for nothing. -/
theorem Core.nextReed_alone {k : Core} {o : ReedOp} (hq : k.rq = [o]) (hs : o.started = false) (ha : k.attq = []) (hr : k.attRun = []) : k.nextReed = some o := by
  have free : k.attHolds o = false := by simp [Core.attHolds, ha, hr]
  simp [Core.nextReed, hq, hs, free]

/-! ### Grains that start (R135, R137) -/

theorem State.setGrain_eq (s : State) (c b : Nat) (d : ReedDesc) (v : Nat) : s.setGrain c b d v = { s with flds := (s.setGrain c b d v).flds } := by
  unfold State.setGrain
  split <;> rfl

theorem State.on_put_one_keeps {s : State} {f : Fld} {i : Nat} (h : s.on f i = true) (hw : 0 < f.width) (j : Nat) : (s.put f j 1).on f i = true := by
  by_cases hk : f.key i = f.key j
  · have hi : i = j := by unfold Fld.key at hk; omega
    exact hi ▸ State.on_put_one s f i hw
  · exact (congrArg (· == 1) (State.get_put_other s 1 hk)).trans h

/-- A grain that starts on a bank leaves those held that were held. -/
theorem State.setGrain_keeps {s : State} {c i : Nat} (h : s.on .FEN_BANK_CTL_GRAIN i = true) (b : Nat) (d : ReedDesc) :
    (s.setGrain c b d 1).on .FEN_BANK_CTL_GRAIN i = true := by
  have own := State.on_put_one_keeps h (by decide) (ix2 128 c b)
  unfold State.setGrain
  dsimp only
  split
  · exact State.on_put_one_keeps own (by decide) _
  · exact own

theorem State.setGrain_holds (s : State) (c b : Nat) (d : ReedDesc) : (s.setGrain c b d 1).on .FEN_BANK_CTL_GRAIN (ix2 128 c b) = true := by
  have own := State.on_put_one s .FEN_BANK_CTL_GRAIN (ix2 128 c b) (by decide)
  unfold State.setGrain
  dsimp only
  split
  · exact State.on_put_one_keeps own (by decide) _
  · exact own

/-- Grains that start on the banks of a list. -/
def State.holdBanks (s : State) (c : Nat) (d : ReedDesc) (bs : List Nat) : State := bs.foldl (fun s b => s.setGrain c b d 1) s

theorem State.holdBanks_eq (s : State) (c : Nat) (d : ReedDesc) (bs : List Nat) : s.holdBanks c d bs = { s with flds := (s.holdBanks c d bs).flds } := by
  unfold State.holdBanks
  induction bs generalizing s with
  | nil => rfl
  | cons b r ih => rw [List.foldl_cons, ih, State.setGrain_eq]

theorem State.holdBanks_holds (c : Nat) (d : ReedDesc) (bs : List Nat) (s : State) {i : Nat} (h : s.on .FEN_BANK_CTL_GRAIN i = true ∨ ∃ b ∈ bs, i = ix2 128 c b) :
    (s.holdBanks c d bs).on .FEN_BANK_CTL_GRAIN i = true := by
  unfold State.holdBanks
  induction bs generalizing s with
  | nil =>
    obtain held | ⟨b, hb, -⟩ := h
    · exact held
    · exact absurd hb List.not_mem_nil
  | cons a r ih =>
    refine ih _ ?_
    obtain held | ⟨b, hb, hi⟩ := h
    · exact .inl (State.setGrain_keeps held a d)
    · obtain rfl | hr := List.mem_cons.1 hb
      · exact .inl (hi ▸ State.setGrain_holds s c b d)
      · exact .inr ⟨b, hr, hi⟩

/-! ### A descriptor started -/

/-- The latches of a descriptor's reeds left undefined, but by POPC_AND (R132). -/
def State.latchesLost (s : State) (c : Nat) (d : ReedDesc) : State :=
  if d.op = 10 then s else s.modCore c fun k => { k with latchLost := d.banks.foldl (fun m b => SMap.set m b true false) k.latchLost }

theorem State.latchesLost_eq (s : State) (c : Nat) (d : ReedDesc) : s.latchesLost c d = { s with cores := (s.latchesLost c d).cores } := by
  unfold State.latchesLost
  split <;> rfl

theorem State.latchesLost_core (s : State) (c : Nat) (d : ReedDesc) :
    (s.latchesLost c d).core c = { s.core c with latchLost := ((s.latchesLost c d).core c).latchLost } := by
  unfold State.latchesLost
  split
  · rfl
  · rw [State.modCore, State.core_set_same]

/-- An operation on banks starts as grains on the banks of its mask. -/
def ReedOp.begun (o : ReedOp) : ReedOp := { o with started := true, left := (ReedDesc.of o.w).banks.map fun b => (b, 0) }

section
variable (s : State) (c : Nat) (o : ReedOp)

theorem State.reedStart_bank (h2 : (ReedDesc.of o.w).op ≠ 2) (h3 : (ReedDesc.of o.w).op ≠ 3) :
    s.reedStart c o = (((s.latchesLost c (ReedDesc.of o.w)).modCore c fun k => { k with rq := k.rq.map fun x =>
      if x.num = o.num then { x with started := true, left := (ReedDesc.of o.w).banks.map fun b => (b, 0) } else x })).holdBanks c (ReedDesc.of o.w) (ReedDesc.of o.w).banks := by
  unfold State.reedStart
  simp only [if_neg h2, if_neg h3]
  rfl

/-- A bank operation that starts holds the banks of its mask. -/
theorem State.reedStart_bank_holds (h2 : (ReedDesc.of o.w).op ≠ 2) (h3 : (ReedDesc.of o.w).op ≠ 3) {b : Nat} (hb : b ∈ (ReedDesc.of o.w).banks) :
    (s.reedStart c o).on .FEN_BANK_CTL_GRAIN (ix2 128 c b) = true := by
  rw [State.reedStart_bank s c o h2 h3]
  exact State.holdBanks_holds c _ _ _ (.inr ⟨b, hb, rfl⟩)

theorem State.reedStart_bank_mem (h2 : (ReedDesc.of o.w).op ≠ 2) (h3 : (ReedDesc.of o.w).op ≠ 3) : (s.reedStart c o).mem = s.mem := by
  rw [State.reedStart_bank s c o h2 h3, State.holdBanks_eq, State.latchesLost_eq]
  rfl

/-- A bank operation that starts alone is the one at work. -/
theorem State.reedStart_bank_queue (hq : (s.core c).rq = [o]) (h2 : (ReedDesc.of o.w).op ≠ 2) (h3 : (ReedDesc.of o.w).op ≠ 3) :
    ((s.reedStart c o).core c).rq = [o.begun] := by
  have queue : ((s.latchesLost c (ReedDesc.of o.w)).core c).rq = [o] := by rw [State.latchesLost_core]; exact hq
  have held (u : State) (d : ReedDesc) (bs : List Nat) : (u.holdBanks c d bs).core c = u.core c := by rw [State.holdBanks_eq]; rfl
  rw [State.reedStart_bank s c o h2 h3, held, State.modCore, State.core_set_same]
  dsimp only
  rw [queue]
  simp [ReedOp.begun]

theorem State.reedStart_bcast (h : (ReedDesc.of o.w).op = 2) :
    s.reedStart c o = ((s.latchesLost c (ReedDesc.of o.w)).atWork c 2 (o.w.drop 6) fun s => s.runBcast c (ReedDesc.of o.w)).reedEnd c o.num := by
  unfold State.reedStart
  simp only [if_pos h]
  rfl

theorem State.reedStart_gather (h : (ReedDesc.of o.w).op = 3) :
    s.reedStart c o = ((s.latchesLost c (ReedDesc.of o.w)).atWork c 2 (o.w.drop 6) fun s => s.runGather c (ReedDesc.of o.w)).reedEnd c o.num := by
  have h2 : (ReedDesc.of o.w).op ≠ 2 := by omega
  unfold State.reedStart
  simp only [if_neg h2, if_pos h]
  rfl

end

/-! ### A descriptor issued to idle reeds -/

/-- The reeds and the attention engine of a core hold no work. -/
structure Core.ReedsIdle (k : Core) : Prop where
  reeds : k.rq = []
  running : k.attRun = []
  queued : k.attq = []

theorem State.reedQueued_core {s : State} {c : Nat} (h : (s.core c).ReedsIdle) (w : List Word) :
    (s.reedQueued c w).core c = { s.core c with rq := [s.reedEntry c w], rseq := (s.core c).rseq + 1 } := by
  rw [State.reedQueued, State.core_set_same, h.reeds, List.nil_append]

theorem reedIssue_starts {s : State} {c : Nat} {w : List Word} (he : s.inForce .REED_CTL_ENABLE c ≠ 0) (hv : (ReedDesc.of w).valid w = true)
    (hr : s.reedRetired c (ReedDesc.of w) = none) (hi : (s.core c).ReedsIdle) (hl : s.inLull = false) :
    reedIssue c w s = ((s.reedQueued c w).reedStart c (s.reedEntry c w)).reedPass 16 c := by
  have core := s.reedQueued_core hi w
  have room : ¬16 ≤ ((s.core c).rq.filter fun o => !o.started).length := by rw [hi.reeds]; decide
  have next : ((s.reedQueued c w).core c).nextReed = some (s.reedEntry c w) := by
    rw [core]
    exact Core.nextReed_alone rfl rfl hi.queued hi.running
  rw [reedIssue_accepted he hv hr, if_neg room]
  exact State.reedPass_starts (s := s.reedQueued c w) hl next 16

end Sys2Proof.Machine
end

section
/-!
PROOFS. Reads and writes of a core's units where nothing can hold an error (R95, R116, R117), and the slice bus (R134).
-/
namespace Sys2Proof.Machine

/-! ### Reads of a unit -/

/-- A unit sees every byte of a core without writes that are yet to be seen. -/
theorem State.unitSees_all {s : State} {c : Nat} (h : (s.core c).unseen = []) (st : Store) (off : Nat) (bs : List Byte) : s.unitSees c st off bs = (bs, s) := by
  simp [State.unitSees, h]

/-- A pool without patterns in its words holds no error. -/
theorem State.pool_clean {s : State} (hs : s.sram = []) (c : Nat) : (if (Store.pool c).isSram then s.sram.isEmpty else s.noFaults) = true := List.isEmpty_iff.2 hs

/-- A unit's read of a pool delivers the bytes stored. -/
theorem State.coreRead_pool {s : State} {c : Nat} (hs : s.sram = []) (hu : (s.core c).unseen = []) (site off n : Nat) :
    s.coreRead c (.pool site) off n = (some (s.rawBytes (.pool site) off n), s) := by
  have read := State.readMem_clean (State.pool_clean hs site) off n
  have seen := State.unitSees_all hu (.pool site) off (s.rawBytes (.pool site) off n)
  simp [State.coreRead, State.planRead, read, State.eccEvents, State.defined, State.rowUndefined, seen]

/-! ### Writes of a unit -/

theorem State.noteWrite_eq (s : State) (p : Nat) (st : Store) (off n : Nat) : s.noteWrite p st off n = { s with parts := (s.noteWrite p st off n).parts } := by
  unfold State.noteWrite
  split <;> rfl

theorem State.unitWrote_eq (s : State) (c : Nat) (st : Store) (off n : Nat) : s.unitWrote c st off n = { s with cores := (s.unitWrote c st off n).cores } := by
  unfold State.unitWrote
  split <;> rfl

/-- The memory after a store depends on the memory before and on the rows in spares only. -/
theorem State.rawWrite_mem_congr {s t : State} (hm : t.mem = s.mem) (hr : t.rowSpares = s.rowSpares) (st : Store) (off : Nat) (bs : List Byte) :
    (t.rawWrite st off bs).mem = (s.rawWrite st off bs).mem := by
  simp only [State.rawWrite, State.breakResv_mem, State.physKey_congr hr, hm]

theorem State.rawBytes_congr {s t : State} (hm : t.mem = s.mem) (hr : t.rowSpares = s.rowSpares) (st : Store) (off n : Nat) :
    t.rawBytes st off n = s.rawBytes st off n := by
  simp only [State.rawBytes, State.physKey_congr hr, hm]

theorem State.planWrite_clean {s : State} {st : Store} (h : (if st.isSram then s.sram.isEmpty else s.noFaults) = true) (p off : Nat) {bs : List Byte} (hb : bs ≠ []) :
    s.planWrite p st off bs = (s.noteWrite p st off bs.length).rawWrite st off bs := by
  have noted : (if st.isSram then (s.noteWrite p st off bs.length).sram.isEmpty else (s.noteWrite p st off bs.length).noFaults) = true := by
    rw [State.noteWrite_eq]; exact h
  simp [State.planWrite, State.store_clean st off hb noted]

/-- A unit's write where nothing can hold an error is a store of its bytes; it may note the place of a running partition's scratch and of a write to be seen. -/
theorem State.coreWrite_clean {s : State} {st : Store} (h : (if st.isSram then s.sram.isEmpty else s.noFaults) = true) (c off : Nat) {bs : List Byte} (hb : bs ≠ []) :
    s.coreWrite c st off bs = { s with
      mem := (s.rawWrite st off bs).mem, parts := (s.coreWrite c st off bs).parts, cores := (s.coreWrite c st off bs).cores } := by
  have stored := State.rawWrite_mem_congr (s := s) (t := s.noteWrite (s.diePart (dieOf c)) st off bs.length) (by rw [State.noteWrite_eq]) (by rw [State.noteWrite_eq]) st off bs
  rw [State.coreWrite, State.planWrite_clean h _ off hb, State.unitWrote_eq, State.rawWrite_eq, stored, State.noteWrite_eq]

section
variable {s : State} {st : Store} (h : (if st.isSram then s.sram.isEmpty else s.noFaults) = true) (c off : Nat) {bs : List Byte} (hb : bs ≠ [])
include h hb

theorem State.coreWrite_mem : (s.coreWrite c st off bs).mem = (s.rawWrite st off bs).mem := by rw [State.coreWrite_clean h c off hb]

theorem State.coreWrite_cmds : (s.coreWrite c st off bs).cmds = s.cmds := by rw [State.coreWrite_clean h c off hb]

end

/-- The descriptors queued and running at a core's reeds. -/
def State.reedQueue (s : State) (c : Nat) : List ReedOp := (s.core c).rq

theorem State.coreWrite_reedQueue {s : State} {st : Store} (h : (if st.isSram then s.sram.isEmpty else s.noFaults) = true) (c off : Nat) {bs : List Byte} (hb : bs ≠ []) :
    (s.coreWrite c st off bs).reedQueue c = s.reedQueue c := by
  have wrote (u : State) : (u.unitWrote c st off bs.length).reedQueue c = u.reedQueue c := by
    unfold State.unitWrote State.reedQueue
    split
    · rw [State.modCore, State.core_set_same]
    · rfl
  have noted (p : Nat) : (s.noteWrite p st off bs.length).reedQueue c = s.reedQueue c := by rw [State.noteWrite_eq]; rfl
  rw [State.coreWrite, State.planWrite_clean h _ off hb, wrote, ← noted (s.diePart (dieOf c))]
  obtain kept | ⟨-, taken⟩ := (s.noteWrite (s.diePart (dieOf c)) st off bs.length).rawWrite_core st off bs c
  · exact congrArg Core.rq kept
  · have queue := congrArg Core.rq taken
    exact queue

/-! ### Pools -/

/-- A pool has no rows in spares. -/
theorem State.rawBytes_pool_congr {s t : State} (hm : t.mem = s.mem) (c off n : Nat) : t.rawBytes (.pool c) off n = s.rawBytes (.pool c) off n := by
  simp only [State.rawBytes, hm]
  rfl

theorem State.rawBytes_rawWrite_pool (s : State) (c off : Nat) (bs : List Byte) : (s.rawWrite (.pool c) off bs).rawBytes (.pool c) off bs.length = bs := by
  have mem : (s.rawWrite (.pool c) off bs).mem = (State.rawWrite { s with rowSpares := [] } (.pool c) off bs).mem := by
    simp only [State.rawWrite, State.breakResv_mem]
    rfl
  exact (State.rawBytes_pool_congr mem c off _).trans (State.rawBytes_rawWrite (s := { s with rowSpares := [] }) rfl (.pool c) off bs)

/-! ### Numbers among bytes -/

theorem groupsLE_length (k n : Nat) (bs : List Byte) : (groupsLE k n bs).length = n := by
  induction n generalizing bs with
  | zero => rfl
  | succ n ih => rw [groupsLE, List.length_cons, ih]

/-- Group `j` is the number of the `k` bytes from byte `k * j` on. -/
theorem groupsLE_getElem (k : Nat) {n j : Nat} (bs : List Byte) (h : j < (groupsLE k n bs).length) : (groupsLE k n bs)[j] = ofBytesLE ((bs.drop (k * j)).take k) := by
  induction n generalizing j bs with
  | zero => exact absurd h (Nat.not_lt_zero j)
  | succ n ih =>
    cases j with
    | zero => rfl
    | succ j => simpa [groupsLE, List.drop_drop, Nat.mul_succ, Nat.add_comm] using ih (bs.drop k) (by simpa [groupsLE] using h)

theorem State.rawBytes_slice (s : State) (st : Store) (off : Nat) {n a m : Nat} (h : a + m ≤ n) : ((s.rawBytes st off n).drop a).take m = s.rawBytes st (off + a) m := by
  apply List.ext_getElem
  · simp only [State.rawBytes, List.length_take, List.length_drop, List.length_map, List.length_range]; omega
  · intro i h1 h2
    simp [State.rawBytes, Nat.add_assoc]

/-! ### The bus in use -/

section
variable (s : State) (c n : Nat)

theorem State.busUse_mem : (s.busUse c n).mem = s.mem := rfl
theorem State.busUse_cmds : (s.busUse c n).cmds = s.cmds := rfl
theorem State.busUse_rowSpares : (s.busUse c n).rowSpares = s.rowSpares := rfl
theorem State.busUse_reedQueue : (s.busUse c n).reedQueue c = s.reedQueue c := rfl

end

/-! ### BCAST (R134) -/

/-- A list of activations taken into a half of the activation buffer of every bank of a list. -/
def Core.takesAct (k : Core) (half : Nat) (xs : List Nat) (bs : List Nat) : Core := bs.foldl (fun k b => k.setAct (4096 * b + 2048 * half) xs) k

theorem Core.takesAct_eq (k : Core) (half : Nat) (xs bs : List Nat) : k.takesAct half xs bs = { k with act := (k.takesAct half xs bs).act } := by
  unfold Core.takesAct
  induction bs generalizing k with
  | nil => rfl
  | cons b r ih => rw [List.foldl_cons, ih]; rfl

theorem Core.setAct_get {k : Core} {half b a j : Nat} {xs : List Nat} (hl : 2048 * half + xs.length ≤ 4096) (hj : j < xs.length) :
    SMap.get (k.setAct (4096 * b + 2048 * half) xs).act (4096 * a + 2048 * half + j) none =
      if a = b then some xs[j] else SMap.get k.act (4096 * a + 2048 * half + j) none := by
  rw [Core.setAct, SMap.get_setList, List.length_map]
  by_cases h : a = b
  · subst h
    rw [if_pos (by omega), if_pos rfl, Nat.add_sub_cancel_left, List.getD_eq_getElem _ _ (by rwa [List.length_map]), List.getElem_map]
  · rw [if_neg (by omega), if_neg h]

/-- Each bank of the list holds the activations. -/
theorem Core.takesAct_get {half a j : Nat} {xs : List Nat} (hl : 2048 * half + xs.length ≤ 4096) (hj : j < xs.length) (bs : List Nat) {k : Core}
    (h : SMap.get k.act (4096 * a + 2048 * half + j) none = some xs[j] ∨ a ∈ bs) :
    SMap.get (k.takesAct half xs bs).act (4096 * a + 2048 * half + j) none = some xs[j] := by
  unfold Core.takesAct
  induction bs generalizing k with
  | nil => exact h.resolve_right List.not_mem_nil
  | cons b r ih =>
    refine ih ?_
    rw [Core.setAct_get hl hj]
    by_cases hab : a = b
    · exact .inl (if_pos hab)
    · rw [if_neg hab]
      exact h.imp_right fun hm => (List.mem_cons.1 hm).resolve_left hab

section
variable {s : State} {c : Nat} (hs : s.sram = []) (hu : (s.core c).unseen = []) (d : ReedDesc)
include hs hu

theorem State.runBcast_clean :
    s.runBcast c d = (s.busUse c (d.elems / 16)).modCore c fun k => k.takesAct d.act (groupsLE 2 d.elems (s.rawBytes (.pool c) d.pool (2 * d.elems))) d.banks := by
  have read := State.coreRead_pool (s := s.busUse c (d.elems / 16)) (c := c) hs hu c d.pool (2 * d.elems)
  simp only [State.runBcast, read]
  rfl

theorem State.runBcast_mem : (s.runBcast c d).mem = s.mem := by rw [State.runBcast_clean hs hu]; rfl

theorem State.runBcast_cmds : (s.runBcast c d).cmds = s.cmds := by rw [State.runBcast_clean hs hu]; rfl

theorem State.runBcast_reedQueue : (s.runBcast c d).reedQueue c = s.reedQueue c := by
  rw [State.runBcast_clean hs hu, State.reedQueue, State.modCore, State.core_set_same, Core.takesAct_eq]
  rfl

/-- BCAST puts the elements at POOL_OFFSET into the half of every bank of its mask. -/
theorem State.runBcast_act (hl : 2048 * d.act + d.elems ≤ 4096) {b j : Nat} (hb : b ∈ d.banks) (hj : j < d.elems) :
    SMap.get ((s.runBcast c d).core c).act (4096 * b + 2048 * d.act + j) none = some (ofBytesLE (s.rawBytes (.pool c) (d.pool + 2 * j) 2)) := by
  have elems := groupsLE_length 2 d.elems (s.rawBytes (.pool c) d.pool (2 * d.elems))
  rw [State.runBcast_clean hs hu, State.modCore, State.core_set_same, Core.takesAct_get (by omega) (by omega) _ (.inr hb), groupsLE_getElem,
    State.rawBytes_slice _ _ _ (by omega)]

end

/-! ### GATHER (R134) -/

/-- What GATHER without a sum delivers: the entries of each bank, in bank order. -/
def Core.gathered (k : Core) (d : ReedDesc) : List Byte :=
  d.banks.flatMap fun b => (List.range d.count).flatMap fun e => toBytesLE 4 (k.raccAt (256 * b + d.acc + e)).toNat

theorem Core.gathered_congr {k k' : Core} (hr : k'.racc = k.racc) (hl : k'.lost = k.lost) (d : ReedDesc) : k'.gathered d = k.gathered d := by
  simp only [Core.gathered, Core.raccAt, hr, hl]

theorem toBytesLE_length (n v : Nat) : (toBytesLE n v).length = n := by
  induction n generalizing v with
  | zero => rfl
  | succ n ih => rw [toBytesLE, List.length_cons, ih]

theorem Core.gathered_length (k : Core) (d : ReedDesc) : (k.gathered d).length = 4 * d.count * d.banks.length := by
  simp [Core.gathered, List.length_flatMap, toBytesLE_length, Nat.mul_comm]

section
variable {s : State} {c : Nat} {d : ReedDesc} (hd : d.sub = 0)
include hd

theorem State.runGather_entries :
    s.runGather c d = (s.busUse c ((4 * d.count * d.banks.length + 31) / 32)).coreWrite c (.pool c) d.pool ((s.core c).gathered d) := by
  simp only [State.runGather, hd, if_true]
  rfl

variable (hs : s.sram = []) (hb : (s.core c).gathered d ≠ [])
include hs hb

/-- GATHER without a sum stores the entries of its banks in the pool. -/
theorem State.runGather_mem : (s.runGather c d).mem = (s.rawWrite (.pool c) d.pool ((s.core c).gathered d)).mem := by
  rw [State.runGather_entries hd, State.coreWrite_mem (State.pool_clean (s := s.busUse c _) hs c) c d.pool hb]
  exact State.rawWrite_mem_congr (State.busUse_mem ..) (State.busUse_rowSpares ..) ..

theorem State.runGather_cmds : (s.runGather c d).cmds = s.cmds := by
  rw [State.runGather_entries hd, State.coreWrite_cmds (State.pool_clean (s := s.busUse c _) hs c) c d.pool hb]
  exact State.busUse_cmds ..

theorem State.runGather_reedQueue : (s.runGather c d).reedQueue c = s.reedQueue c := by
  rw [State.runGather_entries hd, State.coreWrite_reedQueue (State.pool_clean (s := s.busUse c _) hs c) c d.pool hb]
  exact State.busUse_reedQueue ..

end

/-! ### The end of a descriptor (R137, R142) -/

theorem State.fencePass_idle {s : State} (h : s.cmds = []) : s.fencePass = s := by rw [State.fencePass, h]; rfl

section
variable {s : State} (h : s.cmds = []) (c : Nat)
include h

theorem State.reedEnd_idle (num : Nat) : s.reedEnd c num = s.modCore c fun k => { k with rq := k.rq.filter fun o => o.num != num } := State.fencePass_idle h

theorem State.reedEnd_core (num : Nat) : (s.reedEnd c num).core c = { s.core c with rq := (s.core c).rq.filter fun o => o.num != num } := by
  rw [State.reedEnd_idle h, State.modCore, State.core_set_same]

theorem State.reedEnd_mem (num : Nat) : (s.reedEnd c num).mem = s.mem := by rw [State.reedEnd_idle h]; rfl

theorem State.reedEnd_queue {o : ReedOp} (hq : s.reedQueue c = [o]) : (s.reedEnd c o.num).reedQueue c = [] := by
  have queue : (s.core c).rq = [o] := hq
  rw [State.reedQueue, State.reedEnd_core h, queue]
  simp

end

/-! ### Bus operations started alone -/

/-- The reeds at work on the slice bus for a descriptor. -/
def State.onBus (s : State) (c : Nat) (o : ReedOp) : State := (s.latchesLost c (ReedDesc.of o.w)).atUnit c 2 (o.w.drop 6)

section
variable (s : State) (c : Nat) (o : ReedOp)

theorem State.onBus_eq : s.onBus c o = { s with cores := (s.onBus c o).cores } := by
  unfold State.onBus
  rw [State.latchesLost_eq]
  rfl

@[simp] theorem State.onBus_mem : (s.onBus c o).mem = s.mem := by rw [State.onBus_eq]

@[simp] theorem State.onBus_cmds : (s.onBus c o).cmds = s.cmds := by rw [State.onBus_eq]

@[simp] theorem State.onBus_sram : (s.onBus c o).sram = s.sram := by rw [State.onBus_eq]

@[simp] theorem State.onBus_rowSpares : (s.onBus c o).rowSpares = s.rowSpares := by rw [State.onBus_eq]

theorem State.onBus_core : (s.onBus c o).core c = { s.core c with
    latchLost := ((s.onBus c o).core c).latchLost, trapPc := ((s.onBus c o).core c).trapPc, atWork := ((s.onBus c o).core c).atWork } := by
  rw [State.onBus, State.atUnit, State.modCore, State.core_set_same, State.latchesLost_core]

theorem State.onBus_unseen : ((s.onBus c o).core c).unseen = (s.core c).unseen := by rw [State.onBus_core]

theorem State.onBus_reedQueue : (s.onBus c o).reedQueue c = s.reedQueue c := by rw [State.reedQueue, State.onBus_core]; rfl

end

/-- Work on the slice bus that leaves its descriptor the only one in the queue ends it; memory and buffers are as the work left them. -/
theorem State.busWork_ends {s : State} {c : Nat} {o : ReedOp} {f : State → State} (hc : (f (s.onBus c o)).cmds = []) (hq : (f (s.onBus c o)).reedQueue c = [o]) :
    let t := ((s.latchesLost c (ReedDesc.of o.w)).atWork c 2 (o.w.drop 6) f).reedEnd c o.num
    t.reedQueue c = [] ∧ t.mem = (f (s.onBus c o)).mem ∧ (t.core c).act = ((f (s.onBus c o)).core c).act := by
  change let t := State.reedEnd (State.backAt (f (s.onBus c o)) c ((s.latchesLost c (ReedDesc.of o.w)).core c)) c o.num
    t.reedQueue c = [] ∧ t.mem = (f (s.onBus c o)).mem ∧ (t.core c).act = ((f (s.onBus c o)).core c).act
  generalize f (s.onBus c o) = u at *
  generalize (s.latchesLost c (ReedDesc.of o.w)).core c = k
  have core : (u.backAt c k).core c = { u.core c with trapPc := k.trapPc, atWork := k.atWork } := State.core_set_same ..
  have queue : (u.backAt c k).reedQueue c = [o] := by rw [State.reedQueue, core]; exact hq
  exact ⟨State.reedEnd_queue (s := u.backAt c k) hc c queue, State.reedEnd_mem (s := u.backAt c k) hc c o.num, by rw [State.reedEnd_core (s := u.backAt c k) hc, core]⟩

section
variable {s : State} {c : Nat} {o : ReedOp} (hq : s.reedQueue c = [o]) (hc : s.cmds = []) (hs : s.sram = [])
include hq hc hs

/-- BCAST alone: its elements are in the buffers, memory is as it was, and the queue is empty. -/
theorem State.reedStart_bcast_alone (hu : (s.core c).unseen = []) (ho : (ReedDesc.of o.w).op = 2)
    (hl : 2048 * (ReedDesc.of o.w).act + (ReedDesc.of o.w).elems ≤ 4096) :
    (s.reedStart c o).reedQueue c = [] ∧ (s.reedStart c o).mem = s.mem ∧ ∀ b ∈ (ReedDesc.of o.w).banks, ∀ j, j < (ReedDesc.of o.w).elems →
      SMap.get ((s.reedStart c o).core c).act (4096 * b + 2048 * (ReedDesc.of o.w).act + j) none =
        some (ofBytesLE (s.rawBytes (.pool c) ((ReedDesc.of o.w).pool + 2 * j) 2)) := by
  have sram : (s.onBus c o).sram = [] := (s.onBus_sram c o).trans hs
  have seen : ((s.onBus c o).core c).unseen = [] := (s.onBus_unseen c o).trans hu
  obtain ⟨queue, mem, act⟩ := State.busWork_ends (s := s) (o := o) (f := fun s => s.runBcast c (ReedDesc.of o.w))
    ((State.runBcast_cmds sram seen _).trans ((s.onBus_cmds c o).trans hc)) ((State.runBcast_reedQueue sram seen _).trans ((s.onBus_reedQueue c o).trans hq))
  rw [State.reedStart_bcast s c o ho]
  refine ⟨queue, mem.trans ((State.runBcast_mem sram seen _).trans (s.onBus_mem c o)), fun b hb j hj => ?_⟩
  rw [act, State.runBcast_act sram seen _ hl hb hj, State.rawBytes_pool_congr (s.onBus_mem c o)]

/-- GATHER without a sum, alone: the entries of its banks are stored in the pool, and the queue is empty. -/
theorem State.reedStart_gather_alone (ho : (ReedDesc.of o.w).op = 3) (hb : (ReedDesc.of o.w).sub = 0) (he : (s.core c).gathered (ReedDesc.of o.w) ≠ []) :
    (s.reedStart c o).reedQueue c = [] ∧
      (s.reedStart c o).mem = (s.rawWrite (.pool c) (ReedDesc.of o.w).pool ((s.core c).gathered (ReedDesc.of o.w))).mem := by
  have sram : (s.onBus c o).sram = [] := (s.onBus_sram c o).trans hs
  have work := s.onBus_core c o
  have entries : ((s.onBus c o).core c).gathered (ReedDesc.of o.w) = (s.core c).gathered (ReedDesc.of o.w) :=
    Core.gathered_congr (by rw [work]) (by rw [work]) _
  have given : ((s.onBus c o).core c).gathered (ReedDesc.of o.w) ≠ [] := entries ▸ he
  obtain ⟨queue, mem, -⟩ := State.busWork_ends (s := s) (c := c) (o := o) (f := fun s => s.runGather c (ReedDesc.of o.w))
    ((State.runGather_cmds hb sram given).trans ((s.onBus_cmds c o).trans hc)) ((State.runGather_reedQueue hb sram given).trans ((s.onBus_reedQueue c o).trans hq))
  rw [State.reedStart_gather s c o ho]
  refine ⟨queue, mem.trans ((State.runGather_mem hb sram given).trans ?_)⟩
  rw [entries]
  exact State.rawWrite_mem_congr (s.onBus_mem c o) (s.onBus_rowSpares c o) ..

end

end Sys2Proof.Machine
end

section
/-!
PROOFS. The boundary of a grain of a row operation where nothing else is at work (R107, R110, R112, R132, R135).
-/
namespace Sys2Proof.Machine

/-! ### A core alone, with nothing that waits -/

/-- No unit of a core but its reeds has work. -/
structure Core.Waitless (k : Core) : Prop where
  arrays : k.aq = []
  pass : k.passDue = none
  vector : k.vq = []
  walker : k.kvq = []
  network : k.netq = []
  attention : k.attRun = []

/-- Two cores with the same work: they differ in the reeds' queue and latches, in what a unit at work notes, and in the writes to be seen. -/
def Core.SameUnits (k k' : Core) : Prop :=
  k' = { k with rq := k'.rq, latch := k'.latch, latchLost := k'.latchLost, unseen := k'.unseen, trapPc := k'.trapPc, atWork := k'.atWork }

theorem Core.Waitless.congr {k k' : Core} (h : k.Waitless) (e : k.SameUnits k') : k'.Waitless := by
  rw [e]
  exact ⟨h.arrays, h.pass, h.vector, h.walker, h.network, h.attention⟩

/-- Site `n` is the only one that may be listed, its units wait for nothing, and nothing outside it waits either. -/
structure State.Lone (s : State) (n : Nat) : Prop where
  site : s.cores = [] ∨ ∃ k, s.cores = [(n, k)]
  idle : (s.core n).Waitless
  cmds : s.cmds = []
  engines : s.engines = []
  atomHeld : s.atomHeld = []
  arrived : s.xniIn = []

theorem State.Alone.lone {s : State} {n : Nat} (h : s.Alone n) (hr : (s.core n).attRun = []) : s.Lone n where
  site := .inr ⟨_, h.cores⟩
  idle := ⟨h.arrays.1, h.arrays.2, h.vector, h.walker, h.network, hr⟩
  cmds := h.cmds
  engines := h.engines
  atomHeld := h.atomHeld
  arrived := h.xni.2.1

theorem SMap.set_alone {β : Type} [DecidableEq β] {m : SMap β} {n : Nat} (h : m = [] ∨ ∃ k, m = [(n, k)]) (v d : β) : m.set n v d = [] ∨ ∃ k, m.set n v d = [(n, k)] := by
  unfold SMap.set
  obtain rfl | ⟨k, rfl⟩ := h
  · split
    · exact .inl rfl
    · exact .inr ⟨v, rfl⟩
  · split
    · exact .inl (by simp [SMap.erase])
    · exact .inr ⟨v, by simp [SMap.insert]⟩

section
variable {s : State} {n : Nat} (h : s.Lone n)
include h

theorem State.Lone.congr {t : State} (h1 : t.cores = s.cores) (h2 : t.cmds = s.cmds) (h3 : t.engines = s.engines) (h4 : t.atomHeld = s.atomHeld)
    (h5 : t.xniIn = s.xniIn) : t.Lone n where
  site := h1 ▸ h.site
  idle := by unfold State.core; rw [h1]; exact h.idle
  cmds := h2.trans h.cmds
  engines := h3.trans h.engines
  atomHeld := h4.trans h.atomHeld
  arrived := h5.trans h.arrived

theorem State.Lone.modCore {f : Core → Core} (hf : (s.core n).SameUnits (f (s.core n))) : (s.modCore n f).Lone n where
  site := SMap.set_alone h.site _ _
  idle := by rw [State.modCore, State.core_set_same]; exact h.idle.congr hf
  cmds := h.cmds
  engines := h.engines
  atomHeld := h.atomHeld
  arrived := h.arrived

theorem State.Lone.put (f : Fld) (i v : Nat) : (s.put f i v).Lone n := h.congr rfl rfl rfl rfl rfl

theorem State.Lone.netCores : s.netCores = [] := by
  have idle := h.idle.network
  obtain none | ⟨k, one⟩ := h.site
  · rw [State.netCores, none]; rfl
  · have core : s.core n = k := by rw [State.core, one]; exact if_pos rfl
    rw [core] at idle
    simp [State.netCores, one, idle]

theorem State.Lone.planRetry : s.planRetry n = s := by
  have arrays : s.arrRetry n = s := by
    simp only [State.arrRetry, h.idle.pass]
    exact State.arrLoad_empty h.idle.arrays
  have walker : s.kvPass 18 n = s := by simp only [State.kvPass, h.idle.walker]
  rw [State.planRetry, arrays, State.vecPass_empty h.idle.vector, walker, State.attRetry, h.idle.attention, List.foldl_nil]

/-- Where nothing waits, trying again what waits lets idle banks refresh. -/
theorem State.Lone.retryAll : s.retryAll = s.refreshIdle := by
  have plan : (s.cores.map Prod.fst).foldl State.planRetry s = s := by
    refine foldl_id fun c hc => ?_
    obtain none | ⟨k, one⟩ := h.site
    · rw [none] at hc; exact absurd hc List.not_mem_nil
    · rw [one] at hc
      rw [List.mem_singleton.1 hc]
      exact h.planRetry
  have settled : s.settle = s := by
    rw [State.settle, h.atomHeld]
    change (if s.netCores.isEmpty then s else _) = s
    rw [h.netCores]
    rfl
  rw [State.retryAll, plan, settled, State.xniRetry_idle h.arrived, State.dmaRetry_idle h.engines, State.memPass_idle h.cmds, State.peatPass_idle h.cmds,
    State.startPass_idle h.cmds, State.forkPass_idle h.cmds]

end

/-! ### Refresh (R110) -/

/-- Only the debts of banks differ. -/
structure State.Refreshed (s t : State) : Prop where
  frame : t = { s with flds := t.flds }
  kept : ∀ (f : Fld) i, f.id < 4096 → f.id ≠ Fld.FEN_BANK_CTL_DEBT.id → t.get f i = s.get f i

theorem State.Refreshed.same (s : State) : s.Refreshed s := ⟨rfl, fun _ _ _ _ => rfl⟩

theorem State.Refreshed.trans {s t u : State} (h1 : s.Refreshed t) (h2 : t.Refreshed u) : s.Refreshed u :=
  ⟨h2.frame.trans (by rw [h1.frame]), fun f i hf hd => (h2.kept f i hf hd).trans (h1.kept f i hf hd)⟩

theorem State.Refreshed.lone {s t : State} (h : s.Refreshed t) {n : Nat} (hs : s.Lone n) : t.Lone n := by
  rw [h.frame]
  exact hs.congr rfl rfl rfl rfl rfl

theorem State.refreshBank_refreshed (s : State) (c b : Nat) (busy : Bool) : s.Refreshed (s.refreshBank c b busy) := by
  rw [State.refreshBank]
  split_ifs
  · exact .same s
  · exact ⟨rfl, fun f i hf hd => State.get_put_of_id s _ i 0 (by decide) hf hd⟩
  · exact .same s

theorem State.refreshIdle_refreshed (s : State) : s.Refreshed s.refreshIdle := by
  have fold (l : List (Nat × Nat)) (u : State) : u.Refreshed (l.foldl (fun s e => s.refreshBank e.1 e.2 false) u) := by
    induction l generalizing u with
    | nil => exact .same u
    | cons e r ih => exact (u.refreshBank_refreshed ..).trans (ih _)
  exact fold _ s

theorem State.Lone.servBank {s : State} {n : Nat} (h : s.Lone n) (hl : s.inLull = false) (b : Nat) : s.Refreshed (s.servBank n [b]) := by
  have bank := s.refreshBank_refreshed n b true
  have serves : s.servBank n [b] = (s.refreshBank n b true).refreshIdle := by
    rw [← (bank.lone h).retryAll]
    simp [State.servBank, hl]
  rw [serves]
  exact bank.trans (State.refreshIdle_refreshed _)

/-! ### A row written by a reed (R127, R132) -/

/-- The row that INIT or COPY gives. -/
def State.grainRow (s : State) (c b : Nat) (d : ReedDesc) : List Byte :=
  if d.op = 6 then (List.range 512).flatMap fun _ => toBytesLE 4 d.pattern else s.rawBytes (.fen c) (rowOffset b d.rowA) 2048

theorem State.rawBytes_length (s : State) (st : Store) (off n : Nat) : (s.rawBytes st off n).length = n := by
  rw [State.rawBytes, List.length_map, List.length_range]

theorem State.grainRow_length (s : State) (c b : Nat) (d : ReedDesc) : (s.grainRow c b d).length = 2048 := by
  unfold State.grainRow
  split
  · simp only [List.length_flatMap, toBytesLE_length, List.map_const', List.sum_replicate, List.length_range, smul_eq_mul]
  · exact State.rawBytes_length ..

theorem State.grainRow_congr {s t : State} (hm : t.mem = s.mem) (hr : t.rowSpares = s.rowSpares) (c b : Nat) (d : ReedDesc) : t.grainRow c b d = s.grainRow c b d := by
  simp only [State.grainRow, State.rawBytes_congr hm hr]

theorem State.grainRow_ne_nil (s : State) (c b : Nat) (d : ReedDesc) : s.grainRow c b d ≠ [] := fun h => by
  have length := s.grainRow_length c b d
  rw [h] at length
  cases length

/-- A module without faults: no fault or failed wire of the memories. -/
structure State.Whole (s : State) : Prop where
  faults : s.faults = []
  wires : s.deadWires = []

theorem State.overBonds_self (s : State) : s.overBonds s = s := rfl

section
variable {s : State} (h : s.Whole)
include h

theorem State.Whole.clean (c : Nat) : (if (Store.fen c).isSram then s.sram.isEmpty else s.noFaults) = true := by
  simp [Store.isSram, State.noFaults, h.faults, h.wires]

theorem State.Whole.atBanks : s.atBanks = s := by
  rw [State.atBanks, ← h.wires]

theorem State.Whole.reedStore (c b row : Nat) {bs : List Byte} (hb : bs ≠ []) : s.reedStore c b row bs = s.coreWrite c (.fen c) (rowOffset b row) bs := by
  rw [State.reedStore, h.atBanks, State.overBonds, State.coreWrite_clean (h.clean c) c _ hb]

theorem State.Whole.reedRow {c : Nat} (hu : (s.core c).unseen = []) (b row : Nat) (d : ReedDesc) :
    s.reedRow c b row d = (some (s.rawBytes (.fen c) (rowOffset b row) 2048), s) := by
  have read := State.readMem_clean (h.clean c) (rowOffset b row) 2048
  have seen := State.unitSees_all hu (.fen c) (rowOffset b row) (s.rawBytes (.fen c) (rowOffset b row) 2048)
  unfold State.reedRow
  simp only [h.atBanks, read, List.foldl_nil, State.overBonds_self, seen, Bool.false_eq_true, if_false]

/-- The reed's latch after it has read what the row is made from. -/
def State.grainLatched (s : State) (c b : Nat) (d : ReedDesc) : State :=
  if d.op = 6 then s else s.modCore c fun k => k.setLatch b (s.grainRow c b d)

/-- The one row of INIT or COPY. -/
theorem State.Whole.rowGrain {c : Nat} (hu : (s.core c).unseen = []) {d : ReedDesc} (ho : d.op = 6 ∨ d.op = 4) (b : Nat) :
    s.rowGrain c b d 0 = (.done 1, (s.grainLatched c b d).coreWrite c (.fen c) (rowOffset b d.rowD) (s.grainRow c b d)) := by
  have latched : (s.grainLatched c b d).Whole := by
    unfold State.grainLatched
    split
    · exact h
    · exact ⟨h.faults, h.wires⟩
  rw [← latched.reedStore c b d.rowD (s.grainRow_ne_nil c b d)]
  obtain ho | ho := ho
  · simp only [State.rowGrain, State.grainLatched, State.grainRow, ho, if_true, Nat.add_zero, Nat.zero_add]
  · have h6 : ¬d.op = 6 := by omega
    have h10 : ¬d.op = 10 := by omega
    simp only [State.rowGrain, h.reedRow hu, State.grainLatched, State.grainRow, if_neg h6, if_neg h10, Nat.add_zero, Nat.zero_add]
    simp only [ho]

end

/-! ### The state after the row is written -/

theorem State.reedQueue_modCore (s : State) (c : Nat) (f : Core → Core) : (s.modCore c f).reedQueue c = (f (s.core c)).rq := by
  rw [State.reedQueue, State.modCore, State.core_set_same]

/-- The bytes of a row are stored in a slice, and nothing waits that did not wait before. -/
structure State.RowWritten (s t : State) (c off : Nat) (bs : List Byte) : Prop where
  lone : t.Lone c
  queue : t.reedQueue c = s.reedQueue c
  mem : t.mem = (s.rawWrite (.fen c) off bs).mem
  spares : t.rowSpares = s.rowSpares
  phase : t.phase = s.phase

section
variable {s : State} {c : Nat} (h : s.Lone c) (hw : s.Whole)
include h hw

theorem State.Lone.coreWrite (off : Nat) {bs : List Byte} (hb : bs ≠ []) : s.RowWritten (s.coreWrite c (.fen c) off bs) c off bs where
  lone := by
    have noted (p : Nat) : ((s.noteWrite p (.fen c) off bs.length).rawWrite (.fen c) off bs).Lone c := by
      rw [State.noteWrite_eq]
      exact h.congr rfl rfl rfl rfl rfl
    rw [State.coreWrite, State.planWrite_clean (hw.clean c) _ off hb, State.unitWrote]
    split
    · exact (noted _).modCore rfl
    · exact noted _
  queue := State.coreWrite_reedQueue (hw.clean c) c off hb
  mem := State.coreWrite_mem (hw.clean c) c off hb
  spares := by rw [State.coreWrite_clean (hw.clean c) c off hb]
  phase := by rw [State.coreWrite_clean (hw.clean c) c off hb]

/-- The grain of INIT or COPY writes its row. -/
theorem State.Lone.rowGrain (hu : (s.core c).unseen = []) {d : ReedDesc} (ho : d.op = 6 ∨ d.op = 4) (b : Nat) :
    (s.rowGrain c b d 0).1 = .done 1 ∧ s.RowWritten (s.rowGrain c b d 0).2 c (rowOffset b d.rowD) (s.grainRow c b d) := by
  rw [hw.rowGrain hu ho]
  refine ⟨rfl, ?_⟩
  unfold State.grainLatched
  split
  · exact h.coreWrite hw _ (s.grainRow_ne_nil c b d)
  · have latched : (s.modCore c fun k => k.setLatch b (s.grainRow c b d)).Lone c := h.modCore rfl
    have written := latched.coreWrite ⟨hw.faults, hw.wires⟩ (rowOffset b d.rowD) (s.grainRow_ne_nil c b d)
    exact ⟨written.lone, written.queue.trans (State.reedQueue_modCore ..), written.mem.trans (State.rawWrite_mem_congr rfl rfl ..), written.spares, written.phase⟩

end

/-! ### The boundary of the last grain -/

/-- The module at the last boundary of a descriptor on a bank, its effect made: the bank is free and the descriptor has no grain left there. -/
def State.grainLeft (s : State) (c b num : Nat) (k : Core) : State :=
  (((s.backAt c k).bump .REED_STATS_GRAINS c 1).modCore c fun k => k.reedMove num b none).put .FEN_BANK_CTL_GRAIN (ix2 128 c b) 0

/-- A descriptor with no grain left ends, and idle banks refresh. -/
def State.reedOver (s : State) (c num : Nat) : State :=
  if (s.core c).rq.any fun x => x.num == num && x.left.isEmpty then (s.reedEnd c num).refreshIdle else s

theorem State.reedBoundary_last {s y : State} {c b num : Nat} {w : List Word} (h : (ReedDesc.of w).op ≠ 1 ∧ (ReedDesc.of w).op ≠ 5) (hl : (ReedDesc.of w).length = 1)
    (hr : (s.atUnit c 2 (w.drop 6)).rowGrain c b (ReedDesc.of w) 0 = (.done 1, y)) :
    s.reedBoundary c b ⟨num, w, true, [(b, 0)], false⟩ = (((y.grainLeft c b num (s.core c)).servBank c [b]).reedOver c num).reedPass 17 c := by
  obtain ⟨h1, h5⟩ := h
  simp [State.reedBoundary, State.setGrain, h1, h5, hr, hl, State.grainLeft, State.reedOver]

theorem State.Refreshed.on {s t : State} (h : s.Refreshed t) (i : Nat) : t.on .FEN_BANK_CTL_GRAIN i = s.on .FEN_BANK_CTL_GRAIN i :=
  congrArg (· == 1) (h.kept .FEN_BANK_CTL_GRAIN i (by decide) (by decide))

theorem State.Refreshed.reedQueue {s t : State} (h : s.Refreshed t) (c : Nat) : t.reedQueue c = s.reedQueue c := by rw [h.frame]; rfl

theorem State.Refreshed.mem {s t : State} (h : s.Refreshed t) : t.mem = s.mem := by rw [h.frame]

theorem State.Refreshed.spares {s t : State} (h : s.Refreshed t) : t.rowSpares = s.rowSpares := by rw [h.frame]

section
variable {s : State} {c b num : Nat} {w : List Word}

theorem State.Lone.grainLeft (h : s.Lone c) (b num : Nat) (k : Core) : (s.grainLeft c b num k).Lone c := by
  have back : (s.backAt c k).Lone c := h.modCore rfl
  have counted := back.put .REED_STATS_GRAINS c (saturate Fld.REED_STATS_GRAINS.width ((s.backAt c k).get .REED_STATS_GRAINS c + 1))
  have moved := counted.modCore (f := fun k => k.reedMove num b none) rfl
  exact moved.put ..

theorem State.grainLeft_queue (hq : s.reedQueue c = [⟨num, w, true, [(b, 0)], false⟩]) (k : Core) :
    (s.grainLeft c b num k).reedQueue c = [⟨num, w, true, [], false⟩] := by
  have left : (s.backAt c k).reedQueue c = [⟨num, w, true, [(b, 0)], false⟩] := (State.reedQueue_modCore ..).trans hq
  have moved : (s.grainLeft c b num k).reedQueue c = (((s.backAt c k).core c).reedMove num b none).rq :=
    State.reedQueue_modCore ((s.backAt c k).bump .REED_STATS_GRAINS c 1) c fun k => k.reedMove num b none
  rw [moved, Core.reedMove, show ((s.backAt c k).core c).rq = _ from left]
  simp

theorem State.grainLeft_free (s : State) (c b num : Nat) (k : Core) : (s.grainLeft c b num k).on .FEN_BANK_CTL_GRAIN (ix2 128 c b) = false := by
  rw [State.grainLeft, State.on, State.get_put_same]
  rfl

/-- A descriptor alone in the queue, with no grain left, ends. -/
theorem State.Lone.reedOver (h : s.Lone c) (hq : s.reedQueue c = [⟨num, w, true, [], false⟩]) :
    (s.reedOver c num).reedQueue c = [] ∧ (∀ i, (s.reedOver c num).on .FEN_BANK_CTL_GRAIN i = s.on .FEN_BANK_CTL_GRAIN i) ∧ (s.reedOver c num).mem = s.mem ∧
      (s.reedOver c num).rowSpares = s.rowSpares := by
  have queue : (s.core c).rq = [⟨num, w, true, [], false⟩] := hq
  have ends : s.reedOver c num = (s.reedEnd c num).refreshIdle := if_pos (by rw [queue]; simp)
  have ended := s.reedEnd_idle h.cmds c num
  have refreshed := (s.reedEnd c num).refreshIdle_refreshed
  rw [ends]
  refine ⟨(refreshed.reedQueue c).trans (State.reedEnd_queue h.cmds c hq), fun i => (refreshed.on i).trans ?_, refreshed.mem.trans (State.reedEnd_mem h.cmds c num),
    refreshed.spares.trans ?_⟩
  · rw [ended]; rfl
  · rw [ended]; rfl

/-- The last grain of INIT or COPY writes the row, frees the bank and ends its descriptor. -/
theorem State.Lone.grainBoundary_last (h : s.Lone c) (hw : s.Whole) (hu : (s.core c).unseen = []) (hq : s.reedQueue c = [⟨num, w, true, [(b, 0)], false⟩])
    (hg : s.on .FEN_BANK_CTL_GRAIN (ix2 128 c b) = true) (hl : s.inLull = false) (h1 : (ReedDesc.of w).length = 1)
    (ho : (ReedDesc.of w).op = 6 ∨ (ReedDesc.of w).op = 4) :
    (grainBoundary c b s).reedQueue c = [] ∧ (grainBoundary c b s).on .FEN_BANK_CTL_GRAIN (ix2 128 c b) = false ∧
      (grainBoundary c b s).mem = (s.rawWrite (.fen c) (rowOffset b (ReedDesc.of w).rowD) (s.grainRow c b (ReedDesc.of w))).mem ∧
      (grainBoundary c b s).rowSpares = s.rowSpares := by
  have queue : (s.core c).rq = [⟨num, w, true, [(b, 0)], false⟩] := hq
  have boundary : grainBoundary c b s = s.reedBoundary c b ⟨num, w, true, [(b, 0)], false⟩ := by
    simp [grainBoundary, hg, queue]
  have atWork : (s.atUnit c 2 (w.drop 6)).Lone c := h.modCore rfl
  have seen : ((s.atUnit c 2 (w.drop 6)).core c).unseen = [] := by rw [State.atUnit, State.modCore, State.core_set_same]; exact hu
  obtain ⟨done, written⟩ := atWork.rowGrain ⟨hw.faults, hw.wires⟩ seen ho b
  generalize hy : (s.atUnit c 2 (w.drop 6)).rowGrain c b (ReedDesc.of w) 0 = r at done written
  obtain ⟨res, y⟩ := r
  subst done
  have calm : (y.grainLeft c b num (s.core c)).inLull = false := (congrArg (· != 0) written.phase).trans hl
  have left := written.lone.grainLeft b num (s.core c)
  have entry := State.grainLeft_queue (written.queue.trans ((State.reedQueue_modCore ..).trans queue)) (s.core c)
  have served := left.servBank calm b
  obtain ⟨ended, grain, mem, spares⟩ := (served.lone left).reedOver ((served.reedQueue c).trans entry)
  rw [boundary, State.reedBoundary_last (by omega) h1 hy, State.reedPass_stops (Core.nextReed_none (by rw [show (State.core _ c).rq = [] from ended]; simp))]
  refine ⟨ended, (grain _).trans ((served.on _).trans (State.grainLeft_free ..)), mem.trans (served.mem.trans (written.mem.trans ?_)),
    spares.trans (served.spares.trans written.spares)⟩
  rw [State.grainRow_congr (s := s) (t := s.atUnit c 2 (w.drop 6)) rfl rfl]
  exact State.rawWrite_mem_congr (s := s) (t := s.atUnit c 2 (w.drop 6)) rfl rfl ..

end

end Sys2Proof.Machine
end

section
/-!
PROOFS. What an issued reed descriptor does at idle reeds, and the statement O56.
-/
namespace Sys2Proof.Machine

/-! ### What a valid descriptor says (R138, R140) -/

/-- The words behind a descriptor's own six are not part of it. -/
theorem ReedDesc.of_issued (w0 w1 w2 w3 w4 w5 : Word) (l : List Word) : ReedDesc.of ([w0, w1, w2, w3, w4, w5] ++ l) = ReedDesc.of [w0, w1, w2, w3, w4, w5] := rfl

theorem ReedDesc.act_le (w : List Word) : (ReedDesc.of w).act ≤ 1 := Nat.le_of_lt_succ (Nat.mod_lt _ (by decide))

theorem ReedDesc.mask_lt (w : List Word) : (ReedDesc.of w).mask < 2 ^ 128 := by
  have low := (wordAt w 1).isLt
  have high := (wordAt w 2).isLt
  change (wordAt w 1).toNat + placed (wordAt w 2).toNat 64 < 2 ^ 128
  unfold placed
  omega

/-- A mask that names a bank has a bank in its list. -/
theorem setBits_ne_nil {n v : Nat} (hv : v < 2 ^ n) (h : v ≠ 0) : setBits n v ≠ [] := by
  obtain ⟨k, hk⟩ := Nat.exists_testBit_of_ne_zero h
  have bit : bitOf v k = true := by rw [bitOf, ← Nat.testBit_eq_decide_div_mod_eq, hk]
  have below : k < n := Nat.lt_of_not_le fun hn => by
    rw [Nat.testBit_lt_two_pow (Nat.lt_of_lt_of_le hv (Nat.pow_le_pow_right (by decide) hn))] at hk
    exact Bool.false_ne_true hk
  exact List.ne_nil_of_mem (List.mem_filter.2 ⟨List.mem_range.2 below, bit⟩)

section
variable {d : ReedDesc} {w : List Word} (hv : d.valid w = true)
include hv

theorem ReedDesc.valid_mask : d.mask ≠ 0 := by
  simp only [ReedDesc.valid, Bool.and_eq_true, bne_iff_ne] at hv
  tauto

theorem ReedDesc.valid_count (ho : d.op ≠ 2) : d.count ≠ 0 := by
  simp only [ReedDesc.valid, Bool.and_eq_true, Bool.or_eq_true, beq_iff_eq, bne_iff_ne] at hv
  tauto

theorem ReedDesc.valid_elems (ho : d.op = 2) : d.elems ≤ 2048 := by
  simp only [ReedDesc.valid, ho, Bool.and_eq_true, decide_eq_true_eq] at hv
  tauto

end

theorem Core.gathered_ne_nil {w : List Word} (hv : (ReedDesc.of w).valid w = true) (ho : (ReedDesc.of w).op ≠ 2) (k : Core) : k.gathered (ReedDesc.of w) ≠ [] := by
  have entries := Nat.pos_of_ne_zero (ReedDesc.valid_count hv ho)
  have banks := List.length_pos_iff.2 (setBits_ne_nil (ReedDesc.mask_lt w) (ReedDesc.valid_mask hv))
  refine List.length_pos_iff.1 ?_
  rw [Core.gathered_length]
  exact Nat.mul_pos (Nat.mul_pos (by decide) entries) banks

/-! ### Issues at idle reeds -/

section
variable {s : State} {c : Nat} {w : List Word} (hd : ReedDesc.of (w ++ s.issueWords c) = ReedDesc.of w) (he : s.inForce .REED_CTL_ENABLE c ≠ 0)
  (hv : (ReedDesc.of w).valid w = true) (hr : s.reedRetired c (ReedDesc.of w) = none) (hi : (s.core c).ReedsIdle) (hl : s.inLull = false)
include hd he hv hr hi hl

/-- A bank operation is at work and holds the banks of its mask. -/
theorem reedIssue_bank (h2 : (ReedDesc.of w).op ≠ 2) (h3 : (ReedDesc.of w).op ≠ 3) :
    (reedIssue c w s).reedQueue c = [⟨(s.core c).rseq, w ++ s.issueWords c, true, (ReedDesc.of w).banks.map fun b => (b, 0), false⟩] ∧
      (∀ b ∈ (ReedDesc.of w).banks, (reedIssue c w s).on .FEN_BANK_CTL_GRAIN (ix2 128 c b) = true) ∧ (reedIssue c w s).mem = s.mem := by
  have alone : ((s.reedQueued c w).core c).rq = [s.reedEntry c w] := by rw [State.reedQueued_core hi]
  rw [← hd] at h2 h3
  have begun := State.reedStart_bank_queue (s.reedQueued c w) c (s.reedEntry c w) alone h2 h3
  have queue : (s.reedEntry c w).begun = ⟨(s.core c).rseq, w ++ s.issueWords c, true, (ReedDesc.of w).banks.map fun b => (b, 0), false⟩ := by
    rw [← hd]; rfl
  rw [reedIssue_starts he hv hr hi hl, State.reedPass_stops (Core.nextReed_none (by rw [begun]; simp [ReedOp.begun]))]
  refine ⟨begun.trans (by rw [queue]), fun b hb => ?_, State.reedStart_bank_mem (s.reedQueued c w) c (s.reedEntry c w) h2 h3⟩
  rw [← hd] at hb
  exact State.reedStart_bank_holds (s.reedQueued c w) c (s.reedEntry c w) h2 h3 hb

omit hd in
/-- A bus operation that leaves the queue empty is over once issued. -/
theorem reedIssue_bus (h : ((s.reedQueued c w).reedStart c (s.reedEntry c w)).reedQueue c = []) :
    reedIssue c w s = (s.reedQueued c w).reedStart c (s.reedEntry c w) := by
  have none : (((s.reedQueued c w).reedStart c (s.reedEntry c w)).core c).rq = [] := h
  rw [reedIssue_starts he hv hr hi hl, State.reedPass_stops (Core.nextReed_none (by rw [none]; simp))]

variable (hc : s.cmds = []) (hs : s.sram = [])
include hc hs

theorem reedIssue_bcast (hu : (s.core c).unseen = []) (ho : (ReedDesc.of w).op = 2) :
    (reedIssue c w s).reedQueue c = [] ∧ (reedIssue c w s).mem = s.mem ∧ ∀ b ∈ (ReedDesc.of w).banks, ∀ j, j < (ReedDesc.of w).elems →
      SMap.get ((reedIssue c w s).core c).act (4096 * b + 2048 * (ReedDesc.of w).act + j) none =
        some (ofBytesLE (s.rawBytes (.pool c) ((ReedDesc.of w).pool + 2 * j) 2)) := by
  have core := State.reedQueued_core hi w
  have half := ReedDesc.act_le w
  have fits := ReedDesc.valid_elems hv ho
  have desc : ReedDesc.of (s.reedEntry c w).w = ReedDesc.of w := hd
  obtain ⟨queue, mem, act⟩ := State.reedStart_bcast_alone (s := s.reedQueued c w) (c := c) (o := s.reedEntry c w) (by rw [State.reedQueue, core]) hc hs
    (by rw [core]; exact hu) (by rw [desc]; exact ho) (by rw [desc]; omega)
  rw [reedIssue_bus he hv hr hi hl queue]
  rw [desc] at act
  exact ⟨queue, mem, act⟩

theorem reedIssue_gather (ho : (ReedDesc.of w).op = 3) (hb : (ReedDesc.of w).sub = 0) :
    (reedIssue c w s).reedQueue c = [] ∧
      (reedIssue c w s).mem = (s.rawWrite (.pool c) (ReedDesc.of w).pool ((s.core c).gathered (ReedDesc.of w))).mem := by
  have core := State.reedQueued_core hi w
  have desc : ReedDesc.of (s.reedEntry c w).w = ReedDesc.of w := hd
  have entries : ((s.reedQueued c w).core c).gathered (ReedDesc.of w) = (s.core c).gathered (ReedDesc.of w) :=
    Core.gathered_congr (by rw [core]) (by rw [core]) _
  have given := Core.gathered_ne_nil hv (by omega) (s.core c)
  obtain ⟨queue, mem⟩ := State.reedStart_gather_alone (s := s.reedQueued c w) (c := c) (o := s.reedEntry c w) (by rw [State.reedQueue, core]) hc hs
    (by rw [desc]; exact ho) (by rw [desc]; exact hb) (by rw [desc, entries]; exact given)
  rw [reedIssue_bus he hv hr hi hl queue]
  rw [desc, entries] at mem
  exact ⟨queue, mem.trans (State.rawWrite_mem_congr (s := s) (t := s.reedQueued c w) rfl rfl ..)⟩

end

end Sys2Proof.Machine

namespace Sys2Proof.Proofs
open Sys2Proof Sys2Proof.Machine

/-- Settles O56: the checks refuse with a trap or let the descriptor join the queue, which starts it at idle reeds; the
last grain of a row operation writes its row, frees its bank and ends its descriptor. -/
theorem reedOperations : Obligations.ReedOperations := by
  intro c s n k hc
  have boundary (b : Fin 128) : exec (.grainBoundary c b) s = .next (grainBoundary n b.val s) := congrArg _ (State.whenClocked_on _ hc)
  refine ⟨?_, fun b hg => ?_, ?_⟩
  · intro w0 w1 w2 w3 w4 w5 w d x hx ho
    have issue : exec x.1 s = .next (reedIssue n w s) := by
      simp only [List.mem_cons, List.not_mem_nil, or_false] at hx
      rcases hx with rfl | rfl | rfl | rfl | rfl | rfl | rfl | rfl | rfl | rfl <;> exact reedRow_issues hc ho
    have op : d.op = x.2 := ho
    have hd : ReedDesc.of (w ++ s.issueWords n) = ReedDesc.of w := ReedDesc.of_issued ..
    rw [issue]
    refine ⟨fun h => ?_, fun he hv hrt => ⟨fun full => ?_, fun room lull => ?_, fun hq hrun hatt hl h2 h3 => ?_, fun hq hrun hatt hl hs hu hcm => ⟨fun h2 => ?_, fun h3 hsub => ?_⟩⟩⟩
    · obtain ⟨reason, status, refused⟩ := reedIssue_refused h
      rw [refused]
      exact ⟨_, rfl, State.trap_state .., State.trap_cause _ _ _ _ (by decide), (State.trap_reedFault ..).trans (State.reedFault_valid ..)⟩
    · rw [reedIssue_accepted he hv hrt, if_pos full]
    · rw [reedIssue_accepted he hv hrt, if_neg (Nat.not_le.2 room), State.reedPass_inLull (s := s.reedQueued n w) lull]
      rfl
    · exact ⟨_, rfl, reedIssue_bank hd he hv hrt ⟨hq, hrun, hatt⟩ hl (op ▸ h2) (op ▸ h3)⟩
    · exact ⟨_, rfl, reedIssue_bcast hd he hv hrt ⟨hq, hrun, hatt⟩ hl hcm hs hu (op.trans h2)⟩
    · obtain ⟨queue, mem⟩ := reedIssue_gather hd he hv hrt ⟨hq, hrun, hatt⟩ hl hcm hs (op.trans h3) hsub
      have length := k.gathered_length d
      refine ⟨_, rfl, queue, ?_, fun j hj => ?_⟩
      · rw [State.rawBytes_pool_congr mem, ← length]
        exact State.rawBytes_rawWrite_pool ..
      · exact (congrArg (SMap.get · j 0) mem).trans (s.rawWrite_other _ _ _ j fun i hlt => (hj i (length ▸ hlt)).symm)
  · rw [boundary, grainBoundary, hg]
    rfl
  · intro b w num d ha hr hq hg hsp hl h1 _ _ hop
    obtain ⟨queue, free, mem, spares⟩ := (ha.lone hr).grainBoundary_last ⟨ha.faults, ha.wires⟩ ha.seen hq hg hl h1 hop
    have length := s.grainRow_length n b.val d
    refine ⟨_, boundary b, queue, free, ?_, fun j hj => ?_⟩
    · have stored := State.rawBytes_rawWrite hsp (.fen n) (rowOffset b.val d.rowD) (s.grainRow n b.val d)
      have same : (s.rawWrite (.fen n) (rowOffset b.val d.rowD) (s.grainRow n b.val d)).rowSpares = s.rowSpares := by rw [State.rawWrite_eq]
      rw [length] at stored
      exact (State.rawBytes_congr mem (spares.trans same.symm) ..).trans stored
    · exact (congrArg (SMap.get · j 0) mem).trans (s.rawWrite_other _ _ _ j fun i hlt => (hj i (length ▸ hlt)).symm)

end Sys2Proof.Proofs
end


section
/-!
PROOFS. What leaves the work that waits at a core as it was: records, reads and writes of its units, traps, votes, completions (R95, R98, R116, R117, R287, R319, R325).
-/
namespace Sys2Proof.Machine

/-! ### Work that waits -/

/-- What waits at the units of a core. -/
structure UnitWork where
  aq : List (List Word)
  passDue : Option (List PassError)
  vq : List (List Word)
  rq : List ReedOp
  attq : List AttOp
  attRun : List AttOp
  kvq : List (List Word)
  netq : List (Nat × List Word)

def Core.work (k : Core) : UnitWork := ⟨k.aq, k.passDue, k.vq, k.rq, k.attq, k.attRun, k.kvq, k.netq⟩

/-- Memories without errors: no fault of a transfer, no failed bond or wire, no pattern in a SECDED word. -/
def State.Spotless (s : State) : Prop := s.faults = [] ∧ s.deadWires = [] ∧ s.sram = []

/-- The same work waits at core `n`, and outside the cores; no other core than `n` has come to be listed, and memories without errors are still without. -/
structure State.WorkKept (s t : State) (n : Nat) : Prop where
  work : (t.core n).work = (s.core n).work
  site : (s.cores = [] ∨ ∃ k, s.cores = [(n, k)]) → t.cores = [] ∨ ∃ k, t.cores = [(n, k)]
  clean : s.Spotless → t.Spotless
  others : (t.cmds, t.engines, t.atomHeld, t.xniIn) = (s.cmds, s.engines, s.atomHeld, s.xniIn)

theorem State.WorkKept.refl (s : State) (n : Nat) : s.WorkKept s n := ⟨rfl, id, id, rfl⟩

theorem State.WorkKept.trans {s t u : State} {n : Nat} (h1 : s.WorkKept t n) (h2 : t.WorkKept u n) : s.WorkKept u n :=
  ⟨h2.work.trans h1.work, h2.site ∘ h1.site, h2.clean ∘ h1.clean, h2.others.trans h1.others⟩

/-- What every round of a loop keeps, the loop keeps; `g` gives the state of a round's result. -/
theorem State.WorkKept.foldlOf {α β : Type} {n : Nat} (g : β → State) {f : β → α → β} (hf : ∀ b x, (g b).WorkKept (g (f b x)) n) (l : List α) (b : β) :
    (g b).WorkKept (g (l.foldl f b)) n := by
  induction l generalizing b with
  | nil => exact .refl _ n
  | cons x r ih => exact (hf b x).trans (ih _)

theorem State.WorkKept.foldl {α : Type} {n : Nat} {f : State → α → State} (hf : ∀ (t : State) x, t.WorkKept (f t x) n) (l : List α) (s : State) : s.WorkKept (l.foldl f s) n :=
  .foldlOf (fun t => t) hf l s

section
variable (s : State) (n : Nat)

theorem State.put_workKept (f : Fld) (i v : Nat) : s.WorkKept (s.put f i v) n := ⟨rfl, id, id, rfl⟩

theorem State.bump_workKept (f : Fld) (i v : Nat) : s.WorkKept (s.bump f i v) n := ⟨rfl, id, id, rfl⟩

theorem State.puts_workKept (i : Nat) (fs : List (Fld × Nat)) : s.WorkKept (s.puts i fs) n := by
  rw [State.puts_eq]
  exact ⟨rfl, id, id, rfl⟩

theorem State.raise_workKept (f : Fld) (i v : Nat) : s.WorkKept (s.raise f i v) n := by
  unfold State.raise
  split
  · exact s.put_workKept ..
  · exact .refl ..

theorem State.modPart_workKept (p : Nat) (f : Part → Part) : s.WorkKept (s.modPart p f) n := ⟨rfl, id, id, rfl⟩

/-- Core `n` with the same work. -/
theorem State.modCore_workKept {f : Core → Core} (h : (f (s.core n)).work = (s.core n).work) : s.WorkKept (s.modCore n f) n where
  work := by rw [State.modCore, State.core_set_same, h]
  site := fun one => SMap.set_alone one _ _
  clean := id
  others := rfl

theorem State.WorkKept.modCore {s t : State} {n : Nat} {f : Core → Core} (h : s.WorkKept t n) (hf : (f (t.core n)).work = (t.core n).work) : s.WorkKept (t.modCore n f) n :=
  h.trans (t.modCore_workKept n hf)

theorem State.flagPart_workKept (p cause status : Nat) : s.WorkKept (s.flagPart p cause status) n := by
  rw [State.flagPart_eq]
  exact ⟨rfl, id, id, rfl⟩

theorem State.flagDie_workKept (d cause status : Nat) : s.WorkKept (s.flagDie d cause status) n := by
  unfold State.flagDie
  split
  · exact s.flagPart_workKept ..
  · exact .refl ..

theorem State.numFlags_workKept (c mask : Nat) : s.WorkKept (s.numFlags c mask) n := by
  refine .foldl (fun t f => ?_) _ s
  split
  · exact t.put_workKept ..
  · exact .refl ..

/-! ### Memory -/

/-- Only the core whose pool is written can lose a reservation, and a core without one is as it was. -/
theorem State.breakResv_workKept (st : Store) (off m : Nat) : s.WorkKept (s.breakResv st off m) n := by
  unfold State.breakResv
  split
  · next c =>
    split
    · next a k hr =>
      split
      · refine ⟨?_, fun one => ?_, id, rfl⟩
        · by_cases hc : n = c
          · rw [hc, State.modCore, State.core_set_same]; rfl
          · rw [State.modCore, State.core_set_other _ _ hc]
        · have hc : c = n := by
            by_contra hc
            have fresh : s.core c = Core.fresh := by
              obtain none | ⟨k, one⟩ := one
              · rw [State.core, none]; rfl
              · rw [State.core, one]; exact if_neg (Ne.symm hc)
            rw [fresh] at hr
            cases hr
          subst hc
          exact SMap.set_alone one _ _
      · exact .refl ..
    · exact .refl ..
  · exact .refl ..

theorem State.rawWrite_workKept (st : Store) (off : Nat) (bs : List Byte) : s.WorkKept (s.rawWrite st off bs) n :=
  State.WorkKept.trans (t := { s with mem := bs.zipIdx.foldl (fun m e => SMap.set m (s.physKey st (off + e.2)) e.1 0) s.mem }) ⟨rfl, id, id, rfl⟩
    (State.breakResv_workKept ..)

theorem State.CountsOnly.workKept {s t : State} (h : s.CountsOnly t) (hc : s.Spotless → t.Spotless) : s.WorkKept t n := by
  rw [h] at hc ⊢
  exact ⟨rfl, id, hc, rfl⟩

theorem State.Spotless.clean {s : State} (h : s.Spotless) (st : Store) : (if st.isSram then s.sram.isEmpty else s.noFaults) = true :=
  State.clean_of_noFaults h.1 h.2.1 h.2.2 st

theorem State.readMem_workKept (st : Store) (off m : Nat) : s.WorkKept (s.readMem st off m).st n :=
  (s.readMem_counts st off m).workKept n fun h => by rw [State.readMem_clean (h.clean st)]; exact h

theorem State.wireDamage_noWires {s : State} (h : s.deadWires = []) (st : Store) (off : Nat) : s.wireDamage st off = (0, s) := by
  have symbols : s.deadSymbols st off = [] := by
    unfold State.deadSymbols
    split <;> simp [h]
  rw [State.wireDamage, symbols]
  rfl

/-- New codes for a unit of memories without errors. -/
theorem State.recode_spotless {s : State} (h : s.Spotless) (st : Store) (t : Nat) : (s.recode st t).Spotless := by
  obtain ⟨faults, wires, sram⟩ := h
  have laid (u : State) (off k : Nat) (hf : u.faults = []) (hw : u.deadWires = []) (hs : u.sram = []) : (u.layDamage st off k).Spotless := by
    rw [State.layDamage, State.wireDamage_noWires hw]
    refine ⟨?_, hw, hs⟩
    change SMap.set u.faults k { SMap.get u.faults k MemFault.clean with slicePat := (SMap.get u.faults k MemFault.clean).slicePat ^^^ 0 } MemFault.clean = []
    rw [hf, Nat.xor_zero]
    exact SMap.set_nil k MemFault.clean
  unfold State.recode
  split
  · exact ⟨faults, wires, (congrArg (SMap.set · _ 0 0) sram).trans (SMap.set_nil ..)⟩
  · have cleared : ({ s with faults := SMap.set s.faults (s.physKey st (64 * t) / 64) MemFault.clean MemFault.clean } : State).faults = [] := by
      dsimp only
      rw [faults]
      exact SMap.set_nil ..
    have written : State.Spotless (State.layDamage (if (SMap.get s.faults (s.physKey st (64 * t) / 64) MemFault.clean).cells then s
        else { s with faults := SMap.set s.faults (s.physKey st (64 * t) / 64) MemFault.clean MemFault.clean }) st (64 * t) (s.physKey st (64 * t) / 64)) := by
      split
      · exact laid _ _ _ faults wires sram
      · exact laid _ _ _ cleared wires sram
    unfold State.clearFault
    dsimp only
    generalize State.layDamage _ st (64 * t) (s.physKey st (64 * t) / 64) = u at written ⊢
    split
    · split
      · exact written
      · exact written
    · exact written

theorem State.recode_workKept (st : Store) (t : Nat) : s.WorkKept (s.recode st t) n :=
  (s.recode_counts st t).workKept n fun h => State.recode_spotless h st t

theorem writeUnit_workKept (st : Store) (r : WriteRes) (e : Nat × List Byte) : r.st.WorkKept (writeUnit st r e).st n := by
  unfold writeUnit
  dsimp only
  split
  · exact .refl ..
  · split
    · exact (State.recode_workKept ..).trans (State.rawWrite_workKept ..)
    · split
      · exact State.readMem_workKept ..
      · exact (State.readMem_workKept ..).trans ((State.recode_workKept ..).trans (State.rawWrite_workKept ..))

theorem State.writeMem_workKept (st : Store) (off : Nat) (bs : List Byte) : s.WorkKept (s.writeMem st off bs).st n := by
  unfold State.writeMem
  generalize (if st.isSram = true then s.sram.isEmpty else s.noFaults) = clean
  split
  · exact .refl ..
  · split
    · exact s.rawWrite_workKept ..
    · exact .foldlOf WriteRes.st (writeUnit_workKept n st) (unitPieces st.unit off bs) ⟨s, none, []⟩

/-! ### Records and completions -/

theorem State.busWrite_workKept (device : Bool) (a : Nat) (bs : List Byte) : s.WorkKept (s.busWrite device a bs).1 n := by
  unfold State.busWrite
  dsimp only
  split
  · split
    · split
      · exact .refl ..
      · exact s.writeMem_workKept ..
    · exact .refl ..
  · split
    · exact ⟨rfl, id, id, rfl⟩
    · exact .refl ..

theorem State.fire_workKept (f v : Nat) : s.WorkKept (s.fire f v) n := by
  unfold State.fire
  split
  · exact ⟨rfl, id, id, rfl⟩
  · exact .refl ..

theorem State.logInterrupt_workKept (f : Nat) : s.WorkKept (s.logInterrupt f) n := by
  unfold State.logInterrupt
  split
  · exact s.fire_workKept ..
  · split
    · exact ⟨rfl, id, id, rfl⟩
    · exact (s.fire_workKept n f _).trans ⟨rfl, id, id, rfl⟩

theorem State.logDrop_workKept (f : Nat) : s.WorkKept (s.logDrop f) n := ⟨rfl, id, id, rfl⟩

theorem State.logWrite_workKept (f : Nat) (ws : List Word) : s.WorkKept (s.logWrite f ws) n := by
  have seq (t : State) (a : SMap Nat) (b : SMap Bool) : t.WorkKept { t with logSeq := a, logLost := b } n := ⟨rfl, id, id, rfl⟩
  unfold State.logWrite
  split
  · exact s.logDrop_workKept ..
  · dsimp only
    split
    · exact (State.busWrite_workKept ..).trans (State.logDrop_workKept ..)
    · refine .trans ?_ (State.logInterrupt_workKept _ n f)
      refine .trans ?_ (seq _ _ _)
      exact ((State.busWrite_workKept ..).trans (State.put_workKept ..)).trans (State.put_workKept ..)

theorem State.event_workKept (r : Rec) : s.WorkKept (s.event r) n := by
  have pf (t : State) (ws : List Word) : t.WorkKept (if t.pfLogOpened || t.on .EVT_LOG_CTL_ENABLE 0 then t.logWrite 0 ws
      else if t.heldRecs.length < 1024 then { t with heldRecs := t.heldRecs ++ [ws] } else t.logDrop 0) n := by
    split
    · exact t.logWrite_workKept ..
    · split
      · exact ⟨rfl, id, id, rfl⟩
      · exact t.logDrop_workKept ..
  have vf (t : State) (v : Nat) (ws : List Word) : t.WorkKept (if v = 0 then t else t.logWrite v ws) n := by
    split
    · exact .refl ..
    · exact t.logWrite_workKept ..
  have free : s.WorkKept s.free.2 n := ⟨rfl, id, id, rfl⟩
  have both (v : Nat) (ws : List Word) := (free.trans (pf s.free.2 ws)).trans (vf _ v ws)
  unfold State.event
  dsimp only
  split
  · exact (both _ _).trans ⟨rfl, id, id, rfl⟩
  · exact both _ _

theorem State.eccEventOf_workKept (who : Nat) (e : EccNote) : s.WorkKept (s.eccEventOf who e) n := by
  unfold State.eccEventOf
  split <;> exact s.event_workKept ..

theorem State.eccEvents_workKept (es : List EccNote) : s.WorkKept (s.eccEvents es) n := .foldl (fun t e => t.eccEventOf_workKept n 0 e) es s

theorem State.voteOutcome_workKept (p kind index : Nat) (known repaired : Bool) : s.WorkKept (s.voteOutcome p kind index known repaired) n := by
  unfold State.voteOutcome
  split
  · exact (s.bump_workKept ..).trans (State.event_workKept ..)
  · split
    · exact (s.bump_workKept ..).trans (State.event_workKept ..)
    · exact .refl ..

theorem State.setRing_workKept (r : Nat) (v : Ring) : s.WorkKept (s.setRing r v) n := ⟨rfl, id, id, rfl⟩

theorem State.coalesce_workKept (r : Nat) (intr : Bool) : s.WorkKept (s.coalesce r intr) n := by
  unfold State.coalesce
  dsimp only
  split
  · exact (s.setRing_workKept ..).trans (State.fire_workKept ..)
  · exact s.setRing_workKept ..

theorem State.ringError_workKept (r kind a : Nat) : s.WorkKept (s.ringError r kind a) n := by
  unfold State.ringError
  refine .trans ?_ (State.event_workKept _ n _)
  exact ((s.put_workKept ..).trans (State.put_workKept ..)).trans (State.setRing_workKept ..)

theorem State.writeComp_workKept (c : Comp) : s.WorkKept (s.writeComp c) n := by
  unfold State.writeComp
  dsimp only
  split
  · exact .refl ..
  · split
    · exact (State.busWrite_workKept ..).trans (State.ringError_workKept ..)
    · exact (State.busWrite_workKept ..).trans ((State.setRing_workKept ..).trans (State.coalesce_workKept ..))

theorem State.complete_workKept (q : Req) (discard : Bool) (status gust r0 r1 : Nat) : s.WorkKept (s.complete q discard status gust r0 r1) n := by
  unfold State.complete
  split
  · exact .refl ..
  · unfold State.postComp
    dsimp only
    split
    · exact s.setRing_workKept ..
    · exact s.writeComp_workKept ..

/-! ### Reads, writes and traps of a core's units -/

theorem State.store_workKept (st : Store) (off : Nat) (bs : List Byte) : s.WorkKept (s.store st off bs).1 n :=
  (s.writeMem_workKept n st off bs).trans (State.eccEvents_workKept ..)

theorem State.defined_workKept (st : Store) (off : Nat) (bs : List Byte) : s.WorkKept (s.defined st off bs).2 n := by
  unfold State.defined
  split
  · exact ⟨rfl, id, id, rfl⟩
  · exact .refl ..

theorem State.unitSees_workKept (c : Nat) (st : Store) (off : Nat) (bs : List Byte) : s.WorkKept (s.unitSees c st off bs).2 n := by
  unfold State.unitSees
  dsimp only
  split
  · exact .refl ..
  · exact ⟨rfl, id, id, rfl⟩

theorem State.planRead_workKept (p : Nat) (st : Store) (off m : Nat) : s.WorkKept (s.planRead p st off m).2 n := by
  have read := (s.readMem_workKept n st off m).trans ((s.readMem st off m).st.eccEvents_workKept n (s.readMem st off m).notes)
  unfold State.planRead
  dsimp only
  split
  · exact read.trans (State.flagPart_workKept ..)
  · exact read.trans (State.defined_workKept ..)

theorem State.coreRead_workKept (c : Nat) (st : Store) (off m : Nat) : s.WorkKept (s.coreRead c st off m).2 n := by
  have read := s.planRead_workKept n (s.diePart (dieOf c)) st off m
  unfold State.coreRead
  generalize s.planRead (s.diePart (dieOf c)) st off m = r at read ⊢
  obtain ⟨_ | bs, t⟩ := r
  · exact read
  · exact read.trans (t.unitSees_workKept ..)

theorem State.unitWrote_workKept (st : Store) (off m : Nat) : s.WorkKept (s.unitWrote n st off m) n := by
  unfold State.unitWrote
  split
  · exact s.modCore_workKept n rfl
  · exact .refl ..

theorem State.noteWrite_workKept (p : Nat) (st : Store) (off m : Nat) : s.WorkKept (s.noteWrite p st off m) n := by
  rw [State.noteWrite_eq]
  exact ⟨rfl, id, id, rfl⟩

theorem State.coreWrite_workKept (st : Store) (off : Nat) (bs : List Byte) : s.WorkKept (s.coreWrite n st off bs) n := by
  have stored (p : Nat) := (s.noteWrite_workKept n p st off bs.length).trans (State.store_workKept _ n st off bs)
  unfold State.coreWrite State.planWrite
  dsimp only
  split
  · exact ((stored _).trans (State.flagPart_workKept ..)).trans (State.unitWrote_workKept ..)
  · exact (stored _).trans (State.unitWrote_workKept ..)

theorem State.readRanges_workKept (c : Nat) (rs : List (Store × Nat × Nat)) : s.WorkKept (s.readRanges c rs).2 n := by
  refine .foldlOf (Prod.snd : RangeRes × State → State) (fun r x => ?_) rs (.data [], s)
  obtain ⟨data, t⟩ := r
  cases data with
  | data bs =>
    have read := t.coreRead_workKept n c x.1 x.2.1 x.2.2
    dsimp only
    split
    · exact .refl ..
    · generalize t.coreRead c x.1 x.2.1 x.2.2 = r at read ⊢
      obtain ⟨_ | b, u⟩ := r
      · exact read
      · exact read
  | bad => exact .refl ..
  | access => exact .refl ..

theorem State.trap_workKept (cause tag status : Nat) : s.WorkKept (s.trap n cause tag status) n :=
  ((State.event_workKept s n _).trans (State.modCore_workKept _ n rfl)).trans (((State.put_workKept ..).trans (State.put_workKept ..)).trans (State.put_workKept ..))

theorem State.atUnit_workKept (unit : Nat) (issued : List Word) : s.WorkKept (s.atUnit n unit issued) n := s.modCore_workKept n rfl

theorem State.backAt_workKept (k : Core) : s.WorkKept (s.backAt n k) n := s.modCore_workKept n rfl

end
end Sys2Proof.Machine
end

section
/-!
PROOFS. What the walker, the peat's reads and the pairs of an APPEND leave of the work that waits at their core (R176, R181, R183 to R189, R211, R221 to R227).
-/
namespace Sys2Proof.Machine

section
variable (s : State) (n : Nat)

/-! ### Metered work (R211) -/

theorem State.metering_workKept (m : Option Meter) : s.WorkKept { s with metering := m } n := ⟨rfl, id, id, rfl⟩

theorem State.metre_workKept (src : Option Nat) (st : Store) (off m : Nat) : s.WorkKept (s.metre src st off m) n := by
  unfold State.metre State.metreAs
  split
  · exact .refl ..
  · exact s.metering_workKept ..

theorem State.metreRes_workKept (res m : Nat) : s.WorkKept (s.metreRes res m) n := by
  unfold State.metreRes
  split
  · exact .refl ..
  · exact s.metering_workKept ..

theorem State.metreBlock_workKept : s.WorkKept s.metreBlock n := by
  unfold State.metreBlock
  split
  · exact .refl ..
  · exact s.metering_workKept ..

/-- Charging requests writes regulators and partitions. -/
theorem State.chargeAll_eq (p : Nat) (uses charges : List (Nat × Nat)) :
    s.chargeAll p uses charges = { s with parts := (s.chargeAll p uses charges).parts, regs := (s.chargeAll p uses charges).regs } := by
  have used (l : List Nat) (t : State) : l.foldl (fun t b => t.bgCharge p b (usesOf uses b)) t =
      { t with parts := (l.foldl (fun t b => t.bgCharge p b (usesOf uses b)) t).parts } := by
    induction l generalizing t with
    | nil => rfl
    | cons b r ih =>
      have one : t.bgCharge p b (usesOf uses b) = { t with parts := (t.bgCharge p b (usesOf uses b)).parts } := by
        unfold State.bgCharge
        split <;> rfl
      rw [List.foldl_cons, ih, one]
  have charged (l : List (Nat × Nat)) (t : State) : l.foldl (fun t e => t.regCharge e.1 p e.2) t =
      { t with regs := (l.foldl (fun t e => t.regCharge e.1 p e.2) t).regs } := by
    induction l generalizing t with
    | nil => rfl
    | cons e r ih =>
      rw [List.foldl_cons, ih]
      rfl
  unfold State.chargeAll
  split
  · rfl
  · rw [charged, used]

theorem State.chargeAll_workKept (p : Nat) (uses charges : List (Nat × Nat)) : s.WorkKept (s.chargeAll p uses charges) n := by
  rw [State.chargeAll_eq]
  exact ⟨rfl, id, id, rfl⟩

theorem State.setReg_workKept (r p : Nat) (v : Reg) : s.WorkKept (s.setReg r p v) n := ⟨rfl, id, id, rfl⟩

theorem State.barred_workKept {p : Nat} {uses charges : List (Nat × Nat)} {t : State} (h : s.barred p uses charges = some t) : s.WorkKept t n := by
  unfold State.barred at h
  split at h
  · cases h
  · dsimp only at h
    split at h
    · cases h
      exact .refl ..
    · split at h
      · cases h
      · cases h
        exact .foldl (fun u r => u.setReg_workKept ..) _ s

/-- Metered work keeps what its work keeps. -/
theorem State.metered_workKept {α : Type} {f : State → α × State} (hf : ∀ u : State, u.WorkKept (f u).2 n) (p : Nat) (bg : Bool) : s.WorkKept (s.metered p bg f).2 n := by
  unfold State.metered
  dsimp only
  split
  · exact .refl ..
  · split
    · next h => exact s.barred_workKept n h
    · refine .trans ?_ (State.chargeAll_workKept ..)
      exact ((s.metering_workKept ..).trans (hf _)).trans (State.metering_workKept ..)

/-! ### Resolution and roots -/

theorem State.countAnswered_workKept (r : Reach) : s.WorkKept (s.countAnswered r) n := by
  unfold State.countAnswered
  split
  · exact s.bump_workKept ..
  · exact .refl ..

theorem State.readAt_workKept (p a m : Nat) : s.WorkKept (s.readAt (some n) p a m).2 n := by
  unfold State.readAt
  split
  · exact .refl ..
  · next st off _ =>
    split
    · exact .refl ..
    · split
      · exact .refl ..
      · have read := (s.metre_workKept n (some (dieOf n)) st off m).trans (State.coreRead_workKept _ n n st off m)
        dsimp only [Option.map_some, State.unitRead]
        split
        · exact (s.countAnswered_workKept ..).trans (State.flagPart_workKept ..)
        · generalize (s.metre (some (dieOf n)) st off m).coreRead n st off m = r at read ⊢
          obtain ⟨_ | bs, t⟩ := r
          · exact read
          · exact read

theorem State.spanGroup_workKept (p : Nat) (d : Option Nat) (a : Nat) : s.WorkKept (s.spanGroup (some n) p d a).2.2 n := by
  have read := s.readAt_workKept n p a 32
  unfold State.spanGroup
  generalize s.readAt (some n) p a 32 = r at read ⊢
  obtain ⟨_ | _ | _ | _ | _, t⟩ := r <;> exact read

theorem State.leafOf_workKept (p : Nat) (r : Root) (x : Nat) : s.WorkKept (s.leafOf (some n) p r x).2 n := by
  have read := s.readAt_workKept n p (r.top + 8 * (x / 512)) 8
  unfold State.leafOf
  generalize s.readAt (some n) p (r.top + 8 * (x / 512)) 8 = a at read ⊢
  obtain ⟨_ | _ | _ | _ | _, t⟩ := a <;> exact read

theorem State.lookup_workKept (p : Nat) (d : Option Nat) (r : Root) (x u : Nat) : s.WorkKept (s.lookup (some n) p d r x u).2 n := by
  have leaf := s.leafOf_workKept n p r x
  unfold State.lookup
  generalize s.leafOf (some n) p r x = l at leaf ⊢
  obtain ⟨a | _ | _, t⟩ := l
  · have span := leaf.trans (t.spanGroup_workKept n p d (a + 8 * (x % 512 / 4 * 4)))
    dsimp only at span ⊢
    generalize t.spanGroup (some n) p d (a + 8 * (x % 512 / 4 * 4)) = g at span ⊢
    obtain ⟨_ | _ | _ | _ | _, grp, v⟩ := g
    · dsimp only
      split
      · exact span
      · split <;> exact span
    all_goals exact span
  · exact leaf
  · exact leaf

theorem State.resolve_workKept (p i : Nat) (r : Root) (st pos : Nat) : s.WorkKept (s.resolve n p i r st pos).2 n := by
  unfold State.resolve
  dsimp only
  split
  · refine .trans ?_ (State.bump_workKept ..)
    exact s.modCore_workKept n rfl
  · have found := (s.bump_workKept n .KVW_LB_STATS_MISSES n 1).trans
      (State.lookup_workKept _ n p (some (dieOf n)) r (Machine.slotOf r st pos) (pos / 64))
    generalize (s.bump .KVW_LB_STATS_MISSES n 1).lookup (some n) p (some (dieOf n)) r (Machine.slotOf r st pos) (pos / 64) = l at found ⊢
    obtain ⟨_ | _ | _ | _ | _, t⟩ := l
    · dsimp only at found ⊢
      exact found.modCore rfl
    all_goals exact found

theorem State.rootCopy_workKept (p : Nat) (d : Option Nat) (i k : Nat) : s.WorkKept (s.rootCopy (some n) p d i k).2 n := by
  have read := s.readAt_workKept n p (s.rootAt p i k) 32
  unfold State.rootCopy
  dsimp only
  generalize s.readAt (some n) p (s.rootAt p i k) 32 = a at read ⊢
  obtain ⟨_ | _ | _ | _ | _, t⟩ := a <;> exact read

theorem State.readRoot_workKept (p : Nat) (d : Option Nat) (i : Nat) : s.WorkKept (s.readRoot (some n) p d i).2 n := by
  have copies := ((s.rootCopy_workKept n p d i 0).trans (State.rootCopy_workKept _ n p d i 1)).trans (State.rootCopy_workKept _ n p d i 2)
  unfold State.readRoot
  dsimp only
  split
  · split
    · dsimp only
      exact copies.trans (State.voteOutcome_workKept ..)
    · dsimp only
      split
      · exact copies.trans (State.modPart_workKept ..)
      · exact copies
  · exact copies

theorem State.walkRoot_workKept (p i : Nat) : s.WorkKept (s.walkRoot n p i).2 n := by
  unfold State.walkRoot
  split
  · dsimp only
    exact s.modCore_workKept n rfl
  · have read := s.readRoot_workKept n p (some (dieOf n)) i
    generalize s.readRoot (some n) p (some (dieOf n)) i = r at read ⊢
    obtain ⟨_ | _ | _, t⟩ := r
    · dsimp only at read ⊢
      exact read.modCore rfl
    · exact read
    · exact read

/-! ### The peat -/

theorem State.mapEntry_workKept (i : Nat) : s.WorkKept (s.mapEntry i).2 n := by
  have set (m : SMap (Tri Nat)) : s.WorkKept { s with peatMap := m } n := ⟨rfl, id, id, rfl⟩
  unfold State.mapEntry
  dsimp only
  refine .trans ?_ (State.voteOutcome_workKept ..)
  split
  · exact (set _).trans (State.bump_workKept ..)
  · exact set _

theorem State.slotOp_workKept (slot kind : Nat) : s.WorkKept (s.slotOp slot kind).2 n := by
  unfold State.slotOp
  dsimp only
  have maps (i j : Nat) := (s.mapEntry_workKept n i).trans (State.mapEntry_workKept _ n j)
  split
  · split
    · exact maps _ _
    · split
      · exact maps _ _
      · exact maps _ _
  · exact maps _ _

theorem State.peatEvent_workKept (k page cls code p0 : Nat) : s.WorkKept (s.peatEvent k page cls code p0) n := s.event_workKept ..

theorem State.countReads_workKept (k page m : Nat) : s.WorkKept (s.countReads k page m) n := by
  have set (b : PeatBlock) : s.WorkKept (s.setBlock k b) n := ⟨rfl, id, id, rfl⟩
  unfold State.countReads
  dsimp only
  split
  · exact (set _).trans (State.peatEvent_workKept ..)
  · exact set _

theorem State.countLdpc_workKept (k page : Nat) (ls : List (Option Nat)) : s.WorkKept (s.countLdpc k page ls) n := by
  unfold State.countLdpc
  dsimp only
  have levels (f : State → Option Nat → State) (hf : ∀ (t : State) l, t.WorkKept (f t l) n) := (State.WorkKept.foldl hf ls s).trans (State.countReads_workKept _ n k page (ladderReads ls))
  have level (t : State) (l : Option Nat) : t.WorkKept (match l with
      | none => t.bump .PEAT_LDPC_COUNT_UNCORRECTABLE 0 1
      | some 0 => t
      | some 8 => t.bump .PEAT_LDPC_COUNT_SOFT 0 1
      | some _ => t.bump .PEAT_LDPC_COUNT_RETRY 0 1) n := by
    split
    · exact t.bump_workKept ..
    · exact .refl ..
    · exact t.bump_workKept ..
    · exact t.bump_workKept ..
  split
  · refine .trans ?_ (State.peatEvent_workKept ..)
    exact (levels _ level).trans (State.puts_workKept ..)
  · exact levels _ level

theorem State.peatPage_workKept (k page : Nat) : s.WorkKept (s.peatPage k page).2 n := by
  unfold State.peatPage
  split
  · exact ⟨rfl, id, id, rfl⟩
  · exact .refl ..

theorem State.readPages_workKept (o : NandOp) (r : NandResult) : s.WorkKept (s.readPages o r).2.2.2 n := by
  unfold State.readPages
  dsimp only
  refine .foldlOf (fun r : List Byte × Nat × Nat × State × Bool => r.2.2.2.1) (fun acc i => ?_) _ ([], 0, 0, s, false)
  obtain ⟨bs, good, lvl, t, stop⟩ := acc
  have counted := t.countLdpc_workKept n (o.blocks.getD (i % o.blocks.length) 0) (o.page + i / o.blocks.length) (pageLevels r i)
  dsimp only
  split
  · exact counted
  · exact counted.trans (State.peatPage_workKept ..)

theorem State.peatPayload_workKept (slot : Nat) (hdr : List Byte) (p : Nat) (r : NandResult) : s.WorkKept (s.peatPayload slot hdr p r).2 n := by
  have found := s.slotOp_workKept n slot 0
  unfold State.peatPayload
  generalize s.slotOp slot 0 = x at found ⊢
  obtain ⟨e | o, t⟩ := x
  · dsimp only
    split
    · exact found.trans (State.flagPart_workKept ..)
    · exact found.trans (State.flagPart_workKept ..)
  · dsimp only
    split
    · exact found.trans (State.flagPart_workKept ..)
    · split
      · exact found.trans (State.metreBlock_workKept ..)
      · have pages := (found.trans (t.metreRes_workKept n resPeat 32768)).trans (State.readPages_workKept _ n o.op r)
        split
        · exact pages.trans (State.flagPart_workKept ..)
        · exact pages

end
end Sys2Proof.Machine
end

section
/-!
PROOFS. What the pairs of an APPEND and the end of a walker's descriptor leave of the work that waits at their core (R184 to R189).
-/
namespace Sys2Proof.Machine

/-- A map over the listed cores that keeps sites and work keeps the work of each. -/
theorem SMap.get_map_work {g : Nat × Core → Nat × Core} (hk : ∀ e, (g e).1 = e.1) (hw : ∀ e, (g e).2.work = e.2.work) (m : SMap Core) (n : Nat) :
    (SMap.get (m.map g) n Core.fresh).work = (SMap.get m n Core.fresh).work := by
  induction m with
  | nil => rfl
  | cons e r ih =>
    simp only [List.map_cons, SMap.get, hk e]
    split
    · exact hw e
    · exact ih

section
variable (s : State) (n : Nat)

/-! ### Staging and faults -/

theorem State.stageWord_workKept (p d a : Nat) (entry : Bool) (w : Word) : s.WorkKept (s.stageWord p d a entry w).1 n := by
  have set (m : SMap (SMap (Bool × Word))) : s.WorkKept { s with stage := m } n := ⟨rfl, id, id, rfl⟩
  unfold State.stageWord
  dsimp only
  split
  · dsimp only
    exact s.modPart_workKept ..
  · exact (set _).trans (State.raise_workKept ..)

theorem State.dropSpan_workKept (d i st span : Nat) : s.WorkKept (s.dropSpan d i st span) n where
  work := SMap.get_map_work (fun e => by dsimp only; split <;> rfl) (fun e => by dsimp only; split <;> rfl) s.cores n
  site := by
    rintro (none | ⟨k, one⟩)
    · exact .inl (by rw [State.dropSpan, none]; rfl)
    · refine .inr ?_
      simp only [State.dropSpan, one, List.map_cons, List.map_nil]
      split
      · exact ⟨_, rfl⟩
      · exact ⟨k, rfl⟩
  clean := id
  others := rfl

theorem State.kvFault_workKept (c reason tag stream pos root : Nat) : s.WorkKept (s.kvFault c reason tag stream pos root) n := by
  unfold State.kvFault
  split
  · exact .refl ..
  · exact (s.puts_workKept ..).trans (State.put_workKept ..)

theorem State.walkEnd_workKept (d : WalkDesc) (e : WalkEnd) (stream pos : Nat) : s.WorkKept (s.walkEnd n d e stream pos) n := by
  have fault (reason pos : Nat) := s.kvFault_workKept n n reason d.tag stream pos d.root
  cases e with
  | invalid => exact (fault 4 0).trans (State.trap_workKept ..)
  | missing => exact (fault 3 pos).trans (State.trap_workKept ..)
  | malformed => exact (fault 2 pos).trans (State.trap_workKept ..)
  | access => exact s.trap_workKept ..
  | dropped => exact fault 1 pos
  | stageFull => exact fault 7 pos

/-! ### Reads and writes of the walker -/

theorem State.walkRead_workKept (st : Store) (off m : Nat) : s.WorkKept (s.walkRead n st off m).2 n :=
  (s.metre_workKept ..).trans (State.coreRead_workKept ..)

theorem State.walkWrite_workKept (st : Store) (off : Nat) (bs : List Byte) : s.WorkKept (s.walkWrite n st off bs) n := by
  have wrote := ((s.metre_workKept n (some (dieOf n)) st off bs.length).trans (State.store_workKept _ n st off bs)).trans (State.unitWrote_workKept _ n st off bs.length)
  unfold State.walkWrite
  dsimp only
  split
  · exact wrote.trans (State.flagDie_workKept ..)
  · exact wrote

theorem State.nextFrame_workKept (p : Nat) (d : WalkDesc) : s.WorkKept (s.nextFrame n p d).2 n := by
  have read := s.coreRead_workKept n n (.pool n) (d.list + 8 * (s.core n).kvUsed) 8
  unfold State.nextFrame
  dsimp only
  split
  · exact .refl ..
  · generalize s.coreRead n (.pool n) (d.list + 8 * (s.core n).kvUsed) 8 = r at read ⊢
    obtain ⟨_ | b, t⟩ := r
    · exact read
    · dsimp only
      split <;> exact read

theorem State.writePair_workKept (d : WalkDesc) (r : Root) (pool : List Byte) (row k pos : Nat) (st : Store) (off fmt hdr : Nat) (hst : Store) :
    s.WorkKept (s.writePair n d r pool row k pos st off fmt hdr hst).1 n := by
  unfold State.writePair
  dsimp only
  generalize hscaled : (if pos % 16 = 0 then _ else s) = t
  have scaled : s.WorkKept t n := by
    rw [← hscaled]
    split
    · exact s.walkWrite_workKept ..
    · exact .refl ..
  have read := scaled.trans (t.walkRead_workKept n hst (hdr + 2 * (pos % pageN r.cls fmt / 16)) 2)
  generalize t.walkRead n hst (hdr + 2 * (pos % pageN r.cls fmt / 16)) 2 = x at read ⊢
  obtain ⟨_ | sb, u⟩ := x
  · exact read
  · dsimp only at read ⊢
    generalize hstored : List.foldl _ u (payloadPieces r.cls fmt (pos % pageN r.cls fmt)) = v
    have stored : s.WorkKept v n := hstored ▸ read.trans (.foldl (fun t e => t.walkWrite_workKept n ..) _ u)
    have again := stored.trans (v.walkRead_workKept n hst (hdr + 0x28) 8)
    generalize v.walkRead n hst (hdr + 0x28) 8 = y at again ⊢
    obtain ⟨_ | w, z⟩ := y
    · exact again
    · dsimp only at again ⊢
      refine .trans ?_ (State.bump_workKept ..)
      refine .trans ?_ (State.bump_workKept ..)
      split
      · exact again.trans (z.walkWrite_workKept ..)
      · exact again

/-! ### Copies of pages (R189) -/

theorem State.atBanks_workKept : s.WorkKept s.atBanks n := ⟨rfl, id, fun h => ⟨h.1, rfl, h.2.2⟩, rfl⟩

theorem State.WorkKept.overBonds {s t : State} {n : Nat} (h : s.WorkKept t n) : s.WorkKept (t.overBonds s) n :=
  ⟨h.work, h.site, fun c => ⟨(h.clean c).1, c.2.1, (h.clean c).2.2⟩, h.others⟩

theorem State.reedRow_workKept (bank row : Nat) (d : ReedDesc) : s.WorkKept (s.reedRow n bank row d).2 n := by
  have read : s.WorkKept (((s.atBanks.readMem (.fen n) (rowOffset bank row) 2048).notes.foldl (fun s e => s.eccEventOf (d.op + placed d.tag 4) e)
      (s.atBanks.readMem (.fen n) (rowOffset bank row) 2048).st).overBonds s) n :=
    (((s.atBanks_workKept n).trans (State.readMem_workKept ..)).trans (.foldl (fun t e => t.eccEventOf_workKept n _ e) _ _)).overBonds
  unfold State.reedRow
  dsimp only
  split
  · exact read.trans (State.flagDie_workKept ..)
  · exact read.trans (State.unitSees_workKept ..)

theorem State.reedStore_workKept (bank row : Nat) (bs : List Byte) : s.WorkKept (s.reedStore n bank row bs) n :=
  ((s.atBanks_workKept n).trans (State.coreWrite_workKept ..)).overBonds

theorem State.reedFault_workKept (c bank : Nat) (d : ReedDesc) (reason row : Nat) : s.WorkKept (s.reedFault c bank d reason row) n := by
  unfold State.reedFault
  split
  · exact .refl ..
  · exact s.puts_workKept ..

theorem State.busUse_workKept (c m : Nat) : s.WorkKept (s.busUse c m) n := (s.bump_workKept ..).trans (State.bump_workKept ..)

theorem State.copyChunk_workKept (tag src dst j : Nat) : s.WorkKept (s.copyChunk n tag src dst j).2 n := by
  unfold State.copyChunk
  dsimp only
  generalize ({ ReedDesc.of [] with op := _, tag := tag } : ReedDesc) = d
  have read := s.reedRow_workKept n (bankOfChunk (src / 2048 + j)) ((src / 2048 + j) / 128) d
  generalize s.reedRow n (bankOfChunk (src / 2048 + j)) ((src / 2048 + j) / 128) d = r at read ⊢
  obtain ⟨_ | bs, t⟩ := r
  · exact read.trans (t.reedFault_workKept ..)
  · dsimp only at read ⊢
    have stored := (read.modCore (f := fun k => k.setLatch (bankOfChunk (src / 2048 + j)) bs) rfl).trans
      (State.reedStore_workKept _ n (bankOfChunk (dst / 2048 + j)) ((dst / 2048 + j) / 128) bs)
    split
    · exact stored
    · exact stored.trans (State.busUse_workKept ..)

theorem State.copyPage_workKept (tag : Nat) (st : Store) (off : Nat) (fst : Store) (foff : Nat) : s.WorkKept (s.copyPage n tag st off fst foff).2 n := by
  unfold State.copyPage
  split
  · dsimp only
    refine .trans ?_ (State.unitWrote_workKept ..)
    refine .trans ?_ (State.bump_workKept ..)
    refine .trans ((s.metre_workKept n none st off 32768).trans (State.metre_workKept _ n none fst foff 32768)) ?_
    refine .foldlOf (Prod.snd : Bool × State → State) (fun acc j => ?_) (List.range 16) (true, (s.metre none st off 32768).metre none fst foff 32768)
    exact acc.2.copyChunk_workKept n tag off foff j
  · have read := s.walkRead_workKept n st off 32768
    generalize s.walkRead n st off 32768 = r at read ⊢
    obtain ⟨_ | b, t⟩ := r
    · exact read
    · exact read.trans (t.walkWrite_workKept ..)

/-! ### Pairs (R186) -/

/-- What a new frame is filled with: a copy of a page, or zeros where its format leaves space. -/
def State.frameFilled (s : State) (c : Nat) (d : WalkDesc) (r : Root) (x : NewPage) (src : Option (Store × Nat)) (fst : Store) (foff : Nat) : Bool × State :=
  match src with
  | some (st, off) => let (g, s) := s.copyPage c d.tag st off fst foff; (g, if g then s.bump .KVW_PAGE_STATS_COPIES c 1 else s)
  | none => (true, if r.cls = 0 ∧ x.fmt = 0 then
      (List.range 16).foldl (fun s i => s.walkWrite c fst (foff + 2048 * i + 1024) (List.replicate 1024 0)) s else s)

/-- The pair written to a page whose entry is staged, under a new header where the page is no copy. -/
def State.pageBegun (s : State) (c : Nat) (d : WalkDesc) (r : Root) (pool : List Byte) (row k : Nat) (x : NewPage) (fresh : Bool) (fst : Store) (foff : Nat) : PairRes × State :=
  match s.devRange x.hdr 256 with
  | none => (some .malformed, s)
  | some (hst, hoff) =>
    let s := if fresh then s.walkWrite c hst hoff (newHeader (x.slot % 2 ^ r.shift * 64) (d.stream + k) x.fmt r.cls) else s
    match s.writePair c d r pool row k (d.pos + row) fst foff x.fmt hoff hst with
    | (s, true) => (none, s)
    | (s, false) => (some .dropped, s)

/-- The page in the frame taken: filled, its entry staged, the pair written. -/
def State.pageOpened (s : State) (c p : Nat) (d : WalkDesc) (r : Root) (pool : List Byte) (row k : Nat) (x : NewPage) (src : Option (Store × Nat))
    (fa : Nat) (fst : Store) (foff : Nat) : PairRes × State :=
  let (good, s) := s.frameFilled c d r x src fst foff
  if !good then (some .dropped, s)
  else
    let (s, room) := s.stageWord p (dieOf c) x.at_ true (mkEntry (storeCode fst) x.fmt fa 0 false)
    if !room then (some .stageFull, s)
    else
      ((if src.isNone then s.bump .KVW_PAGE_STATS_NEW_PAGES c 1 else s).dropSpan (dieOf c) d.root (d.stream + k) ((d.pos + row) / 64 / 4)).pageBegun
        c d r pool row k x src.isNone fst foff

theorem State.openPage_eq (p : Nat) (d : WalkDesc) (r : Root) (pool : List Byte) (row k : Nat) (x : NewPage) (src : Option (Store × Nat)) :
    s.openPage n p d r pool row k x src = match s.nextFrame n p d with
      | (none, s) => (some .dropped, s)
      | (some none, s) => (some .invalid, s)
      | (some (some (fa, fst, foff)), s) =>
        if s.anyWithdrawn fst foff 32768 then (some .access, s)
        else if s.cutOff (some (dieOf n)) fst then (some .dropped, s.flagPart p 5 stUncorrectable)
        else (s.modCore n fun q => { q with kvUsed := q.kvUsed + 1 }).pageOpened n p d r pool row k x src fa fst foff := by
  rfl

theorem State.frameFilled_workKept (d : WalkDesc) (r : Root) (x : NewPage) (src : Option (Store × Nat)) (fst : Store) (foff : Nat) :
    s.WorkKept (s.frameFilled n d r x src fst foff).2 n := by
  unfold State.frameFilled
  split
  · next st off =>
    have copied := s.copyPage_workKept n d.tag st off fst foff
    dsimp only
    split
    · exact copied.trans (State.bump_workKept ..)
    · exact copied
  · dsimp only
    split
    · exact .foldl (fun t i => t.walkWrite_workKept n ..) _ s
    · exact .refl ..

theorem State.pageBegun_workKept (d : WalkDesc) (r : Root) (pool : List Byte) (row k : Nat) (x : NewPage) (fresh : Bool) (fst : Store) (foff : Nat) :
    s.WorkKept (s.pageBegun n d r pool row k x fresh fst foff).2 n := by
  unfold State.pageBegun
  split
  · exact .refl ..
  · next hst hoff _ =>
    dsimp only
    generalize hheaded : (if fresh = true then _ else s) = t
    have headed : s.WorkKept t n := by
      rw [← hheaded]
      split
      · exact s.walkWrite_workKept ..
      · exact .refl ..
    have wrote := headed.trans (t.writePair_workKept n d r pool row k (d.pos + row) fst foff x.fmt hoff hst)
    generalize t.writePair n d r pool row k (d.pos + row) fst foff x.fmt hoff hst = y at wrote ⊢
    obtain ⟨u, _ | _⟩ := y
    · exact wrote
    · exact wrote

theorem State.pageOpened_workKept (p : Nat) (d : WalkDesc) (r : Root) (pool : List Byte) (row k : Nat) (x : NewPage) (src : Option (Store × Nat)) (fa : Nat)
    (fst : Store) (foff : Nat) : s.WorkKept (s.pageOpened n p d r pool row k x src fa fst foff).2 n := by
  have filled := s.frameFilled_workKept n d r x src fst foff
  unfold State.pageOpened
  generalize s.frameFilled n d r x src fst foff = f at filled ⊢
  obtain ⟨_ | _, t⟩ := f
  · exact filled
  · have staged := filled.trans (t.stageWord_workKept n p (dieOf n) x.at_ true (mkEntry (storeCode fst) x.fmt fa 0 false))
    dsimp only at staged ⊢
    generalize t.stageWord p (dieOf n) x.at_ true (mkEntry (storeCode fst) x.fmt fa 0 false) = g at staged ⊢
    obtain ⟨u, _ | _⟩ := g
    · exact staged
    · refine staged.trans (.trans (.trans ?_ (State.dropSpan_workKept ..)) (State.pageBegun_workKept ..))
      split
      · exact u.bump_workKept ..
      · exact .refl ..

theorem State.openPage_workKept (p : Nat) (d : WalkDesc) (r : Root) (pool : List Byte) (row k : Nat) (x : NewPage) (src : Option (Store × Nat)) :
    s.WorkKept (s.openPage n p d r pool row k x src).2 n := by
  have next := s.nextFrame_workKept n p d
  rw [State.openPage_eq]
  generalize s.nextFrame n p d = f at next ⊢
  obtain ⟨_ | _ | ⟨fa, fst, foff⟩, t⟩ := f
  · exact next
  · exact next
  · dsimp only at next ⊢
    split
    · exact next
    · split
      · exact next.trans (t.flagPart_workKept ..)
      · refine .trans ?_ (State.pageOpened_workKept ..)
        exact next.modCore rfl

theorem State.appendFound_workKept (p : Nat) (d : WalkDesc) (r : Root) (pool : List Byte) (row k slot : Nat) (e : Word) (hdr : Nat) :
    s.WorkKept (s.appendFound n p d r pool row k slot e hdr).2 n := by
  have read := s.readAt_workKept n p hdr 256
  unfold State.appendFound
  dsimp only
  split
  · exact .refl ..
  · generalize s.readAt (some n) p hdr 256 = a at read ⊢
    generalize s.payloadOf p e = l
    obtain ⟨h | _ | _ | _ | _, t⟩ := a
    · obtain _ | ⟨st, off⟩ := l
      · exact .refl ..
      · dsimp only at read ⊢
        split
        · exact read
        · split
          · exact read
          · split
            · exact read.trans (t.flagPart_workKept ..)
            · split
              · exact read.trans (t.openPage_workKept ..)
              · split
                · exact read
                · next hst hoff _ =>
                  have wrote := read.trans (t.writePair_workKept n d r pool row k (d.pos + row) st off (entFmt e) hoff hst)
                  generalize t.writePair n d r pool row k (d.pos + row) st off (entFmt e) hoff hst = x at wrote ⊢
                  obtain ⟨u, _ | _⟩ := x
                  · exact wrote
                  · exact wrote
    all_goals
      obtain _ | l := l
      · exact .refl ..
      · exact read

theorem State.appendPair_workKept (p : Nat) (d : WalkDesc) (r : Root) (pool : List Byte) (row k : Nat) : s.WorkKept (s.appendPair n p d r pool row k).2 n := by
  have found := s.resolve_workKept n p d.root r (d.stream + k) (d.pos + row)
  unfold State.appendPair
  dsimp only
  generalize s.resolve n p d.root r (d.stream + k) (d.pos + row) = x at found ⊢
  obtain ⟨⟨slot, e, hdr⟩ | _ | _ | _ | _, t⟩ := x
  · exact found.trans (t.appendFound_workKept ..)
  · dsimp only at found ⊢
    generalize Machine.slotOf r (d.stream + k) (d.pos + row) / pageSlots r.cls d.fmt * pageSlots r.cls d.fmt = slot
    have leaf := found.trans (t.leafOf_workKept n p r slot)
    generalize t.leafOf (some n) p r slot = l at leaf ⊢
    obtain ⟨la | _ | f, u⟩ := l
    · exact leaf.trans (u.openPage_workKept ..)
    · exact leaf
    · cases f <;> exact leaf
  all_goals exact found

theorem State.walkOn_workKept (p m : Nat) (d : WalkDesc) (at_ : Nat → Nat × Nat) {one : Nat → State → PairRes × State}
    (ho : ∀ (i : Nat) (u : State), u.WorkKept (one i u).2 n) : s.WorkKept (s.walkOn n p m d at_ one).2 n := by
  unfold State.walkOn
  refine .foldlOf (Prod.snd : Option Bool × State → State) (fun acc _ => ?_) _ (none, s)
  obtain ⟨_ | b, t⟩ := acc
  · have work := t.metered_workKept n (ho (t.core n).kvDone) p false
    dsimp only
    generalize t.metered p false (one (t.core n).kvDone) = r at work ⊢
    obtain ⟨_ | _ | e, u⟩ := r
    · exact work
    · dsimp only at work ⊢
      exact work.modCore rfl
    · exact work.trans (u.walkEnd_workKept ..)
  · exact .refl ..

/-- An APPEND leaves its descriptor in the queue. -/
theorem State.appendWork_workKept (p : Nat) (d : WalkDesc) (r : Root) : s.WorkKept (s.appendWork n p d r).2 n := by
  have read := s.coreRead_workKept n n (.pool n) d.src (d.count * d.streams * 2 * headDim r.cls * (if d.srcBf16 then 2 else 4))
  unfold State.appendWork
  generalize s.coreRead n (.pool n) d.src (d.count * d.streams * 2 * headDim r.cls * (if d.srcBf16 then 2 else 4)) = x at read ⊢
  obtain ⟨_ | pool, t⟩ := x
  · dsimp only at read ⊢
    exact read.trans (t.walkEnd_workKept ..)
  · exact read.trans (t.walkOn_workKept n _ _ _ _ fun i u => u.appendPair_workKept n p d r pool (i / d.streams) (i % d.streams))

end
end Sys2Proof.Machine
end

section
/-!
PROOFS. An attention operation that leaves the queue, and the reeds that may then start (R137, R153, R165, R170, R188): no other operation joins or leaves it.
-/
namespace Sys2Proof.Machine

theorem State.WorkKept.attq {s t : State} {n : Nat} (h : s.WorkKept t n) : (t.core n).attq = (s.core n).attq := congrArg UnitWork.attq h.work

section
variable (s : State) (n : Nat)

/-! ### An operation that begins -/

theorem State.attFault_workKept (reason : Nat) (d : AttDesc) (pos : Nat) : s.WorkKept (s.attFault n reason d pos) n := by
  unfold State.attFault
  split
  · exact .refl ..
  · exact s.puts_workKept ..

theorem State.attRefuse_workKept (d : AttDesc) (reason status : Nat) : s.WorkKept (s.attRefuse n d reason status) n :=
  (s.attFault_workKept ..).trans (State.trap_workKept ..)

theorem State.attStatus_workKept (d : AttDesc) (status pages : Nat) : s.WorkKept (s.attStatus n d status pages) n := s.coreWrite_workKept ..

theorem State.attFloor_workKept (d : AttDesc) (pages first : Nat) : s.WorkKept (s.attFloor n d pages first) n := by
  unfold State.attFloor
  refine .trans ?_ (State.attFault_workKept ..)
  refine .trans ?_ (State.event_workKept ..)
  exact (s.attStatus_workKept ..).trans (State.bump_workKept ..)

theorem State.attUnresolved_workKept (d : AttDesc) (f : PageRes) (pos : Nat) : s.WorkKept (s.attUnresolved n d f pos) n := by
  unfold State.attUnresolved
  split
  · exact (s.kvFault_workKept ..).trans (State.trap_workKept ..)
  · exact (s.kvFault_workKept ..).trans (State.trap_workKept ..)
  · exact s.trap_workKept ..
  · exact s.attFault_workKept ..

theorem State.attRoot_workKept (p : Nat) (d : AttDesc) : s.WorkKept (s.attRoot n p d).2 n := by
  have root := s.walkRoot_workKept n p d.root
  unfold State.attRoot
  split
  · exact s.attRefuse_workKept ..
  · generalize s.walkRoot n p d.root = r at root ⊢
    obtain ⟨w | _ | _, t⟩ := r
    · dsimp only at root ⊢
      split
      · exact root.trans (t.attRefuse_workKept ..)
      · split
        · exact root.trans (t.attUnresolved_workKept n d .malformed d.kvFirst)
        · split
          · exact root.trans (t.attRefuse_workKept ..)
          · exact root
    · exact root.trans ((t.flagPart_workKept ..).trans (State.attFault_workKept ..))
    · exact root.trans (t.attRefuse_workKept ..)

theorem State.attResolve_workKept (p : Nat) (d : AttDesc) (r : Root) (fuel : Nat) (pos : Nat) (x : Resolved) : s.WorkKept (s.attResolve n p d r fuel pos x).2 n := by
  induction fuel generalizing s pos x with
  | zero => exact .refl ..
  | succ fuel ih =>
    have found := s.resolve_workKept n p d.root r d.stream pos
    unfold State.attResolve
    split
    · exact .refl ..
    · generalize s.resolve n p d.root r d.stream pos = y at found ⊢
      obtain ⟨_ | _ | _ | _ | _, t⟩ := y <;> exact found.trans (ih t _ _)

theorem State.attHold_workKept (o : AttOp) (v : Nat) : s.WorkKept (s.attHold n o v) n := .foldl (fun t _ => t.put_workKept n _ _ v) _ s

/-- An operation that begins leaves the queue of the others. -/
theorem State.attBegin_attq (p : Nat) (o : AttOp) : ((State.attBegin n p o s).core n).attq = (s.core n).attq := by
  have root := s.attRoot_workKept n p (AttDesc.of o.w)
  unfold State.attBegin
  dsimp only
  generalize s.attRoot n p (AttDesc.of o.w) = a at root ⊢
  obtain ⟨_ | r, t⟩ := a
  · exact root.attq
  · have pages := root.trans (t.attResolve_workKept n p (AttDesc.of o.w) r (AttDesc.of o.w).units (AttDesc.of o.w).kvFirst Resolved.none)
    dsimp only at pages ⊢
    generalize t.attResolve n p (AttDesc.of o.w) r (AttDesc.of o.w).units (AttDesc.of o.w).kvFirst Resolved.none = x at pages ⊢
    obtain ⟨x, u⟩ := x
    dsimp only at pages ⊢
    split
    · exact (pages.trans (u.attFloor_workKept ..)).attq
    · split
      · exact (pages.trans (u.attUnresolved_workKept ..)).attq
      · split
        · exact (pages.trans (u.attRefuse_workKept ..)).attq
        · refine (State.attHold_workKept _ n _ 1).attq.trans (Eq.trans ?_ pages.attq)
          rw [State.modCore, State.core_set_same]

theorem State.atWork_workKept {unit : Nat} {issued : List Word} {f : State → State} (hf : ∀ u : State, u.WorkKept (f u) n) : s.WorkKept (s.atWork n unit issued f) n :=
  ((s.atUnit_workKept ..).trans (hf _)).trans (State.backAt_workKept ..)

/-! ### Reed descriptors that start -/

theorem Core.takesAct_work (k : Core) (half : Nat) (xs bs : List Nat) : (k.takesAct half xs bs).work = k.work := by rw [Core.takesAct_eq]; rfl

theorem State.runBcast_workKept (d : ReedDesc) : s.WorkKept (s.runBcast n d) n := by
  have read := (s.busUse_workKept n n (d.elems / 16)).trans (State.coreRead_workKept _ n n (.pool n) d.pool (2 * d.elems))
  unfold State.runBcast
  dsimp only
  generalize (s.busUse n (d.elems / 16)).coreRead n (.pool n) d.pool (2 * d.elems) = r at read ⊢
  obtain ⟨_ | bs, t⟩ := r
  · exact read
  · dsimp only at read ⊢
    exact read.modCore (Core.takesAct_work ..)

theorem State.runGather_workKept (d : ReedDesc) : s.WorkKept (s.runGather n d) n := by
  unfold State.runGather
  dsimp only
  split
  · exact (s.busUse_workKept ..).trans (State.coreWrite_workKept ..)
  · refine .trans ?_ (State.numFlags_workKept ..)
    exact (s.busUse_workKept ..).trans (State.coreWrite_workKept ..)

theorem State.latchesLost_workKept (d : ReedDesc) : s.WorkKept (s.latchesLost n d) n := by
  unfold State.latchesLost
  split
  · exact .refl ..
  · exact s.modCore_workKept n rfl

/-- Fences that end are commands: every queue is as it was. -/
theorem State.fencePass_attq : (s.fencePass.core n).attq = (s.core n).attq := by
  refine State.foldl_keeps (fun t : State => (t.core n).attq) (fun t c => ?_) _ s
  split
  · dsimp only
    split
    · exact (State.complete_workKept { t with cmds := t.cmds.erase c } n c.q c.discard stOk t.gust 0 0).attq
    · rfl
  · rfl

theorem State.reedEnd_attq (num : Nat) : ((s.reedEnd n num).core n).attq = (s.core n).attq := by
  rw [State.reedEnd, State.fencePass_attq, State.modCore, State.core_set_same]

theorem State.reedStart_attq (o : ReedOp) : ((s.reedStart n o).core n).attq = (s.core n).attq := by
  have lost := s.latchesLost_workKept n (ReedDesc.of o.w)
  by_cases h2 : (ReedDesc.of o.w).op = 2
  · rw [State.reedStart_bcast s n o h2, State.reedEnd_attq]
    exact (lost.trans (State.atWork_workKept _ n fun u => u.runBcast_workKept n _)).attq
  · by_cases h3 : (ReedDesc.of o.w).op = 3
    · rw [State.reedStart_gather s n o h3, State.reedEnd_attq]
      exact (lost.trans (State.atWork_workKept _ n fun u => u.runGather_workKept n _)).attq
    · have held (u : State) (d : ReedDesc) (bs : List Nat) : (u.holdBanks n d bs).core n = u.core n := by rw [State.holdBanks_eq]; rfl
      rw [State.reedStart_bank s n o h2 h3, held, State.modCore, State.core_set_same]
      exact lost.attq

theorem State.reedPass_attq (fuel : Nat) : ((State.reedPass fuel s n).core n).attq = (s.core n).attq := by
  induction fuel generalizing s with
  | zero => rfl
  | succ fuel ih =>
    unfold State.reedPass
    split
    · rfl
    · split
      · rfl
      · next o _ => exact (ih _).trans (s.reedStart_attq n o)

end
end Sys2Proof.Machine
end

section
/-!
PROOFS. An attention operation that completes with nothing else at work (R154, R162, R163, R211).
-/
namespace Sys2Proof.Machine

/-! ### Work that need not wait (R211) -/

/-- Plan traffic issues where no regulator of its partition is out of tokens, and traffic of no partition always. -/
theorem State.barred_none {s : State} {p : Nat} (h : 12 ≤ p ∨ ∀ r, 0 < (s.reg r p).ceil) (charges : List (Nat × Nat)) : s.barred p [] charges = none := by
  unfold State.barred
  split
  · rfl
  · next hp =>
    have tokens := h.resolve_left hp
    have short : ((charges.map Prod.fst).eraseDups.filter fun x => decide ((s.reg x p).ceil ≤ 0)) = [] :=
      List.filter_eq_nil_iff.2 fun r _ => by simpa using tokens r
    simp [short]

/-- Work that meets nothing that keeps it waiting is done as a whole and charged. -/
theorem State.flows.metered {s : State} {p : Nat} {f : State → State} (h : s.flows p f) : ∃ charges,
    s.metered p false (fun s => ((), f s)) =
      (some (), State.chargeAll { f { s with metering := some ⟨[], [], false⟩ } with metering := s.metering } p [] charges) := by
  obtain ⟨free, tokens⟩ := h
  refine ⟨((f { s with metering := some ⟨[], [], false⟩ }).metering.getD ⟨[], [], false⟩).charges, ?_⟩
  unfold State.metered
  simp only [free, Bool.false_eq_true, if_false, State.barred_none tokens]

/-! ### The end of an operation -/

section
variable (s : State) (n : Nat)

theorem State.attFetch_workKept (p : Nat) (d : AttDesc) (x : Nat × Word × Nat) (r : NandResult) : s.WorkKept (s.attFetch n p d x r).2 n := by
  have header := s.readAt_workKept n p x.2.2 256
  unfold State.attFetch
  dsimp only
  generalize s.readAt (some n) p x.2.2 256 = a at header ⊢
  obtain ⟨hdr | _ | _ | _ | _, t⟩ := a
  · dsimp only at header ⊢
    split
    · exact header
    · split
      · have flash := header.trans (t.peatPayload_workKept n (entSlot x.2.1) hdr p r)
        generalize t.peatPayload (entSlot x.2.1) hdr p r = y at flash ⊢
        obtain ⟨_ | bs, u⟩ := y
        · exact flash
        · exact flash
      · have payload := header.trans (t.readAt_workKept n p (entAddr x.2.1) 32768)
        generalize t.readAt (some n) p (entAddr x.2.1) 32768 = y at payload ⊢
        obtain ⟨_ | _ | _ | _ | _, u⟩ := y <;> exact payload
  all_goals exact header

theorem State.attFetchAll_workKept (p : Nat) (d : AttDesc) (xs : List (Nat × Word × Nat)) (rs : List NandResult) (acc : List PageData) :
    s.WorkKept (s.attFetchAll n p d xs rs acc).2 n := by
  induction xs generalizing s rs acc with
  | nil => exact .refl ..
  | cons x xs ih =>
    have page := s.attFetch_workKept n p d x (rs.headD ⟨[], []⟩)
    unfold State.attFetchAll
    generalize s.attFetch n p d x (rs.headD ⟨[], []⟩) = y at page ⊢
    obtain ⟨_ | _ | _ | _, t⟩ := y
    · exact page.trans (ih t _ _)
    all_goals exact page

theorem State.attBus_workKept (d : AttDesc) (pages : List PageData) : s.WorkKept (s.attBus n d pages) n := (s.busUse_workKept ..).trans (State.bump_workKept ..)

/-- The passes of the array path find nothing where none of their checks does and no injection is armed. -/
theorem State.attPasses_clean (h : (s.core n).injectArmed = []) (d : AttDesc) (x : AttIn) (pages : List PageData) :
    ∃ t, s.attPasses n d x pages [] = (false, t) ∧ s.WorkKept t n := by
  unfold State.attPasses
  dsimp only
  split
  · exact ⟨s, rfl, .refl ..⟩
  · rw [List.foldl_fixed' (fun a => by
      have armed (v : Nat) : ((s.bump .CORE_FEEDER_STATS_SLOTS n v).core n).injectArmed = [] := h
      simp [armed, SMap.get])]
    exact ⟨_, rfl, s.bump_workKept ..⟩

theorem State.attForward_workKept (d : AttDesc) (x : AttIn) (pages : List PageData) : s.WorkKept (s.attForward n d x pages) n := by
  unfold State.attForward
  dsimp only
  refine .trans ?_ (State.bump_workKept ..)
  refine .trans ?_ (State.bump_workKept ..)
  refine .trans ?_ (State.numFlags_workKept ..)
  split
  · exact (s.coreWrite_workKept ..).trans (State.coreWrite_workKept ..)
  · exact s.coreWrite_workKept ..

theorem State.attBackward_workKept (d : AttDesc) (a : AttArgs) (x : AttIn) (pages : List PageData) : s.WorkKept (s.attBackward n d a x pages) n := by
  unfold State.attBackward
  dsimp only
  refine .trans ?_ (State.numFlags_workKept ..)
  exact ((s.coreWrite_workKept ..).trans (State.coreWrite_workKept ..)).trans (State.coreWrite_workKept ..)

theorem State.frees_workKept (m : Nat) : s.WorkKept (s.frees m).2 n := ⟨rfl, id, id, rfl⟩

/-- What an operation leaves in the reeds it ran on are registers of the core. -/
theorem State.attReeds_workKept (banks : List Nat) : s.WorkKept (s.attReeds n banks) n := by
  refine .foldl (fun t b => ?_) _ s
  have reeds (k : Core) (i j : Nat) (xs : List F32) (ys : List Nat) (m : Core → SMap Bool) :
      Core.work { (k.setRacc i xs).setAct j ys with latchLost := m ((k.setRacc i xs).setAct j ys) } = k.work := rfl
  dsimp only
  exact ((t.frees_workKept n 128).trans (State.frees_workKept _ n 4096)).modCore (reeds _ _ _ _ _ fun k => SMap.set k.latchLost b true false)

theorem State.attReeds_mem (banks : List Nat) : (s.attReeds n banks).mem = s.mem := by
  unfold State.attReeds
  refine State.foldl_keeps State.mem (fun t b => ?_) _ s
  dsimp only [State.modCore]
  rw [State.setCore_mem]
  rfl

end

/-- The state after an operation has ended with its status word written. -/
def State.attEnded (s : State) (n : Nat) (o : AttOp) : State :=
  (((s.attStatus n (AttDesc.of o.w) stOk o.pages.length).attLeave n o).attReeds n o.banks).bump .ATT_STATS_OPS n 1

/-- An operation whose pages and inputs are read, and whose passes find nothing, computes its outputs and ends with ST_OK. -/
theorem State.attEnd_completes {s z1 z2 : State} {n p : Nat} {o : AttOp} {met : AttEnd} {pages : List PageData} {bs : List (List Byte)} {d : AttDesc} {a : AttArgs}
    (hd : AttDesc.of o.w = d) (ha : (if d.needsArgs then AttArgs.of (bytesToWords 8 (s.peek (.pool n) d.args 64)) else AttArgs.of []) = a)
    (hf : ((d.inputs a n).foldl (fun y e => y.metre none e.1 e.2.1 e.2.2) s).attFetchAll n p d o.pages met.flash [] = (.ok pages, z1))
    (hr : z1.readRanges n (d.inputs a n) = (.data bs, z2)) (hm : d.arrays = true → met.found = [] ∧ (z2.core n).injectArmed = []) :
    ∃ z, s.WorkKept z n ∧ State.attEnd n p o met s = z.attEnded n o := by
  have metred : s.WorkKept ((d.inputs a n).foldl (fun y e => y.metre none e.1 e.2.1 e.2.2) s) n := .foldl (fun t e => t.metre_workKept n ..) _ s
  have fetched := State.attFetchAll_workKept ((d.inputs a n).foldl (fun y e => y.metre none e.1 e.2.1 e.2.2) s) n p d o.pages met.flash []
  rw [hf] at fetched
  have read := z1.readRanges_workKept n n (d.inputs a n)
  rw [hr] at read
  generalize hserved : ((o.pages.zip pages).filter fun e => z2.directPage n p d o.pages e.1.2.1) = served
  obtain ⟨u, passed, run⟩ : ∃ u, z2.WorkKept u n ∧
      (if d.arrays then (z2.bump .ATT_STATS_SIDE_PAGES n (o.pages.length - served.length)).attPasses n d (AttIn.of bs) (served.map (·.2)) met.found
        else (false, (z2.bump .ATT_STATS_SIDE_PAGES n (o.pages.length - served.length)).attBus n d (served.map (·.2)))) = (false, u) := by
    have counted := z2.bump_workKept n .ATT_STATS_SIDE_PAGES n (o.pages.length - served.length)
    split
    · next arrays =>
      obtain ⟨none, armed⟩ := hm arrays
      obtain ⟨t, found, kept⟩ := State.attPasses_clean (z2.bump .ATT_STATS_SIDE_PAGES n (o.pages.length - served.length)) n armed d (AttIn.of bs) (served.map (·.2))
      exact ⟨t, counted.trans kept, none ▸ found⟩
    · exact ⟨_, counted.trans (State.attBus_workKept ..), rfl⟩
  refine ⟨if d.op = 1 then u.attForward n d (AttIn.of bs) pages else u.attBackward n d a (AttIn.of bs) pages, ?_, ?_⟩
  · refine ((metred.trans fetched).trans (read.trans passed)).trans ?_
    split
    · exact u.attForward_workKept ..
    · exact u.attBackward_workKept ..
  · unfold State.attEnd State.attEnded
    dsimp only
    rw [hd, ha, hf]
    dsimp only
    rw [hr]
    dsimp only
    rw [hserved, run]
    rfl

end Sys2Proof.Machine
end

section
/-!
PROOFS. The module after an attention operation has completed alone: nothing waits, and its status word stands in the pool (R154, R165).
-/
namespace Sys2Proof.Machine

theorem Core.Waitless.of_work {k k' : Core} (h : k.Waitless) (e : k'.work = k.work) : k'.Waitless where
  arrays := (congrArg UnitWork.aq e).trans h.arrays
  pass := (congrArg UnitWork.passDue e).trans h.pass
  vector := (congrArg UnitWork.vq e).trans h.vector
  walker := (congrArg UnitWork.kvq e).trans h.walker
  network := (congrArg UnitWork.netq e).trans h.network
  attention := (congrArg UnitWork.attRun e).trans h.attention

theorem State.WorkKept.lone {s t : State} {n : Nat} (h : s.WorkKept t n) (hs : s.Lone n) : t.Lone n where
  site := h.site hs.site
  idle := hs.idle.of_work h.work
  cmds := (congrArg Prod.fst h.others).trans hs.cmds
  engines := (congrArg (·.2.1) h.others).trans hs.engines
  atomHeld := (congrArg (·.2.2.1) h.others).trans hs.atomHeld
  arrived := (congrArg (·.2.2.2) h.others).trans hs.arrived

theorem State.attLeave_core (s : State) (n : Nat) (o : AttOp) :
    (s.attLeave n o).core n = { s.core n with attRun := (s.core n).attRun.filter fun y => y.num != o.num } := State.core_set_same ..

section
variable {s t : State} {n : Nat} {o : AttOp} (ha : s.Alone n) (hr : (s.core n).attRun = [o]) (h : s.WorkKept t n)
include ha hr h

/-- The only operation at work leaves a module in which nothing waits. -/
theorem State.Alone.attLeave_lone : (t.attLeave n o).Lone n where
  site := SMap.set_alone (h.site (.inr ⟨_, ha.cores⟩)) _ _
  idle := by
    have run : (t.core n).attRun = [o] := (congrArg UnitWork.attRun h.work).trans hr
    rw [State.attLeave_core, run]
    exact ⟨(congrArg UnitWork.aq h.work).trans ha.arrays.1, (congrArg UnitWork.passDue h.work).trans ha.arrays.2, (congrArg UnitWork.vq h.work).trans ha.vector,
      (congrArg UnitWork.kvq h.work).trans ha.walker, (congrArg UnitWork.netq h.work).trans ha.network, by simp⟩
  cmds := (congrArg Prod.fst h.others).trans ha.cmds
  engines := (congrArg (·.2.1) h.others).trans ha.engines
  atomHeld := (congrArg (·.2.2.1) h.others).trans ha.atomHeld
  arrived := (congrArg (·.2.2.2) h.others).trans ha.xni.2.1

end

/-- The status word stored in the pool. -/
theorem State.attStatus_rawBytes {s : State} (h : s.sram = []) (n : Nat) (d : AttDesc) (status pages : Nat) :
    (s.attStatus n d status pages).rawBytes (.pool n) d.status 8 = toBytesLE 8 (status + pages * 2 ^ 32) := by
  have length := toBytesLE_length 8 (status + pages * 2 ^ 32)
  have given : toBytesLE 8 (status + pages * 2 ^ 32) ≠ [] := fun e => by rw [e] at length; cases length
  have stored := State.coreWrite_mem (State.pool_clean h n) n d.status given
  refine (State.rawBytes_pool_congr stored ..).trans ?_
  have read := State.rawBytes_rawWrite_pool s n d.status (toBytesLE 8 (status + pages * 2 ^ 32))
  rw [length] at read
  exact read

/-- The module as the end of an operation finds it: metered, the operation's banks released, its engine at work on its words. -/
def State.atAttEnd (s : State) (n : Nat) (o : AttOp) : State := (State.attHold { s with metering := some ⟨[], [], false⟩ } n o 0).atUnit n 3 (o.w.drop 8)

theorem State.atAttEnd_workKept (s : State) (n : Nat) (o : AttOp) : s.WorkKept (s.atAttEnd n o) n :=
  (s.metering_workKept n (some ⟨[], [], false⟩)).trans ((State.attHold_workKept _ n o 0).trans (State.atUnit_workKept _ n 3 (o.w.drop 8)))

/-- An operation that ends with ST_OK in a module where nothing else is at work has its status word in the pool and no longer runs. -/
theorem State.Alone.attComplete_writes {s : State} {n : Nat} {o : AttOp} {met : AttEnd} (ha : s.Alone n) (hr : (s.core n).attRun = [o]) (hq : (s.core n).rq = [])
    (hf : s.flows (s.diePart (dieOf n)) fun y => (y.attHold n o 0).atWork n 3 (o.w.drop 8) (State.attEnd n (s.diePart (dieOf n)) o met))
    (he : ∃ z, (s.atAttEnd n o).WorkKept z n ∧ State.attEnd n (s.diePart (dieOf n)) o met (s.atAttEnd n o) = z.attEnded n o) :
    (attComplete n 0 met s).rawBytes (.pool n) (AttDesc.of o.w).status 8 = toBytesLE 8 (stOk + o.pages.length * 2 ^ 32) ∧
      ((attComplete n 0 met s).core n).attRun = [] := by
  obtain ⟨charges, free⟩ := hf.metered
  obtain ⟨z, work, ended⟩ := he
  have kept := (s.atAttEnd_workKept n o).trans work
  have clean : z.Spotless := kept.clean ⟨ha.faults, ha.wires, ha.sram⟩
  have status := kept.trans (z.attStatus_workKept n (AttDesc.of o.w) stOk o.pages.length)
  have left := ha.attLeave_lone hr status
  generalize hy : State.chargeAll _ (s.diePart (dieOf n)) [] charges = y at free
  obtain ⟨rest, mem⟩ : ((z.attStatus n (AttDesc.of o.w) stOk o.pages.length).attLeave n o).WorkKept y n ∧
      y.mem = (z.attStatus n (AttDesc.of o.w) stOk o.pages.length).mem := by
    rw [← hy, State.atWork, ← State.atAttEnd, ended, State.attEnded]
    refine ⟨.trans ?_ (State.chargeAll_workKept ..), ?_⟩
    · refine .trans ?_ (State.metering_workKept ..)
      refine .trans ?_ (State.backAt_workKept ..)
      exact (State.attReeds_workKept ..).trans (State.bump_workKept ..)
    · rw [State.chargeAll_eq]
      exact State.attReeds_mem _ n o.banks
  have lone := rest.lone left
  have reeds : (y.core n).rq = [] := by
    refine (congrArg UnitWork.rq rest.work).trans ?_
    rw [State.attLeave_core]
    exact (congrArg UnitWork.rq status.work).trans hq
  have finish : s.attFinish n o met = y := by
    unfold State.attFinish
    dsimp only
    rw [free]
    exact State.reedPass_stops (Core.nextReed_none (by rw [reeds]; simp)) 17
  have complete : attComplete n 0 met s = y.refreshIdle := by
    rw [← lone.retryAll, ← finish]
    simp [attComplete, hr]
  have refreshed := y.refreshIdle_refreshed
  rw [complete, State.rawBytes_pool_congr (refreshed.mem.trans mem)]
  refine ⟨State.attStatus_rawBytes clean.2.2 .., ?_⟩
  rw [refreshed.frame]
  exact lone.idle.attention

end Sys2Proof.Machine
end

section
/-!
PROOFS. Walker descriptors issued, and the one at the head whose root is in the root cache (R183 to R186, R188).
-/
namespace Sys2Proof.Machine

/-! ### Descriptors refused (R185, R195) -/

/-- KVW_FAULT is valid after a fault: it holds this one or an earlier one. -/
theorem State.kvFault_valid (s : State) (c reason tag stream pos root : Nat) : (s.kvFault c reason tag stream pos root).on .KVW_FAULT_VALID c = true := by
  unfold State.kvFault
  split
  · assumption
  · have later (u : State) (g : Fld) (v : Nat) (hg : g.id < 4096) (h : Fld.KVW_FAULT_VALID.id ≠ g.id) :
        (u.put g c v).on .KVW_FAULT_VALID c = u.on .KVW_FAULT_VALID c := congrArg (· == 1) (State.get_put_of_id u c c v hg (by decide) h)
    simp only [State.puts, List.foldl_cons, List.foldl_nil]
    rw [later _ _ _ (by decide) (by decide), later _ _ _ (by decide) (by decide), later _ _ _ (by decide) (by decide), later _ _ _ (by decide) (by decide),
      later _ _ _ (by decide) (by decide)]
    exact State.on_put_one _ _ _ (by decide)

/-- A trap leaves the walker's fault that it reports. -/
theorem State.trap_kvFault (s : State) (c cause tag status : Nat) : (s.trap c cause tag status).on .KVW_FAULT_VALID c = s.on .KVW_FAULT_VALID c :=
  congrArg (· == 1) (State.trap_get (f := .KVW_FAULT_VALID) ⟨by decide, by decide +kernel⟩ c s c cause tag status (by decide) (by decide) (by decide))

/-- The rows of the walker: words of the row's OP are issued. -/
theorem walkRow_issues {s : State} {c : Site} {op : Nat} {w : List Word} (hc : s.clocked = true) (ho : fieldOf (wordAt w 0) 3 0 = op) :
    walkRow c op w s = .next (walkIssue (siteNo c) w s) := by
  rw [walkRow, if_pos ho, State.whenClocked_on _ hc]

section
variable {s : State} {c : Nat} {w : List Word}

theorem walkIssue_refused (h : s.inForce .KVW_CTL_ENABLE c = 0 ∨ walkWordsOk w = false ∨ s.get .KVW_ROOT_COUNT_COUNT (s.diePart (dieOf c)) ≤ (WalkDesc.of w).root) :
    ∃ reason status, walkIssue c w s = s.walkRefuse c (WalkDesc.of w) reason status := by
  by_cases he : s.inForce .KVW_CTL_ENABLE c = 0
  · exact ⟨5, stDisabled, if_pos he⟩
  · refine ⟨4, stBadPacket, (if_neg he).trans (if_pos ?_)⟩
    exact (h.resolve_left he).imp_left fun bad => by rw [bad]; rfl

theorem walkIssue_accepted (he : s.inForce .KVW_CTL_ENABLE c ≠ 0) (hv : walkWordsOk w = true) (hr : (WalkDesc.of w).root < s.get .KVW_ROOT_COUNT_COUNT (s.diePart (dieOf c))) :
    walkIssue c w s = if 17 ≤ (s.core c).kvq.length then s else (s.modCore c fun k => { k with kvq := k.kvq ++ [w ++ s.issueWords c] }).kvPass 18 c := by
  have formed : ¬(!walkWordsOk w ∨ s.get .KVW_ROOT_COUNT_COUNT (s.diePart (dieOf c)) ≤ (WalkDesc.of w).root) := by
    rw [hv]
    exact not_or.2 ⟨Bool.false_ne_true, Nat.not_le.2 hr⟩
  exact (if_neg he).trans (if_neg formed)

end

/-! ### The descriptor at the head -/

/-- The root cache after a hit: the entry in front. -/
def State.rootUsed (s : State) (c : Nat) (e : Nat × List Word) : State := s.modCore c fun q => { q with rootCache := e :: q.rootCache.erase e }

/-- Work that meets no regulator, bank or port is done at once. -/
theorem State.metered_free {α : Type} {s u : State} {a : α} {f : State → α × State}
    (h : f { s with metering := some ⟨[], [], false⟩ } = (a, { u with metering := some ⟨[], [], false⟩ })) (p : Nat) :
    s.metered p false f = (some a, { u with metering := s.metering }) := by
  have free : s.barred p [] [] = none := by
    unfold State.barred
    split <;> rfl
  have charged (t : State) : t.chargeAll p [] [] = t := by
    unfold State.chargeAll
    split <;> rfl
  unfold State.metered
  simp only [h, Option.getD_some, Bool.false_eq_true, if_false, free, charged]

section
variable {s : State} {c : Nat} {w : List Word} {e : Nat × List Word}

/-- A root in the root cache that allows the descriptor lets its work begin. -/
theorem State.walkWork_cached (h : ((s.core c).rootCache.find? fun e => e.1 == (WalkDesc.of w).root) = some e)
    (hr : walkRootReason (s.rootUsed c e) (s.diePart (dieOf c)) (WalkDesc.of w) e.2 = 0) :
    s.walkWork c w = let z := s.rootUsed c e; let d := WalkDesc.of w; let p := s.diePart (dieOf c)
      if d.op = 1 then z.appendWork c p d (Root.of e.2) else if d.op = 2 then (true, z.lengthWork c p d e.2) else z.touchWork c p d (Root.of e.2) := by
  have check : State.walkCheck { s with metering := some ⟨[], [], false⟩ } c (s.diePart (dieOf c)) (WalkDesc.of w) =
      (some e.2, { s.rootUsed c e with metering := some ⟨[], [], false⟩ }) := by
    have root : State.walkRoot { s with metering := some ⟨[], [], false⟩ } c (s.diePart (dieOf c)) (WalkDesc.of w).root =
        (.ok e.2, { s.rootUsed c e with metering := some ⟨[], [], false⟩ }) := by
      unfold State.walkRoot
      rw [show (State.core { s with metering := some ⟨[], [], false⟩ } c).rootCache = (s.core c).rootCache from rfl, h]
      rfl
    have reason : walkRootReason { s.rootUsed c e with metering := some ⟨[], [], false⟩ } (s.diePart (dieOf c)) (WalkDesc.of w) e.2 = 0 := hr
    unfold State.walkCheck
    rw [root]
    dsimp only
    rw [reason]
    rfl
  have work := State.metered_free (f := fun s' => s'.walkCheck c (s.diePart (dieOf c)) (WalkDesc.of w)) check (s.diePart (dieOf c))
  unfold State.walkWork
  dsimp only
  rw [work]
  rfl

theorem State.kvPass_empty (h : (s.core c).kvq = []) (fuel : Nat) : s.kvPass fuel c = s := by
  cases fuel with
  | zero => rfl
  | succ fuel => simp only [State.kvPass, h]

/-- The only descriptor at a port is taken on, and leaves the queue unless it waits. -/
theorem State.kvPass_only {r : Bool × State} (h : (s.core c).kvq = [w]) (hr : (s.atUnit c 4 (w.drop 4)).walkWork c w = r) (fuel : Nat) :
    s.kvPass (fuel + 1) c = if r.1 then (r.2.backAt c (s.core c)).modCore c fun q => { q with kvq := [], kvDone := 0, kvUsed := 0 } else r.2.backAt c (s.core c) := by
  simp only [State.kvPass, h, hr]
  split
  · exact State.kvPass_empty (by rw [State.modCore, State.core_set_same]) fuel
  · rfl

end

/-- The module with a descriptor at the end of its port's queue. -/
def State.walkQueued (s : State) (c : Nat) (w : List Word) : State := s.modCore c fun k => { k with kvq := k.kvq ++ [w ++ s.issueWords c] }

/-- The walker at work on the descriptor, its root found in the root cache. -/
def State.walkBegun (s : State) (c : Nat) (w : List Word) (e : Nat × List Word) : State := ((s.walkQueued c w).atUnit c 4 (s.issueWords c)).rootUsed c e

/-- What a descriptor with a root in the root cache comes to: whether it is done, and the state. -/
def State.walkOutcome (s : State) (c : Nat) (w : List Word) (e : Nat × List Word) : Bool × State :=
  let z := s.walkBegun c w e
  let d := WalkDesc.of w
  let p := s.diePart (dieOf c)
  if d.op = 1 then z.appendWork c p d (Root.of e.2) else if d.op = 2 then (true, z.lengthWork c p d e.2) else z.touchWork c p d (Root.of e.2)

/-- The descriptor's outcome at its port: it leaves the queue where it is done. -/
def State.walkLeft (c : Nat) (k : Core) (r : Bool × State) : State :=
  if r.1 then (r.2.backAt c k).modCore c fun q => { q with kvq := [], kvDone := 0, kvUsed := 0 } else r.2.backAt c k

theorem State.walkLeft_mem (c : Nat) (k : Core) (r : Bool × State) : (State.walkLeft c k r).mem = r.2.mem := by
  unfold State.walkLeft
  split <;> rfl

theorem State.walkLeft_stage (c : Nat) (k : Core) (r : Bool × State) : (State.walkLeft c k r).stage = r.2.stage := by
  unfold State.walkLeft
  split <;> rfl

theorem State.walkLeft_kvq (c : Nat) (k : Core) (r : Bool × State) : ((State.walkLeft c k r).core c).kvq = if r.1 then [] else (r.2.core c).kvq := by
  unfold State.walkLeft
  split
  · rw [State.modCore, State.core_set_same]
  · rw [State.backAt, State.modCore, State.core_set_same]

theorem State.walkBegun_kvq {s : State} {c : Nat} (h : (s.core c).kvq = []) (w : List Word) (e : Nat × List Word) :
    ((s.walkBegun c w e).core c).kvq = [w ++ s.issueWords c] := by
  simp [State.walkBegun, State.rootUsed, State.atUnit, State.walkQueued, State.modCore, h]

theorem State.WorkKept.kvq {s t : State} {n : Nat} (h : s.WorkKept t n) : (t.core n).kvq = (s.core n).kvq := congrArg UnitWork.kvq h.work

/-- A descriptor issued to an empty queue whose root is in the root cache runs at once. -/
theorem walkIssue_cached {s : State} {c : Nat} {w : List Word} {e : Nat × List Word} (he : s.inForce .KVW_CTL_ENABLE c ≠ 0) (hv : walkWordsOk w = true)
    (hr : (WalkDesc.of w).root < s.get .KVW_ROOT_COUNT_COUNT (s.diePart (dieOf c))) (hl : w.length = 4) (hd : WalkDesc.of (w ++ s.issueWords c) = WalkDesc.of w)
    (hq : (s.core c).kvq = []) (hc : ((s.core c).rootCache.find? fun e => e.1 == (WalkDesc.of w).root) = some e)
    (ha : walkRootReason (s.walkBegun c w e) (s.diePart (dieOf c)) (WalkDesc.of w) e.2 = 0) :
    walkIssue c w s = State.walkLeft c ((s.walkQueued c w).core c) (s.walkOutcome c w e) := by
  have room : ¬ 17 ≤ (s.core c).kvq.length := by rw [hq]; decide
  have queued : (s.walkQueued c w).core c = { s.core c with kvq := [w ++ s.issueWords c] } := by rw [State.walkQueued, State.modCore, State.core_set_same, hq]; rfl
  have issued : (w ++ s.issueWords c).drop 4 = s.issueWords c := List.drop_left' hl
  have core : (((s.walkQueued c w).atUnit c 4 (s.issueWords c)).core c).rootCache = (s.core c).rootCache := by
    rw [State.atUnit, State.modCore, State.core_set_same, queued]
  have work : ((s.walkQueued c w).atUnit c 4 (s.issueWords c)).walkWork c (w ++ s.issueWords c) = s.walkOutcome c w e := by
    rw [State.walkWork_cached (e := e) (by rw [core, hd]; exact hc) (by rw [hd]; exact ha), hd]
    rfl
  rw [walkIssue_accepted he hv hr, if_neg room]
  exact State.kvPass_only (by rw [← State.walkQueued, queued]) (by rw [issued]; exact work) 17

/-! ### LENGTH and TOUCH (R184, R185) -/

theorem State.stageWord_mem (s : State) (p d a : Nat) (entry : Bool) (w : Word) : (s.stageWord p d a entry w).1.mem = s.mem := by
  unfold State.stageWord
  dsimp only
  split
  · rfl
  · unfold State.raise
    split <;> rfl

theorem State.kvFault_mem (s : State) (c reason tag stream pos root : Nat) : (s.kvFault c reason tag stream pos root).mem = s.mem := by
  unfold State.kvFault
  split
  · rfl
  · rw [State.puts_eq]
    rfl

/-- The words of a LENGTH go to the stage and not to memory. -/
theorem State.lengthWork_mem (s : State) (c p : Nat) (d : WalkDesc) (w : List Word) : (s.lengthWork c p d w).mem = s.mem := by
  unfold State.lengthWork
  dsimp only
  generalize hstaged : (List.range 3).foldl _ (s, true) = r
  have staged : r.1.mem = s.mem := by
    rw [← hstaged]
    refine foldl_fixes (fun r : State × Bool => r.1.mem) (fun r k => ?_) _ (s, true)
    exact (State.stageWord_mem ..).trans (State.stageWord_mem ..)
  split
  · exact staged
  · exact (State.kvFault_mem ..).trans staged

/-- A TOUCH of no position resolves nothing. -/
theorem State.touchWork_none (s : State) (c p : Nat) {d : WalkDesc} (h : d.count = 0) (r : Root) : s.touchWork c p d r = (true, s) := by
  have units : d.touchUnits = 0 := if_pos h
  simp [State.touchWork, State.walkOn, units]

/-! ### What an issued descriptor comes to, by its OP -/

section
variable (s : State) (c : Nat) {w : List Word} (e : Nat × List Word)

theorem State.walkBegun_mem (w : List Word) : (s.walkBegun c w e).mem = s.mem := by
  simp only [State.walkBegun, State.rootUsed, State.atUnit, State.walkQueued, State.modCore, State.setCore_mem]

theorem State.walkBegun_stage (w : List Word) : (s.walkBegun c w e).stage = s.stage := by
  simp only [State.walkBegun, State.rootUsed, State.atUnit, State.walkQueued, State.modCore, State.setCore_stage]

theorem State.walkOutcome_append (h : (WalkDesc.of w).op = 1) :
    s.walkOutcome c w e = (s.walkBegun c w e).appendWork c (s.diePart (dieOf c)) (WalkDesc.of w) (Root.of e.2) := if_pos h

theorem State.walkOutcome_length (h : (WalkDesc.of w).op = 2) :
    s.walkOutcome c w e = (true, (s.walkBegun c w e).lengthWork c (s.diePart (dieOf c)) (WalkDesc.of w) e.2) :=
  (if_neg (by rw [h]; decide)).trans (if_pos h)

theorem State.walkOutcome_touch_none (h : (WalkDesc.of w).op = 3) (h0 : (WalkDesc.of w).count = 0) : s.walkOutcome c w e = (true, s.walkBegun c w e) :=
  (if_neg (by rw [h]; decide)).trans ((if_neg (by rw [h]; decide)).trans (State.touchWork_none _ c _ h0 _))

end

end Sys2Proof.Machine
end

section
/-!
PROOFS. Attention descriptors issued and started, and the statement O57.
-/
namespace Sys2Proof.Machine

/-! ### Descriptors issued (R168, R170) -/

/-- The rows of the attention engine: words of the row's OP are issued. -/
theorem attRow_issues {s : State} {c : Site} {op : Nat} {w : List Word} (hc : s.clocked = true) (ho : fieldOf (wordAt w 0) 3 0 = op) :
    attRow c op w s = .next (attIssue (siteNo c) w s) := by
  rw [attRow, if_pos ho, State.whenClocked_on _ hc]

section
variable {s : State} {c : Nat} {w : List Word}

theorem attIssue_refused (h : s.inForce .ATT_CTL_ENABLE c = 0 ∨ (AttDesc.of w).valid w = false) :
    ∃ reason status, attIssue c w s = s.attRefuse c (AttDesc.of w) reason status := by
  by_cases he : s.inForce .ATT_CTL_ENABLE c = 0
  · exact ⟨4, stDisabled, if_pos he⟩
  · have hv : (!(AttDesc.of w).valid w) = true := by rw [h.resolve_left he]; rfl
    exact ⟨3, stBadPacket, (if_neg he).trans (if_pos hv)⟩

theorem attIssue_accepted (he : s.inForce .ATT_CTL_ENABLE c ≠ 0) (hv : (AttDesc.of w).valid w = true) (ha : (AttDesc.of w).needsArgs = false)
    (hp : (AttDesc.of w).placed (AttArgs.of []) c = true)
    (hl : (AttDesc.of w).op = 2 → s.diePart (dieOf c) < 12 ∧ bitOf (s.get .PART_STATUS_LIC (s.diePart (dieOf c))) 0 = true) :
    attIssue c w s = if 8 ≤ (s.core c).attq.length then s
      else s.setCore c { s.core c with attq := (s.core c).attq ++ [⟨(s.core c).rseq, w ++ s.issueWords c, [], [], none⟩], rseq := (s.core c).rseq + 1 } := by
  have licensed : ((AttDesc.of w).op = 2 && !(s.diePart (dieOf c) < 12 && bitOf (s.get .PART_STATUS_LIC (s.diePart (dieOf c))) 0)) = false := by
    by_cases h2 : (AttDesc.of w).op = 2
    · obtain ⟨owned, licence⟩ := hl h2
      simp [owned, licence]
    · simp [h2]
  unfold attIssue
  dsimp only
  rw [if_neg he, hv, ha, hp, licensed]
  rfl

end

/-! ### An operation that starts (R165) -/

theorem State.metered_congr {α : Type} {s : State} {f g : State → α × State} (h : f { s with metering := some ⟨[], [], false⟩ } = g { s with metering := some ⟨[], [], false⟩ })
    (p : Nat) (bg : Bool) : s.metered p bg f = s.metered p bg g := by
  unfold State.metered
  rw [h]

/-- The operation taken off the queue by `f` and begun by the engine. -/
def State.attBegun (s : State) (c : Nat) (f : Core → Core) (o : AttOp) (x : State) : State :=
  (x.modCore c f).atWork c 3 (o.w.drop 8) (State.attBegin c (s.diePart (dieOf c)) o)

/-- The core with an operation taken off its queue. -/
def Core.without (o : AttOp) (k : Core) : Core := { k with attq := k.attq.filter fun y => y.num != o.num }

/-- The core with no operation in its queue. -/
def Core.queueless (k : Core) : Core := { k with attq := [] }

/-- The first operation that nothing holds begins, and reed descriptors may start after it. -/
theorem attStart_first {s : State} {c : Nat} {o : AttOp} (hl : s.inLull = false) (hc : ∀ bs, ((s.core c).attq.find? fun o => s.attClear c bs o) = some o) :
    attStart c s = match s.metered (s.diePart (dieOf c)) false fun x => ((), s.attBegun c (Core.without o) o x) with
      | (some _, t) => t.reedPass 17 c
      | (none, t) => t := by
  unfold attStart
  dsimp only
  rw [hl, hc, if_neg Bool.false_ne_true]
  rfl

/-- In the lull and with an empty queue nothing starts. -/
theorem attStart_idle {s : State} {c : Nat} (h : s.inLull = true ∨ (s.core c).attq = []) : attStart c s = s := by
  unfold attStart
  by_cases hl : s.inLull = true
  · rw [if_pos hl]
  · dsimp only
    rw [if_neg hl, h.resolve_left hl]
    rfl

/-- What an operation that begins leaves in the queue. -/
theorem State.attBegun_attq (s : State) (c : Nat) (f : Core → Core) (o : AttOp) (x : State) : ((s.attBegun c f o x).core c).attq = (f (x.core c)).attq := by
  unfold State.attBegun State.atWork
  refine (State.backAt_workKept ..).attq.trans ((State.attBegin_attq ..).trans ((State.atUnit_workKept ..).attq.trans ?_))
  rw [State.modCore, State.core_set_same]

/-- With one operation in the queue and nothing that holds it, the queue is empty once it has started. -/
theorem attStart_begins {s : State} {c : Nat} {o : AttOp} (hl : s.inLull = false) (hq : (s.core c).attq = [o]) (hc : ∀ bs, s.attClear c bs o = true)
    (hf : s.flows (s.diePart (dieOf c)) (s.attBegun c Core.queueless o)) : ((attStart c s).core c).attq = [] := by
  obtain ⟨charges, free⟩ := hf.metered
  have taken (x : State) (hx : x.core c = s.core c) : s.attBegun c (Core.without o) o x = s.attBegun c Core.queueless o x := by
    have only : Core.without o (s.core c) = Core.queueless (s.core c) := by simp [Core.without, Core.queueless, hq]
    rw [State.attBegun, State.attBegun, State.modCore, State.modCore, hx, only]
  have same := State.metered_congr (s := s) (f := fun x => ((), s.attBegun c (Core.without o) o x)) (g := fun x => ((), s.attBegun c Core.queueless o x))
    (congrArg (Prod.mk ()) (taken _ rfl)) (s.diePart (dieOf c)) false
  rw [attStart_first (o := o) hl fun bs => by rw [hq]; simp [hc], same, free]
  refine (State.reedPass_attq ..).trans ((State.chargeAll_workKept ..).attq.trans ((State.metering_workKept ..).attq.trans ?_))
  exact s.attBegun_attq c Core.queueless o _

end Sys2Proof.Machine
end

section
namespace Sys2Proof.Proofs
open Sys2Proof Sys2Proof.Machine

/-- Settles O57: the checks refuse with a trap or let the descriptor join its queue; the work of an operation keeps the
units' queues, so that it leaves its own where it starts and ends, and the walker's port ends or keeps the only one it has. -/
theorem attentionAndWalker : Obligations.AttentionAndWalker := by
  intro c s n k hc
  have start : exec (.attentionOpStart c) s = .next (attStart n s) := congrArg _ (State.whenClocked_on _ hc)
  have complete (i : Fin 4) (met : AttEnd) : exec (.attentionOpComplete c (i, met)) s = .next (attComplete n i.val met s) := congrArg _ (State.whenClocked_on _ hc)
  refine ⟨?_, fun idle => ?_, ?_, fun i met hnone => ?_, ?_, ?_⟩
  · intro w0 w1 w2 w3 w4 w5 w6 w7 w d x hx ho
    have issue : exec x.1 s = .next (attIssue n w s) := by
      simp only [List.mem_cons, List.not_mem_nil, or_false] at hx
      rcases hx with rfl | rfl <;> exact attRow_issues hc ho
    rw [issue]
    refine ⟨fun h => ?_, fun he hv ha hp hlic hop => ?_⟩
    · obtain ⟨reason, status, refused⟩ := attIssue_refused h
      rw [refused]
      exact ⟨_, rfl, State.trap_state .., State.trap_cause _ _ _ _ (by decide)⟩
    · rw [attIssue_accepted he hv ha hp fun h2 => hlic (hop ▸ h2)]
  · rw [start, attStart_idle idle]
  · intro o p hl hq hclear hf
    exact ⟨_, start, attStart_begins hl hq hclear hf⟩
  · rw [complete, attComplete, hnone]
  · intro o met z1 z2 pages bs d p x a ha hrun hq hf hfetch hread hsram hmet hst hpages
    exact ⟨_, complete 0 met, ha.attComplete_writes hrun hq hf (State.attEnd_completes rfl rfl hfetch hread hmet)⟩
  · intro w0 w1 w2 w3 w d p x hx ho
    have issue : exec x.1 s = .next (walkIssue n w s) := by
      simp only [List.mem_cons, List.not_mem_nil, or_false] at hx
      rcases hx with rfl | rfl | rfl <;> exact walkRow_issues hc ho
    have op : d.op = x.2 := ho
    rw [issue]
    refine ⟨fun h => ?_, fun he hv hr => ⟨fun full => ?_, ?_⟩⟩
    · obtain ⟨reason, status, refused⟩ := walkIssue_refused h
      rw [refused]
      exact ⟨_, rfl, State.trap_state .., State.trap_cause _ _ _ _ (by decide), (State.trap_kvFault ..).trans (State.kvFault_valid ..)⟩
    · rw [walkIssue_accepted he hv hr, if_pos full]
    · intro e z hq hfind hreason
      have queued : (z.core n).kvq = [w ++ s.issueWords n] := State.walkBegun_kvq hq w e
      rw [walkIssue_cached he hv hr rfl rfl hq hfind hreason]
      refine ⟨fun h1 => ?_, fun h2 => ?_, fun h3 h0 => ?_⟩
      · have kept := (z.appendWork_workKept n p d (Root.of e.2)).kvq.trans queued
        rw [State.walkOutcome_append s n e (op.trans h1)]
        refine ⟨_, rfl, State.walkLeft_mem .., State.walkLeft_stage .., (State.walkLeft_kvq ..).trans (congrArg (ite _ []) kept)⟩
      · rw [State.walkOutcome_length s n e (op.trans h2)]
        exact ⟨_, rfl, (State.walkLeft_mem ..).trans ((z.lengthWork_mem n p d e.2).trans (s.walkBegun_mem n e w)), State.walkLeft_stage .., State.walkLeft_kvq ..⟩
      · rw [State.walkOutcome_touch_none s n e (op.trans h3) h0]
        exact ⟨_, rfl, (State.walkLeft_mem ..).trans (s.walkBegun_mem n e w), (State.walkLeft_stage ..).trans (s.walkBegun_stage n e w), State.walkLeft_kvq ..⟩

end Sys2Proof.Proofs
end

section
/-!
PROOFS. The host KV commands (R190 to R193, R211): how a command starts as a whole, what each does once it has begun, and the statement O26.
-/
namespace Sys2Proof.Machine

/-! ### The wrapper and the start -/

section
variable {s : State} {q : Req} {p0 p1 p2 p3 p4 : Word}

theorem exec_kvRootSet (h : s.Accepts opKvRootSet q [p0, p1, p2, p3]) (hi : s.rootIndexOk q.part.val p0.toNat = true) :
    exec (.kvRootSet q p0 p1 p2 p3) s = .next (kvRootSet q p0.toNat [p1, p2, p3] s) :=
  hostRow_accepted h (if_pos hi) _

theorem exec_kvTrim (h : s.Accepts opKvTrim q [p0, p1, p2]) (hi : s.rootIndexOk q.part.val p0.toNat = true) (hb : fieldOf p1 63 32 % 256 = 0)
    (ht : flagOf p2 0 = false → fieldOf p1 63 32 ≤ fieldOf p1 31 0) :
    exec (.kvTrim q p0 p1 p2) s =
      .next (s.kvStart q 0x12 [p0, p1, p2] (kvTrim q p0.toNat (fieldOf p1 31 0) (fieldOf p1 63 32) (flagOf p2 0))) := by
  have inRange : ¬((!s.rootIndexOk q.part.val p0.toNat) = true ∨ fieldOf p1 63 32 % 256 ≠ 0 ∨ (!flagOf p2 0 && decide (fieldOf p1 31 0 < fieldOf p1 63 32)) = true) := by
    simpa [hi, hb] using ht
  exact hostRow_accepted h (if_neg inRange) _

theorem exec_kvFork (h : s.Accepts opKvFork q [p0, p1]) (ha : s.rootIndexOk q.part.val (fieldOf p0 31 0) = true)
    (hb : s.rootIndexOk q.part.val (fieldOf p0 63 32) = true) :
    exec (.kvFork q p0 p1) s = .next (s.kvStart q 0x11 [p0, p1] (kvFork q (fieldOf p0 31 0) (fieldOf p0 63 32) p1.toNat)) :=
  hostRow_accepted h (if_pos (by rw [ha, hb]; rfl)) _

theorem exec_kvEvict (h : s.Accepts opKvEvict q [p0, p1, p2, p3, p4]) (hr : kvMoveReason q true p0 p1 p2 p3 p4 s = 0) :
    exec (.kvEvict q p0 p1 p2 p3 p4) s = .next (s.kvStart q 0x13 [p0, p1, p2, p3, p4] (kvMoveOf q 0x13 [p0, p1, p2, p3, p4])) :=
  hostRow_accepted h hr _

theorem exec_kvPrefetch (h : s.Accepts opKvPrefetch q [p0, p1, p2, p3, p4]) (hr : kvMoveReason q false p0 p1 p2 p3 p4 s = 0) :
    exec (.kvPrefetch q p0 p1 p2 p3 p4) s = .next (s.kvStart q 0x14 [p0, p1, p2, p3, p4] (kvMoveOf q 0x14 [p0, p1, p2, p3, p4])) :=
  hostRow_accepted h hr _

/-- A start whose reads meet no held bank and whose requests may issue is made as a whole, and its charges are taken with it (R211, R212). -/
theorem State.kvStart_begins {m : Meter} {f : State → State} (hm : (f { s with metering := some ⟨[], [], false⟩ }).metering = some m)
    (hb : m.blocked = false) (hf : s.barred q.part.val m.uses m.charges = none) (op : Nat) (w : List Word) :
    s.kvStart q op w f = { f { s with metering := some ⟨[], [], false⟩ } with metering := s.metering }.chargeAll q.part.val m.uses m.charges := by
  simp only [State.kvStart, State.metered, hm, Option.getD_some, hb, Bool.false_eq_true, if_false, if_true, hf]

end

/-! ### Each command begun -/

section
variable {s y : State} {q : Req} {w : List Word}

/-- A root record in form, of a long cache only where licensed, with its place in the table mapped, waits for the lull (R191). -/
theorem kvRootSet_waits {n : Nat} (hw : rootSetOk w = true) (hl : (Root.of w).long = false ∨ s.licLong q.part.val = true)
    (hm : (s.cmdRange q.part.val (s.rootAt q.part.val n 2) 32).isSome = true) :
    kvRootSet q n w s = { s with cmds := s.cmdsWith q 0x10 (.kvRootSet n w) } := by
  have licensed : ((Root.of w).long && !s.licLong q.part.val) = false := by rcases hl with h | h <;> simp [h]
  have mapped : (s.cmdRange q.part.val (s.rootAt q.part.val n 2) 32).isNone = false := Option.isNone_eq_false_iff.2 hm
  simp only [kvRootSet, hw, licensed, mapped, Bool.not_true, Bool.false_eq_true, if_false]
  rfl

/-- A trim of a readable root waits for the lull, or names a length beyond what is committed (R191). -/
theorem kvTrim_root {n : Nat} (h : s.hostRoot q.part.val n = (.ok w, y)) (t b : Nat) (keep : Bool) :
    kvTrim q n t b keep s =
      if keep = false ∧ (Root.of w).length < t then y.done q stNotCommitted else { y with cmds := y.cmdsWith q 0x12 (.kvTrim n t b keep) } := by
  simp only [kvTrim, h, Bool.and_eq_true, Bool.not_eq_true', decide_eq_true_eq]
  rfl

/-- The one command in progress, a fork with no page left to copy, has nothing to do before the lull. -/
theorem State.forkPass_copied {c : Cmd} {src dst below : Nat} {shared : List Nat} (hs : s.cmds = [c]) (hk : c.kind = .kvFork src dst below [] shared) :
    s.forkPass = s := by
  simp only [State.forkPass, hs, List.foldl_cons, List.foldl_nil, hk, State.forkRun]

/-- A fork of roots of one shape, with every page at or above its position, has nothing to copy and waits for the lull (R190, R191). -/
theorem kvFork_waits {src dst f : Nat} {wa wb : List Word} {ps : List PageAt} {y1 y2 : State} (ha : s.hostRoot q.part.val src = (.ok wa, y1))
    (hb : y1.hostRoot q.part.val dst = (.ok wb, y2)) (shape : sameShape (Root.of wa) (Root.of wb) = true) (len : f ≤ (Root.of wa).length)
    (pages : y2.pageEntries q.part.val (Root.of wa) = (.ok ps, y)) (above : ∀ e ∈ ps, f ≤ e.first) (alone : y.cmds = []) :
    kvFork q src dst f s = { y with cmds := y.cmdsWith q 0x11 (.kvFork src dst f [] []) } := by
  have shared : (ps.filter fun e => decide (e.first < f)) = [] := List.filter_eq_nil_iff.2 fun e he => by simpa using above e he
  have copied : (y.startCmd q 0x11 (.kvFork src dst f [] [])).forkPass = y.startCmd q 0x11 (.kvFork src dst f [] []) :=
    State.forkPass_copied (congrArg (· ++ _) alone) rfl
  simp only [kvFork, ha, hb, shape, Bool.not_true, Bool.false_eq_true, if_false, if_neg (Nat.not_lt.2 len), pages, shared, List.map_nil, List.foldl_nil, if_true, copied]
  rfl

/-- KV_EVICT or KV_PREFETCH of streams and positions of a root that has no page completes at once (R192, R193). -/
theorem kvMoveStart_empty {op root s0 n store end_ : Nat} {y1 : State} (h : s.hostRoot q.part.val root = (.ok w, y1)) (streams : s0 + n ≤ (Root.of w).streams)
    (len : end_ ≤ (Root.of w).length) (lic : op = 0x13 → store = 2 → y1.licLong q.part.val = true)
    (pages : y1.pageEntries q.part.val (Root.of w) = (.ok [], y)) (relink : Bool) (first list count : Nat) :
    kvMoveStart q op root s0 n store relink first end_ list count s = y.done q stOk := by
  have licensed : ¬((op = 0x13 ∧ store = 2) ∧ y1.licLong q.part.val = false) := fun ⟨⟨down, peat⟩, without⟩ =>
    Bool.false_ne_true (without.symm.trans (lic down peat))
  have committed : ¬(op = 0x13 ∧ (Root.of w).length < end_) := fun beyond => Nat.not_lt.2 len beyond.2
  simp [kvMoveStart, h, Nat.not_lt.2 streams, committed, licensed, pages]

end

end Sys2Proof.Machine

namespace Sys2Proof.Proofs
open Sys2Proof Sys2Proof.Machine

/-- Settles O26: the commands' checks let them run, their starts are made as a whole, and what has begun waits for the lull or has nothing to do. -/
theorem kvCommandsWait : Obligations.KvCommandsWait := by
  intro q p0 p1 p2 p3 p4 s p
  refine ⟨fun ha hi hw hl hm => ?_, ?_⟩
  · rw [exec_kvRootSet ha hi, kvRootSet_waits hw hl hm]
  intro z begun
  have begins {i : Instr} {f : State} {op : Nat} {w : List Word} {run : State → State} (starts : exec i s = .next (s.kvStart q op w run))
      (ran : run z = f) : begun i f := by
    intro m hm hb hf
    subst ran
    rw [starts, State.kvStart_begins hm hb hf]
  refine ⟨fun w y ha hi hb ht root => ?_, fun wa wb ps y1 y2 y ha alone hi hj rootA rootB shape len pages above => ?_,
    fun w y1 y root streams len pages => ⟨fun ha hr lic => ?_, fun ha hr => ?_⟩⟩
  · exact begins (exec_kvTrim ha hi hb ht) (kvTrim_root root ..)
  · exact begins (exec_kvFork ha hi hj) (kvFork_waits rootA rootB shape len pages above alone)
  · exact begins (exec_kvEvict ha hr) (kvMoveStart_empty root streams len (fun _ => lic) pages ..)
  · exact begins (exec_kvPrefetch ha hr) (kvMoveStart_empty root streams len (fun up => absurd up (by decide)) pages ..)

end Sys2Proof.Proofs
end

section
/-!
PROOFS. The copies of KV pages between fen, cache and marsh (R141, R192) and the statement O27.
-/
namespace Sys2Proof.Machine

/-! ### Tokens and reads of a copy -/

/-- A state with the allowances and regulators of another. -/
def State.accountsOf (t s : State) : State := { t with parts := s.parts, regs := s.regs }

/-- A state that equals another once it is given the other's accounts differs from it in accounts alone. -/
theorem State.eq_of_accountsOf {s u : State} (h : u.accountsOf s = s) : u = { s with parts := u.parts, regs := u.regs } := by
  have back := congrArg (State.accountsOf · u) h
  exact back

/-- A request granted its tokens is charged to allowances and regulators, and changes nothing else (R32, R211). -/
theorem State.grant_eq {s u v : State} {p n : Nat} {stores res : List Nat} (h : s.grant p stores res n = (some u, v)) :
    u = { s with parts := u.parts, regs := u.regs } := by
  have used (t : State) : (stores.foldl (fun t b => t.bgCharge p b n) t).accountsOf s = t.accountsOf s :=
    foldl_fixes (State.accountsOf · s) (fun t b => by unfold State.bgCharge; split <;> rfl) stores t
  have charged (t : State) : (res.foldl (fun t r => t.regCharge r p n) t).accountsOf s = t.accountsOf s :=
    foldl_fixes (State.accountsOf · s) (f := fun t r => t.regCharge r p n) (fun _ _ => rfl) res t
  refine State.eq_of_accountsOf ?_
  unfold State.grant at h
  dsimp only at h
  split at h
  · cases h; rfl
  · split at h
    · cases h
    · split at h
      · cases h
      · cases h
        exact (charged _).trans (used s)

/-- A read for a host command delivers the bytes stored, where nothing holds an error and no reed is at work on them. -/
theorem State.hostSideRead_clean {s : State} {st : Store} {off n : Nat} (h : (if st.isSram then s.sram.isEmpty else s.noFaults) = true)
    (hd : s.rowUndefined st off n = false) : s.hostSideRead st off n = (some (s.rawBytes st off n), s) := by
  have defined : s.rowUndefined st off (s.rawBytes st off n).length = false := by rw [State.rawBytes_length, hd]
  simp [State.hostSideRead, State.readMem_clean h, State.eccEvents, State.defined, defined]

theorem State.rowUndefined_congr {s t : State} (h : t.cores = s.cores) (st : Store) (off n : Nat) : t.rowUndefined st off n = s.rowUndefined st off n := by
  cases st <;> simp only [State.rowUndefined, State.core, h]

/-! ### KV_PAGE_COPY_DONE -/

section
variable {p : Nat} {s : State}

theorem kvPageCopyDone_idle (h : ∀ c ∈ s.cmds, c.q.part.val ≠ p) : kvPageCopyDone p s = s := by
  unfold kvPageCopyDone
  split
  · rfl
  · next c found =>
    have chosen := List.find?_some found
    obtain ⟨mine, -⟩ := Bool.and_eq_true_iff.1 chosen
    exact absurd (beq_iff_eq.1 mine) (h c (List.mem_of_find?_eq_some found))

/-- A move copies its page outside the peat, from one range that is mapped, whole, not withdrawn and in no held bank to another (R141, R192). -/
structure State.PageReady (s : State) (m : KvMove) (ss : Store) (so : Nat) (ds : Store) (doff : Nat) : Prop where
  unfinished : m.finished = false
  outside : m.store ≠ 2 ∧ entStore m.old ≠ 2
  src : s.devRange (entAddr m.old) 32768 = some (ss, so)
  dst : s.devRange m.dest 32768 = some (ds, doff)
  srcHere : s.anyWithdrawn ss so 32768 = false
  dstHere : s.anyWithdrawn ds doff 32768 = false
  srcFree : s.bankHeld ss so 32768 = false
  dstFree : s.bankHeld ds doff 32768 = false

/-- Once the request for the next page of the one command holds its tokens, the page is read and stored, and counts as copied. -/
theorem kvPageCopyDone_copies {c : Cmd} {root moved g : Nat} {m : KvMove} {ms copied : List KvMove} (hs : s.cmds = [c]) (hp : c.q.part.val = p)
    (hk : c.kind = .kvMove root (m :: ms) copied moved none g) {ss ds : Store} {so doff : Nat} (ready : s.PageReady m ss so ds doff) {u v x : State} {b : List Byte}
    (tokens : s.grant p (ss.bgOf ++ ds.bgOf) (ss.resOf ++ ds.resOf) 32768 = (some u, u)) (read : u.hostSideRead ss so 32768 = (some b, v))
    (stored : v.store ds doff b = (x, false)) :
    kvPageCopyDone p s = x.replaceCmd c { c with kind := .kvMove root ms (copied ++ [m]) moved none g } := by
  obtain ⟨unfinished, ⟨toStore, fromStore⟩, src, dst, srcHere, dstHere, srcFree, dstFree⟩ := ready
  simp [kvPageCopyDone, hs, hp, hk, unfinished, toStore, fromStore, src, dst, srcHere, dstHere, srcFree, dstFree, tokens, read, stored]

end

end Sys2Proof.Machine

namespace Sys2Proof.Proofs
open Sys2Proof Sys2Proof.Machine

/-- Settles O27: the tokens charge accounts alone, so that the page is read as it stood; its store is read back, and the command's next form follows. -/
theorem kvPageCopied : Obligations.KvPageCopied := by
  have event (p : Fin 12) {s : State} (hc : s.clocked = true) : exec (.kvPageCopyDone p) s = .next (kvPageCopyDone p.val s) :=
    congrArg _ (State.whenClocked_on _ hc)
  refine ⟨fun p s hc others => ?_, ?_⟩
  · rw [event p hc, kvPageCopyDone_idle others]
  intro p c root moved g m ms copied s u ss ds so doff hc hs hp hk unfinished toStore fromStore src dst srcHere dstHere srcFree dstFree hf hw hm hr defined tokens
  have kept := State.grant_eq tokens
  have clean (st : Store) : (if st.isSram then u.sram.isEmpty else u.noFaults) = true :=
    State.clean_of_noFaults (by rw [kept, hf]) (by rw [kept, hw]) (by rw [kept, hm]) st
  have spares : u.rowSpares = s.rowSpares := by rw [kept]
  have mem : u.mem = s.mem := by rw [kept]
  have cmds : u.cmds = [c] := by rw [kept, hs]
  have whole : u.rowUndefined ss so 32768 = false := (State.rowUndefined_congr (by rw [kept]) ss so 32768).trans defined
  have page : u.rawBytes ss so 32768 = s.rawBytes ss so 32768 := State.rawBytes_congr mem spares ..
  have length : (s.rawBytes ss so 32768).length = 32768 := State.rawBytes_length ..
  have read := State.hostSideRead_clean (clean ss) whole
  rw [page] at read
  have stored := State.store_clean ds doff (List.ne_nil_of_length_eq_add_one length) (clean ds)
  have ready : s.PageReady m ss so ds doff := ⟨unfinished, ⟨toStore, fromStore⟩, src, dst, srcHere, dstHere, srcFree, dstFree⟩
  refine ⟨_, (event p hc).trans (congrArg _ (kvPageCopyDone_copies hs hp hk ready tokens read stored)), ?_, fun k outside => ?_, ?_⟩
  · have back := State.rawBytes_rawWrite (spares.trans hr) ds doff (s.rawBytes ss so 32768)
    rw [length] at back
    exact back
  · have other := u.rawWrite_other ds doff (s.rawBytes ss so 32768) k fun i hi => by
      rw [State.physKey_congr spares]
      exact (outside i (length ▸ hi)).symm
    exact other.trans (congrArg (SMap.get · k 0) mem)
  · have written : (u.rawWrite ds doff (s.rawBytes ss so 32768)).cmds = [c] := by rw [State.rawWrite_eq, cmds]
    simp [State.replaceCmd, written]

end Sys2Proof.Proofs
end

section
/-!
PROOFS. The regulators' control words (R213), a refill of every regulator (R211) and the statement O22.
-/
namespace Sys2Proof.Machine

/-! ### A field whose change waits for the boundary (R124, R213) -/

section
variable (s : State) {f g : Fld} {i j : Nat} (v : Nat)

theorem State.get_putLater_same : (s.putLater f i v).get f i = v % 2 ^ f.width := State.get_put_same ..

theorem State.get_putLater_other (h : g.key j ≠ f.key i) : (s.putLater f i v).get g j = s.get g j := State.get_put_other _ v h

/-- What is in force is noted beside the value written. -/
theorem State.putLater_eff : (s.putLater f i v).eff = SMap.set s.eff (f.key i) (some (s.inForce f i)) none := rfl

theorem State.inForce_putLater_same : (s.putLater f i v).inForce f i = s.inForce f i := by
  rw [State.inForce, State.putLater_eff, SMap.get_set_same, Option.getD_some]

theorem State.inForce_putLater_other (h : g.key j ≠ f.key i) : (s.putLater f i v).inForce g j = s.inForce g j := by
  rw [State.inForce, State.putLater_eff, SMap.get_set_other _ _ _ _ h, State.get_putLater_other s v h, ← State.inForce]

theorem State.flds_putLater_other (k d : Nat) (h : k ≠ f.key i) : SMap.get (s.putLater f i v).flds k d = SMap.get s.flds k d :=
  State.flds_put_other _ _ _ _ _ _ h

end

/-! ### A control word written (R213) -/

/-- The CEILING and GUARANTEE of a regulator have keys of their own. -/
theorem regFields_key_ne (res p i j : Nat) : (regFields res p).1.key i ≠ (regFields res p).2.1.key j := by
  unfold regFields
  split_ifs <;> dsimp only <;> exact Fld.key_ne i j (by decide) (by decide) (by decide)

theorem regFields_width (res p : Nat) : (regFields res p).1.width = 16 ∧ (regFields res p).2.1.width = 16 := by
  unfold regFields
  split_ifs <;> dsimp only <;> decide

theorem rejectField_width (res : Nat) : (rejectField res).width = 1 := by
  unfold rejectField
  split_ifs <;> decide

theorem fieldOf_mod (w : Word) (hi lo : Nat) : fieldOf w hi lo % 2 ^ (hi - lo + 1) = fieldOf w hi lo := Nat.mod_mod _ _

theorem regulatorWrite_accepted {s : State} {res limit p v : Nat} (h : s.regWordOk res limit p (bitsOf v 31 16) (bitsOf v 15 0) = true) :
    regulatorWrite res limit p v s =
      (s.putLater (regFields res p).1 (regFields res p).2.2 (bitsOf v 31 16)).putLater (regFields res p).2.1 (regFields res p).2.2 (bitsOf v 15 0) := if_pos h

theorem regulatorWrite_rejected {s : State} {res limit p v : Nat} (h : s.regWordOk res limit p (bitsOf v 31 16) (bitsOf v 15 0) = false) :
    regulatorWrite res limit p v s = s.put (rejectField res) (regFields res p).2.2 1 := if_neg (by rw [h]; exact Bool.false_ne_true)

/-! ### One regulator refilled (R211) -/

/-- The counts of a regulator after a refill: the guaranteed count rises to its bound, the ceiling count carries its debt, and a wait is accounted. -/
def Reg.refilled (x : Reg) (guarantee ceiling : Nat) : Reg :=
  { x with
    guar := min (x.guar + (guarantee : Int) * 1000) ((guarantee : Int) * 8000)
    ceil := (ceiling : Int) * 1000 + min x.ceil 0
    waitUs := if x.waits then saturate 16 (x.waitUs + 1) else x.waitUs
    waits := false
    interval := 0 }

theorem Reg.refilled_ceil (x : Reg) (g c : Nat) : (x.refilled g c).ceil = (c : Int) * 1000 + min x.ceil 0 := rfl

theorem Reg.refilled_guar (x : Reg) (g c : Nat) : (x.refilled g c).guar = min (x.guar + (g : Int) * 1000) ((g : Int) * 8000) := rfl

@[simp] theorem State.reg_setReg_same (s : State) (res p : Nat) (x : Reg) : (s.setReg res p x).reg res p = x := SMap.get_set_same ..

theorem State.reg_setReg_other (s : State) {res p res' p' : Nat} (x : Reg) (h : regKey res' p' ≠ regKey res p) :
    (s.setReg res p x).reg res' p' = s.reg res' p' := SMap.get_set_other _ _ _ _ h

theorem State.reg_congr {s t : State} (h : t.regs = s.regs) (res p : Nat) : t.reg res p = s.reg res p := by rw [State.reg, h, ← State.reg]

/-- With no monitor listed, a refill writes the regulator only. -/
theorem State.refillOne_eq {s : State} (h : s.mons = []) (res p : Nat) :
    s.refillOne res p = s.setReg res p ((s.reg res p).refilled (s.regGuarantee res p) (s.regCeiling res p)) := by
  rw [State.refillOne]
  exact State.monSample_idle (s := s.setReg _ _ _) h _ _

/-! ### Every regulator refilled -/

/-- The regulators: partition and resource. -/
def regulators : List (Nat × Nat) := List.range 12 ×ˢ List.range 15

/-- The regulators of a list refilled in turn. -/
def State.refills (s : State) (l : List (Nat × Nat)) : State := l.foldl (fun s e => s.refillOne e.2 e.1) s

theorem mem_regulators {p res : Nat} : (p, res) ∈ regulators ↔ p < 12 ∧ res < 15 := by simp [regulators]

/-- No two regulators share a key. -/
theorem regulators_keys_nodup : (regulators.map fun e => regKey e.2 e.1).Nodup := by
  refine List.Nodup.map_on ?_ (List.nodup_range.product List.nodup_range)
  rintro ⟨p, res⟩ h ⟨q, res'⟩ h' same
  have := mem_regulators.1 h
  have := mem_regulators.1 h'
  simp only [regKey] at same
  rw [Prod.mk.injEq]
  omega

theorem regulatorRefill_eq (s : State) : regulatorRefill s = (s.refills regulators).retryAll := by
  have numbers : List.range 15 = resources.map Prod.fst := by decide
  simp only [regulatorRefill, State.refills, regulators, numbers, SProd.sprod, List.product, List.foldl_flatMap, List.foldl_map]

section
variable {s : State} (h : s.mons = [])
include h

/-- The first regulator of a list is refilled, then the others. -/
theorem State.refills_cons (p res : Nat) (r : List (Nat × Nat)) :
    s.refills ((p, res) :: r) = (s.setReg res p ((s.reg res p).refilled (s.regGuarantee res p) (s.regCeiling res p))).refills r := by
  rw [State.refills, List.foldl_cons, State.refillOne_eq h, ← State.refills]

theorem State.refills_frame (l : List (Nat × Nat)) : s.refills l = { s with regs := (s.refills l).regs } := by
  induction l generalizing s with
  | nil => rfl
  | cons e r ih =>
    rw [State.refills_cons h]
    exact ih h

theorem State.refills_reg_other {l : List (Nat × Nat)} {res p : Nat} (hk : regKey res p ∉ l.map fun e => regKey e.2 e.1) :
    (s.refills l).reg res p = s.reg res p := by
  induction l generalizing s with
  | nil => rfl
  | cons e r ih =>
    rw [List.map_cons, List.mem_cons, not_or] at hk
    obtain ⟨other, later⟩ := hk
    rw [State.refills_cons h, ih (s := s.setReg _ _ _) h later, State.reg_setReg_other s _ other]

/-- Each regulator of a list without repetition is refilled once, by the settings that stood before. -/
theorem State.refills_reg {l : List (Nat × Nat)} (once : (l.map fun e => regKey e.2 e.1).Nodup) {res p : Nat} (hm : (p, res) ∈ l) :
    (s.refills l).reg res p = (s.reg res p).refilled (s.regGuarantee res p) (s.regCeiling res p) := by
  induction l generalizing s with
  | nil => exact absurd hm List.not_mem_nil
  | cons e r ih =>
    rw [List.map_cons, List.nodup_cons] at once
    obtain ⟨fresh, once⟩ := once
    rw [State.refills_cons h]
    obtain rfl | later := List.mem_cons.1 hm
    · rw [State.refills_reg_other (s := s.setReg _ _ _) h fresh, State.reg_setReg_same]
    · have other : regKey res p ≠ regKey e.2 e.1 := fun same => fresh (List.mem_map.2 ⟨_, later, same⟩)
      rw [ih (s := s.setReg _ _ _) h once later, State.reg_setReg_other s _ other]
      rfl

end

/-! ### What waits is tried again after the refill -/

/-- Nothing waits in a quiet module, whatever its regulators hold. -/
theorem State.Quiet.lone {s : State} (h : s.Quiet) (n : Nat) : s.Lone n where
  site := .inl h.cores
  idle := by rw [State.core, h.cores]; exact ⟨rfl, rfl, rfl, rfl, rfl, rfl⟩
  cmds := h.cmds
  engines := h.engines
  atomHeld := h.atomHeld
  arrived := let ⟨_, arrived, _⟩ := h.xni; arrived

/-- The refresh of idle banks writes no register field but debts. -/
theorem State.refreshIdle_flds (s : State) {k : Nat} (d : Nat) (hk : keyField k ≠ Fld.FEN_BANK_CTL_DEBT.id) :
    SMap.get s.refreshIdle.flds k d = SMap.get s.flds k d := by
  have bank (u : State) (e : Nat × Nat) : SMap.get (u.refreshBank e.1 e.2 false).flds k d = SMap.get u.flds k d := by
    rw [State.refreshBank]
    split_ifs
    · rfl
    · exact State.flds_put_other _ _ _ _ _ _ fun same => hk (by rw [same, keyField_key _ (by decide)])
    · rfl
  exact foldl_fixes (fun u : State => SMap.get u.flds k d) bank s.owing s

/-- With nothing else at work, a refill is that of each regulator, and then idle banks refresh. -/
theorem State.Lone.regulatorRefill {s : State} {n : Nat} (h : s.Lone n) (hm : s.mons = []) :
    regulatorRefill s = (s.refills regulators).refreshIdle := by
  have lone : (s.refills regulators).Lone n := by
    rw [State.refills_frame hm]
    exact h.congr rfl rfl rfl rfl rfl
  rw [regulatorRefill_eq, lone.retryAll]

end Sys2Proof.Machine

namespace Sys2Proof.Proofs
open Sys2Proof Sys2Proof.Machine

/-- Settles O22: a control word is written field by field, with what it replaces noted as in force; a refill goes through regulators with keys of their own, and
nothing but idle banks waits to be tried again. -/
theorem regulatorsRefillAndCheck : Obligations.RegulatorsRefillAndCheck := by
  refine ⟨fun g p v s hc => ⟨fun accepted => ?_, fun rejected => ?_⟩, fun s r quiet => ?_⟩
  · have event : exec (.regulatorWrite g p v) s = .next _ := congrArg Host.Outcome.next ((State.whenClocked_on _ hc).trans (regulatorWrite_accepted accepted))
    have apart := regFields_key_ne (resOf g).1 p (regFields (resOf g).1 p).2.2 (regFields (resOf g).1 p).2.2
    obtain ⟨ceiling, guarantee⟩ := regFields_width (resOf g).1 p
    refine ⟨_, event, rfl, ?_, ?_, ?_, ?_, fun k d hk => ?_⟩
    · rw [State.get_putLater_other _ _ apart, State.get_putLater_same, ceiling]
      exact fieldOf_mod v 31 16
    · rw [State.get_putLater_same, guarantee]
      exact fieldOf_mod v 15 0
    · rw [State.inForce_putLater_other _ _ apart, State.inForce_putLater_same]
    · rw [State.inForce_putLater_same, State.inForce_putLater_other _ _ apart.symm]
    · simp only [List.mem_cons, List.not_mem_nil, or_false, not_or] at hk
      obtain ⟨notCeiling, notGuarantee⟩ := hk
      rw [State.flds_putLater_other _ _ _ _ notGuarantee, State.flds_putLater_other _ _ _ _ notCeiling]
  · have event : exec (.regulatorWrite g p v) s = .next _ := congrArg Host.Outcome.next ((State.whenClocked_on _ hc).trans (regulatorWrite_rejected rejected))
    refine ⟨_, event, State.on_put_one s _ _ (by rw [rejectField_width]; exact Nat.one_pos), rfl, fun k d hk => ?_⟩
    exact State.flds_put_other _ _ _ _ _ _ fun same => hk (List.mem_singleton.2 same)
  · intro x
    have clocked : x.clocked = true := quiet.clocked
    have mons : x.mons = [] := quiet.mons
    have lone : x.Lone 0 := (quiet.lone 0).congr rfl rfl rfl rfl rfl
    have event : exec .regulatorRefill x = .next _ := congrArg Host.Outcome.next ((State.whenClocked_on _ clocked).trans (lone.regulatorRefill mons))
    have refilled := State.refills_frame mons regulators
    have refreshed := (State.refreshIdle_refreshed (x.refills regulators)).frame
    refine ⟨_, event, ?_, fun k d hk => ?_, fun res p hr hp => ?_⟩
    · rw [refreshed, refilled]
    · rw [State.refreshIdle_flds _ d hk, refilled]
    · have kept : (x.refills regulators).refreshIdle.regs = (x.refills regulators).regs := by rw [refreshed]
      rw [State.reg_congr kept, State.refills_reg mons regulators_keys_nodup (mem_regulators.2 ⟨hp, hr⟩)]
      exact ⟨Reg.refilled_ceil .., Reg.refilled_guar ..⟩

end Sys2Proof.Proofs
end

section
/-!
PROOFS. The peat's commands as they issue (R220, R222, R229 to R231) and the statement O28.
-/
namespace Sys2Proof.Machine

/-! ### What a die accepts -/

/-- A block that allows a read of some pages allows a read of the first of them (R220). -/
theorem State.nandAllowed_firstPage {s : State} {ks : List Nat} {page count m : Nat} (h : s.nandAllowed ⟨0, ks, page, count, m⟩ = true) (hc : 1 ≤ count) :
    s.nandAllowed ⟨0, ks, page, 1, m⟩ = true := by
  simp only [State.nandAllowed, List.all_eq_true, Bool.and_eq_true, if_neg (show ¬0 = 2 by decide), if_neg (show ¬0 = 1 by decide), decide_eq_true_eq] at h ⊢
  intro k hk
  obtain ⟨usable, mode, written⟩ := h k hk
  exact ⟨usable, by omega, by omega⟩

/-- An operation of a command outside every partition that its die takes at once: the blocks allow it, its range of device memory is mapped and here, the die is warm
enough, no lull holds it, and neither the dies at work nor the wear budget bar it (R222, R229, R230, R234). -/
structure State.NandReady (s : State) (c : Cmd) (o : PeatOp) : Prop where
  unowned : 12 ≤ c.q.part.val
  allowed : s.nandAllowed o.op = true
  mapped : o.op.kind = 2 ∨ (s.nandDevice c o).isSome = true
  here : ((s.nandDevice c o).any fun d => s.anyWithdrawn d.1 d.2 o.bytes) = false
  warm : s.nandTempOk o.die o.op.kind = true
  noLull : s.inLull = false
  active : o.op.kind = 0 ∨ s.activeDies < s.get .PEAT_CTL_ACTIVE_MAX 0
  wear : o.op.kind = 1 → s.wearAllows o.bytes = true

/-- Traffic that no partition owns is granted as it asks (R281). -/
theorem State.grant_unowned {s : State} {p : Nat} (h : 12 ≤ p) (stores res : List Nat) (n : Nat) : s.grant p stores res n = (some s, s) := if_pos h

/-- An operation put at its die. -/
def State.atDie (s : State) (o : PeatOp) : State := { s with nand := s.nand.insert o.die o.op }

/-- A command whose operation is at its die. -/
def Cmd.issued (c : Cmd) : Cmd := { c with kind := c.kind.issueMark true }

section
variable {s : State} {c : Cmd} {o : PeatOp} (h : s.NandReady c o)
include h

/-- Neither the lull nor the dies at work hold the operation back. -/
theorem State.NandReady.notHeld : (s.inLull || (o.op.kind != 0 && decide (s.get .PEAT_CTL_ACTIVE_MAX 0 ≤ s.activeDies))) = false := by
  rcases h.active with e | e <;> simp [h.noLull, e]

/-- A read or an erase that its die takes is at the die, and its command is issued. -/
theorem State.NandReady.issues (hk : o.op.kind ≠ 1) : s.nandIssue c o = ((s.atDie o).replaceCmd c c.issued, .issued) := by
  have mapped : (!decide (o.op.kind = 2) && (s.nandDevice c o).isNone) = false := by
    rcases h.mapped with e | e <;> simp [e]
  simp only [State.nandIssue, h.allowed, mapped, h.here, h.warm, h.notHeld, hk, State.grant_unowned h.unowned, Bool.not_true, Bool.false_eq_true, if_false,
    decide_false, Bool.false_and]
  rfl

/-- A program that its die takes is at the die with the bytes read from its source, which count as wear (R230, R231). -/
theorem State.NandReady.programs (hk : o.op.kind = 1) {a planes src : Nat} {i : Bool} (hc : c.kind = .peatProgram a planes src i) {st : Store} {off : Nat}
    (hd : s.nandDevice c o = some (st, off)) {bs : List Byte} {u : State} (read : (s.atDie o).hostSideRead st off o.bytes = (some bs, u)) :
    s.nandIssue c o = (((u.peatFill o.op bs).wearAdd o.bytes).replaceCmd c c.issued, .issued) := by
  have here := h.here
  have warm := h.warm
  have notHeld := h.notHeld
  rw [hd] at here
  rw [hk] at warm notHeld
  rw [State.atDie] at read
  simp only [State.nandIssue, Cmd.issued, h.allowed, hd, here, warm, notHeld, hk, h.wear hk, read, hc, State.grant_unowned h.unowned, Option.isNone_some, Bool.and_false,
    Bool.not_true, Bool.false_eq_true, if_false, decide_true, if_true]

end

/-! ### The pass over the commands (R222) -/

/-- The part of a pass that writes records leaves NAND commands alone. -/
theorem State.statusRun_nand {s : State} {c : Cmd} (h : c.kind.isNand = true) : s.statusRun c = s := by
  unfold State.statusRun
  split
  · next e => rw [e] at h; cases h
  · rfl

theorem CmdKind.isNand_issueMark (k : CmdKind) (i : Bool) : (k.issueMark i).isNand = k.isNand := by
  unfold CmdKind.issueMark
  split <;> rfl

/-- With no operation at any die, the one command in progress issues the operation that it needs next. -/
theorem State.peatPass_issues {s t : State} {c c' : Cmd} {o : PeatOp} (hs : s.cmds = [c]) (hp : s.powerHeld = false) (hd : s.nand = []) (hn : c.kind.isNand = true)
    (hi : c.kind.nandIssued = false) (next : s.nextOp c.kind = (some (.ok o), s)) (issue : s.nandIssue c o = (t, .issued)) (ht : t.cmds = [c'])
    (hn' : c'.kind.isNand = true) : s.peatPass = t := by
  simp [State.peatPass, hs, hp, hd, hn, hi, next, issue, ht, State.statusRun_nand hn']

/-! ### A command started -/

/-- The module takes peat commands, and the one it is given will be alone and of no partition: no command is in progress, outside the lull, not held by the power state. -/
structure State.PeatOpen (s : State) (q : Req) : Prop where
  unowned : q.part.val = 15
  cmds : s.cmds = []
  enabled : s.inForce .PEAT_CTL_ENABLE 0 = 1
  noLull : s.inLull = false
  powered : s.powerHeld = false

/-- Beside that, no die is at work. -/
structure State.PeatFree (s : State) (q : Req) : Prop extends s.PeatOpen q where
  nand : s.nand = []

/-- The command that a start adds. -/
def State.begun (s : State) (q : Req) (op : Nat) (k : CmdKind) : Cmd := ⟨q, s.get .HST_RING_CTL_OWNER q.ring.val, op, k, false⟩

/-- The one command in progress replaced by its later form. -/
theorem State.replaceCmd_only {s : State} {c : Cmd} (h : s.cmds = [c]) (d : Cmd) : s.replaceCmd c d = { s with cmds := [d] } := by
  simp [State.replaceCmd, h]

section
variable {s : State} {q : Req} (h : s.PeatOpen q)
include h

theorem State.PeatOpen.cmdsWith (op : Nat) (k : CmdKind) : s.cmdsWith q op k = [s.begun q op k] := by
  rw [State.cmdsWith, h.cmds]; rfl

theorem State.PeatOpen.mayStart : ¬s.inForce .PEAT_CTL_ENABLE 0 = 0 := by rw [h.enabled]; decide

theorem State.PeatOpen.part : 12 ≤ q.part.val := by rw [h.unowned]; decide

end

section
variable {s : State} {q : Req} (h : s.PeatFree q)
include h

theorem State.PeatFree.activeDies : s.activeDies = 0 := by rw [State.activeDies, h.nand]; rfl

/-- Where nothing refuses it and its die takes its operation, a command that starts is issued (R222, R231). -/
theorem State.PeatFree.starts {op : Nat} {k : CmdKind} {o : PeatOp} {t : State} (hn : k.isNand = true) (hi : k.nandIssued = false)
    (accepted : s.peatRefused k = (none, s)) (next : (s.startCmd q op k).nextOp k = (some (.ok o), s.startCmd q op k))
    (issue : (s.startCmd q op k).nandIssue (s.begun q op k) o = (t.replaceCmd (s.begun q op k) (s.begun q op k).issued, .issued))
    (ht : t.cmds = (s.startCmd q op k).cmds) : peatStart q op k s = { t with cmds := s.cmdsWith q op (k.issueMark true) } := by
  have started : (s.startCmd q op k).cmds = [s.begun q op k] := h.cmdsWith op k
  rw [State.replaceCmd_only (ht.trans started)] at issue
  rw [peatStart, if_neg h.mayStart, accepted, h.cmdsWith]
  exact State.peatPass_issues started h.powered h.nand hn hi next issue rfl ((CmdKind.isNand_issueMark k true).trans hn)

/-- A read or an erase whose die takes its operation starts with the operation at the die, and changes nothing else (R222). -/
theorem State.PeatFree.starts_at_die {op : Nat} {k : CmdKind} {o : PeatOp} (hn : k.isNand = true) (hi : k.nandIssued = false)
    (accepted : s.peatRefused k = (none, s)) (next : (s.startCmd q op k).nextOp k = (some (.ok o), s.startCmd q op k))
    (ready : (s.startCmd q op k).NandReady (s.begun q op k) o) (hk : o.op.kind ≠ 1) :
    peatStart q op k s = { s with cmds := s.cmdsWith q op (k.issueMark true), nand := [(o.die, o.op)] } := by
  have alone : (s.startCmd q op k).nand.insert o.die o.op = [(o.die, o.op)] := by rw [State.startCmd, h.nand]; rfl
  rw [h.starts hn hi accepted next (ready.issues hk) rfl, State.atDie, alone]
  rfl

end

/-! ### PEAT_ERASE and PEAT_READ (R231) -/

section
variable {s : State} {q : Req} {p0 p1 p2 : Word}

theorem exec_peatErase (h : s.Accepts opPeatErase q [p0, p1]) (hr : s.peatAddrReason q p0.toNat (fieldOf p1 2 0) 1 false = 0) (hp : paPage p0.toNat = 0) :
    exec (.peatErase q p0 p1) s = .next (peatStart q 0x22 (.peatErase p0.toNat (fieldOf p1 2 0) (flagOf p1 8) false) s) := by
  refine hostRow_accepted h ?_ _
  simp [hr, hp]

theorem exec_peatRead (h : s.Accepts opPeatRead q [p0, p1, p2]) (hs : paIsSlot p0.toNat = false)
    (hr : s.peatAddrReason q p0.toNat (fieldOf p1 2 0) (fieldOf p1 24 16) true = 0) (lo : 1 ≤ fieldOf p1 24 16) (hi : fieldOf p1 24 16 ≤ 256)
    (hd : s.peatDeviceOk q p2.toNat (16384 * fieldOf p1 2 0 * fieldOf p1 24 16) = true) :
    exec (.peatRead q p0 p1 p2) s = .next (peatStart q 0x20 (.peatRead p0.toNat (fieldOf p1 2 0) (fieldOf p1 24 16) 0 p2.toNat 0 0 false) s) := by
  change execPeatRead q p0 p1 p2 s = _
  simp only [execPeatRead, hs, Bool.false_eq_true, if_false]
  refine hostRow_accepted h ?_ _
  simp [hr, hd, Nat.pos_iff_ne_zero.1 lo, hi]

/-- An erase needs its blocks' operation next, in the mode named. -/
theorem State.nextOp_erase (s : State) (a planes : Nat) (slc i : Bool) :
    s.nextOp (.peatErase a planes slc i) = (some (.ok ⟨paDie a, ⟨2, paKeys a planes, 0, 0, if slc then 2 else 1⟩, 0⟩), s) := rfl

/-- A read by address needs its next page. -/
theorem State.nextOp_read (s : State) {a planes count n : Nat} (hs : paIsSlot a = false) (hn : n < count) (dest done lvl : Nat) (i : Bool) :
    s.nextOp (.peatRead a planes count n dest done lvl i) = (some (.ok ⟨paDie a, ⟨0, paKeys a planes, paPage a + n, 1, 0⟩, 16384 * planes⟩), s) := by
  simp [State.nextOp, hs, Nat.not_le.2 hn]

end

end Sys2Proof.Machine

namespace Sys2Proof.Proofs
open Sys2Proof Sys2Proof.Machine

/-- Settles O28: nothing refuses the command, and its one operation meets the conditions of issue at a die that is free. -/
theorem peatCommandsIssue : Obligations.PeatCommandsIssue := by
  intro q p0 p1 p2 s keys d hq cmds nand enabled noLull powered place
  have free : s.PeatFree q := ⟨⟨hq, cmds, enabled, noLull, powered⟩, nand⟩
  have unowned : 12 ≤ q.part.val := free.part
  refine ⟨fun accepts reason page allowed warm active => ?_, fun st off accepts reason lo hi device range here allowed warm => ?_⟩
  · have accepted : s.peatRefused (.peatErase p0.toNat (fieldOf p1 2 0) (flagOf p1 8) false) = (none, s) := by
      simp only [State.peatRefused, State.nextOp_erase]
      rw [if_pos allowed]
    have erases : 2 ≠ 1 := by decide
    have idle : s.activeDies < s.get .PEAT_CTL_ACTIVE_MAX 0 := free.activeDies ▸ active
    rw [exec_peatErase accepts reason page, free.starts_at_die rfl rfl accepted (State.nextOp_erase ..)
      { unowned, allowed, mapped := .inl rfl, here := rfl, warm, noLull, active := .inr idle, wear := (absurd · erases) } erases]
    rfl
  · have accepted : s.peatRefused (.peatRead p0.toNat (fieldOf p1 2 0) (fieldOf p1 24 16) 0 p2.toNat 0 0 false) = (none, s) := by
      simp only [State.peatRefused, place, Bool.false_eq_true, if_false]
      rw [if_pos allowed]
    have reads : 0 ≠ 1 := by decide
    rw [exec_peatRead accepts place reason lo hi device, free.starts_at_die rfl rfl accepted (State.nextOp_read _ place lo ..)
      { unowned, allowed := State.nandAllowed_firstPage allowed lo, mapped := .inr (congrArg Option.isSome range), here := (congrArg (Option.any _) range).trans here,
        warm, noLull, active := .inl rfl, wear := (absurd · reads) } reads]
    rfl

end Sys2Proof.Proofs
end

section
/-!
PROOFS. A PEAT_PROGRAM that takes its data as it issues, the end of an erase (R220, R222, R227, R230, R231) and the statement O29.
-/
namespace Sys2Proof.Machine

/-! ### A program of one SLC page (R220, R230, R231) -/

/-- The block that an address of one plane names. -/
theorem paKeys_one (a : Nat) : paKeys a 1 = [blockKey (paDie a) (paPlane a) (paBlock a)] := rfl

/-- The operation that programs the page of an address of one plane in SLC mode. -/
def slcProgram (a : Nat) : PeatOp := ⟨paDie a, ⟨1, [blockKey (paDie a) (paPlane a) (paBlock a)], paPage a, 1, 0⟩, 16384⟩

/-- Its page is filled with the 16 KiB of the data. -/
theorem State.peatFill_page (s : State) (a : Nat) {bs : List Byte} (h : bs.length = 16384) :
    s.peatFill (slcProgram a).op bs =
      { s with peatData := SMap.setList 0 s.peatData (pageKey (blockKey (paDie a) (paPlane a) (paBlock a)) (paPage a)) bs } := by
  have whole : bs.take 16384 = bs := List.take_of_length_le h.le
  simp [State.peatFill, slcProgram, whole]

/-- Bytes programmed count in the present minute. -/
theorem State.wearAdd_sum (s : State) (n : Nat) : (s.wearAdd n).wear.sum = s.wear.sum + n := by
  cases h : s.wear with
  | nil => simp [State.wearAdd, h]
  | cons w r => simp only [State.wearAdd, h, List.sum_cons]; omega

section
variable {s : State} {q : Req} {p0 p1 p2 : Word}

/-- A program of one plane in SLC mode needs its page's operation next. -/
theorem State.nextOp_program {a : Nat} (hm : (s.block (blockKey (paDie a) (paPlane a) (paBlock a))).mode = 2) (src : Nat) (i : Bool) :
    s.nextOp (.peatProgram a 1 src i) = (some (.ok (slcProgram a)), s) := by
  simp [State.nextOp, paKeys_one, hm, slcProgram]

theorem exec_peatProgram (h : s.Accepts opPeatProgram q [p0, p1, p2]) (hp : fieldOf p1 2 0 = 1)
    (hm : (s.block (blockKey (paDie p0.toNat) (paPlane p0.toNat) (paBlock p0.toNat))).mode = 2) (hr : s.peatAddrReason q p0.toNat 1 1 false = 0)
    (hd : s.peatDeviceOk q p2.toNat 16384 = true) :
    exec (.peatProgram q p0 p1 p2) s = .next (peatStart q 0x21 (.peatProgram p0.toNat 1 p2.toNat false) s) := by
  change execPeatProgram q p0 p1 p2 s = _
  simp only [execPeatProgram, hp]
  refine hostRow_accepted h ?_ _
  simp [hr, paKeys_one, hm, hd]

end

/-- A program of one SLC page whose die takes it starts with its operation at the die and the bytes of its source in the page (R230, R231). -/
theorem State.PeatFree.starts_program {s : State} {q : Req} (h : s.PeatFree q) {a src : Nat} {st : Store} {off : Nat}
    (slc : (s.block (blockKey (paDie a) (paPlane a) (paBlock a))).mode = 2) (allowed : s.nandAllowed (slcProgram a).op = true)
    (warm : s.nandTempOk (paDie a) 1 = true) (active : 0 < s.get .PEAT_CTL_ACTIVE_MAX 0) (budget : s.wearAllows 16384 = true)
    (range : s.devRange src 16384 = some (st, off)) (here : s.anyWithdrawn st off 16384 = false)
    (clean : (if st.isSram then s.sram.isEmpty else s.noFaults) = true) (defined : s.rowUndefined st off 16384 = false) :
    peatStart q 0x21 (.peatProgram a 1 src false) s =
      { s with
        cmds := s.cmdsWith q 0x21 (.peatProgram a 1 src true)
        nand := [(paDie a, (slcProgram a).op)]
        peatData := SMap.setList 0 s.peatData (pageKey (blockKey (paDie a) (paPlane a) (paBlock a)) (paPage a)) (s.rawBytes st off 16384)
        wear := (s.wearAdd 16384).wear } := by
  have accepted : s.peatRefused (.peatProgram a 1 src false) = (none, s) := by
    simp only [State.peatRefused, State.nextOp_program slc]
    rw [if_pos allowed]
  have idle : s.activeDies < s.get .PEAT_CTL_ACTIVE_MAX 0 := h.activeDies ▸ active
  have ready : (s.startCmd q 0x21 (.peatProgram a 1 src false)).NandReady (s.begun q 0x21 (.peatProgram a 1 src false)) (slcProgram a) :=
    { unowned := h.part, allowed, mapped := .inr (congrArg Option.isSome range), here := (congrArg (Option.any _) range).trans here, warm, noLull := h.noLull
      active := .inr idle, wear := fun _ => budget }
  have source : ((s.startCmd q 0x21 (.peatProgram a 1 src false)).atDie (slcProgram a)).rawBytes st off 16384 = s.rawBytes st off 16384 :=
    State.rawBytes_congr rfl rfl ..
  have read := State.hostSideRead_clean (s := (s.startCmd q 0x21 (.peatProgram a 1 src false)).atDie (slcProgram a)) clean defined
  rw [source] at read
  have issue := ready.programs rfl rfl range read
  rw [State.peatFill_page _ _ (State.rawBytes_length ..)] at issue
  have alone : s.nand.insert (paDie a) (slcProgram a).op = [(paDie a, (slcProgram a).op)] := by rw [h.nand]; rfl
  rw [h.starts rfl rfl accepted (State.nextOp_program (s := s.startCmd ..) slc ..) issue rfl, ← alone]
  generalize s.rawBytes st off 16384 = bs
  rfl

/-! ### An operation at a die ends (R222) -/

/-- A block erased without failure (R220, R227): its pages hold nothing, one erase more is counted, and its mode is the one named. -/
def State.blockErased (s : State) (k mode : Nat) : State :=
  { s with peatData := s.peatData.clearRange (pageKey k 0) (pageKey (k + 1) 0) }.setBlock k
    ⟨saturate 24 ((s.block k).erases + 1), 0, 0, mode, false, false, false, false, true, []⟩

theorem State.blockErased_same (s : State) (k mode : Nat) :
    (s.blockErased k mode).block k = ⟨saturate 24 ((s.block k).erases + 1), 0, 0, mode, false, false, false, false, true, []⟩ := SMap.get_set_same ..

theorem State.blockErased_other (s : State) {k j : Nat} (mode : Nat) (h : j ≠ k) : (s.blockErased k mode).block j = s.block j := SMap.get_set_other _ _ _ _ h

/-- The end of an erase of one block without failure. -/
theorem State.eraseEnd_block (s : State) (k mode : Nat) : s.eraseEnd ⟨2, [k], 0, 0, mode⟩ ⟨[], []⟩ = s.blockErased k mode := rfl

section
variable {s : State} {ch die : Nat}

theorem peatNandDone_idle (h : s.nand = []) (r : NandResult) : peatNandDone ch die r s = s := by
  rw [peatNandDone, h]; rfl

/-- The one command in progress, an erase whose operation is the only one at work, ends with the block erased. -/
theorem peatNandDone_erased {k mode a : Nat} {slc : Bool} {c : Cmd} {u : State} (hn : s.nand = [(peatDie ch die, ⟨2, [k], 0, 0, mode⟩)]) (hs : s.cmds = [c])
    (hk : c.kind = .peatErase a 1 slc true) (hd : paDie a = peatDie ch die) (hu : { s with nand := [] }.blockErased k mode = u) :
    peatNandDone ch die ⟨[], []⟩ s = u.endCmd c stOk u.gust 0 0 := by
  have issued : (c.kind.nandIssued && c.kind.nandDie == peatDie ch die) = true := by simp [hk, CmdKind.nandIssued, CmdKind.nandDie, hd]
  have op : (s.nand.find? fun e => e.1 == peatDie ch die) = some (peatDie ch die, ⟨2, [k], 0, 0, mode⟩) := by simp [hn]
  have offDie : s.nand.erase (peatDie ch die) = [] := by simp [hn, SMap.erase]
  have found : (s.cmds.find? fun c => c.kind.nandIssued && c.kind.nandDie == peatDie ch die) = some c := by simp [hs, issued]
  have noFailure : failWord 3 ⟨[], []⟩ ⟨2, [k], 0, 0, mode⟩ = 0 := by simp [failWord]
  have gust : { s with nand := [] }.gust = u.gust := by rw [← hu]; rfl
  have ends : { s with nand := [] }.nandDone c ⟨2, [k], 0, 0, mode⟩ ⟨[], []⟩ = u.endCmd c stOk u.gust 0 0 := by
    simp only [State.nandDone, hk, noFailure, State.eraseEnd_block, hu, gust, if_true]
  have cmds : u.cmds = [c] := by rw [← hu]; exact hs
  have last : (u.endCmd c stOk u.gust 0 0).cmds = [] := by rw [State.endCmd_cmds, cmds, List.erase_cons_head]
  simp only [peatNandDone, op, offDie, found, ends]
  exact State.peatPass_idle last

end

end Sys2Proof.Machine

namespace Sys2Proof.Proofs
open Sys2Proof Sys2Proof.Machine

/-- Settles O29: the program issues with its source read as it stood, and the erase at the one die ends and leaves no command. -/
theorem peatProgramAndEnd : Obligations.PeatProgramAndEnd := by
  refine ⟨?_, fun ch die s hc => ?_⟩
  · intro q p0 p1 p2 s st off k hq cmds nand enabled noLull powered place hf hw hm onePlane slc accepts reason device range here defined allowed warm active budget
    have free : s.PeatFree q := ⟨⟨hq, cmds, enabled, noLull, powered⟩, nand⟩
    have starts := free.starts_program slc allowed warm active budget range here (State.clean_of_noFaults hf hw hm st) defined
    have length : (s.rawBytes st off 16384).length = 16384 := State.rawBytes_length ..
    generalize s.rawBytes st off 16384 = bs at starts length ⊢
    have back := SMap.getList_setList 0 bs s.peatData (pageKey k (paPage p0.toNat))
    rw [length] at back
    exact ⟨_, (exec_peatProgram accepts onePlane slc reason device).trans (congrArg _ starts), rfl, rfl, back, State.wearAdd_sum s 16384, rfl⟩
  · have event : exec (.peatNandDone ch die ⟨[], []⟩) s = .next (peatNandDone ch.val die.val ⟨[], []⟩ s) := congrArg _ (State.whenClocked_on _ hc)
    refine ⟨fun idle => ?_, fun k mode a slc c atWork alone kind place => ?_⟩
    · rw [event, peatNandDone_idle idle]
    · exact ⟨_, event.trans (congrArg _ (peatNandDone_erased atWork alone kind place rfl)), rfl, State.blockErased_same .., fun j => State.blockErased_other _ _⟩

end Sys2Proof.Proofs
end

section
/-!
PROOFS. Host writes of register fields (R5, R6), device ranges and writes of the host path (R121, R280), the peat's records, region map, enable, counters and wear window
(R221, R228, R230 to R234) and the statement O30.
-/
namespace Sys2Proof.Machine

/-! ### A host write of a field (R5, R6) -/

theorem Bool.bit_bitOf (n b : Nat) : Bool.bit (bitOf n b) = n / 2 ^ b % 2 := by
  rcases Nat.mod_two_eq_zero_or_one (n / 2 ^ b) with h | h <;> simp [Bool.bit, bitOf, h]

/-- A field of one bit that a write covers takes the bit written. -/
theorem Fld.merged_bit {f : Fld} {m : Nat} (hw : f.width = 1) (hm : bitOf m f.lo = true) (old v : Nat) : f.merged old v m = v / 2 ^ f.lo % 2 := by
  simp [Fld.merged, hw, hm, placed, Bool.bit_bitOf]

section
variable (s : State) (f : Fld) (i v m : Nat)

/-- A host write of a field leaves it or puts a value in it. -/
theorem State.writeField_cases : s.writeField f i v m = s ∨ ∃ n, s.writeField f i v m = s.put f i n := by
  unfold State.writeField
  split
  · exact .inl rfl
  · split
    · dsimp only
      split
      exacts [.inr ⟨_, rfl⟩, .inl rfl]
    · exact .inr ⟨_, rfl⟩
    · exact .inr ⟨_, rfl⟩
    · exact .inl rfl

theorem State.writeField_frame : s.writeField f i v m = { s with flds := (s.writeField f i v m).flds } := by
  rcases s.writeField_cases f i v m with e | ⟨n, e⟩
  · rw [e]
  · rw [e]; rfl

variable {f i}

theorem State.flds_writeField_other {k : Nat} (d : Nat) (h : k ≠ f.key i) : SMap.get (s.writeField f i v m).flds k d = SMap.get s.flds k d := by
  rcases s.writeField_cases f i v m with e | ⟨n, e⟩
  · rw [e]
  · rw [e]; exact State.flds_put_other _ _ _ _ _ _ h

theorem State.get_writeField_other {g : Fld} {j : Nat} (h : g.key j ≠ f.key i) : (s.writeField f i v m).get g j = s.get g j := State.flds_writeField_other s v m _ h

theorem State.inForce_writeField_other {g : Fld} {j : Nat} (h : g.key j ≠ f.key i) : (s.writeField f i v m).inForce g j = s.inForce g j := by
  have eff : (s.writeField f i v m).eff = s.eff := by rw [State.writeField_frame]
  rw [State.inForce, State.get_writeField_other s v m h, eff, ← State.inForce]

/-- A value in range that a host writes to a field whose change waits for the boundary is put there, with what is in force noted (R234). -/
theorem State.writeFieldLater_accepted (ht : f.touched m = true) (ha : f.acc = .rw) (hr : f.okLo ≤ f.merged (s.get f i) v m ∧ f.merged (s.get f i) v m ≤ f.okHi) :
    s.writeFieldLater f i v m = s.putLater f i (f.merged (s.get f i) v m) := by
  simp [State.writeFieldLater, ht, ha, hr]

end

/-! ### The stores that device addresses name (R280), and writes of the host path (R121) -/

/-- A slice or a stack that the module has. -/
def Store.onModule : Store → Prop
  | .fen c => c < 816
  | .marsh m => m < 12
  | _ => True

theorem State.siteOf_lt {s : State} {d c n : Nat} (h : s.siteOf d c = some n) (hd : d < 12) : n < 816 := by
  obtain ⟨k, found, rfl⟩ := Option.map_eq_some_iff.1 h
  have := List.mem_range.1 (List.mem_of_find?_eq_some found)
  omega

theorem State.devLoc_onModule {s : State} {a off : Nat} {st : Store} (h : s.devLoc a = some (st, off)) : st.onModule := by
  unfold State.devLoc at h
  dsimp only at h
  split_ifs at h with slices
  · obtain ⟨c, site, e⟩ := Option.map_eq_some_iff.1 h
    cases e
    exact State.siteOf_lt site (by omega)
  · cases h
    exact show (a - 0x20000000000) / 2 ^ 37 < 12 by omega
  · cases h
    trivial
  · obtain ⟨c, -, e⟩ := Option.map_eq_some_iff.1 h
    cases e
    trivial

theorem State.devRange_onModule {s : State} {a n off : Nat} {st : Store} (h : s.devRange a n = some (st, off)) : st.onModule := by
  unfold State.devRange at h
  split at h
  · next located =>
    split at h
    · cases h
      exact State.devLoc_onModule located
    · cases h
  · cases h

/-- With no flip mask armed and no faulty memory, a write of the host path stores its bytes. -/
theorem State.hostWrite_clean {s : State} {st : Store} (off : Nat) {bs : List Byte} (hb : bs ≠ []) (h : (if st.isSram then s.sram.isEmpty else s.noFaults) = true)
    (here : st.onModule) (fen : ∀ c, c < 816 → s.on .FEN_FLIP_CTL_ARM c = false) (marsh : ∀ m, m < 12 → s.on .MRS_FLIP_CTL_ARM m = false) :
    s.hostWrite st off bs = (s.rawWrite st off bs, false) := by
  have unflipped (f : Fld) (c : Nat) : (s.rawWrite st off bs).on f c = s.on f c := by rw [State.on, State.rawWrite_get, ← State.on]
  have plain : s.hostWriteMem st off bs = s.writeMem st off bs := by
    cases st with
    | fen c => simp [State.hostWriteMem, State.writeMem_clean _ off hb h, unflipped, fen c here]
    | marsh m => simp [State.hostWriteMem, State.writeMem_clean _ off hb h, unflipped, marsh m here]
    | cache => rfl
    | pool c => rfl
  rw [State.hostWrite, plain]
  exact State.store_clean st off hb h

/-! ### PEAT_STATUS (R231, R232) -/

theorem State.blockRecord_length (s : State) (k : Nat) : (s.blockRecord k).length = 16 := by
  simp [State.blockRecord, toBytesLE]

/-- Counts of a record: blocks neither factory-bad nor failed and, above them, factory-bad ones; then those that a program or an erase has failed. -/
def State.goodAndBad (s : State) (k : Nat) : Nat :=
  (if s.peatBad.contains k || ((s.block k).progFail || (s.block k).eraseFail) then 0 else 1) + if s.peatBad.contains k then 2 ^ 32 else 0
def State.failedCount (s : State) (k : Nat) : Nat := if (s.block k).progFail || (s.block k).eraseFail then 1 else 0

section
variable {s u : State} {q : Req} {k dest : Nat} {c : Cmd}

/-- With nothing in its way, the record of one block is written and the command completes with its counts. -/
theorem State.statusRun_writes {st : Store} {off : Nat} (hk : c.kind = .peatStatus [k] dest) (unowned : 12 ≤ c.q.part.val) (range : s.devRange dest 16 = some (st, off))
    (here : s.anyWithdrawn st off 16 = false) (noLull : s.inLull = false) (free : s.bankHeld st off 16 = false)
    (write : s.hostWrite st off (s.blockRecord k) = (u, false)) :
    s.statusRun c = u.endCmd c stOk u.gust (u.goodAndBad k) (u.failedCount k) := by
  have counts (p : Nat → Bool) : (List.filter p [k]).length = if p k then 1 else 0 := by
    cases h : p k <;> simp [h]
  simp only [State.statusRun, hk, List.length_singleton, Nat.mul_one, range, here, noLull, free, State.grant_unowned unowned, List.flatMap_singleton, write, counts,
    Bool.or_self, Bool.false_eq_true, if_false, State.goodAndBad, State.failedCount]
  congr 1
  cases u.peatBad.contains k <;> cases (u.block k).progFail <;> cases (u.block k).eraseFail <;> rfl

/-- The one command in progress, a PEAT_STATUS, runs where the power state does not hold it. -/
theorem State.peatPass_status {ks : List Nat} (hs : s.cmds = [c]) (hp : s.powerHeld = false) (hk : c.kind = .peatStatus ks dest) : s.peatPass = s.statusRun c := by
  simp [State.peatPass, hs, hp, hk, CmdKind.isNand]

end

section
variable {s : State} {q : Req} {p0 p1 p2 : Word}

/-- An accepted PEAT_STATUS of one block by the PF begins. -/
theorem exec_peatStatus (h : s.Accepts opPeatStatus q [p0, p1, p2]) (pf : s.get .HST_RING_CTL_OWNER q.ring.val = 0) (one : fieldOf p1 11 0 = 1)
    (inDie : fieldOf p0 20 9 + 1 ≤ 2800) (data : journalBlock (blockKey (peatDie (fieldOf p0 3 0) (fieldOf p0 6 4)) (fieldOf p0 8 7) (fieldOf p0 20 9)) = false)
    (hd : s.peatDeviceOk q p2.toNat 16 = true) :
    exec (.peatStatus q p0 p1 p2) s =
      .next (peatStatus q [blockKey (peatDie (fieldOf p0 3 0) (fieldOf p0 6 4)) (fieldOf p0 8 7) (fieldOf p0 20 9)] p2.toNat s) := by
  change execPeatStatus q p0 p1 p2 s = _
  simp only [execPeatStatus, one]
  refine hostRow_accepted h ?_ _
  simp [data, State.ownsPeatDie, pf, hd, Nat.not_lt.2 inDie]

end

/-- A command with nothing discarded, the only one in progress, ends as one that is done at once. -/
theorem State.endCmd_only {s : State} {q : Req} {fn op : Nat} {k : CmdKind} (h : s.cmds = [⟨q, fn, op, k, false⟩]) (st r0 r1 : Nat) :
    s.endCmd ⟨q, fn, op, k, false⟩ st s.gust r0 r1 = { s with cmds := [] }.done q st r0 r1 := by
  rw [State.endCmd, h, List.erase_cons_head]
  rfl

/-- A store leaves the counts of a block's record. -/
theorem State.rawWrite_counts (s : State) (st : Store) (off : Nat) (bs : List Byte) (k : Nat) :
    (s.rawWrite st off bs).goodAndBad k = s.goodAndBad k ∧ (s.rawWrite st off bs).failedCount k = s.failedCount k := by
  rw [State.rawWrite_eq]
  exact ⟨rfl, rfl⟩

/-- A PEAT_STATUS of one block with nothing in its way writes the block's record and is done, with the counts of that block. -/
theorem State.PeatOpen.records {s : State} {q : Req} (h : s.PeatOpen q) {k dest : Nat} {st : Store} {off : Nat} (range : s.devRange dest 16 = some (st, off))
    (here : s.anyWithdrawn st off 16 = false) (free : s.bankHeld st off 16 = false)
    (write : (s.startCmd q 0x23 (.peatStatus [k] dest)).hostWrite st off (s.blockRecord k) =
      ((s.startCmd q 0x23 (.peatStatus [k] dest)).rawWrite st off (s.blockRecord k), false)) :
    peatStatus q [k] dest s =
      { (s.startCmd q 0x23 (.peatStatus [k] dest)).rawWrite st off (s.blockRecord k) with cmds := [] }.done q stOk (s.goodAndBad k) (s.failedCount k) := by
  have started : (s.startCmd q 0x23 (.peatStatus [k] dest)).cmds = [s.begun q 0x23 (.peatStatus [k] dest)] := h.cmdsWith ..
  obtain ⟨good, failed⟩ := (s.startCmd q 0x23 (.peatStatus [k] dest)).rawWrite_counts st off (s.blockRecord k) k
  have alone : ((s.startCmd q 0x23 (.peatStatus [k] dest)).rawWrite st off (s.blockRecord k)).cmds = [s.begun q 0x23 (.peatStatus [k] dest)] := by
    rw [State.rawWrite_eq, started]
  rw [peatStatus, if_neg h.mayStart, State.peatPass_status started h.powered rfl,
    State.statusRun_writes (s := s.startCmd ..) (c := s.begun q 0x23 (.peatStatus [k] dest)) rfl h.part range here h.noLull free write, good, failed]
  exact State.endCmd_only alone ..

/-! ### Map, enable and counters (R221, R228, R234) -/

/-- A map entry written is 12 bits of block number and the valid bit. -/
theorem mapWord_eq (v : Nat) : v % 4096 + placed (Bool.bit (bitOf v 15)) 15 = v % 4096 + if v / 2 ^ 15 % 2 = 1 then 2 ^ 15 else 0 := by
  rcases Nat.mod_two_eq_zero_or_one (v / 2 ^ 15) with h | h <;> (rw [Bool.bit_bitOf, placed, h]; rfl)

/-- A whole write of PEAT_CTL notes what ENABLE has in force beside the bit written, and then writes the two other fields (R234). -/
theorem peatCtlWrite_eq (s : State) (v : Nat) :
    peatCtlWrite (v % 2 ^ 32) (2 ^ 32 - 1) s =
      ((s.putLater .PEAT_CTL_ENABLE 0 (v / 2 ^ (Fld.lo .PEAT_CTL_ENABLE) % 2)).writeField .PEAT_CTL_ACTIVE_MAX 0 (v % 2 ^ 32) (2 ^ 32 - 1)).writeField
        .PEAT_CTL_DISTURB_EVENT 0 (v % 2 ^ 32) (2 ^ 32 - 1) := by
  have bit : Fld.merged .PEAT_CTL_ENABLE (s.get .PEAT_CTL_ENABLE 0) (v % 2 ^ 32) (2 ^ 32 - 1) = v / 2 ^ (Fld.lo .PEAT_CTL_ENABLE) % 2 := by
    rw [Fld.merged_bit (by decide) (by decide)]
    exact show v % 2 ^ 32 / 2 ^ 0 % 2 = v / 2 ^ 0 % 2 by omega
  have inRange : Fld.okLo .PEAT_CTL_ENABLE ≤ v / 2 ^ (Fld.lo .PEAT_CTL_ENABLE) % 2 ∧ v / 2 ^ (Fld.lo .PEAT_CTL_ENABLE) % 2 ≤ Fld.okHi .PEAT_CTL_ENABLE :=
    ⟨Nat.zero_le _, Nat.lt_succ_iff.1 (Nat.mod_lt _ Nat.two_pos)⟩
  rw [peatCtlWrite, State.writeFieldLater_accepted s _ _ (by decide) rfl (bit ▸ inRange), bit]

end Sys2Proof.Machine

namespace Sys2Proof.Proofs
open Sys2Proof Sys2Proof.Machine

/-- Settles O30: the record goes where nothing bars a write of the host path, and the registers of the peat are written field by field. -/
theorem peatHousekeeping : Obligations.PeatHousekeeping := by
  refine ⟨?_, fun s i v hc hi => ?_, fun s v hc => ?_, fun s hc => ?_, fun s on => ?_⟩
  · intro q p0 p1 p2 s st off k bad fail accepts hq pf one inDie data device range here enabled cmds powered noLull free hf hw hm spares fen marsh
    have opened : s.PeatOpen q := ⟨hq, cmds, enabled, noLull, powered⟩
    have record : s.blockRecord k ≠ [] := List.ne_nil_of_length_eq_add_one (s.blockRecord_length k)
    have write := State.hostWrite_clean (s := s.startCmd q 0x23 (.peatStatus [k] p2.toNat)) off record (State.clean_of_noFaults hf hw hm st)
      (State.devRange_onModule range) fen marsh
    have back := State.rawBytes_rawWrite (s := s.startCmd q 0x23 (.peatStatus [k] p2.toNat)) spares st off (s.blockRecord k)
    rw [State.blockRecord_length] at back
    refine ⟨_, (exec_peatStatus accepts pf one inDie data device).trans (congrArg _ (opened.records range here free write)),
      (State.rawBytes_congr rfl rfl ..).trans back, ?_⟩
    rw [State.rawWrite_eq, ← cmds]
    rfl
  · have event : exec (.peatMapWrite i v) s = .next (peatMapWrite i v.toNat s) := (if_pos hi).trans (congrArg _ (State.whenClocked_on _ hc))
    refine ⟨_, event, ?_, State.on_put_one _ _ _ (by decide), rfl, fun k d hk => ?_⟩
    · exact (SMap.get_insert_same ..).trans (mapWord_eq v.toNat)
    · exact State.flds_put_other _ _ _ _ _ _ fun same => hk (List.mem_singleton.2 same)
  · have event : exec (.peatCtlEnable v) s = .next (peatCtlWrite (v.toNat % 2 ^ 32) (2 ^ 32 - 1) s) := congrArg _ (State.whenClocked_on _ hc)
    rw [peatCtlWrite_eq] at event
    have apart (f : Fld) (hf : f.id < 4096) (h : f.id ≠ Fld.id .PEAT_CTL_ENABLE) : (Fld.PEAT_CTL_ENABLE).key 0 ≠ f.key 0 := Fld.key_ne 0 0 (by decide) hf h.symm
    have fromMax := apart .PEAT_CTL_ACTIVE_MAX (by decide) (by decide)
    have fromDisturb := apart .PEAT_CTL_DISTURB_EVENT (by decide) (by decide)
    refine ⟨_, event, ?_, ?_, ?_, fun k d hk => ?_⟩
    · rw [State.inForce_writeField_other _ _ _ fromDisturb, State.inForce_writeField_other _ _ _ fromMax, State.inForce_putLater_same]
    · rw [State.get_writeField_other _ _ _ fromDisturb, State.get_writeField_other _ _ _ fromMax, State.get_putLater_same]
      exact Nat.mod_mod ..
    · rw [State.writeField_frame _ .PEAT_CTL_DISTURB_EVENT, State.writeField_frame _ .PEAT_CTL_ACTIVE_MAX]
      rfl
    · simp only [List.mem_cons, List.not_mem_nil, or_false, not_or] at hk
      obtain ⟨notEnable, notMax, notDisturb⟩ := hk
      rw [State.flds_writeField_other _ _ _ _ notDisturb, State.flds_writeField_other _ _ _ _ notMax, State.flds_putLater_other _ _ _ _ notEnable]
  · have event : exec .peatCounterSave s = .next s.savePeat := congrArg _ (State.whenClocked_on _ hc)
    refine ⟨_, event, rfl, rfl, fun e he => ?_, rfl⟩
    obtain ⟨b, -, rfl⟩ := List.mem_map.1 he
    rfl
  · exact congrArg _ (if_neg on)

end Sys2Proof.Proofs
end

section
/-!
PROOFS. Training and retraining of links, marsh ports and Xeunni ports (R198, R242, R243, R255, R260), and the statement O40.
-/
namespace Sys2Proof.Machine

/-! ### States that differ in register fields only -/

theorem State.onlyFields_put (s : State) (f : Fld) (i v : Nat) : s.onlyFields (s.put f i v) [f.key i] :=
  ⟨rfl, fun k d hk => State.flds_put_other _ _ _ _ k d fun e => hk (List.mem_singleton.2 e)⟩

theorem State.onlyFields_bump (s : State) (f : Fld) (i n : Nat) : s.onlyFields (s.bump f i n) [f.key i] := s.onlyFields_put ..

theorem State.onlyFields_puts (s : State) (i : Nat) (fs : List (Fld × Nat)) : s.onlyFields (s.puts i fs) (fs.map fun e => e.1.key i) :=
  ⟨s.puts_eq i fs, fun k d hk => s.flds_puts_other i fs k d fun _ he same => hk (same ▸ List.mem_map_of_mem he)⟩

theorem State.fieldsKept.trans {s t u : State} {ks ls : List Nat} (h1 : s.fieldsKept t ks) (h2 : t.fieldsKept u ls) : s.fieldsKept u (ks ++ ls) :=
  fun k d hk => (h2 k d fun h => hk (List.mem_append_right ks h)).trans (h1 k d fun h => hk (List.mem_append_left ls h))

theorem State.onlyFields.trans {s t u : State} {ks ls : List Nat} (h1 : s.onlyFields t ks) (h2 : t.onlyFields u ls) : s.onlyFields u (ks ++ ls) :=
  ⟨Eq.trans h2.1 (by rw [h1.1]), h1.2.trans h2.2⟩

theorem State.onlyFields.links {s t : State} {ks : List Nat} (h : s.onlyFields t ks) : t.links = s.links := by rw [h.1]

theorem State.onlyFields.link {s t : State} {ks : List Nat} (h : s.onlyFields t ks) (j : Nat) : t.link j = s.link j := by rw [State.link, h.links, ← State.link]

theorem State.onlyFields.cmds {s t : State} {ks : List Nat} (h : s.onlyFields t ks) : t.cmds = s.cmds := by rw [h.1]

/-- A field is none of those at the keys of another field. -/
theorem Fld.key_not_mem_map {f g : Fld} (i : Nat) (is : List Nat) (hf : f.id < 4096) (hg : g.id < 4096) (h : f.id ≠ g.id) : f.key i ∉ is.map g.key := fun hm => by
  obtain ⟨j, -, same⟩ := List.mem_map.1 hm
  exact Fld.key_ne j i hg hf h.symm same

/-! ### Transit domains (R248) -/

theorem State.refreshTransit_only (s : State) (d : Nat) : s.onlyFields (s.refreshTransit d) [Fld.ZYN_TRANSIT_STATE.key d] := s.onlyFields_put ..

theorem State.refreshTransits_only (ds : List Nat) (s : State) : s.onlyFields (s.refreshTransits ds) (ds.map Fld.ZYN_TRANSIT_STATE.key) := by
  induction ds generalizing s with
  | nil => exact ⟨rfl, fun _ _ _ => rfl⟩
  | cons d r ih => exact (s.refreshTransit_only d).trans (ih _)

theorem State.refreshTransits_get (s : State) (ds : List Nat) {f : Fld} (i : Nat) (hf : f.id < 4096) (h : f.id ≠ Fld.ZYN_TRANSIT_STATE.id) :
    (s.refreshTransits ds).get f i = s.get f i :=
  State.get_of_kept (s.refreshTransits_only ds).2 (Fld.key_not_mem_map i ds hf (by decide) h)

/-- Whether a die passes no traffic: its transit domain has a fault or is powered down. -/
def State.noTransit (s : State) (d : Nat) : Bool := s.transitFaults.contains d || bitOf (s.get .PWR_STATE_TRANSIT_OFF 0) d

/-! ### A full training starts (R242, R198) -/

/-- A link beyond its registers as its training starts. -/
def Link.untrained (k : Link) : Link := { k with fullDue := false, d0 := LinkDir.fresh, d1 := LinkDir.fresh, bad := [] }

/-- Register fields that the start of a link's training writes. -/
def trainingKeys (l : Nat) : List Nat :=
  [Fld.ZYN_LINK_STATUS_STATE.key l, Fld.ZYN_LINK_STATUS_GROUP.key l] ++ (linkDies l).map Fld.ZYN_TRANSIT_STATE.key

section
variable {s : State} {l : Nat} (hl : l < 24)
include hl

theorem State.startTraining_waits (h : (s.link l).groups ≠ []) : s.startTraining l = s.setLink l { s.link l with fullDue := true } := by
  simp [State.startTraining, hl, h]

theorem State.startTraining_link (h : (s.link l).groups = []) : s.startTraining l =
    ((s.setLink l (s.link l).untrained).puts l [(.ZYN_LINK_STATUS_STATE, 1), (.ZYN_LINK_STATUS_GROUP, 63)]).refreshTransits (linkDies l) := by
  simp only [State.startTraining, if_pos hl, h, List.isEmpty_nil, Bool.not_true, Bool.false_eq_true, if_false, Link.untrained]

theorem State.startTraining_only (h : (s.link l).groups = []) : (s.setLink l (s.link l).untrained).onlyFields (s.startTraining l) (trainingKeys l) := by
  rw [State.startTraining_link hl h]
  exact (State.onlyFields_puts ..).trans (State.refreshTransits_only ..)

theorem State.startTraining_state (h : (s.link l).groups = []) : (s.startTraining l).get .ZYN_LINK_STATUS_STATE l = 1 := by
  rw [State.startTraining_link hl h, State.refreshTransits_get _ _ _ (by decide) (by decide), State.puts_cons, State.puts_cons, State.puts_nil,
    State.get_put_of_id _ _ _ _ (by decide) (by decide) (by decide), State.get_put_same]
  rfl

theorem State.startTraining_kept (h : (s.link l).groups = []) : s.fieldsKept (s.startTraining l) (trainingKeys l) := (State.startTraining_only hl h).2

theorem State.startTraining_link_other (h : (s.link l).groups = []) {j : Nat} (hj : j ≠ l) : (s.startTraining l).link j = s.link j :=
  ((State.startTraining_only hl h).link j).trans (State.link_set_other _ _ hj)

theorem State.startTraining_groups (h : (s.link l).groups = []) : ((s.startTraining l).link l).groups = [] := by
  rw [(State.startTraining_only hl h).link, State.link_set_same, ← h]
  rfl

end

/-- A marsh port with its stack put into self-refresh, as its training starts. -/
def State.marshUntrained (s : State) (m : Nat) : State :=
  let t := s.repayMarsh m
  { t with selfRefresh := SMap.set t.selfRefresh (816 + m) true false }.setLink (24 + m) { s.link (24 + m) with port := 1, d0 := LinkDir.fresh }

theorem State.startTraining_marsh (s : State) (m : Nat) : s.startTraining (24 + m) = (s.marshUntrained m).refreshTransits [m] := by
  have hu : ¬24 + m < 24 := Nat.not_lt.2 (Nat.le_add_right ..)
  simp only [State.startTraining, if_neg hu, Nat.add_sub_cancel_left, State.marshUntrained]

theorem State.startTraining_marsh_port (s : State) (m : Nat) : ((s.startTraining (24 + m)).link (24 + m)).port = 1 := by
  rw [State.startTraining_marsh, (State.refreshTransits_only ..).link, State.marshUntrained, State.link_set_same]

theorem State.startTraining_marsh_cmds (s : State) (m : Nat) : (s.startTraining (24 + m)).cmds = s.cmds := by
  rw [State.startTraining_marsh, (State.refreshTransits_only ..).1]
  rfl

/-! ### Groups queued (R243) -/

/-- Groups of a link that wait with those asked for behind them. -/
def Link.queued (k : Link) (gs : List Nat) : Link := { k with groups := k.groups ++ gs.filter fun g => !k.groups.contains g }

theorem Link.mem_queued {k : Link} {gs : List Nat} {g : Nat} (h : g ∈ gs) : g ∈ (k.queued gs).groups := by
  by_cases hk : g ∈ k.groups
  · exact List.mem_append_left _ hk
  · exact List.mem_append_right _ (List.mem_filter.2 ⟨h, by simpa using hk⟩)

theorem State.startGroups_active {s : State} {l : Nat} (h : s.get .ZYN_LINK_STATUS_STATE l = 6) (gs : List Nat) :
    s.startGroups l gs = (s.setLink l ((s.link l).queued gs)).put .ZYN_LINK_STATUS_GROUP l (((s.link l).queued gs).groups.headD 63) :=
  if_neg (not_not.2 h)

theorem State.linkUp_active {s : State} {l : Nat} (h : s.linkUp l = true) : s.get .ZYN_LINK_STATUS_STATE l = 6 :=
  beq_iff_eq.1 (Bool.and_eq_true_iff.1 h).1

/-! ### Xeunni ports (R260) -/

/-- A port beyond its registers as its training starts: the replays counted in the gust are all that is left. -/
def XPort.untrained (x : XPort) : XPort := { XPort.down with replays := x.replays }

theorem State.startPort_may {s : State} {k : Nat} (h : s.portMay k = true) :
    s.startPort k = (s.setXport k (s.xport k).untrained).put .XNI_PORT_STATUS_STATE k 1 := if_pos h

theorem State.startPort_mayNot {s : State} {k : Nat} (h : s.portMay k = false) : s.startPort k = s := if_neg (Bool.eq_false_iff.1 h)

theorem State.startPort_only {s : State} {k : Nat} (h : s.portMay k = true) :
    (s.setXport k (s.xport k).untrained).onlyFields (s.startPort k) [Fld.XNI_PORT_STATUS_STATE.key k] := by
  rw [State.startPort_may h]
  exact State.onlyFields_put ..

theorem State.startPort_state {s : State} {k : Nat} (h : s.portMay k = true) : (s.startPort k).get .XNI_PORT_STATUS_STATE k = 1 := by
  rw [State.startPort_may h, State.get_put_same]
  rfl

/-! ### LINK_RETRAIN, by the kind of unit it names -/

section
variable {s : State} {q : Req} {p0 : Word} (h : s.Accepts opLinkRetrain q [p0])
include h

theorem exec_linkRetrain (hk : fieldOf p0 1 0 ≠ 3) (hi : fieldOf p0 9 4 < [24, 12, 16].getD (fieldOf p0 1 0) 0) :
    exec (.linkRetrain q p0) s = .next (linkRetrain q p0 s) :=
  hostRow_accepted h ((if_neg hk).trans (if_pos hi)) _

theorem exec_zynRetrain (hk : fieldOf p0 1 0 = 0) (hi : fieldOf p0 9 4 < 24) :
    exec (.linkRetrain q p0) s = .next (zynRetrain q (fieldOf p0 9 4) (flagOf p0 10) s) := by
  rw [exec_linkRetrain h (by omega) (by rwa [hk]), linkRetrain, if_pos hk]

theorem exec_marshRetrain (hk : fieldOf p0 1 0 = 1) (hi : fieldOf p0 9 4 < 12) :
    exec (.linkRetrain q p0) s = .next (marshRetrain q (fieldOf p0 9 4) (flagOf p0 10) s) := by
  rw [exec_linkRetrain h (by omega) (by rwa [hk]), linkRetrain, if_neg (by omega), if_pos hk]

theorem exec_portRetrain (hk : fieldOf p0 1 0 = 2) (hi : fieldOf p0 9 4 < 16) :
    exec (.linkRetrain q p0) s = .next (portRetrain q (fieldOf p0 9 4) s) := by
  rw [exec_linkRetrain h (by omega) (by rwa [hk]), linkRetrain, if_neg (by omega), if_neg (by omega)]

end

section
variable {s : State} {q : Req} {l m k : Nat}

theorem zynRetrain_full (h : (linkDies l).any s.noTransit = false) : zynRetrain q l true s = (s.startCmd q 0x40 (.linkRetrain l 1)).startTraining l := by
  unfold State.noTransit at h
  simp only [zynRetrain, h, Bool.not_false, Bool.and_self, if_true]

theorem zynRetrain_groups (h : s.linkUp l = true) : zynRetrain q l false s = (s.startCmd q 0x40 (.linkRetrain l 0)).startGroups l (List.range 33) := by
  simp only [zynRetrain, Bool.false_and, Bool.false_eq_true, if_false, Bool.not_false, Bool.true_and, h, if_true]

theorem zynRetrain_refused {full : Bool} (h : (full = true ∧ (linkDies l).any s.noTransit = true) ∨ (full = false ∧ s.linkUp l = false)) :
    zynRetrain q l full s = s.done q stOk (s.get .ZYN_LINK_STATUS_STATE l) := by
  obtain ⟨rfl, h⟩ | ⟨rfl, h⟩ := h
  · unfold State.noTransit at h
    simp only [zynRetrain, h, Bool.not_true, Bool.and_false, Bool.false_and, Bool.false_eq_true, if_false]
  · simp only [zynRetrain, h, Bool.and_false, Bool.false_and, Bool.false_eq_true, if_false]

theorem marshRetrain_full (h : s.noTransit m = false) : marshRetrain q m true s = (s.startCmd q 0x40 (.linkRetrain (64 + m) 1)).startTraining (24 + m) := by
  unfold State.noTransit at h
  simp only [marshRetrain, h, Bool.not_false, Bool.and_self, if_true]

theorem marshRetrain_groups (h : (s.link (24 + m)).port = 6) :
    marshRetrain q m false s = (s.startCmd q 0x40 (.linkRetrain (64 + m) 0)).setLink (24 + m) { s.link (24 + m) with chLeft := 17 } := by
  simp only [marshRetrain, Bool.false_and, Bool.false_eq_true, if_false, Bool.not_false, Bool.true_and, h, beq_self_eq_true, if_true]

theorem marshRetrain_refused {full : Bool} (h : (full = true ∧ s.noTransit m = true) ∨ (full = false ∧ (s.link (24 + m)).port ≠ 6)) :
    marshRetrain q m full s = s.done q stOk (s.link (24 + m)).port := by
  obtain ⟨rfl, h⟩ | ⟨rfl, h⟩ := h
  · unfold State.noTransit at h
    simp only [marshRetrain, h, Bool.not_true, Bool.and_false, Bool.false_and, Bool.false_eq_true, if_false]
  · simp only [marshRetrain, beq_eq_false_iff_ne.2 h, Bool.and_false, Bool.false_and, Bool.false_eq_true, if_false]

theorem portRetrain_may (h : s.portMay k = true) : portRetrain q k s = (s.startCmd q 0x40 (.linkRetrain (128 + k) 1)).startPort k := if_pos h

theorem portRetrain_mayNot (h : s.portMay k = false) : portRetrain q k s = s.done q stOk (s.get .XNI_PORT_STATUS_STATE k) := if_neg (Bool.eq_false_iff.1 h)

end

end Sys2Proof.Machine

namespace Sys2Proof.Proofs
open Sys2Proof Sys2Proof.Machine

/-- Settles O40: the command joins those in progress, and its unit's training or its groups start; a unit that may not train answers with its state. -/
theorem linkRetrainStarts : Obligations.LinkRetrainStarts := by
  intro q p0 s i full out ha
  refine ⟨fun hk hi => ⟨fun hf ho hg => ?_, fun hf ho hg => ?_, fun hf hup => ?_, fun hr => ?_⟩, fun hk hi => ⟨fun hf ho => ?_, fun hf h6 => ?_, fun hr => ?_⟩,
    fun hk hi => ⟨fun hm => ?_, fun hm => ?_⟩⟩
  · have idle : ((s.startCmd q 0x40 (.linkRetrain i 1)).link i).groups = [] := hg
    have event : exec (.linkRetrain q p0) s = .next ((s.startCmd q 0x40 (.linkRetrain i 1)).startTraining i) := by
      rw [exec_zynRetrain ha hk hi, show flagOf p0 10 = true from hf, zynRetrain_full ho]
    have only := State.startTraining_only hi idle
    refine ⟨_, event, State.startTraining_state hi idle, only.cmds, only.1.trans ?_, State.startTraining_kept hi idle,
      fun j hj => State.startTraining_link_other hi idle hj⟩
    rw [only.links, only.cmds]
    rfl
  · have busy : ((s.startCmd q 0x40 (.linkRetrain i 1)).link i).groups ≠ [] := hg
    rw [exec_zynRetrain ha hk hi, show flagOf p0 10 = true from hf, zynRetrain_full ho, State.startTraining_waits hi busy]
    rfl
  · have active : (s.startCmd q 0x40 (.linkRetrain i 0)).get .ZYN_LINK_STATUS_STATE i = 6 := State.linkUp_active hup
    have event : exec (.linkRetrain q p0) s = .next ((s.startCmd q 0x40 (.linkRetrain i 0)).startGroups i (List.range 33)) := by
      rw [exec_zynRetrain ha hk hi, show flagOf p0 10 = false from hf, zynRetrain_groups hup]
    rw [State.startGroups_active active] at event
    refine ⟨_, event, fun g hg => ?_, rfl, rfl, (State.onlyFields_put ..).2, fun j hj => State.link_set_other _ _ hj⟩
    rw [(State.onlyFields_put ..).link, State.link_set_same]
    exact Link.mem_queued (List.mem_range.2 hg)
  · rw [exec_zynRetrain ha hk hi, zynRetrain_refused hr]
  · have event : exec (.linkRetrain q p0) s = .next ((s.startCmd q 0x40 (.linkRetrain (64 + i) 1)).startTraining (24 + i)) := by
      rw [exec_marshRetrain ha hk hi, show flagOf p0 10 = true from hf, marshRetrain_full ho]
    exact ⟨_, event, State.startTraining_marsh_port .., State.startTraining_marsh_cmds ..⟩
  · rw [exec_marshRetrain ha hk hi, show flagOf p0 10 = false from hf, marshRetrain_groups h6]
    rfl
  · rw [exec_marshRetrain ha hk hi, marshRetrain_refused hr]
  · have may : (s.startCmd q 0x40 (.linkRetrain (128 + i) 1)).portMay i = true := hm
    have only := State.startPort_only may
    refine ⟨_, (exec_portRetrain ha hk hi).trans (congrArg _ (portRetrain_may hm)), State.startPort_state may, only.cmds, only.1.trans ?_, only.2⟩
    rw [only.cmds, only.1]
    rfl
  · rw [exec_portRetrain ha hk hi, portRetrain_mayNot hm]

end Sys2Proof.Proofs
end

section
/-!
PROOFS. What the network ports and the shared cache hold, tried again where they hold nothing (R251), and commands that wait for a training where none is in progress.
-/
namespace Sys2Proof.Machine

/-! ### Ports that hold nothing -/

theorem SMap.get_holds {β : Type} {m : SMap β} {d : β} {P : β → Prop} (hm : ∀ e ∈ m, P e.2) (hd : P d) (k : Nat) : P (SMap.get m k d) := by
  induction m with
  | nil => exact hd
  | cons e r ih =>
    obtain ⟨a, v⟩ := e
    unfold SMap.get
    split
    · exact hm (a, v) (List.mem_cons_self ..)
    · exact ih fun x hx => hm x (List.mem_cons_of_mem _ hx)

theorem State.netq_of_netCores {s : State} (h : s.netCores = []) (c : Nat) : (s.core c).netq = [] := by
  refine SMap.get_holds (P := fun k : Core => k.netq = []) (fun e he => ?_) rfl c
  have idle := List.filter_eq_nil_iff.1 (List.map_eq_nil_iff.1 h) e he
  simpa using idle

/-- With nothing held anywhere, nothing is tried. -/
theorem State.settle_free {s : State} (ha : s.atomHeld = []) (hc : s.netCores = []) : s.settle = s := by
  rw [State.settle, ha]
  change (if s.netCores.isEmpty then s else _) = s
  rw [hc]
  rfl

/-- Two states that differ at most in how the same core sites are listed. -/
def State.SameCores (s t : State) : Prop := t = { s with cores := t.cores } ∧ ∀ c, t.core c = s.core c

theorem State.SameCores.refl (s : State) : s.SameCores s := ⟨rfl, fun _ => rfl⟩

theorem State.SameCores.trans {s t u : State} (h1 : s.SameCores t) (h2 : t.SameCores u) : s.SameCores u :=
  ⟨Eq.trans h2.1 (by rw [h1.1]), fun c => (h2.2 c).trans (h1.2 c)⟩

theorem State.setCore_same (s : State) (c : Nat) : s.SameCores (s.setCore c (s.core c)) := by
  refine ⟨rfl, fun d => ?_⟩
  by_cases hd : d = c
  · rw [hd, State.core_set_same]
  · rw [State.core_set_other _ _ hd]

theorem State.netPass_empty {s : State} {c : Nat} (h : (s.core c).netq = []) : s.SameCores (s.netPass c) := by
  have pass : s.netPass c = s.setCore c (s.core c) := by
    have same : ({ s.core c with netq := [] } : Core) = s.core c := by rw [← h]
    unfold State.netPass
    rw [h]
    exact congrArg (s.setCore c) same
  rw [pass]
  exact s.setCore_same c

theorem State.netPasses_empty {s : State} (h : ∀ c, (s.core c).netq = []) (l : List Nat) : s.SameCores (l.foldl State.netPass s) := by
  induction l generalizing s with
  | nil => exact .refl s
  | cons c r ih =>
    have one := State.netPass_empty (h c)
    exact one.trans (ih fun d => by rw [one.2, h])

theorem State.netSettle_empty {s : State} (h : ∀ c, (s.core c).netq = []) (fuel : Nat) : s.SameCores (s.netSettle fuel) := by
  induction fuel generalizing s with
  | zero => exact .refl s
  | succ n ih =>
    have round : s.SameCores s.netRound := State.netPasses_empty h _
    unfold State.netSettle
    dsimp only
    split
    · exact round.trans (ih fun d => by rw [round.2, h])
    · exact round

/-- Where no core's port holds a request and no atomic operation waits, nothing changes. -/
theorem State.settle_same {s : State} (ha : s.atomHeld = []) (h : ∀ c, (s.core c).netq = []) : s.SameCores s.settle := by
  have tried : s.settle = if s.netCores.isEmpty then s else s.netSettle (s.netCount + 1) := by
    rw [State.settle, ha]
    rfl
  rw [tried]
  split
  · exact .refl s
  · exact State.netSettle_empty h _

/-! ### A module with no command and no network operation in progress -/

/-- No command is in progress, and neither a core's port nor the shared cache holds a request. -/
structure State.Calm (s : State) : Prop where
  cmds : s.cmds = []
  atomHeld : s.atomHeld = []
  netq : ∀ c, (s.core c).netq = []

theorem State.Calm.congr {s t : State} (h : s.Calm) (h1 : t.cmds = s.cmds) (h2 : t.atomHeld = s.atomHeld) (h3 : t.cores = s.cores) : t.Calm where
  cmds := h1.trans h.cmds
  atomHeld := h2.trans h.atomHeld
  netq c := by rw [State.core, h3]; exact h.netq c

theorem State.Calm.only {s t : State} {ks : List Nat} (h : s.Calm) (ht : s.onlyFields t ks) : t.Calm :=
  h.congr ht.cmds (by rw [ht.1]) (by rw [ht.1])

theorem State.Calm.setLink {s : State} (h : s.Calm) (l : Nat) (k : Link) : (s.setLink l k).Calm := h.congr rfl rfl rfl

theorem State.Calm.event {s : State} (h : s.Calm) (r : Rec) : (s.event r).Calm where
  cmds := (s.event_only r).keeps.2.1.trans h.cmds
  atomHeld := Eq.trans (by rw [s.event_only r]) h.atomHeld
  netq c := (congrArg UnitWork.netq (s.event_workKept c r).work).trans (h.netq c)

theorem State.Calm.eventFree {s : State} (h : s.Calm) (r : Rec) : (s.eventFree r).Calm := State.Calm.event (s := s.free.2) (h.congr rfl rfl rfl) _

theorem State.Calm.settle {s : State} (h : s.Calm) : s.SameCores s.settle := State.settle_same h.atomHeld h.netq

theorem State.Calm.settle_get {s : State} (h : s.Calm) (f : Fld) (i : Nat) : s.settle.get f i = s.get f i := by rw [h.settle.1]; rfl

theorem State.Calm.settle_link {s : State} (h : s.Calm) (l : Nat) : s.settle.link l = s.link l := by rw [h.settle.1]; rfl

theorem State.Calm.settle_transitFaults {s : State} (h : s.Calm) : s.settle.transitFaults = s.transitFaults := by rw [h.settle.1]

theorem State.endRetrain_idle {s : State} (h : s.cmds = []) (kind u group reached : Nat) : s.endRetrain kind u group reached = s := by
  rw [State.endRetrain, h]
  rfl

/-- A record leaves the fields apart from those of records, the links and the transit domains. -/
theorem State.eventFree_get (s : State) (r : Rec) {f : Fld} (hf : f.Unrecorded) (i : Nat) : (s.eventFree r).get f i = s.get f i := State.event_get hf i ..

theorem State.eventFree_link (s : State) (r : Rec) (l : Nat) : (s.eventFree r).link l = s.link l := by
  rw [State.link, (s.eventFree_only r).keeps.2.2.2.2.2.1, ← State.link]

theorem State.eventFree_transitFaults (s : State) (r : Rec) : (s.eventFree r).transitFaults = s.transitFaults := by
  rw [s.eventFree_only r]

end Sys2Proof.Machine
end

section
/-!
PROOFS. The states of a training, a group that has retrained, a transit domain that fails (R198, R242 to R244, R248), and the statement O42.
-/
namespace Sys2Proof.Machine

/-! ### States that differ in links and register fields only -/

def State.LinksOnly (s t : State) : Prop := t = { s with flds := t.flds, links := t.links }

theorem State.LinksOnly.trans {s t u : State} (h1 : s.LinksOnly t) (h2 : t.LinksOnly u) : s.LinksOnly u := Eq.trans h2 (by rw [h1])

theorem State.LinksOnly.atomHeld {s t : State} (h : s.LinksOnly t) : t.atomHeld = s.atomHeld := by rw [h]

theorem State.LinksOnly.netCores {s t : State} (h : s.LinksOnly t) : t.netCores = s.netCores := by
  rw [h]
  rfl

theorem State.setLink_linksOnly (s : State) (l : Nat) (k : Link) : s.LinksOnly (s.setLink l k) := rfl

theorem State.onlyFields.transitFaults {s t : State} {ks : List Nat} (h : s.onlyFields t ks) : t.transitFaults = s.transitFaults := by rw [h.1]

theorem State.onlyFields.linksOnly {s t : State} {ks : List Nat} (h : s.onlyFields t ks) : s.LinksOnly t := Eq.trans h.1 (by rw [h.links])

theorem State.startTraining_linksOnly {s : State} {l : Nat} (hl : l < 24) (h : (s.link l).groups = []) : s.LinksOnly (s.startTraining l) :=
  (s.setLink_linksOnly l _).trans (State.startTraining_only hl h).linksOnly

/-! ### A training state of a link finishes (R242, R244) -/

section
variable {s : State} {l : Nat} (tr : LinkTrain)

theorem zynTraining_down (h : s.get .ZYN_LINK_STATUS_STATE l = 0) : zynTraining l tr s = if (linkDies l).any s.noTransit then s else s.startTraining l := by
  simp only [zynTraining, h, if_true]
  rfl

theorem zynTraining_next (h : s.get .ZYN_LINK_STATUS_STATE l = 1 ∨ s.get .ZYN_LINK_STATUS_STATE l = 2) :
    zynTraining l tr s = s.put .ZYN_LINK_STATUS_STATE l (s.get .ZYN_LINK_STATUS_STATE l + 1) := by
  rw [zynTraining, if_neg (by omega), if_pos (by omega)]

theorem zynTraining_wires (h : s.get .ZYN_LINK_STATUS_STATE l = 3) :
    zynTraining l tr s = (s.setLink l { s.link l with bad := tr.bad }).put .ZYN_LINK_STATUS_STATE l 4 := by
  simp only [zynTraining, h, Nat.reduceLT, OfNat.ofNat_ne_zero, if_false, if_true]

theorem zynTraining_repair (h : s.get .ZYN_LINK_STATUS_STATE l = 4) : zynTraining l tr s = s.repairLink l := by
  simp only [zynTraining, h, Nat.reduceLT, Nat.reduceEqDiff, OfNat.ofNat_ne_zero, if_false, if_true]

theorem zynTraining_negotiate (h : s.get .ZYN_LINK_STATUS_STATE l = 5) : zynTraining l tr s = s.negotiate l tr := by
  simp only [zynTraining, h, Nat.reduceLT, Nat.reduceEqDiff, OfNat.ofNat_ne_zero, if_false, if_true]

theorem zynTraining_active (h : s.get .ZYN_LINK_STATUS_STATE l = 6) : zynTraining l tr s = s := by
  simp only [zynTraining, h, Nat.reduceLT, Nat.reduceEqDiff, OfNat.ofNat_ne_zero, if_false]

/-- With no failed wire, REPAIR has nothing to do. -/
theorem State.repairLink_whole (h : (s.link l).bad = []) : s.repairLink l = s.put .ZYN_LINK_STATUS_STATE l 5 := by
  have wires : s.repairWires l = some s := by
    have none (dir : Bool) : (List.range 1024).filter (fun w => ([] : List (Bool × Nat)).contains (dir, w) && !s.wireCovered l dir w) = [] :=
      List.filter_eq_nil_iff.2 fun w _ => by simp
    unfold State.repairWires
    rw [h]
    simp only [none]
    rfl
  unfold State.repairLink
  rw [wires]

/-- A link that stays DOWN shows state 0, its record raised. -/
theorem State.linkDown_state (hs : s.Calm) (kind : Nat) : (s.linkDown l kind).get .ZYN_LINK_STATUS_STATE l = 0 := by
  have calm : (((s.put .ZYN_LINK_STATUS_STATE l 0).linkEvent l kind).refreshTransits (linkDies l)).Calm :=
    ((hs.only (s.onlyFields_put ..)).eventFree _).only (State.refreshTransits_only ..)
  rw [State.linkDown, State.endRetrain_idle calm.cmds, State.endRetrain_idle calm.cmds, State.refreshTransits_get _ _ _ (by decide) (by decide), State.linkEvent,
    State.eventFree_get _ _ ⟨by decide, by decide +kernel⟩, State.get_put_same]
  rfl

theorem State.negotiate_unknown (h1 : tr.far.version ≠ 1) (h2 : tr.far.version ≠ 2) : s.negotiate l tr = s.linkDown l 4 := if_pos ⟨h1, h2⟩

/-- The version that a link runs at: the I/O die knows the first one only. -/
def linkVersion (l : Nat) (far : LinkFar) : Nat := if l < 12 then far.version else 1

/-- Register fields of a link that has become ACTIVE. -/
def linkActive (s : State) (l : Nat) (far : LinkFar) : List (Fld × Nat) :=
  [(.ZYN_LINK_STATUS_VERSION, linkVersion l far), (.ZYN_LINK_STATUS_CAPS, if l < 12 ∧ far.version = 2 then far.caps % 4 else 0), (.ZYN_LINK_STATUS_STATE, 6),
    (.ZYN_LINK_STATUS_TRAIN_TEMP, ofSigned 8 (s.linkTemp l))]

theorem State.negotiate_known (hc : s.cmds = []) (ha : s.atomHeld = []) (hn : s.netCores = []) (h : tr.far.version = 1 ∨ tr.far.version = 2) :
    s.negotiate l tr = (s.puts l (linkActive s l tr.far)).refreshTransits (linkDies l) := by
  have known : ¬(tr.far.version ≠ 1 ∧ tr.far.version ≠ 2) := by omega
  have fields : [(Fld.ZYN_LINK_STATUS_VERSION, if l < 12 then min 2 tr.far.version else 1),
      (.ZYN_LINK_STATUS_CAPS, if (if l < 12 then min 2 tr.far.version else 1) = 2 then tr.far.caps % 4 else 0), (.ZYN_LINK_STATUS_STATE, 6),
      (.ZYN_LINK_STATUS_TRAIN_TEMP, ofSigned 8 (s.linkTemp l))] = linkActive s l tr.far := by
    have low : min 2 tr.far.version = tr.far.version := by omega
    rw [linkActive, linkVersion, low]
    by_cases hl : l < 12 <;> simp [hl]
  have only := (s.onlyFields_puts l (linkActive s l tr.far)).trans (State.refreshTransits_only (linkDies l) _)
  have cmds := only.cmds.trans hc
  rw [State.negotiate, if_neg known]
  dsimp only
  rw [fields, State.endRetrain_idle cmds, State.endRetrain_idle cmds]
  exact State.settle_free ((congrArg State.atomHeld only.1).trans ha) ((congrArg State.netCores only.1).trans hn)

theorem State.linkActive_get (v : State) (far : LinkFar) (h : far.version = 1 ∨ far.version = 2) : let t := (s.puts l (linkActive v l far)).refreshTransits (linkDies l)
    t.get .ZYN_LINK_STATUS_STATE l = 6 ∧ t.get .ZYN_LINK_STATUS_VERSION l = linkVersion l far ∧
    t.get .ZYN_LINK_STATUS_CAPS l = if l < 12 ∧ far.version = 2 then far.caps % 4 else 0 := by
  have version : linkVersion l far < 2 ^ Fld.ZYN_LINK_STATUS_VERSION.width := by
    change linkVersion l far < 16
    unfold linkVersion
    split <;> omega
  have caps : (if l < 12 ∧ far.version = 2 then far.caps % 4 else 0) < 2 ^ Fld.ZYN_LINK_STATUS_CAPS.width := by
    change _ < 16
    split <;> omega
  refine ⟨?_, ?_, ?_⟩ <;> rw [State.refreshTransits_get _ _ _ (by decide) (by decide)] <;>
    simp (disch := decide) only [linkActive, State.puts_cons, State.puts_nil, State.get_put_of_id, State.get_put_same]
  · rfl
  · exact Nat.mod_eq_of_lt version
  · exact Nat.mod_eq_of_lt caps

end

/-! ### A group has retrained (R243, R255) -/

section
variable {s : State} {l : Nat}

/-- Whether the groups of a link stop it and so wait in the lull. -/
def State.groupsHeld (s : State) (l : Nat) : Bool := s.inLull && !bitOf (s.get .ZYN_LINK_STATUS_CAPS l) 0

theorem zynGroup_none (h : (s.link l).groups = []) : zynGroup l s = s := by simp only [zynGroup, h]

theorem zynGroup_held (h : s.groupsHeld l = true) : zynGroup l s = s := by
  unfold zynGroup
  dsimp only
  split
  · rfl
  · exact if_pos (Bool.and_eq_true_iff.1 h)

variable {g : Nat} {rest : List Nat} (hg : (s.link l).groups = g :: rest) (hh : s.groupsHeld l = false)
include hg hh

theorem zynGroup_done : zynGroup l s =
    if (s.link l).fullDue then ((s.setLink l { s.link l with groups := [] }).startTraining l).settle
    else
      let t := (s.setLink l { s.link l with groups := rest }).put .ZYN_LINK_STATUS_GROUP l (rest.headD 63)
      if !rest.isEmpty then t else ((t.put .ZYN_LINK_STATUS_TRAIN_TEMP l (ofSigned 8 (t.linkTemp l))).endRetrain 0 l 0 6).settle := by
  have go : ¬(s.inLull = true ∧ (!bitOf (s.get .ZYN_LINK_STATUS_CAPS l) 0) = true) := fun h => Bool.false_ne_true (hh.symm.trans (Bool.and_eq_true_iff.2 h))
  simp only [zynGroup, hg, if_neg go]

theorem zynGroup_fullDue (hf : (s.link l).fullDue = true) : zynGroup l s = ((s.setLink l { s.link l with groups := [] }).startTraining l).settle := by
  rw [zynGroup_done hg hh, if_pos hf]

theorem zynGroup_next (hf : (s.link l).fullDue = false) (hr : rest ≠ []) :
    zynGroup l s = (s.setLink l { s.link l with groups := rest }).put .ZYN_LINK_STATUS_GROUP l (rest.headD 63) := by
  have more : (!rest.isEmpty) = true := by simpa using hr
  rw [zynGroup_done hg hh, if_neg (Bool.eq_false_iff.1 hf), if_pos more]

omit hg in
theorem zynGroup_last (hg : (s.link l).groups = [g]) (hf : (s.link l).fullDue = false) (hc : s.cmds = []) (ha : s.atomHeld = []) (hn : s.netCores = []) :
    let t := (s.setLink l { s.link l with groups := [] }).put .ZYN_LINK_STATUS_GROUP l 63
    zynGroup l s = t.put .ZYN_LINK_STATUS_TRAIN_TEMP l (ofSigned 8 (t.linkTemp l)) := by
  rw [zynGroup_done hg hh, if_neg (Bool.eq_false_iff.1 hf)]
  exact (congrArg State.settle (State.endRetrain_idle (s := ((s.setLink l _).put .ZYN_LINK_STATUS_GROUP l 63).put .ZYN_LINK_STATUS_TRAIN_TEMP l _) hc ..)).trans
    (State.settle_free ha hn)

end

/-! ### A training state of a marsh port finishes (R198, R238) -/

section
variable {s : State} {m : Nat} {bad : List (Bool × Nat)}

theorem marshTraining_down (h : (s.link (24 + m)).port = 0) : marshTraining m bad s = if s.noTransit m then s else s.startTraining (24 + m) := by
  simp only [marshTraining, h, if_true]
  rfl

theorem marshTraining_next (h : (s.link (24 + m)).port = 1 ∨ (s.link (24 + m)).port = 2) :
    marshTraining m bad s = s.setLink (24 + m) { s.link (24 + m) with port := (s.link (24 + m)).port + 1 } := by
  rw [marshTraining, if_neg (by omega), if_pos (by omega)]

/-- Temperature of a stack, as its port keeps it from its training on. -/
def State.stackTemp (s : State) (m : Nat) : Int := max (signedOf 8 (s.get .MRS_STATUS_TEMP0 m)) (signedOf 8 (s.get .MRS_STATUS_TEMP1 m))

/-- A marsh port that carries traffic, its stack out of self-refresh. -/
def State.marshActive (s : State) (m : Nat) : State :=
  { s with selfRefresh := SMap.set s.selfRefresh (816 + m) false false }.setLink (24 + m) { s.link (24 + m) with port := 6, temp := s.stackTemp m, chLeft := 0 }

theorem marshTraining_active (h : (s.link (24 + m)).port = 3) (hb : bad.any Prod.fst = false) (hc : s.cmds = []) (ha : s.atomHeld = []) (hn : s.netCores = []) :
    marshTraining m bad s = (s.marshActive m).refreshTransits [m] := by
  have only := State.refreshTransits_only [m] (s.marshActive m)
  have train : marshTraining m bad s = (((s.marshActive m).refreshTransits [m]).endRetrain 1 m 1 6).settle := by
    simp only [marshTraining, h, hb, Nat.reduceLT, OfNat.ofNat_ne_zero, Bool.false_eq_true, if_false, if_true]
    rfl
  rw [train, State.endRetrain_idle (only.cmds.trans hc)]
  exact State.settle_free ((congrArg State.atomHeld only.1).trans ha) ((congrArg State.netCores only.1).trans hn)

/-- A failed wire of its command bundle leaves a marsh port DOWN. -/
theorem marshTraining_failed (h : (s.link (24 + m)).port = 3) (hb : bad.any Prod.fst = true) (hs : s.Calm) : ((marshTraining m bad s).link (24 + m)).port = 0 := by
  have train : marshTraining m bad s =
      ((((s.setLink (24 + m) { s.link (24 + m) with port := 0 }).eventFree ⟨5, 5, m, 9, 15, 0, 3, 0⟩).refreshTransits [m]).endRetrain 1 m 1 0).settle := by
    simp only [marshTraining, h, hb, Nat.reduceLT, OfNat.ofNat_ne_zero, if_false, if_true]
  have calm : (((s.setLink (24 + m) { s.link (24 + m) with port := 0 }).eventFree ⟨5, 5, m, 9, 15, 0, 3, 0⟩).refreshTransits [m]).Calm :=
    ((hs.setLink ..).eventFree _).only (State.refreshTransits_only ..)
  rw [train, State.endRetrain_idle calm.cmds, calm.settle_link, (State.refreshTransits_only ..).link, State.eventFree_link, State.link_set_same]

end

/-! ### A transit domain fails (R248) -/

theorem State.refreshTransit_faulty {s : State} {d : Nat} (h : d ∈ s.transitFaults) : (s.refreshTransit d).get .ZYN_TRANSIT_STATE d = 3 := by
  have faulty : s.transitFaults.contains d = true := List.contains_iff_mem.2 h
  simp only [State.refreshTransit, faulty, Bool.or_true, Bool.true_or, if_true, State.get_put_same]
  rfl

/-- The faulty domains with die `d` among them. -/
def State.transitFailed (s : State) (d : Nat) : State := { s with transitFaults := if s.transitFaults.contains d then s.transitFaults else d :: s.transitFaults }

theorem State.mem_transitFailed (s : State) (d : Nat) : d ∈ (s.transitFailed d).transitFaults := by
  unfold State.transitFailed
  dsimp only
  split
  · next h => exact List.contains_iff_mem.1 h
  · exact List.mem_cons_self ..

theorem transitOut_failed {s : State} (hs : s.Calm) (d : Nat) : d ∈ (transitOut d s).transitFaults ∧ (transitOut d s).get .ZYN_TRANSIT_STATE d = 3 := by
  have calm : (s.transitFailed d).Calm := hs.congr rfl rfl rfl
  obtain ⟨r, event⟩ : ∃ r, transitOut d s = (((s.transitFailed d).eventFree r).refreshTransit d).settle :=
    ⟨⟨4, 3, d, 9, (s.transitFailed d).diePart d, 0, 3, 0⟩, by rw [transitOut, State.transitFailed]⟩
  have listed : d ∈ ((s.transitFailed d).eventFree r).transitFaults := by
    rw [State.eventFree_transitFaults]
    exact s.mem_transitFailed d
  have only := ((s.transitFailed d).eventFree r).refreshTransit_only d
  have settled := (calm.eventFree r).only only
  rw [event, settled.settle_get, settled.settle_transitFaults, only.transitFaults]
  exact ⟨listed, State.refreshTransit_faulty listed⟩

end Sys2Proof.Machine

namespace Sys2Proof.Proofs
open Sys2Proof Sys2Proof.Machine

/-- Settles O42: each state of a training leads to the next, and with nothing in progress no command ends and no held request goes on with it. -/
theorem linksTrain : Obligations.LinksTrain := by
  intro s hc hcmds hatom hnet out
  have calm : s.Calm := ⟨hcmds, hatom, State.netq_of_netCores hnet⟩
  refine ⟨fun l tr => ?_, fun m tr => ?_⟩
  · intro st v
    have train : exec (.linkTrainingState (.zyn l) tr.bad tr.far) s = .next (zynTraining l.val tr s) := congrArg _ (State.whenClocked_on _ hc)
    have group : exec (.zynGroupRetrain l) s = .next (zynGroup l.val s) := congrArg _ (State.whenClocked_on _ hc)
    refine ⟨fun h ho => ?_, fun h ho hg => ?_, fun h => ?_, fun h => ?_, fun h hb => ?_, fun h hv => ?_, fun h h1 h2 => ?_, fun h => ?_, fun h => ?_,
      fun g rest hg hh => ⟨fun hf => ?_, fun hf hr => ?_, fun hf hr => ?_⟩⟩
    · rw [train, zynTraining_down tr h]
      exact congrArg _ (if_pos ho)
    · rw [zynTraining_down tr h, show (linkDies l.val).any s.noTransit = false from ho, if_neg Bool.false_ne_true] at train
      exact ⟨_, train, State.startTraining_state l.isLt hg, State.startTraining_linksOnly l.isLt hg⟩
    · rw [train, zynTraining_next tr h]
    · rw [train, zynTraining_wires tr h]
    · rw [train, zynTraining_repair tr h, State.repairLink_whole hb]
    · rw [zynTraining_negotiate tr h, State.negotiate_known tr hcmds hatom hnet hv] at train
      obtain ⟨state, version, caps⟩ := State.linkActive_get (s := s) (l := l.val) s tr.far hv
      exact ⟨_, train, state, version, caps, ((s.onlyFields_puts ..).trans (State.refreshTransits_only ..)).1⟩
    · rw [zynTraining_negotiate tr h, State.negotiate_unknown tr h1 h2] at train
      exact ⟨_, train, State.linkDown_state calm 4⟩
    · rw [train, zynTraining_active tr h]
    · rw [group]
      exact congrArg _ (h.elim zynGroup_none zynGroup_held)
    · have idle : ((s.setLink l.val { s.link l.val with groups := [] }).link l.val).groups = [] := by rw [State.link_set_same]
      have frame := (State.setLink_linksOnly s l.val { s.link l.val with groups := [] }).trans (State.startTraining_linksOnly l.isLt idle)
      rw [zynGroup_fullDue hg hh hf, State.settle_free (frame.atomHeld.trans hatom) (frame.netCores.trans hnet)] at group
      exact ⟨_, group, State.startTraining_groups l.isLt idle, State.startTraining_state l.isLt idle, frame⟩
    · rw [group, zynGroup_next hg hh hf hr]
    · subst hr
      rw [zynGroup_last hh hg hf hcmds hatom hnet] at group
      refine ⟨_, group, ?_, ?_, rfl⟩
      · rw [((State.onlyFields_put ..).trans (State.onlyFields_put ..)).link, State.link_set_same]
      · rw [State.get_put_of_id _ _ _ _ (by decide) (by decide) (by decide), State.get_put_same]
        rfl
  · intro k
    have train : exec (.linkTrainingState (.marsh m) tr.bad tr.far) s = .next (marshTraining m.val tr.bad s) := congrArg _ (State.whenClocked_on _ hc)
    have fault : exec (.transitFault m) s = .next (transitOut m.val s) := congrArg _ (State.whenClocked_on _ hc)
    refine ⟨fun h ho => ?_, fun h ho => ?_, fun h => ?_, fun h hb => ?_, fun h hb => ⟨_, train, marshTraining_failed h hb calm⟩,
      ⟨_, fault, transitOut_failed calm m.val⟩⟩
    · rw [train, marshTraining_down h]
      exact congrArg _ (if_pos ho)
    · rw [marshTraining_down h, show s.noTransit m.val = false from ho, if_neg Bool.false_ne_true] at train
      exact ⟨_, train, State.startTraining_marsh_port ..⟩
    · rw [train, marshTraining_next h]
    · rw [marshTraining_active h hb hcmds hatom hnet] at train
      have only := State.refreshTransits_only [m.val] (s.marshActive m.val)
      refine ⟨_, train, ?_, only.1.trans ?_⟩
      · rw [only.link, State.marshActive, State.link_set_same]
      · rw [only.1]
        rfl

end Sys2Proof.Proofs
end

section
/-!
PROOFS. Flits received on links, marsh ports and Xeunni ports (R198, R240, R241, R261, R262, R264), and the statement O41.
-/
namespace Sys2Proof.Machine

/-! ### The two directions of a link -/

theorem Link.dir_setDir_same (k : Link) (d : Bool) (x : LinkDir) : (k.setDir d x).dir d = x := by cases d <;> rfl

theorem Link.dir_setDir_not (k : Link) (d : Bool) (x : LinkDir) : (k.setDir d x).dir (!d) = k.dir !d := by cases d <;> rfl

theorem Link.dir_setDir_of_not (k : Link) (d : Bool) (x : LinkDir) : (k.setDir (!d) x).dir d = k.dir d := by cases d <;> rfl

theorem Link.dir_replays (k : Link) (n : Nat) (d : Bool) : ({ k with replays := n } : Link).dir d = k.dir d := by cases d <;> rfl

/-- A flit kept for replay is entered with its sender: what the receiver awaits and has seen fail is as it was. -/
theorem LinkDir.hold_receiver (d : LinkDir) (depth seq : Nat) (ps : List ZynPkt) :
    (d.hold depth seq ps).rx = d.rx ∧ (d.hold depth seq ps).fails = d.fails ∧ (d.hold depth seq ps).failed = d.failed := by
  unfold LinkDir.hold
  split <;> exact ⟨rfl, rfl, rfl⟩

/-! ### A monitor takes latencies (R403) -/

theorem State.monSample_frame (s : State) (i : Nat) (x : Int) : s.monSample i x = { s with mons := (s.monSample i x).mons } := by
  unfold State.monSample
  dsimp only
  split <;> rfl

theorem State.monSample_other (s : State) {i j : Nat} (x : Int) (h : j ≠ i) : (s.monSample i x).mon j = s.mon j := by
  unfold State.monSample
  dsimp only
  split
  · exact State.mon_set_other _ _ h
  · rfl

/-- Samples taken in order by one monitor. -/
def State.monSamples (s : State) (i : Nat) (xs : List Nat) : State := xs.foldl (fun (s : State) (x : Nat) => s.monSample i x) s

/-- Two states that differ in their monitors alone. -/
def State.MonsOnly (s t : State) : Prop := t = { s with mons := t.mons }

theorem State.MonsOnly.trans {s t u : State} (h1 : s.MonsOnly t) (h2 : t.MonsOnly u) : s.MonsOnly u :=
  Eq.trans h2 (by rw [h1])

theorem State.MonsOnly.setLink {s t : State} {l : Nat} {k : Link} (h : (s.setLink l k).MonsOnly t) : t = { s with links := t.links, mons := t.mons } := by
  have links : t.links = (s.setLink l k).links := by rw [h]
  exact Eq.trans h (by rw [links]; rfl)

theorem State.monSamples_frame (i : Nat) (xs : List Nat) (s : State) : s.MonsOnly (s.monSamples i xs) := by
  induction xs generalizing s with
  | nil => rfl
  | cons x r ih => exact State.MonsOnly.trans (s.monSample_frame i x) (ih (s.monSample i x))

theorem State.monSamples_other {i j : Nat} (xs : List Nat) (s : State) (h : j ≠ i) : (s.monSamples i xs).mon j = s.mon j :=
  State.foldl_keeps (fun t : State => t.mon j) (fun t (x : Nat) => t.monSample_other (x : Int) h) xs s

theorem State.monSamples_links (s : State) (i : Nat) (xs : List Nat) : (s.monSamples i xs).links = s.links := by rw [State.monSamples_frame]

theorem State.monSamples_link (s : State) (i : Nat) (xs : List Nat) (j : Nat) : (s.monSamples i xs).link j = s.link j :=
  congrArg (fun m => SMap.get m j _) (s.monSamples_links i xs)

/-! ### A flit on a link (R240, R241) -/

section
variable {s : State} {l : Nat} {dir : Bool} {fl : ZynFlit}

theorem zynFlit_notActive (h : s.get .ZYN_LINK_STATUS_STATE l ≠ 6) : zynFlit l dir fl s = s := if_pos h

/-- A direction with a flit in the replay buffer of its sender. -/
def State.flitHeld (s : State) (l : Nat) (dir : Bool) (fl : ZynFlit) : LinkDir :=
  ((s.link l).dir dir).hold (replayDepth l dir) (if zynCrcOk fl.words then (ZynCtl.ofWords fl.words).seq else ((s.link l).dir dir).rx) fl.packets

/-- A link that has taken the flit awaited: the next is awaited, and what it acknowledges leaves the other direction's replay buffer. -/
def State.flitTaken (s : State) (l : Nat) (dir : Bool) (fl : ZynFlit) : Link :=
  let c := ZynCtl.ofWords fl.words
  let d := s.flitHeld l dir fl
  let o := (s.link l).dir !dir
  ((s.link l).setDir dir { d with rx := (d.rx + 1) % 4096, fails := 0, failed := [] }).setDir (!dir)
    { o with sent := ackedUpTo o.sent c.ack, used := returnUses o.used c.credits }

/-- A link that has met a flit that fails or is out of turn. -/
def State.flitFailed (s : State) (l : Nat) (dir : Bool) (fl : ZynFlit) : Link :=
  let d := s.flitHeld l dir fl
  { (s.link l).setDir dir { d with fails := d.fails + 1, failed := if zynCrcOk fl.words then d.failed else fl.words } with replays := (s.link l).replays + 1 }

variable (active : s.get .ZYN_LINK_STATUS_STATE l = 6) (eye : fl.eye = [])
include active eye

theorem zynFlit_taken (good : zynCrcOk fl.words = true) (turn : (ZynCtl.ofWords fl.words).seq = ((s.link l).dir dir).rx) (clear : ((s.link l).dir dir).failed = [])
    (replay : (ZynCtl.ofWords fl.words).nak = false ∨ (((s.link l).dir !dir).sent.any fun e => e.1 == ((ZynCtl.ofWords fl.words).ack + 1) % 4096) = true) :
    zynFlit l dir fl s = (s.setLink l (s.flitTaken l dir fl)).monSamples (monLinkLatency + 2 * l + Bool.bit dir) fl.latencies := by
  obtain ⟨rx, -, failed⟩ := ((s.link l).dir dir).hold_receiver (replayDepth l dir) ((s.link l).dir dir).rx fl.packets
  have fresh : ((ZynCtl.ofWords fl.words).nak && !((s.link l).dir !dir).sent.any fun e => e.1 == ((ZynCtl.ofWords fl.words).ack + 1) % 4096) = false := by
    rcases replay with h | h <;> simp [h]
  simp only [zynFlit, active, eye, good, rx, failed, clear, turn, fresh, State.flitTaken, State.flitHeld, State.monSamples, ne_eq, not_true, if_false, if_true,
    List.foldl_nil, beq_self_eq_true, Bool.and_self, false_and, Bool.false_eq_true]

theorem zynFlit_failed (bad : ¬(zynCrcOk fl.words = true ∧ (ZynCtl.ofWords fl.words).seq = ((s.link l).dir dir).rx)) (few : ((s.link l).dir dir).fails < 7) :
    zynFlit l dir fl s = ((s.bump .ZYN_LINK_ERR_CRC_ERRORS l 1).bump .ZYN_LINK_ERR_REPLAYS l 1).setLink l (s.flitFailed l dir fl) := by
  obtain ⟨rx, fails, -⟩ := ((s.link l).dir dir).hold_receiver (replayDepth l dir)
    (if zynCrcOk fl.words then (ZynCtl.ofWords fl.words).seq else ((s.link l).dir dir).rx) fl.packets
  have refused : (zynCrcOk fl.words && (ZynCtl.ofWords fl.words).seq == ((s.link l).dir dir).rx) = false := by
    simpa only [Bool.and_eq_false_imp, beq_eq_false_iff_ne, not_and] using bad
  have goesOn : ¬8 ≤ ((s.link l).dir dir).fails + 1 := by omega
  simp only [zynFlit, active, eye, rx, fails, refused, goesOn, State.flitFailed, State.flitHeld, ne_eq, not_true, if_false, List.foldl_nil, Bool.false_eq_true]

omit active eye

theorem State.flitTaken_dir : (s.flitTaken l dir fl).dir dir =
    { s.flitHeld l dir fl with rx := (((s.link l).dir dir).rx + 1) % 4096, fails := 0, failed := [] } := by
  rw [State.flitTaken, Link.dir_setDir_of_not, Link.dir_setDir_same, State.flitHeld, (LinkDir.hold_receiver ..).1]

theorem State.flitTaken_other : ((s.flitTaken l dir fl).dir !dir).sent = ackedUpTo ((s.link l).dir !dir).sent (ZynCtl.ofWords fl.words).ack := by
  rw [State.flitTaken, Link.dir_setDir_same]

theorem State.flitFailed_dir : ((s.flitFailed l dir fl).dir dir).rx = ((s.link l).dir dir).rx ∧
    ((s.flitFailed l dir fl).dir dir).fails = ((s.link l).dir dir).fails + 1 := by
  obtain ⟨rx, fails, -⟩ := ((s.link l).dir dir).hold_receiver (replayDepth l dir)
    (if zynCrcOk fl.words then (ZynCtl.ofWords fl.words).seq else ((s.link l).dir dir).rx) fl.packets
  rw [State.flitFailed, Link.dir_replays, Link.dir_setDir_same]
  exact ⟨rx, congrArg (· + 1) fails⟩

theorem State.flitFailed_other : (s.flitFailed l dir fl).dir (!dir) = (s.link l).dir !dir := by
  rw [State.flitFailed, Link.dir_replays, Link.dir_setDir_not]

end

/-! ### Command beats of a marsh port (R198) -/

section
variable {s : State} {m : Nat} {fl : ZynFlit}

theorem marshFlit_notActive (h : (s.link (24 + m)).port ≠ 6) : marshFlit m fl s = s := if_pos h

variable (active : (s.link (24 + m)).port = 6)
include active

theorem marshFlit_whole (good : beatOk fl.words = true) :
    marshFlit m fl s = s.setLink (24 + m) { s.link (24 + m) with d0 := { (s.link (24 + m)).d0 with fails := 0 } } := by
  rw [marshFlit, if_neg (not_not.2 active), if_pos good]

theorem marshFlit_failed (bad : beatOk fl.words = false) (few : (s.link (24 + m)).d0.fails < 7) :
    marshFlit m fl s = s.setLink (24 + m) { s.link (24 + m) with d0 := { (s.link (24 + m)).d0 with fails := (s.link (24 + m)).d0.fails + 1 } } := by
  rw [marshFlit, if_neg (not_not.2 active), if_neg (Bool.eq_false_iff.1 bad), if_pos (by omega)]

theorem marshFlit_eighth (bad : beatOk fl.words = false) (many : 7 ≤ (s.link (24 + m)).d0.fails) :
    marshFlit m fl s = (s.event ⟨5, 5, m, 9, 15, stUncorrectable, 1, 0⟩).startTraining (24 + m) := by
  rw [marshFlit, if_neg (not_not.2 active), if_neg (Bool.eq_false_iff.1 bad), if_neg (by omega)]

end

/-! ### A field written to states that agree in their fields -/

theorem State.put_flds_congr {s t : State} (h : s.flds = t.flds) (f : Fld) (i v : Nat) : (s.put f i v).flds = (t.put f i v).flds :=
  congrArg (fun m : SMap Nat => SMap.set m (f.key i) (v % 2 ^ f.width) (f.resetAt i)) h

theorem State.get_bump_congr {s t : State} {f : Fld} {i : Nat} (h : s.get f i = t.get f i) (n : Nat) : (s.bump f i n).get f i = (t.bump f i n).get f i := by
  rw [State.bump, State.bump, State.get_put_same, State.get_put_same, h]

/-! ### States that differ in Xeunni ports and register fields only -/

def State.PortsOnly (s t : State) : Prop := t = { s with flds := t.flds, xports := t.xports }

theorem State.PortsOnly.trans {s t u : State} (h1 : s.PortsOnly t) (h2 : t.PortsOnly u) : s.PortsOnly u := Eq.trans h2 (by rw [h1])

theorem State.setXport_portsOnly (s : State) (k : Nat) (x : XPort) : s.PortsOnly (s.setXport k x) := rfl

theorem State.put_portsOnly (s : State) (f : Fld) (i v : Nat) : s.PortsOnly (s.put f i v) := rfl

theorem State.onlyFields.xport {s t : State} {ks : List Nat} (h : s.onlyFields t ks) (j : Nat) : t.xport j = s.xport j := by
  rw [h.1]
  rfl

theorem State.onlyFields.portsOnly {s t : State} {ks : List Nat} (h : s.onlyFields t ks) : s.PortsOnly t := by
  have same : t.xports = s.xports := by rw [h.1]
  exact Eq.trans h.1 (by rw [same])

theorem State.startPort_portsOnly {s : State} {k : Nat} (h : s.portMay k = true) : s.PortsOnly (s.startPort k) :=
  (s.setXport_portsOnly k _).trans (State.startPort_only h).portsOnly

/-! ### The FEC of a flit's pair (R261) -/

section
variable (s : State) (k : Nat) (fl : XniFlit)

/-- Symbols corrected in the codewords counted with a flit, added to those below a thousand. -/
def State.fecSymbols : Nat := (s.xport k).symbols + (((flitStarts fl.place.val).filter fl.pair.corrects).map fl.pair.wrong).sum

/-- A port that has counted the codewords of a flit. -/
def State.fecCounted : XPort := { s.xport k with symbols := s.fecSymbols k fl % 1000, pairNo := fl.pair.number.toNat }

/-- Register fields that count codewords. -/
def fecKeys (k : Nat) : List Nat := [Fld.XNI_PORT_ERR_FEC_SYMBOLS.key k, Fld.XNI_PORT_ERR_FEC_UNCORR.key k]

theorem State.countFec_only : (s.setXport k (s.fecCounted k fl)).onlyFields (s.countFec k fl) (fecKeys k) := (State.onlyFields_bump ..).trans (State.onlyFields_bump ..)

theorem State.countFec_xport : (s.countFec k fl).xport k = s.fecCounted k fl := by rw [(s.countFec_only k fl).xport, State.xport_set_same]

theorem State.countFec_xport_other {j : Nat} (h : j ≠ k) : (s.countFec k fl).xport j = s.xport j := by
  rw [(s.countFec_only k fl).xport, State.xport_set_other _ _ h]

theorem State.countFec_get {f : Fld} (i : Nat) (hf : f.id < 4096) (h1 : f.id ≠ Fld.XNI_PORT_ERR_FEC_SYMBOLS.id) (h2 : f.id ≠ Fld.XNI_PORT_ERR_FEC_UNCORR.id) :
    (s.countFec k fl).get f i = s.get f i :=
  State.get_of_kept (s.countFec_only k fl).2 (Fld.key_not_mem_pair i k k hf (by decide) (by decide) h1 h2)

theorem State.countFec_portUp (j : Nat) : (s.countFec k fl).portUp j = s.portUp j :=
  congrArg (· == 7) (s.countFec_get k fl j (by decide) (by decide) (by decide))

theorem State.countFec_portsOnly : s.PortsOnly (s.countFec k fl) := (s.setXport_portsOnly k _).trans (s.countFec_only k fl).portsOnly

end

/-! ### A flit on a port (R262, R264) -/

/-- Whether a flit is the one that its port awaits, whole, in codewords that correct. -/
def State.flitWhole (s : State) (k : Nat) (fl : XniFlit) : Bool :=
  let b := fl.pair.flits.getD fl.place.val []
  (flitCodewords fl.place.val).all fl.pair.corrects && xniCrcOk b && (XniCtl.ofBytes b).seq == (s.xport k).rx

/-- The control words of a flit. -/
def flitCtl (fl : XniFlit) : XniCtl := XniCtl.ofBytes (fl.pair.flits.getD fl.place.val [])

/-- A port to which credits and acknowledgements have come. -/
def XPort.acked (x : XPort) (c : XniCtl) : XPort :=
  let set (n : Nat) : Nat := 4 * n + c.set
  { x with sent := ackedUpTo x.sent c.ack, used := c.credits.zipIdx.foldl (fun m e => SMap.set m (set e.2) (SMap.get m (set e.2) 0 - e.1) 0) x.used }

/-- A port that awaits the next flit. -/
def XPort.awaitsNext (x : XPort) : XPort := { x with rx := (x.rx + 1) % 4096, fails := 0 }

theorem State.xniAcked_held {s : State} {k : Nat} {c : XniCtl} (h : c.nak = false ∨ (c.ack + 1) % 4096 = (s.xport k).tx) :
    s.xniAcked k c = (s.setXport k ((s.xport k).acked c), true) := by
  refine if_pos ?_
  simpa only [Bool.not_eq_true'] using h

section
variable {s : State} {k : Nat} {fl : XniFlit}

theorem xniFlit_notActive (h : s.portUp k = false) : xniFlit k fl s = s := if_pos (.inl (by rw [h]; rfl))

theorem portExhausted_notActive (h : s.portUp k = false) : s.portExhausted k = s := if_pos (by rw [h]; rfl)

variable (up : s.portUp k = true) (power : s.linkPower = .l0)
include up power

theorem xniFlit_taken (whole : s.flitWhole k fl = true) (packets : fl.packets = []) (marker : (flitCtl fl).marker = false)
    (replay : (flitCtl fl).nak = false ∨ ((flitCtl fl).ack + 1) % 4096 = (s.xport k).tx) :
    xniFlit k fl s = let u := (s.countFec k fl).setXport k (s.fecCounted k fl).awaitsNext
      u.setXport k ((s.fecCounted k fl).awaitsNext.acked (flitCtl fl)) := by
  have acked : ((s.countFec k fl).setXport k { s.fecCounted k fl with rx := ((s.fecCounted k fl).rx + 1) % 4096, fails := 0 }).xniAcked k
      (XniCtl.ofBytes (fl.pair.flits.getD fl.place.val [])) =
      (((s.countFec k fl).setXport k (s.fecCounted k fl).awaitsNext).setXport k ((s.fecCounted k fl).awaitsNext.acked (flitCtl fl)), true) := by
    refine Eq.trans (State.xniAcked_held ?_) ?_ <;> rw [State.xport_set_same]
    · exact replay
    · rfl
  have running : ¬((!s.portUp k) = true ∨ s.linkPower ≠ .l0) := by simp [up, power]
  have met : ((flitCodewords fl.place.val).all fl.pair.corrects && xniCrcOk (fl.pair.flits.getD fl.place.val []) &&
      (XniCtl.ofBytes (fl.pair.flits.getD fl.place.val [])).seq == (s.fecCounted k fl).rx) = true := whole
  unfold xniFlit
  rw [if_neg running]
  dsimp only
  rw [State.countFec_xport, if_pos met]
  rw [acked, packets, if_pos rfl]
  exact if_neg (Bool.eq_false_iff.1 marker)

theorem xniFlit_failed (whole : s.flitWhole k fl = false) : xniFlit k fl s = (s.countFec k fl).xniFailed k := by
  have running : ¬((!s.portUp k) = true ∨ s.linkPower ≠ .l0) := by simp [up, power]
  have unmet : ¬((flitCodewords fl.place.val).all fl.pair.corrects && xniCrcOk (fl.pair.flits.getD fl.place.val []) &&
      (XniCtl.ofBytes (fl.pair.flits.getD fl.place.val [])).seq == (s.fecCounted k fl).rx) = true := Bool.eq_false_iff.1 whole
  unfold xniFlit
  rw [if_neg running]
  dsimp only
  rw [State.countFec_xport, if_neg unmet]

end

/-- A port that has met one more failure. -/
def XPort.failed (x : XPort) : XPort := { x with fails := x.fails + 1, replays := x.replays + 1 }

section
variable {s : State} {k : Nat}

theorem State.xniFailed_nak (few : (s.xport k).fails < 7) : s.xniFailed k = ((s.bump .XNI_PORT_ERR_REPLAYS k 1).setXport k (s.xport k).failed).xniNak k :=
  if_neg (by omega)

theorem State.xniFailed_eighth (many : 7 ≤ (s.xport k).fails) : s.xniFailed k = ((s.bump .XNI_PORT_ERR_REPLAYS k 1).setXport k (s.xport k).failed).portExhausted k :=
  if_pos (by omega)

theorem State.portExhausted_state (up : s.portUp k = true) : (s.portExhausted k).get .XNI_PORT_STATUS_STATE k = 1 := by
  have running : ¬(!s.portUp k) = true := by simp [up]
  unfold State.portExhausted
  rw [if_neg running]
  exact State.get_put_same ..

end

theorem XPort.hold_receiver (x : XPort) (n : Nat) (pkt : Option XniSent) : (x.hold n pkt).rx = x.rx ∧ (x.hold n pkt).fails = x.fails := ⟨rfl, rfl⟩

/-- States that differ in Xeunni ports, what is sent on them and register fields only. -/
def State.SendsOnly (s t : State) : Prop := t = { s with flds := t.flds, xports := t.xports, xniOut := t.xniOut }

theorem State.PortsOnly.sends {s t u : State} (h1 : s.PortsOnly t) (h2 : t.SendsOnly u) : s.SendsOnly u := Eq.trans h2 (by rw [h1])

theorem State.xniNak_sendsOnly (s : State) (k : Nat) : s.SendsOnly (s.xniNak k) := rfl

/-- The counter of a port's replays has gone up, and a NAK is sent. -/
theorem State.xniFailed_nak_effect (s : State) (k : Nat) (few : (s.xport k).fails < 7) :
    ((s.xniFailed k).xport k).fails = (s.xport k).fails + 1 ∧ ((s.xniFailed k).xport k).rx = (s.xport k).rx ∧
    (s.xniFailed k).flds = (s.bump .XNI_PORT_ERR_REPLAYS k 1).flds ∧ s.SendsOnly (s.xniFailed k) ∧
    (s.xniFailed k).xniOut = ⟨k, (s.xport k).tx, ((s.xport k).rx + 4095) % 4096, true, none⟩ :: s.xniOut := by
  rw [State.xniFailed_nak few]
  refine ⟨?_, ?_, rfl, (State.PortsOnly.trans (s.put_portsOnly ..) (State.setXport_portsOnly ..)).sends (State.xniNak_sendsOnly ..), ?_⟩
  · refine (congrArg XPort.fails (State.xport_set_same ..)).trans ?_
    rw [State.xport_set_same]
    rfl
  · refine (congrArg XPort.rx (State.xport_set_same ..)).trans ?_
    rw [State.xport_set_same]
    rfl
  · unfold State.xniNak
    rw [State.xport_set_same]
    rfl

theorem State.xniFailed_eighth_state (s : State) {k : Nat} (up : s.portUp k = true) (many : 7 ≤ (s.xport k).fails) :
    (s.xniFailed k).get .XNI_PORT_STATUS_STATE k = 1 := by
  rw [State.xniFailed_eighth many]
  refine State.portExhausted_state (Eq.trans ?_ up)
  exact congrArg (· == 7) (s.get_put_of_id k k _ (by decide) (by decide) (by decide))

/-! ### Retry exhaustion of a port that holds nothing (R264) -/

/-- A record held until the PF log is first enabled writes no register field. -/
theorem State.event_held {s : State} (off : s.on .EVT_LOG_CTL_ENABLE 0 = false) (closed : s.pfLogOpened = false) (room : s.heldRecs.length < 1024) {r : Rec}
    (unowned : 12 ≤ r.part) : (s.event r).flds = s.flds := by
  have hold : (s.pfLogOpened || s.on .EVT_LOG_CTL_ENABLE 0) = false := by rw [closed, off]; rfl
  unfold State.event
  dsimp only
  rw [show (s.free.2.pfLogOpened || s.free.2.on .EVT_LOG_CTL_ENABLE 0) = false from hold, if_neg Bool.false_ne_true,
    if_pos (show s.free.2.heldRecs.length < 1024 from room),
    if_neg (Nat.not_lt.2 unowned), if_pos rfl]
  split <;> rfl

/-- A port's exhaustion counted. -/
def State.exhaustCounted (s : State) (k : Nat) : State := State.bump { s with xniWait := [] } .XNI_PORT_ERR_EXHAUSTED k 1

/-- The record of an exhaustion that no partition's data met. -/
def exhaustRecord (k : Nat) : Rec := ⟨5, 8, k, 9, 15, stUncorrectable, 1, partBits []⟩

theorem State.portExhausted_empty {s : State} {k : Nat} (up : s.portUp k = true) (wait : s.xniWait = []) (sent : (s.xport k).sent = []) :
    s.portExhausted k = let u := (s.exhaustCounted k).event (exhaustRecord k); (u.setXport k (u.xport k).untrained).put .XNI_PORT_STATUS_STATE k 1 := by
  have running : ¬(!s.portUp k) = true := by simp [up]
  unfold State.portExhausted
  rw [if_neg running, wait, sent]
  rfl

section
variable {s : State} {k : Nat} (up : s.portUp k = true) (wait : s.xniWait = []) (sent : (s.xport k).sent = [])
  (off : s.on .EVT_LOG_CTL_ENABLE 0 = false) (closed : s.pfLogOpened = false) (room : s.heldRecs.length < 1024)
include up wait sent off closed room

theorem State.portExhausted_flds :
    (s.portExhausted k).flds = ((s.exhaustCounted k).put .XNI_PORT_STATUS_STATE k 1).flds := by
  have unlogged : (s.exhaustCounted k).on .EVT_LOG_CTL_ENABLE 0 = false :=
    (congrArg (· == 1) (State.get_put_of_id { s with xniWait := [] } k 0 _ (by decide) (by decide) (by decide))).trans off
  have held : ((s.exhaustCounted k).event (exhaustRecord k)).flds = (s.exhaustCounted k).flds := State.event_held unlogged closed room (by decide : 12 ≤ 15)
  rw [State.portExhausted_empty up wait sent]
  exact State.put_flds_congr held ..

theorem State.portExhausted_counted :
    (s.portExhausted k).get .XNI_PORT_ERR_EXHAUSTED k = (s.bump .XNI_PORT_ERR_EXHAUSTED k 1).get .XNI_PORT_ERR_EXHAUSTED k :=
  (congrArg (fun m => SMap.get m _ _) (State.portExhausted_flds up wait sent off closed room)).trans
    ((s.exhaustCounted k).get_put_of_id k k 1 (by decide) (by decide) (by decide))

theorem State.portExhausted_kept : s.fieldsKept (s.portExhausted k) [Fld.XNI_PORT_STATUS_STATE.key k, Fld.XNI_PORT_ERR_EXHAUSTED.key k] := by
  intro key d other
  rw [List.mem_cons, List.mem_singleton, not_or] at other
  rw [State.portExhausted_flds up wait sent off closed room, State.flds_put_other _ _ _ _ _ _ other.1]
  exact State.flds_put_other { s with xniWait := [] } _ _ _ _ _ other.2

end

end Sys2Proof.Machine

namespace Sys2Proof.Proofs
open Sys2Proof Sys2Proof.Machine

/-- Settles O41: what a flit or a beat does on each kind of unit, by whether the unit is ACTIVE and the flit is whole and awaited. -/
theorem flitsReceived : Obligations.FlitsReceived := by
  refine ⟨?links, ?marsh, ?ports⟩
  case links =>
    intro l dir fl s k c d o good hc eye
    have step : exec (.zynFlitReceive (.zyn l) dir fl) s = .next (zynFlit l.val dir fl s) := congrArg _ (State.whenClocked_on _ hc)
    refine ⟨fun h => step.trans (congrArg _ (zynFlit_notActive h)), fun active => ⟨fun crc turn clear replay => ⟨_, step, ?_⟩,
      fun bad few => ⟨_, step, ?_⟩⟩⟩
    · rw [zynFlit_taken active eye crc turn clear replay]
      simp only [State.monSamples_link, State.link_set_same, State.flitTaken_dir, State.flitTaken_other, true_and]
      exact ⟨rfl, rfl, fun j h => State.link_set_other _ _ h, fun i h => State.monSamples_other _ _ h,
        (State.monSamples_frame ..).setLink⟩
    · rw [zynFlit_failed active eye bad few, State.link_set_same]
      exact ⟨State.flitFailed_dir.1, State.flitFailed_dir.2, rfl, State.flitFailed_other, fun j h => State.link_set_other _ _ h, rfl⟩
  case marsh =>
    intro m dir fl s k hc
    have step : exec (.zynFlitReceive (.marsh m) dir fl) s = .next (marshFlit m.val fl s) := congrArg _ (State.whenClocked_on _ hc)
    refine ⟨fun h => ?_, fun h good => ?_, fun h bad few => ?_, fun h bad many => ⟨_, step, ?_⟩⟩
    · rw [step, marshFlit_notActive h]
    · rw [step, marshFlit_whole h good]
    · rw [step, marshFlit_failed h bad few]
    · rw [marshFlit_eighth h bad many]
      exact State.startTraining_marsh_port ..
  case ports =>
    intro k fl s x b c whole counts hc
    have step : exec (.xniFlitReceive k fl) s = .next (xniFlit k.val fl s) := congrArg _ (State.whenClocked_on _ hc)
    have lost : exec (.alignmentLost k) s = .next (s.portExhausted k.val) := congrArg _ (State.whenClocked_on _ hc)
    have train : exec (.xniPortRetrain k) s = .next (s.startPort k.val) := congrArg _ (State.whenClocked_on _ hc)
    have before : (s.countFec k.val fl).xport k.val = s.fecCounted k.val fl := s.countFec_xport k.val fl
    refine ⟨fun down => ⟨?_, ?_⟩, fun up power => ⟨fun ok packets marker replay => ⟨_, step, ?_⟩, fun bad few => ⟨_, step, ?_⟩,
      fun bad many => ⟨_, step, ?_⟩⟩, fun up => ⟨_, lost, State.portExhausted_state up, fun wait sent off closed room => ?_⟩, fun no => ?_,
      fun may => ⟨_, train, State.startPort_state may, State.startPort_portsOnly may, (State.startPort_only may).2⟩⟩
    · rw [step, xniFlit_notActive down]
    · rw [lost, portExhausted_notActive down]
    · rw [xniFlit_taken up power ok packets marker replay, State.xport_set_same]
      refine ⟨rfl, rfl, rfl, rfl, fun j h => ?_, ?_, (s.countFec_only k.val fl).2⟩
      · rw [State.xport_set_other _ _ h, State.xport_set_other _ _ h, State.countFec_xport_other _ _ _ h]
      · exact ((s.countFec_portsOnly k.val fl).trans (State.setXport_portsOnly ..)).trans (State.setXport_portsOnly ..)
    · rw [xniFlit_failed up power bad]
      obtain ⟨fails, rx, flds, frame, out⟩ := (s.countFec k.val fl).xniFailed_nak_effect k.val (by rw [before]; exact few)
      rw [before] at fails rx out
      refine ⟨fails, rx, ?_, out.trans ?_, (s.countFec_portsOnly k.val fl).sends frame, fun key d other => ?_⟩
      · exact (congrArg (fun m => SMap.get m _ _) flds).trans (State.get_bump_congr (State.countFec_get _ _ _ _ (by decide) (by decide) (by decide)) 1)
      · rw [s.countFec_portsOnly k.val fl]
        rfl
      · obtain ⟨replays, fec⟩ := not_or.1 (mt List.mem_cons.2 other)
        rw [flds, State.bump, State.flds_put_other _ _ _ _ _ _ replays, (s.countFec_only k.val fl).2 _ _ fec]
        rfl
    · rw [xniFlit_failed up power bad]
      exact State.xniFailed_eighth_state _ ((s.countFec_portUp ..).trans up) (by rw [before]; exact many)
    · exact ⟨State.portExhausted_counted up wait sent off closed room, State.portExhausted_kept up wait sent off closed room⟩
    · rw [train, State.startPort_mayNot no]

end Sys2Proof.Proofs
end

section
/-!
PROOFS. A module in whose network ports one request waits: the maps that list it, and a pass over it (R250 to R252).
-/
namespace Sys2Proof.Machine

/-! ### A map in which one entry counts -/

theorem SMap.filter_insert {β : Type} {m : SMap β} {p : Nat × β → Bool} (h : m.filter p = []) (k : Nat) {v : β} (hv : p (k, v) = true) :
    (m.insert k v).filter p = [(k, v)] := by
  induction m with
  | nil => simp [SMap.insert, hv]
  | cons e r ih =>
    obtain ⟨a, x⟩ := e
    have none := List.filter_eq_nil_iff.1 h
    have head : ¬p (a, x) = true := none _ (List.mem_cons_self ..)
    have rest : r.filter p = [] := List.filter_eq_nil_iff.2 fun y hy => none y (List.mem_cons_of_mem _ hy)
    unfold SMap.insert
    split_ifs
    · rw [List.filter_cons_of_neg head, ih rest]
    · rw [List.filter_cons_of_pos hv, rest]
    · rw [List.filter_cons_of_pos hv, h]

theorem SMap.sum_insert {β : Type} {m : SMap β} {f : Nat × β → Nat} (h : ∀ e ∈ m, f e = 0) (k : Nat) (v : β) : ((m.insert k v).map f).sum = f (k, v) := by
  have zero (l : SMap β) (hl : ∀ e ∈ l, f e = 0) : (l.map f).sum = 0 := List.sum_eq_zero fun x hx => by
    obtain ⟨e, he, rfl⟩ := List.mem_map.1 hx
    exact hl e he
  induction m with
  | nil => simp [SMap.insert]
  | cons e r ih =>
    obtain ⟨a, x⟩ := e
    obtain ⟨head, rest⟩ := List.forall_mem_cons.1 h
    unfold SMap.insert
    split_ifs
    · rw [List.map_cons, List.sum_cons, head, ih rest, Nat.zero_add]
    · rw [List.map_cons, List.sum_cons, zero r rest, Nat.add_zero]
    · rw [List.map_cons, List.sum_cons, zero _ h, Nat.add_zero]

theorem SMap.insert_insert {β : Type} (m : SMap β) (k : Nat) (v w : β) : (m.insert k v).insert k w = m.insert k w := by
  induction m with
  | nil => simp [SMap.insert]
  | cons e r ih =>
    obtain ⟨a, x⟩ := e
    by_cases below : a < k
    · simp only [SMap.insert, below, if_true, ih]
    · by_cases here : a = k <;> simp [SMap.insert, below, here]

/-! ### One request in the ports of the module -/

/-- The cores of `s`, and at core `n` the request `e` alone. -/
def State.HoldsOne (s : State) (n : Nat) (e : Nat × List Word) (t : State) : Prop := ∃ k : Core, k.netq = [e] ∧ t.cores = s.cores.insert n k

/-- The state in which a core has issued a descriptor. -/
def State.netQueued (s : State) (n : Nat) (w : List Word) : State :=
  s.modCore n fun k => { k with netSeq := (s.core n).netSeq + 1, netq := k.netq ++ [((s.core n).netSeq, w ++ s.issueWords n)] }

section
variable {s t : State} {n : Nat} {e : Nat × List Word}

theorem State.setCore_queued (s : State) (n : Nat) {k : Core} (h : k.netq = [e]) : (s.setCore n k).cores = s.cores.insert n k :=
  if_neg fun fresh => List.cons_ne_nil e [] (h.symm.trans (congrArg Core.netq fresh))

theorem State.HoldsOne.congr {u : State} (h : s.HoldsOne n e t) (hc : u.cores = t.cores) : s.HoldsOne n e u := by
  obtain ⟨k, queue, cores⟩ := h
  exact ⟨k, queue, hc.trans cores⟩

theorem State.HoldsOne.modCore (h : s.HoldsOne n e t) {f : Core → Core} (hf : (f (t.core n)).netq = [e]) : s.HoldsOne n e (t.modCore n f) := by
  obtain ⟨k, -, cores⟩ := h
  refine ⟨f (t.core n), hf, (t.setCore_queued n hf).trans ?_⟩
  rw [cores, SMap.insert_insert]

theorem State.HoldsOne.netq (h : s.HoldsOne n e t) : (t.core n).netq = [e] := by
  obtain ⟨k, queue, cores⟩ := h
  rw [State.core, cores, SMap.get_insert_same, queue]

theorem State.HoldsOne.other (h : s.HoldsOne n e t) {c : Nat} (hc : c ≠ n) : t.core c = s.core c := by
  obtain ⟨k, -, cores⟩ := h
  rw [State.core, cores, SMap.get_insert_other _ _ _ hc, ← State.core]

variable (idle : s.netCores = [])
include idle

theorem State.HoldsOne.netCores (h : s.HoldsOne n e t) : t.netCores = [n] := by
  obtain ⟨k, queue, cores⟩ := h
  rw [State.netCores, cores, SMap.filter_insert (List.map_eq_nil_iff.1 idle) n (by rw [queue]; rfl)]
  rfl

theorem State.HoldsOne.netCount (h : s.HoldsOne n e t) : t.netCount = 1 := by
  obtain ⟨k, queue, cores⟩ := h
  have empty : ∀ e ∈ s.cores, e.2.netq.length = 0 := fun e he => by
    have none := List.filter_eq_nil_iff.1 (List.map_eq_nil_iff.1 idle) e he
    simpa using none
  rw [State.netCount, cores, SMap.sum_insert empty, queue]
  rfl

theorem State.netQueued_holdsOne (n : Nat) (w : List Word) : s.HoldsOne n ((s.core n).netSeq, w ++ s.issueWords n) (s.netQueued n w) := by
  have queue : (s.core n).netq ++ [((s.core n).netSeq, w ++ s.issueWords n)] = [((s.core n).netSeq, w ++ s.issueWords n)] := by
    rw [State.netq_of_netCores idle, List.nil_append]
  exact ⟨_, queue, s.setCore_queued n queue⟩

/-- One round tries the one request. -/
theorem State.HoldsOne.settle (h : s.HoldsOne n e t) (atoms : t.atomHeld = []) :
    t.settle = if (t.netPass n).netCount < 1 then (t.netPass n).netSettle 1 else t.netPass n := by
  have round : t.netRound = t.netPass n := by rw [State.netRound, h.netCores idle]; rfl
  have tried : t.settle = if t.netCores.isEmpty then t else t.netSettle (t.netCount + 1) := by
    rw [State.settle, atoms]
    rfl
  rw [tried, h.netCores idle, List.isEmpty_cons, if_neg Bool.false_ne_true, State.netSettle, round, h.netCount idle]

/-- Where the request still waits, no further round follows. -/
theorem State.HoldsOne.settle_waits (h : s.HoldsOne n e t) (atoms : t.atomHeld = []) (after : s.HoldsOne n e (t.netPass n)) : t.settle = t.netPass n :=
  (h.settle idle atoms).trans (if_neg (by rw [after.netCount idle]; decide))

/-- Where it has gone, later rounds find nothing. -/
theorem State.HoldsOne.settle_ends (h : s.HoldsOne n e t) (atoms : t.atomHeld = []) (after : ∀ c, ((t.netPass n).core c).netq = []) :
    (t.netPass n).SameCores t.settle := by
  rw [h.settle idle atoms]
  split
  · exact State.netSettle_empty after _
  · exact .refl _

end

/-! ### A pass over one request -/

section
variable {s u : State} {n : Nat} {e : Nat × List Word}

theorem State.netPass_fence (one : (s.core n).netq = [e]) (op : (NetDesc.ofWords e.2).op = 5) :
    s.netPass n = (s.netEnd n (NetDesc.ofWords e.2) stOk none).modCore n fun k => { k with netq := [] } := by
  unfold State.netPass
  rw [one]
  simp only [List.foldl_cons, List.foldl_nil, List.any_nil, Bool.false_eq_true, if_false, op, if_true, List.isEmpty_nil]

theorem State.netPass_waits (one : (s.core n).netq = [e]) (op : (NetDesc.ofWords e.2).op ≠ 5)
    (attempt : (s.atUnit n 5 (e.2.drop 6)).netAttempt n ((s.dieOwner (dieOf n)).getD 15) (NetDesc.ofWords e.2) = (u, .waits)) :
    s.netPass n = (u.backAt n (s.core n)).modCore n fun k => { k with netq := [e] } := by
  unfold State.netPass
  rw [one]
  simp only [List.foldl_cons, List.foldl_nil, List.any_nil, Bool.false_eq_true, if_false, op, attempt, List.nil_append]

theorem State.netPass_ends {status : Nat} {res : Option (List Byte)} (one : (s.core n).netq = [e]) (op : (NetDesc.ofWords e.2).op ≠ 5)
    (attempt : (s.atUnit n 5 (e.2.drop 6)).netAttempt n ((s.dieOwner (dieOf n)).getD 15) (NetDesc.ofWords e.2) = (u, .ends status res)) :
    s.netPass n = ((u.netEnd n (NetDesc.ofWords e.2) status res).backAt n (s.core n)).modCore n fun k => { k with netq := [] } := by
  unfold State.netPass
  rw [one]
  simp only [List.foldl_cons, List.foldl_nil, List.any_nil, Bool.false_eq_true, if_false, op, attempt]

end

end Sys2Proof.Machine
end

section
/-!
PROOFS. What contributions and the ends of requests leave of the requests that wait at the cores (R207 to R209, R251).
-/
namespace Sys2Proof.Machine

/-! ### The requests of every port as they were -/

/-- The same requests wait at every port. -/
structure State.NetqKept (s t : State) : Prop where
  netq (c : Nat) : (t.core c).netq = (s.core c).netq

theorem State.NetqKept.trans {s t u : State} (h1 : s.NetqKept t) (h2 : t.NetqKept u) : s.NetqKept u := ⟨fun c => (h2.netq c).trans (h1.netq c)⟩

theorem State.NetqKept.ofCores {s t : State} (h : t.cores = s.cores) : s.NetqKept t := ⟨fun c => by rw [State.core, h, ← State.core]⟩

theorem State.NetqKept.ofWork {s t : State} (h : ∀ n, s.WorkKept t n) : s.NetqKept t := ⟨fun c => congrArg UnitWork.netq (h c).work⟩

theorem State.modCore_netqKept (s : State) (n : Nat) {f : Core → Core} (hf : (f (s.core n)).netq = (s.core n).netq) : s.NetqKept (s.modCore n f) := by
  refine ⟨fun c => ?_⟩
  by_cases hc : c = n
  · rw [hc, State.modCore, State.core_set_same, hf]
  · rw [State.modCore, State.core_set_other _ _ hc]

theorem State.unitWrote_netqKept (s : State) (n : Nat) (st : Store) (off m : Nat) : s.NetqKept (s.unitWrote n st off m) := by
  unfold State.unitWrote
  split
  · exact s.modCore_netqKept n rfl
  · exact .ofCores rfl

theorem State.coreWrite_netqKept (s : State) (n : Nat) (st : Store) (off : Nat) (bs : List Byte) : s.NetqKept (s.coreWrite n st off bs) := by
  have stored (p : Nat) : s.NetqKept ((s.noteWrite p st off bs.length).store st off bs).1 :=
    .ofWork fun c => (s.noteWrite_workKept c p st off bs.length).trans (State.store_workKept _ c st off bs)
  have planned (p : Nat) : s.NetqKept (s.planWrite p st off bs) := by
    unfold State.planWrite
    dsimp only
    split
    · exact (stored p).trans (.ofWork fun c => State.flagPart_workKept ..)
    · exact stored p
  exact (planned _).trans (State.unitWrote_netqKept ..)

theorem State.netEnd_netqKept (s : State) (n : Nat) (d : NetDesc) (status : Nat) (res : Option (List Byte)) : s.NetqKept (s.netEnd n d status res) := by
  have result : s.NetqKept (match res with | some bs => s.coreWrite n (.pool n) d.pool bs | none => s) := by
    split
    · exact State.coreWrite_netqKept ..
    · exact .ofCores rfl
  unfold State.netEnd
  dsimp only
  split
  · exact (result.trans (State.coreWrite_netqKept ..)).trans (.ofCores rfl)
  · exact result.trans (.ofCores rfl)

/-! ### Contributions leave the work of every core (R207 to R209) -/

section
variable (s : State) (n : Nat)

theorem State.atomic_workKept (off w : Nat) (o : Aop) (operand compare : Nat) : s.WorkKept (s.atomic off w o operand compare).2 n := by
  have read := ((s.readMem_workKept n .cache (off - off % 8) 8).trans (State.eccEvents_workKept _ n (s.readMem .cache (off - off % 8) 8).notes)).trans
    (State.bump_workKept _ n .SHC_STATS_ATOMICS 0 1)
  unfold State.atomic
  dsimp only
  split
  · exact read
  · exact read.trans (State.store_workKept ..)

theorem State.groupWrite_workKept (p off : Nat) (bs : List Byte) : s.WorkKept (s.groupWrite p off bs).1 n :=
  (s.noteWrite_workKept n p .cache off bs.length).trans (State.store_workKept ..)

theorem State.spoilGroup_workKept (p gi : Nat) : s.WorkKept (s.spoilGroup p gi).1 n := ⟨rfl, id, id, rfl⟩

theorem State.groupComplete_workKept (p gi : Nat) (g : GroupEntry) : s.WorkKept (s.groupComplete p gi g).1 n := by
  have cleared : s.WorkKept { s with groups := SMap.set s.groups (groupKey p gi) [] [] } n := ⟨rfl, id, id, rfl⟩
  unfold State.groupComplete
  dsimp only
  generalize ({ s with groups := SMap.set s.groups (groupKey p gi) [] [] } : State) = z at cleared ⊢
  have read := cleared.trans ((z.readMem_workKept n .cache g.staging (g.n * g.elems * 4)).trans
    (State.eccEvents_workKept _ n (z.readMem .cache g.staging (g.n * g.elems * 4)).notes))
  split
  · exact read
  · split
    · exact read.trans (State.flagPart_workKept ..)
    · have junk (t : State) (k : Nat) : t.WorkKept (t.frees k).2 n := ⟨rfl, id, id, rfl⟩
      have flagged (t : State) (b : Bool) : t.WorkKept (if b then (t.flagPart p 3 stUncorrectable, ContribRes.uncorrectable) else (t, .accepted)).1 n := by
        split
        · exact t.flagPart_workKept ..
        · exact .refl ..
      exact ((((((read.trans (junk _ _)).trans (State.rawWrite_workKept ..)).trans (State.groupWrite_workKept ..)).trans (State.noteWrite_workKept ..)).trans
        (State.atomic_workKept ..)).trans (State.bump_workKept ..)).trans (flagged _ _)

theorem State.contrib_workKept (p gi who eoff : Nat) (data : List Byte) : s.WorkKept (s.contrib p gi who eoff data).1 n := by
  unfold State.contrib
  dsimp only
  generalize s.get .SHC_GROUP_BASE_BASE p * 32 + 32 * gi = base
  have read := (s.readMem_workKept n .cache base 32).trans (State.eccEvents_workKept _ n (s.readMem .cache base 32).notes)
  split
  · exact s.spoilGroup_workKept ..
  · split
    · exact read.trans (State.flagPart_workKept ..)
    · split
      · exact read.trans (State.spoilGroup_workKept ..)
      · next g _ =>
        generalize (if g.inBf16 = true then 2 else 4) = width
        split
        · exact read.trans (State.spoilGroup_workKept ..)
        · have listed (t : State) (gs : SMap (List (Nat × Nat × Nat))) : t.WorkKept { t with groups := gs } n := ⟨rfl, id, id, rfl⟩
          generalize List.flatMap (fun x : F32 => toBytesLE 4 x.toNat) _ = bs
          have written := read.trans (State.groupWrite_workKept _ n p (g.staging + (who * g.elems + eoff) * 4) bs)
          generalize State.groupWrite _ p (g.staging + (who * g.elems + eoff) * 4) bs = r at written ⊢
          split
          · exact (written.trans (listed r.1 _)).trans (State.flagPart_workKept ..)
          · split
            · exact (written.trans (listed r.1 _)).trans (State.groupComplete_workKept ..)
            · exact written.trans (listed r.1 _)

end

end Sys2Proof.Machine
end

section
/-!
PROOFS. Reads, tokens of regulators and atomic operations in memory without errors (R205, R211).
-/
namespace Sys2Proof.Machine

/-! ### Reads without errors, and tokens -/

theorem State.rowUndefined_of_rq {s t : State} (h : ∀ c, (t.core c).rq = (s.core c).rq) (st : Store) (off n : Nat) :
    t.rowUndefined st off n = s.rowUndefined st off n := by
  unfold State.rowUndefined
  split
  · rw [h]
  · rfl

theorem State.coreRead_clean {s : State} {c : Nat} {st : Store} (hs : (if st.isSram then s.sram.isEmpty else s.noFaults) = true) (hu : (s.core c).unseen = [])
    {off n : Nat} (hr : s.rowUndefined st off n = false) : s.coreRead c st off n = (some (s.rawBytes st off n), s) := by
  have read := State.readMem_clean hs off n
  have seen := State.unitSees_all hu st off (s.rawBytes st off n)
  simp [State.coreRead, State.planRead, read, State.eccEvents, State.defined, State.rawBytes_length, hr, seen]

/-- Two states that differ in regulators alone. -/
def State.RegsOnly (s t : State) : Prop := t = { s with regs := t.regs }

theorem State.RegsOnly.trans {s t u : State} (h1 : s.RegsOnly t) (h2 : t.RegsOnly u) : s.RegsOnly u := Eq.trans h2 (by rw [h1])

theorem State.RegsOnly.foldl {α : Type} {f : State → α → State} (hf : ∀ (t : State) x, t.RegsOnly (f t x)) (l : List α) (s : State) :
    s.RegsOnly (l.foldl f s) := by
  induction l generalizing s with
  | nil => rfl
  | cons x r ih => exact State.RegsOnly.trans (hf s x) (ih (f s x))

theorem State.regCharge_regsOnly (s : State) (r p n : Nat) : s.RegsOnly (s.regCharge r p n) := rfl

/-- Regulators with tokens let a request that uses no allowance go. -/
theorem State.grant_tokens {s : State} {p : Nat} {res : List Nat} (h : ∀ r ∈ res, 0 < (s.reg r p).ceil) (n : Nat) :
    ∃ g, s.grant p [] res n = (some g, g) ∧ s.RegsOnly g := by
  by_cases unowned : 12 ≤ p
  · exact ⟨s, State.grant_unowned unowned .., rfl⟩
  · have full : res.filter (fun r => decide ((s.reg r p).ceil ≤ 0)) = [] :=
      List.filter_eq_nil_iff.2 fun r hr => by simpa only [decide_eq_true_eq, not_le] using h r hr
    refine ⟨res.foldl (fun t r => t.regCharge r p n) s, ?_, State.RegsOnly.foldl (fun t r => t.regCharge_regsOnly r p n) res s⟩
    unfold State.grant
    rw [if_neg unowned, full]
    rfl

/-- A regulator without tokens keeps a partition's request waiting. -/
theorem State.grant_short {s : State} {p r : Nat} (owned : p < 12) (h : (s.reg r p).ceil ≤ 0) (n : Nat) : ∃ g, s.grant p [] [r] n = (none, g) ∧ s.RegsOnly g := by
  refine ⟨s.setReg r p { s.reg r p with waits := true, hit := true }, ?_, rfl⟩
  unfold State.grant
  rw [if_neg (Nat.not_le.2 owned)]
  simp [h]

/-! ### Words of the shared cache (R205) -/

theorem State.rawBytes_cache (s : State) (off n : Nat) : s.rawBytes .cache off n = SMap.getList 0 s.mem (0x40000000000 + off) n := by
  rw [← Memory.map_get_eq_getList]
  simp only [State.rawBytes, State.physKey, Nat.add_assoc]

theorem State.rawWrite_cache_mem (s : State) (off : Nat) (bs : List Byte) : (s.rawWrite .cache off bs).mem = SMap.setList 0 s.mem (0x40000000000 + off) bs := by
  simp only [State.rawWrite, State.breakResv_mem, State.physKey, ← Nat.add_assoc]
  exact Memory.storeAt_eq_setList _ 0 bs s.mem

theorem SMap.getList_congr {β : Type} {d : β} {m m' : SMap β} (h : ∀ k, m.get k d = m'.get k d) (k n : Nat) : SMap.getList d m k n = SMap.getList d m' k n := by
  induction n generalizing k with
  | zero => rfl
  | succ n ih => rw [SMap.getList, SMap.getList, h, ih]

theorem getD_replaced {l new : List Byte} {a i : Nat} (ha : a + new.length ≤ l.length) :
    (l.take a ++ new ++ l.drop (a + new.length)).getD i 0 = if a ≤ i ∧ i < a + new.length then new.getD (i - a) 0 else l.getD i 0 := by
  have front : (l.take a).length = a := List.length_take_of_le (by omega)
  rcases Nat.lt_or_ge i a with before | inside
  · rw [if_neg (by omega), List.append_assoc, List.getD_append _ _ _ _ (by omega)]
    simp [List.getD_eq_getElem?_getD, before]
  · rcases Nat.lt_or_ge i (a + new.length) with within | after
    · rw [if_pos ⟨inside, within⟩, List.getD_append _ _ _ _ (by rw [List.length_append]; omega), List.getD_append_right _ _ _ _ (by omega), front]
    · rw [if_neg (by omega), List.getD_append_right _ _ _ _ (by rw [List.length_append]; omega), List.length_append, front]
      simp [List.getD_eq_getElem?_getD, List.getElem?_drop, Nat.add_sub_cancel' after]

/-- A part of the bytes at some keys replaced, and all of them stored, is the part stored. -/
theorem SMap.setList_replaced (m : SMap Byte) (k a n : Nat) (new : List Byte) (h : a + new.length ≤ n) (j : Nat) :
    SMap.get (SMap.setList 0 m k ((SMap.getList 0 m k n).take a ++ new ++ (SMap.getList 0 m k n).drop (a + new.length))) j 0 =
      SMap.get (SMap.setList 0 m (k + a) new) j 0 := by
  have length : (SMap.getList 0 m k n).length = n := SMap.getList_length ..
  have all : ((SMap.getList 0 m k n).take a ++ new ++ (SMap.getList 0 m k n).drop (a + new.length)).length = n := by
    simp only [List.length_append, List.length_take, List.length_drop, length]
    omega
  rw [SMap.get_setList, SMap.get_setList, all, getD_replaced (by rw [length]; exact h)]
  by_cases inside : k ≤ j ∧ j < k + n
  · rw [if_pos inside]
    by_cases part : a ≤ j - k ∧ j - k < a + new.length
    · rw [if_pos part, if_pos (by omega), Nat.sub_sub]
    · rw [if_neg part, if_neg (by omega), SMap.getList_getD _ _ _ _ _ (by omega), Nat.add_sub_cancel' inside.1]
  · rw [if_neg inside, if_neg (by omega)]

section
variable {s t : State} {off : Nat} {new : List Byte} (h : ∀ j, t.byteAt j = SMap.get (SMap.setList 0 s.mem (0x40000000000 + off) new) j 0)
include h

theorem State.rawBytes_cache_stored : t.rawBytes .cache off new.length = new :=
  (t.rawBytes_cache off new.length).trans ((SMap.getList_congr h _ _).trans (SMap.getList_setList ..))

theorem State.byteAt_cache_other {j : Nat} (hj : ∀ i, i < new.length → j ≠ s.physKey .cache (off + i)) : t.byteAt j = s.byteAt j := by
  rw [h, SMap.get_setList]
  refine if_neg fun inside => hj (j - (0x40000000000 + off)) (by omega) ?_
  rw [State.physKey]
  omega

end

section
variable {s : State} (hs : s.sram = []) {off w : Nat} (width : w = 32 ∨ w = 64) (aligned : off % (w / 8) = 0) (o : Aop) (operand compare : Nat)
include hs width aligned

/-- An atomic operation on a word without errors answers the old value and leaves the new. -/
theorem State.atomic_clean : ∃ t, s.atomic off w o operand compare = (some (ofBytesLE (s.rawBytes .cache off (w / 8))), t) ∧
    t = { s with flds := t.flds, mem := t.mem } ∧
    ∀ j, t.byteAt j = SMap.get (SMap.setList 0 s.mem (0x40000000000 + off)
      (toBytesLE (w / 8) (o.apply w (ofBytesLE (s.rawBytes .cache off (w / 8))) operand compare))) j 0 := by
  have clean (t : State) (ht : t.sram = []) : (if Store.cache.isSram then t.sram.isEmpty else t.noFaults) = true := List.isEmpty_iff.2 ht
  have fits : off % 8 + w / 8 ≤ 8 := by rcases width with rfl | rfl <;> omega
  have word : off - off % 8 + off % 8 = off := Nat.sub_add_cancel (Nat.mod_le ..)
  have old : ((s.rawBytes .cache (off - off % 8) 8).drop (off % 8)).take (w / 8) = s.rawBytes .cache off (w / 8) := by
    rw [State.rawBytes_slice _ _ _ fits, word]
  generalize hnew : toBytesLE (w / 8) (o.apply w (ofBytesLE (s.rawBytes .cache off (w / 8))) operand compare) = new
  have length : new.length = w / 8 := by rw [← hnew, toBytesLE_length]
  generalize hall : (s.rawBytes .cache (off - off % 8) 8).take (off % 8) ++ new ++ (s.rawBytes .cache (off - off % 8) 8).drop (off % 8 + w / 8) = all
  have nonempty : all ≠ [] := by
    rintro rfl
    have none : new = [] := (List.append_eq_nil_iff.1 (List.append_eq_nil_iff.1 hall).1).2
    rw [none] at length
    rcases width with rfl | rfl <;> cases length
  refine ⟨(s.bump .SHC_STATS_ATOMICS 0 1).rawWrite .cache (off - off % 8) all, ?_, rfl, fun j => ?_⟩
  · unfold State.atomic
    dsimp only
    rw [State.readMem_clean (clean s hs)]
    dsimp only [State.eccEvents, List.foldl_nil]
    rw [if_neg Bool.false_ne_true, old, hnew, hall, State.store_clean .cache _ nonempty (clean (s.bump .SHC_STATS_ATOMICS 0 1) hs)]
  · rw [State.byteAt, State.rawWrite_cache_mem, ← hall, State.rawBytes_cache, ← length]
    rw [show (s.bump .SHC_STATS_ATOMICS 0 1).mem = s.mem from rfl, SMap.setList_replaced _ _ _ _ _ (by rw [length]; exact fits), Nat.add_assoc, word]

end

end Sys2Proof.Machine
end

section
/-!
PROOFS. An attempt at a request by its operation, a descriptor issued while no request waits (R250 to R253), atomic packets (R205, R206), and the statement O58.
-/
namespace Sys2Proof.Machine

/-! ### An attempt at a target that serves it (R251, R253) -/

/-- A target that exists, is the partition's, is reached, and has no bank that a grain holds. -/
structure State.Serves (s : State) (c p : Nat) (d : NetDesc) (st : Store) (fallback : Bool) : Prop where
  store : s.netStore d = some st
  owned : d.op = 4 ∨ (s.ownsRange p st d.remote d.bytes = true ∧ s.anyWithdrawn st d.remote d.bytes = false)
  reach : s.reach (some (dieOf c)) st = .served fallback
  free : s.bankHeld st d.remote d.bytes = false

/-- Whether the word of a WAIT has reached the threshold, or cannot be read. -/
def State.waitMet (s : State) (st : Store) (d : NetDesc) : Bool := (s.readMem st d.remote 8).bad || decide (d.operand ≤ ofBytesLE (s.readMem st d.remote 8).bytes)

/-- A request at its target once its tokens are taken. -/
def State.netServe (s : State) (c p : Nat) (d : NetDesc) (st : Store) : State × NetRes :=
  match d.op with
  | 1 | 6 =>
    match s.coreRead c st d.remote d.bytes with
    | (some bs, s) => (s, .ends stOk (some bs))
    | (none, s) => (s, .ends stUncorrectable none)
  | 2 =>
    match s.coreRead c (.pool c) d.pool d.len with
    | (some bs, s) => (s.coreWrite c st d.remote bs, .ends stOk none)
    | (none, s) => (s, .ends stUncorrectable none)
  | 3 =>
    match Aop.ofCode d.aop with
    | some (w, o) =>
      match ((s.noteWrite p .cache d.remote d.bytes).unitWrote c .cache d.remote d.bytes).atomic d.remote w o d.operand d.compare with
      | (some old, s) => (s, .ends stOk (some (toBytesLE 8 old)))
      | (none, s) => (s.flagPart p 3 stUncorrectable, .ends stUncorrectable none)
    | none => (s, .traps trapDescriptor)
  | _ =>
    match s.coreRead c (.pool c) d.pool d.len with
    | (none, s) => (s, .ends stUncorrectable none)
    | (some bs, s) =>
      match s.contrib p d.group d.contributor d.remote bs with
      | (s, .accepted) => (s, .ends stOk none)
      | (s, .invalid) => (s, .traps trapDescriptor)
      | (s, .uncorrectable) => (s, .ends stUncorrectable none)

section
variable {s g g' : State} {c p : Nat} {d : NetDesc} {st : Store} {fallback : Bool}

theorem State.Serves.attempt (h : s.Serves c p d st fallback) : s.netAttempt c p d =
    if d.op = 6 ∧ s.waitMet st d = false then (s, .waits)
    else match s.grant p [] st.resOf d.charge with
      | (none, t) => (t, .waits)
      | (some t, _) => (if fallback then t.bump .ZYN_NET_STATS_FALLBACK c 1 else t).netServe c p d st := by
  have owned : ¬(d.op != 4 && !s.ownsRange p st d.remote d.bytes) = true := by rcases h.owned with op | ⟨own, -⟩ <;> simp [*]
  have kept : ¬(d.op != 4 && s.anyWithdrawn st d.remote d.bytes) = true := by rcases h.owned with op | ⟨-, kept⟩ <;> simp [*]
  have free : ¬s.bankHeld st d.remote d.bytes = true := Bool.eq_false_iff.1 h.free
  unfold State.netAttempt
  rw [h.store]
  dsimp only
  rw [if_neg owned, if_neg kept, h.reach]
  dsimp only
  rw [if_neg free]
  refine if_congr (and_congr_right' (Iff.of_eq (Bool.not_eq_true' _))) rfl ?_
  rfl

theorem State.Serves.unmet (h : s.Serves c p d st fallback) (op : d.op = 6) (unmet : s.waitMet st d = false) : s.netAttempt c p d = (s, .waits) :=
  h.attempt.trans (if_pos ⟨op, unmet⟩)

theorem State.Serves.short (h : s.Serves c p d st fallback) (go : d.op = 6 → s.waitMet st d = true) (short : s.grant p [] st.resOf d.charge = (none, g)) :
    s.netAttempt c p d = (g, .waits) := by
  rw [h.attempt, if_neg fun held => Bool.eq_false_iff.1 held.2 (go held.1), short]

theorem State.Serves.granted (h : s.Serves c p d st false) (go : d.op = 6 → s.waitMet st d = true) (grant : s.grant p [] st.resOf d.charge = (some g, g')) :
    s.netAttempt c p d = g.netServe c p d st := by
  rw [h.attempt, if_neg fun held => Bool.eq_false_iff.1 held.2 (go held.1), grant]
  rfl

end

section
variable {s t : State} {c p : Nat} {d : NetDesc} {st : Store} {bs : List Byte}

theorem State.netServe_read (op : d.op = 1 ∨ d.op = 6) (read : s.coreRead c st d.remote d.bytes = (some bs, t)) : s.netServe c p d st = (t, .ends stOk (some bs)) := by
  rcases op with op | op <;> simp only [State.netServe, op, read]

theorem State.netServe_write (op : d.op = 2) (read : s.coreRead c (.pool c) d.pool d.len = (some bs, t)) :
    s.netServe c p d st = (t.coreWrite c st d.remote bs, .ends stOk none) := by
  simp only [State.netServe, op, read]

theorem State.netServe_atomic (op : d.op = 3) {w old : Nat} {o : Aop} (code : Aop.ofCode d.aop = some (w, o))
    (served : ((s.noteWrite p .cache d.remote d.bytes).unitWrote c .cache d.remote d.bytes).atomic d.remote w o d.operand d.compare = (some old, t)) :
    s.netServe c p d st = (t, .ends stOk (some (toBytesLE 8 old))) := by
  simp only [State.netServe, op, code, served]

theorem State.netServe_contrib (op : d.op = 4) {u : State} (read : s.coreRead c (.pool c) d.pool d.len = (some bs, u))
    (accepted : u.contrib p d.group d.contributor d.remote bs = (t, .accepted)) : s.netServe c p d st = (t, .ends stOk none) := by
  simp only [State.netServe, op, read, accepted]

end

/-! ### A descriptor issued while no request waits -/

/-- The state in which the request of a descriptor just issued is tried. -/
def State.netTries (s : State) (n : Nat) (w : List Word) : State := (s.netQueued n w).atUnit n 5 (s.issueWords n)

/-- A state but for its cores, with no request at any port. -/
structure State.PortsEmpty (v t : State) : Prop where
  frame : t = { v with cores := t.cores }
  netq (c : Nat) : (t.core c).netq = []

/-- A state that differs from `s` in regulators and in what its cores hold outside their reeds' queues and, at core `n`, the writes not yet seen. -/
structure State.AtWork (s g : State) (n : Nat) : Prop where
  frame : g = { s with cores := g.cores, regs := g.regs }
  rq (c : Nat) : (g.core c).rq = (s.core c).rq
  unseen : (g.core n).unseen = (s.core n).unseen

section
variable {s u : State} {n : Nat} {w : List Word}

theorem NetDesc.ofWords_issued (length : w.length = 6) (issued : List Word) : NetDesc.ofWords (w ++ issued) = NetDesc.ofWords w :=
  match w, length with
  | [_, _, _, _, _, _], _ => rfl

theorem netIssue_valid (valid : (NetDesc.ofWords w).valid w = true) : netIssue n w s = (s.netQueued n w).settle := if_neg (by simp [valid])

theorem State.netTries_other {c : Nat} (h : c ≠ n) : (s.netTries n w).core c = s.core c := by
  rw [State.netTries, State.atUnit, State.modCore, State.core_set_other _ _ h, State.netQueued, State.modCore, State.core_set_other _ _ h]

theorem State.netTries_same : ((s.netTries n w).core n).rq = (s.core n).rq ∧ ((s.netTries n w).core n).unseen = (s.core n).unseen := by
  rw [State.netTries, State.atUnit, State.modCore, State.core_set_same, State.netQueued, State.modCore, State.core_set_same]
  exact ⟨rfl, rfl⟩

theorem State.netTries_atWork : s.AtWork (s.netTries n w) n where
  frame := rfl
  rq c := by
    by_cases hc : c = n
    · rw [hc, State.netTries_same.1]
    · rw [State.netTries_other hc]
  unseen := State.netTries_same.2

theorem State.AtWork.regs {z g : State} (h : s.AtWork z n) (hg : z.RegsOnly g) : s.AtWork g n := by
  have cores : g.cores = z.cores := by rw [hg]
  have core (c : Nat) : g.core c = z.core c := by rw [State.core, cores, ← State.core]
  exact ⟨Eq.trans hg (by rw [h.frame, cores]), fun c => by rw [core, h.rq], by rw [core, h.unseen]⟩

variable (idle : s.netCores = []) (atoms : s.atomHeld = []) (length : w.length = 6) {d : NetDesc} (named : NetDesc.ofWords w = d) (valid : d.valid w = true)
include idle atoms named valid

/-- A pass that leaves no request leaves every port empty. -/
theorem netIssue_passed {v : State} (pass : (s.netQueued n w).netPass n = v.modCore n fun k => { k with netq := [] }) (others : ∀ c, c ≠ n → (v.core c).netq = []) :
    v.PortsEmpty (netIssue n w s) := by
  have empty (c : Nat) : (((s.netQueued n w).netPass n).core c).netq = [] := by
    rw [pass]
    by_cases hc : c = n
    · rw [hc, State.modCore, State.core_set_same]
    · rw [State.modCore, State.core_set_other _ _ hc, others c hc]
  have settled := (s.netQueued_holdsOne idle n w).settle_ends idle atoms empty
  rw [netIssue_valid (named ▸ valid)]
  refine ⟨settled.1.trans ?_, fun c => by rw [settled.2, empty]⟩
  rw [pass]
  rfl

include length

theorem netIssue_fence (op : d.op = 5) : ((s.netQueued n w).netEnd n d stOk none).PortsEmpty (netIssue n w s) := by
  have held := s.netQueued_holdsOne idle n w
  have same := (NetDesc.ofWords_issued length (s.issueWords n)).trans named
  have pass := State.netPass_fence held.netq (by rw [same]; exact op)
  rw [same] at pass
  exact netIssue_passed idle atoms named valid pass fun c hc => by rw [(State.netEnd_netqKept ..).netq, held.other hc, State.netq_of_netCores idle]

/-- A request that ends at once leaves every port empty. -/
theorem netIssue_ends {status : Nat} {res : Option (List Byte)} (op : d.op ≠ 5)
    (attempt : (s.netTries n w).netAttempt n (s.diePart (dieOf n)) d = (u, .ends status res)) (kept : (s.netTries n w).NetqKept u) :
    (u.netEnd n d status res).PortsEmpty (netIssue n w s) := by
  have held := s.netQueued_holdsOne idle n w
  have same := (NetDesc.ofWords_issued length (s.issueWords n)).trans named
  have issued : (w ++ s.issueWords n).drop 6 = s.issueWords n := List.drop_left' length
  have pass := State.netPass_ends (u := u) (status := status) (res := res) held.netq (by rw [same]; exact op) (by rw [same, issued]; exact attempt)
  rw [same] at pass
  obtain ⟨frame, empty⟩ := netIssue_passed idle atoms named valid pass fun c hc => by
    rw [State.backAt, State.modCore, State.core_set_other _ _ hc, (kept.trans (State.netEnd_netqKept ..)).netq, State.netTries_other hc, State.netq_of_netCores idle]
  exact ⟨frame, empty⟩

/-- A request that waits stays alone at its port. -/
theorem netIssue_waits (op : d.op ≠ 5)
    (attempt : (s.netTries n w).netAttempt n (s.diePart (dieOf n)) d = (u, .waits)) (regs : (s.netTries n w).RegsOnly u) :
    ((netIssue n w s).core n).netq = [((s.core n).netSeq, w ++ s.issueWords n)] ∧ (netIssue n w s).mem = s.mem := by
  have held := s.netQueued_holdsOne idle n w
  have same := (NetDesc.ofWords_issued length (s.issueWords n)).trans named
  have issued : (w ++ s.issueWords n).drop 6 = s.issueWords n := List.drop_left' length
  have pass := State.netPass_waits (u := u) held.netq (by rw [same]; exact op) (by rw [same, issued]; exact attempt)
  have tried : s.HoldsOne n ((s.core n).netSeq, w ++ s.issueWords n) u :=
    State.HoldsOne.congr (t := s.netTries n w) (held.modCore held.netq) (by rw [regs])
  have after : s.HoldsOne n ((s.core n).netSeq, w ++ s.issueWords n) ((s.netQueued n w).netPass n) := by
    rw [pass]
    exact State.HoldsOne.modCore (State.HoldsOne.modCore tried tried.netq) rfl
  rw [netIssue_valid (named ▸ valid), held.settle_waits idle atoms after]
  refine ⟨after.netq, ?_⟩
  rw [pass]
  have mem : u.mem = (s.netTries n w).mem := by rw [regs]
  exact mem

end

/-! ### Attempts in memory without errors -/

section
variable {s g : State} {n : Nat}

theorem State.AtWork.mem (h : s.AtWork g n) : g.mem = s.mem := by rw [h.frame]

theorem State.AtWork.rowSpares (h : s.AtWork g n) : g.rowSpares = s.rowSpares := by rw [h.frame]

theorem State.AtWork.spotless (h : s.AtWork g n) (spotless : s.Spotless) : g.Spotless := by
  rw [h.frame]
  exact spotless

theorem State.AtWork.coreRead (h : s.AtWork g n) (spotless : s.Spotless) (seen : (s.core n).unseen = []) {st : Store} {off m : Nat}
    (defined : s.rowUndefined st off m = false) : g.coreRead n st off m = (some (s.rawBytes st off m), g) := by
  rw [State.coreRead_clean ((h.spotless spotless).clean st) (h.unseen.trans seen) ((State.rowUndefined_of_rq h.rq ..).trans defined),
    State.rawBytes_congr h.mem h.rowSpares]

theorem State.waitMet_clean (spotless : s.Spotless) (st : Store) (d : NetDesc) : s.waitMet st d = decide (d.operand ≤ ofBytesLE (s.rawBytes st d.remote 8)) := by
  rw [State.waitMet, State.readMem_clean (spotless.clean st), Bool.false_or]

end

section
variable {s z : State} {n p : Nat} {d : NetDesc} {st : Store} (work : s.AtWork z n) (spotless : s.Spotless) (seen : (s.core n).unseen = [])
  (serves : z.Serves n p d st false) (tokens : ∀ r ∈ st.resOf, 0 < (z.reg r p).ceil)
include work spotless serves tokens

theorem State.AtWork.attempt_atomic {w : Nat} {o : Aop} (op : d.op = 3) (code : Aop.ofCode d.aop = some (w, o)) (width : w = 32 ∨ w = 64)
    (aligned : d.remote % (w / 8) = 0) :
    ∃ t, z.netAttempt n p d = (t, .ends stOk (some (toBytesLE 8 (ofBytesLE (s.rawBytes .cache d.remote (w / 8)))))) ∧ z.NetqKept t ∧ t.Spotless ∧
      ∀ j, t.byteAt j = SMap.get (SMap.setList 0 s.mem (0x40000000000 + d.remote)
        (toBytesLE (w / 8) (o.apply w (ofBytesLE (s.rawBytes .cache d.remote (w / 8))) d.operand d.compare))) j 0 := by
  obtain ⟨g, granted, regs⟩ := State.grant_tokens tokens d.charge
  have noted : g.noteWrite p .cache d.remote d.bytes = { g with parts := (g.noteWrite p .cache d.remote d.bytes).parts } := State.noteWrite_eq ..
  generalize hy : (g.noteWrite p .cache d.remote d.bytes).unitWrote n .cache d.remote d.bytes = y
  have frame : y = { g with parts := y.parts, cores := y.cores } := by
    rw [← hy, State.unitWrote_eq, noted]
  have ready := work.regs regs
  have sram : y.sram = [] := by rw [frame]; exact (ready.spotless spotless).2.2
  have mem : y.mem = s.mem := by rw [frame]; exact ready.mem
  have spares : y.rowSpares = s.rowSpares := by rw [frame]; exact ready.rowSpares
  obtain ⟨t, served, only, bytes⟩ := State.atomic_clean sram width aligned o d.operand d.compare
  rw [State.rawBytes_congr mem spares, mem] at bytes
  rw [State.rawBytes_congr mem spares] at served
  refine ⟨t, (serves.granted (fun h => by rw [op] at h; cases h) granted).trans (State.netServe_atomic op code (by rw [hy]; exact served)), ?_, ?_, bytes⟩
  · have first : z.NetqKept g := .ofCores (by rw [regs])
    have wrote : g.NetqKept y := by
      rw [← hy]
      exact State.NetqKept.trans (.ofCores (by rw [noted])) (State.unitWrote_netqKept ..)
    exact (first.trans wrote).trans (.ofCores (by rw [only]))
  · rw [only, frame]
    exact ready.spotless spotless

include seen

theorem State.AtWork.attempt_read (op : d.op = 1 ∨ d.op = 6) (go : d.op = 6 → z.waitMet st d = true) (defined : s.rowUndefined st d.remote d.bytes = false) :
    ∃ g, z.RegsOnly g ∧ z.netAttempt n p d = (g, .ends stOk (some (s.rawBytes st d.remote d.bytes))) := by
  obtain ⟨g, granted, regs⟩ := State.grant_tokens tokens d.charge
  exact ⟨g, regs, (serves.granted go granted).trans (State.netServe_read op ((work.regs regs).coreRead spotless seen defined))⟩

theorem State.AtWork.attempt_write (op : d.op = 2) : ∃ g, z.RegsOnly g ∧
    z.netAttempt n p d = (g.coreWrite n st d.remote (s.rawBytes (.pool n) d.pool d.len), .ends stOk none) := by
  obtain ⟨g, granted, regs⟩ := State.grant_tokens tokens d.charge
  exact ⟨g, regs, (serves.granted (fun h => by rw [op] at h; cases h) granted).trans (State.netServe_write op ((work.regs regs).coreRead spotless seen rfl))⟩

end

/-! ### The end of a request that wants no status -/

section
variable {u : State} {n : Nat} {d : NetDesc} (quiet : d.statusEn = false)
include quiet

theorem State.netEnd_none (status : Nat) : u.netEnd n d status none = u.bump .ZYN_NET_STATS_REQUESTS n 1 := by
  unfold State.netEnd
  rw [quiet]
  rfl

theorem State.netEnd_some (status : Nat) (bs : List Byte) : u.netEnd n d status (some bs) = (u.coreWrite n (.pool n) d.pool bs).bump .ZYN_NET_STATS_REQUESTS n 1 := by
  unfold State.netEnd
  rw [quiet]
  rfl

end

theorem State.PortsEmpty.mem {v t : State} (h : v.PortsEmpty t) : t.mem = v.mem := by rw [h.frame]

theorem State.PortsEmpty.rowSpares {v t : State} (h : v.PortsEmpty t) : t.rowSpares = v.rowSpares := by rw [h.frame]

/-! ### What a valid descriptor is known to be (R250, R253) -/

section
variable {d : NetDesc} {w : List Word} (valid : d.valid w = true)
include valid

theorem NetDesc.valid_size : (if d.sized then 64 ≤ d.len && d.len ≤ 4194304 && d.len % 64 == 0 else d.len == 0) = true := by
  unfold NetDesc.valid at valid
  dsimp only at valid
  simp only [Bool.and_eq_true] at valid
  exact valid.1.1.1.2

theorem NetDesc.valid_place (op : d.op ≠ 5) : d.remote % (if d.op = 1 ∨ d.op = 2 then 64 else if d.op = 3 then d.bytes else if d.op = 4 then 16 else 8) = 0 ∧
    (d.op = 4 ∨ d.remote + d.bytes ≤ (if d.target = 0 then 0x48000000 else if d.target = 1 then 0x1800000000 else 0x18000000)) := by
  unfold NetDesc.valid at valid
  dsimp only at valid
  simp only [Bool.and_eq_true] at valid
  obtain ⟨-, last⟩ := valid
  have fence : (d.op == 5) = false := by simpa using op
  rw [fence, Bool.false_or] at last
  simp only [Bool.and_eq_true, Bool.or_eq_true, beq_iff_eq, decide_eq_true_eq] at last
  obtain ⟨⟨⟨remote, -⟩, -⟩, bound⟩ := last
  exact ⟨remote, bound⟩

theorem NetDesc.valid_target (op : d.op = 3 ∨ d.op = 6) : d.target = 2 := by
  unfold NetDesc.valid at valid
  dsimp only at valid
  simp only [Bool.and_eq_true] at valid
  have cache := valid.1.1.2
  rcases op with op | op <;> simpa [op] using cache

end

theorem NetDesc.valid_sized {d : NetDesc} {w : List Word} (valid : d.valid w = true) (op : d.op = 1 ∨ d.op = 2) : d.bytes = d.len ∧ d.len ≠ 0 := by
  have sized : d.sized = true := by rcases op with op | op <;> simp [NetDesc.sized, op]
  have size := NetDesc.valid_size valid
  rw [if_pos sized] at size
  simp only [Bool.and_eq_true, decide_eq_true_eq] at size
  exact ⟨if_pos sized, by omega⟩

theorem NetDesc.bytes_wait {d : NetDesc} (op : d.op = 6) : d.bytes = 8 := by simp [NetDesc.bytes, NetDesc.sized, op]

theorem NetDesc.bytes_atomic {d : NetDesc} (op : d.op = 3) {w : Nat} {o : Aop} (code : Aop.ofCode d.aop = some (w, o)) : d.bytes = w / 8 := by
  simp [NetDesc.bytes, NetDesc.sized, op, code]

/-- A valid ATOMIC names an aligned word of the shared cache. -/
theorem NetDesc.valid_atomic {d : NetDesc} {w : List Word} (valid : d.valid w = true) (op : d.op = 3) {wd : Nat} {o : Aop} (code : Aop.ofCode d.aop = some (wd, o)) :
    d.remote % (wd / 8) = 0 ∧ d.remote + wd / 8 ≤ 0x18000000 := by
  obtain ⟨aligned, bound⟩ := NetDesc.valid_place valid (by rw [op]; decide)
  rw [NetDesc.bytes_atomic op code] at aligned bound
  simp only [op, NetDesc.valid_target valid (.inl op)] at aligned bound
  exact ⟨by simpa using aligned, by simpa using bound⟩

theorem Aop.width_of_ofCode {a w : Nat} {o : Aop} (h : Aop.ofCode a = some (w, o)) : w = 32 ∨ w = 64 := by
  unfold Aop.ofCode at h
  split at h <;> simp only [Option.some.injEq, Prod.mk.injEq, reduceCtorEq] at h <;> omega

/-- The target of a valid ATOMIC or WAIT is the shared cache. -/
theorem State.netStore_cache {s : State} {d : NetDesc} {st : Store} (target : d.target = 2) (h : s.netStore d = some st) : st = .cache := by
  unfold State.netStore at h
  split at h
  · cases h
  · simp only [target] at h
    exact (Option.some.inj h).symm

/-- Bytes of the shared cache are not those of a pool. -/
theorem State.rawBytes_cache_rawWrite_pool (s : State) (c a : Nat) (bs : List Byte) {off n : Nat} (h : off + n ≤ 0x18000000) :
    (s.rawWrite (.pool c) a bs).rawBytes .cache off n = s.rawBytes .cache off n := by
  unfold State.rawBytes
  refine List.map_congr_left fun k hk => s.rawWrite_other _ _ _ _ fun i _ => ?_
  have inside := List.mem_range.1 hk
  rw [State.physKey, State.physKey]
  omega

/-! ### The requests that end at once -/

theorem State.netTries_frame (s : State) (n : Nat) (w : List Word) : s.netTries n w = { s with cores := (s.netTries n w).cores } := rfl

/-- What a request meets does not depend on what the cores hold. -/
theorem State.Serves.cores {s : State} {n p : Nat} {d : NetDesc} {st : Store} {fallback : Bool} (h : s.Serves n p d st fallback) (cs : SMap Core) :
    State.Serves { s with cores := cs } n p d st fallback :=
  ⟨h.store, h.owned, h.reach, h.free⟩

theorem State.Serves.netTries {s : State} {n p : Nat} {d : NetDesc} {st : Store} {fallback : Bool} (h : s.Serves n p d st fallback) (w : List Word) :
    (s.netTries n w).Serves n p d st fallback := by
  rw [State.netTries_frame]
  exact h.cores _

theorem State.netTries_waitMet (s : State) {n : Nat} {w : List Word} (spotless : s.Spotless) (st : Store) (d : NetDesc) :
    (s.netTries n w).waitMet st d = decide (d.operand ≤ ofBytesLE (s.rawBytes st d.remote 8)) := by
  have work := s.netTries_atWork (n := n) (w := w)
  rw [State.waitMet_clean (work.spotless spotless), State.rawBytes_congr work.mem work.rowSpares]

theorem State.netTries_reg (s : State) (n : Nat) (w : List Word) (r p : Nat) : (s.netTries n w).reg r p = s.reg r p :=
  State.reg_congr (by rw [State.netTries_frame]) r p

theorem State.netTries_tokens {s : State} {n p : Nat} {w : List Word} {res : List Nat} (h : ∀ r ∈ res, 0 < (s.reg r p).ceil) :
    ∀ r ∈ res, 0 < ((s.netTries n w).reg r p).ceil := fun r hr => by
  rw [State.netTries_reg]
  exact h r hr

section
variable {s : State} {n : Nat} {w : List Word} {st : Store} (idle : s.netCores = []) (atoms : s.atomHeld = []) (length : w.length = 6) {d : NetDesc}
  (named : NetDesc.ofWords w = d) (valid : d.valid w = true) (quiet : d.statusEn = false) (spotless : s.Spotless) (seen : (s.core n).unseen = [])
  (serves : s.Serves n (s.diePart (dieOf n)) d st false) (tokens : ∀ r ∈ st.resOf, 0 < (s.reg r (s.diePart (dieOf n))).ceil)

include idle atoms length named valid quiet spotless seen serves tokens

theorem netIssue_read (op : d.op = 1 ∨ d.op = 6)
    (go : d.op = 6 → d.operand ≤ ofBytesLE (s.rawBytes st d.remote 8)) (holds : d.bytes ≠ 0)
    (defined : s.rowUndefined st d.remote d.bytes = false) :
    (netIssue n w s).mem = (s.rawWrite (.pool n) d.pool (s.rawBytes st d.remote d.bytes)).mem ∧
      ((netIssue n w s).core n).netq = [] := by
  have work := s.netTries_atWork (n := n) (w := w)
  obtain ⟨g, regs, attempt⟩ := work.attempt_read spotless seen (serves.netTries w) (State.netTries_tokens tokens) op
    (fun h => (s.netTries_waitMet spotless st _).trans (decide_eq_true (go h))) defined
  have ends := netIssue_ends idle atoms length named valid (by omega) attempt (.ofCores (by rw [regs]))
  have nonempty : s.rawBytes st d.remote d.bytes ≠ [] := fun h => holds ((s.rawBytes_length st _ _).symm.trans (congrArg List.length h))
  refine ⟨ends.mem.trans ?_, ends.netq n⟩
  rw [State.netEnd_some quiet]
  exact (State.coreWrite_mem (((work.regs regs).spotless spotless).clean _) n _ nonempty).trans
    (State.rawWrite_mem_congr (work.regs regs).mem (work.regs regs).rowSpares ..)

theorem netIssue_write (op : d.op = 2) :
    (netIssue n w s).mem = (s.rawWrite st d.remote (s.rawBytes (.pool n) d.pool d.len)).mem ∧
      (netIssue n w s).rowSpares = s.rowSpares ∧ ((netIssue n w s).core n).netq = [] := by
  have work := s.netTries_atWork (n := n) (w := w)
  obtain ⟨g, regs, attempt⟩ := work.attempt_write spotless seen (serves.netTries w) (State.netTries_tokens tokens) op
  have ends := netIssue_ends idle atoms length named valid (by omega) attempt (.trans (.ofCores (by rw [regs])) (State.coreWrite_netqKept ..))
  have nonempty : s.rawBytes (.pool n) d.pool d.len ≠ [] := fun h =>
    (NetDesc.valid_sized valid (.inr op)).2 ((s.rawBytes_length (.pool n) _ _).symm.trans (congrArg List.length h))
  have clean := ((work.regs regs).spotless spotless).clean st
  rw [State.netEnd_none quiet] at ends
  refine ⟨ends.mem.trans ?_, ends.rowSpares.trans ?_, ends.netq n⟩
  · exact (State.coreWrite_mem clean n _ nonempty).trans (State.rawWrite_mem_congr (work.regs regs).mem (work.regs regs).rowSpares ..)
  · exact (congrArg State.rowSpares (State.coreWrite_clean clean n _ nonempty)).trans (work.regs regs).rowSpares

omit seen in
theorem netIssue_atomic {wd : Nat} {o : Aop} (op : d.op = 3) (code : Aop.ofCode d.aop = some (wd, o)) :
    (netIssue n w s).rawBytes .cache d.remote (wd / 8) = toBytesLE (wd / 8)
      (o.apply wd (ofBytesLE (s.rawBytes .cache d.remote (wd / 8))) d.operand d.compare) ∧
    (netIssue n w s).rawBytes (.pool n) d.pool 8 = toBytesLE 8 (ofBytesLE (s.rawBytes .cache d.remote (wd / 8))) ∧
    ((netIssue n w s).core n).netq = [] := by
  obtain ⟨aligned, bound⟩ := NetDesc.valid_atomic valid op code
  obtain ⟨t, attempt, kept, clean, stored⟩ := (s.netTries_atWork (n := n) (w := w)).attempt_atomic spotless (serves.netTries w) (State.netTries_tokens tokens)
    op code (Aop.width_of_ofCode code) aligned
  generalize hold : ofBytesLE (s.rawBytes .cache d.remote (wd / 8)) = old at attempt stored ⊢
  have ends := netIssue_ends idle atoms length named valid (by omega) attempt kept
  have nonempty : toBytesLE 8 old ≠ [] := fun h => absurd (congrArg List.length h) (by rw [toBytesLE_length]; decide)
  have mem : (netIssue n w s).mem = (t.rawWrite (.pool n) d.pool (toBytesLE 8 old)).mem := by
    refine ends.mem.trans ?_
    rw [State.netEnd_some quiet]
    exact State.coreWrite_mem (clean.clean _) n _ nonempty
  refine ⟨?_, ?_, ends.netq n⟩
  · have word := State.rawBytes_cache_stored stored
    rw [toBytesLE_length] at word
    rw [State.rawBytes_cache, mem, ← State.rawBytes_cache, State.rawBytes_cache_rawWrite_pool _ _ _ _ bound, word]
  · have answer := State.rawBytes_rawWrite_pool t n d.pool (toBytesLE 8 old)
    rw [toBytesLE_length] at answer
    exact (State.rawBytes_pool_congr mem ..).trans answer

end

/-- A contribution that its group accepts ends. -/
theorem netIssue_contrib {s g u v : State} {n : Nat} {w : List Word} {bs : List Byte} (idle : s.netCores = [])
    (atoms : s.atomHeld = []) (length : w.length = 6) {d : NetDesc} (named : NetDesc.ofWords w = d) (valid : d.valid w = true) (op : d.op = 4)
    (serves : s.Serves n (s.diePart (dieOf n)) d .cache false)
    (granted : (s.netTries n w).grant (s.diePart (dieOf n)) [] [resCache] d.charge = (some g, g))
    (read : g.coreRead n (.pool n) d.pool d.len = (some bs, u))
    (accepted : u.contrib (s.diePart (dieOf n)) d.group d.contributor d.remote bs = (v, .accepted)) :
    ((netIssue n w s).core n).netq = [] := by
  have attempt := ((serves.netTries w).granted (fun h => by rw [op] at h; cases h) granted).trans (State.netServe_contrib op read accepted)
  have kept : (s.netTries n w).NetqKept v := by
    have first : (s.netTries n w).NetqKept g := .ofCores (by rw [State.grant_eq granted])
    have second : g.NetqKept u := .ofWork fun c => by
      have kept := g.coreRead_workKept c n (.pool n) d.pool d.len
      rw [read] at kept
      exact kept
    have third : u.NetqKept v := .ofWork fun c => by
      have kept := u.contrib_workKept c (s.diePart (dieOf n)) d.group d.contributor d.remote bs
      rw [accepted] at kept
      exact kept
    exact (first.trans second).trans third
  exact (netIssue_ends idle atoms length named valid (by omega) attempt kept).netq n

theorem netRow_next {s : State} {c : Site} {op : Nat} {w : List Word} (clocked : s.clocked = true) (idle : s.netCores = []) (h : (NetDesc.ofWords w).op = op) :
    netRow c op w s = .next (netIssue (siteNo c) w s) := by
  have room : s.netFull (siteNo c) = false := by rw [State.netFull, State.netq_of_netCores idle]; rfl
  have word : fieldOf (wordAt w 0) 3 0 = op := h
  rw [netRow, if_pos word, State.whenClocked_on _ clocked, room]
  rfl

theorem netIssue_invalid {s : State} {n : Nat} {w : List Word} (h : (NetDesc.ofWords w).valid w = false) :
    netIssue n w s = s.trap n trapDescriptor (NetDesc.ofWords w).tag stBadPacket := if_pos (by rw [h]; rfl)

/-! ### Atomic packets (R205, R206) -/

theorem State.atomServe_tokens {s g t : State} {p code off wd old : Nat} {o : Aop} {v cmp : Word} (named : Aop.ofCode code = some (wd, o))
    (granted : s.grant p [] [resCache] 8 = (some g, g)) (served : g.atomic off wd o v.toNat cmp.toNat = (some old, t)) :
    s.atomServe p code off v cmp = (some (t.answer (.atomic p (some old))), t.answer (.atomic p (some old))) := by
  simp only [State.atomServe, named, granted, served, Option.isNone_some, Bool.false_eq_true, if_false]

theorem State.serveAtoms_one {s t u : State} {p code off : Nat} {v cmp : Word} (one : s.atomHeld = [(p, code, off, v, cmp)])
    (served : s.atomServe p code off v cmp = (some t, u)) : s.serveAtoms = { t with atomHeld := [] } := by
  unfold State.serveAtoms
  rw [one]
  simp only [List.foldl_cons, List.foldl_nil, List.any_nil, Bool.false_eq_true, if_false, served]

/-- A lone atomic operation that is served is all that a try serves. -/
theorem State.settle_atom {s t u : State} {p code off : Nat} {v cmp : Word} (one : s.atomHeld = [(p, code, off, v, cmp)])
    (served : s.atomServe p code off v cmp = (some t, u)) (idle : t.netCores = []) : s.settle = { t with atomHeld := [] } := by
  have none : State.netCores { t with atomHeld := [] } = [] := idle
  unfold State.settle
  rw [State.serveAtoms_one one served, one]
  exact if_pos (List.isEmpty_iff.2 none)

section
variable {s : State} {p : Fin 12} {code off : Nat} {v cmp : Word} {wd : Nat} {o : Aop} (named : Aop.ofCode code = some (wd, o))
include named

theorem atomRow_refused (h : off % (wd / 8) ≠ 0 ∨ s.inRegion p.val off (wd / 8) = false) : atomRow p code off v cmp s = s := by
  unfold atomRow
  rw [named]
  exact if_pos (h.imp_right fun outside => by rw [outside]; rfl)

/-- A packet that the cache serves at once. -/
theorem atomRow_served (aligned : off % (wd / 8) = 0) (inside : s.inRegion p.val off (wd / 8) = true) (idle : s.netCores = []) (atoms : s.atomHeld = [])
    (sram : s.sram = []) (tokens : 0 < (s.reg resCache p.val).ceil) :
    (∀ j, (atomRow p code off v cmp s).byteAt j = SMap.get (SMap.setList 0 s.mem (0x40000000000 + off)
      (toBytesLE (wd / 8) (o.apply wd (ofBytesLE (s.rawBytes .cache off (wd / 8))) v.toNat cmp.toNat))) j 0) ∧
    (atomRow p code off v cmp s).answers = .atomic p.val (some (ofBytesLE (s.rawBytes .cache off (wd / 8)))) :: s.answers := by
  have accepted : ¬(off % (wd / 8) ≠ 0 ∨ (!s.inRegion p.val off (wd / 8)) = true) := by simp [aligned, inside]
  have one : ({ s with atomHeld := s.atomHeld ++ [(p.val, code, off, v, cmp)] } : State).atomHeld = [(p.val, code, off, v, cmp)] := by simp [atoms]
  have row : atomRow p code off v cmp s = State.settle { s with atomHeld := s.atomHeld ++ [(p.val, code, off, v, cmp)] } := by
    unfold atomRow
    rw [named]
    exact if_neg accepted
  rw [row]
  obtain ⟨g, granted, regs⟩ := State.grant_tokens (s := { s with atomHeld := s.atomHeld ++ [(p.val, code, off, v, cmp)] }) (p := p.val) (res := [resCache])
    (fun r hr => by rw [List.mem_singleton.1 hr]; exact tokens) 8
  have mem : g.mem = s.mem := by rw [regs]
  have spares : g.rowSpares = s.rowSpares := by rw [regs]
  have answers : g.answers = s.answers := by rw [regs]
  have cores : g.cores = s.cores := by rw [regs]
  obtain ⟨t, served, only, stored⟩ := State.atomic_clean (s := g) (by rw [regs]; exact sram) (Aop.width_of_ofCode named) aligned o v.toNat cmp.toNat
  rw [State.rawBytes_congr mem spares] at served stored
  rw [mem] at stored
  have free : t.netCores = [] := by rw [State.netCores, show t.cores = s.cores from Eq.trans (by rw [only]) cores]; exact idle
  rw [State.settle_atom one (State.atomServe_tokens named granted served) free]
  exact ⟨stored, congrArg _ (Eq.trans (by rw [only]) answers)⟩

end

/-- The row of each packet of an atomic operation: only CAS compares. -/
theorem atomPacket_row (p : Fin 12) (wide : Bool) (off : Nat) (v cmp : Word) {s : State} (clocked : s.clocked = true) (x : Instr × Aop)
    (hx : x ∈ [(Instr.atomAdd p wide off v, Aop.add), (.atomSmin p wide off v, .smin), (.atomSmax p wide off v, .smax), (.atomUmin p wide off v, .umin),
      (.atomUmax p wide off v, .umax), (.atomCas p wide off cmp v, .cas)]) :
    ∃ code c, Aop.ofCode code = some (if wide then 64 else 32, x.2) ∧ exec x.1 s = .next (atomRow p code off v c s) ∧
      ∀ w old, x.2.apply w old v.toNat c.toNat = x.2.apply w old v.toNat cmp.toNat := by
  have next (code : Nat) (c : Word) : s.whenClocked (atomRow p code off v c) = atomRow p code off v c s := State.whenClocked_on _ clocked
  have named (narrow wideCode : Nat) (o : Aop) (h : Aop.ofCode narrow = some (32, o)) (h' : Aop.ofCode wideCode = some (64, o)) :
      Aop.ofCode (if wide then wideCode else narrow) = some (if wide then 64 else 32, o) := by cases wide <;> assumption
  simp only [List.mem_cons, List.not_mem_nil, or_false] at hx
  rcases hx with rfl | rfl | rfl | rfl | rfl | rfl
  · exact ⟨_, 0, named 1 2 .add rfl rfl, congrArg _ (next ..), fun _ _ => rfl⟩
  · exact ⟨_, 0, named 3 7 .smin rfl rfl, congrArg _ (next ..), fun _ _ => rfl⟩
  · exact ⟨_, 0, named 4 8 .smax rfl rfl, congrArg _ (next ..), fun _ _ => rfl⟩
  · exact ⟨_, 0, named 5 9 .umin rfl rfl, congrArg _ (next ..), fun _ _ => rfl⟩
  · exact ⟨_, 0, named 6 10 .umax rfl rfl, congrArg _ (next ..), fun _ _ => rfl⟩
  · exact ⟨_, cmp, named 11 12 .cas rfl rfl, congrArg _ (next ..), fun _ _ => rfl⟩

end Sys2Proof.Machine

namespace Sys2Proof.Proofs
open Sys2Proof Sys2Proof.Machine

/-- Settles O58: the one request at a port is tried at once, ends or waits by what it meets at its target, and nothing else goes on with it; the shared cache serves a
lone atomic packet at once. -/
theorem networkAndAtomics : Obligations.NetworkAndAtomics := by
  refine ⟨?network, ?atomics⟩
  case network =>
    intro c w0 w1 w2 w3 w4 w5 s n k w d p size hc idle atoms
    have next {op : Nat} (h : d.op = op) : netRow c op w s = .next (netIssue n w s) := netRow_next hc idle h
    refine ⟨fun x hx op invalid => ?_, fun valid quiet faults wires sram spares seen => ⟨fun op => ?_, fun st store own kept free defined _ reach tokens => ?_⟩,
      fun z g g2 v bs op valid store reach hz granted read accepted => ?_, fun fb op valid store reach owned short => ?_⟩
    · have row : exec x.1 s = netRow c x.2 w s := by
        simp only [List.mem_cons, List.not_mem_nil, or_false] at hx
        rcases hx with rfl | rfl | rfl | rfl | rfl | rfl <;> rfl
      have step := row.trans (next op)
      rw [netIssue_invalid invalid] at step
      exact ⟨_, step, State.trap_state .., State.trap_cause _ _ _ _ (by decide)⟩
    · have ends := netIssue_fence (n := n) idle atoms rfl rfl valid op
      refine ⟨_, next op, ends.netq n, ends.mem.trans ?_⟩
      rw [State.netEnd_none quiet]
      rfl
    · have clean : s.Spotless := ⟨faults, wires, sram⟩
      have serves : s.Serves n p d st false := ⟨store, .inr ⟨own, kept⟩, reach, free⟩
      refine ⟨fun op => ⟨_, next op, ?_⟩, fun op => ⟨_, next op, ?_⟩, fun wd o op code => ⟨_, next op, ?_⟩,
        fun op met => ⟨_, next op, ?_⟩, fun op unmet => ⟨_, next op, ?_⟩⟩
      · obtain ⟨bytes, holds⟩ := NetDesc.valid_sized valid (.inl op)
        obtain ⟨mem, queue⟩ := netIssue_read idle atoms rfl rfl valid quiet clean seen serves tokens (.inl op) (fun h => absurd (op.symm.trans h) (by decide))
          (bytes ▸ holds) defined
        rw [bytes] at mem
        have stored := State.rawBytes_rawWrite_pool s n d.pool (s.rawBytes st d.remote d.len)
        rw [State.rawBytes_length] at stored
        refine ⟨(State.rawBytes_pool_congr mem ..).trans stored, queue, fun j hj => ?_⟩
        exact (congrArg (SMap.get · j 0) mem).trans (s.rawWrite_other _ _ _ j fun i hi => (hj i (by rwa [State.rawBytes_length] at hi)).symm)
      · obtain ⟨mem, rows, queue⟩ := netIssue_write idle atoms rfl rfl valid quiet clean seen serves tokens op
        have stored := State.rawBytes_rawWrite spares st d.remote (s.rawBytes (.pool n) d.pool d.len)
        have same : (s.rawWrite st d.remote (s.rawBytes (.pool n) d.pool d.len)).rowSpares = s.rowSpares := by rw [State.rawWrite_eq]
        rw [State.rawBytes_length] at stored
        refine ⟨(State.rawBytes_congr mem (rows.trans same.symm) ..).trans stored, queue, fun j hj => ?_⟩
        exact (congrArg (SMap.get · j 0) mem).trans (s.rawWrite_other _ _ _ j fun i hi => (hj i (by rwa [State.rawBytes_length] at hi)).symm)
      · exact netIssue_atomic idle atoms rfl rfl valid quiet clean serves tokens op code
      · obtain rfl := State.netStore_cache (NetDesc.valid_target valid (.inr op)) store
        have bytes := NetDesc.bytes_wait op
        obtain ⟨mem, queue⟩ := netIssue_read idle atoms rfl rfl valid quiet clean seen serves tokens (.inr op) (fun _ => met) (by rw [bytes]; decide) defined
        rw [bytes] at mem
        have stored := State.rawBytes_rawWrite_pool s n d.pool (s.rawBytes .cache d.remote 8)
        rw [State.rawBytes_length] at stored
        exact ⟨queue, (State.rawBytes_pool_congr mem ..).trans stored⟩
      · obtain rfl := State.netStore_cache (NetDesc.valid_target valid (.inr op)) store
        have low := (s.netTries_waitMet (n := n) (w := w) clean .cache d).trans (decide_eq_false (Nat.not_le.2 unmet))
        exact netIssue_waits idle atoms rfl rfl valid (fun h => absurd (op.symm.trans h) (by decide)) ((serves.netTries w).unmet op low) rfl
    · subst hz
      exact ⟨_, next op, netIssue_contrib idle atoms rfl rfl valid op ⟨store, .inl op, reach, rfl⟩ granted read accepted⟩
    · have serves : s.Serves n p d .cache fb := ⟨store, .inl op, reach, rfl⟩
      obtain ⟨g, waits, regs⟩ := State.grant_short owned ((congrArg Reg.ceil (s.netTries_reg n w resCache p)).trans_le short) d.charge
      have wait : d.op ≠ 6 := fun h => absurd (op.symm.trans h) (by decide)
      have attempt := (serves.netTries w).short (fun h => absurd h wait) waits
      exact ⟨_, next op, netIssue_waits idle atoms rfl rfl valid (fun h => absurd (op.symm.trans h) (by decide)) attempt regs⟩
  case atomics =>
    intro p wide off v cmp s wd b old hc x hx
    obtain ⟨code, c, named, row, result⟩ := atomPacket_row p wide off v cmp hc x hx
    refine ⟨fun refused => row.trans (congrArg _ (atomRow_refused named refused)), fun aligned inside idle atoms _ sram tokens => ⟨_, row, ?_⟩⟩
    obtain ⟨stored, answers⟩ := atomRow_served (v := v) (cmp := c) named aligned inside idle atoms sram tokens
    rw [result] at stored
    have word := State.rawBytes_cache_stored stored
    have other {j : Nat} := State.byteAt_cache_other (j := j) stored
    rw [toBytesLE_length] at word other
    exact ⟨word, answers, fun j hj => other hj⟩

end Sys2Proof.Proofs
end

section
/-!
PROOFS. The states of a Xeunni port's training (R260), its ENABLE (R271, R273), and the statement O43.
-/
namespace Sys2Proof.Machine

theorem State.onlyFields.mono {s t : State} {ks ls : List Nat} (h : s.onlyFields t ks) (sub : ks ⊆ ls) : s.onlyFields t ls :=
  ⟨h.1, fun k d hk => h.2 k d fun hm => hk (sub hm)⟩

/-! ### A training state of a port finishes (R260) -/

/-- With no command in progress, no DOLDRUMS_EXIT ends. -/
theorem State.exitDone_idle {s : State} (h : s.cmds = []) : s.exitDone = s := by
  unfold State.exitDone
  split
  · rfl
  · rw [h]
    rfl

/-- A port that has gone DOWN shows state 0, its record raised, and no command waits for it. -/
theorem State.portDown_state {s : State} (h : s.cmds = []) (k kind : Nat) :
    (s.portDown k kind).cmds = [] ∧ (s.portDown k kind).get .XNI_PORT_STATUS_STATE k = 0 := by
  have cmds : ((s.put .XNI_PORT_STATUS_STATE k 0).eventFree ⟨5, 8, k, 9, 15, 0, kind, 0⟩).cmds = [] := (State.eventFree_only ..).keeps.2.1.trans h
  rw [State.portDown, State.endRetrain_idle cmds, State.eventFree_get _ _ ⟨by decide, by decide +kernel⟩, State.get_put_same]
  exact ⟨cmds, rfl⟩

/-- Register fields of a port that has become ACTIVE, but for the lanes that have a spare. -/
def portActive (far : XniNego) : List (Fld × Nat) := [(.XNI_PORT_STATUS_PEER_ID, far.id), (.XNI_PORT_STATUS_STATE, 7)]

section
variable {s : State} {k : Nat} (tr : PortTrain)

theorem portTraining_down (h : s.get .XNI_PORT_STATUS_STATE k = 0) : portTraining k tr s = s.startPort k := if_pos h

theorem portTraining_signal (h : s.get .XNI_PORT_STATUS_STATE k = 1) (signal : tr.signal = true) : portTraining k tr s = s.put .XNI_PORT_STATUS_STATE k 2 := by
  simp only [portTraining, h, signal, one_ne_zero, if_false, if_true]

theorem portTraining_silent (h : s.get .XNI_PORT_STATUS_STATE k = 1) (silent : tr.signal = false) : portTraining k tr s = s.portDown k 3 := by
  simp only [portTraining, h, silent, Bool.false_eq_true, one_ne_zero, if_false, if_true]

theorem portTraining_aligned (h : s.get .XNI_PORT_STATUS_STATE k = 2) : portTraining k tr s = s.put .XNI_PORT_STATUS_STATE k 3 := by
  simp only [portTraining, h, Nat.reduceEqDiff, OfNat.ofNat_ne_zero, if_false, if_true]

theorem portTraining_lanes (h : s.get .XNI_PORT_STATUS_STATE k = 3) :
    portTraining k tr s = (s.setXport k { s.xport k with bad := tr.bad }).put .XNI_PORT_STATUS_STATE k 4 := by
  simp only [portTraining, h, Nat.reduceEqDiff, OfNat.ofNat_ne_zero, if_false, if_true]

/-- With no failed lane, REPAIR has nothing to do. -/
theorem portTraining_whole (h : s.get .XNI_PORT_STATUS_STATE k = 4) (bad : (s.xport k).bad = []) : portTraining k tr s = s.put .XNI_PORT_STATUS_STATE k 5 := by
  have lanes : s.repairLanes k tr.farSpares = some s := by
    rw [State.repairLanes, bad]
    rfl
  simp only [portTraining, h, lanes, Nat.reduceEqDiff, OfNat.ofNat_ne_zero, if_false, if_true]

theorem portTraining_delay (h : s.get .XNI_PORT_STATUS_STATE k = 5) :
    portTraining k tr s = (s.put .XNI_PORT_DELAY_DELAY k tr.delay).put .XNI_PORT_STATUS_STATE k 6 := by
  simp only [portTraining, h, Nat.reduceEqDiff, OfNat.ofNat_ne_zero, if_false, if_true]

theorem portTraining_negotiate (h : s.get .XNI_PORT_STATUS_STATE k = 6) : portTraining k tr s =
    if tr.far.version ≠ 1 then s.portDown k 4 else if tr.far.id = s.moduleId then s.portDown k 3
    else (State.showSpares k (s.puts k (portActive tr.far))).endRetrain 2 k 1 7 := by
  simp only [portTraining, h, Nat.reduceEqDiff, OfNat.ofNat_ne_zero, if_false, if_true]
  rfl

theorem portTraining_refused (h : s.get .XNI_PORT_STATUS_STATE k = 6) (refused : tr.far.version ≠ 1 ∨ tr.far.id = s.moduleId) :
    ∃ kind, portTraining k tr s = s.portDown k kind := by
  rw [portTraining_negotiate tr h]
  by_cases version : tr.far.version = 1
  · exact ⟨3, (if_neg (not_not.2 version)).trans (if_pos (refused.resolve_left (not_not.2 version)))⟩
  · exact ⟨4, if_pos version⟩

theorem portTraining_active (h : s.get .XNI_PORT_STATUS_STATE k = 7) : portTraining k tr s = s := by
  simp only [portTraining, h, Nat.reduceEqDiff, OfNat.ofNat_ne_zero, if_false]

theorem State.portActive_only (far : XniNego) : s.onlyFields (State.showSpares k (s.puts k (portActive far)))
    [Fld.XNI_PORT_STATUS_STATE.key k, Fld.XNI_PORT_STATUS_PEER_ID.key k, Fld.XNI_PORT_STATUS_SPARES.key k] :=
  ((s.onlyFields_puts k (portActive far)).trans (State.onlyFields_put ..)).mono (by simp [portActive])

theorem State.portActive_get (far : XniNego) : let t := State.showSpares k (s.puts k (portActive far))
    t.get .XNI_PORT_STATUS_STATE k = 7 ∧ t.get .XNI_PORT_STATUS_PEER_ID k = far.id % 2048 := by
  constructor <;> simp (disch := decide) only [State.showSpares, portActive, State.puts_cons, State.puts_nil, State.get_put_of_id, State.get_put_same] <;> rfl

theorem portTraining_accepted (hc : s.cmds = []) (h : s.get .XNI_PORT_STATUS_STATE k = 6) (version : tr.far.version = 1) (peer : tr.far.id ≠ s.moduleId) :
    portTraining k tr s = State.showSpares k (s.puts k (portActive tr.far)) := by
  rw [portTraining_negotiate tr h, if_neg (not_not.2 version), if_neg peer]
  exact State.endRetrain_idle ((State.portActive_only tr.far).cmds.trans hc) ..

end

/-! ### A write of XNI_PORT_CTL (R271, R273) -/

/-- A state in which ENABLE of a port is written, and what was in force still is. -/
structure State.Enables (s t : State) (k : Nat) (en : Bool) : Prop where
  written : t.get .XNI_PORT_CTL_ENABLE k = Bool.bit en
  kept : t.inForce .XNI_PORT_CTL_ENABLE k = s.inForce .XNI_PORT_CTL_ENABLE k
  frame : t = { s with flds := t.flds, eff := t.eff }
  fields : s.fieldsKept t [Fld.XNI_PORT_CTL_ENABLE.key k]

theorem State.Enables.refl {s : State} {k : Nat} {en : Bool} (h : s.get .XNI_PORT_CTL_ENABLE k = Bool.bit en) : s.Enables s k en :=
  ⟨h, rfl, rfl, fun _ _ _ => rfl⟩

theorem State.putLater_enables (s : State) (k : Nat) (en : Bool) : s.Enables (s.putLater .XNI_PORT_CTL_ENABLE k (Bool.bit en)) k en where
  written := by
    rw [State.get_putLater_same]
    cases en <;> rfl
  kept := s.inForce_putLater_same _
  frame := rfl
  fields key d other := s.flds_putLater_other _ _ _ fun same => other (List.mem_singleton.2 same)

/-- Other ports whose ENABLE is set. -/
def State.othersEnabled (s : State) (k : Nat) : Nat := ((List.range 16).filter fun j => j != k && s.on .XNI_PORT_CTL_ENABLE j).length

/-- A fifth port enabled without the pod licence. -/
def State.unlicensed (s : State) (k v : Nat) : Prop :=
  bitOf v 0 = true ∧ s.on .XNI_PORT_CTL_ENABLE k = false ∧ bitOf (s.get .LIC_STATE_IN_FORCE 0) 1 = false ∧ 4 ≤ s.othersEnabled k

section
variable {s : State} {k v : Nat} (still : bitOf v 1 = false)
include still

theorem portCtlWrite_unlicensed (h : s.unlicensed k v) : portCtlWrite k v s = s.put .XNI_STATS_LIC_REFUSED 0 1 := by
  obtain ⟨on, off, licence, fifth⟩ := h
  have refused : Bool.bit (bitOf v 0) = 1 ∧ (!s.on .XNI_PORT_CTL_ENABLE k) = true ∧ (!bitOf (s.get .LIC_STATE_IN_FORCE 0) 1) = true ∧
      ((List.range 16).filter fun j => j != k && s.on .XNI_PORT_CTL_ENABLE j).length ≥ 4 := by
    rw [on, off, licence]
    exact ⟨rfl, rfl, rfl, fifth⟩
  unfold portCtlWrite
  dsimp only
  rw [still, if_pos refused]
  rfl

theorem portCtlWrite_enables (h : ¬s.unlicensed k v) : s.Enables (portCtlWrite k v s) k (bitOf v 0) := by
  have allowed : ¬(Bool.bit (bitOf v 0) = 1 ∧ (!s.on .XNI_PORT_CTL_ENABLE k) = true ∧ (!bitOf (s.get .LIC_STATE_IN_FORCE 0) 1) = true ∧
      ((List.range 16).filter fun j => j != k && s.on .XNI_PORT_CTL_ENABLE j).length ≥ 4) := by
    rintro ⟨on, off, licence, fifth⟩
    rw [Bool.not_eq_true'] at off licence
    refine h ⟨?_, off, licence, fifth⟩
    cases hb : bitOf v 0
    · rw [hb] at on
      cases on
    · rfl
  unfold portCtlWrite
  dsimp only
  rw [still, if_neg allowed, if_neg Bool.false_ne_true]
  split
  · next same => exact .refl same
  · exact s.putLater_enables k _

end

end Sys2Proof.Machine

namespace Sys2Proof.Proofs
open Sys2Proof Sys2Proof.Machine

/-- Settles O43: each state of a training leads to the next, with no command that waits for it, and a write of ENABLE is refused for want of the licence or
kept beside what is in force. -/
theorem portsTrain : Obligations.PortsTrain := by
  intro k s hc cmds st
  refine ⟨fun tr => ?_, fun v => ?_⟩
  · have train {t : State} (h : portTraining k.val tr s = t) (idle : t.cmds = []) : exec (.portTrainingState k tr) s = .next t := by
      have step : exec (.portTrainingState k tr) s = .next (portTraining k.val tr s).exitDone := congrArg _ (State.whenClocked_on _ hc)
      rw [step, h, State.exitDone_idle idle]
    have down {kind : Nat} (h : portTraining k.val tr s = s.portDown k.val kind) :
        ∃ t, exec (.portTrainingState k tr) s = .next t ∧ t.get .XNI_PORT_STATUS_STATE k.val = 0 :=
      ⟨_, train h (State.portDown_state cmds ..).1, (State.portDown_state cmds ..).2⟩
    refine ⟨fun h no => ?_, fun h may => ?_, fun h => ?_, fun h silent => down (portTraining_silent tr h silent), fun h => train (portTraining_lanes tr h) cmds,
      fun h bad => train (portTraining_whole tr h bad) cmds, fun h => train (portTraining_delay tr h) cmds, fun h version peer => ?_, fun h refused => ?_,
      fun h => train (portTraining_active tr h) cmds⟩
    · exact train ((portTraining_down tr h).trans (State.startPort_mayNot no)) cmds
    · exact ⟨_, train (portTraining_down tr h) ((State.startPort_only may).cmds.trans cmds), State.startPort_state may⟩
    · rcases h with ⟨h, signal⟩ | h
      · rw [h]
        exact train (portTraining_signal tr h signal) cmds
      · rw [h]
        exact train (portTraining_aligned tr h) cmds
    · have only := State.portActive_only (s := s) (k := k.val) tr.far
      obtain ⟨state, id⟩ := State.portActive_get (s := s) (k := k.val) tr.far
      exact ⟨_, train (portTraining_accepted tr cmds h version peer) (only.cmds.trans cmds), state, id, only⟩
    · obtain ⟨kind, refuses⟩ := portTraining_refused tr h refused
      exact down refuses
  · intro others still
    have step : exec (.xniPortEnable k v) s = .next (portCtlWrite k.val v.toNat s) := congrArg _ (State.whenClocked_on _ hc)
    refine ⟨fun on off licence fifth => step.trans (congrArg _ (portCtlWrite_unlicensed still ⟨on, off, licence, fifth⟩)), fun allowed => ?_⟩
    have licensed : ¬s.unlicensed k.val v.toNat := by
      rintro ⟨on, off, licence, fifth⟩
      rcases allowed with h | h | h | h
      · exact Bool.false_ne_true (h.symm.trans on)
      · exact Bool.false_ne_true (off.symm.trans h)
      · exact absurd fifth (Nat.not_le.2 h)
      · exact Bool.false_ne_true (licence.symm.trans h)
    obtain ⟨written, kept, frame, fields⟩ := portCtlWrite_enables still licensed
    exact ⟨_, step, written, kept, frame, fields⟩

end Sys2Proof.Proofs
end

section
/-!
PROOFS. Mailbox writes, their acknowledgements and time-outs, commit and release notices (R264 to R268), and the statement O44.
-/
namespace Sys2Proof.Machine

/-! ### A store in the shared cache without errors -/

/-- Bytes that stand in the shared cache from an offset on. -/
def State.cacheStored (s : State) (off : Nat) (bs : List Byte) : State := { s with mem := SMap.setList 0 s.mem (0x40000000000 + off) bs }

theorem State.rawBytes_cacheStored (s : State) (off : Nat) (bs : List Byte) : (s.cacheStored off bs).rawBytes .cache off bs.length = bs :=
  State.rawBytes_cache_stored (s := s) fun _ => rfl

theorem State.rawWrite_cache (s : State) (off : Nat) (bs : List Byte) : s.rawWrite .cache off bs = s.cacheStored off bs := by
  rw [State.cacheStored, ← s.rawWrite_cache_mem off bs]
  rfl

theorem State.store_cache {s : State} (sram : s.sram = []) (off : Nat) (bs : List Byte) : (s.store .cache off bs).1 = s.cacheStored off bs := by
  rw [← s.rawWrite_cache off bs]
  cases bs with
  | nil => rfl
  | cons b r => rw [State.store_clean .cache off (List.cons_ne_nil b r) (List.isEmpty_iff.2 sram)]

/-! ### A packet sent (R265) -/

theorem State.SendsOnly.idle {s t : State} (h : s.SendsOnly t) : t.atomHeld = s.atomHeld ∧ t.netCores = s.netCores ∧ t.mem = s.mem := by
  rw [h]
  exact ⟨rfl, rfl, rfl⟩

theorem State.xniSend_sendsOnly (s : State) (dest hops : Nat) (pkt : XniPacket) : s.SendsOnly (s.xniSend dest hops pkt) := by
  unfold State.xniSend
  split
  · split <;> rfl
  · rfl

/-- A packet of this module leaves by the port that routes to its destination. -/
theorem State.xniSend_out {s : State} {dest r : Nat} (route : s.routePort dest = some r) (pkt : XniPacket) :
    (s.xniSend dest 0 pkt).xniOut = ⟨r, (s.xport r).tx, ((s.xport r).rx + 4095) % 4096, false, some (dest, 1, pkt)⟩ :: s.xniOut := by
  rw [State.xniSend, route]
  rfl

/-! ### A mailbox write arrives (R267, R268) -/

/-- Where a write falls in the slot of its step. -/
def Mbox.slotAt (m : Mbox) (pkt : MboxPkt) : Nat := m.slot0 + pkt.step % 2 * m.slotBytes + pkt.offset

/-- A valid mailbox of the peer and step that a write names, in whose slot the write lies. -/
structure Mbox.Takes (m : Mbox) (pkt : MboxPkt) : Prop where
  valid : m.valid = true
  peerModule : m.peerModule = pkt.srcModule
  peerPart : m.peerPart = pkt.srcPart
  fits : pkt.offset + pkt.data.length ≤ m.slotBytes
  step : m.step ≤ pkt.step

/-- A partition that exists and is not under reset. -/
def State.present (s : State) (p : Nat) : Prop := s.get .PART_STATUS_STATE p ≠ 0 ∧ s.get .PART_STATUS_STATE p ≠ 3

section
variable {s u : State} {pkt : MboxPkt} {m : Mbox}

theorem State.mboxStore_taken (present : s.present pkt.part.val) (held : s.mbox pkt.part.val pkt.mbox = (some m, s)) (takes : m.Takes pkt)
    (inside : s.inRegion pkt.part.val (m.slotAt pkt) pkt.data.length = true) (sram : s.sram = []) :
    s.mboxStore pkt = (s.cacheStored (m.slotAt pkt) pkt.data, stOk) := by
  have met : (m.valid && m.peerModule == pkt.srcModule && m.peerPart == pkt.srcPart && pkt.offset + pkt.data.length ≤ m.slotBytes && m.step ≤ pkt.step &&
      s.inRegion pkt.part.val (m.slotAt pkt) pkt.data.length) = true := by
    simp [takes.valid, takes.peerModule, takes.peerPart, takes.fits, takes.step, inside]
  unfold State.mboxStore
  dsimp only
  rw [if_neg present.1, if_neg present.2, held]
  exact (if_pos met).trans (congrArg (·, stOk) (State.store_cache sram ..))

/-- A write of another module that its regulator lets through is stored, and its acknowledgement is sent. -/
theorem State.mboxArrive_stored (atoms : s.atomHeld = []) (ports : s.netCores = []) (sram : s.sram = []) (foreign : pkt.srcModule ≠ s.moduleId)
    (present : s.present pkt.part.val) (granted : s.grant pkt.part.val [] [resCache] pkt.data.length = (some u, u))
    (held : u.mbox pkt.part.val pkt.mbox = (some m, u)) (takes : m.Takes pkt) (inside : u.inRegion pkt.part.val (m.slotAt pkt) pkt.data.length = true) :
    s.mboxArrive pkt = (u.cacheStored (m.slotAt pkt) pkt.data).xniSend pkt.srcModule 0 (.ack pkt.engine stOk) := by
  have accounts := State.grant_eq granted
  have answered : s.mboxArrive pkt = ((u.cacheStored (m.slotAt pkt) pkt.data).xniSend pkt.srcModule 0 (.ack pkt.engine stOk)).settle := by
    have stored : u.mboxStore pkt = (u.cacheStored (m.slotAt pkt) pkt.data, stOk) :=
      State.mboxStore_taken (by rw [accounts]; exact present) held takes inside (by rw [accounts]; exact sram)
    have other : pkt.srcModule ≠ (u.cacheStored (m.slotAt pkt) pkt.data).moduleId := by
      rw [accounts]
      exact foreign
    simp only [State.mboxArrive, granted, stored, if_neg other]
  obtain ⟨sameAtoms, samePorts, -⟩ := ((u.cacheStored (m.slotAt pkt) pkt.data).xniSend_sendsOnly pkt.srcModule 0 (.ack pkt.engine stOk)).idle
  rw [answered]
  refine State.settle_free (sameAtoms.trans ?_) (samePorts.trans ?_) <;> rw [accounts]
  · exact atoms
  · exact ports

end

/-! ### An acknowledgement (R268, R305) -/

/-- A descriptor in progress one of whose writes is refused with a status. -/
def DmaCur.refusedBy (d : DmaCur) (status : Nat) : DmaCur := { d with acks := d.acks - 1, result := some (d.result.getD status) }

/-- An engine with a descriptor one of whose writes is refused, its partition marked. -/
def State.writeRefused (s : State) (e : Nat) (d : DmaCur) : State :=
  (s.setEngine e { s.engine e with cur := some d }).modPart (s.get .DMA_CH_CTL_PARTITION e) fun x => { x with refused := true }

section
variable {s : State} {e status : Nat}

theorem State.ackTaken_none (h : s.xniWait = []) : s.ackTaken e = s := by rw [State.ackTaken, h]; rfl

variable (wait : s.xniWait = [])
include wait

theorem State.ackWrite_idle (idle : (s.engine e).cur = none) : s.ackWrite e status = s := by
  rw [State.ackWrite, State.ackTaken_none wait]
  dsimp only
  rw [idle]

variable {d : DmaCur} (busy : (s.engine e).cur = some d) (awaited : 0 < d.acks)
include busy awaited

theorem State.ackWrite_ok : s.ackWrite e stOk = s.setEngine e { s.engine e with cur := some { d with acks := d.acks - 1, result := d.result } } := by
  rw [State.ackWrite, State.ackTaken_none wait]
  simp only [busy, Nat.ne_of_gt awaited, if_false, if_true]

/-- A refused write marks its descriptor and its partition, and raises a record. -/
theorem State.ackWrite_refused (refused : status ≠ stOk) (owned : s.get .DMA_CH_CTL_PARTITION e < 12) :
    ∃ r, s.ackWrite e status = (s.writeRefused e (d.refusedBy status)).event r := by
  have p12 : (s.setEngine e { s.engine e with cur := some (d.refusedBy status) }).get .DMA_CH_CTL_PARTITION e < 12 := owned
  rw [State.ackWrite, State.ackTaken_none wait]
  simp only [busy, Nat.ne_of_gt awaited, if_neg refused, if_false]
  rw [← DmaCur.refusedBy, if_pos p12]
  exact ⟨_, rfl⟩

end

theorem State.event_engine (s : State) (r : Rec) (e : Nat) : (s.event r).engine e = s.engine e := by
  rw [s.event_only r]
  rfl

theorem State.event_part (s : State) (r : Rec) (p : Nat) : (s.event r).part p = s.part p := by
  rw [s.event_only r]
  rfl

theorem State.event_xniWait (s : State) (r : Rec) : (s.event r).xniWait = s.xniWait := by rw [s.event_only r]

theorem State.writeRefused_effect (s : State) (e : Nat) (d : DmaCur) (r : Rec) :
    (((s.writeRefused e d).event r).engine e).cur = some d ∧ (((s.writeRefused e d).event r).part (s.get .DMA_CH_CTL_PARTITION e)).refused = true := by
  rw [State.event_engine, State.event_part]
  exact ⟨congrArg DmaEng.cur (s.engine_set_same e { s.engine e with cur := some d }), congrArg Part.refused (State.part_set_same ..)⟩

/-! ### A time-out (R264, R308) -/

/-- A write that is lost changes its engine alone. -/
theorem State.writeLost_frame (s : State) (e st : Nat) : s.writeLost e st = { s with engines := (s.writeLost e st).engines } := by
  unfold State.writeLost
  split <;> rfl

theorem mailboxTimeout_none {s : State} {e : Nat} (h : s.xniWait = []) : mailboxTimeout e s = s := by
  rw [mailboxTimeout, h]
  rfl

/-- The one write that is awaited times out: it is lost, its partition is flagged, and a record is raised. -/
theorem mailboxTimeout_one {s : State} {e k : Nat} (h : s.xniWait = [(e, k)]) : ∃ r, mailboxTimeout e s =
    ((State.writeLost { s with xniWait := [] } e stUncorrectable).flagPart (s.get .DMA_CH_CTL_PARTITION e) 5 stUncorrectable).event r := by
  simp only [mailboxTimeout, h, List.find?_cons, beq_self_eq_true, List.erase_cons_head]
  exact ⟨_, rfl⟩

theorem mailboxTimeout_flags {s : State} {e k : Nat} (h : s.xniWait = [(e, k)]) (owned : s.get .DMA_CH_CTL_PARTITION e < 12) :
    (mailboxTimeout e s).xniWait = [] ∧ ((mailboxTimeout e s).part (s.get .DMA_CH_CTL_PARTITION e)).flag =
      some ((s.part (s.get .DMA_CH_CTL_PARTITION e)).flag.getD (5, stUncorrectable)) := by
  obtain ⟨r, timeout⟩ := mailboxTimeout_one h
  have lost := State.writeLost_frame { s with xniWait := [] } e stUncorrectable
  have same (p : Nat) : (State.writeLost { s with xniWait := [] } e stUncorrectable).part p = s.part p := by
    rw [lost]
    rfl
  rw [timeout, State.event_xniWait, State.event_part, State.flagPart_same _ _ _ owned, same]
  refine ⟨?_, rfl⟩
  rw [State.flagPart_eq, lost]

/-! ### Notices (R268, R272) -/

section
variable {s : State} {p n src sp step : Nat}

theorem State.absent_iff : ¬s.present p ↔ s.get .PART_STATUS_STATE p = 0 ∨ s.get .PART_STATUS_STATE p = 3 := by
  rw [State.present, not_and_or, not_not, not_not]

theorem State.commitNotice_absent (h : ¬s.present p) : s.commitNotice p n src sp step = s := if_pos (State.absent_iff.1 h)

theorem State.releaseNotice_absent (h : ¬s.present p) : s.releaseNotice p n step = s := if_pos (State.absent_iff.1 h)

/-- Whether a notice of a peer advances a valid mailbox. -/
def Mbox.Advances (m : Mbox) (src sp step : Nat) : Prop := m.valid = true ∧ m.peerModule = src ∧ m.peerPart = sp ∧ m.step < step

variable (present : s.present p)
include present

theorem State.commitNotice_present {m : Mbox} (held : s.mbox p n = (some m, s)) : s.commitNotice p n src sp step =
    if m.valid && m.peerModule == src && m.peerPart == sp && m.step < step then
      ((s.store .cache (s.mboxAt p n + 16) (toBytesLE 8 (step % 2 ^ 48))).1).settle else s := by
  rw [State.commitNotice, if_neg (not_or.2 present), held]

theorem State.commitNotice_kept {m : Mbox} (held : s.mbox p n = (some m, s)) (h : ¬m.Advances src sp step) : s.commitNotice p n src sp step = s := by
  rw [State.commitNotice_present present held]
  exact if_neg fun met => h (by simpa [Mbox.Advances, and_assoc] using met)

/-- A notice that advances its mailbox stores its step there. -/
theorem State.commitNotice_stored {m : Mbox} (held : s.mbox p n = (some m, s)) (h : m.Advances src sp step) (atoms : s.atomHeld = []) (ports : s.netCores = [])
    (sram : s.sram = []) : s.commitNotice p n src sp step = s.cacheStored (s.mboxAt p n + 16) (toBytesLE 8 (step % 2 ^ 48)) := by
  have met : (m.valid && m.peerModule == src && m.peerPart == sp && m.step < step) = true := by simpa [Mbox.Advances, and_assoc] using h
  rw [State.commitNotice_present present held, if_pos met, State.store_cache sram]
  exact State.settle_free atoms ports

/-- A release notice that lets no held write go raises the step released. -/
theorem State.releaseNotice_raises (unheld : s.xniHeld = []) :
    s.releaseNotice p n step = s.raise .XNI_OUTBOX_REL_RELEASED (ix2 64 p n) (step % 2 ^ 48) := by
  have idle : (s.raise .XNI_OUTBOX_REL_RELEASED (ix2 64 p n) (step % 2 ^ 48)).xniHeld = [] := by
    unfold State.raise
    split <;> exact unheld
  rw [State.releaseNotice, if_neg (not_or.2 present), State.releaseHeld, idle]
  exact congrArg (fun l => { s.raise .XNI_OUTBOX_REL_RELEASED (ix2 64 p n) (step % 2 ^ 48) with xniHeld := l }) idle.symm

end

theorem State.get_raise (s : State) {f : Fld} (i : Nat) {v : Nat} (fits : v < 2 ^ f.width) : (s.raise f i v).get f i = max (s.get f i) v := by
  unfold State.raise
  split
  · next less => rw [State.get_put_same, Nat.mod_eq_of_lt fits, Nat.max_eq_right less.le]
  · next more => rw [Nat.max_eq_left (Nat.not_lt.1 more)]

theorem State.onlyFields_raise (s : State) (f : Fld) (i v : Nat) : s.onlyFields (s.raise f i v) [f.key i] := by
  unfold State.raise
  split
  · exact s.onlyFields_put ..
  · exact ⟨rfl, fun _ _ _ => rfl⟩

end Sys2Proof.Machine

namespace Sys2Proof.Proofs
open Sys2Proof Sys2Proof.Machine

/-- Settles O44: a write that arrives is stored before its acknowledgement is sent, an acknowledgement and a time-out change the engine and the partition that
own the write, and a notice raises the step that it names. -/
theorem mailboxesArrive : Obligations.MailboxesArrive := by
  refine ⟨?writes, ?acks, ?timeouts, ?notices⟩
  case writes =>
    intro k pkt m s u p a hc atoms ports _ _ sram
    have step : exec (.mailboxWrite k pkt) s = .next (if s.portUp k.val then s.mboxArrive pkt else s) := congrArg _ (State.whenClocked_on _ hc)
    refine ⟨fun down => step.trans (by rw [down]; rfl), fun up foreign granted held created steady valid peer part fits order inside _ => ?_⟩
    have accounts := State.grant_eq granted
    have arrives := State.mboxArrive_stored atoms ports sram foreign ⟨created, steady⟩ granted held ⟨valid, peer, part, fits, order⟩ inside
    rw [if_pos up, arrives] at step
    have mem : (u.cacheStored (m.slotAt pkt) pkt.data).mem = SMap.setList 0 s.mem (0x40000000000 + a) pkt.data := by
      rw [accounts]
      rfl
    obtain ⟨-, -, sent⟩ := ((u.cacheStored (m.slotAt pkt) pkt.data).xniSend_sendsOnly pkt.srcModule 0 (.ack pkt.engine stOk)).idle
    have stored (j : Nat) := congrArg (SMap.get · j 0) (sent.trans mem)
    refine ⟨_, step, State.rawBytes_cache_stored stored, fun j other => State.byteAt_cache_other stored other, fun r route => ?_⟩
    have same : (u.cacheStored (m.slotAt pkt) pkt.data).routePort pkt.srcModule = some r := by
      rw [accounts]
      exact route
    rw [State.xniSend_out same, accounts]
    rfl
  case acks =>
    intro e status s hc wait
    have step : exec (.mailboxAck e status) s = .next (s.ackWrite e.val status) := congrArg _ (State.whenClocked_on _ hc)
    have timeout : exec (.mailboxTimeout e) s = .next (mailboxTimeout e.val s) := congrArg _ (State.whenClocked_on _ hc)
    refine ⟨fun idle => ?_, fun d busy awaited => ⟨fun ok => ?_, fun refused owned => ?_⟩, ?_⟩
    · rw [step, State.ackWrite_idle wait idle]
    · rw [step, ok, State.ackWrite_ok wait busy awaited]
    · obtain ⟨r, refuses⟩ := State.ackWrite_refused wait busy awaited refused owned
      rw [refuses] at step
      exact ⟨_, step, s.writeRefused_effect ..⟩
    · rw [timeout, mailboxTimeout_none wait]
  case timeouts =>
    intro e k s p hc wait owned
    have step : exec (.mailboxTimeout e) s = .next (mailboxTimeout e.val s) := congrArg _ (State.whenClocked_on _ hc)
    exact ⟨_, step, mailboxTimeout_flags wait owned⟩
  case notices =>
    intro p mb n src step sp s hc atoms ports _ _ sram
    have commit : exec (.commitNotice p mb src sp step) s = .next (s.commitNotice p.val mb.val src sp.val step) := congrArg _ (State.whenClocked_on _ hc)
    have release : exec (.releaseNotice p n step) s = .next (s.releaseNotice p.val n.val step) := congrArg _ (State.whenClocked_on _ hc)
    refine ⟨fun h => ?_, fun created steady => ⟨fun m held => ⟨fun valid peer part less => ?_, fun h => ?_⟩, fun unheld => ?_⟩⟩
    · have absent := State.absent_iff.2 h
      rw [commit, release, State.commitNotice_absent absent, State.releaseNotice_absent absent]
      exact ⟨rfl, rfl⟩
    · rw [State.commitNotice_stored ⟨created, steady⟩ held ⟨valid, peer, part, less⟩ atoms ports sram] at commit
      have bytes := s.rawBytes_cacheStored (s.mboxAt p.val mb.val + 16) (toBytesLE 8 (step % 2 ^ 48))
      rw [toBytesLE_length] at bytes
      exact ⟨_, commit, bytes⟩
    · rw [commit, State.commitNotice_kept ⟨created, steady⟩ held h]
    · rw [State.releaseNotice_raises ⟨created, steady⟩ unheld] at release
      exact ⟨_, release, s.get_raise _ (Nat.mod_lt _ (by decide)), s.onlyFields_raise ..⟩

end Sys2Proof.Proofs
end

section
/-!
PROOFS. Which terms stand for commands, and what a step does with the first that waits: the statements O1 and O2.
-/
namespace Sys2Proof.Machine

/-! ### Terms that stand for commands -/

/-- What O2 says of a term: it has an effect where it stands for a command (`formed`), and is a fault where it stands for none. -/
def RunsIfFormed (formed : Bool) (o : Host.Outcome State Fault Refusal) : Prop :=
  (formed = true → ∃ t, o = .next t) ∧ (formed = false → o = .fault .illFormed)

/-- A row whose terms are all commands. -/
theorem runsIfFormed_always (t : State) : RunsIfFormed true (.next t) := ⟨fun _ => ⟨t, rfl⟩, fun h => nomatch h⟩

/-- A row whose terms are commands where a test passes. -/
theorem runsIfFormed_test {c : Prop} [Decidable c] {formed : Bool} (h : formed = true ↔ c) (t : State) :
    RunsIfFormed formed (if c then .next t else .fault .illFormed) := by
  refine ⟨fun f => ⟨t, if_pos (h.1 f)⟩, fun f => if_neg fun k => ?_⟩
  rw [h.2 k] at f
  cases f

/-- A row whose words name their operation in a field. -/
theorem runsIfFormed_field (x n : Nat) (t : State) : RunsIfFormed (x == n) (if x = n then .next t else .fault .illFormed) := runsIfFormed_test beq_iff_eq t

theorem runsIfFormed_decide (c : Prop) [Decidable c] (t : State) : RunsIfFormed (decide c) (if c then .next t else .fault .illFormed) :=
  runsIfFormed_test decide_eq_true_iff t

/-- A row whose terms are no commands where a test passes. -/
theorem runsIfFormed_unless {c : Prop} [Decidable c] {formed : Bool} (h : formed = false ↔ c) (t : State) :
    RunsIfFormed formed (if c then .fault .illFormed else .next t) := by
  refine ⟨fun f => ⟨t, if_neg fun k => ?_⟩, fun f => if_pos (h.1 f)⟩
  rw [h.2 k] at f
  cases f

/-- A field of two bits: of the values that a row takes, those it leaves are the other two. -/
theorem scope_other (p0 : Word) : (fieldOf p0 5 4 == 1 || fieldOf p0 5 4 == 2) = false ↔ fieldOf p0 5 4 = 0 ∨ fieldOf p0 5 4 = 3 := by
  have lt : fieldOf p0 5 4 < 4 := Nat.mod_lt _ (by decide)
  generalize fieldOf p0 5 4 = x at lt
  rw [Bool.or_eq_false_iff, beq_eq_false_iff_ne, beq_eq_false_iff_ne]
  omega

theorem execClearTrip_next {p0 : Word} (q : Req) (s : State) (h : flagOf p0 32 = true) : ∃ t, execClearTrip q p0 s = .next t := by
  unfold execClearTrip
  rw [h]
  split
  · next c => cases c
  · split <;> exact ⟨_, rfl⟩

theorem exec_runsIfFormed (i : Instr) (s : State) : RunsIfFormed i.wellFormed (exec i s) := by
  cases i with
  | powerState q p0 => 
    refine runsIfFormed_unless ?_ _
    show (fieldOf p0 5 4 != 1 && fieldOf p0 5 4 != 2) = false ↔ _
    rw [Bool.and_eq_false_iff, bne_eq_false_iff_eq, bne_eq_false_iff_eq]
  | diePowerState q p0 => exact runsIfFormed_unless (scope_other p0) _
  | thermLimitSet q p0 => exact runsIfFormed_unless (iff_of_eq (Bool.not_eq_false' _)) _
  | clearTrip q p0 =>
    refine ⟨execClearTrip_next q s, fun f => if_pos (by rw [show flagOf p0 32 = false from f]; rfl)⟩
  | windowRead f off n => exact runsIfFormed_decide _ _
  | windowWrite f off bytes => exact runsIfFormed_decide _ _
  | peatMapWrite n v => exact runsIfFormed_decide _ _
  | hostLinkUp width speed form => exact runsIfFormed_test Iff.rfl _
  | sensorSample k n t => 
    refine runsIfFormed_unless ?_ _
    exact decide_eq_false_iff_not.trans Nat.not_lt
  | regAccess v wr off =>
    show RunsIfFormed (tapReg off).isSome (execRegAccess v wr off s)
    unfold execRegAccess
    cases tapReg off with
    | none => exact ⟨fun f => (nomatch f), fun _ => rfl⟩
    | some r => exact runsIfFormed_always _
  | zynFlitReceive u dir fl => cases u <;> exact runsIfFormed_always _
  | linkTrainingState u bad far => cases u <;> exact runsIfFormed_always _
  | inputBackWithinRange =>
    show RunsIfFormed true (execInputBackWithinRange s)
    unfold execInputBackWithinRange
    split <;> exact runsIfFormed_always _
  | pass | elementwise | drain => exact runsIfFormed_field _ _ _
  | vld | vst | vdrain | vadd | vsub | vmul | vfma | vmax | vmin | vmuls | vadds | vcmpgt | vsel | viota | vrnd | vexp2 | vrcp | vrsqrt | vlogi | vrsum | vrmax
  | vprefix | vfirst | vlast | tclr | tfeed | tfeedx | tread | vrand => exact runsIfFormed_field _ _ _
  | matvec | bcast | gather | copy | copyX | init | logic | latch | popc | popcAnd => exact runsIfFormed_field _ _ _
  | forward | backward => exact runsIfFormed_field _ _ _
  | append | length | touch => exact runsIfFormed_field _ _ _
  | netRead | netWrite | netAtomic | netContrib | netFence | netWait => exact runsIfFormed_field _ _ _
  | dmaCopy | dmaSplit | dmaMerge | dmaFill | dmaContrib | dmaAtomic => exact runsIfFormed_field _ _ _
  | _ => exact runsIfFormed_always _

end Sys2Proof.Machine

namespace Sys2Proof.Proofs
open Sys2Proof Sys2Proof.Machine

/-- Settles O1: a step is `exec` on the rest of the queue, and the table has no words. -/
theorem stepRunsFrontCommand : Obligations.StepRunsFrontCommand := by
  intro s
  refine ⟨fun c rest h => ?_, fun h => ?_, fun _ _ => ⟨rfl, rfl⟩⟩
  · rw [step, h]
  · rw [step, h]

/-- Settles O2: each row's test of its terms is the one that `wellFormed` states. -/
theorem formedCommandsRun : Obligations.FormedCommandsRun := exec_runsIfFormed

end Sys2Proof.Proofs
end

section
/-!
PROOFS. What every host command does before it runs (R276, R286, R292, R298, R317, R327, R367): the statements O5 to O8.
-/
namespace Sys2Proof.Machine

section
variable {i : Instr} {op : HostOp} {q : Req} {ps : List Word} {s : State}

/-- While the clocks run, every command of R289 goes through the one wrapper. -/
theorem exec_hostCommand (h : i.hostCommand = some (op, q, ps)) (formed : i.wellFormed = true) (clocked : s.clocked = true) :
    ∃ chk run, exec i s = hostRow op q ps chk run s := by
  cases i
  case powerState r p0 =>
    cases h
    have other : ¬(fieldOf p0 5 4 = 1 ∨ fieldOf p0 5 4 = 2) := by simpa [Instr.wellFormed] using formed
    exact ⟨_, _, if_neg other⟩
  case diePowerState r p0 =>
    cases h
    have other : ¬(fieldOf p0 5 4 = 0 ∨ fieldOf p0 5 4 = 3) := by
      have : fieldOf p0 5 4 = 1 ∨ fieldOf p0 5 4 = 2 := by simpa [Instr.wellFormed] using formed
      omega
    exact ⟨_, _, if_neg other⟩
  case thermLimitSet r p0 =>
    cases h
    have other : ¬flagOf p0 32 = true := by simpa [Instr.wellFormed] using formed
    exact ⟨_, _, if_neg other⟩
  case clearTrip r p0 =>
    cases h
    have flag : ¬(!flagOf p0 32) = true := by simpa [Instr.wellFormed] using formed
    have powered : ¬(s.tripped ∧ s.always.shut = 1) := by
      have : s.always.shut = 0 := by simp [State.clocked] at clocked; exact clocked.1.1
      omega
    exact ⟨_, _, (if_neg flag).trans (if_neg powered)⟩
  all_goals cases h <;> exact ⟨_, _, rfl⟩

theorem hostCommand_code (h : i.hostCommand = some (op, q, ps)) : op.code < 256 := by
  cases i <;> cases h <;> decide

/-- The REASON codes of the header checks (R298). -/
theorem State.packetReason_lt : s.packetReason op q ps < 256 := by
  unfold State.packetReason
  dsimp only
  split_ifs <;> decide

/-! ### Checks of the header by issuer (R276, R289) -/

/-- A VF does not send the PF's commands. -/
theorem State.packetReason_issuer (vf : s.get .HST_RING_CTL_OWNER q.ring.val ≠ 0) (clear : reservedSet ps op.masks = false)
    (inRange : ¬(12 ≤ q.part.val ∧ q.part.val ≤ 14)) (pf : op.scope = .pf ∨ op.scope = .pfModule) : s.packetReason op q ps = 4 := by
  simp [State.packetReason, clear, inRange, vf, pf]

/-- A VF sends commands for its own partition only. -/
theorem State.packetReason_foreign (vf : s.get .HST_RING_CTL_OWNER q.ring.val ≠ 0) (clear : reservedSet ps op.masks = false)
    (inRange : ¬(12 ≤ q.part.val ∧ q.part.val ≤ 14)) (any : op.scope = .any ∨ op.scope = .anyOr15)
    (foreign : q.part.val ≠ s.get .HST_FUNC_CTL_PARTITION (s.get .HST_RING_CTL_OWNER q.ring.val)) : s.packetReason op q ps = 3 := by
  have notPf : ¬(op.scope = .pf ∨ op.scope = .pfModule) := by rcases any with e | e <;> simp [e]
  simp [State.packetReason, clear, inRange, vf, notPf, foreign]

/-! ### A packet of the PF (R286) -/

/-- Why a packet is refused, with the parameter checks that a partition which exists is asked for. -/
def State.fullReason (s : State) (op : HostOp) (q : Req) (ps : List Word) (chk : State → Nat) : Nat :=
  if s.packetReason op q ps = 0 ∧ (12 ≤ q.part.val ∨ s.get .PART_STATUS_STATE q.part.val ≠ 0) then chk s else s.packetReason op q ps

/-- What the partition's gate makes of a packet that has passed every check. -/
def State.gated (s : State) (op : HostOp) (q : Req) (run : State → State) : State :=
  match s.gate q.part.val op.code with
  | (some st, s) => s.done q st
  | (none, s) => run s

/-- The outcomes of a packet of the PF, in the order of the checks. -/
theorem hostRow_pf (clocked : s.clocked = true) (pf : s.get .HST_RING_CTL_OWNER q.ring.val = 0) (chk : State → Nat) (run : State → State) :
    hostRow op q ps chk run s = .next (
      if s.fullReason op q ps chk ≠ 0 then s.badPacket q op.code (s.fullReason op q ps chk)
      else if s.inDoldrums && !doldrumsAccepts op.code then s.done q stDoldrums
      else if s.get .PWR_STATE_STATE 0 = 2 ∧ !sleepAccepts op.code then s.done q stDisabled
      else s.gated op q run) := by
  have bound : ¬(s.get .HST_RING_CTL_OWNER q.ring.val ≠ 0 ∧ (!s.on .HST_FUNC_CTL_BOUND (s.get .HST_RING_CTL_OWNER q.ring.val)) = true) := fun h => h.1 pf
  simp only [hostRow, State.whenClocked, clocked, if_true, State.hostCmd, if_neg bound]
  rfl

theorem State.gated_ends {st : Nat} (gate : s.gate q.part.val op.code = (some st, s)) (run : State → State) : s.gated op q run = s.done q st := by
  rw [State.gated, gate]

/-- What a packet comes to that is refused as malformed, or else answers `t`. -/
def RefusedOr (s : State) (op : HostOp) (q : Req) (t : State) (o : Host.Outcome State Fault Refusal) : Prop :=
  o = .next t ∨ ∃ r, r ≠ 0 ∧ o = .next (s.badPacket q op.code r)

/-- In Doldrums mode the other commands complete with ST_DOLDRUMS (R292). -/
theorem hostRow_doldrums (clocked : s.clocked = true) (pf : s.get .HST_RING_CTL_OWNER q.ring.val = 0) (doldrums : s.inDoldrums = true)
    (other : doldrumsAccepts op.code = false) (chk : State → Nat) (run : State → State) : RefusedOr s op q (s.done q stDoldrums) (hostRow op q ps chk run s) := by
  rw [hostRow_pf clocked pf]
  split
  · next r => exact .inr ⟨_, r, rfl⟩
  · exact .inl (by simp [doldrums, other])

/-- In Sleep the other commands complete with ST_DISABLED (R367). -/
theorem hostRow_sleep (clocked : s.clocked = true) (pf : s.get .HST_RING_CTL_OWNER q.ring.val = 0) (awake : s.inDoldrums = false)
    (sleep : s.get .PWR_STATE_STATE 0 = 2) (other : sleepAccepts op.code = false) (chk : State → Nat) (run : State → State) :
    RefusedOr s op q (s.done q stDisabled) (hostRow op q ps chk run s) := by
  rw [hostRow_pf clocked pf]
  split
  · next r => exact .inr ⟨_, r, rfl⟩
  · exact .inl (by simp [awake, sleep, other])

section
variable (clocked : s.clocked = true) (pf : s.get .HST_RING_CTL_OWNER q.ring.val = 0) (awake : s.inDoldrums = false) (powered : s.get .PWR_STATE_STATE 0 ≠ 2)
include clocked pf awake powered

/-- Outside both modes the partition's gate answers, where it has an answer. -/
theorem hostRow_gated {st : Nat} (gate : s.gate q.part.val op.code = (some st, s)) (chk : State → Nat) (run : State → State) :
    RefusedOr s op q (s.done q st) (hostRow op q ps chk run s) := by
  rw [hostRow_pf clocked pf]
  split
  · next r => exact .inr ⟨_, r, rfl⟩
  · exact .inl (by simp [awake, powered, State.gated_ends gate])

/-- Of a partition that does not exist no parameter is checked. -/
theorem hostRow_absent (formed : s.packetReason op q ps = 0) (part : q.part.val < 12) (absent : s.get .PART_STATUS_STATE q.part.val = 0) (chk : State → Nat)
    (run : State → State) : hostRow op q ps chk run s = .next (s.done q stDisabled) := by
  have unasked : s.fullReason op q ps chk = 0 := by simp [State.fullReason, formed, part, absent]
  have gate : s.gate q.part.val op.code = (some stDisabled, s) := by simp [State.gate, part, absent]
  rw [hostRow_pf clocked pf]
  simp [unasked, awake, powered, State.gated_ends gate]

end

/-! ### The gate of a partition (R297, R317, R318, R325) -/

variable {p code : Nat}

theorem State.gate_resetting (part : p < 12) (resetting : s.get .PART_STATUS_STATE p = 3) (other : code ≠ 0x31) :
    s.gate p code = (some (if code = 0x32 then stBusy else stTargetResetting), s) := by
  by_cases destroy : code = 0x32 <;> simp [State.gate, part, resetting, other, destroy]

theorem State.gate_changing (part : p < 12) (changing : s.get .PART_STATUS_STATE p = 1 ∨ s.get .PART_STATUS_STATE p = 4) : s.gate p code = (some stBusy, s) := by
  rcases changing with e | e <;> simp [State.gate, part, e]

/-- A partition's part written back as it is. -/
theorem State.setPart_self (wf : SMap.wf s.parts (fun _ => Part.fresh) = true) : s.setPart p (s.part p) = s := by
  rw [State.setPart, State.part, SMap.set_get_self (d := fun _ => Part.fresh) p wf]

/-- A map entry in three equal copies is known, and the vote leaves everything as it is. -/
theorem State.voteMap_intact {w : List Word} (wf : SMap.wf s.parts (fun _ => Part.fresh) = true) (kept : (s.part p).mapLost = false)
    (intact : (s.part p).map = Tri.of w) : s.voteMap p = (true, s) := by
  have same : (s.modPart p fun x => { x with map := Tri.of w }) = s := by
    rw [State.modPart, ← intact]
    exact State.setPart_self wf
  simp only [State.voteMap, kept, Bool.false_eq_true, if_false, intact, Tri.vote_of, same]
  rfl

theorem State.gate_intact {w : List Word} (created : s.get .PART_STATUS_STATE p = 2 ∨ s.get .PART_STATUS_STATE p = 5)
    (wf : SMap.wf s.parts (fun _ => Part.fresh) = true) (kept : (s.part p).mapLost = false) (intact : (s.part p).map = Tri.of w) : s.gate p code = (none, s) := by
  have vote := State.voteMap_intact wf kept intact
  rcases created with e | e <;> simp [State.gate, e, vote]

/-! ### HST_BAD_LAST (R298) -/

/-- The latch of a refused packet. -/
def State.badLatched (s : State) (q : Req) (code reason : Nat) : State :=
  s.puts 0 [(.HST_BAD_LAST_VALID, 1), (.HST_BAD_LAST_RING, q.ring.val), (.HST_BAD_LAST_TAG, q.tag.toNat), (.HST_BAD_LAST_REASON, reason), (.HST_BAD_LAST_OPCODE, code)]

theorem State.badPacket_eq (s : State) (q : Req) (code reason : Nat) : s.badPacket q code reason = (s.badLatched q code reason).done q stBadPacket := rfl

theorem State.badLatched_only (s : State) (q : Req) (code reason : Nat) : s.onlyFields (s.badLatched q code reason)
    [Fld.HST_BAD_LAST_VALID.key 0, Fld.HST_BAD_LAST_RING.key 0, Fld.HST_BAD_LAST_TAG.key 0, Fld.HST_BAD_LAST_REASON.key 0, Fld.HST_BAD_LAST_OPCODE.key 0] :=
  s.onlyFields_puts 0 _

theorem State.badLatched_get (s : State) (q : Req) {code reason : Nat} (hc : code < 256) (hr : reason < 256) : let u := s.badLatched q code reason
    u.on .HST_BAD_LAST_VALID 0 = true ∧ u.get .HST_BAD_LAST_RING 0 = q.ring.val ∧ u.get .HST_BAD_LAST_TAG 0 = q.tag.toNat ∧
      u.get .HST_BAD_LAST_REASON 0 = reason ∧ u.get .HST_BAD_LAST_OPCODE 0 = code := by
  have ring : q.ring.val % 2 ^ Fld.HST_BAD_LAST_RING.width = q.ring.val := Nat.mod_eq_of_lt q.ring.isLt
  have tag : q.tag.toNat % 2 ^ Fld.HST_BAD_LAST_TAG.width = q.tag.toNat := Nat.mod_eq_of_lt q.tag.isLt
  have why : reason % 2 ^ Fld.HST_BAD_LAST_REASON.width = reason := Nat.mod_eq_of_lt hr
  have what : code % 2 ^ Fld.HST_BAD_LAST_OPCODE.width = code := Nat.mod_eq_of_lt hc
  simp (disch := decide) only [State.badLatched, State.on, State.puts_cons, State.puts_nil, State.get_put_of_id, State.get_put_same, ring, tag, why, what,
    and_true]
  rfl

end

end Sys2Proof.Machine

namespace Sys2Proof.Proofs
open Sys2Proof Sys2Proof.Machine

/-- Settles O5: the header checks come before everything else of the wrapper. -/
theorem malformedPacketsRefused : Obligations.MalformedPacketsRefused := by
  intro i op q ps s command formed clocked bound reason
  obtain ⟨chk, run, e⟩ := exec_hostCommand command formed clocked
  refine ⟨s.badLatched q op.code (s.packetReason op q ps), ?_, s.badLatched_only .., s.badLatched_get q (hostCommand_code command) State.packetReason_lt⟩
  rw [e, hostRow_malformed clocked bound reason, State.badPacket_eq]

/-- Settles O6: an unbound VF is answered first, then the issuer and the partition are checked. -/
theorem issuersChecked : Obligations.IssuersChecked := by
  intro i op q ps s command formed clocked vf
  obtain ⟨chk, run, e⟩ := exec_hostCommand command formed clocked
  have refused (bound : s.on .HST_FUNC_CTL_BOUND (s.get .HST_RING_CTL_OWNER q.ring.val) = true) {r : Nat} (hr : s.packetReason op q ps = r) (r0 : r ≠ 0) :
      exec i s = .next (s.badPacket q op.code r) := by
    rw [e, hostRow_malformed clocked (.inr bound) (hr ▸ r0), hr]
  refine ⟨fun unbound => e.trans (hostRow_unbound clocked vf unbound ..), fun bound clear inRange => ⟨fun pf => ?_, fun any foreign => ?_⟩⟩
  · exact refused bound (State.packetReason_issuer vf clear inRange pf) (by decide)
  · exact refused bound (State.packetReason_foreign vf clear inRange any foreign) (by decide)

/-- Settles O7: a mode's list is asked once the packet is in form. -/
theorem modesRefuseCommands : Obligations.ModesRefuseCommands := by
  intro i op q ps s command formed clocked pf
  obtain ⟨chk, run, e⟩ := exec_hostCommand command formed clocked
  rw [e]
  refine ⟨fun doldrums other => ?_, fun awake sleep other => ?_⟩
  · exact hostRow_doldrums clocked pf doldrums (by simpa [doldrumsAccepts] using other) chk run
  · exact hostRow_sleep clocked pf awake sleep (by simpa [sleepAccepts] using other) chk run

/-- Settles O8: the gate of the partition answers by its state; with three equal copies of the map entry the vote changes nothing. -/
theorem partitionStateGates : Obligations.PartitionStateGates := by
  refine ⟨fun i op q ps s command formed clocked pf awake powered inForm part => ?_, fun s p code w => ⟨s.gate_module code p, fun _ created wf kept intact => ?_⟩⟩
  · obtain ⟨chk, run, e⟩ := exec_hostCommand command formed clocked
    rw [e]
    refine ⟨fun absent => ?_, fun resetting other => ?_, fun changing => ?_⟩
    · exact hostRow_absent clocked pf awake powered inForm part absent chk run
    · exact hostRow_gated clocked pf awake powered (State.gate_resetting part resetting other) chk run
    · exact hostRow_gated clocked pf awake powered (State.gate_changing part changing) chk run
  · exact State.gate_intact created wf kept intact

end Sys2Proof.Proofs
end

section
/-!
PROOFS. Completions written to a ring in host memory (R284, R285, R287) and the statement O10.
-/
namespace Sys2Proof.Machine

/-- An interrupt message goes out where the function has the vector, and nothing else changes (R285). -/
theorem State.fire_eq (s : State) (f v : Nat) : s.fire f v = { s with msix := (if v < vectorsOf f then [(f, v)] else []) ++ s.msix } := by
  unfold State.fire
  split <;> rfl

theorem State.compWords_length (s : State) (c : Comp) : (s.compWords c).length = 4 := rfl

theorem wordsToBytes_length (ws : List Word) : (wordsToBytes ws).length = 8 * ws.length := by
  simp [wordsToBytes, toBytesLE_length, Nat.mul_comm]

section
variable (s : State) (f v : Nat)

@[simp] theorem State.fire_rings : (s.fire f v).rings = s.rings := by rw [State.fire_eq]

@[simp] theorem State.fire_hostMem : (s.fire f v).hostMem = s.hostMem := by rw [State.fire_eq]

theorem State.fire_msix_append : (s.fire f v).msix = (if v < vectorsOf f then [(f, v)] else []) ++ s.msix := by rw [State.fire_eq]

theorem State.fire_ring (j : Nat) : (s.fire f v).ring j = s.ring j := congrArg (SMap.get · j Ring.fresh) (s.fire_rings f v)

end

/-- Where a ring's next completion stands (R284). -/
def State.compAddr (s : State) (r : Nat) : Nat := s.get .HST_RING_CQ_BASE_BASE r * 4096 + 32 * (s.ring r).prod

/-- A ring whose producer has come to `n` (R284). -/
def Ring.produced (g : Ring) (n : Nat) : Ring := { g with prod := n, full := n == g.cons, phase := if n = 0 then !g.phase else g.phase }

/-- The state in which a completion of a ring in host memory leaves the module, its interrupt not yet sent. -/
def State.compPlaced (s : State) (c : Comp) : State :=
  let t := (s.hostStore (s.compAddr c.ring) (wordsToBytes (s.compWords c))).setRing c.ring ((s.ring c.ring).produced (((s.ring c.ring).prod + 1) % s.ringSize c.ring))
  t.setRing c.ring { t.ring c.ring with uncounted := 0 }

section
variable {s : State} {c : Comp}

/-- A completion for a ring in host memory that does not coalesce: its entry is written, and its interrupt sent at once. -/
theorem State.writeComp_host (up : s.hostUp = true) (host : s.on .HST_RING_CTL_CQ_DEVICE c.ring = false) (single : s.get .HST_RING_CTL_COALESCE_COUNT c.ring = 0) :
    s.writeComp c = (s.compPlaced c).fire (s.get .HST_RING_CTL_OWNER c.ring) (s.get .HST_RING_CTL_VECTOR c.ring) := by
  have link : s.on .HST_LINK_STATUS_UP 0 = true := by
    rw [State.hostUp, Bool.and_eq_true] at up
    exact up.1
  have stored (a : Nat) (bs : List Byte) : s.busWrite false a bs = (s.hostStore a bs, true) := by simp [State.busWrite, up]
  have sent (t : State) (h : t.get .HST_RING_CTL_COALESCE_COUNT c.ring = 0) : t.coalesce c.ring c.intr =
      (t.setRing c.ring { t.ring c.ring with uncounted := 0 }).fire (t.get .HST_RING_CTL_OWNER c.ring) (t.get .HST_RING_CTL_VECTOR c.ring) := by
    simp [State.coalesce, h]
  simp only [State.writeComp, host, link, stored, Bool.not_true, Bool.and_false, Bool.false_eq_true, if_false]
  exact sent _ single

theorem State.compPlaced_ring : (s.compPlaced c).ring c.ring = { (s.ring c.ring).produced (((s.ring c.ring).prod + 1) % s.ringSize c.ring) with uncounted := 0 } := by
  simp [State.compPlaced]

theorem State.compPlaced_ring_other {j : Nat} (h : j ≠ c.ring) : (s.compPlaced c).ring j = s.ring j := by
  rw [State.compPlaced, State.ring_set_other _ _ h, State.ring_set_other _ _ h]
  rfl

theorem State.compPlaced_hostMem : (s.compPlaced c).hostMem = (s.hostStore (s.compAddr c.ring) (wordsToBytes (s.compWords c))).hostMem := rfl

theorem State.compPlaced_frame : s.compPlaced c = { s with hostMem := (s.compPlaced c).hostMem, rings := (s.compPlaced c).rings } := rfl

/-- Host memory, the ring and an interrupt are all that such a completion changes. -/
theorem State.compPlaced_fire_frame (f v : Nat) : let t := (s.compPlaced c).fire f v
    t = { s with hostMem := t.hostMem, rings := t.rings, msix := t.msix } := by
  rw [State.fire_eq, State.compPlaced_frame]

end

end Sys2Proof.Machine

namespace Sys2Proof.Proofs
open Sys2Proof Sys2Proof.Machine

/-- Settles O10: the completion is placed, its ring's producer goes on, and its interrupt follows. -/
theorem completionEntryWritten : Obligations.CompletionEntryWritten := by
  intro s q status r0 r1 r g a up host single room idle
  refine ⟨fun quiet => ?_, fun loud => ?_⟩
  · rw [quiet.2]
    exact s.done_quiet quiet.1 r0 r1
  let c : Comp := ⟨r, q.tag.toNat, status, s.gust, r0, r1, q.interrupt⟩
  have posted : s.done q status r0 r1 = s.postComp c := if_neg (by simpa using loud)
  have written : s.postComp c = s.writeComp c := if_neg (by simp [c, g, room, idle])
  have sent : s.writeComp c = (s.compPlaced c).fire (s.get .HST_RING_CTL_OWNER r) (s.get .HST_RING_CTL_VECTOR r) := State.writeComp_host up host single
  rw [posted, written, sent]
  intro t
  have length : (wordsToBytes (s.compWords c)).length = 32 := by rw [wordsToBytes_length, State.compWords_length]
  have words : s.compWords c = [BitVec.ofNat 64 (q.tag.toNat + status * 2 ^ 16 + r * 2 ^ 32 + (if g.phase then 2 ^ 63 else 0)),
      BitVec.ofNat 64 (s.gust % 2 ^ 48 + s.get .HST_RING_STATUS_SQ_HEAD r * 2 ^ 48), BitVec.ofNat 64 r0, BitVec.ofNat 64 r1] := by
    cases e : g.phase <;> simp [State.compWords, c, placed, Bool.bit, g, e]
  have mem : t.hostMem = (s.hostStore a (wordsToBytes (s.compWords c))).hostMem := (State.fire_hostMem ..).trans State.compPlaced_hostMem
  have ring : t.ring r = { g.produced ((g.prod + 1) % s.ringSize r) with uncounted := 0 } := (State.fire_ring ..).trans State.compPlaced_ring
  refine ⟨?_, fun k out => ?_, ?_, ?_, ?_, fun j other => ?_, State.fire_msix_append .., ?_⟩
  · have read := s.hostRead_hostStore a (wordsToBytes (s.compWords c))
    rw [length] at read
    rw [State.hostRead, mem, ← words]
    exact read
  · rw [mem]
    exact s.hostStore_other a _ k (by omega)
  · rw [ring]
    rfl
  · rw [ring]
    rfl
  · rw [ring]
    exact beq_eq_decide ..
  · exact (State.fire_ring ..).trans (State.compPlaced_ring_other other)
  · exact State.compPlaced_fire_frame ..

end Sys2Proof.Proofs
end

section
/-!
PROOFS. A VF's register map (R279) and the statement O46, which fails where a state holds a value wider than its field.
-/
namespace Sys2Proof.Machine

/-- A module after reset that holds 2^16 in HST_ID.DEVICE, a field of 16 bits: no write of the module leaves such a value, but nothing in O46 excludes it. -/
def wideId : State := { State.reset with flds := [(Fld.HST_ID_DEVICE.key 0, 2 ^ 16)], vfEnable := true }

/-- A read caps each field at its width, so DEVICE reads as 0xFFFF. -/
theorem wideId_read : (outcomeState wideId (exec (.registerReadClear 1 0 4) wideId)).answers = [.reg 1 0xFFFF0000] := by decide

end Sys2Proof.Machine

namespace Sys2Proof.Proofs
open Sys2Proof Sys2Proof.Machine

/-- Refutes O46: of a value wider than its field, HST_ID.DEVICE = 2^16, a read answers the largest that the field can hold, and the statement the value cut to
the field, 0. -/
theorem not_vfRegisterMap : ¬ Obligations.VfRegisterMap := by
  intro h
  obtain ⟨id, -⟩ := (h 1 wideId (by decide) (by decide)).2 rfl
  have cut : (outcomeState wideId (exec (.registerReadClear 1 0 4) wideId)).answers = [.reg 1 0] := by
    rw [id]
    decide
  rw [wideId_read] at cut
  exact absurd cut (by decide)

end Sys2Proof.Proofs
end

section
/-!
PROOFS. Register accesses of 32 bits and the writes of enables and arming bits (R5, R6, R64, R121, R277, R330, R332): the statement O47.
-/
namespace Sys2Proof.Machine

/-! ### One register under an access of 32 bits (R277) -/

section
variable {s : State} {off i : Nat} {r : RegName}

theorem State.pieces_word (aligned : off % 4 = 0) (at_ : s.place 0 off = .reg r i 0) : s.pieces 0 off 4 = some [⟨.reg r i 0, 0, 4⟩] := by
  simp [State.pieces, aligned, at_]

theorem hostReadReg_word (aligned : off % 4 = 0) (at_ : s.place 0 off = .reg r i 0) {n : Nat} (read : s.readReg r i = (n, s)) :
    hostReadReg 0 off 4 s = ((s.clearLocated r i (2 ^ 32 - 1)).clearRead r i (2 ^ 32 - 1)).answer (.reg 0 (n % 2 ^ 32)) := by
  simp [hostReadReg, State.pieces_word aligned at_, State.readPiece, read, placed, bitsOf]

theorem hostWrite_word (aligned : off % 4 = 0) (at_ : s.place 0 off = .reg r i 0) (v : Nat) :
    hostWrite 0 off 4 v none s = s.regWrite 0 r i (v % 2 ^ 32) (2 ^ 32 - 1) := by
  simp [hostWrite, State.pieces_word aligned at_, State.writePiece, Piece.bits, bitsOf]

end

section
variable {s : State} (hc : s.clocked = true) (off size : Nat)
include hc

theorem exec_registerReadClear : exec (.registerReadClear 0 off size) s = .next (hostReadReg 0 off size s) := congrArg _ (State.whenClocked_on _ hc)

theorem exec_registerWrite (v : Word) (fw : Option Word) : exec (.registerWrite 0 off size v fw) s = .next (hostWrite 0 off size v.toNat fw s) :=
  congrArg _ (State.whenClocked_on _ hc)

end

/-! ### A field under a write of its whole register (R5, R6) -/

/-- A number read bit by bit. -/
theorem sum_bits (n w : Nat) : (List.range w).foldl (fun acc b => acc + placed (n / 2 ^ b % 2) b) 0 = n % 2 ^ w := by
  induction w with
  | zero => simp [Nat.mod_one]
  | succ w ih => rw [List.range_succ, List.foldl_append, ih, List.foldl_cons, List.foldl_nil, placed, Nat.mod_pow_succ, Nat.mul_comm]

theorem bitOf_ones {b : Nat} (h : b < 32) : bitOf (2 ^ 32 - 1) b = true := by
  rw [bitOf, ← Nat.testBit_eq_decide_div_mod_eq, Nat.testBit_two_pow_sub_one, decide_eq_true h]

theorem bitsOf_mod_word {v hi lo : Nat} (h : hi < 32) (ordered : lo ≤ hi) : bitsOf (v % 2 ^ 32) hi lo = bitsOf v hi lo := by
  have split : 2 ^ 32 = 2 ^ lo * 2 ^ (32 - lo) := by rw [← Nat.pow_add]; congr 1; omega
  rw [bitsOf, bitsOf, split, Nat.mod_mul_right_div_self, Nat.mod_mod_of_dvd _ (Nat.pow_dvd_pow 2 (by omega))]

section
variable {f : Fld} (old v : Nat)

theorem Fld.merged_whole (h : f.hi < 32) (ordered : f.lo ≤ f.hi) : f.merged old v (2 ^ 32 - 1) = bitsOf v f.hi f.lo := by
  have bit : ∀ b ∈ List.range f.width, ∀ acc, acc + placed (Bool.bit (if bitOf (2 ^ 32 - 1) (f.lo + b) then bitOf v (f.lo + b) else bitOf old b)) b =
      acc + placed (v / 2 ^ f.lo / 2 ^ b % 2) b := by
    intro b hb acc
    have : f.lo + b < 32 := by have := List.mem_range.1 hb; rw [Fld.width] at this; omega
    rw [if_pos (bitOf_ones this), Bool.bit_bitOf, Nat.pow_add, Nat.div_div_eq_div_mul]
  rw [Fld.merged, List.foldl_ext _ _ _ fun acc b hb => bit b hb acc, sum_bits, bitsOf, Fld.width]

theorem Fld.touched_whole (h : f.hi < 32) (ordered : f.lo ≤ f.hi) : f.touched (2 ^ 32 - 1) = true := by
  have low : (2 ^ 32 - 1) / 2 ^ f.lo % 2 = 1 := of_decide_eq_true (bitOf_ones (Nat.lt_of_le_of_lt ordered h))
  have : bitsOf (2 ^ 32 - 1) f.hi f.lo % 2 = 1 := by rw [bitsOf, Nat.mod_mod_of_dvd _ (Dvd.intro_left _ (Nat.pow_succ ..).symm), low]
  rw [Fld.touched, bne_iff_ne]
  omega

variable (s : State) (i : Nat)

/-- A written value in range is put in the field. -/
theorem State.writeField_rw (ha : f.acc = .rw) (h : f.hi < 32) (ordered : f.lo ≤ f.hi) (range : f.okLo ≤ bitsOf v f.hi f.lo ∧ bitsOf v f.hi f.lo ≤ f.okHi) :
    s.writeField f i v (2 ^ 32 - 1) = s.put f i (bitsOf v f.hi f.lo) := by
  simp only [State.writeField, Fld.touched_whole h ordered, ha, Fld.merged_whole _ v h ordered]
  exact if_pos range

theorem Fld.written_bit (h : f.hi < 32) (ordered : f.lo = f.hi) (one : bitOf v f.lo = true) : f.written v (2 ^ 32 - 1) = 1 := by
  have set : (v &&& (2 ^ 32 - 1)).testBit f.hi = true := by
    rw [Nat.testBit_and, Nat.testBit_two_pow_sub_one, decide_eq_true h, Bool.and_true, Nat.testBit_eq_decide_div_mod_eq, ← ordered]
    exact one
  rw [Nat.testBit_eq_decide_div_mod_eq] at set
  simpa [Fld.written, bitsOf, ordered] using set

/-- A bit set by writing 1 (W1S). -/
theorem State.on_writeField_w1s (ha : f.acc = .w1s) (h : f.hi < 32) (ordered : f.lo = f.hi) (one : bitOf v f.lo = true) : (s.writeField f i v (2 ^ 32 - 1)).on f i = true := by
  simp only [State.writeField, Fld.touched_whole h ordered.le, ha, Fld.written_bit v h ordered one]
  simp [State.on, State.get_put_same, Fld.width, ordered]

/-- A bit cleared by writing 1 (W1C). -/
theorem State.on_writeField_w1c (ha : f.acc = .w1c) (h : f.hi < 32) (ordered : f.lo = f.hi) (one : bitOf v f.lo = true) : (s.writeField f i v (2 ^ 32 - 1)).on f i = false := by
  have even : (s.get f i - s.get f i % 2) % 2 = 0 := by omega
  simp only [State.writeField, Fld.touched_whole h ordered.le, ha, Fld.written_bit v h ordered one]
  simp [State.on, State.get_put_same, Fld.width, ordered, Nat.and_one_is_mod, even]

theorem State.get_writeField_rw (ha : f.acc = .rw) (h : f.hi < 32) (ordered : f.lo ≤ f.hi) (range : f.okLo ≤ bitsOf v f.hi f.lo ∧ bitsOf v f.hi f.lo ≤ f.okHi) :
    (s.writeField f i v (2 ^ 32 - 1)).get f i = bitsOf v f.hi f.lo := by
  rw [State.writeField_rw v s i ha h ordered range, State.get_put_same, Fld.width, bitsOf, Nat.mod_mod]

end

/-- A write of a WO field leaves nothing in it. -/
theorem State.writeField_wo (s : State) {f : Fld} (i v m : Nat) (ha : f.acc = .wo) : s.writeField f i v m = s := by
  simp only [State.writeField, ha, ite_self]

theorem State.onlyFields_writeField (s : State) (f : Fld) (i v m : Nat) : s.onlyFields (s.writeField f i v m) [f.key i] :=
  ⟨s.writeField_frame f i v m, fun _ d hk => State.flds_writeField_other s v m d fun e => hk (List.mem_singleton.2 e)⟩

theorem State.onlyFields.core {s t : State} {ks : List Nat} (h : s.onlyFields t ks) (j : Nat) : t.core j = s.core j := by
  rw [h.1]; rfl

/-! ### A write of several fields of a register -/

section
variable (s : State) (i v m : Nat) {fs : List Fld}

/-- A field that is not among those written keeps its value. -/
theorem State.get_writes_other {g : Fld} {j : Nat} (h : ∀ f ∈ fs, g.key j ≠ f.key i) : (fs.foldl (fun t f => t.writeField f i v m) s).get g j = s.get g j := by
  induction fs generalizing s with
  | nil => rfl
  | cons f fs ih =>
    rw [List.foldl_cons, ih _ fun x hx => h x (List.mem_cons_of_mem _ hx), State.get_writeField_other _ _ _ (h f List.mem_cons_self)]

/-- A field among those written ends as a write of it alone leaves it. -/
theorem State.get_writes {f : Fld} (mem : f ∈ fs) (distinct : (fs.map Fld.id).Nodup) (small : ∀ x ∈ fs, x.id < 4096) :
    ∃ t : State, (fs.foldl (fun t f => t.writeField f i v m) s).get f i = (t.writeField f i v m).get f i := by
  obtain ⟨before, after, rfl⟩ := List.append_of_mem mem
  refine ⟨before.foldl (fun t f => t.writeField f i v m) s, ?_⟩
  rw [List.foldl_append, List.foldl_cons, State.get_writes_other]
  intro g hg
  refine Fld.key_ne i i (small f (by simp)) (small g (by simp [hg])) fun same => ?_
  rw [List.map_append, List.map_cons] at distinct
  exact (List.nodup_cons.1 (List.nodup_append.1 distinct).2.1).1 (same ▸ List.mem_map_of_mem hg)

theorem State.onlyFields_writes : s.onlyFields (fs.foldl (fun t f => t.writeField f i v m) s) (fs.map fun f => f.key i) := by
  induction fs generalizing s with
  | nil => exact ⟨rfl, fun _ _ _ => rfl⟩
  | cons f fs ih => exact (s.onlyFields_writeField f i v m).trans (ih _)

variable {f : Fld}

theorem State.get_writes_rw (mem : f ∈ fs) (distinct : (fs.map Fld.id).Nodup) (small : ∀ x ∈ fs, x.id < 4096) (ha : f.acc = .rw) (h : f.hi < 32) (ordered : f.lo ≤ f.hi)
    (range : f.okLo ≤ bitsOf v f.hi f.lo ∧ bitsOf v f.hi f.lo ≤ f.okHi) : (fs.foldl (fun t f => t.writeField f i v (2 ^ 32 - 1)) s).get f i = bitsOf v f.hi f.lo := by
  obtain ⟨t, ht⟩ := s.get_writes i v (2 ^ 32 - 1) mem distinct small
  rw [ht, State.get_writeField_rw v t i ha h ordered range]

theorem State.on_writes_w1s (mem : f ∈ fs) (distinct : (fs.map Fld.id).Nodup) (small : ∀ x ∈ fs, x.id < 4096) (ha : f.acc = .w1s) (h : f.hi < 32) (ordered : f.lo = f.hi)
    (one : bitOf v f.lo = true) : (fs.foldl (fun t f => t.writeField f i v (2 ^ 32 - 1)) s).on f i = true := by
  obtain ⟨t, ht⟩ := s.get_writes i v (2 ^ 32 - 1) mem distinct small
  rw [State.on, ht, ← State.on, State.on_writeField_w1s v t i ha h ordered one]

theorem State.on_writes_w1c (mem : f ∈ fs) (distinct : (fs.map Fld.id).Nodup) (small : ∀ x ∈ fs, x.id < 4096) (ha : f.acc = .w1c) (h : f.hi < 32) (ordered : f.lo = f.hi)
    (one : bitOf v f.lo = true) : (fs.foldl (fun t f => t.writeField f i v (2 ^ 32 - 1)) s).on f i = false := by
  obtain ⟨t, ht⟩ := s.get_writes i v (2 ^ 32 - 1) mem distinct small
  rw [State.on, ht, ← State.on, State.on_writeField_w1c v t i ha h ordered one]

end

/-! ### Writes that arm (R64, R121, R202) -/

theorem bitOf_mod_word {v b : Nat} (h : b < 32) : bitOf (v % 2 ^ 32) b = bitOf v b := by
  have := bitsOf_mod_word (v := v) h le_rfl
  rw [bitsOf, bitsOf, Nat.sub_self, Nat.zero_add, Nat.pow_one] at this
  rw [bitOf, bitOf, this]

/-- The fields of ARR_INJECT that a write of it puts. -/
def injectFields : List Fld := [.ARR_INJECT_STREAM, .ARR_INJECT_PHYS_COLUMN, .ARR_INJECT_DELTA]

theorem State.writeFields_inject (s : State) (i v m : Nat) : s.writeFields .ARR_INJECT i v m = injectFields.foldl (fun t f => t.writeField f i v m) s := by
  simp only [State.writeFields, RegName.fields, injectFields, List.foldl_cons, State.writeField_wo s (f := .ARR_INJECT_ARM) i v m rfl]

/-- A write of ARR_INJECT whose ARM bit is set arms the injection of its array only (R64). -/
theorem arrInject_armed {c a v m : Nat} (s : State) (arm : bitOf (v &&& m) 31 = true) :
    arrInject c a v m s = (injectFields.foldl (fun t f => t.writeField f (ix2 4 c a) v m) s).modCore c fun k => { k with injectArmed := SMap.set k.injectArmed a true false } := by
  rw [← State.writeFields_inject]
  exact if_pos arm

theorem bitOf_and_ones {v b : Nat} (h : b < 32) (one : bitOf v b = true) : bitOf (v &&& (2 ^ 32 - 1)) b = true := by
  rw [Nat.and_two_pow_sub_one_eq_mod, bitOf_mod_word h, one]

end Sys2Proof.Machine
end

section
namespace Sys2Proof.Proofs
open Sys2Proof Sys2Proof.Machine

section
variable {s : State} (hc : s.clocked = true) (v : Word)
include hc

/-- A write of an ENABLE that waits for the boundary (R4). -/
theorem enable_later {f : Fld} {i : Nat} (w : f.width = 1) {x : Instr} {run : State → State} (hx : exec x s = .next (s.whenClocked run)) (put : run s = s.putLater f i (fieldOf v 0 0)) :
    ∃ t : State, exec x s = .next t ∧ t.get f i = v.toNat % 2 ∧ t.inForce f i = s.inForce f i ∧ t = { s with flds := t.flds, eff := t.eff } ∧ s.fieldsKept t [f.key i] := by
  refine ⟨s.putLater f i (fieldOf v 0 0), by rw [hx, State.whenClocked_on _ hc, put], ?_, State.inForce_putLater_same _ .., rfl, fun k d hk => ?_⟩
  · simp [State.get_putLater_same, w, fieldOf, bitsOf]
  · exact State.flds_putLater_other _ _ k d fun e => hk (List.mem_singleton.2 e)

theorem fenFlipArm_armed (c : Site) : ∃ t : State, exec (.fenFlipArm c v) s = .next t ∧ (bitOf v.toNat 0 = true → t.on .FEN_FLIP_CTL_ARM (siteNo c) = true) ∧
    t.get .FEN_FLIP_CTL_TARGET (siteNo c) = v.toNat / 2 % 2 ∧ (bitOf v.toNat 2 = true → t.on .FEN_FLIP_CTL_DONE (siteNo c) = false) ∧
    s.onlyFields t [Fld.FEN_FLIP_CTL_ARM.key (siteNo c), Fld.FEN_FLIP_CTL_TARGET.key (siteNo c), Fld.FEN_FLIP_CTL_DONE.key (siteNo c)] := by
  refine ⟨s.writeFields .FEN_FLIP_CTL (siteNo c) (v.toNat % 2 ^ 32) (2 ^ 32 - 1), congrArg _ (State.whenClocked_on _ hc), fun arm => ?_, ?_, fun clear => ?_, ?_⟩
  · exact s.on_writes_w1s _ _ (by decide) (by decide) (by decide) rfl (by decide) rfl ((bitOf_mod_word (by decide)).trans arm)
  · refine (s.get_writes_rw (f := .FEN_FLIP_CTL_TARGET) _ _ (by decide) (by decide) (by decide) rfl (by decide) (by decide) ⟨Nat.zero_le _, ?_⟩).trans (bitsOf_mod_word (by decide) (by decide))
    exact Nat.le_of_lt_succ (Nat.mod_lt _ (by decide))
  · exact s.on_writes_w1c _ _ (by decide) (by decide) (by decide) rfl (by decide) rfl ((bitOf_mod_word (by decide)).trans clear)
  · exact (s.onlyFields_writes _ _ _).mono (by simp [RegName.fields])

theorem mrsFlipArm_armed (m : Fin 12) : ∃ t : State, exec (.mrsFlipArm m v) s = .next t ∧ (bitOf v.toNat 0 = true → t.on .MRS_FLIP_CTL_ARM m.val = true) ∧
    t.get .MRS_FLIP_CTL_CHANNEL m.val = v.toNat / 16 % 16 ∧ t.get .MRS_FLIP_CTL_TARGET m.val = v.toNat / 2 % 2 ∧
    s.onlyFields t [Fld.MRS_FLIP_CTL_ARM.key m.val, Fld.MRS_FLIP_CTL_TARGET.key m.val, Fld.MRS_FLIP_CTL_DONE.key m.val, Fld.MRS_FLIP_CTL_CHANNEL.key m.val] := by
  refine ⟨s.writeFields .MRS_FLIP_CTL m.val (v.toNat % 2 ^ 32) (2 ^ 32 - 1), congrArg _ (State.whenClocked_on _ hc), fun arm => ?_, ?_, ?_, ?_⟩
  · exact s.on_writes_w1s _ _ (by decide) (by decide) (by decide) rfl (by decide) rfl ((bitOf_mod_word (by decide)).trans arm)
  · refine (s.get_writes_rw (f := .MRS_FLIP_CTL_CHANNEL) _ _ (by decide) (by decide) (by decide) rfl (by decide) (by decide) ⟨Nat.zero_le _, ?_⟩).trans (bitsOf_mod_word (by decide) (by decide))
    exact Nat.le_of_lt_succ (Nat.mod_lt _ (by decide))
  · refine (s.get_writes_rw (f := .MRS_FLIP_CTL_TARGET) _ _ (by decide) (by decide) (by decide) rfl (by decide) (by decide) ⟨Nat.zero_le _, ?_⟩).trans (bitsOf_mod_word (by decide) (by decide))
    exact Nat.le_of_lt_succ (Nat.mod_lt _ (by decide))
  · exact (s.onlyFields_writes _ _ _).mono (by simp [RegName.fields])

theorem arrInjectArm_armed (c : Site) (a : Fin 4) (arm : bitOf v.toNat 31 = true) :
    ∃ t : State, exec (.arrInjectArm c a v) s = .next t ∧ SMap.get (t.core (siteNo c)).injectArmed a.val false = true ∧
      t.get .ARR_INJECT_DELTA (ix2 4 (siteNo c) a.val) = v.toNat % 2 ^ 16 ∧
      (∀ b, b ≠ a.val → SMap.get (t.core (siteNo c)).injectArmed b false = SMap.get (s.core (siteNo c)).injectArmed b false) ∧
      s.onlyCore t (siteNo c) [Fld.ARR_INJECT_DELTA.key (ix2 4 (siteNo c) a.val), Fld.ARR_INJECT_PHYS_COLUMN.key (ix2 4 (siteNo c) a.val),
        Fld.ARR_INJECT_STREAM.key (ix2 4 (siteNo c) a.val)] := by
  have armed : bitOf (fieldOf v 31 0 &&& (2 ^ 32 - 1)) 31 = true := bitOf_and_ones (by decide) (by rw [fieldOf, bitsOf, Nat.pow_zero, Nat.div_one]; exact (bitOf_mod_word (by decide)).trans arm)
  have fields := s.onlyFields_writes (fs := injectFields) (ix2 4 (siteNo c) a.val) (fieldOf v 31 0) (2 ^ 32 - 1)
  refine ⟨_, (congrArg _ (State.whenClocked_on _ hc)).trans (congrArg _ (arrInject_armed s armed)), ?_, ?_, fun b hb => ?_, ?_, fun k d hk => fields.2 k d fun h => hk ?_, fun j hj => ?_⟩
  · rw [State.modCore, State.core_set_same, SMap.get_set_same]
  · refine (s.get_writes_rw (f := .ARR_INJECT_DELTA) _ _ (by decide) (by decide) (by decide) rfl (by decide) (by decide) ⟨Nat.zero_le _, ?_⟩).trans ?_
    · exact Nat.le_of_lt_succ (Nat.mod_lt _ (by decide))
    · simp [fieldOf, bitsOf, Fld.ARR_INJECT_DELTA, Nat.mod_mod_of_dvd]
  · rw [State.modCore, State.core_set_same, SMap.get_set_other _ _ _ _ hb, fields.core]
  · rw [State.modCore, fields.1]; rfl
  · simpa [injectFields, or_comm, or_assoc, or_left_comm] using h
  · rw [State.modCore, State.core_set_other _ _ hj, fields.core]

end

/-- Settles O47: one access of 32 bits is one piece of one register; an ENABLE keeps what is in force; a write field by field puts what lies in range, and ARM arms. -/
theorem registerAccesses : Obligations.RegisterAccesses := by
  unfold Obligations.RegisterAccesses
  refine ⟨fun s off i r v hc aligned at_ => ⟨fun n read => ?_, ?_⟩, fun c a v s hc => ⟨fun x hx => ?_, arrInjectArm_armed hc v c a, fenFlipArm_armed hc v c⟩, fun m v s hc => mrsFlipArm_armed hc v m⟩
  · rw [exec_registerReadClear hc, hostReadReg_word aligned at_ read]
  · rw [exec_registerWrite hc, hostWrite_word aligned at_]
  · simp only [List.mem_cons, List.not_mem_nil, or_false] at hx
    obtain rfl | rfl | rfl | rfl := hx <;> exact enable_later hc v rfl rfl rfl

end Sys2Proof.Proofs
end



section
/-!
PROOFS. Doorbells, enables of rings and logs, coalescing and hold-off (R282 to R285, R298, R324), and the statement O48.
-/
namespace Sys2Proof.Machine

/-! ### A record leaves the rings -/

section
variable (s : State)

theorem State.StoresOnly.rings {s t : State} (h : s.StoresOnly t) : t.rings = s.rings := by rw [h]

theorem State.busWrite_rings (device : Bool) (a : Nat) (bs : List Byte) : (s.busWrite device a bs).1.rings = s.rings := by
  unfold State.busWrite
  dsimp only
  repeat' split
  all_goals first
    | exact (s.writeMem_stores ..).rings
    | rfl

theorem State.logInterrupt_rings (f : Nat) : (s.logInterrupt f).rings = s.rings := by
  unfold State.logInterrupt State.fire
  split_ifs <;> rfl

theorem State.logWrite_rings (f : Nat) (ws : List Word) : (s.logWrite f ws).rings = s.rings := by
  unfold State.logWrite
  split
  · rfl
  · dsimp only
    have seq (t : State) (a : SMap Nat) (b : SMap Bool) : State.rings { t with logSeq := a, logLost := b } = t.rings := rfl
    have put (t : State) (f : Fld) (i v : Nat) : (t.put f i v).rings = t.rings := rfl
    split
    · exact s.busWrite_rings ..
    · rw [State.logInterrupt_rings, seq, put, put, State.busWrite_rings]

theorem State.event_rings (r : Rec) : (s.event r).rings = s.rings := by
  have pf (t : State) (ws : List Word) : (if t.pfLogOpened || t.on .EVT_LOG_CTL_ENABLE 0 then t.logWrite 0 ws
      else if t.heldRecs.length < 1024 then { t with heldRecs := t.heldRecs ++ [ws] } else t.logDrop 0).rings = t.rings := by
    split
    · exact t.logWrite_rings 0 ws
    · split <;> rfl
  have vf (t : State) (v : Nat) (ws : List Word) : (if v = 0 then t else t.logWrite v ws).rings = t.rings := by
    split
    exacts [rfl, t.logWrite_rings v ws]
  unfold State.event
  dsimp only
  split <;> exact (vf _ _ _).trans (pf _ _)

theorem State.event_ring (r : Rec) (j : Nat) : (s.event r).ring j = s.ring j := congrArg (SMap.get · j Ring.fresh) (s.event_rings r)

/-! ### A ring that stops (R284) -/

variable (r kind a : Nat)

theorem State.ringError_status (hk : kind < 4) : (s.ringError r kind a).on .HST_RING_STATUS_ERROR r = true ∧ (s.ringError r kind a).get .HST_RING_STATUS_ERR_KIND r = kind := by
  have unrecorded (f : Fld) (h : f = .HST_RING_STATUS_ERROR ∨ f = .HST_RING_STATUS_ERR_KIND) : f.Unrecorded := by
    obtain rfl | rfl := h <;> exact ⟨by decide, by decide⟩
  unfold State.ringError
  dsimp only
  rw [State.on, State.event_get (unrecorded _ (.inl rfl)), State.event_get (unrecorded _ (.inr rfl)), beq_iff_eq]
  constructor
  · exact (State.get_put_of_id _ _ _ _ (by decide) (by decide) (by decide)).trans (State.get_put_same ..)
  · exact (State.get_put_same ..).trans (Nat.mod_eq_of_lt hk)

theorem State.ringError_stopped : (s.ringError r kind a).ringRuns r = false := by
  unfold State.ringError
  dsimp only
  simp [State.ringRuns, State.event_ring]

end

/-! ### Enables of rings (R282, R298) -/

/-- The fields of HST_RING_CTL that the owner of a ring writes. -/
def ownedFields : List Fld := RegName.HST_RING_CTL.fields.filter (· != .HST_RING_CTL_OWNER)

section
variable {s : State} {f r v m : Nat}

theorem ringCtlWrite_disable (owner : s.get .HST_RING_CTL_OWNER r = f) (was : s.on .HST_RING_CTL_ENABLE r = true) : ringCtlWrite f r v m s = s.writeField .HST_RING_CTL_ENABLE r v m := by
  simp [ringCtlWrite, owner, was]

/-- An owner's write to a ring that is off: the fields, OWNER where the PF writes it, and the ring enabled where ENABLE is then set. -/
def State.ringWritten (s : State) (f r v m : Nat) : State :=
  let t := ownedFields.foldl (fun t x => t.writeField x r v m) s
  if f = 0 then t.writeField .HST_RING_CTL_OWNER r v m else t

theorem ringCtlWrite_off (owner : s.get .HST_RING_CTL_OWNER r = f) (off : s.on .HST_RING_CTL_ENABLE r = false) (same : Fld.merged .HST_RING_CTL_OWNER f v m = f) :
    ringCtlWrite f r v m s = if (s.ringWritten f r v m).on .HST_RING_CTL_ENABLE r then (s.ringWritten f r v m).enableRing r else s.ringWritten f r v m := by
  obtain rfl | vf := eq_or_ne f 0
  · simp [ringCtlWrite, owner, off, same, State.ringWritten, ownedFields]
  · simp [ringCtlWrite, owner, off, State.ringWritten, ownedFields, vf]

theorem ringWritten_only : s.onlyFields (s.ringWritten f r v m) (Fld.HST_RING_CTL_OWNER.key r :: ownedFields.map fun x => x.key r) := by
  have fields := s.onlyFields_writes (fs := ownedFields) r v m
  unfold State.ringWritten
  dsimp only
  split
  · exact (fields.trans (State.onlyFields_writeField ..)).mono (by simp)
  · exact fields.mono (List.subset_cons_self ..)

/-- What the owner's write leaves in a field other than OWNER. -/
theorem get_ringWritten {x : Fld} (mem : x ∈ ownedFields) (range : x.okLo ≤ bitsOf v x.hi x.lo ∧ bitsOf v x.hi x.lo ≤ x.okHi) :
    (s.ringWritten f r v (2 ^ 32 - 1)).get x r = bitsOf v x.hi x.lo := by
  have facts : ∀ x ∈ ownedFields, x.acc = .rw ∧ x.hi < 32 ∧ x.lo ≤ x.hi ∧ x.id < 4096 ∧ x.id ≠ Fld.HST_RING_CTL_OWNER.id := by decide
  obtain ⟨acc, low, ordered, small, other⟩ := facts x mem
  have got := s.get_writes_rw r v mem (by decide) (fun x hx => (facts x hx).2.2.2.1) acc low ordered range
  unfold State.ringWritten
  dsimp only
  split
  · rwa [State.get_writeField_other _ _ _ (Fld.key_ne r r small (by decide) other)]
  · exact got

theorem get_ringWritten_owner (owner : s.get .HST_RING_CTL_OWNER r = f) (same : bitsOf v 28 25 = f) (vf : f ≤ 12) :
    (s.ringWritten f r v (2 ^ 32 - 1)).get .HST_RING_CTL_OWNER r = f := by
  unfold State.ringWritten
  dsimp only
  split
  · exact (State.get_writeField_rw (f := .HST_RING_CTL_OWNER) v _ r rfl (by decide) (by decide) ⟨Nat.zero_le _, same.symm ▸ vf⟩).trans same
  · rw [State.get_writes_other, owner]
    intro x hx
    have other : ∀ x ∈ ownedFields, x.id < 4096 ∧ x.id ≠ Fld.HST_RING_CTL_OWNER.id := by decide
    exact Fld.key_ne r r (by decide) (other x hx).1 (other x hx).2.symm

theorem State.onlyFields.ring {s t : State} {ks : List Nat} (h : s.onlyFields t ks) (j : Nat) : t.ring j = s.ring j := by
  rw [h.1]; rfl

/-- A ring with nothing waiting starts empty at index 0 (R298). -/
theorem State.enableRing_empty (idle : (s.ring r).waiting = []) : s.enableRing r = (s.put .HST_RING_STATUS_SQ_HEAD r 0).setRing r Ring.fresh := by
  simp [State.enableRing, idle, State.flushComps]
  rfl

end

/-- The value that ENABLE, bit 31 of HST_RING_CTL and of EVT_LOG_CTL, takes of a word. -/
theorem fieldWritten_enable {v : Word} (enable : bitOf v.toNat 31 = true) : bitsOf (v.toNat % 2 ^ 32) 31 31 = 1 :=
  (bitsOf_mod_word (by decide) le_rfl).trans (of_decide_eq_true enable)

/-! ### Logs (R324) -/

/-- An enabled log starts at index 0, phase 1 and sequence 0. -/
def State.logStarted (s : State) (f : Nat) : State :=
  { (s.put .EVT_LOG_STATUS_WRITE f 0).put .EVT_LOG_STATUS_PHASE f 1 with logSeq := SMap.set s.logSeq f 0 0 }

theorem State.logStarted_get {s : State} {f i : Nat} {x : Fld} (hx : x.id < 4096 ∧ x.id ≠ Fld.EVT_LOG_STATUS_WRITE.id ∧ x.id ≠ Fld.EVT_LOG_STATUS_PHASE.id) :
    (s.logStarted f).get x i = s.get x i := by
  have seq (t : State) (a : SMap Nat) : State.get { t with logSeq := a } x i = t.get x i := rfl
  rw [State.logStarted, seq, State.get_put_of_id _ _ _ _ (by decide) hx.1 hx.2.2, State.get_put_of_id _ _ _ _ (by decide) hx.1 hx.2.1]

theorem State.logStarted_status (s : State) (f : Nat) : (s.logStarted f).get .EVT_LOG_STATUS_WRITE f = 0 ∧ (s.logStarted f).get .EVT_LOG_STATUS_PHASE f = 1 := by
  have seq (t : State) (a : SMap Nat) (x : Fld) : State.get { t with logSeq := a } x f = t.get x f := rfl
  unfold State.logStarted
  refine ⟨(seq ..).trans ((State.get_put_of_id _ _ _ _ (by decide) (by decide) (by decide)).trans (State.get_put_same ..)), (seq ..).trans (State.get_put_same ..)⟩

theorem State.logStarted_seq (s : State) (f : Nat) : SMap.get (s.logStarted f).logSeq f 0 = 0 := SMap.get_set_same (s.logSeq) f 0 0

theorem State.enableLog_started {s : State} {f : Nat} (opened : f ≠ 0 ∨ s.pfLogOpened = true) : s.enableLog f = s.logStarted f := by
  have : ¬(f = 0 ∧ (!s.pfLogOpened) = true) := by
    rintro ⟨pf, closed⟩
    obtain vf | opened := opened
    exacts [vf pf, by simp [opened] at closed]
  exact if_neg this

end Sys2Proof.Machine
end

section
namespace Sys2Proof.Proofs
open Sys2Proof Sys2Proof.Machine

section
variable {s : State} (hc : s.clocked = true)
include hc

theorem exec_sqTail (r : Fin 64) (v : Word) : exec (.sqTail r v) s = .next (sqTailWrite r.val (fieldOf v 15 0) s) := congrArg _ (State.whenClocked_on _ hc)

theorem exec_cqHead (r : Fin 64) (v : Word) : exec (.cqHead r v) s = .next (cqHeadWrite r.val (fieldOf v 15 0) s) := congrArg _ (State.whenClocked_on _ hc)

theorem exec_coalesceTimeout (r : Fin 64) : exec (.coalesceTimeout r) s = .next (coalesceOver r.val s) := congrArg _ (State.whenClocked_on _ hc)

theorem exec_hstRingEnable (f : Fin 13) (r : Fin 64) (v : Word) : exec (.hstRingEnable f r v) s = .next (s.whenEnabled f.val fun s =>
    if f.val = 0 ∨ s.get .HST_RING_CTL_OWNER r.val = f.val then ringCtlWrite f.val r.val (v.toNat % 2 ^ 32) (2 ^ 32 - 1) s else s.answer (.unsupported f.val)) :=
  congrArg _ (State.whenClocked_on _ hc)

theorem exec_evtLogEnable (f : Fin 13) (v : Word) : exec (.evtLogEnable f v) s = .next (logCtlWrite f.val (v.toNat % 2 ^ 32) (2 ^ 32 - 1) s) :=
  congrArg _ (State.whenClocked_on _ hc)

theorem exec_evtHoldoff (f : Fin 13) : exec (.evtHoldoff f) s = .next (holdoffOver f.val s) := congrArg _ (State.whenClocked_on _ hc)

/-- What the owner of a ring writes to HST_RING_CTL takes effect. -/
theorem hstRingEnable_owner {f : Fin 13} {r : Fin 64} (v : Word) (heard : f.val = 0 ∨ s.vfEnable = true) (owner : s.get .HST_RING_CTL_OWNER r.val = f.val) :
    exec (.hstRingEnable f r v) s = .next (ringCtlWrite f.val r.val (v.toNat % 2 ^ 32) (2 ^ 32 - 1) s) := by
  have on : (decide (f.val = 0) || s.vfEnable) = true := by simpa using heard
  rw [exec_hstRingEnable hc, State.whenEnabled, if_pos on, if_pos (.inr owner)]

theorem doorbells_run (r : Fin 64) (v : Word) : let n := fieldOf v 15 0; let g := s.ring r.val
    (s.ringRuns r.val = false → exec (.sqTail r v) s = .next s ∧ exec (.cqHead r v) s = .next s) ∧
    (s.ringRuns r.val = true → n < s.ringSize r.val → exec (.sqTail r v) s = .next (s.setRing r.val { g with tail := n }) ∧
      (g.waiting = [] → exec (.cqHead r v) s = .next (s.setRing r.val { g with cons := n, full := false }))) ∧
    (s.ringRuns r.val = true → s.ringSize r.val ≤ n → ∃ t : State, exec (.sqTail r v) s = .next t ∧ exec (.cqHead r v) s = .next t ∧
      t.on .HST_RING_STATUS_ERROR r.val = true ∧ t.get .HST_RING_STATUS_ERR_KIND r.val = 1 ∧ t.ringRuns r.val = false) := by
  intro n g
  rw [exec_sqTail hc, exec_cqHead hc]
  refine ⟨fun off => ?_, fun on room => ?_, fun on beyond => ⟨s.ringError r.val 1 n, ?_, ?_, ?_⟩⟩
  · simp [sqTailWrite, cqHeadWrite, off]
  · constructor
    · simp [sqTailWrite, on, Nat.not_le.2 room, n, g]
    · intro idle
      simp [cqHeadWrite, on, Nat.not_le.2 room, g, n, idle, State.flushComps]
  · simp [sqTailWrite, on, beyond, n]
  · simp [cqHeadWrite, on, beyond, n]
  · obtain ⟨error, kind⟩ := s.ringError_status r.val 1 n (by decide)
    exact ⟨error, kind, s.ringError_stopped r.val 1 n⟩

/-- The owner's write of ENABLE to a ring that is off, with nothing waiting. -/
theorem ring_enabled {f : Fin 13} {r : Fin 64} {v : Word} (heard : f.val = 0 ∨ s.vfEnable = true) (owner : s.get .HST_RING_CTL_OWNER r.val = f.val)
    (off : s.on .HST_RING_CTL_ENABLE r.val = false) (enable : bitOf v.toNat 31 = true) (idle : (s.ring r.val).waiting = []) (same : bitsOf v.toNat 28 25 = f.val) :
    exec (.hstRingEnable f r v) s =
      .next (((s.ringWritten f.val r.val (v.toNat % 2 ^ 32) (2 ^ 32 - 1)).put .HST_RING_STATUS_SQ_HEAD r.val 0).setRing r.val Ring.fresh) := by
  have owned : bitsOf (v.toNat % 2 ^ 32) 28 25 = f.val := (bitsOf_mod_word (by decide) (by decide)).trans same
  have next : Fld.merged .HST_RING_CTL_OWNER f.val (v.toNat % 2 ^ 32) (2 ^ 32 - 1) = f.val := (Fld.merged_whole _ _ (by decide) (by decide)).trans owned
  have on : (s.ringWritten f.val r.val (v.toNat % 2 ^ 32) (2 ^ 32 - 1)).on .HST_RING_CTL_ENABLE r.val = true := by
    have bit := fieldWritten_enable enable
    rw [State.on, get_ringWritten (x := .HST_RING_CTL_ENABLE) (by decide) ⟨Nat.zero_le _, bit.le⟩, beq_iff_eq]
    exact bit
  have waits : ((s.ringWritten f.val r.val (v.toNat % 2 ^ 32) (2 ^ 32 - 1)).ring r.val).waiting = [] := by
    rw [ringWritten_only.ring, idle]
  rw [hstRingEnable_owner hc v heard owner, ringCtlWrite_off owner off next, if_pos on, State.enableRing_empty waits]

/-- What a ring's enabling leaves. -/
theorem ring_enabled_state {f : Fin 13} {r : Fin 64} {v : Word} (heard : f.val = 0 ∨ s.vfEnable = true) (owner : s.get .HST_RING_CTL_OWNER r.val = f.val)
    (off : s.on .HST_RING_CTL_ENABLE r.val = false) (enable : bitOf v.toNat 31 = true) (idle : (s.ring r.val).waiting = []) (same : bitsOf v.toNat 28 25 = f.val) :
    ∃ t : State, exec (.hstRingEnable f r v) s = .next t ∧ t.on .HST_RING_CTL_ENABLE r.val = true ∧ t.get .HST_RING_STATUS_SQ_HEAD r.val = 0 ∧ t.ring r.val = Ring.fresh ∧
      t.get .HST_RING_CTL_OWNER r.val = f.val ∧ t.get .HST_RING_CTL_VECTOR r.val = bitsOf v.toNat 18 12 ∧
      (bitsOf v.toNat 22 19 ≤ 12 → t.get .HST_RING_CTL_SIZE r.val = bitsOf v.toNat 22 19) ∧ (∀ j, j ≠ r.val → t.ring j = s.ring j) ∧
      t = { s with flds := t.flds, rings := t.rings } := by
  have word {hi lo : Nat} (h : hi < 32) (o : lo ≤ hi) : bitsOf (v.toNat % 2 ^ 32) hi lo = bitsOf v.toNat hi lo := bitsOf_mod_word h o
  have only := ringWritten_only (s := s) (f := f.val) (r := r.val) (v := v.toNat % 2 ^ 32) (m := 2 ^ 32 - 1)
  have kept (x : Fld) (hx : x.id < 4096 ∧ x.id ≠ Fld.HST_RING_STATUS_SQ_HEAD.id) (u : State) (g : Ring) :
      State.get ((u.put .HST_RING_STATUS_SQ_HEAD r.val 0).setRing r.val g) x r.val = u.get x r.val :=
    (State.setRing_get ..).trans (State.get_put_of_id u _ _ _ (by decide) hx.1 hx.2)
  refine ⟨_, ring_enabled hc heard owner off enable idle same, ?_, (State.setRing_get ..).trans (State.get_put_same ..), State.ring_set_same .., ?_, ?_, fun range => ?_, fun j hj => ?_, ?_⟩
  · have bit := fieldWritten_enable enable
    rw [State.on, kept _ (by decide), get_ringWritten (x := .HST_RING_CTL_ENABLE) (by decide) ⟨Nat.zero_le _, bit.le⟩, beq_iff_eq]
    exact bit
  · rw [kept _ (by decide)]
    exact get_ringWritten_owner owner ((word (by decide) (by decide)).trans same) (by omega)
  · rw [kept _ (by decide), get_ringWritten (x := .HST_RING_CTL_VECTOR) (by decide) ⟨Nat.zero_le _, Nat.le_of_lt_succ (Nat.mod_lt _ (by decide))⟩]
    exact word (by decide) (by decide)
  · rw [kept _ (by decide), get_ringWritten (x := .HST_RING_CTL_SIZE) (by decide) ⟨Nat.zero_le _, (word (by decide) (by decide)).trans_le range⟩]
    exact word (by decide) (by decide)
  · rw [State.ring_set_other _ _ hj]
    exact only.ring j
  · rw [only.1]
    rfl

theorem log_enabled (f : Fin 13) (v : Word) (off : s.on .EVT_LOG_CTL_ENABLE f.val = false) (enable : bitOf v.toNat 31 = true) (opened : f.val ≠ 0 ∨ s.pfLogOpened = true) :
    ∃ t : State, exec (.evtLogEnable f v) s = .next t ∧ t.on .EVT_LOG_CTL_ENABLE f.val = true ∧ t.get .EVT_LOG_STATUS_WRITE f.val = 0 ∧ t.get .EVT_LOG_STATUS_PHASE f.val = 1 ∧
      SMap.get t.logSeq f.val 0 = 0 ∧ t.get .EVT_LOG_CTL_HOLDOFF_US f.val = v.toNat % 2 ^ 16 ∧ t = { s with flds := t.flds, logSeq := t.logSeq } := by
  have only := s.onlyFields_writes (fs := RegName.EVT_LOG_CTL.fields) f.val (v.toNat % 2 ^ 32) (2 ^ 32 - 1)
  have bit := fieldWritten_enable enable
  have on : (s.writeFields .EVT_LOG_CTL f.val (v.toNat % 2 ^ 32) (2 ^ 32 - 1)).on .EVT_LOG_CTL_ENABLE f.val = true := by
    rw [State.on, beq_iff_eq]
    exact (s.get_writes_rw (f := .EVT_LOG_CTL_ENABLE) _ _ (by decide) (by decide) (by decide) rfl (by decide) (by decide) ⟨Nat.zero_le _, bit.le⟩).trans bit
  have run : exec (.evtLogEnable f v) s = .next ((s.writeFields .EVT_LOG_CTL f.val (v.toNat % 2 ^ 32) (2 ^ 32 - 1)).logStarted f.val) := by
    have opened : f.val ≠ 0 ∨ (s.writeFields .EVT_LOG_CTL f.val (v.toNat % 2 ^ 32) (2 ^ 32 - 1)).pfLogOpened = true := by
      rw [State.writeFields, only.1]
      exact opened
    rw [exec_evtLogEnable hc, logCtlWrite, off, on, State.enableLog_started opened]
    rfl
  refine ⟨_, run, ?_, ?_, ?_, State.logStarted_seq .., ?_, ?_⟩
  · rwa [State.on, State.logStarted_get (by decide)]
  · exact (State.logStarted_status ..).1
  · exact (State.logStarted_status ..).2
  · rw [State.logStarted_get (by decide)]
    refine (s.get_writes_rw (f := .EVT_LOG_CTL_HOLDOFF_US) _ _ (by decide) (by decide) (by decide) rfl (by decide) (by decide) ⟨Nat.zero_le _, ?_⟩).trans ?_
    · exact Nat.le_of_lt_succ (Nat.mod_lt _ (by decide))
    · simp [bitsOf, Fld.EVT_LOG_CTL_HOLDOFF_US]
  · rw [State.writeFields, only.1]
    rfl

theorem holdoff_over (f : Fin 13) : let held := SMap.get s.heldIrq f.val false
    ∃ t : State, exec (.evtHoldoff f) s = .next t ∧ SMap.get t.heldIrq f.val false = false ∧ SMap.get t.holdoff f.val false = held ∧
      t.msix = (if held = true then [(f.val, logVector f.val)] else []) ++ s.msix ∧ t = { s with heldIrq := t.heldIrq, holdoff := t.holdoff, msix := t.msix } := by
  have vector : logVector f.val < vectorsOf f.val := by
    unfold logVector vectorsOf
    split <;> decide
  refine ⟨_, exec_evtHoldoff hc f, ?_⟩
  unfold holdoffOver
  dsimp only
  cases SMap.get s.heldIrq f.val false
  case false =>
    simp only [Bool.false_eq_true, if_false]
    exact ⟨SMap.get_set_same .., SMap.get_set_same .., rfl, trivial⟩
  case true =>
    simp only [if_true, State.fire_eq, if_pos vector]
    exact ⟨SMap.get_set_same .., SMap.get_set_same .., trivial, trivial⟩

end

/-- Settles O48: each clause by its register's write, as the lemmas above state it. -/
theorem ringsAndLogs : Obligations.RingsAndLogs := by
  unfold Obligations.RingsAndLogs
  intro s hc
  refine ⟨fun r v => ?_, fun f r v => ⟨fun deaf => ?_, fun vf heard foreign => ?_, fun heard owner off enable idle same => ring_enabled_state hc heard owner off enable idle same,
    fun heard owner on clear => ?_⟩, fun f v off enable opened => log_enabled hc f v off enable opened, holdoff_over hc⟩
  · obtain ⟨idle, run, beyond⟩ := doorbells_run hc r v
    refine ⟨idle, run, beyond, fun none => ?_, fun some => ?_⟩
    · rw [exec_coalesceTimeout hc, coalesceOver, if_pos none]
    · rw [exec_coalesceTimeout hc, coalesceOver, if_neg some]
  · have off : ¬(decide (f.val = 0) || s.vfEnable) = true := by simpa using deaf
    rw [exec_hstRingEnable hc, State.whenEnabled, if_neg off]
  · have on : (decide (f.val = 0) || s.vfEnable) = true := by simpa using heard
    rw [exec_hstRingEnable hc, State.whenEnabled, if_pos on, if_neg (not_or.2 ⟨vf, foreign⟩)]
  · refine ⟨_, hstRingEnable_owner hc v heard owner, ?_, ?_⟩
    all_goals rw [ringCtlWrite_disable owner on]
    · have zero : bitsOf (v.toNat % 2 ^ 32) 31 31 = 0 := (bitsOf_mod_word (by decide) le_rfl).trans ((Nat.mod_two_ne_one).1 (of_decide_eq_false clear))
      rw [State.on, (State.get_writeField_rw (f := .HST_RING_CTL_ENABLE) _ s _ rfl (by decide) (by decide) ⟨Nat.zero_le _, zero.trans_le (by decide)⟩).trans zero]
      rfl
    · exact State.onlyFields_writeField ..

end Sys2Proof.Proofs
end

section
/-!
PROOFS. Host access to device memory by MEM_READ, MEM_WRITE and the window (R212, R281, R289), and the statement O24.
-/
namespace Sys2Proof.Machine

/-! ### A range in one chunk that the host path reaches -/

/-- A range of one chunk, whole and free, in a store that the host path reaches: its request goes at once. -/
structure State.Open (s : State) (st : Store) (off n : Nat) : Prop where
  some : 1 ≤ n
  chunk : off % 2048 + n ≤ 2048
  whole : s.anyWithdrawn st off n = false
  free : s.bankHeld st off n = false
  served : ∃ fb, s.reach none st = .served fb

/-- A module with no faulty memory, no spare row in use and no flip mask armed. -/
structure State.Sound (s : State) : Prop where
  faults : s.faults = []
  wires : s.deadWires = []
  sram : s.sram = []
  spares : s.rowSpares = []
  fen : ∀ c, c < 816 → s.on .FEN_FLIP_CTL_ARM c = false
  marsh : ∀ m, m < 12 → s.on .MRS_FLIP_CTL_ARM m = false

/-- The state with other commands in progress. -/
def State.withCmds (s : State) (cs : List Cmd) : State := { s with cmds := cs }

section
variable {s : State} {st : Store} {off n : Nat}

theorem chunkPart_whole (chunk : off % 2048 + n ≤ 2048) : chunkPart off n = n := by
  rw [chunkPart]; omega

theorem State.Open.withCmds (h : s.Open st off n) (cs : List Cmd) : (s.withCmds cs).Open st off n := ⟨h.some, h.chunk, h.whole, h.free, h.served⟩

theorem State.Sound.withCmds (h : s.Sound) (cs : List Cmd) : (s.withCmds cs).Sound := ⟨h.faults, h.wires, h.sram, h.spares, h.fen, h.marsh⟩

/-- The request of no partition goes on at once. -/
theorem State.Open.way (h : s.Open st off n) {p : Nat} (unowned : 12 ≤ p) (read : Bool) : s.way p st off n read = (.clear, s) := by
  obtain ⟨fb, served⟩ := h.served
  simp [State.way, h.whole, h.free, served, State.lullHolds, Nat.not_lt.2 unowned]

theorem State.Sound.read (h : s.Sound) (defined : s.rowUndefined st off n = false) : s.hostSideRead st off n = (some (s.rawBytes st off n), s) :=
  State.hostSideRead_clean (State.clean_of_noFaults h.faults h.wires h.sram st) defined

theorem State.Sound.write (h : s.Sound) (here : st.onModule) {bs : List Byte} (some : 1 ≤ bs.length) : s.hostWrite st off bs = (s.rawWrite st off bs, false) :=
  State.hostWrite_clean off (List.ne_nil_of_length_pos some) (State.clean_of_noFaults h.faults h.wires h.sram st) here h.fen h.marsh

theorem State.devRange_loc {a : Nat} (h : s.devRange a n = .some (st, off)) : s.devLoc a = .some (st, off) := by
  unfold State.devRange at h
  split at h
  · next located =>
    split at h
    · rwa [located]
    · cases h
  · cases h

theorem State.devRuns_one {a : Nat} (h : s.devRange a n = .some (st, off)) : s.devRuns a n = .some [(st, off, n)] := by
  rw [State.devRuns, h]

end

/-! ### A command of one request -/

/-- A memory command whose first request ends it after the next step. -/
theorem State.memRun_twice {s t u : State} {c d : Cmd} (first : s.memOne c = (t, some d)) (second : t.memOne d = (u, none)) (k : Nat) : s.memRun (k + 2) c = u := by
  simp only [State.memRun, first, second]

section
variable {s : State} {st : Store} {off n a host : Nat} {q : Req} {fn op : Nat}

/-- The state in which a command in progress has moved its bytes. -/
theorem State.memRead_step (hs : s.Sound) (ho : s.Open st off n) (up : s.hostUp = true) (located : s.devLoc a = some (st, off)) (defined : s.rowUndefined st off n = false)
    (unowned : 12 ≤ q.part.val) :
    s.memOne ⟨q, fn, op, .memRead a n host 0, false⟩ =
      ((s.hostStore host (s.rawBytes st off n)).replaceCmd ⟨q, fn, op, .memRead a n host 0, false⟩ ⟨q, fn, op, .memRead a n host n, false⟩, some ⟨q, fn, op, .memRead a n host n, false⟩) := by
  have more : ¬n ≤ 0 := Nat.not_le.2 ho.some
  simp only [State.memOne, if_neg more, Nat.add_zero, located, Nat.sub_zero, chunkPart_whole ho.chunk, ho.way unowned, State.grant_unowned unowned, hs.read defined, up, if_true, Nat.zero_add]

theorem State.memWrite_step (hs : s.Sound) (ho : s.Open st off n) (up : s.hostUp = true) (located : s.devLoc a = some (st, off)) (here : st.onModule)
    (unowned : 12 ≤ q.part.val) :
    s.memOne ⟨q, fn, op, .memWrite a n host 0, false⟩ =
      ((s.rawWrite st off (s.hostRead host n)).replaceCmd ⟨q, fn, op, .memWrite a n host 0, false⟩ ⟨q, fn, op, .memWrite a n host n, false⟩, some ⟨q, fn, op, .memWrite a n host n, false⟩) := by
  have more : ¬n ≤ 0 := Nat.not_le.2 ho.some
  have length : 1 ≤ (s.hostRead host n).length := by rw [State.hostRead, SMap.getList_length]; exact ho.some
  simp only [State.memOne, if_neg more, Nat.add_zero, located, Nat.sub_zero, chunkPart_whole ho.chunk, ho.way unowned, up, Bool.not_true, State.grant_unowned unowned,
    hs.write here length, Nat.zero_add, if_false, Bool.false_eq_true]

/-- A transfer with all its bytes moved completes. -/
theorem State.memRead_end : s.memOne ⟨q, fn, op, .memRead a n host n, false⟩ = (s.endCmd ⟨q, fn, op, .memRead a n host n, false⟩ stOk s.gust n 0, none) := by
  simp only [State.memOne, le_refl, if_true]

theorem State.memWrite_end : s.memOne ⟨q, fn, op, .memWrite a n host n, false⟩ = (s.endCmd ⟨q, fn, op, .memWrite a n host n, false⟩ stOk s.gust n 0, none) := by
  simp only [State.memOne, le_refl, if_true]

/-! ### The commands in a module with none in progress -/

theorem State.devRange_withCmds (cs : List Cmd) : (s.withCmds cs).devRange a n = s.devRange a n := rfl

theorem State.withCmds_cmds (cs : List Cmd) : (s.withCmds cs).cmds = cs := rfl

theorem State.withCmds_nil (idle : s.cmds = []) : s.withCmds [] = s := by
  rw [State.withCmds, ← idle]

theorem State.breakResv_withCmds (cs : List Cmd) (bytes : Nat) : (s.withCmds cs).breakResv st off bytes = (s.breakResv st off bytes).withCmds cs := by
  cases st with
  | pool c =>
    have core : (s.withCmds cs).core c = s.core c := rfl
    unfold State.breakResv
    dsimp only
    rw [core]
    cases (s.core c).resv with
    | none => rfl
    | some r => dsimp only; split <;> rfl
  | _ => rfl

/-- A store of bytes leaves the commands in progress. -/
theorem State.rawWrite_withCmds (cs : List Cmd) (bs : List Byte) : (s.withCmds cs).rawWrite st off bs = (s.rawWrite st off bs).withCmds cs :=
  State.breakResv_withCmds (s := { s with mem := bs.zipIdx.foldl (fun m e => SMap.set m (s.physKey st (off + e.2)) e.1 0) s.mem }) cs bs.length

theorem State.launchMem_idle (idle : s.cmds = []) (k : CmdKind) :
    s.launchMem q op k = (s.withCmds [⟨q, s.get .HST_RING_CTL_OWNER q.ring.val, op, k, false⟩]).memRun k.requests ⟨q, s.get .HST_RING_CTL_OWNER q.ring.val, op, k, false⟩ := by
  rw [State.launchMem, idle]
  rfl

/-- The one command in progress replaced by its later form, which then completes. -/
theorem State.replaced_ends {t : State} {k k' : CmdKind} (one : t.cmds = [⟨q, fn, op, k, false⟩]) (r0 : Nat) :
    let u := t.replaceCmd ⟨q, fn, op, k, false⟩ ⟨q, fn, op, k', false⟩
    u.endCmd ⟨q, fn, op, k', false⟩ stOk u.gust r0 0 = (t.withCmds []).done q stOk r0 := by
  intro u
  have next : u.cmds = [⟨q, fn, op, k', false⟩] := by simp [u, State.replaceCmd, one]
  rw [State.endCmd_only next]
  rfl

theorem memRead_done (idle : s.cmds = []) (hs : s.Sound) (ho : s.Open st off n) (up : s.hostUp = true) (awake : s.inDoldrums = false)
    (range : s.devRange a n = some (st, off)) (defined : s.rowUndefined st off n = false) (unowned : 12 ≤ q.part.val) :
    memRead q a n host s = (s.hostStore host (s.rawBytes st off n)).done q stOk n := by
  have first := State.memRead_step (q := q) (fn := s.get .HST_RING_CTL_OWNER q.ring.val) (op := 0x18) (host := host)
    (hs.withCmds [⟨q, s.get .HST_RING_CTL_OWNER q.ring.val, 0x18, .memRead a n host 0, false⟩]) (ho.withCmds _) up (State.devRange_loc range) defined unowned
  have launched : memRead q a n host s = s.launchMem q 0x18 (.memRead a n host 0) := by
    simp [memRead, State.devRuns_one range, State.untrained, awake, State.runsWithdrawn, ho.whole]
  rw [launched, State.launchMem_idle idle, CmdKind.requests, State.memRun_twice first State.memRead_end, State.replaced_ends rfl]
  conv_rhs => rw [← State.withCmds_nil idle]
  rfl

/-- The bytes that MEM_WRITE of a range in one chunk leaves. -/
theorem memWrite_done (idle : s.cmds = []) (hs : s.Sound) (ho : s.Open st off n) (up : s.hostUp = true)
    (range : s.devRange a n = some (st, off)) (unowned : 12 ≤ q.part.val) :
    memWrite q a n host s = (s.rawWrite st off (s.hostRead host n)).done q stOk n := by
  have first := State.memWrite_step (q := q) (fn := s.get .HST_RING_CTL_OWNER q.ring.val) (op := 0x19) (host := host)
    (hs.withCmds [⟨q, s.get .HST_RING_CTL_OWNER q.ring.val, 0x19, .memWrite a n host 0, false⟩]) (ho.withCmds _) up (State.devRange_loc range) (State.devRange_onModule range) unowned
  have launched : memWrite q a n host s = s.launchMem q 0x19 (.memWrite a n host 0) := by
    simp [memWrite, State.devRuns_one range, State.runsWithdrawn, ho.whole]
  rw [launched, State.launchMem_idle idle, CmdKind.requests, State.memRun_twice first State.memWrite_end, State.replaced_ends (by rw [State.rawWrite_eq]; rfl), State.rawWrite_withCmds]
  conv_rhs => rw [← State.withCmds_nil idle, State.rawWrite_withCmds]
  rfl

/-! ### The window (R281) -/

/-- The command that carries a window access of the PF to memory that no partition owns. -/
def windowCmd (k : CmdKind) : Cmd := ⟨windowReq 15, 0, 0, k, true⟩

theorem State.windowGo_clear (ho : s.Open st off n) (range : s.devRange a n = some (st, off)) (read : Bool) : s.windowGo 15 a n read = (.clear, s) := by
  simp [State.windowGo, State.devRuns_one range, ho.way (by decide : 12 ≤ 15), State.grant_unowned (by decide : 12 ≤ 15)]

theorem State.windowRefusal_none (ho : s.Open st off n) (open_ : s.on .HST_WIN_ENABLE 0 = true) (range : s.devRange a n = some (st, off)) : s.windowRefusal 0 a n = none := by
  simp [State.windowRefusal, open_, State.devRuns_one range, State.runsWithdrawn, ho.whole]

theorem State.windowOwner_none (range : s.devRange a n = some (st, off)) (unowned : s.ownerOf st off = none) : s.windowOwner a = 15 := by
  simp [State.windowOwner, State.devRange_loc range, unowned]

theorem State.windowRead_step (hs : s.Sound) (ho : s.Open st off n) (range : s.devRange a n = some (st, off)) (defined : s.rowUndefined st off n = false) {c : Cmd}
    (kind : c.kind = .windowRead 0 a n) (unowned : c.q.part.val = 15) :
    s.memOne c = ((s.withCmds (s.cmds.erase c)).answer (.window 0 (some (s.rawBytes st off n))), none) := by
  have read : s.readPieces ((s.devRuns a n).getD []) = (some (s.rawBytes st off n), s) := by
    simp [State.devRuns_one range, State.readPieces, hs.read defined]
  simp only [State.memOne, kind, unowned, State.windowGo_clear ho range, read]
  rfl

theorem State.windowWrite_step (hs : s.Sound) {bs : List Byte} (ho : s.Open st off bs.length) (range : s.devRange a bs.length = some (st, off)) {c : Cmd}
    (kind : c.kind = .windowWrite 0 a bs) (unowned : c.q.part.val = 15) :
    s.memOne c = ((s.rawWrite st off bs).withCmds (s.cmds.erase c), none) := by
  have written : s.writePieces ((s.devRuns a bs.length).getD []) bs = s.rawWrite st off bs := by
    simp [State.devRuns_one range, State.writePieces, hs.write (State.devRange_onModule range) ho.some]
  simp only [State.memOne, kind, unowned, State.windowGo_clear ho range, written]
  rfl

section
variable {o : Nat} (idle : s.cmds = []) (hs : s.Sound) (awake : s.inDoldrums = false) (enabled : s.on .HST_WIN_ENABLE 0 = true) (unowned : s.ownerOf st off = none)
include idle hs awake enabled unowned

theorem windowRead_answers (ho : s.Open st off n) (range : s.devRange (s.windowAddr 0 o) n = some (st, off)) (defined : s.rowUndefined st off n = false) :
    windowRead 0 o n s = s.answer (.window 0 (some (s.rawBytes st off n))) := by
  have launched : windowRead 0 o n s = (s.withCmds [windowCmd (.windowRead 0 (s.windowAddr 0 o) n)]).memRun 1 (windowCmd (.windowRead 0 (s.windowAddr 0 o) n)) := by
    simp [windowRead, awake, State.windowRefusal_none ho enabled range, State.windowOwner_none range unowned, idle, State.withCmds, windowCmd]
  have step := State.windowRead_step (hs.withCmds [windowCmd (.windowRead 0 (s.windowAddr 0 o) n)]) (ho.withCmds _) ((State.devRange_withCmds _).trans range) defined (c := windowCmd (.windowRead 0 (s.windowAddr 0 o) n)) rfl rfl
  rw [launched, State.memRun, step, State.withCmds_cmds, List.erase_cons_head]
  conv_rhs => rw [← State.withCmds_nil idle]
  rfl

theorem windowWrite_stores {bs : List Byte} (ho : s.Open st off bs.length) (range : s.devRange (s.windowAddr 0 o) bs.length = some (st, off)) :
    windowWrite 0 o bs s = s.rawWrite st off bs := by
  have launched : windowWrite 0 o bs s = (s.withCmds [windowCmd (.windowWrite 0 (s.windowAddr 0 o) bs)]).memRun 1 (windowCmd (.windowWrite 0 (s.windowAddr 0 o) bs)) := by
    simp [windowWrite, awake, State.windowRefusal_none ho enabled range, State.windowOwner_none range unowned, idle, State.withCmds, windowCmd]
  have step := State.windowWrite_step (hs.withCmds [windowCmd (.windowWrite 0 (s.windowAddr 0 o) bs)]) (ho.withCmds _) ((State.devRange_withCmds _).trans range) (c := windowCmd (.windowWrite 0 (s.windowAddr 0 o) bs)) rfl rfl
  rw [launched, State.memRun, step, State.withCmds_cmds, List.erase_cons_head, State.rawWrite_withCmds]
  conv_rhs => rw [← State.withCmds_nil idle, State.rawWrite_withCmds]
  rfl

end

end

end Sys2Proof.Machine
end

section
namespace Sys2Proof.Proofs
open Sys2Proof Sys2Proof.Machine

section
variable {s : State} {st : Store} {off n : Nat}

/-- What a store of bytes leaves, with no spare row in use: the bytes read back, and every other byte of the device is as it was. -/
theorem rawWrite_stored (spares : s.rowSpares = []) {bs : List Byte} (length : bs.length = n) :
    (s.rawWrite st off bs).rawBytes st off n = bs ∧ (∀ k, (∀ i, i < n → k ≠ s.physKey st (off + i)) → (s.rawWrite st off bs).byteAt k = s.byteAt k) ∧
      s.rawWrite st off bs = { s with mem := (s.rawWrite st off bs).mem, cores := (s.rawWrite st off bs).cores } := by
  subst length
  exact ⟨State.rawBytes_rawWrite spares st off bs, fun k other => State.rawWrite_other s st off bs k fun i hi same => other i hi same.symm, State.rawWrite_eq ..⟩

/-- A range in one chunk has an admitted length and address. -/
theorem memReason_chunk {q : Req} {p0 p1 : Word} (ho : s.Open st off p1.toNat) (range : s.devRange p0.toNat p1.toNat = some (st, off)) (unowned : 12 ≤ q.part.val) :
    memReason q p0 p1 s = 0 := by
  have length : ¬(p1.toNat < 1 ∨ 16777216 < p1.toNat) := by
    have := ho.some
    have := ho.chunk
    omega
  have runs : s.cmdRuns q.part.val p0.toNat p1.toNat = .some [(st, off, p1.toNat)] := by simp [State.cmdRuns, State.devRuns_one range, unowned]
  exact (if_neg length).trans (by rw [runs]; rfl)

variable (hc : s.clocked = true)
include hc

theorem exec_windowRead {o : Nat} (length : 1 ≤ n ∧ n ≤ 4096 ∧ o + n ≤ 2 ^ 36) : exec (.windowRead 0 o n) s = .next (windowRead 0 o n s) := by
  have event : execWindowRead 0 o n s = .next (s.whenClocked (windowRead 0 o n)) := if_pos length
  exact event.trans (congrArg _ (State.whenClocked_on _ hc))

theorem exec_windowWrite {o : Nat} {bs : List Byte} (length : 1 ≤ bs.length ∧ bs.length ≤ 4096 ∧ o + bs.length ≤ 2 ^ 36) :
    exec (.windowWrite 0 o bs) s = .next (windowWrite 0 o bs s) := by
  have event : execWindowWrite 0 o bs s = .next (s.whenClocked (windowWrite 0 o bs)) := if_pos length
  exact event.trans (congrArg _ (State.whenClocked_on _ hc))

end

/-- Settles O24: a range in one chunk takes one request, which goes at once; a second step ends the command. -/
theorem memoryTransfersComplete : Obligations.MemoryTransfersComplete := by
  unfold Obligations.MemoryTransfersComplete
  intro q p0 p1 p2 s st off fb n idle faults wires sram spares awake up some chunk whole free defined reach fen marsh
  have hs : s.Sound := ⟨faults, wires, sram, spares, fen, marsh⟩
  have ho : s.Open st off n := ⟨some, chunk, whole, free, fb, reach⟩
  refine ⟨fun none range => ⟨fun accepted => ?_, fun accepted => ?_⟩, fun o hc inside enabled range unowned => ⟨?_, fun bs length => ?_⟩⟩
  · have unowned : 12 ≤ q.part.val := by omega
    exact (hostRow_accepted accepted (memReason_chunk ho range unowned) _).trans (congrArg _ (memRead_done idle hs ho up awake range defined unowned))
  · have unowned : 12 ≤ q.part.val := by omega
    exact ⟨_, (hostRow_accepted accepted (memReason_chunk ho range unowned) _).trans (congrArg _ (memWrite_done idle hs ho up range unowned)), rawWrite_stored spares (SMap.getList_length ..)⟩
  · rw [exec_windowRead hc ⟨some, by omega, inside⟩, windowRead_answers idle hs awake enabled unowned ho range defined]
  · clear_value n
    subst length
    exact ⟨_, (exec_windowWrite hc ⟨some, by omega, inside⟩).trans (congrArg _ (windowWrite_stores idle hs awake enabled unowned ho range)), rawWrite_stored spares rfl⟩

end Sys2Proof.Proofs
end


section
/-!
PROOFS. Resets at the host link, the link's return and the reference clock (R275, R298, R309, R423), and wake sources (R370).
-/
namespace Sys2Proof.Machine

/-! ### A register returned to its reset values -/

section
variable (s : State)

theorem State.onlyFields_resetReg (r : RegName) (i : Nat) : s.onlyFields (s.resetReg r i) (r.fields.map fun f => f.key i) := by
  unfold State.resetReg
  generalize r.fields = fs
  induction fs generalizing s with
  | nil => exact ⟨rfl, fun _ _ _ => rfl⟩
  | cons f fs ih => exact (s.onlyFields_put f i _).trans (ih _)

/-- What a change of copies of some fields leaves: every other field, and every other copy. -/
theorem State.fieldsKept.get {s t : State} {fs : List Fld} {i : Nat} (kept : s.fieldsKept t (fs.map fun f => f.key i)) (small : ∀ f ∈ fs, f.id < 4096) {g : Fld} {j : Nat}
    (hg : g.id < 4096) (other : g.id ∉ fs.map Fld.id ∨ j ≠ i) : t.get g j = s.get g j := by
  refine kept _ _ fun member => ?_
  obtain ⟨f, hf, same⟩ := List.mem_map.1 member
  obtain ⟨id, copy⟩ := Fld.key_inj (small f hf) hg same
  obtain other | other := other
  exacts [other (id ▸ List.mem_map_of_mem hf), other copy.symm]

theorem State.onlyFields_resetRegs (rs : List RegName) (i : Nat) :
    s.onlyFields (rs.foldl (fun t n => t.resetReg n i) s) ((rs.flatMap RegName.fields).map fun f => f.key i) := by
  induction rs generalizing s with
  | nil => exact ⟨rfl, fun _ _ _ => rfl⟩
  | cons r rs ih =>
    rw [List.flatMap_cons, List.map_append]
    exact (s.onlyFields_resetReg r i).trans (ih _)

theorem State.put_ring (f : Fld) (i v j : Nat) : (s.put f i v).ring j = s.ring j := rfl

/-! ### Rings cleared (R275, R298) -/

def ringBlock : List RegName := [.HST_RING_BASE, .HST_RING_CQ_BASE, .HST_RING_CTL, .HST_RING_STATUS]

/-- The fields of a ring. -/
def ringFields : List Fld := ringBlock.flatMap RegName.fields

theorem ringFields_small : ∀ f ∈ ringFields, f.id < 4096 := by decide

/-- A ring's registers at their reset values. -/
def State.ringReset (s : State) (r : Nat) : State := ringBlock.foldl (fun t n => t.resetReg n r) s

theorem State.ringReset_only (r : Nat) : s.onlyFields (s.ringReset r) (ringFields.map fun f => f.key r) := s.onlyFields_resetRegs ringBlock r

theorem State.clearRing_eq (r : Nat) : s.clearRing r = ((s.ringReset r).setRing r Ring.fresh).put .HST_RING_CTL_OWNER r (s.get .HST_RING_CTL_OWNER r) := rfl

theorem State.clearRing_frame (r : Nat) : s.clearRing r = { s with flds := (s.clearRing r).flds, rings := (s.clearRing r).rings } := by
  have set {u : State} (h : u = { s with flds := u.flds }) (g : Ring) (owner : Nat) : let t := (u.setRing r g).put .HST_RING_CTL_OWNER r owner
      t = { s with flds := t.flds, rings := t.rings } := by
    rw [h]
    rfl
  exact set (s.ringReset_only r).1 _ _

theorem State.clearRing_kept (r : Nat) : s.fieldsKept (s.clearRing r) (ringFields.map fun f => f.key r) := by
  have set {u : State} {ks : List Nat} (h : s.fieldsKept u ks) (g : Ring) : s.fieldsKept (u.setRing r g) ks := h
  have ring := set (s.ringReset_only r).2 Ring.fresh
  have all := ring.trans (State.onlyFields_put _ .HST_RING_CTL_OWNER r (s.get .HST_RING_CTL_OWNER r)).2
  rw [State.clearRing_eq]
  refine fun k d hk => all k d fun member => hk ?_
  obtain member | member := List.mem_append.1 member
  · exact member
  · rw [List.mem_singleton.1 member]
    exact List.mem_map_of_mem (by decide)

/-- A ring that has been cleared: it does not run, is empty, and has kept its owner. -/
structure State.RingCleared (s t : State) (r : Nat) : Prop where
  off : t.on .HST_RING_CTL_ENABLE r = false
  ring : t.ring r = Ring.fresh
  owner : t.get .HST_RING_CTL_OWNER r = s.get .HST_RING_CTL_OWNER r % 16

theorem State.clearRing_cleared (r : Nat) : s.RingCleared (s.clearRing r) r where
  off := by
    rw [State.clearRing_eq, State.on, State.get_put_of_id _ _ _ _ (by decide) (by decide) (by decide)]
    simp (disch := decide) only [State.setRing_get, State.ringReset, ringBlock, List.foldl_cons, List.foldl_nil, State.resetReg, RegName.fields, State.get_put_of_id, State.get_put_same]
    rfl
  ring := by rw [State.clearRing_eq, State.put_ring, State.ring_set_same]
  owner := by
    rw [State.clearRing_eq, State.get_put_same]
    rfl

theorem State.clearRing_ring_other {r j : Nat} (h : j ≠ r) : (s.clearRing r).ring j = s.ring j := by
  have rings : (s.ringReset r).rings = s.rings := by rw [(s.ringReset_only r).1]
  rw [State.clearRing_eq, State.put_ring, State.ring_set_other _ _ h, State.ring, rings, ← State.ring]

theorem State.clearRing_get {r i : Nat} {f : Fld} (hf : f.id < 4096) (other : f.id ∉ ringFields.map Fld.id ∨ i ≠ r) : (s.clearRing r).get f i = s.get f i :=
  (s.clearRing_kept r).get ringFields_small hf other

variable (l : List Nat)

theorem State.clearRings_frame : l.foldl State.clearRing s = { s with flds := (l.foldl State.clearRing s).flds, rings := (l.foldl State.clearRing s).rings } := by
  induction l generalizing s with
  | nil => rfl
  | cons r l ih =>
    rw [List.foldl_cons, ih (s.clearRing r), s.clearRing_frame r]

theorem State.clearRings_get {i : Nat} {f : Fld} (hf : f.id < 4096) (other : f.id ∉ ringFields.map Fld.id ∨ i ∉ l) : (l.foldl State.clearRing s).get f i = s.get f i := by
  induction l generalizing s with
  | nil => rfl
  | cons r l ih =>
    rw [List.foldl_cons, ih _ (other.imp_right fun h => (not_or.1 (List.mem_cons.not.1 h)).2), State.clearRing_get _ hf (other.imp_right fun h => (not_or.1 (List.mem_cons.not.1 h)).1)]

theorem State.clearRings_ring_other {j : Nat} (h : j ∉ l) : (l.foldl State.clearRing s).ring j = s.ring j := by
  induction l generalizing s with
  | nil => rfl
  | cons r l ih =>
    obtain ⟨head, tail⟩ := not_or.1 (List.mem_cons.not.1 h)
    rw [List.foldl_cons, ih _ tail, State.clearRing_ring_other _ head]

theorem State.clearRings_cleared {r : Nat} (h : r ∈ l) : s.RingCleared (l.foldl State.clearRing s) r := by
  induction l generalizing s with
  | nil => cases h
  | cons a l ih =>
    rw [List.foldl_cons]
    by_cases again : r ∈ l
    · obtain ⟨off, ring, owner⟩ := ih (s.clearRing a) again
      refine ⟨off, ring, owner.trans ?_⟩
      by_cases same : r = a
      · rw [same, (s.clearRing_cleared a).owner, Nat.mod_mod]
      · rw [State.clearRing_get _ (by decide) (.inr same)]
    · obtain rfl : r = a := (List.mem_cons.1 h).resolve_right again
      obtain ⟨off, ring, owner⟩ := s.clearRing_cleared r
      exact ⟨by rwa [State.on, State.clearRings_get _ l (by decide) (.inr again)], by rwa [State.clearRings_ring_other _ l again],
        by rwa [State.clearRings_get _ l (by decide) (.inr again)]⟩

end

/-! ### The rest of a link reset (R275, R309, R324) -/

/-- Numbers of the fields that a link reset changes besides those of the rings. -/
def linkResetIds : List Nat :=
  (RegName.HST_WIN.fields ++ RegName.HST_BAD_LAST.fields ++ [Fld.HST_FUNC_CTL_NOTICE_RING, .HST_FUNC_CTL_ENABLE_NOTICES, .EVT_LOG_CTL_ENABLE, .DMA_CH_CTL_ENABLE, .DMA_CH_RING_BASE,
    .DMA_CH_STATUS_STATE, .DMA_CH_STATUS_ABANDONED]).map Fld.id

/-- `t` differs from `s` in what a link reset changes besides the rings: those fields, the DMA engines, and the partitions' marks to stop. -/
structure State.LinkCut (s t : State) : Prop where
  frame : t = { s with flds := t.flds, engines := t.engines, parts := t.parts }
  get : ∀ f : Fld, f.id < 4096 → f.id ∉ linkResetIds → ∀ i, t.get f i = s.get f i

section
variable {s t : State}

theorem State.LinkCut.rfl : s.LinkCut s := ⟨Eq.refl s, fun _ _ _ _ => Eq.refl _⟩

theorem State.LinkCut.trans {u : State} (h1 : s.LinkCut t) (h2 : t.LinkCut u) : s.LinkCut u :=
  ⟨Eq.trans h2.frame (by rw [h1.frame]), fun f hf other i => (h2.get f hf other i).trans (h1.get f hf other i)⟩

theorem State.LinkCut.foldl {α : Type} {f : State → α → State} (hf : ∀ (t : State) (x : α), t.LinkCut (f t x)) (l : List α) (s : State) : s.LinkCut (l.foldl f s) := by
  induction l generalizing s with
  | nil => exact .rfl
  | cons x l ih => exact (hf s x).trans (ih _)

theorem State.put_linkCut (s : State) {f : Fld} (hf : f.id < 4096 ∧ f.id ∈ linkResetIds) (i v : Nat) : s.LinkCut (s.put f i v) :=
  ⟨Eq.refl _, fun _ hg other j => State.get_put_of_id s i j v hf.1 hg fun same => other (same ▸ hf.2)⟩

theorem State.resetReg_linkCut (s : State) {r : RegName} (hr : ∀ f ∈ r.fields, f.id < 4096 ∧ f.id ∈ linkResetIds) (i : Nat) : s.LinkCut (s.resetReg r i) := by
  have only := s.onlyFields_resetReg r i
  refine ⟨by rw [only.1], fun g hg other j => only.2.get (fun f hf => (hr f hf).1) hg (.inl fun member => ?_)⟩
  obtain ⟨f, hf, same⟩ := List.mem_map.1 member
  exact other (same ▸ (hr f hf).2)

theorem State.setEngine_linkCut (s : State) (e : Nat) (g : DmaEng) : s.LinkCut (s.setEngine e g) := ⟨Eq.refl _, fun _ _ _ _ => Eq.refl _⟩

theorem State.dmaLinkReset_linkCut (s : State) (e : Nat) : s.LinkCut (s.dmaLinkReset e) := by
  have touched (b : Bool) (g : DmaEng) : s.LinkCut (if b then (s.setEngine e g).put .DMA_CH_STATUS_ABANDONED e 1 else s) := by
    split
    · exact (s.setEngine_linkCut e g).trans (State.put_linkCut _ (by decide) _ _)
    · exact .rfl
  have disabled (t : State) : t.LinkCut (if t.planDriven e then t
      else if t.on .DMA_CH_CTL_ENABLE e then t.puts e [(.DMA_CH_CTL_ENABLE, 0), (.DMA_CH_RING_BASE, 0), (.DMA_CH_STATUS_STATE, 3)] else t.put .DMA_CH_RING_BASE e 0) := by
    split
    · exact .rfl
    · split
      · exact ((t.put_linkCut (f := .DMA_CH_CTL_ENABLE) (by decide) e 0).trans (State.put_linkCut _ (f := .DMA_CH_RING_BASE) (by decide) e 0)).trans
          (State.put_linkCut _ (f := .DMA_CH_STATUS_STATE) (by decide) e 3)
      · exact t.put_linkCut (by decide) e 0
  exact (touched _ _).trans (disabled _)

theorem State.funcReset_linkCut (s : State) (f : Nat) : s.LinkCut (
    let s := (s.puts f [(.HST_FUNC_CTL_NOTICE_RING, 0), (.HST_FUNC_CTL_ENABLE_NOTICES, 0)]).resetReg .HST_WIN f
    if s.on .EVT_LOG_CTL_DEVICE f then s else s.put .EVT_LOG_CTL_ENABLE f 0) := by
  have puts := (s.put_linkCut (f := .HST_FUNC_CTL_NOTICE_RING) (by decide) f 0).trans (State.put_linkCut _ (f := .HST_FUNC_CTL_ENABLE_NOTICES) (by decide) f 0)
  have window := puts.trans (State.resetReg_linkCut _ (r := .HST_WIN) (by decide) f)
  dsimp only
  split
  · exact window
  · exact window.trans (State.put_linkCut _ (by decide) f 0)

theorem State.linkStop_linkCut (s : State) (p : Nat) : s.LinkCut (if (s.part p).running then s.modPart p fun x => { x with linkStop := true } else s) := by
  split
  · exact ⟨Eq.refl _, fun _ _ _ _ => Eq.refl _⟩
  · exact .rfl

end

/-- Commands whose transfers a link reset stops, and those that stay, their completions discarded (R275). -/
def State.linkCmds (s : State) : List Cmd := (s.cmds.filter fun c => !c.kind.isHostTransfer).map fun c => { c with discard := true }

/-- The rings cleared by a link reset. -/
def State.linkRings (s : State) : State :=
  (List.range 64).foldl State.clearRing { s with vfEnable := false, cmds := s.linkCmds, rings := [], lastRing := [] }

theorem State.linkReset_cut (s : State) : s.linkRings.LinkCut s.linkReset :=
  (((State.LinkCut.foldl State.funcReset_linkCut (List.range 13) _).trans (State.resetReg_linkCut _ (r := .HST_BAD_LAST) (by decide) 0)).trans
    (.foldl State.dmaLinkReset_linkCut (List.range 32) _)).trans (.foldl State.linkStop_linkCut (List.range 12) _)

section
variable (s : State)

theorem State.linkRings_frame : s.linkRings = { s with flds := s.linkRings.flds, rings := s.linkRings.rings, lastRing := [], vfEnable := false, cmds := s.linkCmds } :=
  State.clearRings_frame _ (List.range 64)

/-- Everything a link reset changes (R275). -/
theorem State.linkReset_frame : s.linkReset = { s with
    flds := s.linkReset.flds, rings := s.linkReset.rings, lastRing := [], vfEnable := false, cmds := s.linkCmds, engines := s.linkReset.engines, parts := s.linkReset.parts } := by
  have rings : s.linkReset.rings = s.linkRings.rings := by rw [s.linkReset_cut.frame]
  rw [rings, s.linkReset_cut.frame, s.linkRings_frame]

theorem State.linkReset_get {f : Fld} (hf : f.id < 4096) (other : f.id ∉ linkResetIds ++ ringFields.map Fld.id) (i : Nat) : s.linkReset.get f i = s.get f i := by
  obtain ⟨unit, ring⟩ := not_or.1 (List.mem_append.not.1 other)
  exact (s.linkReset_cut.get f hf unit i).trans (State.clearRings_get _ _ hf (.inl ring))

theorem State.linkReset_ring {r : Nat} (h : r < 64) : s.linkReset.on .HST_RING_CTL_ENABLE r = false ∧ s.linkReset.ring r = Ring.fresh := by
  have cleared : State.RingCleared { s with vfEnable := false, cmds := s.linkCmds, rings := [], lastRing := [] } s.linkRings r := State.clearRings_cleared _ _ (List.mem_range.2 h)
  have off : s.linkReset.get .HST_RING_CTL_ENABLE r = s.linkRings.get .HST_RING_CTL_ENABLE r := s.linkReset_cut.get _ (by decide) (by decide) r
  have rings : s.linkReset.rings = s.linkRings.rings := by rw [s.linkReset_cut.frame]
  exact ⟨by rw [State.on, off, ← State.on, cleared.off], by rw [State.ring, rings, ← State.ring, cleared.ring]⟩

theorem State.linkCmds_discarded : ∀ c ∈ s.linkCmds, c.discard = true ∧ c.kind.isHostTransfer = false := by
  intro c hc
  obtain ⟨d, hd, rfl⟩ := List.mem_map.1 hc
  simpa using (List.mem_filter.1 hd).2

/-! ### The link down -/

theorem State.hostDown_frame : s.hostDown = { s with flds := s.hostDown.flds, vfEnable := false } := by
  have only := s.onlyFields_resetReg .HST_LINK_STATUS 0
  unfold State.hostDown
  rw [only.1]

theorem State.hostDown_mem : s.hostDown.mem = s.mem := by rw [s.hostDown_frame]

theorem State.hostDown_cmds : s.hostDown.cmds = s.cmds := by rw [s.hostDown_frame]

theorem State.hostDown_ring (r : Nat) : s.hostDown.ring r = s.ring r := by
  rw [s.hostDown_frame]
  rfl

theorem State.hostDown_get {f : Fld} (hf : f.id < 4096) (other : f.id ∉ RegName.HST_LINK_STATUS.fields.map Fld.id) (i : Nat) : s.hostDown.get f i = s.get f i :=
  (s.onlyFields_resetReg .HST_LINK_STATUS 0).2.get (by decide) hf (.inl other)

theorem State.hostDown_down : s.hostDown.on .HST_LINK_STATUS_UP 0 = false := by
  have down : (s.resetReg .HST_LINK_STATUS 0).on .HST_LINK_STATUS_UP 0 = false := by
    rw [State.on, State.resetReg]
    simp (disch := decide) only [RegName.fields, List.foldl_cons, List.foldl_nil, State.get_put_same]
    rfl
  exact down

end

/-! ### A function-level reset of a VF (R275) -/

/-- The commands in progress after a VF's reset: its transfers stop, and its other completions are discarded. -/
def State.vfCmds (s : State) (f : Nat) : List Cmd :=
  (s.cmds.filter fun c => !(c.fn == f && c.kind.isHostTransfer)).map fun c => if c.fn = f then { c with discard := true } else c

/-- The VF's rings cleared. -/
def State.vfRings (s : State) (f : Nat) : State := (s.ringsOf f).foldl State.clearRing { s with cmds := s.vfCmds f }

section
variable (s : State) (f : Nat)

theorem State.mem_ringsOf {r : Nat} (h : r < 64) : r ∈ s.ringsOf f ↔ s.get .HST_RING_CTL_OWNER r = f := by
  simp [State.ringsOf, h]

theorem State.vfRings_frame : s.vfRings f = { s with flds := (s.vfRings f).flds, rings := (s.vfRings f).rings, cmds := s.vfCmds f } := State.clearRings_frame _ (s.ringsOf f)

theorem State.vfRings_cleared {r : Nat} (h : r ∈ s.ringsOf f) : State.RingCleared s (s.vfRings f) r := by
  obtain ⟨off, ring, owner⟩ : State.RingCleared { s with cmds := s.vfCmds f } (s.vfRings f) r := State.clearRings_cleared _ _ h
  exact ⟨off, ring, owner⟩

theorem State.vfRings_get {g : Fld} {i : Nat} (hg : g.id < 4096) (other : g.id ∉ ringFields.map Fld.id ∨ i ∉ s.ringsOf f) : (s.vfRings f).get g i = s.get g i :=
  State.clearRings_get { s with cmds := s.vfCmds f } _ hg other

theorem State.vfRings_ring_other {r : Nat} (h : r ∉ s.ringsOf f) : (s.vfRings f).ring r = s.ring r := State.clearRings_ring_other { s with cmds := s.vfCmds f } _ h

/-- The window of a function at its reset values. -/
theorem State.resetWindow_off : (s.resetReg .HST_WIN f).on .HST_WIN_ENABLE f = false := by
  rw [State.on, State.resetReg]
  simp (disch := decide) only [RegName.fields, List.foldl_cons, List.foldl_nil, State.get_put_same]
  rfl

theorem State.resetWindow_get {g : Fld} (hg : g.id < 4096) (other : g.id ∉ RegName.HST_WIN.fields.map Fld.id) (i : Nat) : (s.resetReg .HST_WIN f).get g i = s.get g i :=
  (s.onlyFields_resetReg .HST_WIN f).2.get (by decide) hg (.inl other)

end

/-- A VF with no partition has its rings and its window cleared, and nothing else is reset. -/
theorem vfFlr_unbound {s : State} {f : Nat} (vf : f ≠ 0) (unbound : s.on .HST_FUNC_CTL_BOUND f = false) : vfFlr f s = (s.vfRings f).resetReg .HST_WIN f := by
  have unowned : ((s.vfRings f).resetReg .HST_WIN f).fnPart f = none := by
    rw [State.fnPart, if_neg vf, State.on, State.resetWindow_get _ _ (by decide) (by decide), State.vfRings_get _ _ (by decide) (.inl (by decide)), ← State.on, unbound]
    rfl
  unfold vfFlr
  dsimp only
  split
  · next p bound => cases bound.symm.trans unowned
  · rfl

/-! ### The link up (R274) -/

/-- A link that has become active. -/
def State.linkShown (s : State) (width speed : Nat) (form : HostForm) : State :=
  { s.puts 0 [(.HST_LINK_STATUS_UP, 1), (.HST_LINK_STATUS_WIDTH, width), (.HST_LINK_STATUS_SPEED, speed), (.HST_LINK_STATUS_FLIT, Bool.bit form.flit),
      (.HST_LINK_STATUS_L0P, Bool.bit form.l0p)] with vfEnable := form.vfs }

theorem State.linkShown_shows (s : State) (w : Fin 17) (g : Fin 7) (form : HostForm) : let t := s.linkShown w.val g.val form
    t.on .HST_LINK_STATUS_UP 0 = true ∧ t.get .HST_LINK_STATUS_WIDTH 0 = w.val ∧ t.get .HST_LINK_STATUS_SPEED 0 = g.val ∧ t.get .HST_LINK_STATUS_L0P 0 = Bool.bit form.l0p ∧
      t = { s with flds := t.flds, vfEnable := form.vfs } := by
  have vfs (u : State) (b : Bool) (f : Fld) : State.get { u with vfEnable := b } f 0 = u.get f 0 := rfl
  dsimp only
  rw [State.on]
  simp (disch := decide) only [State.linkShown, vfs, State.puts_cons, State.puts_nil, State.get_put_of_id, State.get_put_same]
  refine ⟨rfl, ?_, ?_, ?_, ?_⟩
  · exact Nat.mod_eq_of_lt (show w.val < 32 by omega)
  · exact Nat.mod_eq_of_lt (show g.val < 16 by omega)
  · cases form.l0p <;> rfl
  · rfl

/-! ### The reference clock (R423) -/

theorem State.clocked_on {s : State} (h : s.clocked = true) : s.always.shut = 0 ∧ s.get .PWR_STATE_STATE 0 < 3 := by
  simp only [State.clocked, Bool.and_eq_true, beq_iff_eq, decide_eq_true_eq] at h
  exact ⟨h.1.1, h.2⟩

/-- The loss of REFCLK shown. -/
def State.refclkShown (s : State) : State := s.puts 0 [(.BOOT_PINS_REFCLK_LOST, 1), (.BOOT_PINS_REFCLK_OK, 0)]

theorem State.refclkShown_pins {s : State} : s.refclkShown.on .BOOT_PINS_REFCLK_LOST 0 = true ∧ s.refclkShown.on .BOOT_PINS_REFCLK_OK 0 = false := by
  rw [State.on, State.on]
  simp (disch := decide) only [State.refclkShown, State.puts_cons, State.puts_nil, State.get_put_of_id, State.get_put_same]
  exact ⟨rfl, rfl⟩

theorem State.refclkShown_clocked {s : State} (h : s.clocked = true) : s.refclkShown.clocked = true := by
  have get (f : Fld) (hf : f.id < 4096 ∧ f.id ≠ Fld.BOOT_PINS_REFCLK_LOST.id ∧ f.id ≠ Fld.BOOT_PINS_REFCLK_OK.id) : s.refclkShown.get f 0 = s.get f 0 :=
    (State.get_put_of_id _ _ _ _ (by decide) hf.1 hf.2.2).trans (State.get_put_of_id _ _ _ _ (by decide) hf.1 hf.2.1)
  rw [State.clocked, State.on, get _ (by decide), get _ (by decide), ← State.on]
  exact h

/-! ### Wake sources (R370) -/

/-- PERST_N released, and WAKE_N with it. -/
def State.perstReleased (s : State) : State := { s.put .BOOT_PINS_PERST_N 0 1 with always := { s.always with wakeLow := false } }

theorem State.perstReleased_kept (s : State) : s.fieldsKept s.perstReleased [Fld.BOOT_PINS_PERST_N.key 0] := (s.onlyFields_put .BOOT_PINS_PERST_N 0 1).2

theorem State.perstReleased_get {s : State} {f : Fld} (hf : f.id < 4096 ∧ f.id ≠ Fld.BOOT_PINS_PERST_N.id) (i : Nat) : s.perstReleased.get f i = s.get f i :=
  State.get_put_of_id s 0 i 1 (by decide) hf.1 hf.2


/-- What PWR_WAKE shows of a wake from Off. -/
def State.wakeShown (s : State) (source : Nat) : State := s.puts 0 [(.PWR_WAKE_SOURCE, source), (.PWR_WAKE_FROM_STATE, 4)]

/-- A module in Off that a wake source starts. -/
def State.wakeStarted (s : State) (source : Nat) : State :=
  { s.wakeShown source with always := { s.always with wakePend := none, wakeLow := !(s.wakeShown source).on .BOOT_PINS_PERST_N 0, shut := 3, source := source } }

theorem State.wakeShown_fields (s : State) {source : Nat} (small : source < 16) :
    (s.wakeShown source).get .PWR_WAKE_SOURCE 0 = source ∧ (s.wakeShown source).get .PWR_WAKE_FROM_STATE 0 = 4 := by
  simp (disch := decide) only [State.wakeShown, State.puts_cons, State.puts_nil, State.get_put_of_id, State.get_put_same]
  exact ⟨Nat.mod_eq_of_lt small, rfl⟩

end Sys2Proof.Machine
end

section
namespace Sys2Proof.Proofs
open Sys2Proof Sys2Proof.Machine

section
variable {s : State} (hc : s.clocked = true)
include hc

/-- A function-level reset of a VF that is bound to no partition (R275). -/
theorem vfFlr_clears (v : Fin 12) (unbound : s.on .HST_FUNC_CTL_BOUND (v.val + 1) = false) : ∃ t : State, exec (.vfFlr v) s = .next t ∧
    (∀ r, r < 64 → s.get .HST_RING_CTL_OWNER r = v.val + 1 → t.on .HST_RING_CTL_ENABLE r = false ∧ t.ring r = Ring.fresh ∧ t.get .HST_RING_CTL_OWNER r = v.val + 1) ∧
    (∀ r, r < 64 → s.get .HST_RING_CTL_OWNER r ≠ v.val + 1 → t.ring r = s.ring r ∧ t.get .HST_RING_CTL_ENABLE r = s.get .HST_RING_CTL_ENABLE r) ∧
    t.on .HST_WIN_ENABLE (v.val + 1) = false ∧ t = { s with flds := t.flds, rings := t.rings, cmds := t.cmds } := by
  have vf : v.val + 1 ≠ 0 := Nat.succ_ne_zero _
  have only := (s.vfRings (v.val + 1)).onlyFields_resetReg .HST_WIN (v.val + 1)
  have ring (r : Nat) : ((s.vfRings (v.val + 1)).resetReg .HST_WIN (v.val + 1)).ring r = (s.vfRings (v.val + 1)).ring r := only.ring r
  have get {f : Fld} (hf : f.id < 4096 ∧ f.id ∉ RegName.HST_WIN.fields.map Fld.id) (r : Nat) := State.resetWindow_get (s.vfRings (v.val + 1)) (v.val + 1) hf.1 hf.2 r
  refine ⟨_, (congrArg _ (State.whenClocked_on _ hc)).trans (congrArg _ (vfFlr_unbound vf unbound)), fun r hr owned => ?_, fun r hr foreign => ?_, State.resetWindow_off _ _, ?_⟩
  · obtain ⟨off, fresh, owner⟩ := s.vfRings_cleared _ ((s.mem_ringsOf _ hr).2 owned)
    refine ⟨?_, (ring r).trans fresh, ?_⟩
    · rw [State.on, get (by decide), ← State.on, off]
    · rw [get (by decide), owner, owned]
      omega
  · have other := (s.mem_ringsOf (v.val + 1) hr).not.2 foreign
    exact ⟨(ring r).trans (s.vfRings_ring_other _ other), (get (by decide) r).trans (s.vfRings_get _ (by decide) (.inr other))⟩
  · rw [only.1, s.vfRings_frame]

omit hc in
/-- A reset of the PF, and what it shares with a hot reset and a link-down. -/
theorem linkReset_clears : (∀ r, r < 64 → s.linkReset.on .HST_RING_CTL_ENABLE r = false ∧ s.linkReset.ring r = Ring.fresh) ∧ s.linkReset.vfEnable = false ∧ s.linkReset.mem = s.mem ∧
    ∀ c ∈ s.linkReset.cmds, c.discard = true ∧ c.kind.isHostTransfer = false := by
  refine ⟨fun r hr => s.linkReset_ring hr, ?_, ?_, ?_⟩
  · rw [s.linkReset_frame]
  · rw [s.linkReset_frame]
  · rw [s.linkReset_frame]
    exact s.linkCmds_discarded

omit hc in
/-- A hot reset and a link-down take the link down besides. -/
theorem hostDown_clears : (∀ r, r < 64 → s.linkReset.hostDown.on .HST_RING_CTL_ENABLE r = false ∧ s.linkReset.hostDown.ring r = Ring.fresh) ∧
    s.linkReset.hostDown.on .HST_LINK_STATUS_UP 0 = false ∧ s.linkReset.hostDown.vfEnable = false ∧ s.linkReset.hostDown.mem = s.mem ∧
    ∀ c ∈ s.linkReset.hostDown.cmds, c.discard = true ∧ c.kind.isHostTransfer = false := by
  obtain ⟨rings, -, mem, cmds⟩ := linkReset_clears (s := s)
  refine ⟨fun r hr => ⟨?_, (State.hostDown_ring _ r).trans (rings r hr).2⟩, State.hostDown_down _, rfl, (State.hostDown_mem _).trans mem, ?_⟩
  · rw [State.on, State.hostDown_get _ (by decide) (by decide), ← State.on, (rings r hr).1]
  · rwa [State.hostDown_cmds]

theorem hostLinkUp_shows (w : Fin 17) (g : Fin 7) (form : HostForm) (ok : linkFormOk w.val g.val form = true) :
    (s.on .BOOT_PINS_PERST_N 0 = true → s.on .BOOT_PINS_REFCLK_OK 0 = true → ∃ t : State, exec (.hostLinkUp w g form) s = .next t ∧ t.on .HST_LINK_STATUS_UP 0 = true ∧
      t.get .HST_LINK_STATUS_WIDTH 0 = w.val ∧ t.get .HST_LINK_STATUS_SPEED 0 = g.val ∧ t.get .HST_LINK_STATUS_L0P 0 = Bool.bit form.l0p ∧ t = { s with flds := t.flds, vfEnable := form.vfs }) ∧
    (s.on .BOOT_PINS_PERST_N 0 = false ∨ s.on .BOOT_PINS_REFCLK_OK 0 = false → exec (.hostLinkUp w g form) s = .next s) := by
  have event : exec (.hostLinkUp w g form) s = .next (hostLinkUp w.val g.val form s) := (if_pos ok).trans (congrArg _ (State.whenClocked_on _ hc))
  rw [event]
  refine ⟨fun released runs => ?_, fun held => ?_⟩
  · have up : (s.on .BOOT_PINS_PERST_N 0 && s.on .BOOT_PINS_REFCLK_OK 0) = true := by simp [released, runs]
    have shown : hostLinkUp w.val g.val form s = State.linkShown s w.val g.val form := if_pos up
    rw [shown]
    exact ⟨_, rfl, State.linkShown_shows ..⟩
  · have down : ¬(s.on .BOOT_PINS_PERST_N 0 && s.on .BOOT_PINS_REFCLK_OK 0) = true := by simpa [or_iff_not_imp_left] using held
    exact congrArg _ (if_neg down)

theorem refclkLost_shows : ∃ t : State, exec .refclkLost s = .next t ∧ t.on .BOOT_PINS_REFCLK_LOST 0 = true ∧ t.on .BOOT_PINS_REFCLK_OK 0 = false ∧ t.on .HST_LINK_STATUS_UP 0 = false ∧
    t.always.refBack = false := by
  have on : s.always.shut = 0 ∧ s.get .PWR_STATE_STATE 0 < 3 := State.clocked_on hc
  have event : exec .refclkLost s = .next { s.refclkShown.whenClocked (fun s => s.linkReset.hostDown) with always := { s.refclkShown.always with refBack := false } } :=
    congrArg Host.Outcome.next (if_pos on)
  have always (u : State) (a : AlwaysOn) (f : Fld) : State.on { u with always := a } f 0 = u.on f 0 := rfl
  have kept (f : Fld) (h : f.id < 4096 ∧ f.id ∉ RegName.HST_LINK_STATUS.fields.map Fld.id ∧ f.id ∉ linkResetIds ++ ringFields.map Fld.id) :
      s.refclkShown.linkReset.hostDown.on f 0 = s.refclkShown.on f 0 := by
    rw [State.on, State.hostDown_get _ h.1 h.2.1, State.linkReset_get _ h.1 h.2.2, ← State.on]
  refine ⟨_, event, ?_, ?_, ?_, rfl⟩
  all_goals rw [always, State.whenClocked_on _ (State.refclkShown_clocked hc)]
  · rw [kept _ (by decide), State.refclkShown_pins.1]
  · rw [kept _ (by decide), State.refclkShown_pins.2]
  · exact State.hostDown_down _

theorem refclkStable_waits : (s.on .BOOT_PINS_REFCLK_OK 0 = false → exec .refclkStable s = .next { s with always := { s.always with refBack := true } }) ∧
    (s.on .BOOT_PINS_REFCLK_OK 0 = true → exec .refclkStable s = .next s) := by
  obtain ⟨on, low⟩ := State.clocked_on hc
  constructor
  · intro lost
    exact congrArg Host.Outcome.next (if_pos ⟨on, low, by rw [lost]; rfl⟩)
  · intro runs
    exact congrArg Host.Outcome.next (if_neg fun h => by simp [runs] at h)

end

/-- A wake source (R370): in Off it starts the module; where it is not enabled it has no effect. -/
theorem wakeSource_starts {s : State} {source : Nat} (small : source < 16) {enable : Fld} (kept : Bool) :
    (s.on enable 0 = true → s.always.shut = 0 → s.get .PWR_STATE_STATE 0 = 4 → let t := s.wakeSource source enable kept
      t.always.shut = 3 ∧ t.always.source = source ∧ t.get .PWR_WAKE_SOURCE 0 = source ∧ t.get .PWR_WAKE_FROM_STATE 0 = 4) ∧
    (s.on enable 0 = false → s.wakeSource source enable kept = s) := by
  constructor
  · intro enabled on off t
    have wakes : t = s.wakeStarted source := by
      have armed : ¬((!s.on enable 0) = true ∨ s.always.shut ≠ 0) := by simp [enabled, on]
      have asleep : s.wakeSource source enable kept = s.wakeNow source kept := by rw [State.wakeSource, if_neg armed, if_pos (by omega)]
      rw [show t = s.wakeNow source kept from asleep, State.wakeNow, off]
      rfl
    obtain ⟨shown, state⟩ := s.wakeShown_fields small
    rw [wakes]
    exact ⟨rfl, rfl, shown, state⟩
  · intro disabled
    exact if_pos (.inl (by simp [disabled]))

/-- The three wake sources: WAKE_N, the SMBus address and the rising edge of PERST_N. -/
theorem wakePins_start (kept : Bool) (s : State) : ∀ x ∈ [(Instr.wakeN kept, 2, Fld.PWR_WAKE_CTL_WAKEN_EN), (.smbusAddressMatch kept, 3, .PWR_WAKE_CTL_SMBUS_EN), (.perstN kept, 4, .PWR_WAKE_CTL_PERST_EN)],
    (s.on x.2.2 0 = true → s.always.shut = 0 → s.get .PWR_STATE_STATE 0 = 4 → ∃ t : State, exec x.1 s = .next t ∧ t.always.shut = 3 ∧ t.always.source = x.2.1 ∧
      t.get .PWR_WAKE_SOURCE 0 = x.2.1 ∧ t.get .PWR_WAKE_FROM_STATE 0 = 4) ∧
    (s.on x.2.2 0 = false → ∃ t : State, exec x.1 s = .next t ∧ t = { s with flds := t.flds, always := t.always } ∧ s.fieldsKept t [Fld.BOOT_PINS_PERST_N.key 0] ∧ t.always.shut = s.always.shut) := by
  have same : s.fieldsKept s [Fld.BOOT_PINS_PERST_N.key 0] := fun _ _ _ => rfl
  intro x hx
  simp only [List.mem_cons, List.not_mem_nil, or_false] at hx
  obtain rfl | rfl | rfl := hx
  · obtain ⟨wakes, none⟩ := wakeSource_starts (s := s) (source := 2) (by decide) (enable := .PWR_WAKE_CTL_WAKEN_EN) kept
    exact ⟨fun enabled on off => ⟨_, rfl, wakes enabled on off⟩, fun disabled => ⟨s, congrArg _ (none disabled), rfl, same, rfl⟩⟩
  · obtain ⟨wakes, none⟩ := wakeSource_starts (s := s) (source := 3) (by decide) (enable := .PWR_WAKE_CTL_SMBUS_EN) kept
    exact ⟨fun enabled on off => ⟨_, rfl, wakes enabled on off⟩, fun disabled => ⟨s, congrArg _ (none disabled), rfl, same, rfl⟩⟩
  · obtain ⟨wakes, none⟩ := wakeSource_starts (s := s.perstReleased) (source := 4) (by decide) (enable := .PWR_WAKE_CTL_PERST_EN) kept
    have enable : s.perstReleased.on .PWR_WAKE_CTL_PERST_EN 0 = s.on .PWR_WAKE_CTL_PERST_EN 0 := congrArg (· == 1) (State.perstReleased_get (by decide) 0)
    have power : s.perstReleased.get .PWR_STATE_STATE 0 = s.get .PWR_STATE_STATE 0 := State.perstReleased_get (by decide) 0
    exact ⟨fun enabled on off => ⟨_, rfl, wakes (enable.trans enabled) on (power.trans off)⟩,
      fun disabled => ⟨s.perstReleased, congrArg _ (none (enable.trans disabled)), rfl, State.perstReleased_kept s, rfl⟩⟩

end Sys2Proof.Proofs
end

section
/-!
PROOFS. What the units' work leaves of a start (R377, R381, R390): the fields that say how far it has come, the image that runs, and the commands in progress.
-/
namespace Sys2Proof.Machine

/-- The fields that say how far a start has come, and what it started. -/
def bootFields : List Fld := [.HST_CP_STATUS_READY, .BOOT_STATUS_STEP, .BOOT_PINS_SMB_ADDR, .PART_FW_CURRENT, .PART_DOLDRUMS_ACTIVE, .PART_DOLDRUMS_CAUSE]

/-- A field apart from those. -/
abbrev Fld.OffBoot (f : Fld) : Prop := f.id < 4096 ∧ f.id ∉ bootFields.map Fld.id

/-- `t` is at the same point of its start as `s`, with the same image running and the same commands in progress. -/
structure State.Boots (s t : State) : Prop where
  get : ∀ f ∈ bootFields, ∀ i, t.get f i = s.get f i
  cmds : t.cmds = s.cmds
  running : t.flash.running = s.flash.running
  always : t.always = s.always

/-- A change of nothing but the rest of the module. -/
theorem State.Boots.of {s t : State} (flds : t.flds = s.flds) (cmds : t.cmds = s.cmds) (running : t.flash.running = s.flash.running) (always : t.always = s.always) : s.Boots t :=
  ⟨fun _ _ _ => by simp only [State.get, flds], cmds, running, always⟩

theorem State.Boots.rfl {s : State} : s.Boots s := .of (Eq.refl _) (Eq.refl _) (Eq.refl _) (Eq.refl _)

theorem State.Boots.trans {s t u : State} (h1 : s.Boots t) (h2 : t.Boots u) : s.Boots u :=
  ⟨fun f hf i => (h2.get f hf i).trans (h1.get f hf i), h2.cmds.trans h1.cmds, h2.running.trans h1.running, h2.always.trans h1.always⟩

/-- What every round of a loop keeps, the loop keeps; `g` gives the state of a round's result. -/
theorem State.Boots.foldlOf {α β : Type} (g : β → State) {f : β → α → β} (hf : ∀ b x, (g b).Boots (g (f b x))) (l : List α) (b : β) : (g b).Boots (g (l.foldl f b)) := by
  induction l generalizing b with
  | nil => exact .rfl
  | cons x l ih => exact (hf b x).trans (ih _)

/-- What both branches of a choice keep, the choice keeps. -/
theorem State.Boots.ite {s a b : State} {c : Prop} [Decidable c] (ha : s.Boots a) (hb : s.Boots b) : s.Boots (if c then a else b) := by
  split
  exacts [ha, hb]

theorem State.Boots.foldl {α : Type} {f : State → α → State} (hf : ∀ (t : State) x, t.Boots (f t x)) (l : List α) (s : State) : s.Boots (l.foldl f s) :=
  .foldlOf (fun t => t) hf l s

theorem bootFields_unrecorded : ∀ f ∈ bootFields, f.Unrecorded := by
  have all : bootFields.all fun f => decide (f.id < 4096) && !(recordFields.map Fld.id).contains f.id := by decide +kernel
  intro f hf
  have both := List.all_eq_true.1 all f hf
  simpa [Fld.Unrecorded] using both

section
variable (s : State)

theorem State.RecordsOnly.boots {s t : State} (h : s.RecordsOnly t) (get : ∀ f : Fld, f.Unrecorded → ∀ i, t.get f i = s.get f i) : s.Boots t :=
  ⟨fun f hf => get f (bootFields_unrecorded f hf), by rw [h], by rw [h], by rw [h]⟩

theorem State.put_boots {f : Fld} (hf : f.OffBoot) (i v : Nat) : s.Boots (s.put f i v) :=
  ⟨fun g hg j => State.get_put_of_id s i j v hf.1 (bootFields_unrecorded g hg).1 fun same => hf.2 (same ▸ List.mem_map_of_mem hg), Eq.refl _, Eq.refl _, Eq.refl _⟩

theorem State.bump_boots {f : Fld} (hf : f.OffBoot) (i n : Nat) : s.Boots (s.bump f i n) := s.put_boots hf ..

theorem State.puts_boots {fs : List (Fld × Nat)} (hf : ∀ e ∈ fs, e.1.OffBoot) (i : Nat) : s.Boots (s.puts i fs) := by
  unfold State.puts
  induction fs generalizing s with
  | nil => exact .rfl
  | cons e fs ih => exact (s.put_boots (hf e List.mem_cons_self) i e.2).trans (ih _ fun x hx => hf x (List.mem_cons_of_mem _ hx))

/-! ### Records and memory -/

theorem State.event_boots (r : Rec) : s.Boots (s.event r) := (s.event_only r).boots fun _ hf i => State.event_get hf i s r

theorem State.eventFree_boots (r : Rec) : s.Boots (s.eventFree r) := by
  have free : s.Boots s.free.2 := .of rfl rfl rfl rfl
  exact free.trans (State.event_boots _ _)

theorem State.readMem_boots (st : Store) (off n : Nat) : s.Boots (s.readMem st off n).st :=
  (s.readMem_counts st off n).stores.records.boots fun _ hf i => State.readMem_get hf i s st off n

theorem State.writeMem_boots (st : Store) (off : Nat) (bs : List Byte) : s.Boots (s.writeMem st off bs).st :=
  (s.writeMem_stores st off bs).records.boots fun _ hf i => State.writeMem_get hf i s st off bs

theorem State.rawWrite_boots (st : Store) (off : Nat) (bs : List Byte) : s.Boots (s.rawWrite st off bs) :=
  (s.rawWrite_stores st off bs).records.boots fun _ _ i => State.rawWrite_get i s st off bs

theorem State.eccEventOf_boots (who : Nat) (n : EccNote) : s.Boots (s.eccEventOf who n) := by
  unfold State.eccEventOf
  split <;> exact s.event_boots _

theorem State.eccEvents_boots (ns : List EccNote) : s.Boots (s.eccEvents ns) := .foldl (fun t n => t.eccEventOf_boots 0 n) ns s

/-- A read with the records of what it found. -/
theorem State.readNoted_boots (st : Store) (off n : Nat) : s.Boots ((s.readMem st off n).st.eccEvents (s.readMem st off n).notes) :=
  (s.readMem_boots st off n).trans (State.eccEvents_boots _ _)

theorem State.store_boots (st : Store) (off : Nat) (bs : List Byte) : s.Boots (s.store st off bs).1 := (s.writeMem_boots st off bs).trans (State.eccEvents_boots _ _)

theorem State.frees_boots (n : Nat) : s.Boots (s.frees n).2 := .of rfl rfl rfl rfl

theorem State.defined_boots (st : Store) (off : Nat) (bs : List Byte) : s.Boots (s.defined st off bs).2 := by
  unfold State.defined
  split
  · exact s.frees_boots _
  · exact .rfl

/-! ### Partitions and cores -/

theorem State.modPart_boots (p : Nat) (f : Part → Part) : s.Boots (s.modPart p f) := .of rfl rfl rfl rfl

theorem State.modCore_boots (c : Nat) (f : Core → Core) : s.Boots (s.modCore c f) := .of rfl rfl rfl rfl

theorem State.flagPart_boots (p cause status : Nat) : s.Boots (s.flagPart p cause status) := by
  unfold State.flagPart
  exact .ite (s.modPart_boots ..) .rfl

theorem State.noteWrite_boots (p : Nat) (st : Store) (off n : Nat) : s.Boots (s.noteWrite p st off n) := by
  unfold State.noteWrite
  exact .ite (s.modPart_boots ..) .rfl

theorem State.planRead_boots (p : Nat) (st : Store) (off n : Nat) : s.Boots (s.planRead p st off n).2 := by
  unfold State.planRead
  dsimp only
  split
  · exact (s.readNoted_boots st off n).trans (State.flagPart_boots ..)
  · exact (s.readNoted_boots st off n).trans (State.defined_boots ..)

theorem State.planWrite_boots (p : Nat) (st : Store) (off : Nat) (bs : List Byte) : s.Boots (s.planWrite p st off bs) := by
  have stored := (s.noteWrite_boots p st off bs.length).trans (State.store_boots _ st off bs)
  unfold State.planWrite
  dsimp only
  split
  · exact stored.trans (State.flagPart_boots ..)
  · exact stored

theorem State.unitSees_boots (c : Nat) (st : Store) (off : Nat) (bs : List Byte) : s.Boots (s.unitSees c st off bs).2 := by
  unfold State.unitSees
  dsimp only
  split
  · exact .rfl
  · exact s.frees_boots _

theorem State.unitWrote_boots (c : Nat) (st : Store) (off n : Nat) : s.Boots (s.unitWrote c st off n) := by
  unfold State.unitWrote
  split
  · exact s.modCore_boots ..
  · exact .rfl

theorem State.coreRead_boots (c : Nat) (st : Store) (off n : Nat) : s.Boots (s.coreRead c st off n).2 := by
  have read := s.planRead_boots (s.diePart (dieOf c)) st off n
  unfold State.coreRead
  generalize s.planRead (s.diePart (dieOf c)) st off n = r at read ⊢
  obtain ⟨_ | bs, t⟩ := r
  · exact read
  · exact read.trans (t.unitSees_boots ..)

theorem State.coreWrite_boots (c : Nat) (st : Store) (off : Nat) (bs : List Byte) : s.Boots (s.coreWrite c st off bs) :=
  (s.planWrite_boots ..).trans (State.unitWrote_boots ..)

theorem State.trap_boots (c cause tag status : Nat) : s.Boots (s.trap c cause tag status) :=
  (((s.event_boots _).trans (State.modCore_boots _ c _)).trans (State.put_boots _ (f := .CORE_TRAP_INFO_CAUSE) (by decide) c cause)).trans
    ((State.put_boots _ (f := .CORE_TRAP_INFO_PC) (by decide) c _).trans (State.put_boots _ (f := .CORE_PROG_STATUS_STATE) (by decide) c 3))

/-! ### Tokens -/

theorem State.setReg_boots (r p : Nat) (v : Reg) : s.Boots (s.setReg r p v) := .of rfl rfl rfl rfl

theorem State.regCharge_boots (r p n : Nat) : s.Boots (s.regCharge r p n) := s.setReg_boots ..

theorem State.bgCharge_boots (p store n : Nat) : s.Boots (s.bgCharge p store n) := by
  unfold State.bgCharge
  exact .ite (s.modPart_boots ..) .rfl

theorem State.grant_boots (p : Nat) (stores res : List Nat) (n : Nat) :
    s.Boots (s.grant p stores res n).2 ∧ ∀ u, (s.grant p stores res n).1 = some u → s.Boots u := by
  unfold State.grant
  split
  · exact ⟨.rfl, fun u h => by cases h; exact .rfl⟩
  · dsimp only
    split
    · exact ⟨.rfl, fun u h => by cases h⟩
    · split
      · exact ⟨.foldl (fun t r => t.setReg_boots ..) _ s, fun u h => by cases h⟩
      · have charged := (State.Boots.foldl (fun t b => t.bgCharge_boots p b n) stores s).trans (.foldl (fun t r => t.regCharge_boots r p n) res _)
        exact ⟨charged, fun u h => by cases h; exact charged⟩

theorem State.countAnswered_boots (r : Reach) : s.Boots (s.countAnswered r) := by
  unfold State.countAnswered
  split
  · exact s.bump_boots (by decide) ..
  · exact .rfl

/-! ### The shared cache's atomics and groups (R205 to R209) -/

theorem State.atomic_boots (off w : Nat) (o : Aop) (operand compare : Nat) : s.Boots (s.atomic off w o operand compare).2 := by
  have read := (s.readNoted_boots .cache (off - off % 8) 8).trans (State.bump_boots _ (f := .SHC_STATS_ATOMICS) (by decide) 0 1)
  unfold State.atomic
  dsimp only
  split
  · exact read
  · exact read.trans (State.store_boots ..)

theorem State.groupWrite_boots (p off : Nat) (bs : List Byte) : s.Boots (s.groupWrite p off bs).1 := (s.noteWrite_boots ..).trans (State.store_boots ..)

theorem State.spoilGroup_boots (p gi : Nat) : s.Boots (s.spoilGroup p gi).1 := .of rfl rfl rfl rfl

theorem State.groups_boots (gs : SMap (List (Nat × Nat × Nat))) : s.Boots { s with groups := gs } := .of rfl rfl rfl rfl

/-- The end of a contribution or of a group, flagged where its write is refused. -/
theorem State.contribEnd_boots (b : Bool) (p : Nat) : s.Boots (if b then (s.flagPart p 3 stUncorrectable, ContribRes.uncorrectable) else (s, .accepted)).1 := by
  split
  · exact s.flagPart_boots ..
  · exact .rfl

theorem State.groupComplete_boots (p gi : Nat) (g : GroupEntry) : s.Boots (s.groupComplete p gi g).1 := by
  unfold State.groupComplete
  dsimp only
  refine (s.groups_boots (SMap.set s.groups (groupKey p gi) [] [])).trans ?_
  generalize ({ s with groups := SMap.set s.groups (groupKey p gi) [] [] } : State) = z
  have read := z.readNoted_boots .cache g.staging (g.n * g.elems * 4)
  split
  · exact read
  · split
    · exact read.trans (State.flagPart_boots ..)
    · exact ((((((read.trans (State.frees_boots _ _)).trans (State.rawWrite_boots ..)).trans (State.groupWrite_boots ..)).trans (State.noteWrite_boots ..)).trans
        (State.atomic_boots ..)).trans (State.bump_boots _ (f := .SHC_STATS_GROUPS) (by decide) 0 1)).trans (State.contribEnd_boots ..)

theorem State.contrib_boots (p gi who eoff : Nat) (data : List Byte) : s.Boots (s.contrib p gi who eoff data).1 := by
  unfold State.contrib
  dsimp only
  generalize s.get .SHC_GROUP_BASE_BASE p * 32 + 32 * gi = base
  have read := s.readNoted_boots .cache base 32
  split
  · exact s.spoilGroup_boots ..
  · split
    · exact read.trans (State.flagPart_boots ..)
    · split
      · exact read.trans (State.spoilGroup_boots ..)
      · next g _ =>
        generalize (if g.inBf16 = true then 2 else 4) = width
        split
        · exact read.trans (State.spoilGroup_boots ..)
        · generalize List.flatMap (fun x : F32 => toBytesLE 4 x.toNat) _ = bs
          have written := read.trans (State.groupWrite_boots _ p (g.staging + (who * g.elems + eoff) * 4) bs)
          generalize State.groupWrite _ p (g.staging + (who * g.elems + eoff) * 4) bs = r at written ⊢
          split
          · exact (written.trans (State.groups_boots r.1 _)).trans (State.flagPart_boots ..)
          · split
            · exact (written.trans (State.groups_boots r.1 _)).trans (State.groupComplete_boots ..)
            · exact written.trans (State.groups_boots r.1 _)

/-! ### Requests over Zeyin (R95, R244) -/

theorem State.netServe_boots (c p : Nat) (d : NetDesc) (st : Store) : s.Boots (s.netServe c p d st).1 := by
  have pool := s.coreRead_boots c (.pool c) d.pool d.len
  unfold State.netServe
  split
  case h_1 | h_2 =>
    have read := s.coreRead_boots c st d.remote d.bytes
    generalize s.coreRead c st d.remote d.bytes = r at read ⊢
    obtain ⟨_ | bs, t⟩ := r <;> exact read
  case h_3 =>
    generalize s.coreRead c (.pool c) d.pool d.len = r at pool ⊢
    obtain ⟨_ | bs, t⟩ := r
    · exact pool
    · exact pool.trans (t.coreWrite_boots ..)
  case h_4 =>
    split
    · next w o _ =>
      have done := ((s.noteWrite_boots p .cache d.remote d.bytes).trans (State.unitWrote_boots _ c .cache d.remote d.bytes)).trans
        (State.atomic_boots _ d.remote w o d.operand d.compare)
      generalize State.atomic _ d.remote w o d.operand d.compare = r at done ⊢
      obtain ⟨_ | old, t⟩ := r
      · exact done.trans (t.flagPart_boots ..)
      · exact done
    · exact .rfl
  case h_5 =>
    generalize s.coreRead c (.pool c) d.pool d.len = r at pool ⊢
    obtain ⟨_ | bs, t⟩ := r
    · exact pool
    · have added := pool.trans (t.contrib_boots p d.group d.contributor d.remote bs)
      dsimp only
      generalize t.contrib p d.group d.contributor d.remote bs = x at added ⊢
      obtain ⟨u, _ | _ | _⟩ := x <;> exact added

theorem State.netAttempt_boots (c p : Nat) (d : NetDesc) : s.Boots (s.netAttempt c p d).1 := by
  unfold State.netAttempt
  split
  · exact .rfl
  · next st _ =>
    split
    · exact .rfl
    · split
      · exact .rfl
      · dsimp only
        split
        · exact .rfl
        · exact (s.countAnswered_boots _).trans (State.flagPart_boots ..)
        · exact (s.countAnswered_boots _).trans (State.flagPart_boots ..)
        · next fb _ =>
          split
          · exact .rfl
          · split
            · exact .rfl
            · have granted := s.grant_boots p [] st.resOf d.charge
              generalize s.grant p [] st.resOf d.charge = r at granted ⊢
              obtain ⟨_ | u, t⟩ := r
              · exact granted.1
              · have counted : s.Boots (if fb = true then u.bump .ZYN_NET_STATS_FALLBACK c 1 else u) := by
                  split
                  · exact (granted.2 u rfl).trans (u.bump_boots (by decide) ..)
                  · exact granted.2 u rfl
                exact counted.trans (State.netServe_boots _ c p d st)

theorem State.netEnd_boots (c : Nat) (d : NetDesc) (status : Nat) (res : Option (List Byte)) : s.Boots (s.netEnd c d status res) := by
  have result : s.Boots (match res with | some bs => s.coreWrite c (.pool c) d.pool bs | none => s) := by
    split
    · exact s.coreWrite_boots ..
    · exact .rfl
  have reported (t : State) : t.Boots (if d.statusEn = true then t.coreWrite c (.pool c) d.statusOff (toBytesLE 8 status) else t) := .ite (t.coreWrite_boots ..) .rfl
  exact (result.trans (reported _)).trans (State.bump_boots _ (f := .ZYN_NET_STATS_REQUESTS) (by decide) c 1)

theorem State.backAt_boots (c : Nat) (k : Core) : s.Boots (s.backAt c k) := s.modCore_boots ..

theorem State.netPass_boots (c : Nat) : s.Boots (s.netPass c) := by
  unfold State.netPass
  dsimp only
  refine State.Boots.trans (.foldlOf Prod.fst (fun acc e => ?_) _ (s, [])) (State.modCore_boots ..)
  obtain ⟨t, kept⟩ := acc
  dsimp only
  split
  · exact .rfl
  · split
    · split
      · exact t.netEnd_boots c (NetDesc.ofWords e.2) stOk none
      · exact .rfl
    · have tried := (t.modCore_boots c _).trans (State.netAttempt_boots (t.atUnit c 5 (e.2.drop 6)) c ((s.dieOwner (dieOf c)).getD 15) (NetDesc.ofWords e.2))
      generalize State.netAttempt _ c _ (NetDesc.ofWords e.2) = r at tried ⊢
      obtain ⟨u, _ | ⟨status, res⟩ | cause⟩ := r
      · exact tried.trans (u.backAt_boots c (t.core c))
      · exact (tried.trans (u.netEnd_boots c (NetDesc.ofWords e.2) status res)).trans (State.backAt_boots _ c (t.core c))
      · exact (tried.trans (u.trap_boots c cause (NetDesc.ofWords e.2).tag stBadPacket)).trans (State.backAt_boots _ c (t.core c))

theorem State.netSettle_boots (fuel : Nat) : s.Boots (State.netSettle fuel s) := by
  induction fuel generalizing s with
  | zero => exact .rfl
  | succ n ih =>
    have round : s.Boots s.netRound := .foldl (fun t c => t.netPass_boots c) _ s
    unfold State.netSettle
    dsimp only
    split
    · exact round.trans (ih _)
    · exact round

/-! ### Requests that wait, tried again -/

theorem State.atomServe_boots (p aop off : Nat) (operand compare : Word) :
    s.Boots (s.atomServe p aop off operand compare).2 ∧ ∀ u, (s.atomServe p aop off operand compare).1 = some u → s.Boots u := by
  unfold State.atomServe
  split
  · exact ⟨.rfl, fun u h => by cases h; exact .rfl⟩
  · next w o _ =>
    have granted := s.grant_boots p [] [resCache] 8
    generalize s.grant p [] [resCache] 8 = r at granted ⊢
    obtain ⟨_ | u, t⟩ := r
    · exact ⟨granted.1, fun u h => by cases h⟩
    · have served := (granted.2 u rfl).trans (u.atomic_boots off w o operand.toNat compare.toNat)
      dsimp only
      generalize u.atomic off w o operand.toNat compare.toNat = x at served ⊢
      have flagged : s.Boots (if x.1.isNone = true then x.2.flagPart p 3 stUncorrectable else x.2) := by
        split
        · exact served.trans (State.flagPart_boots ..)
        · exact served
      have answered := flagged.trans (State.Boots.of (t := State.answer _ (.atomic p x.1)) rfl rfl rfl rfl)
      exact ⟨answered, fun v h => by cases h; exact answered⟩

theorem State.serveAtoms_boots : s.Boots s.serveAtoms := by
  unfold State.serveAtoms
  dsimp only
  refine State.Boots.trans (.foldlOf Prod.fst (fun acc e => ?_) _ (s, [])) (.of rfl rfl rfl rfl)
  obtain ⟨t, kept⟩ := acc
  dsimp only
  split
  · exact .rfl
  · have served := t.atomServe_boots e.1 e.2.1 e.2.2.1 e.2.2.2.1 e.2.2.2.2
    generalize t.atomServe e.1 e.2.1 e.2.2.1 e.2.2.2.1 e.2.2.2.2 = r at served ⊢
    obtain ⟨_ | u, v⟩ := r
    · exact served.1
    · exact served.2 u rfl

theorem State.settle_boots : s.Boots s.settle := by
  have atoms : s.Boots (if s.atomHeld.isEmpty = true then s else s.serveAtoms) := .ite .rfl s.serveAtoms_boots
  have requests (t : State) : t.Boots (if t.netCores.isEmpty = true then t else State.netSettle (t.netCount + 1) t) := .ite .rfl (t.netSettle_boots _)
  exact atoms.trans (requests _)

end

end Sys2Proof.Machine
end

section
/-!
PROOFS. What training and the stores of bring-up leave of a start without commands in progress (R15, R242, R383, R386).
-/
namespace Sys2Proof.Machine

section
variable {s t : State}

theorem State.Boots.idle (h : s.Boots t) (idle : s.cmds = []) : t.cmds = [] := h.cmds.trans idle

/-- A loop whose rounds need that no command is in progress. -/
theorem State.Boots.foldlIdle {α : Type} {f : State → α → State} (hf : ∀ (t : State) x, t.cmds = [] → t.Boots (f t x)) (l : List α) (idle : s.cmds = []) :
    s.Boots (l.foldl f s) := by
  induction l generalizing s with
  | nil => exact .rfl
  | cons x l ih => exact (hf s x idle).trans (ih ((hf s x idle).idle idle))

theorem State.endRetrain_boots (idle : s.cmds = []) (kind u group reached : Nat) : s.Boots (s.endRetrain kind u group reached) := by
  rw [State.endRetrain_idle idle]
  exact .rfl

end

section
variable (s : State)

theorem State.refreshTransits_boots (ds : List Nat) : s.Boots (s.refreshTransits ds) := .foldl (fun t d => t.put_boots (f := .ZYN_TRANSIT_STATE) (by decide) d _) ds s

theorem State.setLink_boots (l : Nat) (k : Link) : s.Boots (s.setLink l k) := .of rfl rfl rfl rfl

/-- Both commands that wait for a link's training end with it. -/
theorem State.endRetrains_boots (idle : s.cmds = []) (l reached : Nat) : s.Boots ((s.endRetrain 0 l 0 reached).endRetrain 0 l 1 reached) := by
  have first : s.Boots (s.endRetrain 0 l 0 reached) := State.endRetrain_boots idle ..
  exact first.trans (State.endRetrain_boots (first.idle idle) ..)

theorem State.linkEvent_boots (l kind : Nat) : s.Boots (s.linkEvent l kind) := s.eventFree_boots _

theorem State.linkDown_boots (idle : s.cmds = []) (l kind : Nat) : s.Boots (s.linkDown l kind) := by
  have cut := ((s.put_boots (f := .ZYN_LINK_STATUS_STATE) (by decide) l 0).trans (State.linkEvent_boots _ l kind)).trans (State.refreshTransits_boots _ (linkDies l))
  exact cut.trans (State.endRetrains_boots _ (cut.idle idle) l 0)

theorem State.negotiate_boots (idle : s.cmds = []) (l : Nat) (tr : LinkTrain) : s.Boots (s.negotiate l tr) := by
  unfold State.negotiate
  refine .ite (s.linkDown_boots idle l 4) ?_
  dsimp only
  generalize (if l < 12 then min 2 tr.far.version else 1) = v
  have shown := (s.puts_boots (fs := [(.ZYN_LINK_STATUS_VERSION, v), (.ZYN_LINK_STATUS_CAPS, if v = 2 then tr.far.caps % 4 else 0), (.ZYN_LINK_STATUS_STATE, 6),
    (.ZYN_LINK_STATUS_TRAIN_TEMP, ofSigned 8 (s.linkTemp l))]) (by simp only [List.forall_mem_cons]; decide) l).trans (State.refreshTransits_boots _ (linkDies l))
  exact (shown.trans (State.endRetrains_boots _ (shown.idle idle) l 6)).trans (State.settle_boots _)

theorem State.assignWire_boots (l : Nat) (dir : Bool) (w : Nat) (new : Bool) : ∀ t, s.assignWire l dir w new = some t → s.Boots t := by
  intro t h
  obtain ⟨k, -, rfl⟩ := Option.map_eq_some_iff.1 h
  exact s.puts_boots (by simp only [List.forall_mem_cons]; decide) _

theorem State.repairWires_boots (l : Nat) : ∀ t, s.repairWires l = some t → s.Boots t := by
  have round (o : Option State) (e : Bool × Nat) (t : State) (h : (o.bind fun t => (t.assignWire l e.1 e.2 true).map fun t => t.wireEvent l e.1 e.2) = some t) :
      ∃ u, o = some u ∧ u.Boots t := by
    obtain ⟨u, rfl, assigned⟩ := Option.bind_eq_some_iff.1 h
    obtain ⟨v, taken, rfl⟩ := Option.map_eq_some_iff.1 assigned
    exact ⟨u, rfl, (u.assignWire_boots l e.1 e.2 true v taken).trans (v.eventFree_boots _)⟩
  have rounds (bad : List (Bool × Nat)) : ∀ (o : Option State) (t : State),
      (bad.foldl (fun o e => o.bind fun t => (t.assignWire l e.1 e.2 true).map fun t => t.wireEvent l e.1 e.2) o) = some t → ∃ u, o = some u ∧ u.Boots t := by
    induction bad with
    | nil => exact fun o t h => ⟨t, h, .rfl⟩
    | cons e bad ih =>
      intro o t h
      obtain ⟨v, now, rest⟩ := ih _ t h
      obtain ⟨u, start, one⟩ := round o e v now
      exact ⟨u, start, one.trans rest⟩
  intro t h
  obtain ⟨u, start, kept⟩ := rounds _ _ t h
  cases start
  exact kept

theorem State.repairLink_boots (idle : s.cmds = []) (l : Nat) : s.Boots (s.repairLink l) := by
  unfold State.repairLink
  split
  · next t h => exact (s.repairWires_boots l t h).trans (t.put_boots (by decide) ..)
  · exact s.linkDown_boots idle l 3

theorem State.trainLink_boots (idle : s.cmds = []) (l : Nat) (tr : LinkTrain) : s.Boots (s.trainLink l tr) := by
  unfold State.trainLink
  extract_lets down u
  have set := (s.setLink_boots l { Link.down with bad := tr.bad }).trans (State.put_boots _ (f := .ZYN_LINK_STATUS_STATE) (by decide) l 4)
  have repaired : s.Boots u := set.trans (State.repairLink_boots _ (set.idle idle) l)
  exact repaired.trans (.ite (u.negotiate_boots (repaired.idle idle) l tr) .rfl)

theorem State.trainUcie_boots (u modules rate : Nat) (repaired : Bool) : s.Boots (s.trainUcie u modules rate repaired) :=
  s.puts_boots (by simp only [List.forall_mem_cons]; decide) u

theorem State.trainAll_boots (idle : s.cmds = []) (inp : BootIn) : s.Boots (s.trainAll inp) := by
  unfold State.trainAll
  extract_lets links port ports sites trained
  have trains : s.Boots links := .foldlIdle (fun t l none => .ite (t.put_boots (by decide) ..) (t.trainLink_boots none ..)) _ idle
  have marsh : links.Boots ports := .foldl (fun t m => .ite .rfl (t.setLink_boots ..)) _ _
  have ucie : ports.Boots sites := .foldl (fun t u => t.trainUcie_boots ..) _ _
  have temps : sites.Boots trained := .of rfl rfl rfl rfl
  exact (((trains.trans marsh).trans ucie).trans temps).trans (trained.refreshTransits_boots _)

/-! ### The stores read (R382, R385, R386) -/

theorem State.assignLane_boots (k : Nat) (dir : Bool) (lane : Nat) (new : Bool) : ∀ t, s.assignLane k dir lane new = some t → s.Boots t := by
  intro t h
  obtain ⟨x, -, rfl⟩ := Option.map_eq_some_iff.1 h
  exact (s.puts_boots (by simp only [List.forall_mem_cons]; decide) _).trans (State.put_boots _ (by decide) ..)

/-- A spare put where one is free. -/
theorem State.Boots.getD {s : State} {o : Option State} (h : ∀ t, o = some t → s.Boots t) : s.Boots (o.getD s) := by
  obtain _ | t := o
  · exact .rfl
  · exact h t (Eq.refl _)

theorem State.applyEntry_boots (w : List Word) : s.Boots (s.applyEntry w) := by
  unfold State.applyEntry
  dsimp only
  split
  · exact s.puts_boots (by simp only [List.forall_mem_cons]; decide) _
  · exact .of rfl rfl rfl rfl
  · split
    · exact s.puts_boots (by simp only [List.forall_mem_cons]; decide) _
    · exact .rfl
  · split
    · exact (s.put_boots (by decide) ..).trans (State.put_boots _ (by decide) ..)
    · exact s.put_boots (by decide) ..
  · exact s.puts_boots (by simp only [List.forall_mem_cons]; decide) _
  · exact .getD (s.assignWire_boots _ _ _ _)
  · exact .getD (s.assignLane_boots _ _ _ _)
  · split
    · exact .of rfl rfl rfl rfl
    · exact .rfl
  · exact s.put_boots (by decide) ..
  · exact .rfl

theorem State.loadRepair_boots (lost : List Nat) : s.Boots (s.loadRepair lost) := by
  unfold State.loadRepair
  extract_lets b entries flash t es any
  have record : s.Boots t := .ite (.of rfl rfl rfl rfl) .rfl
  have mapped : t.Boots { t with repairMap := es, repairVer := t.flashVer } := .of rfl rfl rfl rfl
  exact (record.trans mapped).trans (State.puts_boots _ (by simp only [List.forall_mem_cons]; decide) 0)

theorem State.showLicence_boots (force : Nat) : s.Boots (s.showLicence force) :=
  (s.puts_boots (by simp only [List.forall_mem_cons]; decide) 0).trans (.of rfl rfl rfl rfl)

theorem State.loadLicence_boots (licenceOk hoursOk : Bool) : s.Boots (s.loadLicence licenceOk hoursOk) := by
  unfold State.loadLicence
  extract_lets h flash t
  have record : s.Boots t := .of rfl rfl rfl rfl
  exact (record.trans (t.put_boots (f := .LIC_HOURS_HOURS) (by decide) 0 h)).trans (State.showLicence_boots ..)

theorem State.loadFactory_boots : s.Boots s.loadFactory := by
  unfold State.loadFactory
  extract_lets f
  refine (s.put_boots (f := .BOOT_PKG_ID_PKG_REV) (by decide) 0 f.pkgRev).trans (.foldl (fun t d => ?_) _ _)
  exact (t.puts_boots (by simp only [List.forall_mem_cons]; decide) d).trans (State.puts_boots _ (by simp only [List.forall_mem_cons]; decide) d)

theorem State.showBist_boots (fails : List (Fin 8 × Nat × Nat × Nat)) : s.Boots (s.showBist fails) := by
  unfold State.showBist
  extract_lets entries counted
  have listed : s.Boots entries := by
    refine .foldl (fun t e => ?_) _ s
    exact t.puts_boots (fs := [(.BOOT_BIST_ENTRY_TEST, e.1.1.val), (.BOOT_BIST_ENTRY_UNIT, e.1.2.1), (.BOOT_BIST_ENTRY_INDEX, e.1.2.2.1), (.BOOT_BIST_ENTRY_DETAIL, e.1.2.2.2)])
      (by simp only [List.forall_mem_cons]; decide) e.2
  have counts : entries.Boots counted := by
    refine .foldl (fun t e => .ite .rfl ?_) _ _
    split
    case h_6 => exact .rfl
    all_goals exact t.bump_boots (by decide) ..
  exact (listed.trans counts).trans (counted.puts_boots (by simp only [List.forall_mem_cons]; decide) 0)

end

end Sys2Proof.Machine
end

section
/-!
PROOFS. A cold power-on with an authentic image reaches READY (R377, R390).
-/
namespace Sys2Proof.Machine

/-! ### READY and its reports -/

section
variable (s : State)

theorem State.ready_shown (start : Nat) : (s.ready start).on .HST_CP_STATUS_READY 0 = true ∧ (s.ready start).get .BOOT_STATUS_STEP 0 = 15 := by
  unfold State.ready State.on
  dsimp only
  constructor <;> simp (disch := decide) only [State.puts_cons, State.puts_nil, State.get_put_of_id, State.get_put_same] <;> rfl

theorem State.ready_get {f : Fld} (hf : f.id < 4096) (other : f.id ∉ [Fld.BOOT_STATUS_DURATION, .BOOT_STATUS_START, .BOOT_STATUS_STEP, .HST_CP_STATUS_READY].map Fld.id)
    (start i : Nat) : (s.ready start).get f i = s.get f i := by
  simp only [List.map_cons, List.map_nil, List.mem_cons, List.not_mem_nil, or_false, not_or] at other
  obtain ⟨duration, begun, step, ready⟩ := other
  unfold State.ready
  dsimp only
  rw [State.puts_cons, State.puts_cons, State.puts_cons, State.puts_cons, State.puts_nil]
  rw [State.get_put_of_id _ _ _ _ (by decide) hf ready, State.get_put_of_id _ _ _ _ (by decide) hf step, State.get_put_of_id _ _ _ _ (by decide) hf begun,
    State.get_put_of_id _ _ _ _ (by decide) hf duration]
  rfl

theorem State.powerEvent_boots (sub rail st : Nat) : s.Boots (s.powerEvent sub rail st) := by
  unfold State.powerEvent
  exact s.event_boots _

/-- The reports of a restart leave it where it is, its report bits apart. -/
theorem State.bootReports_boots : { s with always := s.bootReports.always }.Boots s.bootReports := by
  unfold State.bootReports
  extract_lets a trip fail brown power
  have tripped : s.Boots trip := .ite (s.event_boots _) .rfl
  have failed : trip.Boots fail := .ite (trip.powerEvent_boots ..) .rfl
  have browned : fail.Boots brown := .ite (fail.powerEvent_boots ..) .rfl
  have all := ((tripped.trans failed).trans browned).trans (brown.powerEvent_boots 71 0 (brown.get .PWR_WAKE_SOURCE 0))
  exact ⟨all.get, all.cmds, all.running, rfl⟩

/-- Steps 4 to 10 with no command in progress and no trip to report: READY, with the image and the address that the start had (R377). -/
theorem State.bringUp_ready (inp : BootIn) (idle : s.cmds = []) (untripped : s.always.tripReport = false) :
    (s.bringUp inp).on .HST_CP_STATUS_READY 0 = true ∧ (s.bringUp inp).get .BOOT_STATUS_STEP 0 = 15 ∧ (s.bringUp inp).flash.running = s.flash.running ∧
    (s.bringUp inp).get .PART_FW_CURRENT 0 = s.get .PART_FW_CURRENT 0 ∧ (s.bringUp inp).get .BOOT_PINS_SMB_ADDR 0 = s.get .BOOT_PINS_SMB_ADDR 0 := by
  unfold State.bringUp
  extract_lets licensed mapped tested cleared third booted final
  have stores : s.Boots licensed := (s.loadFactory_boots.trans (State.loadRepair_boots ..)).trans (State.loadLicence_boots ..)
  have entries : licensed.Boots mapped := by
    refine .foldl (fun t e => ?_) _ _
    split
    · exact t.applyEntry_boots _
    · exact .rfl
  have tests : mapped.Boots tested := (mapped.trainAll_boots ((stores.trans entries).idle idle) inp).trans (State.showBist_boots ..)
  have lost : tested.Boots cleared := .of rfl rfl rfl rfl
  have up := ((stores.trans entries).trans tests).trans lost
  have calm : final = booted := if_neg (by simp [third, up.always, untripped])
  have reports := (cleared.ready 0).bootReports_boots
  have none : booted.cmds = [] := reports.cmds.trans (up.idle idle)
  have kept (f : Fld) (hf : f ∈ bootFields) : booted.get f 0 = (cleared.ready 0).get f 0 := reports.get f hf 0
  obtain ⟨ready, step⟩ := cleared.ready_shown 0
  rw [calm, none]
  refine ⟨?_, (kept _ (by simp [bootFields])).trans step, reports.running.trans up.running, ?_, ?_⟩
  · exact (congrArg (· == 1) (kept .HST_CP_STATUS_READY (by simp [bootFields]))).trans ready
  · exact (kept _ (by simp [bootFields])).trans ((cleared.ready_get (by decide) (by decide) 0 0).trans (up.get _ (by simp [bootFields]) 0))
  · exact (kept _ (by simp [bootFields])).trans ((cleared.ready_get (by decide) (by decide) 0 0).trans (up.get _ (by simp [bootFields]) 0))

/-! ### The image started -/

theorem ofBytesLE_lt (bs : List Byte) : ofBytesLE bs < 256 ^ bs.length := by
  induction bs with
  | nil => decide
  | cons b bs ih =>
    have byte := b.isLt
    rw [ofBytesLE, List.length_cons, Nat.pow_succ]
    omega

theorem imgCore_lt (b : List Byte) : imgCore b < 2 ^ 16 := by
  have short : ((b.drop 0x0E).take 2).length ≤ 2 := List.length_take_le ..
  calc imgCore b < 256 ^ ((b.drop 0x0E).take 2).length := ofBytesLE_lt _
    _ ≤ 256 ^ 2 := Nat.pow_le_pow_right (by decide) short
    _ = 2 ^ 16 := by decide

theorem State.startImage_shown : s.startImage.flash.running = s.flash.image ∧ s.startImage.get .PART_FW_CURRENT 0 = imgCore s.flash.image := by
  unfold State.startImage
  dsimp only
  refine ⟨rfl, ?_⟩
  simp (disch := decide) only [State.puts_cons, State.puts_nil, State.get_put_of_id, State.get_put_same]
  exact Nat.mod_eq_of_lt (imgCore_lt _)

theorem State.startImage_address : s.startImage.get .BOOT_PINS_SMB_ADDR 0 = s.get .BOOT_PINS_SMB_ADDR 0 := by
  unfold State.startImage
  dsimp only
  simp (disch := decide) only [State.puts_cons, State.puts_nil, State.get_put_of_id]
  rfl

theorem State.startImage_rest : s.startImage.cmds = s.cmds ∧ s.startImage.always = s.always := ⟨rfl, rfl⟩

/-! ### Before step 3 -/

/-- The module as step 3 finds it at first power: its straps read, its always-on logic as the rail leaves it. -/
def State.coldStarted (s : State) (inp : BootIn) : State :=
  (({ s with always := { s.always with shut := 0, source := 0, wakePend := none, wakeLow := !s.on .BOOT_PINS_PERST_N 0 } }.put .BOOT_PINS_SMB_ADDR 0 (0x58 + inp.straps.val)).puts 0
    [(.BOOT_STATUS_PUF_FAIL, Bool.bit !inp.pufOk), (.BOOT_PINS_REFCLK_OK, Bool.bit inp.refclk)])

theorem State.coldStarted_address (inp : BootIn) : (s.coldStarted inp).get .BOOT_PINS_SMB_ADDR 0 = 0x58 + inp.straps.val := by
  unfold State.coldStarted
  simp (disch := decide) only [State.puts_cons, State.puts_nil, State.get_put_of_id, State.get_put_same]
  exact Nat.mod_eq_of_lt (show 0x58 + inp.straps.val < 128 by omega)

theorem State.coldStarted_get {f : Fld} (hf : f.id < 4096) (other : f.id ∉ [Fld.BOOT_PINS_SMB_ADDR, .BOOT_STATUS_PUF_FAIL, .BOOT_PINS_REFCLK_OK].map Fld.id) (inp : BootIn) (i : Nat) :
    (s.coldStarted inp).get f i = s.get f i := by
  simp only [List.map_cons, List.map_nil, List.mem_cons, List.not_mem_nil, or_false, not_or] at other
  obtain ⟨address, puf, refclk⟩ := other
  unfold State.coldStarted
  rw [State.puts_cons, State.puts_cons, State.puts_nil, State.get_put_of_id _ _ _ _ (by decide) hf refclk, State.get_put_of_id _ _ _ _ (by decide) hf puf,
    State.get_put_of_id _ _ _ _ (by decide) hf address]
  rfl

theorem State.coldStarted_rest (inp : BootIn) : (s.coldStarted inp).cmds = s.cmds ∧ (s.coldStarted inp).always.tripReport = s.always.tripReport ∧
    (s.coldStarted inp).flash = s.flash := ⟨rfl, rfl, rfl⟩

theorem State.coldStarted_imageOk (inp : BootIn) (b : List Byte) : (s.coldStarted inp).imageOk b = s.imageOk b := by
  unfold State.imageOk
  rw [s.coldStarted_get (by decide) (by decide)]
  rfl

/-- A first power-on with its factory record and its SVN floor stands or falls with the image (R380, R381). -/
theorem coldPowerOn_first {inp : BootIn} (on : s.always.shut = 0) (starting : s.on .HST_CP_STATUS_READY 0 = false) (power : s.get .PWR_STATE_STATE 0 = 0)
    (awake : s.inDoldrums = false) (floor : inp.floorLost = false) (factory : inp.factoryOk = true) :
    coldPowerOn inp s = if s.imageOk s.flash.image = true then (s.coldStarted inp).startImage.bringUp inp else (s.coldStarted inp).bringUpStop 3 := by
  have go : ¬(s.always.shut = 1 ∨ (s.inDoldrums = true ∧ (!s.on .HST_CP_STATUS_READY 0) = true ∧ s.always.shut = 0)) := by simp [on, awake]
  rw [coldPowerOn, if_neg go]
  extract_lets first straps source wake rises lost waked low rail named strapped pins flash floored started
  have begins : first := ⟨on, by simp [starting], power⟩
  have asleep : waked = s := (if_neg (by simp [wake, on])).trans ((if_pos begins).trans (if_pos begins))
  have low_eq : low = !s.on .BOOT_PINS_PERST_N 0 := (if_pos (by simp [rises, straps, on])).trans (by rw [asleep])
  have named_eq : named = { s with always := { s.always with shut := 0, source := 0, wakePend := none, wakeLow := !s.on .BOOT_PINS_PERST_N 0 } } := by
    simp only [named, rail, asleep, low_eq]
  have strapped_eq : strapped = named.put .BOOT_PINS_SMB_ADDR 0 (0x58 + inp.straps.val) := if_pos (.inl on)
  have cold : floored = s.coldStarted inp := by
    have kept : floored = pins := if_neg (by simp [floor])
    rw [kept, State.coldStarted, ← named_eq, ← strapped_eq]
  have image : (s.coldStarted inp).flash.image = s.flash.image := by rw [(s.coldStarted_rest inp).2.2]
  simp only [started, cold, factory, s.coldStarted_imageOk, image]
  cases s.imageOk s.flash.image
  · rw [if_pos (by rfl), if_neg (by decide)]
  · rw [if_neg (by decide), if_neg (by decide), if_pos (by rfl)]

/-- First power with an authentic image and nothing in progress (R377, R390). -/
theorem coldPowerOn_ready {inp : BootIn} (on : s.always.shut = 0) (starting : s.on .HST_CP_STATUS_READY 0 = false) (power : s.get .PWR_STATE_STATE 0 = 0)
    (awake : s.inDoldrums = false) (idle : s.cmds = []) (untripped : s.always.tripReport = false) (floor : inp.floorLost = false) (factory : inp.factoryOk = true)
    (authentic : s.imageOk s.flash.image = true) : let t := coldPowerOn inp s
    t.on .HST_CP_STATUS_READY 0 = true ∧ t.get .BOOT_STATUS_STEP 0 = 15 ∧ t.flash.running = s.flash.image ∧ t.get .PART_FW_CURRENT 0 = imgCore s.flash.image ∧
      t.get .BOOT_PINS_SMB_ADDR 0 = 0x58 + inp.straps.val := by
  dsimp only
  rw [coldPowerOn_first s on starting power awake floor factory, if_pos authentic]
  obtain ⟨running, version⟩ := (s.coldStarted inp).startImage_shown
  obtain ⟨sameCmds, sameAlways⟩ := (s.coldStarted inp).startImage_rest
  obtain ⟨cmds, trip, flash⟩ := s.coldStarted_rest inp
  obtain ⟨ready, step, image, core, address⟩ :=
    (s.coldStarted inp).startImage.bringUp_ready inp (sameCmds.trans (cmds.trans idle)) (by rw [sameAlways, trip, untripped])
  rw [flash] at running version
  exact ⟨ready, step, image.trans running, core.trans version, (address.trans (s.coldStarted inp).startImage_address).trans (s.coldStarted_address inp)⟩

end

end Sys2Proof.Machine
end

section
/-!
PROOFS. What entering Doldrums mode leaves of a start without commands in progress: partitions, cores and engines stopped (R26, R31, R308, R335).
-/
namespace Sys2Proof.Machine

section
variable (s : State)

/-! ### Metered work (R211) -/

theorem State.metering_boots (m : Option Meter) : s.Boots { s with metering := m } := .of rfl rfl rfl rfl

theorem State.metreAs_boots (src : Option Nat) (bgs : List Nat) (st : Store) (off n : Nat) : s.Boots (s.metreAs src bgs st off n) := by
  unfold State.metreAs
  split
  · exact .rfl
  · exact s.metering_boots _

theorem State.metreUse_boots (bg : Nat) : s.Boots (s.metreUse bg) := by
  unfold State.metreUse
  split
  · exact .rfl
  · exact s.metering_boots _

theorem State.barred_boots (p : Nat) (uses charges : List (Nat × Nat)) : ∀ t, s.barred p uses charges = some t → s.Boots t := by
  intro t h
  unfold State.barred at h
  dsimp only at h
  split_ifs at h <;> cases h
  · exact .rfl
  · exact .foldl (fun u r => u.setReg_boots ..) _ s

theorem State.chargeAll_boots (p : Nat) (uses charges : List (Nat × Nat)) : s.Boots (s.chargeAll p uses charges) :=
  .ite .rfl ((State.Boots.foldl (fun t _ => t.bgCharge_boots ..) _ s).trans (.foldl (fun t _ => t.regCharge_boots ..) _ _))

/-- Metered work keeps what its work keeps. -/
theorem State.metered_boots {α : Type} {f : State → α × State} (hf : ∀ u : State, u.Boots (f u).2) (p : Nat) (bg : Bool) : s.Boots (s.metered p bg f).2 := by
  unfold State.metered
  dsimp only
  split
  · exact .rfl
  · split
    · next t h => exact s.barred_boots _ _ _ t h
    · exact (((s.metering_boots _).trans (hf _)).trans (State.metering_boots _ _)).trans (State.chargeAll_boots ..)

/-! ### Engines at their rings (R301, R308) -/

theorem State.busWrite_boots (device : Bool) (a : Nat) (bs : List Byte) : s.Boots (s.busWrite device a bs).1 :=
  (s.busWrite_only device a bs).boots fun _ hf i => State.busWrite_get hf i s device a bs

theorem State.fire_boots (f v : Nat) : s.Boots (s.fire f v) := .ite (.of rfl rfl rfl rfl) .rfl

theorem State.setEngine_boots (e : Nat) (g : DmaEng) : s.Boots (s.setEngine e g) := .of rfl rfl rfl rfl

theorem State.ringMetre_boots (e a n : Nat) : s.Boots (s.ringMetre e a n) :=
  .ite (s.metreUse_boots _) (.foldl (fun t _ => t.metreAs_boots ..) _ s)

theorem State.hostSideRead_boots (st : Store) (off n : Nat) : s.Boots (s.hostSideRead st off n).2 := by
  have read := s.readNoted_boots st off n
  unfold State.hostSideRead
  dsimp only
  split
  · exact read
  · exact read.trans (State.defined_boots ..)

theorem State.readPieces_boots (rs : List (Store × Nat × Nat)) : s.Boots (s.readPieces rs).2 := by
  induction rs generalizing s with
  | nil => exact .rfl
  | cons x rs ih =>
    have first := s.hostSideRead_boots x.1 x.2.1 x.2.2
    unfold State.readPieces
    generalize s.hostSideRead x.1 x.2.1 x.2.2 = r at first ⊢
    obtain ⟨_ | bs, t⟩ := r
    · exact first
    · exact first.trans (ih t)

theorem State.readRun_boots (p : Nat) (host : Bool) (x : Int × Nat) : s.Boots (s.readRun p host x).2 := by
  unfold State.readRun
  split
  · exact .rfl
  · split
    · exact s.readPieces_boots _
    · exact .rfl

theorem State.dmaFetch_boots (e : Nat) : s.Boots (s.dmaFetch e).2 := by
  have read := (s.ringMetre_boots e (s.dmaHeadAddr e) 64).trans (State.readRun_boots _ (s.enginePart e) (s.on .DMA_CH_CTL_RING_HOST e) ((s.dmaHeadAddr e : Nat), 64))
  unfold State.dmaFetch
  generalize State.readRun _ (s.enginePart e) (s.on .DMA_CH_CTL_RING_HOST e) ((s.dmaHeadAddr e : Nat), 64) = r at read ⊢
  obtain ⟨_ | bs, t⟩ := r
  · exact read.trans (.ite (t.flagPart_boots ..) .rfl)
  · exact read

theorem State.dmaWriteBackAt_boots (e : Nat) (w : List Word) (st bytes moved : Nat) : s.Boots (s.dmaWriteBackAt e w st bytes moved) := by
  have written (t : State) (host : Bool) (a v0 : Nat) :
      t.Boots ((((t.ringMetre e (a + 56) 8).ringMetre e a 8).busWrite host (a + 56) (toBytesLE 8 bytes)).1.busWrite host a (toBytesLE 8 v0)).1 :=
    (((t.ringMetre_boots ..).trans (State.ringMetre_boots ..)).trans (State.busWrite_boots ..)).trans (State.busWrite_boots ..)
  have counted (t : State) (done : Nat) : t.Boots (if t.on .DMA_CH_DONE_ADDR_VALID e then ((t.metreAs none [bgDma] .cache done 8).atomic done 64 .add 1 0).2 else t) :=
    .ite ((t.metreAs_boots ..).trans (State.atomic_boots ..)) .rfl
  have told (t : State) : t.Boots (if flagOf (wordAt w 0) 1 then t.fire (t.engineFn e) (t.get .DMA_CH_CTL_VECTOR e) else t) := .ite (t.fire_boots ..) .rfl
  have moves (t : State) (head n : Nat) (g : DmaEng) :
      t.Boots (((((t.puts e [(.DMA_CH_STATUS_HEAD, head), (.DMA_CH_STATUS_LAST_STATUS, st), (.DMA_CH_STATUS_LAST_TAG, fieldOf (wordAt w 0) 23 16)]).bump
        .DMA_CH_COUNT_DESCRIPTORS e 1).bump .DMA_CH_COUNT_KIB e n).setEngine e g).settle) :=
    ((((t.puts_boots (by simp only [List.forall_mem_cons]; decide) e).trans (State.bump_boots _ (by decide) ..)).trans (State.bump_boots _ (by decide) ..)).trans
      (State.setEngine_boots ..)).trans (State.settle_boots _)
  exact (((written s _ _ _).trans (counted _ _)).trans (told _)).trans (moves _ _ _ _)

/-- One owned descriptor written back unrun; false where the head is not owned. -/
def State.flushHead (s : State) (e st : Nat) : Bool × State :=
  match s.dmaFetch e with
  | (some w, s) => if flagOf (wordAt w 0) 0 then (true, s.dmaWriteBackAt e w st 0 0) else (false, s)
  | (none, s) => (false, s)

theorem State.flushHead_boots (e st : Nat) : s.Boots (s.flushHead e st).2 := by
  have read := s.dmaFetch_boots e
  unfold State.flushHead
  generalize s.dmaFetch e = r at read ⊢
  obtain ⟨_ | w, t⟩ := r
  · exact read
  · dsimp only
    split
    · exact read.trans (t.dmaWriteBackAt_boots ..)
    · exact read

theorem State.dmaFlush_succ (fuel e st : Nat) : s.dmaFlush (fuel + 1) e st =
    match s.dmaMetered e fun t => t.flushHead e st with
    | (none, t) => (t, false)
    | (some true, t) => t.dmaFlush fuel e st
    | (some false, t) => (t, true) := rfl

theorem State.dmaFlush_boots (fuel e st : Nat) : s.Boots (s.dmaFlush fuel e st).1 := by
  induction fuel generalizing s with
  | zero => exact .rfl
  | succ n ih =>
    have head : s.Boots (s.dmaMetered e fun t => t.flushHead e st).2 := s.metered_boots (fun u => u.flushHead_boots e st) ..
    rw [State.dmaFlush_succ]
    generalize (s.dmaMetered e fun t => t.flushHead e st) = r at head ⊢
    obtain ⟨_ | _ | _, t⟩ := r
    · exact head
    · exact head
    · exact head.trans (ih t)

theorem State.dmaReturn_boots (e : Nat) : s.Boots (s.dmaReturn e) :=
  (s.put_boots (f := .DMA_CH_STATUS_HEAD) (by decide) e _).trans (.ite (State.store_boots ..) .rfl)

theorem State.dmaBoundary_boots (e : Nat) : s.Boots (s.dmaBoundary e) := by
  unfold State.dmaBoundary
  split
  · next st _ =>
    have flushed := (s.setEngine_boots e { s.engine e with flush := some st }).trans (State.dmaFlush_boots _ (2 ^ (s.get .DMA_CH_CTL_SIZE e + 4)) e st)
    generalize State.dmaFlush _ _ e st = r at flushed ⊢
    obtain ⟨t, _ | _⟩ := r
    · exact flushed
    · have ended := flushed.trans (t.setEngine_boots e { t.engine e with flush := none })
      have returned (u : State) : u.Boots (if (st = stTargetResetting && u.planDriven e) = true then u.dmaReturn e else u) := .ite (u.dmaReturn_boots e) .rfl
      exact (ended.trans (returned _)).trans (State.put_boots _ (by decide) e _)
  · exact .ite .rfl (s.put_boots (by decide) ..)

theorem State.dmaCut_boots (e st : Nat) : s.Boots (s.dmaCut e st) :=
  (s.setEngine_boots e _).trans (.ite (State.dmaBoundary_boots ..) .rfl)

/-! ### Work undone (R26, R27, R29) -/

theorem State.commitWrite_boots (a : Nat) (w : Word) : s.Boots (s.commitWrite a w) := by
  unfold State.commitWrite
  split
  · next st off _ =>
    extract_lets noted
    have slice : s.Boots noted := by
      dsimp only [noted]
      split
      · exact .ite .rfl (.of rfl rfl rfl rfl)
      · exact .rfl
    exact slice.trans (noted.store_boots ..)
  · exact .rfl

theorem State.dropUnits_boots (c : Nat) : s.Boots (s.dropUnits c) := .of rfl rfl rfl rfl

theorem State.undefineScratch_boots (p : Nat) : s.Boots (s.undefineScratch p) := by
  unfold State.undefineScratch
  extract_lets scratch
  have freed : s.Boots scratch := .foldl (fun t e => (t.frees_boots _).trans (State.rawWrite_boots ..)) _ s
  exact freed.trans (scratch.modPart_boots ..)

theorem State.restoreCarried_boots (p : Nat) : s.Boots (s.restoreCarried p) := .foldl (fun t _ => t.store_boots ..) _ s

theorem State.undoGust_boots (p : Nat) : s.Boots (s.undoGust p) := by
  unfold State.undoGust
  extract_lets written marked undone
  have taken : s.Boots written := .foldl (fun t e => t.commitWrite_boots ..) _ s
  have dropped : written.Boots undone := .of rfl rfl rfl rfl
  exact ((taken.trans dropped).trans ((undone.undefineScratch_boots p).trans (State.restoreCarried_boots ..))).trans (.foldl (fun t c => t.dropUnits_boots c) _ _)

/-! ### A job stopped, with its record and notice (R31, R288) -/

theorem State.haltCores_boots (p : Nat) : s.Boots (s.haltCores p) := .foldl (fun t c => .ite (t.put_boots (by decide) ..) .rfl) _ s

theorem State.stopRunning_boots (p : Nat) : s.Boots (s.stopRunning p) :=
  ((s.modPart_boots p _).trans (State.haltCores_boots _ p)).trans (State.puts_boots _ (by simp only [List.forall_mem_cons]; decide) p)

theorem State.setRing_boots (r : Nat) (g : Ring) : s.Boots (s.setRing r g) := .of rfl rfl rfl rfl

theorem State.ringError_boots (r kind a : Nat) : s.Boots (s.ringError r kind a) := by
  unfold State.ringError
  exact (((s.put_boots (f := .HST_RING_STATUS_ERROR) (by decide) r 1).trans (State.put_boots _ (f := .HST_RING_STATUS_ERR_KIND) (by decide) r kind)).trans (State.setRing_boots ..)).trans
    (State.event_boots ..)

theorem State.coalesce_boots (r : Nat) (intr : Bool) : s.Boots (s.coalesce r intr) :=
  .ite ((s.setRing_boots ..).trans (State.fire_boots ..)) (s.setRing_boots ..)

theorem State.writeComp_boots (c : Comp) : s.Boots (s.writeComp c) := by
  unfold State.writeComp
  dsimp only
  refine .ite .rfl (.ite ?_ ?_)
  · exact (s.busWrite_boots ..).trans (State.ringError_boots ..)
  · exact ((s.busWrite_boots ..).trans (State.setRing_boots ..)).trans (State.coalesce_boots ..)

theorem State.noticeTo_boots (f p kind status r0 r1 : Nat) : s.Boots (s.noticeTo f p kind status r0 r1) := by
  unfold State.noticeTo
  dsimp only
  refine .ite .rfl (.ite (s.event_boots _) ?_)
  exact (s.setRing_boots ..).trans (.ite (State.setRing_boots ..) (State.writeComp_boots ..))

theorem State.notice_boots (p kind status r0 r1 : Nat) : s.Boots (s.notice p kind status r0 r1) :=
  (s.noticeTo_boots 0 p kind status r0 r1).trans (.ite .rfl (State.noticeTo_boots ..))

theorem State.jobEvent_boots (p kind code : Nat) : s.Boots (s.jobEvent p kind code) := s.event_boots _

theorem State.stopJob_boots (p cause code : Nat) : s.Boots (s.stopJob p cause code) :=
  ((s.stopRunning_boots p).trans (State.jobEvent_boots ..)).trans (State.notice_boots ..)

end

end Sys2Proof.Machine
end

section
/-!
PROOFS. A cold power-on without an authentic image holds Doldrums cause 2 at step 3 (R381).
-/
namespace Sys2Proof.Machine

section
variable (s : State)

/-- Doldrums mode shown in its registers, before anything stops. -/
def State.doldrumsShown (s : State) (cause : Nat) : State :=
  ((s.put .PART_DOLDRUMS_HELD 0 (s.get .PART_DOLDRUMS_HELD 0 ||| 2 ^ (cause - 1))).puts 0
    [(.PART_DOLDRUMS_ACTIVE, 1), (.PART_DOLDRUMS_CAUSE, cause), (.HST_CP_STATUS_DOLDRUMS, 1)]).bump .PART_DOLDRUMS_ENTRIES 0 1

theorem State.doldrumsShown_active (cause : Nat) : (s.doldrumsShown cause).inDoldrums = true ∧ (s.doldrumsShown cause).get .PART_DOLDRUMS_CAUSE 0 = cause % 2 ^ Fld.PART_DOLDRUMS_CAUSE.width := by
  unfold State.doldrumsShown State.inDoldrums State.on State.bump
  simp (disch := decide) only [State.puts_cons, State.puts_nil, State.get_put_of_id, State.get_put_same]
  exact ⟨rfl, trivial⟩

theorem State.doldrumsShown_get {f : Fld} (hf : f.id < 4096) (cause i : Nat)
    (other : f.id ∉ [Fld.PART_DOLDRUMS_HELD, .PART_DOLDRUMS_ACTIVE, .PART_DOLDRUMS_CAUSE, .HST_CP_STATUS_DOLDRUMS, .PART_DOLDRUMS_ENTRIES].map Fld.id) :
    (s.doldrumsShown cause).get f i = s.get f i := by
  simp only [List.map_cons, List.map_nil, List.mem_cons, List.not_mem_nil, or_false, not_or] at other
  obtain ⟨held, active, shown, status, entries⟩ := other
  unfold State.doldrumsShown State.bump
  rw [State.get_put_of_id _ _ _ _ (by decide) hf entries, State.puts_cons, State.puts_cons, State.puts_cons, State.puts_nil, State.get_put_of_id _ _ _ _ (by decide) hf status,
    State.get_put_of_id _ _ _ _ (by decide) hf shown, State.get_put_of_id _ _ _ _ (by decide) hf active, State.get_put_of_id _ _ _ _ (by decide) hf held]

theorem State.doldrumsShown_cmds (cause : Nat) : (s.doldrumsShown cause).cmds = s.cmds := rfl

/-- What the entry stops, nothing being in progress, leaves where the start stands (R335). -/
theorem State.enterDoldrums_boots (awake : s.inDoldrums = false) (idle : s.cmds = []) (cause : Nat) : (s.doldrumsShown cause).Boots (s.enterDoldrums cause) := by
  unfold State.enterDoldrums
  extract_lets held marked shown jobs units engines ports cut spares
  have stopped : shown.Boots jobs := .foldl (fun t p => .ite ((t.undoGust_boots p).trans (State.stopJob_boots _ p stDoldrums _)) .rfl) _ _
  have dropped : jobs.Boots units := .foldl (fun t c => t.dropUnits_boots c) _ _
  have flushed : units.Boots engines := .foldl (fun t e => t.dmaCut_boots e stDoldrums) _ _
  have closed : engines.Boots ports := .foldl (fun t k => t.put_boots (by decide) ..) _ _
  have before := ((stopped.trans dropped).trans flushed).trans closed
  have none : ports.cmds = [] := before.cmds.trans ((s.doldrumsShown_cmds cause).trans idle)
  have uncut : cut = ports := by
    simp only [cut, none, List.filter_nil, List.foldl_nil]
  have after : ports.Boots spares := by
    dsimp only [spares]
    rw [uncut]
    exact .foldl (fun t m => .ite (t.puts_boots (by simp only [List.forall_mem_cons]; decide) m) .rfl) _ _
  rw [awake, if_neg (by decide)]
  exact (before.trans after).trans ((spares.put_boots (f := .PART_REPAIR_MIGRATING) (by decide) 0 0).trans (State.event_boots ..))

/-! ### Bring-up stopped (R381, R382) -/

/-- Bring-up stopped at a step, before it enters Doldrums mode. -/
def State.startStopped (s : State) (step : Nat) : State := s.puts 0 [(.BOOT_STATUS_STEP, step), (.BOOT_STATUS_START, 0), (.HST_CP_STATUS_READY, 0)]

theorem State.bootStop_eq (step : Nat) : s.bootStop step 0 = (s.startStopped step).enterDoldrums 2 := rfl

theorem State.startStopped_cmds (step : Nat) : (s.startStopped step).cmds = s.cmds := rfl

theorem State.startStopped_inDoldrums (step : Nat) : (s.startStopped step).inDoldrums = s.inDoldrums := by
  unfold State.startStopped State.inDoldrums State.on
  simp (disch := decide) only [State.puts_cons, State.puts_nil, State.get_put_of_id]

theorem State.startStopped_shown {step : Nat} (small : step < 16) :
    (s.startStopped step).get .BOOT_STATUS_STEP 0 = step ∧ (s.startStopped step).get .HST_CP_STATUS_READY 0 = 0 := by
  unfold State.startStopped
  simp (disch := decide) only [State.puts_cons, State.puts_nil, State.get_put_of_id, State.get_put_same]
  exact ⟨Nat.mod_eq_of_lt small, rfl⟩

theorem State.bootStop_boots (awake : s.inDoldrums = false) (idle : s.cmds = []) (step : Nat) : ((s.startStopped step).doldrumsShown 2).Boots (s.bootStop step 0) := by
  rw [State.bootStop_eq]
  exact State.enterDoldrums_boots _ ((s.startStopped_inDoldrums step).trans awake) ((s.startStopped_cmds step).trans idle) 2

/-- With no command in progress, no exit from Doldrums mode is there to fail. -/
theorem State.bringUpStop_idle (awake : s.inDoldrums = false) (idle : s.cmds = []) (step : Nat) : s.bringUpStop step = s.bootStop step 0 := by
  have left : (s.bootStop step 0).cmds = [] :=
    (s.bootStop_boots awake idle step).cmds.trans ((State.doldrumsShown_cmds _ 2).trans ((s.startStopped_cmds step).trans idle))
  rw [State.bringUpStop, left, List.filter_nil, List.foldl_nil]

theorem State.bringUpStop_shown (awake : s.inDoldrums = false) (idle : s.cmds = []) {step : Nat} (small : step < 16) : let t := s.bringUpStop step
    t.inDoldrums = true ∧ t.get .PART_DOLDRUMS_CAUSE 0 = 2 ∧ t.get .BOOT_STATUS_STEP 0 = step ∧ t.on .HST_CP_STATUS_READY 0 = false := by
  have entered := s.bootStop_boots awake idle step
  have kept {f : Fld} (hf : f ∈ bootFields) : (s.bootStop step 0).get f 0 = ((s.startStopped step).doldrumsShown 2).get f 0 := entered.get f hf 0
  obtain ⟨mode, cause⟩ := (s.startStopped step).doldrumsShown_active 2
  obtain ⟨shown, unready⟩ := s.startStopped_shown small
  dsimp only
  rw [s.bringUpStop_idle awake idle]
  refine ⟨?_, (kept (by simp [bootFields])).trans cause, ?_, ?_⟩
  · exact (congrArg (· == 1) (kept (f := .PART_DOLDRUMS_ACTIVE) (by simp [bootFields]))).trans mode
  · exact (kept (by simp [bootFields])).trans ((State.doldrumsShown_get _ (by decide) 2 0 (by decide)).trans shown)
  · exact congrArg (· == 1) ((kept (f := .HST_CP_STATUS_READY) (by simp [bootFields])).trans ((State.doldrumsShown_get _ (by decide) 2 0 (by decide)).trans unready))

/-- First power without an authentic image (R381). -/
theorem coldPowerOn_stops {inp : BootIn} (on : s.always.shut = 0) (starting : s.on .HST_CP_STATUS_READY 0 = false) (power : s.get .PWR_STATE_STATE 0 = 0)
    (awake : s.inDoldrums = false) (idle : s.cmds = []) (floor : inp.floorLost = false) (factory : inp.factoryOk = true) (image : s.imageOk s.flash.image = false) :
    let t := coldPowerOn inp s
    t.inDoldrums = true ∧ t.get .PART_DOLDRUMS_CAUSE 0 = 2 ∧ t.get .BOOT_STATUS_STEP 0 = 3 ∧ t.on .HST_CP_STATUS_READY 0 = false := by
  have active : (s.coldStarted inp).inDoldrums = false := (congrArg (· == 1) (s.coldStarted_get (f := .PART_DOLDRUMS_ACTIVE) (by decide) (by decide) inp 0)).trans awake
  dsimp only
  rw [coldPowerOn_first s on starting power awake floor factory, if_neg (by simp [image])]
  exact State.bringUpStop_shown _ active ((s.coldStarted_rest inp).1.trans idle) (by decide)

end

end Sys2Proof.Machine
end

section
/-!
PROOFS. Function and link resets, the reference clock, wake sources and cold power-on (R298, R370, R373, R377, R390).
-/
namespace Sys2Proof.Proofs
open Sys2Proof Sys2Proof.Machine

/-- The three resets that clear every ring (R298): a function-level reset of the PF leaves the link up. -/
theorem pfResets_clear {s : State} (hc : s.clocked = true) : ∀ i ∈ [(Instr.pfFlr, false), (.hotReset, true), (.linkDown false, true)], ∃ t : State, exec i.1 s = .next t ∧
    (∀ r, r < 64 → t.on .HST_RING_CTL_ENABLE r = false ∧ t.ring r = Ring.fresh) ∧
    (i.2 = true → t.on .HST_LINK_STATUS_UP 0 = false) ∧ t.vfEnable = false ∧ t.mem = s.mem ∧ ∀ c ∈ t.cmds, c.discard = true ∧ c.kind.isHostTransfer = false := by
  obtain ⟨rings, vfs, mem, cmds⟩ := linkReset_clears (s := s)
  obtain ⟨downRings, down, downVfs, downMem, downCmds⟩ := hostDown_clears (s := s)
  have pf : exec .pfFlr s = .next s.linkReset := congrArg Host.Outcome.next (State.whenClocked_on _ hc)
  have hot : exec .hotReset s = .next s.linkReset.hostDown := congrArg Host.Outcome.next (State.whenClocked_on _ hc)
  have lost : exec (.linkDown false) s = .next s.linkReset.hostDown := congrArg Host.Outcome.next (State.whenClocked_on _ hc)
  intro i hi
  simp only [List.mem_cons, List.not_mem_nil, or_false] at hi
  obtain rfl | rfl | rfl := hi
  · exact ⟨_, pf, rings, fun h => absurd h Bool.false_ne_true, vfs, mem, cmds⟩
  · exact ⟨_, hot, downRings, fun _ => down, downVfs, downMem, downCmds⟩
  · exact ⟨_, lost, downRings, fun _ => down, downVfs, downMem, downCmds⟩

/-- Settles O52: each reset by the fields that its register resets reach, and cold power-on by the relation `State.Boots`, which the work of training and of the stop
of every unit keeps. -/
theorem linkAndPowerPins : Obligations.LinkAndPowerPins := by
  refine ⟨fun s hc => ⟨fun v unbound => vfFlr_clears hc v unbound, pfResets_clear hc, fun w g form ok => hostLinkUp_shows hc w g form ok, refclkLost_shows hc,
    refclkStable_waits hc⟩, wakePins_start, fun inp s on starting power awake idle untripped floor factory => ⟨fun image => ?_, fun image => ?_⟩⟩
  · exact ⟨_, rfl, coldPowerOn_ready s on starting power awake idle untripped floor factory image⟩
  · exact ⟨_, rfl, coldPowerOn_stops s on starting power awake idle floor factory image⟩

end Sys2Proof.Proofs
end

section
/-!
PROOFS. A module whose clocks are stopped (R366, R410, R411) and the statement O3.
-/
namespace Sys2Proof.Machine

/-- A meaning that leaves the module as it is, or answers a fault. -/
def Idles (s : State) (o : Host.Outcome State Fault Refusal) : Prop := o = .next s ∨ o = .fault .illFormed

theorem Idles.eq_of_next {s t : State} {o : Host.Outcome State Fault Refusal} (h : Idles s o) (next : o = .next t) : t = s := by
  subst next
  obtain h | h := h <;> cases h
  rfl

section
variable {s : State} (off : s.clocked = false)
include off

theorem idles_clocked (f : State → State) : Idles s (.next (s.whenClocked f)) := .inl (congrArg _ (State.whenClocked_off f off))

/-- Boundaries come only while the clocks run (R366). -/
theorem idles_gusts (f : State → State) : Idles s (.next (s.whenGusts f)) := by
  rw [State.whenGusts, off]
  exact .inl rfl

/-- A row that tests its words first. -/
theorem idles_test {c : Prop} [Decidable c] (f : State → State) : Idles s (if c then .next (s.whenClocked f) else .fault .illFormed) :=
  iteInduction (fun _ => idles_clocked off f) fun _ => .inr rfl

theorem idles_unless {c : Prop} [Decidable c] (f : State → State) : Idles s (if c then .fault .illFormed else .next (s.whenClocked f)) :=
  iteInduction (fun _ => .inr rfl) fun _ => idles_clocked off f

/-- Every command that needs the clocks finds them stopped: each row's effect stands under `whenClocked` or `whenGusts`. -/
theorem exec_idles {i : Instr} (h : i.clockedOnly = true) : Idles s (exec i s) := by
  cases i with
  | lullStart | commitDecision | commitComplete | guardInterval | gustBoundary | gustSyncEdge | markerSend | gustMarker => exact idles_gusts off _
  | powerState | diePowerState | thermLimitSet => exact idles_unless off _
  | windowRead | windowWrite | peatMapWrite | hostLinkUp => exact idles_test off _
  | pass | elementwise | drain => exact idles_test off _
  | vld | vst | vdrain | vadd | vsub | vmul | vfma | vmax | vmin | vmuls | vadds | vcmpgt | vsel | viota | vrnd | vexp2 | vrcp | vrsqrt | vlogi | vrsum | vrmax
  | vprefix | vfirst | vlast | tclr | tfeed | tfeedx | tread | vrand => exact idles_test off _
  | matvec | bcast | gather | copy | copyX | init | logic | latch | popc | popcAnd => exact idles_test off _
  | forward | backward => exact idles_test off _
  | append | length | touch => exact idles_test off _
  | netRead | netWrite | netAtomic | netContrib | netFence | netWait => exact idles_test off _
  | dmaCopy | dmaSplit | dmaMerge | dmaFill | dmaContrib | dmaAtomic => exact idles_test off _
  | zynFlitReceive u | linkTrainingState u => cases u <;> exact idles_clocked off _
  | linkDown | clearTrip | sensorSample | msTick | trayRead | flowPulse | trayPresenceChange | currentClamp | clampRelease | inputOutOfRange | inputRangeTimeout
  | powerFail | alwaysOnBrownout | wakeN | smbusAddressMatch | perstN | refclkLost | coldPowerOn | wearMinute | poweredHour | freezeRelease | bypass | idcode
  | samplePreload | extest | regAccess | dumpSel | setEndpointId | getTid | setTid | getPldmVersion | getPldmTypes | getPldmCommands | stateEffecterSet
  | requestUpdate | activateFirmware | getVersion | getCapabilities | negotiateAlgorithms | getDigests | getCertificate | challenge | getMeasurements
  | refclkStable | inputBackWithinRange | numericSensorRead | stateSensorRead | pdrRepositoryRead | platformEventPoll | fruDataRead | chunking => exact absurd h Bool.false_ne_true
  | _ => exact idles_clocked off _

end

theorem State.clocked_pending (s : State) (w : List Instr) : State.clocked { s with pending := w } = s.clocked := rfl

theorem State.heldStill.exec_front {s t : State} {c : Instr} {rest : List Instr} (h : s.heldStill) (front : s.pending = c :: rest)
    (next : exec c { s with pending := rest } = .next t) : t = { s with pending := rest } :=
  have ⟨_, needs, off⟩ := h c (front ▸ List.mem_cons_self)
  (exec_idles ((s.clocked_pending rest).trans off) needs).eq_of_next next

/-- A step of a module that is held still takes the front command off the queue and does nothing else. -/
theorem State.heldStill.step_eq {s t : State} (h : s.heldStill) (next : step s = .next t) : t = { s with pending := s.pending.tail } := by
  cases queue : s.pending with
  | nil =>
    rw [step, queue] at next
    have same : { s with pending := [] } = s := congrArg (fun w => { s with pending := w }) queue.symm
    exact (Host.Outcome.next.inj next).symm.trans same.symm
  | cons c rest =>
    rw [step, queue] at next
    exact h.exec_front queue next

theorem State.heldStill.tail {s : State} (h : s.heldStill) : State.heldStill { s with pending := s.pending.tail } :=
  fun c hc => h c (List.mem_of_mem_tail hc)

end Sys2Proof.Machine

namespace Sys2Proof.Proofs
open Sys2Proof Sys2Proof.Machine

/-- Settles O3: every command that needs the clocks leaves a module with stopped clocks as it is, so a step only shortens the queue, and what waited behind still
waits on the same terms. -/
theorem stoppedModuleHoldsStill : Obligations.StoppedModuleHoldsStill := by
  intro s t held next
  obtain rfl := held.step_eq next
  exact ⟨held.tail, rfl⟩

end Sys2Proof.Proofs
end

section
/-!
PROOFS. Votes on a word held in three copies (R326) and the statement O9.
-/
namespace Sys2Proof.Machine

section
variable {α : Type} [DecidableEq α]

theorem Tri.vote_first (v : α) (x : Option α) : Tri.vote ⟨some v, some v, x⟩ = (some v, !decide (x = some v), Tri.of v) := if_pos rfl

/-- The middle copy is the minority: it is rewritten. -/
theorem Tri.vote_outer {v : α} {x : Option α} (differs : x ≠ some v) : Tri.vote ⟨some v, x, some v⟩ = (some v, true, Tri.of v) := by
  cases x with
  | none => exact if_pos rfl
  | some b =>
    have apart : ¬v = b := fun h => differs (congrArg some h.symm)
    exact (if_neg apart).trans (if_pos rfl)

/-- The first copy is the minority: it is rewritten. -/
theorem Tri.vote_last {v : α} {x : Option α} (differs : x ≠ some v) : Tri.vote ⟨x, some v, some v⟩ = (some v, true, Tri.of v) := by
  cases x with
  | none => exact if_pos rfl
  | some a =>
    have apart : ¬a = v := fun h => differs (congrArg some h)
    have third : ¬v = a := fun h => apart h.symm
    exact (if_neg apart).trans ((if_neg third).trans (if_pos rfl))

/-- With the first copy not intact, the vote is lost where the others do not agree. -/
theorem Tri.vote_lost_none {b c : Option α} (others : b = none ∨ b ≠ c) : Tri.vote ⟨none, b, c⟩ = (none, false, ⟨none, b, c⟩) := by
  cases b with
  | none => rfl
  | some b => cases c with
    | none => rfl
    | some c => exact if_neg fun h => others.elim (Option.some_ne_none b) (absurd (congrArg some h))

theorem Tri.vote_lost_some {a : α} {b c : Option α} (ab : some a ≠ b) (ac : some a ≠ c) (others : b = none ∨ b ≠ c) :
    Tri.vote ⟨some a, b, c⟩ = (none, false, ⟨some a, b, c⟩) := by
  cases b with
  | none => cases c with
    | none => rfl
    | some c => exact if_neg fun h => ac (congrArg some h)
  | some b =>
    have bc : some b ≠ c := others.resolve_left (Option.some_ne_none b)
    have first : ¬a = b := fun h => ab (congrArg some h)
    cases c with
    | none => exact if_neg first
    | some c => exact (if_neg first).trans ((if_neg fun h => ac (congrArg some h.symm)).trans (if_neg fun h => bc (congrArg some h.symm)))

/-- A vote is lost where no two intact copies agree. -/
theorem Tri.vote_lost {t : Tri α} (first : t.c0 = none ∨ (t.c0 ≠ t.c1 ∧ t.c0 ≠ t.c2)) (others : t.c1 = none ∨ t.c1 ≠ t.c2) : Tri.vote t = (none, false, t) := by
  obtain ⟨a, b, c⟩ := t
  cases a with
  | none => exact Tri.vote_lost_none others
  | some a =>
    obtain ⟨ab, ac⟩ := first.resolve_left (Option.some_ne_none a)
    exact Tri.vote_lost_some ab ac others

end

end Sys2Proof.Machine

namespace Sys2Proof.Proofs
open Sys2Proof Sys2Proof.Machine

/-- Settles O9: which two copies agree decides the vote. -/
theorem votesRecoverMinority : Obligations.VotesRecoverMinority :=
  fun v x => ⟨Tri.vote_first v x, fun differs => ⟨Tri.vote_outer differs, Tri.vote_last differs⟩, fun _ first others => Tri.vote_lost first others⟩

end Sys2Proof.Proofs
end

section
/-!
PROOFS. Retirement and spares asked for (R119, R329, R330) and the statement O31.
-/
namespace Sys2Proof.Machine

section
variable {s : State} {q : Req} {p0 p1 p2 : Word}

/-! ### Retirement -/

theorem State.queueBoundary_eq (b : BCmd) (op : Nat) : s.queueBoundary q op b = s.waiting q op (.boundary b) := rfl

theorem exec_retirePage {st : Store} {off : Nat} (h : s.Accepts opRetirePage q [p0, p1]) (aligned : p0.toNat % 2048 = 0) (begun : s.gustBegun p1.toNat = false)
    (mapped : s.devLoc p0.toNat = some (st, off)) (stack : st.isStack = true) : exec (.retirePage q p0 p1) s = .next (retirePage q p0 p1 s) := by
  have valid : ¬(p0.toNat % 2048 ≠ 0 ∨ s.gustBegun p1.toNat = true) := by simp [aligned, begun]
  exact hostRow_accepted h ((if_neg valid).trans (by rw [mapped]; exact if_pos stack)) _

theorem exec_retireBank (h : s.Accepts opRetireBank q [p0, p1]) (range : siteLocOk p0.toNat = true) (begun : s.gustBegun p1.toNat = false) :
    exec (.retireBank q p0 p1) s = .next (retireBank q p0 p1 s) :=
  hostRow_accepted h (by simp [range, begun]) _

/-! ### Spares asked for (R330) -/

section
variable {kind : Nat}

theorem spareRow_accepted (h : s.Accepts (opSpareEnable kind) q [BitVec.ofNat 64 kind, p1, p2]) (range : locOk kind p1.toNat = true)
    (begun : s.gustBegun p2.toNat = false) (far : Bool) :
    spareRow kind q p1 p2 s far = .next (spareEnable q kind p1.toNat p2.toNat (if far then s.farSpare p1.toNat (s.laneGust p2.toNat) else s)) :=
  hostRow_accepted h (by simp [range, begun]) _

theorem spareEnable_refused {loc : Nat} (g : Nat) (refused : s.spareStatus kind loc ≠ stOk) : spareEnable q kind loc g s = s.done q (s.spareStatus kind loc) := if_pos refused

/-- A free spare: kinds 4 and 5 migrate, a wire trains its group first, a lane tells the far end. -/
theorem spareEnable_free {loc : Nat} (g : Nat) (free : s.spareStatus kind loc = stOk) : let named := if kind = 7 then s.laneGust g else g
    spareEnable q kind loc g s =
      if kind = 4 then s.waiting q 0x2A (.migrateSite g loc false none 0)
      else if kind = 5 then s.waiting q 0x2A (.migrateChannel g loc false none)
      else (if kind = 6 ∧ s.trained 6 loc = false then s.startGroups (bitsOf loc 4 0) [32, bitsOf loc 15 6 / 32]
        else if kind = 7 then s.tellSpare loc named else s).waiting q 0x2A (.boundary (.spare named kind loc none)) := by
  have pass : ¬s.spareStatus kind loc ≠ stOk := fun h => h free
  rw [spareEnable]
  dsimp only
  rw [if_neg pass]
  simp only [State.ackEarly_startCmd, State.queueBoundary_eq, Bool.not_eq_true']

/-- The gust of a spare: the next for a lane that names none that is to come. -/
theorem laneGust_named (s : State) (kind g : Nat) : (if kind = 7 then s.laneGust g else g) = if kind = 7 ∧ g ≤ s.gust then s.gust + 1 else g := by
  by_cases lane : kind = 7
  · rw [if_pos lane, State.laneGust]
    exact if_congr (iff_of_eq (by simp [lane])) rfl rfl
  · rw [if_neg lane, if_neg fun h => lane h.1]

end

/-! ### A far end that confirms at once (R258) -/

/-- A confirmation is kept with its port. -/
theorem State.farSpare_eq (loc g : Nat) : ∃ xs, s.farSpare loc g = { s with xports := xs } := by
  unfold State.farSpare State.confirmSpare
  dsimp only
  split_ifs
  · exact ⟨s.xports, rfl⟩
  · exact ⟨_, rfl⟩
  · exact ⟨s.xports, rfl⟩

theorem State.farSpare_keeps (kind loc g : Nat) : let x := s.farSpare loc g
    x.spareStatus kind loc = s.spareStatus kind loc ∧ x.gust = s.gust ∧ x.trained 6 loc = s.trained 6 loc := by
  obtain ⟨xs, eq⟩ := s.farSpare_eq loc g
  rw [eq]
  exact ⟨rfl, rfl, rfl⟩

/-- What O31 says of a SPARE_ENABLE, its kind, and the state `x` in which a confirmation that comes with it stands. -/
def State.SpareMeets (s : State) (q : Req) (p1 p2 : Word) (i : Instr) (kind : Nat) (x : State) : Prop :=
  let loc := p1.toNat; let g := p2.toNat; let named := if kind = 7 ∧ g ≤ s.gust then s.gust + 1 else g
  s.Accepts (opSpareEnable kind) q [BitVec.ofNat 64 kind, p1, p2] → locOk kind loc = true → s.gustBegun g = false →
  (s.spareStatus kind loc ≠ stOk → exec i s = .next (x.done q (s.spareStatus kind loc))) ∧
  (s.spareStatus kind loc = stOk → exec i s = .next (
    if kind = 4 then x.waiting q 0x2A (.migrateSite g loc false none 0)
    else if kind = 5 then x.waiting q 0x2A (.migrateChannel g loc false none)
    else (if kind = 6 ∧ s.trained 6 loc = false then x.startGroups (bitsOf loc 4 0) [32, bitsOf loc 15 6 / 32]
      else if kind = 7 then x.tellSpare loc named else x).waiting q 0x2A (.boundary (.spare named kind loc none))))

/-- The state `x` differs from `s` in nothing that a spare is judged by. -/
theorem State.spareMeets_of {i : Instr} {kind : Nat} {far : Bool} {x : State} (row : exec i s = spareRow kind q p1 p2 s far)
    (hx : (if far then s.farSpare p1.toNat (s.laneGust p2.toNat) else s) = x)
    (keeps : x.spareStatus kind p1.toNat = s.spareStatus kind p1.toNat ∧ x.gust = s.gust ∧ x.trained 6 p1.toNat = s.trained 6 p1.toNat) :
    s.SpareMeets q p1 p2 i kind x := by
  obtain ⟨status, gust, trained⟩ := keeps
  intro h range begun
  have runs := row.trans (spareRow_accepted h range begun far)
  rw [hx] at runs
  refine ⟨fun refused => ?_, fun free => ?_⟩
  · rw [runs, spareEnable_refused _ (status ▸ refused), status]
  · rw [runs, spareEnable_free _ (status.trans free), laneGust_named, gust, trained]

theorem State.spareMeets_near {i : Instr} {kind : Nat} (row : exec i s = spareRow kind q p1 p2 s) : s.SpareMeets q p1 p2 i kind s :=
  State.spareMeets_of row (if_neg Bool.false_ne_true) ⟨rfl, rfl, rfl⟩

theorem State.spareMeets_far : s.SpareMeets q p1 p2 (.spareEnableLane q p1 p2 true) 7 (s.farSpare p1.toNat (s.laneGust p2.toNat)) :=
  State.spareMeets_of (far := true) rfl (if_pos rfl) (s.farSpare_keeps 7 _ _)

end

end Sys2Proof.Machine

namespace Sys2Proof.Proofs
open Sys2Proof Sys2Proof.Machine

/-- Settles O31: each command checked, and every kind of spare by what its row does. -/
theorem repairCommandsWait : Obligations.RepairCommandsWait := by
  intro q p0 p1 p2 s
  refine ⟨fun st off h aligned begun mapped stack => exec_retirePage h aligned begun mapped stack, fun h range begun => exec_retireBank h range begun, ?_⟩
  have near {i : Instr} {kind : Nat} (row : exec i s = spareRow kind q p1 p2 s) : s.SpareMeets q p1 p2 i kind s := State.spareMeets_near row
  intro e he
  simp only [List.mem_cons, List.not_mem_nil, or_false] at he
  obtain rfl | rfl | rfl | rfl | rfl | rfl | rfl | rfl := he
  · exact near (kind := 1) rfl
  · exact near (kind := 2) rfl
  · exact near (kind := 3) rfl
  · exact near (kind := 4) rfl
  · exact near (kind := 5) rfl
  · exact near (kind := 6) rfl
  · exact near (kind := 7) rfl
  · exact s.spareMeets_far

end Sys2Proof.Proofs
end

section
/-!
PROOFS. The repair map read and saved, and the end of a migration's copying (R203, R328, R331): the statement O32.
-/
namespace Sys2Proof.Machine

/-! ### A map held whole (R326, R328) -/

section
variable {s : State} {ws : List (List Word)}

/-- A vote on an entry whose copies agree leaves no record. -/
theorem State.voteOutcome_agreed (s : State) (p kind index : Nat) : s.voteOutcome p kind index true false = s := rfl

/-- Votes on entries that are whole change nothing and give them as they are. -/
theorem voteRounds_whole (es : List (Tri (List Word) × Nat)) (whole : ∀ e ∈ es, ∃ w, e.1 = Tri.of w) (done : List (Tri (List Word))) :
    es.foldl (fun acc e =>
      let (v, repaired, t) := e.1.vote
      (acc.1.voteOutcome 15 4 e.2 v.isSome repaired, acc.2 ++ [t])) (s, done) = (s, done ++ es.map Prod.fst) := by
  induction es generalizing done with
  | nil => rw [List.foldl_nil, List.map_nil, List.append_nil]
  | cons e es ih =>
    obtain ⟨⟨t, k⟩, rfl⟩ : ∃ x : Tri (List Word) × Nat, x = e := ⟨e, rfl⟩
    obtain ⟨w, rfl⟩ : ∃ w, t = Tri.of w := whole _ List.mem_cons_self
    rw [List.foldl_cons]
    simp only [Tri.vote_of, Option.isSome_some, State.voteOutcome_agreed]
    rw [ih (fun x hx => whole x (List.mem_cons_of_mem _ hx)), List.map_cons, List.append_assoc, List.singleton_append]

theorem State.voteRepair_whole (map : s.repairMap = ws.map Tri.of) : s.voteRepair = s := by
  have whole : ∀ e ∈ s.repairMap.zipIdx, ∃ w, e.1 = Tri.of w := by
    intro e he
    have mem : e.1 ∈ s.repairMap := by
      rw [← List.zipIdx_map_fst 0 s.repairMap]
      exact List.mem_map_of_mem he
    rw [map] at mem
    obtain ⟨w, -, hw⟩ := List.mem_map.1 mem
    exact ⟨w, hw.symm⟩
  unfold State.voteRepair
  rw [voteRounds_whole _ whole, List.nil_append, List.zipIdx_map_fst]

theorem votes_whole (map : s.repairMap = ws.map Tri.of) : s.repairMap.map (fun t => t.vote.1) = ws.map some := by
  rw [map, List.map_map]
  exact List.map_congr_left fun w _ => by rw [Function.comp_apply, Tri.vote_of]

theorem shown_whole (map : s.repairMap = ws.map Tri.of) : s.repairMap.filterMap Tri.shown = ws := by
  have shown : Tri.shown ∘ Tri.of = some (α := List Word) := rfl
  rw [map, List.filterMap_map, shown, List.filterMap_some]

/-- REPAIR_MAP_READ of such a map: the header and as many entries as fit. -/
theorem repairRead_whole (map : s.repairMap = ws.map Tri.of) (trained : s.untrained = false) (up : s.hostUp = true) (q : Req) (host n : Nat) : let need := 32 + 16 * ws.length
    repairRead q host n s = (s.hostStore host ((wordsToBytes [BitVec.ofNat 64 (s.repairVer + placed ws.length 32),
      BitVec.ofNat 64 (s.get .PART_REPAIR_SAVED 0), 0, 0] ++ ws.flatMap wordsToBytes).take
      (if n < 32 then 0 else if need ≤ n then need else 32 + (n - 32) / 16 * 16))).done q (if need ≤ n then stOk else stBadPacket) need s.repairVer := by
  have known : ¬(ws.map some).any Option.isNone = true := by simp
  have entries : ((ws.map some).flatMap fun e => wordsToBytes (e.getD [])) = ws.flatMap wordsToBytes := by
    rw [List.flatMap_map]
    rfl
  have reached : ¬(!s.hostUp) = true := by simp [up]
  intro need
  unfold repairRead
  rw [if_neg (by simp [trained]), State.voteRepair_whole map]
  dsimp only
  rw [votes_whole map]
  rw [if_neg known, if_neg reached, entries, List.length_map]
  exact (apply_ite (fun st => State.done _ q st need s.repairVer) (need ≤ n) stOk stBadPacket).symm

theorem repairSave_whole (map : s.repairMap = ws.map Tri.of) : repairSave s = { s.put .PART_REPAIR_SAVED 0 1 with flashMap := ws, flashVer := s.repairVer } := by
  rw [repairSave, shown_whole map]

end

/-! ### The end of a copy (R203, R331) -/

section
variable {s : State} {x : Cmd}

/-- Where no fault is listed and every bond and wire is whole, a copy has nothing to meet. -/
theorem State.metKeys_whole (faults : s.faults = []) (wires : s.deadWires = []) (lo hi : Nat) : s.metKeys lo hi = [] := by
  rw [State.metKeys, wires, faults]
  rfl

theorem State.countBad_whole (faults : s.faults = []) (wires : s.deadWires = []) (st : Store) (lo hi : Nat) (logical : Nat → Option Nat) :
    s.countBad st lo hi logical = (s, 0) := by
  rw [State.countBad, State.metKeys_whole faults wires, List.foldl_nil]

theorem siteMigrationDone_whole {c g loc w : Nat} (cmds : s.cmds = [x]) (kind : x.kind = .migrateSite g loc true none w)
    (site : s.siteOf (bitsOf loc 3 0) (bitsOf loc 16 11) = some c) (faults : s.faults = []) (wires : s.deadWires = []) :
    siteMigrationDone c s = { s with cmds := [{ x with kind := .migrateSite g loc true (some 0) w }] } := by
  unfold siteMigrationDone
  rw [cmds, List.find?_cons_of_pos (by rw [kind]; dsimp only; rw [site]; exact beq_self_eq_true _)]
  split
  · next y found =>
    cases found
    split
    · next copying =>
      cases kind.symm.trans copying
      split
      split
      next counted =>
        cases (State.countBad_whole faults wires ..).symm.trans counted
        exact State.replaceCmd_only cmds _
    · next other => exact (other _ _ _ _ _ kind).elim
  · next none => cases none

theorem siteMigrationDone_idle (cmds : s.cmds = []) (c : Nat) : siteMigrationDone c s = s := by
  rw [siteMigrationDone, cmds]
  rfl

/-- The channel's counts, as the end of its copy shows them. -/
def State.channelCopied (s : State) (m : Nat) : State := s.puts m [(.MRS_SPARE_PROGRESS, 255), (.MRS_SPARE_UNCORR_COPIED, saturate 16 0)]

theorem State.channelCopied_only (m : Nat) : s.onlyFields (s.channelCopied m) [Fld.MRS_SPARE_PROGRESS.key m, Fld.MRS_SPARE_UNCORR_COPIED.key m] := s.onlyFields_puts m _

theorem State.channelCopied_shown (m : Nat) : (s.channelCopied m).get .MRS_SPARE_PROGRESS m = 255 ∧ (s.channelCopied m).get .MRS_SPARE_UNCORR_COPIED m = 0 := by
  unfold State.channelCopied
  constructor <;> simp (disch := decide) only [State.puts_cons, State.puts_nil, State.get_put_of_id, State.get_put_same] <;> rfl

theorem marshMigrationDone_whole {m g loc : Nat} (cmds : s.cmds = [x]) (kind : x.kind = .migrateChannel g loc true none) (stack : bitsOf loc 3 0 = m)
    (faults : s.faults = []) (wires : s.deadWires = []) :
    marshMigrationDone m s = { s.channelCopied m with cmds := [{ x with kind := .migrateChannel g loc true (some 0) }] } := by
  have left : (s.channelCopied m).cmds = [x] := (s.channelCopied_only m).cmds.trans cmds
  unfold marshMigrationDone
  rw [cmds, List.find?_cons_of_pos (by simp only [kind, stack, BEq.rfl])]
  simp only [kind, State.metKeys_whole faults wires, List.filter_nil, List.foldl_nil]
  exact State.replaceCmd_only left _

theorem marshMigrationDone_idle (cmds : s.cmds = []) (m : Nat) : marshMigrationDone m s = s := by
  rw [marshMigrationDone, cmds]
  rfl

end

end Sys2Proof.Machine

namespace Sys2Proof.Proofs
open Sys2Proof Sys2Proof.Machine

/-- Settles O32: a map that is whole is voted without effect, and a module without faults has nothing for a copy to count. -/
theorem repairRecordsAndMigrations : Obligations.RepairRecordsAndMigrations := by
  intro s hc
  have site (c : Site) : exec (.siteMigrationDone c) s = .next (siteMigrationDone (siteNo c) s) := congrArg _ (State.whenClocked_on _ hc)
  have channel (m : Fin 12) : exec (.marshMigrationDone m) s = .next (marshMigrationDone m.val s) := congrArg _ (State.whenClocked_on _ hc)
  refine ⟨fun ws map => ⟨fun q p0 p1 h trained up => ?_, ?_⟩, fun c x g loc w cmds kind at_ faults wires => ?_, fun m x g loc cmds kind at_ faults wires => ?_,
    fun idle => ⟨fun c => ?_, fun m => ?_⟩⟩
  · have runs : exec (.repairMapRead q p0 p1) s = .next (repairRead q p0.toNat p1.toNat s) := hostRow_accepted h (chk := noCheck) rfl _
    exact runs.trans (congrArg _ (repairRead_whole map trained up q _ _))
  · have saves : exec .repairMapSave s = .next (repairSave s) := congrArg _ (State.whenClocked_on _ hc)
    have saved : (s.put .PART_REPAIR_SAVED 0 1).get .PART_REPAIR_SAVED 0 = 1 := State.get_put_same ..
    exact ⟨_, saves.trans (congrArg _ (repairSave_whole map)), rfl, rfl, saved, (s.onlyFields_put .PART_REPAIR_SAVED 0 1).2, rfl⟩
  · rw [site, siteMigrationDone_whole cmds kind at_ faults wires]
  · obtain ⟨progress, count⟩ := s.channelCopied_shown m.val
    have only := s.channelCopied_only m.val
    refine ⟨_, (channel m).trans (congrArg _ (marshMigrationDone_whole cmds kind at_ faults wires)), rfl, progress, count, ?_, only.2⟩
    rw [only.1]
  · rw [site, siteMigrationDone_idle idle]
  · rw [channel, marshMigrationDone_idle idle]

end Sys2Proof.Proofs
end

section
/-!
PROOFS. Monitors configured and read (R404, R405) and the statement O39.
-/
namespace Sys2Proof.Machine

section
variable {s : State} {q : Req}

/-- The read-out of a live monitor starts its next record; a windowed one stays (R405). -/
def State.recordStarted (s : State) (i : Nat) : State :=
  if (s.mon i).window = 0 then s.setMon i { s.mon i with live := MonRec.start s.gust } else s

theorem State.recordStarted_only (i : Nat) : s.recordStarted i = { s with mons := (s.recordStarted i).mons } := by
  unfold State.recordStarted
  split <;> rfl

theorem State.recordStarted_same (i : Nat) :
    (s.recordStarted i).mon i = if (s.mon i).window = 0 then { s.mon i with live := MonRec.start s.gust } else s.mon i := by
  unfold State.recordStarted
  split
  · exact s.mon_set_same ..
  · rfl

theorem State.recordStarted_other {i j : Nat} (other : j ≠ i) : (s.recordStarted i).mon j = s.mon j := by
  unfold State.recordStarted
  split
  · exact s.mon_set_other _ other
  · rfl

variable {i n : Nat}

/-- Outside Doldrums mode every monitor is served (R381). -/
theorem monRead_short (out : s.inDoldrums = false) (short : n < 640) (host : Nat) : monRead q i host n s = s.done q stBadPacket 640 := by
  have out : s.on .PART_DOLDRUMS_ACTIVE 0 = false := out
  simp [monRead, out, short]

theorem monRead_room (out : s.inDoldrums = false) (room : 640 ≤ n) (up : s.hostUp = true) (host : Nat) :
    monRead q i host n s = ((s.hostStore host (wordsToBytes (s.monWords i))).recordStarted i).done q stOk 640 := by
  have out : s.on .PART_DOLDRUMS_ACTIVE 0 = false := out
  simp only [monRead, out, Nat.not_lt.mpr room, up]
  rfl

end

end Sys2Proof.Machine

namespace Sys2Proof.Proofs
open Sys2Proof Sys2Proof.Machine

/-- Settles O39: a configuration waits for its boundary, and a read changes the record of its own monitor at most. -/
theorem monitorsAreConfiguredAndRead : Obligations.MonitorsAreConfiguredAndRead := by
  refine fun q p0 p1 p2 p3 s => ⟨fun h allowed => hostRow_accepted h allowed _, fun h allowed out => ?_⟩
  have runs : exec (.monRead q p0 p1 p2) s = .next (monRead q p0.toNat p1.toNat p2.toNat s) := hostRow_accepted h allowed _
  refine ⟨fun short => runs.trans (congrArg _ (monRead_short out short _)), fun room up => ?_⟩
  have stored (a : Nat) (bs : List Byte) (j : Nat) : (s.hostStore a bs).mon j = s.mon j := rfl
  have gust (a : Nat) (bs : List Byte) : (s.hostStore a bs).gust = s.gust := rfl
  refine ⟨_, runs.trans (congrArg _ (monRead_room out room up _)), ?_, fun j other => ?_, State.recordStarted_only _⟩
  · rw [State.recordStarted_same, stored, gust]
  · rw [State.recordStarted_other other, stored]

end Sys2Proof.Proofs
end

section
/-!
PROOFS. What the completion of a command leaves of the registers (R284, R287), and an accepted packet on other always-on state (R353).
-/
namespace Sys2Proof.Machine

section
variable {f : Fld} (hf : f.Unrecorded ∧ f.id ≠ Fld.HST_RING_STATUS_ERROR.id ∧ f.id ≠ Fld.HST_RING_STATUS_ERR_KIND.id) (i : Nat) (s : State)

theorem State.fire_get (f : Fld) (i n v : Nat) : (s.fire n v).get f i = s.get f i := by
  unfold State.fire
  split <;> rfl

theorem State.coalesce_get (f : Fld) (i r : Nat) (intr : Bool) : (s.coalesce r intr).get f i = s.get f i := by
  unfold State.coalesce
  dsimp only
  split
  · exact State.fire_get ..
  · rfl

include hf

theorem State.ringError_get (r kind a : Nat) : (s.ringError r kind a).get f i = s.get f i := by
  obtain ⟨unrecorded, error, why⟩ := hf
  exact (State.event_get unrecorded i _ _).trans ((State.get_put_of_id _ _ _ _ (by decide) unrecorded.1 why).trans (State.get_put_of_id _ _ _ _ (by decide) unrecorded.1 error))

theorem State.writeComp_get (c : Comp) : (s.writeComp c).get f i = s.get f i := by
  have bus (device : Bool) (a : Nat) (bs : List Byte) := State.busWrite_get hf.1 i s device a bs
  unfold State.writeComp
  dsimp only
  split
  · rfl
  · split
    · exact (State.ringError_get hf ..).trans (bus ..)
    · exact (State.coalesce_get ..).trans (bus ..)

theorem State.postComp_get (c : Comp) : (s.postComp c).get f i = s.get f i := by
  unfold State.postComp
  dsimp only
  split
  · rfl
  · exact State.writeComp_get hf i s c

theorem State.complete_get (q : Req) (discard : Bool) (status gust r0 r1 : Nat) : (s.complete q discard status gust r0 r1).get f i = s.get f i := by
  unfold State.complete
  split
  · rfl
  · exact State.postComp_get hf i s _

theorem State.done_get (q : Req) (status r0 r1 : Nat) : (s.done q status r0 r1).get f i = s.get f i := State.complete_get hf i s q false status s.gust r0 r1

theorem State.endCmd_get (c : Cmd) (status gust r0 r1 : Nat) : (s.endCmd c status gust r0 r1).get f i = s.get f i :=
  State.complete_get hf i { s with cmds := s.cmds.erase c } ..

end

/-- What is accepted with PARTITION 15 is taken alike while the always-on domain has the module shut off: the wrapper reads registers only. -/
theorem State.hostCmd_shut {s : State} {op : HostOp} {q : Req} {ps : List Word} (h : s.Accepts op q ps) (module : 12 ≤ q.part.val) (a : AlwaysOn) {chk : State → Nat}
    (hc : chk { s with always := a } = 0) (run : State → State) : State.hostCmd op q ps chk run { s with always := a } = run { s with always := a } := by
  have bound : ¬(s.get .HST_RING_CTL_OWNER q.ring.val ≠ 0 ∧ (!s.on .HST_FUNC_CTL_BOUND (s.get .HST_RING_CTL_OWNER q.ring.val)) = true) := by
    simpa [or_iff_not_imp_left] using h.bound
  have awake : ¬(s.inDoldrums && !doldrumsAccepts op.code) = true := by simpa [or_iff_not_imp_left] using h.awake
  have powered : ¬(s.get .PWR_STATE_STATE 0 = 2 ∧ (!sleepAccepts op.code) = true) := by simpa [or_iff_not_imp_left] using h.powered
  have formed : State.packetReason { s with always := a } op q ps = 0 := h.formed
  refine (if_neg bound).trans ?_
  rw [formed, hc, ite_self]
  exact (if_neg (by simp)).trans ((if_neg awake).trans ((if_neg powered).trans (by rw [State.gate_module _ _ _ module])))

/-- Only PARTITION 15 carries a command of the module (R289). -/
theorem State.packetReason_module {s : State} {op : HostOp} {q : Req} {ps : List Word} (formed : s.packetReason op q ps = 0) (module : op.scope = .pfModule) :
    q.part.val = 15 := by
  unfold State.packetReason at formed
  dsimp only at formed
  by_contra other
  split at formed
  · cases formed
  split at formed
  · cases formed
  split at formed
  · cases formed
  · rw [if_pos ⟨module, other⟩] at formed
    cases formed

/-! ### Fields written at many copies -/

section
variable {s t : State} {ks : List Nat}

theorem State.onlyFields_rfl (s : State) : s.onlyFields s [] := ⟨rfl, fun _ _ _ => rfl⟩

theorem State.onlyFields_foldl {α : Type} {f : State → α → State} {key : α → List Nat} (step : ∀ (s : State) x, s.onlyFields (f s x) (key x)) (l : List α) (s : State) :
    s.onlyFields (l.foldl f s) (l.flatMap key) := by
  induction l generalizing s with
  | nil => exact s.onlyFields_rfl
  | cons x l ih =>
    rw [List.foldl_cons, List.flatMap_cons]
    exact (step s x).trans (ih _)

/-- A field whose number is not among those of the keys written keeps every copy. -/
theorem State.fieldsKept.get_of_id (kept : s.fieldsKept t ks) {f : Fld} (hf : f.id < 4096) (other : f.id ∉ ks.map keyField) (i : Nat) : t.get f i = s.get f i :=
  State.get_of_kept kept fun mem => other (keyField_key i hf ▸ List.mem_map_of_mem mem)

end

/-- The keys of the registers that show each partition's firmware slot. -/
def fwSlotKeys : List Nat := (List.range 12).map Fld.PART_STATUS_FW_SLOT.key ++ [Fld.PART_FW_PREVIOUS.key 0]

theorem State.fwSlots_only (s : State) : s.onlyFields s.fwSlots fwSlotKeys := by
  refine (State.onlyFields.mono (State.onlyFields_foldl (fun s p => s.onlyFields_put .PART_STATUS_FW_SLOT p _) _ s) fun k mem => ?_).trans
    (State.onlyFields_put _ .PART_FW_PREVIOUS 0 _)
  obtain ⟨p, hp, same⟩ := List.mem_flatMap.1 mem
  exact List.mem_singleton.1 same ▸ List.mem_map_of_mem (List.mem_of_mem_filter hp)

end Sys2Proof.Machine
end

section
/-!
PROOFS. Limits, the cleared trip and the wake enables (R342, R353, R365, R370) and the statement O37.
-/
namespace Sys2Proof.Machine

section
variable {s : State} {q : Req} {p0 : Word}

/-! ### Limits (R342, R365) -/

/-- A limit given to a command: 0 keeps the present one. -/
def State.given (s : State) (f : Fld) (v : Nat) : State := if v = 0 then s else s.put f 0 v

theorem State.onlyFields_given (s : State) (f : Fld) (v : Nat) : s.onlyFields (s.given f v) [f.key 0] := by
  unfold State.given
  split
  · exact ⟨rfl, fun _ _ _ => rfl⟩
  · exact s.onlyFields_put f 0 v

theorem State.get_given_same (s : State) (f : Fld) {v : Nat} (small : v < 2 ^ f.width) : (s.given f v).get f 0 = if v = 0 then s.get f 0 else v := by
  unfold State.given
  split
  · rfl
  · rw [State.get_put_same, Nat.mod_eq_of_lt small]

theorem State.get_given_other (s : State) {f g : Fld} (v : Nat) (hf : f.id < 4096) (hg : g.id < 4096) (other : g.id ≠ f.id) : (s.given f v).get g 0 = s.get g 0 := by
  unfold State.given
  split
  · rfl
  · exact s.get_put_of_id 0 0 v hf hg other

/-- Limits of THERM_LIMIT_SET that it may not set. -/
def State.limitsOut (s : State) (p0 : Word) : Prop :=
  (fieldOf p0 15 0 ≠ 0 ∧ (fieldOf p0 15 0 < 1000 ∨ 4800 < fieldOf p0 15 0)) ∨ s.get .THM_LIMITS_LOGIC_THROTTLE 0 < fieldOf p0 23 16 ∨
    s.get .THM_LIMITS_MEM_THROTTLE 0 < fieldOf p0 31 24

/-- The three limits of THERM_LIMIT_SET in place. -/
def State.limited (s : State) (p0 : Word) : State :=
  ((s.given .PWR_LIMIT_LIMIT (fieldOf p0 15 0)).given .THM_LIMITS_LOGIC_THROTTLE (fieldOf p0 23 16)).given .THM_LIMITS_MEM_THROTTLE (fieldOf p0 31 24)

theorem State.limitsSet_out (out : s.limitsOut p0) : s.limitsSet p0 = none := if_pos out

theorem State.limitsSet_in (range : ¬s.limitsOut p0) : s.limitsSet p0 = some (s.limited p0) := if_neg range

theorem State.limited_only (s : State) (p0 : Word) :
    s.onlyFields (s.limited p0) [Fld.PWR_LIMIT_LIMIT.key 0, Fld.THM_LIMITS_LOGIC_THROTTLE.key 0, Fld.THM_LIMITS_MEM_THROTTLE.key 0] :=
  ((s.onlyFields_given ..).trans (State.onlyFields_given ..)).trans (State.onlyFields_given ..)

theorem State.limited_get (s : State) (p0 : Word) :
    (s.limited p0).get .PWR_LIMIT_LIMIT 0 = (if fieldOf p0 15 0 = 0 then s.get .PWR_LIMIT_LIMIT 0 else fieldOf p0 15 0) ∧
    (s.limited p0).get .THM_LIMITS_LOGIC_THROTTLE 0 = (if fieldOf p0 23 16 = 0 then s.get .THM_LIMITS_LOGIC_THROTTLE 0 else fieldOf p0 23 16) ∧
    (s.limited p0).get .THM_LIMITS_MEM_THROTTLE 0 = (if fieldOf p0 31 24 = 0 then s.get .THM_LIMITS_MEM_THROTTLE 0 else fieldOf p0 31 24) := by
  have small (hi lo : Nat) : fieldOf p0 hi lo < 2 ^ (hi - lo + 1) := Nat.mod_lt _ (Nat.two_pow_pos _)
  unfold State.limited
  refine ⟨?_, ?_, ?_⟩
  · rw [State.get_given_other _ _ (by decide) (by decide) (by decide), State.get_given_other _ _ (by decide) (by decide) (by decide),
      State.get_given_same _ _ (small 15 0)]
  · rw [State.get_given_other _ _ (by decide) (by decide) (by decide), State.get_given_same _ _ (small 23 16),
      State.get_given_other _ _ (by decide) (by decide) (by decide)]
  · rw [State.get_given_same _ _ (small 31 24), State.get_given_other _ _ (by decide) (by decide) (by decide),
      State.get_given_other _ _ (by decide) (by decide) (by decide)]

/-! ### CLEAR_TRIP (R353) -/

theorem State.limited_tripped (s : State) (p0 : Word) (q : Req) (status : Nat) : ((s.limited p0).done q status).tripped = s.tripped := by
  have valid : ((s.limited p0).done q status).get .THM_TRIP_VALID 0 = s.get .THM_TRIP_VALID 0 := by
    rw [State.done_get ⟨⟨by decide, by decide +kernel⟩, by decide, by decide⟩]
    exact State.get_of_kept (s.limited_only p0).2 (by decide)
  have always : ((s.limited p0).done q status).always = s.always := by
    rw [State.done_only, (s.limited_only p0).1]
  rw [State.tripped, State.on, valid, always]
  rfl

/-- A module that has not tripped takes the limits. -/
theorem clearTrip_whole (whole : s.tripped = false) : clearTrip q p0 s = thermLimit q p0 s := by
  unfold clearTrip thermLimit
  rw [whole, Bool.false_and, if_neg Bool.false_ne_true]
  by_cases out : s.limitsOut p0
  · rw [State.limitsSet_out out]
  · rw [State.limitsSet_in out]
    have whole := (s.limited_tripped p0 q stOk).trans whole
    exact if_neg (by simp [whole])

theorem clearTrip_hot (tripped : s.tripped = true) (hot : s.allCool = false) : clearTrip q p0 s = s.done q stBadPacket := if_pos (by simp [tripped, hot])

/-- A trip cleared: a cold power-on is due. -/
def State.tripCleared (s : State) : State :=
  { s.puts 0 [(.BOOT_PINS_TRIP_DRIVEN, 0)] with always := { s.always with cleared := true, shut := 3, source := 5 } }

theorem clearTrip_cool (tripped : s.tripped = true) (cool : s.allCool = true) (range : ¬s.limitsOut p0) :
    clearTrip q p0 s = ((s.limited p0).done q stOk).tripCleared := by
  have still := (s.limited_tripped p0 q stOk).trans tripped
  unfold clearTrip
  rw [if_neg (by simp [cool]), State.limitsSet_in range]
  exact if_pos still

theorem State.tripCleared_undriven (s : State) : s.tripCleared.on .BOOT_PINS_TRIP_DRIVEN 0 = false := by
  have get : (s.put .BOOT_PINS_TRIP_DRIVEN 0 0).get .BOOT_PINS_TRIP_DRIVEN 0 = 0 := State.get_put_same ..
  exact congrArg (· == 1) get

theorem State.tripCleared_whole (s : State) : s.tripCleared.tripped = false := Bool.and_false _

/-! ### Wake enables (R370) -/

/-- A bit of the register that a write of the whole register leaves as written. -/
theorem State.writes_bit {s : State} {fs : List Fld} {f : Fld} (v i : Nat) (mem : f ∈ fs) (distinct : (fs.map Fld.id).Nodup) (small : ∀ x ∈ fs, x.id < 4096)
    (rw_ : f.acc = .rw) (bit : f.hi = f.lo) (low : f.hi < 32) (range : f.okLo = 0 ∧ f.okHi = 1) :
    (fs.foldl (fun t f => t.writeField f i (v % 2 ^ 32) (2 ^ 32 - 1)) s).get f i = v / 2 ^ f.lo % 2 := by
  obtain ⟨t, ht⟩ := s.get_writes i (v % 2 ^ 32) (2 ^ 32 - 1) mem distinct small
  have bits : bitsOf (v % 2 ^ 32) f.hi f.lo = v / 2 ^ f.lo % 2 := by
    rw [bitsOf_mod_word low bit.ge, bitsOf, bit, Nat.sub_self, Nat.zero_add, Nat.pow_one]
  have below : v / 2 ^ f.lo % 2 < 2 := Nat.mod_lt _ (by decide)
  rw [ht, State.get_writeField_rw _ t i rw_ low bit.ge (by rw [bits]; omega), bits]

end

end Sys2Proof.Machine

namespace Sys2Proof.Proofs
open Sys2Proof Sys2Proof.Machine

/-- Settles O37: a limit given is taken or the whole command refused; a cleared trip leaves the module to start; a write keeps one wake enable. -/
theorem limitsAndTrip : Obligations.LimitsAndTrip := by
  refine ⟨fun q p0 s h => ⟨fun c form => ?_, ?_⟩, fun v s hc => ?_⟩
  · have runs : exec c s = .next (thermLimit q p0 s) := by
      obtain ⟨rfl, flag⟩ | ⟨rfl, flag, whole⟩ := form
      · exact (if_neg (by simp [flag])).trans (hostRow_accepted h (chk := noCheck) rfl _)
      · rw [← clearTrip_whole whole]
        exact (if_neg (by simp [flag])).trans ((if_neg (by simp [whole])).trans (hostRow_accepted h (chk := noCheck) rfl _))
    refine ⟨fun out => ?_, fun range => ?_⟩
    · rw [runs, thermLimit, State.limitsSet_out out]
    · obtain ⟨power, logic, mem⟩ := s.limited_get p0
      refine ⟨s.limited p0, ?_, power, logic, mem, s.limited_only p0⟩
      rw [runs, thermLimit, State.limitsSet_in range]
  · rintro z rfl flag tripped
    have module : 12 ≤ q.part.val := by rw [State.packetReason_module h.formed rfl]; decide
    have runs : exec (.clearTrip q p0) { s with always := { s.always with shut := 1 } } = .next (clearTrip q p0 { s with always := { s.always with shut := 1 } }) :=
      (if_neg (by simp [flag])).trans ((if_pos ⟨tripped, rfl⟩).trans (congrArg _ (State.hostCmd_shut h module _ (chk := noCheck) rfl _)))
    refine ⟨fun hot => ?_, fun cool range => ?_⟩
    · exact runs.trans (congrArg _ (clearTrip_hot tripped hot))
    · exact ⟨_, runs.trans (congrArg _ (clearTrip_cool tripped cool range)), rfl, rfl, rfl, State.tripCleared_undriven _, State.tripCleared_whole _⟩
  · have runs : exec (.pwrWakeCtlWrite v) s = .next (wakeCtlWrite (v.toNat % 2 ^ 32) (2 ^ 32 - 1) s) := congrArg _ (State.whenClocked_on _ hc)
    let t := s.writeFields .PWR_WAKE_CTL 0 (v.toNat % 2 ^ 32) (2 ^ 32 - 1)
    have perst : t.get .PWR_WAKE_CTL_PERST_EN 0 = v.toNat / 2 ^ Fld.PWR_WAKE_CTL_PERST_EN.lo % 2 :=
      State.writes_bit _ 0 (by decide) (by decide) (by decide) rfl rfl (by decide) ⟨rfl, rfl⟩
    have smbus : t.get .PWR_WAKE_CTL_SMBUS_EN 0 = v.toNat / 2 ^ Fld.PWR_WAKE_CTL_SMBUS_EN.lo % 2 :=
      State.writes_bit _ 0 (by decide) (by decide) (by decide) rfl rfl (by decide) ⟨rfl, rfl⟩
    have wake : t.get .PWR_WAKE_CTL_WAKEN_EN 0 = v.toNat / 2 ^ Fld.PWR_WAKE_CTL_WAKEN_EN.lo % 2 :=
      State.writes_bit _ 0 (by decide) (by decide) (by decide) rfl rfl (by decide) ⟨rfl, rfl⟩
    have split : wakeCtlWrite (v.toNat % 2 ^ 32) (2 ^ 32 - 1) s =
        if t.get .PWR_WAKE_CTL_PERST_EN 0 = 0 ∧ t.get .PWR_WAKE_CTL_SMBUS_EN 0 = 0 ∧ t.get .PWR_WAKE_CTL_WAKEN_EN 0 = 0 then s else t := rfl
    rw [perst, smbus, wake] at split
    refine ⟨fun none => runs.trans (congrArg _ (split.trans (if_pos none))), fun some => ?_⟩
    exact ⟨t, runs.trans (congrArg _ (split.trans (if_neg some))), perst, smbus, wake, State.onlyFields_writes ..⟩

end Sys2Proof.Proofs
end

section
/-!
PROOFS. Firmware images, licence records, attestation and the count of hours (R333, R391, R394 to R396, R398) and the statement O50.
-/
namespace Sys2Proof.Machine

section
variable {s : State} {q : Req}

/-! ### FW_LOAD (R391) -/

theorem fwLoad_reached (up : s.hostUp = true) (a n : Nat) : fwLoad q a n s =
    if slotBytes < n ∨ s.imageOk (s.hostRead a n) = false then s.done q stBadPacket else if s.slotBusy then s.done q stBusy
    else { s with cmds := s.cmdsWith q 0x4A (.fwLoad (s.hostRead a n) (imgCore (s.hostRead a n))) } := by
  unfold fwLoad
  simp only [up]
  by_cases large : slotBytes < n
  · rw [if_pos large, if_pos (.inl large)]
  · by_cases authentic : s.imageOk (s.hostRead a n) = true
    · simp only [large, authentic]
      rfl
    · have forged := eq_false_of_ne_true authentic
      simp only [large, forged]
      rfl

/-- The slot holds the image, whatever Doldrums mode notes of it. -/
theorem State.writeSlot_holds (s : State) (b : List Byte) : (s.writeSlot b).flash.image = b ∧ (s.writeSlot b).get .PART_FW_CURRENT 0 = imgCore b ∧ (s.writeSlot b).cmds = s.cmds := by
  have only := State.fwSlots_only ({ s with flash := { s.flash with image := b } }.put .PART_FW_CURRENT 0 (imgCore b))
  have noted (t : State) (a : AlwaysOn) (c : Prop) [Decidable c] (u : State) (hu : u = if c then { t with always := a } else t) :
      u.flash = t.flash ∧ u.flds = t.flds ∧ u.cmds = t.cmds := by
    subst hu
    split <;> exact ⟨rfl, rfl, rfl⟩
  obtain ⟨flash, flds, cmds⟩ := noted _ _ _ (s.writeSlot b) rfl
  refine ⟨?_, ?_, ?_⟩
  · rw [flash, only.1]
    rfl
  · rw [State.get, flds, ← State.get, only.2.get_of_id (by decide) (by decide), State.get_put_same]
    exact Nat.mod_eq_of_lt (imgCore_lt b)
  · rw [cmds, only.1]
    rfl

theorem fwWriteDone_ends {c : Cmd} {b : List Byte} {v : Nat} (cmds : s.cmds = [c]) (kind : c.kind = .fwLoad b v) :
    fwWriteDone s = (s.writeSlot b).endCmd c stOk s.gust (imgCp b + placed (imgCore b) 16 + placed (imgSvn b) 32) 0 := by
  have image : c.kind.image = some b := by rw [kind]; rfl
  unfold fwWriteDone
  rw [cmds, List.find?_cons_of_pos (by rw [image]; rfl)]
  simp only [image, Option.getD_some]

theorem State.writeSlot_gust (s : State) (b : List Byte) : (s.writeSlot b).gust = s.gust := by
  have only := State.fwSlots_only ({ s with flash := { s.flash with image := b } }.put .PART_FW_CURRENT 0 (imgCore b))
  have kept := (only.2.get_of_id (f := .GST_NUMBER_NUMBER) (by decide) (by decide) 0).trans (State.get_put_of_id _ 0 0 (imgCore b) (by decide) (by decide) (by decide))
  unfold State.writeSlot
  dsimp only
  split <;> exact kept

theorem fwWriteDone_idle (cmds : s.cmds = []) (none : s.mgmt.update = none) : fwWriteDone s = s := by
  unfold fwWriteDone
  rw [cmds, none]
  rfl

/-! ### Licences (R394 to R396) -/

theorem inForceAt_lt (b : List Byte) (hours : Nat) : inForceAt b hours < 16 := by
  unfold inForceAt
  split
  · exact Nat.mod_lt _ (by decide)
  · decide

/-- What a licence shows in the registers. -/
def State.licenceShown (s : State) (force : Nat) : State :=
  s.puts 0 [(.LIC_STATE_IN_FORCE, force), (.LIC_STATE_IN_RECORD, recFeatures s.flash.licence % 16),
    (.LIC_STATE_LAPSED, recFeatures s.flash.licence % 16 - inForceAt s.flash.licence (s.get .LIC_HOURS_HOURS 0)),
    (.LIC_RECORD_SEQUENCE, recSequence s.flash.licence), (.LIC_RECORD_EXPIRY_HOURS, recExpiry s.flash.licence)]

theorem State.licenceShown_only (s : State) (force : Nat) : s.onlyFields (s.licenceShown force) ([Fld.LIC_STATE_IN_FORCE, .LIC_STATE_IN_RECORD, .LIC_STATE_LAPSED,
    .LIC_RECORD_SEQUENCE, .LIC_RECORD_EXPIRY_HOURS].map fun f => f.key 0) := s.onlyFields_puts 0 _

theorem State.licenceShown_force (s : State) {force : Nat} (small : force < 16) : (s.licenceShown force).get .LIC_STATE_IN_FORCE 0 = force := by
  unfold State.licenceShown
  simp (disch := decide) only [State.puts_cons, State.puts_nil, State.get_put_of_id, State.get_put_same]
  exact Nat.mod_eq_of_lt small

theorem State.showLicence_eq (s : State) (force : Nat) : s.showLicence force = { s.licenceShown force with licWord := Tri.of force } := rfl

theorem State.showLicence_shows (s : State) {force : Nat} (small : force < 16) : (s.showLicence force).get .LIC_STATE_IN_FORCE 0 = force ∧
    (s.showLicence force).licWord = Tri.of force ∧ s.showLicence force = { s with flds := (s.showLicence force).flds, licWord := Tri.of force } := by
  rw [State.showLicence_eq]
  refine ⟨s.licenceShown_force small, rfl, ?_⟩
  have only := (s.licenceShown_only force).1
  exact congrArg (fun t : State => { t with licWord := Tri.of force }) only

section
variable {a n : Nat} (up : s.hostUp = true)
include up

theorem licenceLoad_taken (form : licenceForm (s.hostRead a n) = true) (authentic : s.recordOk 2 (s.hostRead a n) = true)
    (newer : recSequence s.flash.licence < recSequence (s.hostRead a n)) : licenceLoad q a n s =
      ({ s with flash := { s.flash with licence := s.hostRead a n } }.showLicence (inForceAt (s.hostRead a n) (s.get .LIC_HOURS_HOURS 0))).done q stOk
        (inForceAt (s.hostRead a n) (s.get .LIC_HOURS_HOURS 0)) := by
  simp [licenceLoad, up, form, authentic, Nat.not_le.mpr newer]

theorem licenceLoad_foreign (form : licenceForm (s.hostRead a n) = true) (foreign : s.recordOk 2 (s.hostRead a n) = false) :
    licenceLoad q a n s = s.done q stLicence := by
  simp [licenceLoad, up, form, foreign]

theorem licenceLoad_older (form : licenceForm (s.hostRead a n) = true) (authentic : s.recordOk 2 (s.hostRead a n) = true)
    (older : recSequence (s.hostRead a n) ≤ recSequence s.flash.licence) : licenceLoad q a n s = s.done q stBadPacket := by
  simp [licenceLoad, up, form, authentic, older]

theorem licenceLoad_service (other : licenceForm (s.hostRead a n) = false) (form : serviceForm (s.hostRead a n) = true)
    (authentic : s.recordOk 3 (s.hostRead a n) = true) (absent : ∀ p, p < 12 → s.get .PART_STATUS_STATE p = 0) : licenceLoad q a n s =
      { s with flash := { s.flash with service := s.hostRead a n } }.done q stOk (s.get .LIC_STATE_IN_FORCE 0) := by
  have none : ((List.range 12).any fun p => s.get .PART_STATUS_STATE p != 0) = false := by simpa using absent
  unfold licenceLoad
  simp only [up, other, form, authentic, none]
  rfl

theorem licenceLoad_malformed (other : licenceForm (s.hostRead a n) = false) (unlike : serviceForm (s.hostRead a n) = false) :
    licenceLoad q a n s = s.done q stBadPacket := by
  simp [licenceLoad, up, other, unlike]

end

/-! ### ATTEST (R398) -/

theorem attest_answers {a n room dst : Nat} {b : List Byte} {u : State} (up : s.hostUp = true)
    (served : s.spdmServe (Config.spdmKind (s.hostRead a n)).val (s.hostRead a n) = (b, u)) :
    attestOf q a n room dst s = if room < b.length then s.done q stBadPacket b.length else (u.hostStore dst b).done q stOk b.length := by
  simp [attestOf, up, served]

/-! ### The hours (R396) -/

/-- An hour counted and saved. -/
def State.hourCounted (s : State) : State :=
  let t := s.bump .LIC_HOURS_HOURS 0 1
  { t with flash := { t.flash with hours := t.get .LIC_HOURS_HOURS 0 } }

/-- The features still in force after an hour. -/
def State.forceLeft (s : State) : Nat := s.get .LIC_STATE_IN_FORCE 0 &&& inForceAt s.flash.licence s.flash.hours

/-- The licence shown again with the features that have not lapsed. -/
def State.lapsed (s : State) : State :=
  { s.licenceShown s.forceLeft with licWord := if s.get .LIC_STATE_IN_FORCE 0 = s.forceLeft then s.licWord else Tri.of s.forceLeft }

theorem poweredHour_eq (s : State) : poweredHour s = if s.hourCounted.get .HST_CP_STATUS_READY 0 = 1 then s.hourCounted.lapsed else s.hourCounted := by
  unfold poweredHour State.lapsed State.forceLeft State.licenceShown State.showLicence State.hourCounted
  rfl

theorem State.lapsed_force (s : State) : s.lapsed.get .LIC_STATE_IN_FORCE 0 = s.forceLeft :=
  s.licenceShown_force (Nat.lt_of_le_of_lt Nat.and_le_right (inForceAt_lt _ _))

theorem State.lapsed_hours (s : State) : s.lapsed.get .LIC_HOURS_HOURS 0 = s.get .LIC_HOURS_HOURS 0 :=
  (s.licenceShown_only s.forceLeft).2.get_of_id (by decide) (by decide) 0

theorem State.lapsed_flash (s : State) : s.lapsed.flash = s.flash := by
  unfold State.lapsed
  dsimp only
  rw [(s.licenceShown_only s.forceLeft).1]

theorem State.hourCounted_kept (s : State) : s.fieldsKept s.hourCounted [Fld.LIC_HOURS_HOURS.key 0] := (s.onlyFields_bump .LIC_HOURS_HOURS 0 1).2

theorem poweredHour_counts (s : State) : (poweredHour s).get .LIC_HOURS_HOURS 0 = s.hourCounted.get .LIC_HOURS_HOURS 0 ∧
    (poweredHour s).flash = s.hourCounted.flash := by
  rw [poweredHour_eq]
  split
  · exact ⟨State.lapsed_hours _, State.lapsed_flash _⟩
  · exact ⟨rfl, rfl⟩

theorem poweredHour_lapses (s : State) (ready : s.on .HST_CP_STATUS_READY 0 = true) :
    (poweredHour s).get .LIC_STATE_IN_FORCE 0 = s.get .LIC_STATE_IN_FORCE 0 &&& inForceAt s.flash.licence s.hourCounted.flash.hours := by
  have kept (f : Fld) (hf : f.id < 4096) (other : f.id ∉ [Fld.LIC_HOURS_HOURS.key 0].map keyField) := s.hourCounted_kept.get_of_id hf other 0
  have shown : s.hourCounted.get .HST_CP_STATUS_READY 0 = 1 := (kept _ (by decide) (by decide)).trans (beq_iff_eq.1 ready)
  have was : s.hourCounted.get .LIC_STATE_IN_FORCE 0 = s.get .LIC_STATE_IN_FORCE 0 := kept _ (by decide) (by decide)
  have licence : s.hourCounted.flash.licence = s.flash.licence := rfl
  rw [poweredHour_eq, if_pos shown, State.lapsed_force, State.forceLeft, was, licence]

end

end Sys2Proof.Machine

namespace Sys2Proof.Proofs
open Sys2Proof Sys2Proof.Machine

/-- Settles O50: each record is checked in turn, and its end writes what was checked. -/
theorem firmwareAndLicences : Obligations.FirmwareAndLicences := by
  refine ⟨fun q p0 p1 p2 s => ⟨fun h up => ?_, fun h up => ?_, fun b u h up served => ?_⟩, fun s hc => ?_, fun s => ?_⟩
  · have runs : exec (.fwLoad q p0 p1) s = .next (fwLoad q p0.toNat (fieldOf p1 31 0) s) := hostRow_accepted h (chk := noCheck) rfl _
    exact runs.trans (congrArg _ (fwLoad_reached up _ _))
  · have runs : exec (.licenceLoad q p0 p1) s = .next (licenceLoad q p0.toNat (fieldOf p1 15 0) s) := hostRow_accepted h (chk := noCheck) rfl _
    rw [runs]
    refine ⟨fun form authentic newer => ?_, fun form foreign => ?_, fun form authentic older => ?_, fun other form authentic absent => ?_, fun other unlike => ?_⟩
    · obtain ⟨force, word, only⟩ := State.showLicence_shows { s with flash := { s.flash with licence := s.hostRead p0.toNat (fieldOf p1 15 0) } }
        (inForceAt_lt (s.hostRead p0.toNat (fieldOf p1 15 0)) (s.get .LIC_HOURS_HOURS 0))
      exact ⟨_, congrArg _ (licenceLoad_taken up form authentic newer), rfl, force, word, only⟩
    · rw [licenceLoad_foreign up form foreign]
    · rw [licenceLoad_older up form authentic older]
    · rw [licenceLoad_service up other form authentic absent]
    · rw [licenceLoad_malformed up other unlike]
  · have runs : exec (.attest q p0 p1 p2) s = .next (attestOf q p0.toNat (fieldOf p1 15 0) (fieldOf p1 47 32) p2.toNat s) := hostRow_accepted h (chk := noCheck) rfl _
    exact runs.trans (congrArg _ (attest_answers up served))
  · have runs : exec .fwWriteDone s = .next (fwWriteDone s) := congrArg _ (State.whenClocked_on _ hc)
    rw [runs]
    refine ⟨fun c b v cmds kind => ?_, fun cmds none => congrArg _ (fwWriteDone_idle cmds none)⟩
    obtain ⟨image, version, same⟩ := s.writeSlot_holds b
    refine ⟨s.writeSlot b, ?_, image, version, same.trans cmds⟩
    rw [fwWriteDone_ends cmds kind, State.writeSlot_gust]
  · have runs : exec .poweredHour s = .next (if s.get .PWR_STATE_STATE 0 < 3 then poweredHour s else s) := rfl
    obtain ⟨hours, flash⟩ := poweredHour_counts s
    refine ⟨fun deep => runs.trans (congrArg _ (if_neg (Nat.not_lt.mpr deep))), fun powered => ⟨_, runs.trans (congrArg _ (if_pos powered)), hours, ?_, fun ready => ?_⟩⟩
    · rw [hours, flash]
      rfl
    · rw [poweredHour_lapses s ready, flash]

end Sys2Proof.Proofs
end

section
/-!
PROOFS. Which registers the operations on partitions leave as they were (R315 to R318), by the numbers of the fields that each may write.
-/
namespace Sys2Proof.Machine

theorem RegName.fields_small (r : RegName) : ∀ f ∈ r.fields, f.id < 4096 := by cases r <;> decide

/-- Every field apart from those numbered in `ids` keeps all its copies. -/
structure State.Leaves (ids : List Nat) (s t : State) : Prop where
  get : ∀ f : Fld, f.id < 4096 → f.id ∉ ids → ∀ i, t.get f i = s.get f i

section
variable {ids more : List Nat} {s t u : State}

theorem State.Leaves.same (flds : t.flds = s.flds) : s.Leaves ids t := ⟨fun _ _ _ _ => by simp only [State.get, flds]⟩

theorem State.Leaves.rfl : s.Leaves ids s := .same (Eq.refl _)

theorem State.Leaves.seq (h1 : s.Leaves ids t) (h2 : t.Leaves ids u) : s.Leaves ids u := ⟨fun f hf other i => (h2.get f hf other i).trans (h1.get f hf other i)⟩

theorem State.Leaves.trans (h1 : s.Leaves ids t) (h2 : t.Leaves more u) : s.Leaves (ids ++ more) u := ⟨fun f hf other i =>
  (h2.get f hf (fun mem => other (List.mem_append_right _ mem)) i).trans (h1.get f hf (fun mem => other (List.mem_append_left _ mem)) i)⟩

theorem State.Leaves.mono (h : s.Leaves ids t) (sub : ids ⊆ more) : s.Leaves more t := ⟨fun f hf other => h.get f hf fun mem => other (sub mem)⟩

theorem State.Leaves.foldlOf {α β : Type} (g : β → State) {f : β → α → β} (hf : ∀ b x, (g b).Leaves ids (g (f b x))) (l : List α) (b : β) :
    (g b).Leaves ids (g (l.foldl f b)) := by
  induction l generalizing b with
  | nil => exact .rfl
  | cons x l ih => exact (hf b x).seq (ih _)

theorem State.Leaves.foldl {α : Type} {f : State → α → State} (hf : ∀ (t : State) x, t.Leaves ids (f t x)) (l : List α) (s : State) : s.Leaves ids (l.foldl f s) :=
  .foldlOf (fun t => t) hf l s

theorem State.Leaves.ite {c : Prop} [Decidable c] (ht : s.Leaves ids t) (hu : s.Leaves ids u) : s.Leaves ids (if c then t else u) := by
  split
  exacts [ht, hu]

end

section
variable (s : State)

theorem State.put_leaves {ids : List Nat} {f : Fld} (hf : f.id < 4096 ∧ f.id ∈ ids) (i v : Nat) : s.Leaves ids (s.put f i v) :=
  ⟨fun _ hg other j => State.get_put_of_id s i j v hf.1 hg fun same => other (same ▸ hf.2)⟩

theorem State.puts_leaves {ids : List Nat} {fs : List (Fld × Nat)} (hf : ∀ e ∈ fs, e.1.id < 4096 ∧ e.1.id ∈ ids) (i : Nat) : s.Leaves ids (s.puts i fs) := by
  unfold State.puts
  induction fs generalizing s with
  | nil => exact .rfl
  | cons e fs ih => exact (s.put_leaves (hf e List.mem_cons_self) i e.2).seq (ih _ fun x hx => hf x (List.mem_cons_of_mem _ hx))

theorem State.resetReg_leaves {ids : List Nat} {r : RegName} (sub : r.fields.map Fld.id ⊆ ids) (i : Nat) : s.Leaves ids (s.resetReg r i) :=
  ⟨fun _ hg other _ => (s.onlyFields_resetReg r i).2.get r.fields_small hg (.inl fun mem => other (sub mem))⟩

theorem State.clearCopies_leaves {ids : List Nat} {r : RegName} (sub : r.fields.map Fld.id ⊆ ids) (p n : Nat) : s.Leaves ids (s.clearCopies r p n) :=
  .foldl (fun t k => t.resetReg_leaves sub (p * n + k)) _ s

/-- The numbers of the fields of a record. -/
def recordIds : List Nat := recordFields.map Fld.id

theorem State.event_leaves (r : Rec) : s.Leaves recordIds (s.event r) := ⟨fun _ hf other i => State.event_get ⟨hf, other⟩ i s r⟩

theorem State.jobEvent_leaves (p kind code : Nat) : s.Leaves recordIds (s.jobEvent p kind code) := s.event_leaves _

theorem State.jobEvent_only (p kind code : Nat) : s.RecordsOnly (s.jobEvent p kind code) := s.event_only _

/-- A vote's outcome is counted and recorded. -/
def voteIds : List Nat := Fld.PART_VOTE_STATS_LOST.id :: Fld.PART_VOTE_STATS_REPAIRED.id :: recordIds

theorem State.voteOutcome_leaves (p kind index : Nat) (known repaired : Bool) : s.Leaves voteIds (s.voteOutcome p kind index known repaired) := by
  have record (t : State) (r : Rec) : t.Leaves voteIds (t.event r) := (t.event_leaves r).mono fun _ mem => List.mem_cons_of_mem _ (List.mem_cons_of_mem _ mem)
  unfold State.voteOutcome
  refine .ite ?_ (.ite ?_ .rfl)
  · exact (s.put_leaves (f := .PART_VOTE_STATS_LOST) ⟨by decide, List.mem_cons_self⟩ 0 _).seq (record ..)
  · exact (s.put_leaves (f := .PART_VOTE_STATS_REPAIRED) ⟨by decide, List.mem_cons_of_mem _ List.mem_cons_self⟩ 0 _).seq (record ..)

theorem State.voteOutcome_only (p kind index : Nat) (known repaired : Bool) : s.RecordsOnly (s.voteOutcome p kind index known repaired) := by
  unfold State.voteOutcome
  split
  · exact (s.put_only ..).trans (State.event_only ..)
  · split
    · exact (s.put_only ..).trans (State.event_only ..)
    · exact .rfl

theorem State.refreshTransits_leaves (ds : List Nat) : s.Leaves [Fld.ZYN_TRANSIT_STATE.id] (s.refreshTransits ds) :=
  .foldl (fun t d => t.put_leaves (f := .ZYN_TRANSIT_STATE) (by decide) d _) ds s

theorem State.fwSlots_leaves : s.Leaves [Fld.PART_STATUS_FW_SLOT.id, Fld.PART_FW_PREVIOUS.id] s.fwSlots :=
  (State.Leaves.foldl (fun t p => t.put_leaves (f := .PART_STATUS_FW_SLOT) (by decide) p _) _ s).seq (State.put_leaves _ (f := .PART_FW_PREVIOUS) (by decide) 0 _)

/-! ### Core sites reset (R317) -/

/-- Numbers of the fields that the reset of a core site writes. -/
def siteResetIds : List Nat := Fld.FEN_BANK_CTL_GRAIN.id :: coreResetRegs.flatMap fun r => r.fields.map Fld.id

/-- The registers of a site at their Reset values. -/
def State.siteRegsReset (s : State) (c : Nat) : State := coreResetRegs.foldl (fun t r => t.resetSiteReg c r) s

/-- No grain at the banks of a site's slice. -/
def State.siteGrainsOver (s : State) (c : Nat) : State := (List.range 128).foldl (fun t b => t.put .FEN_BANK_CTL_GRAIN (ix2 128 c b) 0) s

theorem State.siteGrainsOver_only (c : Nat) : s.siteGrainsOver c = { s with flds := (s.siteGrainsOver c).flds } :=
  (State.onlyFields_foldl (fun t b => t.onlyFields_put .FEN_BANK_CTL_GRAIN (ix2 128 c b) 0) (List.range 128) s).1

theorem State.resetCore_eq (c : Nat) : ∃ eff, s.resetCore c = State.siteGrainsOver { (s.setCore c Core.fresh).siteRegsReset c with eff := eff } c := ⟨_, rfl⟩

theorem State.siteRegsReset_leaves (c : Nat) : s.Leaves siteResetIds (s.siteRegsReset c) := by
  have site (rs : List RegName) (sub : rs ⊆ coreResetRegs) (t : State) : t.Leaves siteResetIds (rs.foldl (fun t r => t.resetSiteReg c r) t) := by
    induction rs generalizing t with
    | nil => exact .rfl
    | cons r rs ih =>
      have mem : r.fields.map Fld.id ⊆ siteResetIds := fun _ mem => List.mem_cons_of_mem _ (List.mem_flatMap.2 ⟨r, sub List.mem_cons_self, mem⟩)
      exact (State.Leaves.foldl (fun t k => t.resetReg_leaves mem _) _ t).seq (ih (fun x hx => sub (List.mem_cons_of_mem _ hx)) _)
  exact site _ (fun _ mem => mem) s

theorem State.siteGrainsOver_leaves (c : Nat) : s.Leaves siteResetIds (s.siteGrainsOver c) :=
  .foldl (fun t b => t.put_leaves (f := .FEN_BANK_CTL_GRAIN) ⟨by decide, List.mem_cons_self⟩ (ix2 128 c b) 0) _ s

theorem State.resetCore_leaves (c : Nat) : s.Leaves siteResetIds (s.resetCore c) := by
  have core : s.Leaves siteResetIds (s.setCore c Core.fresh) := .same rfl
  have noted (t : State) (eff : SMap (Option Nat)) : t.Leaves siteResetIds { t with eff := eff } := .same rfl
  obtain ⟨eff, reset⟩ := s.resetCore_eq c
  rw [reset]
  exact ((core.seq (State.siteRegsReset_leaves _ c)).seq (noted _ _)).seq (State.siteGrainsOver_leaves _ c)

theorem State.siteRegsReset_only (c : Nat) : s.siteRegsReset c = { s with flds := (s.siteRegsReset c).flds } := by
  have one (t : State) (r : RegName) := State.onlyFields_foldl (fun t k => t.onlyFields_resetReg r (c * r.count + k)) (List.range r.count) t
  exact (State.onlyFields_foldl one coreResetRegs s).1

/-- A site's reset reaches, beside registers, its core. -/
theorem State.resetCore_keeps (c : Nat) : (s.resetCore c).cmds = s.cmds ∧ (s.resetCore c).parts = s.parts ∧ (s.resetCore c).repairMap = s.repairMap ∧
    (s.resetCore c).cores = (s.setCore c Core.fresh).cores := by
  have regs (t : State) : (t.siteRegsReset c).cmds = t.cmds ∧ (t.siteRegsReset c).parts = t.parts ∧ (t.siteRegsReset c).repairMap = t.repairMap ∧
      (t.siteRegsReset c).cores = t.cores := by
    rw [t.siteRegsReset_only c]
    exact ⟨rfl, rfl, rfl, rfl⟩
  have grains (t : State) : (t.siteGrainsOver c).cmds = t.cmds ∧ (t.siteGrainsOver c).parts = t.parts ∧ (t.siteGrainsOver c).repairMap = t.repairMap ∧
      (t.siteGrainsOver c).cores = t.cores := by
    rw [t.siteGrainsOver_only c]
    exact ⟨rfl, rfl, rfl, rfl⟩
  obtain ⟨cmds, parts, map, cores⟩ := regs (s.setCore c Core.fresh)
  obtain ⟨eff, reset⟩ := s.resetCore_eq c
  obtain ⟨endCmds, endParts, endMap, endCores⟩ := grains { (s.setCore c Core.fresh).siteRegsReset c with eff := eff }
  dsimp only at endCmds endParts endMap endCores
  rw [reset]
  exact ⟨endCmds.trans cmds, endParts.trans parts, endMap.trans map, endCores.trans cores⟩

/-- Numbers of the fields that the reset of a partition's sites writes. -/
def partResetIds : List Nat := siteResetIds ++ (Fld.PART_STATUS_LIC.id :: voteIds)

/-- The licence state of a partition latched as the vote finds it. -/
def State.licenceLatched (s : State) (p : Nat) : State :=
  (State.voteOutcome { s with licWord := s.licWord.vote.2.2 } 15 5 0 s.licWord.vote.1.isSome s.licWord.vote.2.1).put .PART_STATUS_LIC p (s.licWord.vote.1.getD 0)

theorem State.licenceLatched_leaves (p : Nat) : s.Leaves (Fld.PART_STATUS_LIC.id :: voteIds) (s.licenceLatched p) := by
  have voted : s.Leaves voteIds { s with licWord := s.licWord.vote.2.2 } := .same rfl
  have shown := (voted.seq (State.voteOutcome_leaves _ 15 5 0 s.licWord.vote.1.isSome s.licWord.vote.2.1)).mono (List.subset_cons_self Fld.PART_STATUS_LIC.id voteIds)
  exact shown.seq (State.put_leaves _ (f := .PART_STATUS_LIC) ⟨by decide, List.mem_cons_self⟩ p _)

theorem State.resetPartCores_leaves (p : Nat) : s.Leaves partResetIds (s.resetPartCores p) :=
  (State.Leaves.foldl (fun t c => t.resetCore_leaves c) _ s).trans (State.licenceLatched_leaves _ p)

/-! ### Regulators refilled (R213) -/

/-- The counts of one regulator refilled. -/
def State.regRefilled (s : State) (p : Nat) (r : Nat × Nat) : State :=
  State.setReg { s with eff := SMap.set (SMap.set s.eff ((regFields r.1 p).1.key (regFields r.1 p).2.2) none none) ((regFields r.1 p).2.1.key (regFields r.1 p).2.2) none none }
    r.1 p { s.reg r.1 p with guar := s.get (regFields r.1 p).2.1 (regFields r.1 p).2.2 * 8000, ceil := s.get (regFields r.1 p).1 (regFields r.1 p).2.2 * 1000 }

theorem State.refillRegs_eq (p : Nat) : s.refillRegs p = resources.foldl (fun s r => s.regRefilled p r) s := rfl

theorem State.regRefilled_keeps (p : Nat) (r : Nat × Nat) : (s.regRefilled p r).flds = s.flds ∧ (s.regRefilled p r).cmds = s.cmds ∧ (s.regRefilled p r).parts = s.parts ∧
    (s.regRefilled p r).repairMap = s.repairMap ∧ (s.regRefilled p r).cores = s.cores := ⟨rfl, rfl, rfl, rfl, rfl⟩

theorem State.refillRegs_keeps (p : Nat) : (s.refillRegs p).flds = s.flds ∧ (s.refillRegs p).cmds = s.cmds ∧ (s.refillRegs p).parts = s.parts ∧
    (s.refillRegs p).repairMap = s.repairMap ∧ (s.refillRegs p).cores = s.cores := by
  rw [State.refillRegs_eq]
  generalize resources = rs
  induction rs generalizing s with
  | nil => exact ⟨rfl, rfl, rfl, rfl, rfl⟩
  | cons r rs ih =>
    obtain ⟨flds, cmds, parts, map, cores⟩ := ih (s.regRefilled p r)
    obtain ⟨flds', cmds', parts', map', cores'⟩ := s.regRefilled_keeps p r
    exact ⟨flds.trans flds', cmds.trans cmds', parts.trans parts', map.trans map', cores.trans cores'⟩

end

/-! ### Changes of registers, partitions and regulators alone -/

/-- `t` differs from `s` only in registers, partitions and regulators. -/
structure State.PartsOnly (s t : State) : Prop where
  eq : t = { s with flds := t.flds, parts := t.parts, regs := t.regs }

section
variable {s t u : State}

theorem State.PartsOnly.trans (h1 : s.PartsOnly t) (h2 : t.PartsOnly u) : s.PartsOnly u := ⟨Eq.trans h2.eq (by rw [h1.eq])⟩

theorem State.onlyFields.partsOnly {ks : List Nat} (h : s.onlyFields t ks) : s.PartsOnly t := ⟨Eq.trans h.1 (by rw [h.1])⟩

theorem State.setPart_partsOnly (s : State) (p : Nat) (x : Part) : s.PartsOnly (s.setPart p x) := ⟨rfl⟩

theorem State.regs_partsOnly (s : State) (regs : List (Nat × Reg)) : s.PartsOnly { s with regs := regs } := ⟨rfl⟩

end

/-! ### Sites left as after reset -/

/-- Core `k` stays as after reset where it was. -/
structure State.FreshAt (k : Nat) (s t : State) : Prop where
  fresh : s.core k = Core.fresh → t.core k = Core.fresh

section
variable {k : Nat} {s t u : State}

theorem State.FreshAt.same (cores : t.cores = s.cores) : s.FreshAt k t := ⟨fun fresh => by rw [State.core, cores, ← State.core, fresh]⟩

theorem State.FreshAt.rfl : s.FreshAt k s := .same (Eq.refl _)

theorem State.FreshAt.trans (h1 : s.FreshAt k t) (h2 : t.FreshAt k u) : s.FreshAt k u := ⟨h2.fresh ∘ h1.fresh⟩

theorem State.FreshAt.foldlOf {α β : Type} (g : β → State) {f : β → α → β} (hf : ∀ b x, (g b).FreshAt k (g (f b x))) (l : List α) (b : β) :
    (g b).FreshAt k (g (l.foldl f b)) := by
  induction l generalizing b with
  | nil => exact .rfl
  | cons x l ih => exact (hf b x).trans (ih _)

theorem State.CountsOnly.freshAt (h : s.CountsOnly t) : s.FreshAt k t := .same (by rw [h])

end

section
variable (k : Nat) (s : State)

theorem State.rawWrite_freshAt (st : Store) (off : Nat) (bs : List Byte) : s.FreshAt k (s.rawWrite st off bs) := by
  refine ⟨fun fresh => ?_⟩
  obtain same | ⟨-, taken⟩ := s.rawWrite_core st off bs k
  · rw [same, fresh]
  · rw [taken, fresh]
    rfl

theorem writeUnit_freshAt (st : Store) (r : WriteRes) (e : Nat × List Byte) : r.st.FreshAt k (writeUnit st r e).st := by
  unfold writeUnit
  dsimp only
  split
  · exact .rfl
  · split
    · exact (State.recode_counts ..).freshAt.trans (State.rawWrite_freshAt ..)
    · split
      · exact (State.readMem_counts ..).freshAt
      · exact (State.readMem_counts ..).freshAt.trans ((State.recode_counts ..).freshAt.trans (State.rawWrite_freshAt ..))

theorem State.writeMem_freshAt (st : Store) (off : Nat) (bs : List Byte) : s.FreshAt k (s.writeMem st off bs).st := by
  unfold State.writeMem
  generalize (if st.isSram = true then s.sram.isEmpty else s.noFaults) = clean
  split
  · exact .rfl
  · split
    · exact s.rawWrite_freshAt ..
    · exact .foldlOf WriteRes.st (writeUnit_freshAt k st) (unitPieces st.unit off bs) ⟨s, none, []⟩

theorem State.busWrite_freshAt (device : Bool) (a : Nat) (bs : List Byte) : s.FreshAt k (s.busWrite device a bs).1 := by
  unfold State.busWrite
  dsimp only
  split
  · split
    · split
      · exact .rfl
      · exact s.writeMem_freshAt ..
    · exact .rfl
  · split
    · exact .same rfl
    · exact .rfl

theorem State.put_freshAt (f : Fld) (i v : Nat) : s.FreshAt k (s.put f i v) := .same rfl

theorem State.bump_freshAt (f : Fld) (i n : Nat) : s.FreshAt k (s.bump f i n) := .same rfl

theorem State.fire_freshAt (f v : Nat) : s.FreshAt k (s.fire f v) := by
  unfold State.fire
  split
  · exact .same rfl
  · exact .rfl

theorem State.logInterrupt_freshAt (f : Nat) : s.FreshAt k (s.logInterrupt f) := by
  unfold State.logInterrupt
  split
  · exact s.fire_freshAt ..
  · split
    · exact .same rfl
    · exact (s.fire_freshAt k f _).trans (.same rfl)

theorem State.logDrop_freshAt (f : Nat) : s.FreshAt k (s.logDrop f) := .same rfl

theorem State.logWrite_freshAt (f : Nat) (ws : List Word) : s.FreshAt k (s.logWrite f ws) := by
  have seq (t : State) (a : SMap Nat) (b : SMap Bool) : t.FreshAt k { t with logSeq := a, logLost := b } := .same rfl
  unfold State.logWrite
  split
  · exact s.logDrop_freshAt ..
  · dsimp only
    split
    · exact (State.busWrite_freshAt ..).trans (State.logDrop_freshAt ..)
    · refine .trans ?_ (State.logInterrupt_freshAt k _ f)
      refine .trans ?_ (seq _ _ _)
      exact ((State.busWrite_freshAt ..).trans (State.put_freshAt ..)).trans (State.put_freshAt ..)

theorem State.event_freshAt (r : Rec) : s.FreshAt k (s.event r) := by
  have pf (t : State) (ws : List Word) : t.FreshAt k (if t.pfLogOpened || t.on .EVT_LOG_CTL_ENABLE 0 then t.logWrite 0 ws
      else if t.heldRecs.length < 1024 then { t with heldRecs := t.heldRecs ++ [ws] } else t.logDrop 0) := by
    split
    · exact t.logWrite_freshAt ..
    · split
      · exact .same rfl
      · exact t.logDrop_freshAt ..
  have vf (t : State) (v : Nat) (ws : List Word) : t.FreshAt k (if v = 0 then t else t.logWrite v ws) := by
    split
    · exact .rfl
    · exact t.logWrite_freshAt ..
  have free : s.FreshAt k s.free.2 := .same rfl
  have both (v : Nat) (ws : List Word) := (free.trans (pf s.free.2 ws)).trans (vf _ v ws)
  unfold State.event
  dsimp only
  split
  · exact (both _ _).trans (.same rfl)
  · exact both _ _

theorem State.jobEvent_freshAt (p kind code : Nat) : s.FreshAt k (s.jobEvent p kind code) := s.event_freshAt ..

theorem State.voteOutcome_freshAt (p kind index : Nat) (known repaired : Bool) : s.FreshAt k (s.voteOutcome p kind index known repaired) := by
  unfold State.voteOutcome
  split
  · exact (s.bump_freshAt ..).trans (State.event_freshAt ..)
  · split
    · exact (s.bump_freshAt ..).trans (State.event_freshAt ..)
    · exact .rfl

theorem State.resetCore_core (c j : Nat) : (s.resetCore c).core j = (s.setCore c Core.fresh).core j := by
  obtain ⟨-, -, -, cores⟩ := s.resetCore_keeps c
  rw [State.core, cores, ← State.core]

theorem State.resetCore_freshAt (c : Nat) : s.FreshAt k (s.resetCore c) ∧ (s.resetCore c).core c = Core.fresh := by
  refine ⟨⟨fun fresh => ?_⟩, (s.resetCore_core c c).trans (State.core_set_same ..)⟩
  by_cases same : k = c
  · rw [State.resetCore_core, same, State.core_set_same]
  · rw [State.resetCore_core, State.core_set_other _ _ same, fresh]

/-- Every site of a list that is reset is as after reset. -/
theorem State.resetCores_fresh {l : List Nat} (mem : k ∈ l) : (l.foldl State.resetCore s).core k = Core.fresh := by
  induction l generalizing s with
  | nil => cases mem
  | cons c l ih =>
    rw [List.foldl_cons]
    by_cases later : k ∈ l
    · exact ih _ later
    · obtain rfl : k = c := (List.mem_cons.1 mem).resolve_right later
      have kept : (s.resetCore k).FreshAt k (l.foldl State.resetCore (s.resetCore k)) := .foldlOf (fun t => t) (fun t x => (t.resetCore_freshAt k x).1) l _
      exact kept.fresh (s.resetCore_freshAt k k).2

theorem State.licenceLatched_records (p : Nat) : ∃ flds, { s with licWord := s.licWord.vote.2.2 }.RecordsOnly { s.licenceLatched p with flds := flds } :=
  ⟨_, State.voteOutcome_only _ 15 5 0 s.licWord.vote.1.isSome s.licWord.vote.2.1⟩

/-- The reset of a partition's sites changes no command in progress, no partition and no entry of the repair map. -/
theorem State.resetPartCores_keeps (p : Nat) : (s.resetPartCores p).cmds = s.cmds ∧ (s.resetPartCores p).parts = s.parts ∧ (s.resetPartCores p).repairMap = s.repairMap := by
  have cores (l : List Nat) (t : State) : (l.foldl State.resetCore t).cmds = t.cmds ∧ (l.foldl State.resetCore t).parts = t.parts ∧
      (l.foldl State.resetCore t).repairMap = t.repairMap :=
    ⟨State.foldl_keeps State.cmds (fun u c => (u.resetCore_keeps c).1) l t, State.foldl_keeps State.parts (fun u c => (u.resetCore_keeps c).2.1) l t,
      State.foldl_keeps State.repairMap (fun u c => (u.resetCore_keeps c).2.2.1) l t⟩
  have latched (t : State) : (t.licenceLatched p).cmds = t.cmds ∧ (t.licenceLatched p).parts = t.parts ∧ (t.licenceLatched p).repairMap = t.repairMap := by
    obtain ⟨_, records⟩ := t.licenceLatched_records p
    obtain ⟨-, cmds, parts, -, -, -, -, map, -⟩ := records.keeps
    exact ⟨cmds, parts, map⟩
  obtain ⟨cmds, parts, map⟩ := cores (s.partAllSites p) s
  obtain ⟨latchedCmds, latchedParts, latchedMap⟩ := latched ((s.partAllSites p).foldl State.resetCore s)
  exact ⟨latchedCmds.trans cmds, latchedParts.trans parts, latchedMap.trans map⟩

theorem State.resetPartCores_fresh {p : Nat} (mem : k ∈ s.partAllSites p) : (s.resetPartCores p).core k = Core.fresh := by
  have latched (t : State) : t.FreshAt k (t.licenceLatched p) := by
    have voted : t.FreshAt k { t with licWord := t.licWord.vote.2.2 } := .same rfl
    exact (voted.trans (State.voteOutcome_freshAt k _ 15 5 0 t.licWord.vote.1.isSome t.licWord.vote.2.1)).trans (State.put_freshAt ..)
  exact (latched _).fresh (State.resetCores_fresh k s mem)

end

end Sys2Proof.Machine
end

section
/-!
PROOFS. The creation of a partition (R315, R316) and the statement O33.
-/
namespace Sys2Proof.Machine

section
variable {s : State} {p : Nat}

/-- A write of several fields at one copy leaves the other copies. -/
theorem State.puts_get_copy (s : State) {fs : List (Fld × Nat)} (small : ∀ e ∈ fs, e.1.id < 4096) {f : Fld} (hf : f.id < 4096) {i j : Nat} (other : j ≠ i) :
    (s.puts i fs).get f j = s.get f j := by
  refine State.get_of_kept (s.onlyFields_puts i fs).2 fun mem => ?_
  obtain ⟨e, he, same⟩ := List.mem_map.1 mem
  exact other (Fld.key_inj (small e he) hf same).2.symm

/-! ### What PART_CREATE takes -/

/-- The registers that PART_CREATE returns to reset values before it writes them. -/
def takenRegs : List RegName := [.PART_STATUS, .PART_SHC, .PART_DMA, .GST_PART_STATE, .GST_PART_STEP]

/-- The fields of a partition that does not exist. -/
def State.unmadeRegs (s : State) (p : Nat) : State := State.clearCopies (takenRegs.foldl (fun t r => t.resetReg r p) s) .PART_MARSH p 16

theorem State.unmakePart_eq (s : State) (p : Nat) :
    s.unmakePart p = { (s.unmadeRegs p).setPart p Part.fresh with regs := (s.unmadeRegs p).regs.filter fun e => e.1 % 16 != p } := rfl

theorem State.clearCopies_only (s : State) (r : RegName) (p n : Nat) : ∃ ks, s.onlyFields (s.clearCopies r p n) ks :=
  ⟨_, State.onlyFields_foldl (fun t k => t.onlyFields_resetReg r (p * n + k)) _ s⟩

theorem State.unmadeRegs_only (s : State) (p : Nat) : ∃ ks, s.onlyFields (s.unmadeRegs p) ks := by
  obtain ⟨_, shares⟩ := State.clearCopies_only (takenRegs.foldl (fun t r => t.resetReg r p) s) .PART_MARSH p 16
  exact ⟨_, (s.onlyFields_resetRegs takenRegs p).trans shares⟩

theorem State.unmakePart_only (s : State) (p : Nat) : s.PartsOnly (s.unmakePart p) := by
  obtain ⟨ks, only⟩ := s.unmadeRegs_only p
  exact (only.partsOnly.trans (State.setPart_partsOnly _ p Part.fresh)).trans (State.regs_partsOnly ..)

theorem State.unmakePart_flds (s : State) (p : Nat) : (s.unmakePart p).flds = (s.unmadeRegs p).flds ∧ (s.unmakePart p).parts = (s.setPart p Part.fresh).parts := by
  obtain ⟨ks, only⟩ := s.unmadeRegs_only p
  have parts : (s.unmadeRegs p).parts = s.parts := by rw [only.1]
  rw [State.unmakePart_eq]
  dsimp only [State.setPart]
  exact ⟨rfl, by rw [parts]⟩

theorem State.unmakePart_get (s : State) {f : Fld} (hf : f.id < 4096) (other : f.id ≠ Fld.PART_MARSH_SHARE.id) {j : Nat} (apart : j ≠ p) :
    (s.unmakePart p).get f j = s.get f j := by
  have small : ∀ f ∈ takenRegs.flatMap RegName.fields, f.id < 4096 := by decide
  have shares (t : State) : t.Leaves [Fld.PART_MARSH_SHARE.id] (t.clearCopies .PART_MARSH p 16) := t.clearCopies_leaves (by decide) p 16
  have kept : (s.unmadeRegs p).get f j = s.get f j :=
    ((shares _).get f hf (by simpa using other) j).trans ((s.onlyFields_resetRegs takenRegs p).2.get small hf (.inr apart))
  rw [State.get, (s.unmakePart_flds p).1, ← State.get, kept]

/-- The partition's registers as PART_CREATE writes them. -/
def State.partNamed (s : State) (p mask vf : Nat) (w : List Word) : State :=
  s.puts p [(.PART_STATUS_STATE, 1), (.PART_STATUS_DIE_MASK, mask), (.PART_STATUS_VF, vf), (.PART_SHC_BASE, fieldOf (blockWord w 8) 28 0),
    (.PART_SHC_BYTES, fieldOf (blockWord w 8) 63 32), (.PART_DMA_MASK, fieldOf (blockWord w 0) 63 32)]

/-- Its marsh shares. -/
def State.sharesNamed (s : State) (p : Nat) (w : List Word) : State :=
  (List.range 16).foldl (fun s k => s.put .PART_MARSH_SHARE (ix2 16 p k) (blockWord w (0x80 + 8 * k)).toNat) s

theorem State.sharesNamed_leaves (s : State) (p : Nat) (w : List Word) : s.Leaves [Fld.PART_MARSH_SHARE.id] (s.sharesNamed p w) :=
  .foldl (fun t k => t.put_leaves (f := .PART_MARSH_SHARE) (by decide) _ _) _ s

theorem State.partNamed_shows (s : State) (p : Nat) {mask vf : Nat} (dies : mask < 2 ^ 12) (fn : vf < 16) (w : List Word) : (s.partNamed p mask vf w).get .PART_STATUS_STATE p = 1 ∧
    (s.partNamed p mask vf w).get .PART_STATUS_DIE_MASK p = mask ∧ (s.partNamed p mask vf w).get .PART_STATUS_VF p = vf := by
  unfold State.partNamed
  refine ⟨?_, ?_, ?_⟩ <;> simp (disch := decide) only [State.puts_cons, State.puts_nil, State.get_put_of_id, State.get_put_same]
  · rfl
  · exact Nat.mod_eq_of_lt dies
  · exact Nat.mod_eq_of_lt fn

/-- What PART_CREATE takes at once. -/
def State.partTaken (s : State) (p mask vf : Nat) (w : List Word) : State := ((s.unmakePart p).partNamed p mask vf w).sharesNamed p w

theorem State.partTaken_only (s : State) (p mask vf : Nat) (w : List Word) : s.PartsOnly (s.partTaken p mask vf w) ∧
    (s.partTaken p mask vf w).parts = (s.setPart p Part.fresh).parts := by
  have named (t : State) : ∃ ks, t.onlyFields (t.partNamed p mask vf w) ks := ⟨_, t.onlyFields_puts p _⟩
  have shares (t : State) : ∃ ks, t.onlyFields (t.sharesNamed p w) ks := ⟨_, State.onlyFields_foldl (fun t k => t.onlyFields_put .PART_MARSH_SHARE (ix2 16 p k) _) _ t⟩
  obtain ⟨_, first⟩ := named (s.unmakePart p)
  obtain ⟨_, second⟩ := shares ((s.unmakePart p).partNamed p mask vf w)
  have both := first.trans second
  refine ⟨(s.unmakePart_only p).trans both.partsOnly, Eq.trans ?_ (s.unmakePart_flds p).2⟩
  unfold State.partTaken
  rw [both.1]

theorem State.partTaken_shows (s : State) (p : Nat) {mask vf : Nat} (dies : mask < 2 ^ 12) (fn : vf < 16) (w : List Word) :
    (s.partTaken p mask vf w).get .PART_STATUS_STATE p = 1 ∧ (s.partTaken p mask vf w).get .PART_STATUS_DIE_MASK p = mask ∧ (s.partTaken p mask vf w).get .PART_STATUS_VF p = vf := by
  have shares := State.sharesNamed_leaves ((s.unmakePart p).partNamed p mask vf w) p w
  obtain ⟨state, mask, vf⟩ := (s.unmakePart p).partNamed_shows p dies fn w
  exact ⟨(shares.get _ (by decide) (by decide) p).trans state, (shares.get _ (by decide) (by decide) p).trans mask, (shares.get _ (by decide) (by decide) p).trans vf⟩

theorem State.partTaken_others (s : State) (p mask vf : Nat) (w : List Word) {j : Nat} (other : j ≠ p) :
    (s.partTaken p mask vf w).get .PART_STATUS_STATE j = s.get .PART_STATUS_STATE j := by
  have shares := State.sharesNamed_leaves ((s.unmakePart p).partNamed p mask vf w) p w
  refine (shares.get _ (by decide) (by decide) j).trans (Eq.trans ?_ (s.unmakePart_get (by decide) (by decide) other))
  exact State.puts_get_copy _ (by simp only [List.forall_mem_cons]; decide) (by decide) other

/-- Numbers of the fields that PART_CREATE writes at once. -/
def takenIds : List Nat := Fld.PART_MARSH_SHARE.id :: (takenRegs.flatMap RegName.fields).map Fld.id

theorem State.unmakePart_leaves (s : State) (p : Nat) : s.Leaves takenIds (s.unmakePart p) := by
  have reset (t : State) (r : RegName) (hr : r.fields.map Fld.id ⊆ takenIds) : t.Leaves takenIds (t.resetReg r p) := t.resetReg_leaves hr p
  have regs : s.Leaves takenIds (takenRegs.foldl (fun t r => t.resetReg r p) s) :=
    ((((reset s .PART_STATUS (by decide)).seq (reset _ .PART_SHC (by decide))).seq (reset _ .PART_DMA (by decide))).seq (reset _ .GST_PART_STATE (by decide))).seq
      (reset _ .GST_PART_STEP (by decide))
  have unmade := regs.seq (State.clearCopies_leaves _ (r := .PART_MARSH) (by decide) p 16)
  exact ⟨fun f hf other i => by rw [State.get, (s.unmakePart_flds p).1, ← State.get]; exact unmade.get f hf other i⟩

theorem State.partTaken_leaves (s : State) (p mask vf : Nat) (w : List Word) : s.Leaves takenIds (s.partTaken p mask vf w) := by
  have named (t : State) : t.Leaves takenIds (t.partNamed p mask vf w) := t.puts_leaves (by simp only [List.forall_mem_cons]; decide) p
  exact ((s.unmakePart_leaves p).seq (named _)).seq ((State.sharesNamed_leaves _ p w).mono (by decide))

/-- A command begun beside such a change. -/
theorem State.PartsOnly.startCmd {t : State} (h : s.PartsOnly t) (q : Req) (op : Nat) (k : CmdKind) : t.startCmd q op k =
    { s with flds := (t.startCmd q op k).flds, parts := (t.startCmd q op k).parts, regs := (t.startCmd q op k).regs, cmds := (t.startCmd q op k).cmds } := by
  have begun : t.startCmd q op k = { t with cmds := (t.startCmd q op k).cmds } := rfl
  simp only [State.startCmd_flds, State.startCmd_parts, State.startCmd_regs]
  exact begun.trans (congrArg (fun u : State => { u with cmds := (t.startCmd q op k).cmds }) h.eq)

theorem partCreate_refused {q : Req} {p0 p1 : Word} (up : s.hostUp = true)
    (refused : s.createStatus (fieldOf p0 3 0) (fieldOf p0 19 8) (fieldOf p0 27 24) (some (bytesToWords 512 (s.hostRead p1.toNat 4096))) ≠ stOk) :
    partCreate q p0 p1 s =
      s.done q (s.createStatus (fieldOf p0 3 0) (fieldOf p0 19 8) (fieldOf p0 27 24) (some (bytesToWords 512 (s.hostRead p1.toNat 4096)))) := by
  unfold partCreate
  dsimp only
  rw [if_pos up, if_pos refused]

theorem partCreate_taken {q : Req} {p0 p1 : Word} (up : s.hostUp = true)
    (passes : s.createStatus (fieldOf p0 3 0) (fieldOf p0 19 8) (fieldOf p0 27 24) (some (bytesToWords 512 (s.hostRead p1.toNat 4096))) = stOk) :
    partCreate q p0 p1 s = (s.partTaken (fieldOf p0 3 0) (fieldOf p0 19 8) (fieldOf p0 27 24) (bytesToWords 512 (s.hostRead p1.toNat 4096))).startCmd q 0x30
      (.partCreate (fieldOf p0 3 0) (bytesToWords 512 (s.hostRead p1.toNat 4096))) := by
  unfold partCreate
  dsimp only
  rw [if_pos up, if_neg (not_not.2 passes)]
  rfl

/-! ### What the end of a creation gives it -/

/-- The partition's VF bound to it, with its event log. -/
def State.vfTaken (s : State) (p vf : Nat) (w : List Word) : State :=
  if vf = 0 then s else (s.puts vf [(.HST_FUNC_CTL_BOUND, 1), (.HST_FUNC_CTL_PARTITION, p)]).openVfLog vf w

/-- The peat dies of its block. -/
def State.peatTaken (s : State) (p : Nat) (w : List Word) : State := (setBits 128 (blockPeat w)).foldl (fun s d => s.setPeatOwner d p) s

/-- The DMA engines of its mask. -/
def State.dmaTaken (s : State) (p : Nat) : State := (setBits 32 (s.get .PART_DMA_MASK p)).foldl (fun s e => s.put .DMA_CH_CTL_PARTITION e p) s

/-- The control word of a regulator. -/
def State.regTaken (s : State) (p : Nat) (w : List Word) (e : (Nat × Nat) × Nat) : State :=
  (s.put (regFields e.1.1 p).1 (regFields e.1.1 p).2.2 (bitsOf (blockReg w e.2) 31 16)).put (regFields e.1.1 p).2.1 (regFields e.1.1 p).2.2 (bitsOf (blockReg w e.2) 15 0)

/-- Its regulators. -/
def State.regsTaken (s : State) (p : Nat) (w : List Word) : State := resources.zipIdx.foldl (fun s e => s.regTaken p w e) s

/-- The partition ready. -/
def State.partReady (s : State) (p : Nat) : State := ((s.refillRegs p).resetPartCores p).put .PART_STATUS_STATE p 2

/-- What shows the rest of the module that it is. -/
def State.partShown (s : State) (p : Nat) : State := (s.fwSlots.refreshTransits (s.partDies p)).jobEvent p 5 stOk

/-- Numbers of the fields of a VF's event log and of the peat dies' owners. -/
def vfLogIds : List Nat := (RegName.EVT_LOG_BASE.fields ++ RegName.EVT_LOG_CTL.fields ++ RegName.EVT_LOG_STATUS.fields).map Fld.id

theorem State.openVfLog_leaves (s : State) (f : Nat) (w : List Word) : s.Leaves vfLogIds (s.openVfLog f w) ∧ (s.openVfLog f w).cmds = s.cmds := by
  have base := s.puts_leaves (ids := vfLogIds) (fs := [(.EVT_LOG_BASE_BASE, fieldOf (blockWord w 0x20) 63 12), (.EVT_LOG_CTL_DEVICE, 0),
    (.EVT_LOG_CTL_SIZE, fieldOf (blockWord w 0x28) 4 0), (.EVT_LOG_CTL_HOLDOFF_US, fieldOf (blockWord w 0x28) 21 6), (.EVT_LOG_CTL_ENABLE, fieldOf (blockWord w 0x28) 5 5)])
    (by simp only [List.forall_mem_cons]; decide) f
  have started (t : State) (seq : SMap Nat) : t.Leaves vfLogIds { t.puts f [(.EVT_LOG_STATUS_WRITE, 0), (.EVT_LOG_STATUS_PHASE, 1)] with logSeq := seq } :=
    (t.puts_leaves (ids := vfLogIds) (by simp only [List.forall_mem_cons]; decide) f).seq (.same rfl)
  unfold State.openVfLog
  dsimp only
  split
  · exact ⟨base.seq (started _ _), rfl⟩
  · exact ⟨base, rfl⟩

theorem State.vfTaken_cmds (s : State) (p vf : Nat) (w : List Word) : (s.vfTaken p vf w).cmds = s.cmds := by
  unfold State.vfTaken
  split
  · rfl
  · exact (State.openVfLog_leaves _ vf w).2

theorem State.vfTaken_leaves (s : State) (p vf : Nat) (w : List Word) :
    s.Leaves ([Fld.HST_FUNC_CTL_BOUND.id, Fld.HST_FUNC_CTL_PARTITION.id] ++ vfLogIds) (s.vfTaken p vf w) := by
  unfold State.vfTaken
  split
  · exact .rfl
  · exact (s.puts_leaves (ids := [Fld.HST_FUNC_CTL_BOUND.id, Fld.HST_FUNC_CTL_PARTITION.id]) (by simp only [List.forall_mem_cons]; decide) vf).trans
      (State.openVfLog_leaves _ vf w).1

theorem State.vfTaken_bound (s : State) {vf : Nat} (present : vf ≠ 0) (small : p < 12) (w : List Word) :
    (s.vfTaken p vf w).get .HST_FUNC_CTL_BOUND vf = 1 ∧ (s.vfTaken p vf w).get .HST_FUNC_CTL_PARTITION vf = p := by
  have kept {f : Fld} (t : State) (hf : f.id < 4096) (other : f.id ∉ vfLogIds) : (t.openVfLog vf w).get f vf = t.get f vf :=
    (State.openVfLog_leaves t vf w).1.get f hf other vf
  unfold State.vfTaken
  rw [if_neg present, kept _ (by decide) (by decide), kept _ (by decide) (by decide)]
  constructor <;> simp (disch := decide) only [State.puts_cons, State.puts_nil, State.get_put_of_id, State.get_put_same]
  · rfl
  · exact Nat.mod_eq_of_lt (Nat.lt_trans small (by decide))

theorem State.peatTaken_only (s : State) (p : Nat) (w : List Word) : s.Leaves [Fld.PEAT_DIE_OWNER_OWNER.id] (s.peatTaken p w) ∧ (s.peatTaken p w).cmds = s.cmds :=
  ⟨.foldl (fun t d => t.put_leaves (f := .PEAT_DIE_OWNER_OWNER) (by decide) (d / 8) _) _ s,
    (State.onlyFields_foldl (fun t d => t.onlyFields_put .PEAT_DIE_OWNER_OWNER (d / 8) _) _ s).cmds⟩

theorem State.dmaTaken_only (s : State) (p : Nat) : s.Leaves [Fld.DMA_CH_CTL_PARTITION.id] (s.dmaTaken p) ∧ (s.dmaTaken p).cmds = s.cmds :=
  ⟨.foldl (fun t e => t.put_leaves (f := .DMA_CH_CTL_PARTITION) (by decide) e p) _ s,
    (State.onlyFields_foldl (fun t e => t.onlyFields_put .DMA_CH_CTL_PARTITION e p) _ s).cmds⟩

/-- Each engine of a list is the partition's after it. -/
theorem State.enginesNamed {l : List Nat} {e : Nat} (s : State) (small : p < 12) (mem : e ∈ l) :
    (l.foldl (fun s e => s.put .DMA_CH_CTL_PARTITION e p) s).get .DMA_CH_CTL_PARTITION e = p := by
  induction l generalizing s with
  | nil => cases mem
  | cons d l ih =>
    rw [List.foldl_cons]
    by_cases later : e ∈ l
    · exact ih _ later
    · obtain rfl : e = d := (List.mem_cons.1 mem).resolve_right later
      have kept (l : List Nat) (later : e ∉ l) (t : State) : (l.foldl (fun s e => s.put .DMA_CH_CTL_PARTITION e p) t).get .DMA_CH_CTL_PARTITION e = t.get .DMA_CH_CTL_PARTITION e := by
        have only := State.onlyFields_foldl (fun t e => t.onlyFields_put .DMA_CH_CTL_PARTITION e p) l t
        refine State.get_of_kept only.2 fun mem => ?_
        obtain ⟨d, hd, same⟩ := List.mem_flatMap.1 mem
        exact later ((Fld.key_inj (by decide) (by decide) (List.mem_singleton.1 same)).2 ▸ hd)
      rw [kept l later, State.get_put_same]
      exact Nat.mod_eq_of_lt (Nat.lt_trans small (by decide))

theorem State.dmaTaken_engine (s : State) {e : Nat} (small : p < 12) (he : e < 32) (named : bitOf (s.get .PART_DMA_MASK p) e = true) :
    (s.dmaTaken p).get .DMA_CH_CTL_PARTITION e = p :=
  s.enginesNamed small (List.mem_filter.2 ⟨List.mem_range.2 he, named⟩)

/-- Numbers of the regulators' control fields. -/
def regCtlIds : List Nat := [Fld.MRS_REG_CEILING, .MRS_REG_GUARANTEE, .SHC_REG_CEILING, .SHC_REG_GUARANTEE, .PEAT_REG_CEILING, .PEAT_REG_GUARANTEE, .DMA_REG_CEILING,
  .DMA_REG_GUARANTEE].map Fld.id

theorem regFields_ids (res p : Nat) : ((regFields res p).1.id < 4096 ∧ (regFields res p).1.id ∈ regCtlIds) ∧
    (regFields res p).2.1.id < 4096 ∧ (regFields res p).2.1.id ∈ regCtlIds := by
  unfold regFields
  split
  · dsimp only
    decide
  · split
    · dsimp only
      decide
    · split
      · dsimp only
        decide
      · dsimp only
        decide

theorem State.regTaken_only (s : State) (p : Nat) (w : List Word) (e : (Nat × Nat) × Nat) : s.Leaves regCtlIds (s.regTaken p w e) ∧ (s.regTaken p w e).cmds = s.cmds := by
  obtain ⟨ceiling, guarantee⟩ := regFields_ids e.1.1 p
  exact ⟨(s.put_leaves ceiling (regFields e.1.1 p).2.2 (bitsOf (blockReg w e.2) 31 16)).seq
    (State.put_leaves _ guarantee (regFields e.1.1 p).2.2 (bitsOf (blockReg w e.2) 15 0)), rfl⟩

theorem State.regsTaken_only (s : State) (p : Nat) (w : List Word) : s.Leaves regCtlIds (s.regsTaken p w) ∧ (s.regsTaken p w).cmds = s.cmds :=
  ⟨.foldl (fun t e => (t.regTaken_only p w e).1) _ s, State.foldl_keeps State.cmds (fun t e => (t.regTaken_only p w e).2) _ s⟩

/-- Numbers of the fields that the readiness of a partition reaches. -/
def partReadyIds : List Nat := partResetIds ++ [Fld.PART_STATUS_STATE.id]

theorem State.partReady_only (s : State) (p : Nat) : s.Leaves partReadyIds (s.partReady p) ∧ (s.partReady p).cmds = s.cmds := by
  obtain ⟨flds, cmds, -⟩ := s.refillRegs_keeps p
  have refilled : s.Leaves partResetIds (s.refillRegs p) := .same flds
  have named (t : State) : t.Leaves [Fld.PART_STATUS_STATE.id] (t.put .PART_STATUS_STATE p 2) := t.put_leaves (by decide) p 2
  exact ⟨(refilled.seq (State.resetPartCores_leaves _ p)).trans (named _), (State.resetPartCores_keeps _ p).1.trans cmds⟩

theorem State.partReady_fresh (s : State) {k : Nat} (mem : k ∈ s.partAllSites p) : (s.partReady p).core k = Core.fresh := by
  have sites : (s.refillRegs p).partAllSites p = s.partAllSites p := by
    simp only [State.partAllSites, State.partDies, State.get, (s.refillRegs_keeps p).1]
  have ready (t : State) : t.FreshAt k (t.put .PART_STATUS_STATE p 2) := t.put_freshAt k _ _ _
  rw [State.partReady]
  exact (ready _).fresh (State.resetPartCores_fresh k (s.refillRegs p) (by rwa [sites]))

/-- Numbers of the fields that show a partition's readiness elsewhere. -/
def partShownIds : List Nat := [Fld.PART_STATUS_FW_SLOT.id, Fld.PART_FW_PREVIOUS.id] ++ [Fld.ZYN_TRANSIT_STATE.id] ++ recordIds

theorem State.partShown_only (s : State) (p : Nat) : s.Leaves partShownIds (s.partShown p) ∧ (s.partShown p).cmds = s.cmds ∧ ∀ k, s.FreshAt k (s.partShown p) := by
  have transits (t : State) (ds : List Nat) : t.onlyFields (t.refreshTransits ds) _ := t.refreshTransits_only ds
  refine ⟨(s.fwSlots_leaves.trans (State.refreshTransits_leaves _ _)).trans (State.jobEvent_leaves _ p 5 stOk), ?_, fun k => ?_⟩
  · exact (State.jobEvent_only _ p 5 stOk).keeps.2.1.trans ((transits _ _).cmds.trans s.fwSlots_only.cmds)
  · have slots : s.FreshAt k s.fwSlots := .same (by rw [s.fwSlots_only.1])
    have shown (t : State) (ds : List Nat) : t.FreshAt k (t.refreshTransits ds) := .same (by rw [(transits t ds).1])
    exact (slots.trans (shown _ _)).trans (State.jobEvent_freshAt k _ p 5 stOk)

theorem partCreateDone_ends {c : Cmd} {w : List Word} (creating : s.get .PART_STATUS_STATE p = 1) (cmds : s.cmds = [c]) (kind : c.kind = .partCreate p w) :
    partCreateDone p s = s.createEnd c p w := by
  unfold partCreateDone
  rw [if_neg (not_not.2 creating), cmds, List.find?_cons_of_pos (by simp [kind])]
  simp only [kind]

/-- Numbers of the fields that the end of a creation writes once the VF is bound, and once the engines are the partition's. -/
def lateIds : List Nat := regCtlIds ++ partReadyIds ++ partShownIds
def boundIds : List Nat := [Fld.PEAT_DIE_OWNER_OWNER.id] ++ [Fld.DMA_CH_CTL_PARTITION.id] ++ lateIds

section
variable (s : State) (p : Nat) (w : List Word)

/-- The registers and the reset of the partition's cores that end a creation. -/
def State.lateSteps : State := ((s.regsTaken p w).partReady p).partShown p

theorem State.lateSteps_only : s.Leaves lateIds (s.lateSteps p w) ∧ (s.lateSteps p w).cmds = s.cmds := by
  obtain ⟨regs, regsCmds⟩ := s.regsTaken_only p w
  obtain ⟨ready, readyCmds⟩ := (s.regsTaken p w).partReady_only p
  obtain ⟨shown, shownCmds, -⟩ := ((s.regsTaken p w).partReady p).partShown_only p
  exact ⟨(regs.trans ready).trans shown, shownCmds.trans (readyCmds.trans regsCmds)⟩

theorem State.lateSteps_gust : (s.lateSteps p w).gust = ((s.regsTaken p w).partReady p).gust :=
  (((s.regsTaken p w).partReady p).partShown_only p).1.get .GST_NUMBER_NUMBER (by decide) (by decide +kernel) 0

theorem State.lateSteps_state : (s.lateSteps p w).get .PART_STATUS_STATE p = 2 := by
  have shown := (((s.regsTaken p w).partReady p).partShown_only p).1.get .PART_STATUS_STATE (by decide) (by decide +kernel) p
  rw [State.lateSteps, shown, State.partReady, State.get_put_same]
  rfl

theorem State.lateSteps_fresh {k : Nat} (mem : k ∈ s.partAllSites p) : (s.lateSteps p w).core k = Core.fresh := by
  have regs := (s.regsTaken_only p w).1.get .PART_STATUS_DIE_MASK (by decide) (by decide) p
  have sites : (s.regsTaken p w).partAllSites p = s.partAllSites p := by simp only [State.partAllSites, State.partDies, regs]
  rw [State.lateSteps]
  exact ((((s.regsTaken p w).partReady p).partShown_only p).2.2 k).fresh ((s.regsTaken p w).partReady_fresh (by rwa [sites]))

end

section
variable (s : State)

/-- The partition's entry of the map, as its creation writes it. -/
def State.entered (s : State) (p : Nat) (w : List Word) : State := s.setPart p { Part.fresh with
  map := Tri.of ([BitVec.ofNat 64 (s.get .PART_STATUS_DIE_MASK p + placed (s.partVf p) 16)] ++ w.take 32)
  fwVersion := s.get .PART_FW_CURRENT 0 }

/-- A partition created, before its command completes. -/
def State.created (s : State) (p : Nat) (w : List Word) : State := ((((s.entered p w).vfTaken p (s.partVf p) w).peatTaken p w).dmaTaken p).lateSteps p w

theorem State.created_cmds (p : Nat) (w : List Word) : (s.created p w).cmds = s.cmds :=
  (State.lateSteps_only _ p w).2.trans ((State.dmaTaken_only _ p).2.trans ((State.peatTaken_only _ p w).2.trans (State.vfTaken_cmds _ p _ w)))

/-- What the creation gives, before the readiness of the partition. -/
theorem State.createEnd_eq (c : Cmd) (p : Nat) (w : List Word) : s.createEnd c p w = (s.created p w).endCmd c stOk
    ((State.regsTaken ((((s.entered p w).vfTaken p (s.partVf p) w).peatTaken p w).dmaTaken p) p w).partReady p).gust 0 0 := rfl

variable {p : Nat}

theorem State.created_bound (present : s.get .PART_STATUS_VF p ≠ 0) (small : p < 12) (w : List Word) : (s.created p w).on .HST_FUNC_CTL_BOUND (s.get .PART_STATUS_VF p) = true ∧
    (s.created p w).get .HST_FUNC_CTL_PARTITION (s.get .PART_STATUS_VF p) = p := by
  obtain ⟨bound, named⟩ := (s.entered p w).vfTaken_bound present small w
  have later : ((s.entered p w).vfTaken p (s.partVf p) w).Leaves boundIds (s.created p w) :=
    (((State.peatTaken_only _ p w).1.trans (State.dmaTaken_only _ p).1).trans (State.lateSteps_only _ p w).1)
  exact ⟨beq_iff_eq.2 ((later.get _ (by decide) (by decide +kernel) _).trans bound), (later.get _ (by decide) (by decide +kernel) _).trans named⟩

/-- What precedes the engines leaves the partition's masks. -/
theorem State.entered_masks (f : Fld) (w : List Word) (hf : f.id < 4096) (other : f.id ∉ [Fld.HST_FUNC_CTL_BOUND.id, Fld.HST_FUNC_CTL_PARTITION.id] ++ vfLogIds ++ [Fld.PEAT_DIE_OWNER_OWNER.id]) :
    (((s.entered p w).vfTaken p (s.partVf p) w).peatTaken p w).get f p = s.get f p :=
  (((s.entered p w).vfTaken_leaves p (s.partVf p) w).trans (State.peatTaken_only _ p w).1).get f hf other p

theorem State.created_engine (small : p < 12) (w : List Word) {e : Nat} (he : e < 32) (named : bitOf (s.get .PART_DMA_MASK p) e = true) :
    (s.created p w).get .DMA_CH_CTL_PARTITION e = p := by
  have mask := s.entered_masks (p := p) .PART_DMA_MASK w (by decide) (by decide)
  exact ((State.lateSteps_only _ p w).1.get _ (by decide) (by decide +kernel) e).trans (State.dmaTaken_engine _ small he (by rwa [mask]))

theorem State.created_fresh (w : List Word) {k : Nat} (mem : k ∈ s.partAllSites p) : (s.created p w).core k = Core.fresh := by
  have mask := s.entered_masks (p := p) .PART_STATUS_DIE_MASK w (by decide) (by decide)
  have engines := (State.dmaTaken_only (((s.entered p w).vfTaken p (s.partVf p) w).peatTaken p w) p).1.get .PART_STATUS_DIE_MASK (by decide) (by decide) p
  refine State.lateSteps_fresh _ p w ?_
  have sites : ((((s.entered p w).vfTaken p (s.partVf p) w).peatTaken p w).dmaTaken p).partAllSites p = s.partAllSites p := by
    simp only [State.partAllSites, State.partDies, engines, mask]
  rwa [sites]

end

end

end Sys2Proof.Machine

namespace Sys2Proof.Proofs
open Sys2Proof Sys2Proof.Machine

/-- Settles O33: what a creation takes at once, and what its end gives the partition, each kept by the steps that follow it. -/
theorem partitionIsCreated : Obligations.PartitionIsCreated := by
  refine ⟨fun q p0 p1 s h hp hvf up => ?_, fun p s hc => ⟨fun other => ?_, fun c w creating small cmds kind => ?_⟩⟩
  · have runs : exec (.partCreate q p0 p1) s = .next (partCreate q p0 p1 s) := hostRow_accepted h (if_pos ⟨hp, hvf⟩) _
    rw [runs]
    refine ⟨fun refused => congrArg _ (partCreate_refused up refused), fun passes => ?_⟩
    have dies : fieldOf p0 19 8 < 2 ^ 12 := Nat.mod_lt _ (by decide)
    have taken := partCreate_taken (q := q) up passes
    generalize bytesToWords 512 (s.hostRead p1.toNat 4096) = w at taken ⊢
    generalize fieldOf p0 3 0 = p at taken hp ⊢
    obtain ⟨state, mask, vf⟩ := s.partTaken_shows p dies (Nat.lt_of_le_of_lt hvf (by decide)) w
    obtain ⟨only, parts⟩ := s.partTaken_only p (fieldOf p0 19 8) (fieldOf p0 27 24) w
    have others {j : Nat} (other : j ≠ p) := s.partTaken_others p (fieldOf p0 19 8) (fieldOf p0 27 24) w other
    have owner := (s.partTaken_leaves p (fieldOf p0 19 8) (fieldOf p0 27 24) w).get .HST_RING_CTL_OWNER (by decide) (by decide) q.ring.val
    generalize s.partTaken p (fieldOf p0 19 8) (fieldOf p0 27 24) w = t at *
    have part (j : Nat) : (t.startCmd q 0x30 (.partCreate p w)).part j = (s.setPart p Part.fresh).part j := by
      rw [State.part, State.startCmd_parts, parts, ← State.part]
    refine ⟨_, congrArg _ taken, ?_, ?_, ?_, ?_, (part _).trans (State.part_set_same ..), fun j other => (part j).trans (State.part_set_other _ _ other), fun j _ other => ?_,
      only.startCmd ..⟩
    · rw [State.startCmd_get, state]
    · rw [State.startCmd_get, mask]
    · rw [State.startCmd_get, vf]
    · have cmds : t.cmds = s.cmds := by rw [only.eq]
      rw [State.startCmd, State.cmdsWith, ← owner, ← cmds]
    · rw [State.startCmd_get, others other]
  · exact (congrArg _ (State.whenClocked_on _ hc)).trans (congrArg _ (if_pos other))
  · have runs : exec (.partCreateDone p) s = .next (partCreateDone p.val s) := congrArg _ (State.whenClocked_on _ hc)
    refine ⟨s.created p.val w, runs.trans (congrArg _ ((partCreateDone_ends creating cmds kind).trans ?_)), (s.created_cmds p.val w).trans cmds, State.lateSteps_state .., ?_, ?_, ?_⟩
    · rw [State.createEnd_eq, State.created, State.lateSteps_gust]
    · exact fun present => s.created_bound present p.isLt w
    · exact fun e he named => s.created_engine p.isLt w he named
    · exact fun k mem => s.created_fresh w mem

end Sys2Proof.Proofs
end

section
/-!
PROOFS. What the undoing of a gust leaves where there is nothing to undo (R26, R29), the destruction of a partition (R318, R339) and the statement O35.
-/
namespace Sys2Proof.Machine

/-! ### Nothing to undo -/

section
variable {s t u : State}

/-- `t` has the registers, memory, commands and port requests of `s`, and of its partitions what runs and what a reset began from. -/
structure State.Rests (s t : State) : Prop where
  flds : t.flds = s.flds
  mem : t.mem = s.mem
  cmds : t.cmds = s.cmds
  held : t.xniHeld = s.xniHeld
  part : ∀ j, (t.part j).prior = (s.part j).prior ∧ (t.part j).running = (s.part j).running

theorem State.Rests.rfl : s.Rests s := ⟨Eq.refl _, Eq.refl _, Eq.refl _, Eq.refl _, fun _ => ⟨Eq.refl _, Eq.refl _⟩⟩

theorem State.Rests.trans (h1 : s.Rests t) (h2 : t.Rests u) : s.Rests u :=
  ⟨h2.flds.trans h1.flds, h2.mem.trans h1.mem, h2.cmds.trans h1.cmds, h2.held.trans h1.held,
    fun j => ⟨(h2.part j).1.trans (h1.part j).1, (h2.part j).2.trans (h1.part j).2⟩⟩

theorem State.Rests.get (h : s.Rests t) (f : Fld) (i : Nat) : t.get f i = s.get f i := by rw [State.get, h.flds, ← State.get]

theorem State.dropUnits_rests (s : State) (c : Nat) : s.Rests (s.dropUnits c) := ⟨Eq.refl _, Eq.refl _, Eq.refl _, Eq.refl _, fun _ => ⟨Eq.refl _, Eq.refl _⟩⟩

theorem State.dropAll_rests (s : State) (l : List Nat) : s.Rests (l.foldl State.dropUnits s) := by
  induction l generalizing s with
  | nil => exact .rfl
  | cons c l ih => exact (s.dropUnits_rests c).trans (ih _)

/-- A change of a partition that keeps what runs and what a reset began from. -/
theorem State.modPart_rests (s : State) (p : Nat) {f : Part → Part} (keeps : ∀ x, (f x).prior = x.prior ∧ (f x).running = x.running) : s.Rests (s.modPart p f) := by
  refine ⟨Eq.refl _, Eq.refl _, Eq.refl _, Eq.refl _, fun j => ?_⟩
  by_cases same : j = p
  · rw [same, State.part_modPart_same]
    exact keeps _
  · rw [State.part_modPart_other _ _ same]
    exact ⟨Eq.refl _, Eq.refl _⟩

variable {p : Nat}

theorem State.undefineScratch_idle (wrote : (s.part p).wrote = []) : s.undefineScratch p = s.modPart p fun x => { x with wrote := [] } := by
  unfold State.undefineScratch
  rw [wrote]
  exact Eq.refl _

theorem State.restoreCarried_idle (carried : (s.part p).carried = []) : s.restoreCarried p = s := by
  unfold State.restoreCarried
  rw [carried]
  exact Eq.refl _

/-- The staged set and the requests that wait for tokens discarded. -/
def State.unstaged (s : State) (p : Nat) : State :=
  { s.modPart p fun x => { x with undo := [] } with
    stage := (s.partDies p).foldl (fun m d => m.erase d) s.stage
    atomHeld := s.atomHeld.filter fun e => e.1 != p }

theorem State.unstaged_part (s : State) (p : Nat) : (s.unstaged p).part p = { s.part p with undo := [] } := by
  have parts : (s.unstaged p).parts = (s.modPart p fun x => { x with undo := [] }).parts := Eq.refl _
  rw [State.part, parts, ← State.part, State.part_modPart_same]

theorem State.undoGust_rests (undo : (s.part p).undo = []) (wrote : (s.part p).wrote = []) (carried : (s.part p).carried = []) : s.Rests (s.undoGust p) := by
  have undone : s.Rests (s.unstaged p) := by
    obtain ⟨flds, mem, cmds, held, part⟩ := s.modPart_rests p (f := fun x => { x with undo := [] }) fun _ => ⟨Eq.refl _, Eq.refl _⟩
    exact ⟨flds, mem, cmds, held, part⟩
  have scratch := State.undefineScratch_idle (s := s.unstaged p) (p := p) (by rw [State.unstaged_part]; exact wrote)
  have back := State.restoreCarried_idle (s := (s.unstaged p).modPart p fun x => { x with wrote := [] }) (p := p) (by
    rw [State.part_modPart_same, State.unstaged_part]
    exact carried)
  have forgot := (s.unstaged p).modPart_rests p (f := fun x => { x with wrote := [] }) fun _ => ⟨Eq.refl _, Eq.refl _⟩
  unfold State.undoGust
  rw [undo]
  have drops : s.Rests ((s.partAllSites p).foldl State.dropUnits (((s.unstaged p).undefineScratch p).restoreCarried p)) := by
    rw [scratch, back]
    exact (undone.trans forgot).trans (State.dropAll_rests ..)
  exact drops

theorem State.dropWaiting_rests (held : s.xniHeld = []) (p : Nat) : s.Rests (s.dropWaiting p) := by
  unfold State.dropWaiting
  rw [held]
  exact ⟨Eq.refl _, Eq.refl _, Eq.refl _, held.symm, fun _ => ⟨Eq.refl _, Eq.refl _⟩⟩

theorem State.endCmds_idle (idle : s.cmds = []) (f : Cmd → Bool) (st : Nat) : s.endCmds f st = s := by
  unfold State.endCmds
  rw [idle]
  exact Eq.refl _

theorem State.countMigrating_leaves (s : State) : s.Leaves [Fld.PART_REPAIR_MIGRATING.id] s.countMigrating := s.put_leaves (f := .PART_REPAIR_MIGRATING) (by decide) 0 _

/-! ### A destruction begins (R318) -/

/-- The partition in destruction, its work dropped. -/
def State.dropping (s : State) (p : Nat) : State := ((s.undoGust p).put .PART_STATUS_STATE p 4).dropWaiting p

/-- Its peat dies without an owner. -/
def State.peatFreed (s : State) (p : Nat) : State := (List.range 128).foldl (fun s d => if s.peatOwner d = p then s.setPeatOwner d 15 else s) s

/-- Its VF unbound, and its dies' transits shown. -/
def State.unbound (s : State) (p : Nat) : State := ((s.peatFreed p).unbindVf p).refreshTransits ((s.peatFreed p).partDies p)

section
variable (undo : (s.part p).undo = []) (wrote : (s.part p).wrote = []) (carried : (s.part p).carried = []) (idle : s.cmds = []) (held : s.xniHeld = [])
include undo wrote carried held

theorem State.dropping_only : s.Leaves [Fld.PART_STATUS_STATE.id] (s.dropping p) ∧ (s.dropping p).cmds = s.cmds ∧ (s.dropping p).get .PART_STATUS_STATE p = 4 := by
  have undone := State.undoGust_rests undo wrote carried
  have unheld : ((s.undoGust p).put .PART_STATUS_STATE p 4).xniHeld = [] := undone.held.trans held
  have dropped := State.dropWaiting_rests unheld p
  have named : s.Leaves [Fld.PART_STATUS_STATE.id] ((s.undoGust p).put .PART_STATUS_STATE p 4) :=
    (State.Leaves.same undone.flds).seq (State.put_leaves _ (f := .PART_STATUS_STATE) (by decide) p 4)
  refine ⟨named.seq (.same dropped.flds), dropped.cmds.trans undone.cmds, (dropped.get _ p).trans ?_⟩
  rw [State.get_put_same]
  exact Eq.refl _

include idle

theorem partDestroy_begins {q : Req} (named : q.part.val = p) (free : s.armed p = false) (engines : s.partEngines p = []) :
    partDestroy q s = ((s.dropping p).countMigrating.unbound p).startCmd q 0x32 (.partDestroy p) := by
  obtain ⟨kept, cmds, -⟩ := State.dropping_only undo wrote carried held
  have none : (((s.undoGust p).put .PART_STATUS_STATE p 4).dropWaiting p).cmds = [] := cmds.trans idle
  have unowned : (((s.undoGust p).put .PART_STATUS_STATE p 4).dropWaiting p).partEngines p = [] := by
    have partition (e : Nat) : (s.dropping p).get .DMA_CH_CTL_PARTITION e = s.get .DMA_CH_CTL_PARTITION e := kept.get _ (by decide) (by decide) e
    rw [← State.dropping, ← engines]
    simp only [State.partEngines, State.enginePart, partition]
  unfold partDestroy
  rw [named]
  simp only [free, Bool.false_and, Bool.false_eq_true, if_false]
  rw [State.endCmds_idle none, unowned, List.foldl_nil]
  unfold State.unbound State.peatFreed State.dropping
  exact Eq.refl _

end

/-- Numbers of the fields that the unbinding of a VF writes. -/
def unbindIds : List Nat := [Fld.HST_RING_CTL_ENABLE, .HST_FUNC_CTL_BOUND, .HST_FUNC_CTL_PARTITION, .EVT_LOG_CTL_ENABLE, .HST_WIN_ENABLE, .PART_STATUS_VF].map Fld.id

theorem State.peatFreed_only (s : State) (p : Nat) : s.Leaves [Fld.PEAT_DIE_OWNER_OWNER.id] (s.peatFreed p) ∧ (s.peatFreed p).cmds = s.cmds := by
  refine ⟨.foldl (fun t d => .ite (t.put_leaves (f := .PEAT_DIE_OWNER_OWNER) (by decide) (d / 8) _) .rfl) _ s, State.foldl_keeps State.cmds (fun t d => ?_) _ s⟩
  split <;> exact Eq.refl _

theorem State.unbindVf_only (s : State) (p : Nat) : s.Leaves unbindIds (s.unbindVf p) ∧ (s.unbindVf p).cmds = s.cmds := by
  unfold State.unbindVf
  dsimp only
  split
  · exact ⟨.rfl, Eq.refl _⟩
  · have rings := State.onlyFields_foldl (fun t r => t.onlyFields_put .HST_RING_CTL_ENABLE r 0) (s.ringsOf (s.partVf p)) s
    exact ⟨((State.Leaves.foldl (fun t r => t.put_leaves (f := .HST_RING_CTL_ENABLE) (by decide) r 0) _ s).seq
      (State.puts_leaves _ (by simp only [List.forall_mem_cons]; decide) _)).seq (State.put_leaves _ (f := .PART_STATUS_VF) (by decide) p 0), rings.cmds⟩

theorem State.unbindVf_shows (s : State) (p : Nat) : (s.unbindVf p).get .PART_STATUS_VF p = 0 ∧
    (s.partVf p ≠ 0 → (s.unbindVf p).on .HST_FUNC_CTL_BOUND (s.partVf p) = false) := by
  unfold State.unbindVf
  dsimp only
  split
  · next none => exact ⟨none, fun present => absurd none present⟩
  · refine ⟨State.get_put_same .., fun _ => ?_⟩
    rw [State.on]
    simp (disch := decide) only [State.puts_cons, State.puts_nil, State.get_put_of_id, State.get_put_same]
    exact Eq.refl _

theorem State.unbound_only (s : State) (p : Nat) : s.Leaves ([Fld.PEAT_DIE_OWNER_OWNER.id] ++ unbindIds ++ [Fld.ZYN_TRANSIT_STATE.id]) (s.unbound p) ∧
    (s.unbound p).cmds = s.cmds := by
  obtain ⟨freed, freedCmds⟩ := s.peatFreed_only p
  obtain ⟨vf, vfCmds⟩ := (s.peatFreed p).unbindVf_only p
  exact ⟨(freed.trans vf).trans (State.refreshTransits_leaves _ _), (State.refreshTransits_only _ _).cmds.trans (vfCmds.trans freedCmds)⟩

theorem State.unbound_shows (s : State) (p : Nat) : (s.unbound p).get .PART_STATUS_VF p = 0 ∧
    (s.partVf p ≠ 0 → (s.unbound p).on .HST_FUNC_CTL_BOUND (s.partVf p) = false) := by
  have vf : (s.peatFreed p).partVf p = s.partVf p := (s.peatFreed_only p).1.get _ (by decide) (by decide) p
  have shown (f : Fld) (hf : f.id < 4096) (other : f.id ∉ [Fld.ZYN_TRANSIT_STATE.id]) (i : Nat) : (s.unbound p).get f i = ((s.peatFreed p).unbindVf p).get f i :=
    (State.refreshTransits_leaves _ _).get f hf other i
  obtain ⟨none, unbound⟩ := (s.peatFreed p).unbindVf_shows p
  rw [vf] at unbound
  refine ⟨(shown _ (by decide) (by decide) p).trans none, fun present => ?_⟩
  rw [State.on, shown _ (by decide) (by decide), ← State.on, unbound present]

/-! ### A destruction ends (R318, R339) -/

theorem State.zeroStore_keeps (s : State) (st : Store) (off n : Nat) : (s.zeroStore st off n).flds = s.flds ∧ (s.zeroStore st off n).cmds = s.cmds := by
  unfold State.zeroStore
  split <;> exact ⟨Eq.refl _, Eq.refl _⟩

/-- A slice of each site zeroed, and each marsh share. -/
theorem State.zeroPart_keeps (s : State) (p : Nat) : (s.zeroPart p).flds = s.flds ∧ (s.zeroPart p).cmds = s.cmds := by
  have share (t : State) (k : Nat) (g : State → Bool) : (if g t then t.zeroStore (.marsh (bitsOf (t.get .PART_MARSH_SHARE (ix2 16 p k)) 3 0))
      (bitsOf (t.get .PART_MARSH_SHARE (ix2 16 p k)) 22 16 * 2 ^ 30) (bitsOf (t.get .PART_MARSH_SHARE (ix2 16 p k)) 38 32 * 2 ^ 30) else t).flds = t.flds ∧
      (if g t then t.zeroStore (.marsh (bitsOf (t.get .PART_MARSH_SHARE (ix2 16 p k)) 3 0))
      (bitsOf (t.get .PART_MARSH_SHARE (ix2 16 p k)) 22 16 * 2 ^ 30) (bitsOf (t.get .PART_MARSH_SHARE (ix2 16 p k)) 38 32 * 2 ^ 30) else t).cmds = t.cmds := by
    split
    · exact t.zeroStore_keeps ..
    · exact ⟨Eq.refl _, Eq.refl _⟩
  unfold State.zeroPart
  extract_lets slices shares
  have first : slices.flds = s.flds ∧ slices.cmds = s.cmds :=
    ⟨State.foldl_keeps State.flds (fun t c => (t.zeroStore_keeps ..).1) _ s, State.foldl_keeps State.cmds (fun t c => (t.zeroStore_keeps ..).2) _ s⟩
  have second : shares.flds = slices.flds ∧ shares.cmds = slices.cmds :=
    ⟨State.foldl_keeps State.flds (fun t k => (share t k fun t => bitOf (t.get .PART_MARSH_SHARE (ix2 16 p k)) 4).1) _ slices,
      State.foldl_keeps State.cmds (fun t k => (share t k fun t => bitOf (t.get .PART_MARSH_SHARE (ix2 16 p k)) 4).2) _ slices⟩
  obtain ⟨flds, cmds⟩ := shares.zeroStore_keeps .cache (shares.get .PART_SHC_BASE p) (shares.get .PART_SHC_BYTES p)
  exact ⟨flds.trans (second.1.trans first.1), cmds.trans (second.2.trans first.2)⟩

theorem State.monDestroy_only (s : State) (p : Nat) : s.Leaves [Fld.MON_CLASS_OWNER_VALID.id] (s.monDestroy p) ∧ (s.monDestroy p).cmds = s.cmds := by
  have off (t : State) (l : List Nat) : (l.foldl (fun s i => s.setMon i { s.mon i with enable := false }) t).flds = t.flds ∧
      (l.foldl (fun s i => s.setMon i { s.mon i with enable := false }) t).cmds = t.cmds :=
    ⟨State.foldl_keeps State.flds (f := fun s i => s.setMon i { s.mon i with enable := false }) (fun _ _ => Eq.refl _) l t,
      State.foldl_keeps State.cmds (f := fun s i => s.setMon i { s.mon i with enable := false }) (fun _ _ => Eq.refl _) l t⟩
  unfold State.monDestroy
  extract_lets mine disabled
  obtain ⟨flds, cmds⟩ := off s ((s.mons.map Prod.fst).filter mine)
  have seen : s.Leaves [Fld.MON_CLASS_OWNER_VALID.id] { disabled with prodSeen := SMap.set disabled.prodSeen p none none } := .same flds
  refine ⟨seen.seq (.foldl (fun t c => .ite (t.put_leaves (f := .MON_CLASS_OWNER_VALID) (by decide) c 0) .rfl) _ _), ?_⟩
  refine (State.foldl_keeps State.cmds (fun t c => ?_) _ _).trans cmds
  split <;> exact Eq.refl _

theorem State.clearCopies_one (s : State) (r : RegName) (p : Nat) : s.clearCopies r p 1 = s.resetReg r p := by
  rw [State.clearCopies, List.range_one, List.foldl_cons, List.foldl_nil, Nat.mul_one, Nat.add_zero]

/-- The registers with one copy for each partition, cleared. -/
def State.ownRegsCleared (s : State) (p : Nat) : State := partRegs.foldl (fun t r => t.resetReg r p) s

/-- Those with several. -/
def State.sharedCleared (s : State) (p : Nat) : State :=
  (List.range 12).foldl (fun t m => (t.resetReg .MRS_REG (ix2 12 m p)).resetReg .MRS_REG_ACC (ix2 12 m p))
    (((s.clearCopies .PART_MARSH p 16).clearCopies .XNI_OUTBOX p 64).clearCopies .XNI_OUTBOX_REL p 64)

/-- The registers of a partition cleared. -/
def State.clearedRegs (s : State) (p : Nat) : State := (s.ownRegsCleared p).sharedCleared p

/-- A partition that is not there, without regulator counts. -/
def State.partErased (s : State) (p : Nat) : State := { s.setPart p Part.fresh with regs := s.regs.filter fun e => e.1 % 16 != p }

theorem State.partErased_keeps (s : State) (p : Nat) : (s.partErased p).flds = s.flds ∧ (s.partErased p).cmds = s.cmds ∧ (s.partErased p).part p = Part.fresh :=
  ⟨Eq.refl _, Eq.refl _, s.part_set_same p Part.fresh⟩

theorem State.clearPart_eq (s : State) (p : Nat) : s.clearPart p = (s.clearedRegs p).partErased p := by
  have own : partRegs.foldl (fun t r => t.clearCopies r p 1) s = s.ownRegsCleared p := by simp only [State.clearCopies_one, State.ownRegsCleared]
  unfold State.clearPart
  rw [own]
  exact Eq.refl _

/-- Numbers of the fields with several copies for each partition. -/
def sharedIds : List Nat := ([RegName.PART_MARSH, .XNI_OUTBOX, .XNI_OUTBOX_REL, .MRS_REG, .MRS_REG_ACC].flatMap RegName.fields).map Fld.id

theorem State.sharedCleared_only (s : State) (p : Nat) : s.Leaves sharedIds (s.sharedCleared p) ∧ ∃ ks, s.onlyFields (s.sharedCleared p) ks := by
  have stack (t : State) (m : Nat) : t.Leaves sharedIds ((t.resetReg .MRS_REG (ix2 12 m p)).resetReg .MRS_REG_ACC (ix2 12 m p)) :=
    (t.resetReg_leaves (by decide) _).seq (State.resetReg_leaves _ (by decide) _)
  have copies (t : State) (r : RegName) (n : Nat) : t.onlyFields (t.clearCopies r p n) _ := State.onlyFields_foldl (fun t k => t.onlyFields_resetReg r (p * n + k)) _ t
  have both (t : State) (m : Nat) := (t.onlyFields_resetReg .MRS_REG (ix2 12 m p)).trans (State.onlyFields_resetReg _ .MRS_REG_ACC (ix2 12 m p))
  exact ⟨(((s.clearCopies_leaves (by decide) p 16).seq (State.clearCopies_leaves _ (by decide) p 64)).seq (State.clearCopies_leaves _ (by decide) p 64)).seq (.foldl stack _ _),
    _, (((copies s _ _).trans (copies _ _ _)).trans (copies _ _ _)).trans (State.onlyFields_foldl both _ _)⟩

theorem State.ownRegsCleared_only (s : State) (p : Nat) : s.onlyFields (s.ownRegsCleared p) ((partRegs.flatMap RegName.fields).map fun f => f.key p) :=
  s.onlyFields_resetRegs partRegs p

/-- A field stays cleared where the registers cleared after it do not hold it. -/
theorem State.resetRegs_keep (s : State) {f : Fld} (hf : f.id < 4096) {i : Nat} {later : List RegName} (other : f.id ∉ (later.flatMap RegName.fields).map Fld.id) :
    (later.foldl (fun t r => t.resetReg r i) s).get f i = s.get f i := by
  have small : ∀ g ∈ later.flatMap RegName.fields, g.id < 4096 := fun g mem => by
    obtain ⟨r, -, hg⟩ := List.mem_flatMap.1 mem
    exact r.fields_small g hg
  exact (s.onlyFields_resetRegs later i).2.get small hf (.inl other)

theorem State.ownRegsCleared_zero (s : State) (p : Nat) : (s.ownRegsCleared p).get .PART_STATUS_STATE p = 0 ∧ (s.ownRegsCleared p).get .PART_STATUS_DIE_MASK p = 0 ∧
    (s.ownRegsCleared p).get .PART_STATUS_VF p = 0 ∧ (s.ownRegsCleared p).get .GST_PART_STATE_STATE p = 0 := by
  have status (t : State) : (t.resetReg .PART_STATUS p).get .PART_STATUS_STATE p = 0 ∧ (t.resetReg .PART_STATUS p).get .PART_STATUS_DIE_MASK p = 0 ∧
      (t.resetReg .PART_STATUS p).get .PART_STATUS_VF p = 0 := by
    refine ⟨?_, ?_, ?_⟩ <;>
      simp (disch := decide) only [State.resetReg, RegName.fields, List.foldl_cons, List.foldl_nil, State.get_put_of_id, State.get_put_same] <;> exact Eq.refl _
  have job (t : State) : (t.resetReg .GST_PART_STATE p).get .GST_PART_STATE_STATE p = 0 := by
    simp (disch := decide) only [State.resetReg, RegName.fields, List.foldl_cons, List.foldl_nil, State.get_put_same]
    exact Eq.refl _
  obtain ⟨state, dies, vf⟩ := status s
  unfold State.ownRegsCleared partRegs
  rw [List.foldl_cons]
  refine ⟨(State.resetRegs_keep _ (by decide) (by decide)).trans state, (State.resetRegs_keep _ (by decide) (by decide)).trans dies,
    (State.resetRegs_keep _ (by decide) (by decide)).trans vf, ?_⟩
  rw [List.foldl_cons, List.foldl_cons, List.foldl_cons]
  exact (State.resetRegs_keep _ (by decide) (by decide)).trans (job _)

theorem State.clearPart_keeps (s : State) (p : Nat) : (s.clearPart p).flds = (s.clearedRegs p).flds ∧ (s.clearPart p).cmds = s.cmds ∧ (s.clearPart p).part p = Part.fresh := by
  obtain ⟨-, _, shared⟩ := (s.ownRegsCleared p).sharedCleared_only p
  have cmds : (s.clearedRegs p).cmds = s.cmds := shared.cmds.trans (s.ownRegsCleared_only p).cmds
  obtain ⟨flds, kept, part⟩ := (s.clearedRegs p).partErased_keeps p
  rw [State.clearPart_eq]
  exact ⟨flds, kept.trans cmds, part⟩

theorem State.clearPart_shows (s : State) (p : Nat) : (s.clearPart p).get .PART_STATUS_STATE p = 0 ∧ (s.clearPart p).get .PART_STATUS_DIE_MASK p = 0 ∧
    (s.clearPart p).get .PART_STATUS_VF p = 0 ∧ (s.clearPart p).get .GST_PART_STATE_STATE p = 0 ∧
    ∀ j, j ≠ p → (s.clearPart p).get .PART_STATUS_STATE j = s.get .PART_STATUS_STATE j := by
  obtain ⟨flds, -⟩ := s.clearPart_keeps p
  obtain ⟨shared, -⟩ := (s.ownRegsCleared p).sharedCleared_only p
  obtain ⟨state, dies, vf, job⟩ := s.ownRegsCleared_zero p
  have kept (f : Fld) (hf : f.id < 4096) (other : f.id ∉ sharedIds) (i : Nat) : (s.clearPart p).get f i = (s.ownRegsCleared p).get f i := by
    rw [State.get, flds, ← State.get, State.clearedRegs, shared.get f hf other i]
  refine ⟨(kept _ (by decide) (by decide) p).trans state, (kept _ (by decide) (by decide) p).trans dies, (kept _ (by decide) (by decide) p).trans vf,
    (kept _ (by decide) (by decide) p).trans job, fun j other => (kept _ (by decide) (by decide) j).trans ?_⟩
  exact (s.ownRegsCleared_only p).2.get (by decide) (by decide) (.inr other)

/-- The memories and cores of a partition at its destruction, and its engines. -/
def State.wiped (s : State) (p : Nat) : State := ((s.zeroPart p).partAllSites p).foldl State.resetCore (s.zeroPart p)

def State.enginesFreed (s : State) (p : Nat) : State := (s.partEngines p).foldl (fun s e => s.puts e [(.DMA_CH_CTL_ENABLE, 0), (.DMA_CH_CTL_PARTITION, 15)]) s

/-- What is left of a partition destroyed, before its command completes. -/
def State.destroyed (s : State) (p : Nat) : State :=
  State.refreshTransits (((((s.wiped p).enginesFreed p).jobEvent p 6 stOk).monDestroy p).clearPart p).fwSlots (s.partDies p)

theorem partDestroyDone_eq (going : s.get .PART_STATUS_STATE p = 4) : partDestroyDone p s =
    ((s.destroyed p).cmds.filter fun c => c.kind == .partDestroy p).foldl (fun s c => s.endCmd c stOk s.gust 0 0) (s.destroyed p) := by
  unfold partDestroyDone
  rw [if_neg (not_not.2 going)]
  exact Eq.refl _

/-- Numbers of the fields written before the partition's registers are cleared. -/
def wipeIds : List Nat := siteResetIds ++ [Fld.DMA_CH_CTL_ENABLE.id, Fld.DMA_CH_CTL_PARTITION.id] ++ recordIds ++ [Fld.MON_CLASS_OWNER_VALID.id]

theorem State.wiped_only (s : State) (p : Nat) : s.Leaves wipeIds ((((s.wiped p).enginesFreed p).jobEvent p 6 stOk).monDestroy p) ∧
    ((((s.wiped p).enginesFreed p).jobEvent p 6 stOk).monDestroy p).cmds = s.cmds := by
  obtain ⟨flds, cmds⟩ := s.zeroPart_keeps p
  have cores : s.Leaves siteResetIds (s.wiped p) := (State.Leaves.same flds).seq (.foldl (fun t c => t.resetCore_leaves c) _ _)
  have coresCmds : (s.wiped p).cmds = s.cmds := (State.foldl_keeps State.cmds (fun t c => (t.resetCore_keeps c).1) _ _).trans cmds
  have engine (t : State) (e : Nat) : t.Leaves [Fld.DMA_CH_CTL_ENABLE.id, Fld.DMA_CH_CTL_PARTITION.id] (t.puts e [(.DMA_CH_CTL_ENABLE, 0), (.DMA_CH_CTL_PARTITION, 15)]) :=
    t.puts_leaves (by simp only [List.forall_mem_cons]; decide) e
  have engines : (s.wiped p).Leaves [Fld.DMA_CH_CTL_ENABLE.id, Fld.DMA_CH_CTL_PARTITION.id] ((s.wiped p).enginesFreed p) := .foldl engine _ _
  have enginesCmds : ((s.wiped p).enginesFreed p).cmds = (s.wiped p).cmds := State.foldl_keeps State.cmds (fun t e => (t.onlyFields_puts e _).cmds) _ _
  obtain ⟨mons, monsCmds⟩ := State.monDestroy_only (((s.wiped p).enginesFreed p).jobEvent p 6 stOk) p
  exact ⟨((cores.trans engines).trans (State.jobEvent_leaves _ p 6 stOk)).trans mons,
    monsCmds.trans ((State.jobEvent_only _ p 6 stOk).keeps.2.1.trans (enginesCmds.trans coresCmds))⟩

theorem State.destroyed_shows (s : State) (p : Nat) : (s.destroyed p).cmds = s.cmds ∧ (s.destroyed p).get .PART_STATUS_STATE p = 0 ∧
    (s.destroyed p).get .PART_STATUS_DIE_MASK p = 0 ∧ (s.destroyed p).get .PART_STATUS_VF p = 0 ∧ (s.destroyed p).get .GST_PART_STATE_STATE p = 0 ∧
    (s.destroyed p).part p = Part.fresh ∧ ∀ j, j ≠ p → (s.destroyed p).get .PART_STATUS_STATE j = s.get .PART_STATUS_STATE j := by
  obtain ⟨wiped, wipedCmds⟩ := s.wiped_only p
  unfold State.destroyed
  generalize (((s.wiped p).enginesFreed p).jobEvent p 6 stOk).monDestroy p = t at wiped wipedCmds
  obtain ⟨-, cmds, part⟩ := t.clearPart_keeps p
  obtain ⟨state, dies, vf, job, others⟩ := t.clearPart_shows p
  have slots := (t.clearPart p).fwSlots_only
  have transits := (t.clearPart p).fwSlots.refreshTransits_only (s.partDies p)
  have shown := ((t.clearPart p).fwSlots_leaves).trans (State.refreshTransits_leaves (t.clearPart p).fwSlots (s.partDies p))
  have same : ((t.clearPart p).fwSlots.refreshTransits (s.partDies p)).parts = (t.clearPart p).parts := by rw [transits.1, slots.1]
  refine ⟨(transits.cmds.trans slots.cmds).trans (cmds.trans wipedCmds), (shown.get _ (by decide) (by decide) p).trans state, (shown.get _ (by decide) (by decide) p).trans dies,
    (shown.get _ (by decide) (by decide) p).trans vf, (shown.get _ (by decide) (by decide) p).trans job, ?_, fun j other => ?_⟩
  · rw [State.part, same, ← State.part, part]
  · exact (shown.get _ (by decide) (by decide) j).trans ((others j other).trans (wiped.get _ (by decide) (by decide +kernel) j))

end

end Sys2Proof.Machine

namespace Sys2Proof.Proofs
open Sys2Proof Sys2Proof.Machine

/-- Settles O35: what each step of a destruction leaves of the partition's registers, followed to the completion. -/
theorem partitionIsDestroyed : Obligations.PartitionIsDestroyed := by
  refine ⟨fun q s h hp => ⟨fun armed known => ?_, fun free undo wrote carried idle held engines _ => ?_⟩, fun p s hc => ⟨fun other => ?_, fun c going cmds kind _ => ?_⟩⟩
  · have runs : exec (.partDestroy q) s = .next (partDestroy q s) := hostRow_accepted h (chk := noCheck) rfl _
    rw [runs, partDestroy]
    simp only [armed, known, Bool.not_false, Bool.and_self, if_true]
  · have runs : exec (.partDestroy q) s = .next (partDestroy q s) := hostRow_accepted h (chk := noCheck) rfl _
    obtain ⟨dropped, droppedCmds, state⟩ := State.dropping_only undo wrote carried held
    have counted := (s.dropping q.part.val).countMigrating_leaves
    obtain ⟨freed, freedCmds⟩ := (s.dropping q.part.val).countMigrating.unbound_only q.part.val
    obtain ⟨none, unbound⟩ := (s.dropping q.part.val).countMigrating.unbound_shows q.part.val
    have all := (dropped.trans counted).trans freed
    have vf : (s.dropping q.part.val).countMigrating.partVf q.part.val = s.partVf q.part.val := (dropped.trans counted).get _ (by decide) (by decide) q.part.val
    have owner := all.get .HST_RING_CTL_OWNER (by decide) (by decide) q.ring.val
    refine ⟨_, runs.trans (congrArg _ (partDestroy_begins undo wrote carried idle held rfl free engines)), ?_, ?_, ?_, fun present => ?_⟩
    · rw [State.startCmd_get]
      exact (freed.get _ (by decide) (by decide) _).trans ((counted.get _ (by decide) (by decide) _).trans state)
    · rw [State.startCmd_get, none]
    · rw [State.startCmd, State.cmdsWith, ← owner]
      exact congrArg (· ++ _) (freedCmds.trans droppedCmds)
    · rw [State.on, State.startCmd_get, ← State.on, ← vf]
      exact unbound (vf ▸ present)
  · exact (congrArg _ (State.whenClocked_on _ hc)).trans (congrArg _ (if_pos other))
  · have runs : exec (.partDestroyDone p) s = .next (partDestroyDone p.val s) := congrArg _ (State.whenClocked_on _ hc)
    obtain ⟨same, state, dies, vf, job, part, others⟩ := s.destroyed_shows p.val
    have ends : partDestroyDone p.val s = (s.destroyed p.val).endCmd c stOk (s.destroyed p.val).gust 0 0 := by
      rw [partDestroyDone_eq going, same, cmds]
      simp only [List.filter_cons, kind, BEq.rfl, if_true, List.filter_nil, List.foldl_cons, List.foldl_nil]
    exact ⟨_, runs.trans (congrArg _ ends), same.trans cmds, state, dies, vf, job, part, fun j _ other => others j other⟩

end Sys2Proof.Proofs
end

section
/-!
PROOFS. What the work of the units writes: a fixed set of registers, and of a partition neither that its job runs nor that its map is lost (R211, R301, R308, R31).
-/
namespace Sys2Proof.Machine

/-- Numbers of the fields that work writes: those of records, and the counters and states of the units, jobs and rings. -/
def workIds : List Nat :=
  ([RegName.SHC_STATS, .ZYN_NET_STATS, .CORE_TRAP_INFO, .CORE_PROG_STATUS, .DMA_CH_STATUS, .DMA_CH_COUNT, .HST_RING_STATUS, .GST_PART_STATE, .ZYN_TRANSIT].flatMap RegName.fields).map Fld.id ++
    recordIds

/-- A field that work may write. -/
abbrev Fld.OfWork (f : Fld) : Prop := f.id < 4096 ∧ f.id ∈ workIds

/-- `t` has the registers of `s` that work does not write; a job that does not run in `s` does not run, and a map is lost in both or neither. -/
structure State.Works (s t : State) : Prop where
  leaves : s.Leaves workIds t
  part : ∀ p, ((s.part p).running = false → (t.part p).running = false) ∧ (t.part p).mapLost = (s.part p).mapLost

/-- A change of nothing but the rest of the module. -/
theorem State.Works.of {s t : State} (flds : t.flds = s.flds) (parts : t.parts = s.parts) : s.Works t :=
  ⟨.same flds, fun _ => by simp only [State.part, parts]; exact ⟨id, trivial⟩⟩

theorem State.Works.rfl {s : State} : s.Works s := .of (Eq.refl _) (Eq.refl _)

theorem State.Works.trans {s t u : State} (h1 : s.Works t) (h2 : t.Works u) : s.Works u :=
  ⟨h1.leaves.seq h2.leaves, fun p => ⟨(h2.part p).1 ∘ (h1.part p).1, (h2.part p).2.trans (h1.part p).2⟩⟩

/-- What every round of a loop keeps, the loop keeps; `g` gives the state of a round's result. -/
theorem State.Works.foldlOf {α β : Type} (g : β → State) {f : β → α → β} (hf : ∀ b x, (g b).Works (g (f b x))) (l : List α) (b : β) : (g b).Works (g (l.foldl f b)) := by
  induction l generalizing b with
  | nil => exact .rfl
  | cons x l ih => exact (hf b x).trans (ih _)

theorem State.Works.ite {s a b : State} {c : Prop} [Decidable c] (ha : s.Works a) (hb : s.Works b) : s.Works (if c then a else b) := by
  split
  exacts [ha, hb]

theorem State.Works.foldl {α : Type} {f : State → α → State} (hf : ∀ (t : State) x, t.Works (f t x)) (l : List α) (s : State) : s.Works (l.foldl f s) :=
  .foldlOf (fun t => t) hf l s

section
variable (s : State)

theorem recordIds_work : recordIds ⊆ workIds := fun _ mem => List.mem_append_right _ mem

theorem State.RecordsOnly.works {s t : State} (h : s.RecordsOnly t) (get : ∀ f : Fld, f.Unrecorded → ∀ i, t.get f i = s.get f i) : s.Works t := by
  have leaves : s.Leaves recordIds t := ⟨fun f hf other i => get f ⟨hf, other⟩ i⟩
  obtain ⟨-, -, parts, -⟩ := h.keeps
  refine ⟨leaves.mono recordIds_work, fun p => ?_⟩
  have same : t.part p = s.part p := by rw [State.part, parts, ← State.part]
  rw [same]
  exact ⟨id, Eq.refl _⟩

theorem State.put_works {f : Fld} (hf : f.OfWork) (i v : Nat) : s.Works (s.put f i v) := ⟨s.put_leaves hf i v, fun _ => ⟨id, Eq.refl _⟩⟩

theorem State.bump_works {f : Fld} (hf : f.OfWork) (i n : Nat) : s.Works (s.bump f i n) := s.put_works hf ..

theorem State.puts_works {fs : List (Fld × Nat)} (hf : ∀ e ∈ fs, e.1.OfWork) (i : Nat) : s.Works (s.puts i fs) := by
  refine ⟨s.puts_leaves hf i, fun p => ?_⟩
  rw [State.puts_eq]
  exact ⟨id, Eq.refl _⟩

/-! ### Records and memory -/

theorem State.event_works (r : Rec) : s.Works (s.event r) := (s.event_only r).works fun _ hf i => State.event_get hf i s r

theorem State.readMem_works (st : Store) (off n : Nat) : s.Works (s.readMem st off n).st :=
  (s.readMem_counts st off n).stores.records.works fun _ hf i => State.readMem_get hf i s st off n

theorem State.writeMem_works (st : Store) (off : Nat) (bs : List Byte) : s.Works (s.writeMem st off bs).st :=
  (s.writeMem_stores st off bs).records.works fun _ hf i => State.writeMem_get hf i s st off bs

theorem State.rawWrite_works (st : Store) (off : Nat) (bs : List Byte) : s.Works (s.rawWrite st off bs) :=
  (s.rawWrite_stores st off bs).records.works fun _ _ i => State.rawWrite_get i s st off bs

theorem State.eccEventOf_works (who : Nat) (n : EccNote) : s.Works (s.eccEventOf who n) := by
  unfold State.eccEventOf
  split <;> exact s.event_works _

theorem State.eccEvents_works (ns : List EccNote) : s.Works (s.eccEvents ns) := .foldl (fun t n => t.eccEventOf_works 0 n) ns s

/-- A read with the records of what it found. -/
theorem State.readNoted_works (st : Store) (off n : Nat) : s.Works ((s.readMem st off n).st.eccEvents (s.readMem st off n).notes) :=
  (s.readMem_works st off n).trans (State.eccEvents_works _ _)

theorem State.store_works (st : Store) (off : Nat) (bs : List Byte) : s.Works (s.store st off bs).1 := (s.writeMem_works st off bs).trans (State.eccEvents_works _ _)

theorem State.frees_works (n : Nat) : s.Works (s.frees n).2 := .of rfl rfl

theorem State.defined_works (st : Store) (off : Nat) (bs : List Byte) : s.Works (s.defined st off bs).2 := by
  unfold State.defined
  split
  · exact s.frees_works _
  · exact .rfl

/-! ### Partitions and cores -/

/-- A change of a partition that neither starts its job nor finds its map. -/
theorem State.modPart_works (p : Nat) {f : Part → Part} (hf : ∀ x, (x.running = false → (f x).running = false) ∧ (f x).mapLost = x.mapLost) : s.Works (s.modPart p f) := by
  refine ⟨.same rfl, fun j => ?_⟩
  by_cases same : j = p
  · rw [same, State.part_modPart_same]
    exact hf _
  · rw [State.part_modPart_other _ _ same]
    exact ⟨id, rfl⟩

theorem State.modCore_works (c : Nat) (f : Core → Core) : s.Works (s.modCore c f) := .of rfl rfl

theorem State.flagPart_works (p cause status : Nat) : s.Works (s.flagPart p cause status) := by
  unfold State.flagPart
  refine .ite (s.modPart_works _ fun x => ?_) .rfl
  split <;> exact ⟨id, rfl⟩

theorem State.noteWrite_works (p : Nat) (st : Store) (off n : Nat) : s.Works (s.noteWrite p st off n) := by
  unfold State.noteWrite
  exact .ite (s.modPart_works _ fun _ => ⟨id, rfl⟩) .rfl

theorem State.planRead_works (p : Nat) (st : Store) (off n : Nat) : s.Works (s.planRead p st off n).2 := by
  unfold State.planRead
  dsimp only
  split
  · exact (s.readNoted_works st off n).trans (State.flagPart_works ..)
  · exact (s.readNoted_works st off n).trans (State.defined_works ..)

theorem State.planWrite_works (p : Nat) (st : Store) (off : Nat) (bs : List Byte) : s.Works (s.planWrite p st off bs) := by
  have stored := (s.noteWrite_works p st off bs.length).trans (State.store_works _ st off bs)
  unfold State.planWrite
  dsimp only
  split
  · exact stored.trans (State.flagPart_works ..)
  · exact stored

theorem State.unitSees_works (c : Nat) (st : Store) (off : Nat) (bs : List Byte) : s.Works (s.unitSees c st off bs).2 := by
  unfold State.unitSees
  dsimp only
  split
  · exact .rfl
  · exact s.frees_works _

theorem State.unitWrote_works (c : Nat) (st : Store) (off n : Nat) : s.Works (s.unitWrote c st off n) := by
  unfold State.unitWrote
  split
  · exact s.modCore_works ..
  · exact .rfl

theorem State.coreRead_works (c : Nat) (st : Store) (off n : Nat) : s.Works (s.coreRead c st off n).2 := by
  have read := s.planRead_works (s.diePart (dieOf c)) st off n
  unfold State.coreRead
  generalize s.planRead (s.diePart (dieOf c)) st off n = r at read ⊢
  obtain ⟨_ | bs, t⟩ := r
  · exact read
  · exact read.trans (t.unitSees_works ..)

theorem State.coreWrite_works (c : Nat) (st : Store) (off : Nat) (bs : List Byte) : s.Works (s.coreWrite c st off bs) :=
  (s.planWrite_works ..).trans (State.unitWrote_works ..)

theorem State.trap_works (c cause tag status : Nat) : s.Works (s.trap c cause tag status) :=
  (((s.event_works _).trans (State.modCore_works _ c _)).trans (State.put_works _ (f := .CORE_TRAP_INFO_CAUSE) (by decide) c cause)).trans
    ((State.put_works _ (f := .CORE_TRAP_INFO_PC) (by decide) c _).trans (State.put_works _ (f := .CORE_PROG_STATUS_STATE) (by decide) c 3))

/-! ### Tokens -/

theorem State.setReg_works (r p : Nat) (v : Reg) : s.Works (s.setReg r p v) := .of rfl rfl

theorem State.regCharge_works (r p n : Nat) : s.Works (s.regCharge r p n) := s.setReg_works ..

theorem State.bgCharge_works (p store n : Nat) : s.Works (s.bgCharge p store n) := by
  unfold State.bgCharge
  exact .ite (s.modPart_works _ fun _ => ⟨id, rfl⟩) .rfl

theorem State.grant_works (p : Nat) (stores res : List Nat) (n : Nat) :
    s.Works (s.grant p stores res n).2 ∧ ∀ u, (s.grant p stores res n).1 = some u → s.Works u := by
  unfold State.grant
  split
  · exact ⟨.rfl, fun u h => by cases h; exact .rfl⟩
  · dsimp only
    split
    · exact ⟨.rfl, fun u h => by cases h⟩
    · split
      · exact ⟨.foldl (fun t r => t.setReg_works ..) _ s, fun u h => by cases h⟩
      · have charged := (State.Works.foldl (fun t b => t.bgCharge_works p b n) stores s).trans (.foldl (fun t r => t.regCharge_works r p n) res _)
        exact ⟨charged, fun u h => by cases h; exact charged⟩

theorem State.countAnswered_works (r : Reach) : s.Works (s.countAnswered r) := by
  unfold State.countAnswered
  split
  · exact s.bump_works (by decide) ..
  · exact .rfl

/-! ### The shared cache's atomics and groups (R205 to R209) -/

theorem State.atomic_works (off w : Nat) (o : Aop) (operand compare : Nat) : s.Works (s.atomic off w o operand compare).2 := by
  have read := (s.readNoted_works .cache (off - off % 8) 8).trans (State.bump_works _ (f := .SHC_STATS_ATOMICS) (by decide) 0 1)
  unfold State.atomic
  dsimp only
  split
  · exact read
  · exact read.trans (State.store_works ..)

theorem State.groupWrite_works (p off : Nat) (bs : List Byte) : s.Works (s.groupWrite p off bs).1 := (s.noteWrite_works ..).trans (State.store_works ..)

theorem State.spoilGroup_works (p gi : Nat) : s.Works (s.spoilGroup p gi).1 := .of rfl rfl

theorem State.groups_works (gs : SMap (List (Nat × Nat × Nat))) : s.Works { s with groups := gs } := .of rfl rfl

/-- The end of a contribution or of a group, flagged where its write is refused. -/
theorem State.contribEnd_works (b : Bool) (p : Nat) : s.Works (if b then (s.flagPart p 3 stUncorrectable, ContribRes.uncorrectable) else (s, .accepted)).1 := by
  split
  · exact s.flagPart_works ..
  · exact .rfl

theorem State.groupComplete_works (p gi : Nat) (g : GroupEntry) : s.Works (s.groupComplete p gi g).1 := by
  unfold State.groupComplete
  dsimp only
  refine (s.groups_works (SMap.set s.groups (groupKey p gi) [] [])).trans ?_
  generalize ({ s with groups := SMap.set s.groups (groupKey p gi) [] [] } : State) = z
  have read := z.readNoted_works .cache g.staging (g.n * g.elems * 4)
  split
  · exact read
  · split
    · exact read.trans (State.flagPart_works ..)
    · exact ((((((read.trans (State.frees_works _ _)).trans (State.rawWrite_works ..)).trans (State.groupWrite_works ..)).trans (State.noteWrite_works ..)).trans
        (State.atomic_works ..)).trans (State.bump_works _ (f := .SHC_STATS_GROUPS) (by decide) 0 1)).trans (State.contribEnd_works ..)

theorem State.contrib_works (p gi who eoff : Nat) (data : List Byte) : s.Works (s.contrib p gi who eoff data).1 := by
  unfold State.contrib
  dsimp only
  generalize s.get .SHC_GROUP_BASE_BASE p * 32 + 32 * gi = base
  have read := s.readNoted_works .cache base 32
  split
  · exact s.spoilGroup_works ..
  · split
    · exact read.trans (State.flagPart_works ..)
    · split
      · exact read.trans (State.spoilGroup_works ..)
      · next g _ =>
        generalize (if g.inBf16 = true then 2 else 4) = width
        split
        · exact read.trans (State.spoilGroup_works ..)
        · generalize List.flatMap (fun x : F32 => toBytesLE 4 x.toNat) _ = bs
          have written := read.trans (State.groupWrite_works _ p (g.staging + (who * g.elems + eoff) * 4) bs)
          generalize State.groupWrite _ p (g.staging + (who * g.elems + eoff) * 4) bs = r at written ⊢
          split
          · exact (written.trans (State.groups_works r.1 _)).trans (State.flagPart_works ..)
          · split
            · exact (written.trans (State.groups_works r.1 _)).trans (State.groupComplete_works ..)
            · exact written.trans (State.groups_works r.1 _)

/-! ### Requests over Zeyin (R95, R244) -/

theorem State.netServe_works (c p : Nat) (d : NetDesc) (st : Store) : s.Works (s.netServe c p d st).1 := by
  have pool := s.coreRead_works c (.pool c) d.pool d.len
  unfold State.netServe
  split
  case h_1 | h_2 =>
    have read := s.coreRead_works c st d.remote d.bytes
    generalize s.coreRead c st d.remote d.bytes = r at read ⊢
    obtain ⟨_ | bs, t⟩ := r <;> exact read
  case h_3 =>
    generalize s.coreRead c (.pool c) d.pool d.len = r at pool ⊢
    obtain ⟨_ | bs, t⟩ := r
    · exact pool
    · exact pool.trans (t.coreWrite_works ..)
  case h_4 =>
    split
    · next w o _ =>
      have done := ((s.noteWrite_works p .cache d.remote d.bytes).trans (State.unitWrote_works _ c .cache d.remote d.bytes)).trans
        (State.atomic_works _ d.remote w o d.operand d.compare)
      generalize State.atomic _ d.remote w o d.operand d.compare = r at done ⊢
      obtain ⟨_ | old, t⟩ := r
      · exact done.trans (t.flagPart_works ..)
      · exact done
    · exact .rfl
  case h_5 =>
    generalize s.coreRead c (.pool c) d.pool d.len = r at pool ⊢
    obtain ⟨_ | bs, t⟩ := r
    · exact pool
    · have added := pool.trans (t.contrib_works p d.group d.contributor d.remote bs)
      dsimp only
      generalize t.contrib p d.group d.contributor d.remote bs = x at added ⊢
      obtain ⟨u, _ | _ | _⟩ := x <;> exact added

theorem State.netAttempt_works (c p : Nat) (d : NetDesc) : s.Works (s.netAttempt c p d).1 := by
  unfold State.netAttempt
  split
  · exact .rfl
  · next st _ =>
    split
    · exact .rfl
    · split
      · exact .rfl
      · dsimp only
        split
        · exact .rfl
        · exact (s.countAnswered_works _).trans (State.flagPart_works ..)
        · exact (s.countAnswered_works _).trans (State.flagPart_works ..)
        · next fb _ =>
          split
          · exact .rfl
          · split
            · exact .rfl
            · have granted := s.grant_works p [] st.resOf d.charge
              generalize s.grant p [] st.resOf d.charge = r at granted ⊢
              obtain ⟨_ | u, t⟩ := r
              · exact granted.1
              · have counted : s.Works (if fb = true then u.bump .ZYN_NET_STATS_FALLBACK c 1 else u) := by
                  split
                  · exact (granted.2 u rfl).trans (u.bump_works (by decide) ..)
                  · exact granted.2 u rfl
                exact counted.trans (State.netServe_works _ c p d st)

theorem State.netEnd_works (c : Nat) (d : NetDesc) (status : Nat) (res : Option (List Byte)) : s.Works (s.netEnd c d status res) := by
  have result : s.Works (match res with | some bs => s.coreWrite c (.pool c) d.pool bs | none => s) := by
    split
    · exact s.coreWrite_works ..
    · exact .rfl
  have reported (t : State) : t.Works (if d.statusEn = true then t.coreWrite c (.pool c) d.statusOff (toBytesLE 8 status) else t) := .ite (t.coreWrite_works ..) .rfl
  exact (result.trans (reported _)).trans (State.bump_works _ (f := .ZYN_NET_STATS_REQUESTS) (by decide) c 1)

theorem State.backAt_works (c : Nat) (k : Core) : s.Works (s.backAt c k) := s.modCore_works ..

theorem State.netPass_works (c : Nat) : s.Works (s.netPass c) := by
  unfold State.netPass
  dsimp only
  refine State.Works.trans (.foldlOf Prod.fst (fun acc e => ?_) _ (s, [])) (State.modCore_works ..)
  obtain ⟨t, kept⟩ := acc
  dsimp only
  split
  · exact .rfl
  · split
    · split
      · exact t.netEnd_works c (NetDesc.ofWords e.2) stOk none
      · exact .rfl
    · have tried := (t.modCore_works c _).trans (State.netAttempt_works (t.atUnit c 5 (e.2.drop 6)) c ((s.dieOwner (dieOf c)).getD 15) (NetDesc.ofWords e.2))
      generalize State.netAttempt _ c _ (NetDesc.ofWords e.2) = r at tried ⊢
      obtain ⟨u, _ | ⟨status, res⟩ | cause⟩ := r
      · exact tried.trans (u.backAt_works c (t.core c))
      · exact (tried.trans (u.netEnd_works c (NetDesc.ofWords e.2) status res)).trans (State.backAt_works _ c (t.core c))
      · exact (tried.trans (u.trap_works c cause (NetDesc.ofWords e.2).tag stBadPacket)).trans (State.backAt_works _ c (t.core c))

theorem State.netSettle_works (fuel : Nat) : s.Works (State.netSettle fuel s) := by
  induction fuel generalizing s with
  | zero => exact .rfl
  | succ n ih =>
    have round : s.Works s.netRound := .foldl (fun t c => t.netPass_works c) _ s
    unfold State.netSettle
    dsimp only
    split
    · exact round.trans (ih _)
    · exact round

/-! ### Requests that wait, tried again -/

theorem State.atomServe_works (p aop off : Nat) (operand compare : Word) :
    s.Works (s.atomServe p aop off operand compare).2 ∧ ∀ u, (s.atomServe p aop off operand compare).1 = some u → s.Works u := by
  unfold State.atomServe
  split
  · exact ⟨.rfl, fun u h => by cases h; exact .rfl⟩
  · next w o _ =>
    have granted := s.grant_works p [] [resCache] 8
    generalize s.grant p [] [resCache] 8 = r at granted ⊢
    obtain ⟨_ | u, t⟩ := r
    · exact ⟨granted.1, fun u h => by cases h⟩
    · have served := (granted.2 u rfl).trans (u.atomic_works off w o operand.toNat compare.toNat)
      dsimp only
      generalize u.atomic off w o operand.toNat compare.toNat = x at served ⊢
      have flagged : s.Works (if x.1.isNone = true then x.2.flagPart p 3 stUncorrectable else x.2) := by
        split
        · exact served.trans (State.flagPart_works ..)
        · exact served
      have answered := flagged.trans (State.Works.of (t := State.answer _ (.atomic p x.1)) rfl rfl)
      exact ⟨answered, fun v h => by cases h; exact answered⟩

theorem State.serveAtoms_works : s.Works s.serveAtoms := by
  unfold State.serveAtoms
  dsimp only
  refine State.Works.trans (.foldlOf Prod.fst (fun acc e => ?_) _ (s, [])) (.of rfl rfl)
  obtain ⟨t, kept⟩ := acc
  dsimp only
  split
  · exact .rfl
  · have served := t.atomServe_works e.1 e.2.1 e.2.2.1 e.2.2.2.1 e.2.2.2.2
    generalize t.atomServe e.1 e.2.1 e.2.2.1 e.2.2.2.1 e.2.2.2.2 = r at served ⊢
    obtain ⟨_ | u, v⟩ := r
    · exact served.1
    · exact served.2 u rfl

theorem State.settle_works : s.Works s.settle := by
  have atoms : s.Works (if s.atomHeld.isEmpty = true then s else s.serveAtoms) := .ite .rfl s.serveAtoms_works
  have requests (t : State) : t.Works (if t.netCores.isEmpty = true then t else State.netSettle (t.netCount + 1) t) := .ite .rfl (t.netSettle_works _)
  exact atoms.trans (requests _)

/-! ### Metered work (R211) -/

theorem State.metering_works (m : Option Meter) : s.Works { s with metering := m } := .of rfl rfl

theorem State.metreAs_works (src : Option Nat) (bgs : List Nat) (st : Store) (off n : Nat) : s.Works (s.metreAs src bgs st off n) := by
  unfold State.metreAs
  split
  · exact .rfl
  · exact s.metering_works _

theorem State.metreUse_works (bg : Nat) : s.Works (s.metreUse bg) := by
  unfold State.metreUse
  split
  · exact .rfl
  · exact s.metering_works _

theorem State.barred_works (p : Nat) (uses charges : List (Nat × Nat)) : ∀ t, s.barred p uses charges = some t → s.Works t := by
  intro t h
  unfold State.barred at h
  dsimp only at h
  split_ifs at h <;> cases h
  · exact .rfl
  · exact .foldl (fun u r => u.setReg_works ..) _ s

theorem State.chargeAll_works (p : Nat) (uses charges : List (Nat × Nat)) : s.Works (s.chargeAll p uses charges) :=
  .ite .rfl ((State.Works.foldl (fun t _ => t.bgCharge_works ..) _ s).trans (.foldl (fun t _ => t.regCharge_works ..) _ _))

/-- Metered work keeps what its work keeps. -/
theorem State.metered_works {α : Type} {f : State → α × State} (hf : ∀ u : State, u.Works (f u).2) (p : Nat) (bg : Bool) : s.Works (s.metered p bg f).2 := by
  unfold State.metered
  dsimp only
  split
  · exact .rfl
  · split
    · next t h => exact s.barred_works _ _ _ t h
    · exact (((s.metering_works _).trans (hf _)).trans (State.metering_works _ _)).trans (State.chargeAll_works ..)

/-! ### Engines at their rings (R301, R308) -/

theorem State.busWrite_works (device : Bool) (a : Nat) (bs : List Byte) : s.Works (s.busWrite device a bs).1 :=
  (s.busWrite_only device a bs).works fun _ hf i => State.busWrite_get hf i s device a bs

theorem State.fire_works (f v : Nat) : s.Works (s.fire f v) := .ite (.of rfl rfl) .rfl

theorem State.setEngine_works (e : Nat) (g : DmaEng) : s.Works (s.setEngine e g) := .of rfl rfl

theorem State.ringMetre_works (e a n : Nat) : s.Works (s.ringMetre e a n) :=
  .ite (s.metreUse_works _) (.foldl (fun t _ => t.metreAs_works ..) _ s)

theorem State.hostSideRead_works (st : Store) (off n : Nat) : s.Works (s.hostSideRead st off n).2 := by
  have read := s.readNoted_works st off n
  unfold State.hostSideRead
  dsimp only
  split
  · exact read
  · exact read.trans (State.defined_works ..)

theorem State.readPieces_works (rs : List (Store × Nat × Nat)) : s.Works (s.readPieces rs).2 := by
  induction rs generalizing s with
  | nil => exact .rfl
  | cons x rs ih =>
    have first := s.hostSideRead_works x.1 x.2.1 x.2.2
    unfold State.readPieces
    generalize s.hostSideRead x.1 x.2.1 x.2.2 = r at first ⊢
    obtain ⟨_ | bs, t⟩ := r
    · exact first
    · exact first.trans (ih t)

theorem State.readRun_works (p : Nat) (host : Bool) (x : Int × Nat) : s.Works (s.readRun p host x).2 := by
  unfold State.readRun
  split
  · exact .rfl
  · split
    · exact s.readPieces_works _
    · exact .rfl

theorem State.dmaFetch_works (e : Nat) : s.Works (s.dmaFetch e).2 := by
  have read := (s.ringMetre_works e (s.dmaHeadAddr e) 64).trans (State.readRun_works _ (s.enginePart e) (s.on .DMA_CH_CTL_RING_HOST e) ((s.dmaHeadAddr e : Nat), 64))
  unfold State.dmaFetch
  generalize State.readRun _ (s.enginePart e) (s.on .DMA_CH_CTL_RING_HOST e) ((s.dmaHeadAddr e : Nat), 64) = r at read ⊢
  obtain ⟨_ | bs, t⟩ := r
  · exact read.trans (.ite (t.flagPart_works ..) .rfl)
  · exact read

theorem State.dmaWriteBackAt_works (e : Nat) (w : List Word) (st bytes moved : Nat) : s.Works (s.dmaWriteBackAt e w st bytes moved) := by
  have written (t : State) (host : Bool) (a v0 : Nat) :
      t.Works ((((t.ringMetre e (a + 56) 8).ringMetre e a 8).busWrite host (a + 56) (toBytesLE 8 bytes)).1.busWrite host a (toBytesLE 8 v0)).1 :=
    (((t.ringMetre_works ..).trans (State.ringMetre_works ..)).trans (State.busWrite_works ..)).trans (State.busWrite_works ..)
  have counted (t : State) (done : Nat) : t.Works (if t.on .DMA_CH_DONE_ADDR_VALID e then ((t.metreAs none [bgDma] .cache done 8).atomic done 64 .add 1 0).2 else t) :=
    .ite ((t.metreAs_works ..).trans (State.atomic_works ..)) .rfl
  have told (t : State) : t.Works (if flagOf (wordAt w 0) 1 then t.fire (t.engineFn e) (t.get .DMA_CH_CTL_VECTOR e) else t) := .ite (t.fire_works ..) .rfl
  have moves (t : State) (head n : Nat) (g : DmaEng) :
      t.Works (((((t.puts e [(.DMA_CH_STATUS_HEAD, head), (.DMA_CH_STATUS_LAST_STATUS, st), (.DMA_CH_STATUS_LAST_TAG, fieldOf (wordAt w 0) 23 16)]).bump
        .DMA_CH_COUNT_DESCRIPTORS e 1).bump .DMA_CH_COUNT_KIB e n).setEngine e g).settle) :=
    ((((t.puts_works (by simp only [List.forall_mem_cons]; decide) e).trans (State.bump_works _ (by decide) ..)).trans (State.bump_works _ (by decide) ..)).trans
      (State.setEngine_works ..)).trans (State.settle_works _)
  exact (((written s _ _ _).trans (counted _ _)).trans (told _)).trans (moves _ _ _ _)

theorem State.flushHead_works (e st : Nat) : s.Works (s.flushHead e st).2 := by
  have read := s.dmaFetch_works e
  unfold State.flushHead
  generalize s.dmaFetch e = r at read ⊢
  obtain ⟨_ | w, t⟩ := r
  · exact read
  · dsimp only
    split
    · exact read.trans (t.dmaWriteBackAt_works ..)
    · exact read

theorem State.dmaFlush_works (fuel e st : Nat) : s.Works (s.dmaFlush fuel e st).1 := by
  induction fuel generalizing s with
  | zero => exact .rfl
  | succ n ih =>
    have head : s.Works (s.dmaMetered e fun t => t.flushHead e st).2 := s.metered_works (fun u => u.flushHead_works e st) ..
    rw [State.dmaFlush_succ]
    generalize (s.dmaMetered e fun t => t.flushHead e st) = r at head ⊢
    obtain ⟨_ | _ | _, t⟩ := r
    · exact head
    · exact head
    · exact head.trans (ih t)

theorem State.dmaReturn_works (e : Nat) : s.Works (s.dmaReturn e) :=
  (s.put_works (f := .DMA_CH_STATUS_HEAD) (by decide) e _).trans (.ite (State.store_works ..) .rfl)

theorem State.dmaBoundary_works (e : Nat) : s.Works (s.dmaBoundary e) := by
  unfold State.dmaBoundary
  split
  · next st _ =>
    have flushed := (s.setEngine_works e { s.engine e with flush := some st }).trans (State.dmaFlush_works _ (2 ^ (s.get .DMA_CH_CTL_SIZE e + 4)) e st)
    generalize State.dmaFlush _ _ e st = r at flushed ⊢
    obtain ⟨t, _ | _⟩ := r
    · exact flushed
    · have ended := flushed.trans (t.setEngine_works e { t.engine e with flush := none })
      have returned (u : State) : u.Works (if (st = stTargetResetting && u.planDriven e) = true then u.dmaReturn e else u) := .ite (u.dmaReturn_works e) .rfl
      exact (ended.trans (returned _)).trans (State.put_works _ (by decide) e _)
  · exact .ite .rfl (s.put_works (by decide) ..)

theorem State.dmaCut_works (e st : Nat) : s.Works (s.dmaCut e st) :=
  (s.setEngine_works e _).trans (.ite (State.dmaBoundary_works ..) .rfl)

/-! ### Work undone (R26, R27, R29) -/

theorem State.commitWrite_works (a : Nat) (w : Word) : s.Works (s.commitWrite a w) := by
  unfold State.commitWrite
  split
  · next st off _ =>
    extract_lets noted
    have slice : s.Works noted := by
      dsimp only [noted]
      split
      · exact .ite .rfl (.of rfl rfl)
      · exact .rfl
    exact slice.trans (noted.store_works ..)
  · exact .rfl

theorem State.dropUnits_works (c : Nat) : s.Works (s.dropUnits c) := .of rfl rfl

theorem State.undefineScratch_works (p : Nat) : s.Works (s.undefineScratch p) := by
  unfold State.undefineScratch
  extract_lets scratch
  have freed : s.Works scratch := .foldl (fun t e => (t.frees_works _).trans (State.rawWrite_works ..)) _ s
  exact freed.trans (scratch.modPart_works _ fun _ => ⟨id, rfl⟩)

theorem State.restoreCarried_works (p : Nat) : s.Works (s.restoreCarried p) := .foldl (fun t _ => t.store_works ..) _ s

theorem State.undoGust_works (p : Nat) : s.Works (s.undoGust p) := by
  unfold State.undoGust
  extract_lets written marked undone
  have taken : s.Works written := .foldl (fun t e => t.commitWrite_works ..) _ s
  have dropped : written.Works undone := (written.modPart_works p (f := fun x => { x with undo := [] }) fun _ => ⟨id, rfl⟩).trans (.of rfl rfl)
  exact ((taken.trans dropped).trans ((undone.undefineScratch_works p).trans (State.restoreCarried_works ..))).trans (.foldl (fun t c => t.dropUnits_works c) _ _)

/-! ### A job stopped, with its record and notice (R31, R288) -/

theorem State.haltCores_works (p : Nat) : s.Works (s.haltCores p) := .foldl (fun t c => .ite (t.put_works (by decide) ..) .rfl) _ s

theorem State.stopRunning_works (p : Nat) : s.Works (s.stopRunning p) := by
  have halted := (s.modPart_works p (f := fun x => { x with running := false, flag := none, decision := none, refused := false, linkStop := false }) fun _ => ⟨fun _ => rfl, rfl⟩).trans
    (State.haltCores_works _ p)
  exact halted.trans (State.puts_works _ (by simp only [List.forall_mem_cons]; decide) p)

theorem State.setRing_works (r : Nat) (g : Ring) : s.Works (s.setRing r g) := .of rfl rfl

theorem State.ringError_works (r kind a : Nat) : s.Works (s.ringError r kind a) := by
  unfold State.ringError
  exact (((s.put_works (f := .HST_RING_STATUS_ERROR) (by decide) r 1).trans (State.put_works _ (f := .HST_RING_STATUS_ERR_KIND) (by decide) r kind)).trans (State.setRing_works ..)).trans
    (State.event_works ..)

theorem State.coalesce_works (r : Nat) (intr : Bool) : s.Works (s.coalesce r intr) :=
  .ite ((s.setRing_works ..).trans (State.fire_works ..)) (s.setRing_works ..)

theorem State.writeComp_works (c : Comp) : s.Works (s.writeComp c) := by
  unfold State.writeComp
  dsimp only
  refine .ite .rfl (.ite ?_ ?_)
  · exact (s.busWrite_works ..).trans (State.ringError_works ..)
  · exact ((s.busWrite_works ..).trans (State.setRing_works ..)).trans (State.coalesce_works ..)

theorem State.noticeTo_works (f p kind status r0 r1 : Nat) : s.Works (s.noticeTo f p kind status r0 r1) := by
  unfold State.noticeTo
  dsimp only
  refine .ite .rfl (.ite (s.event_works _) ?_)
  exact (s.setRing_works ..).trans (.ite (State.setRing_works ..) (State.writeComp_works ..))

theorem State.notice_works (p kind status r0 r1 : Nat) : s.Works (s.notice p kind status r0 r1) :=
  (s.noticeTo_works 0 p kind status r0 r1).trans (.ite .rfl (State.noticeTo_works ..))

theorem State.jobEvent_works (p kind code : Nat) : s.Works (s.jobEvent p kind code) := s.event_works _

theorem State.stopJob_works (p cause code : Nat) : s.Works (s.stopJob p cause code) :=
  ((s.stopRunning_works p).trans (State.jobEvent_works ..)).trans (State.notice_works ..)

end

end Sys2Proof.Machine
end

section
/-!
PROOFS. What the completion of a command, a self-refresh and an engine's orders write (R113, R284, R308), with what they leave in progress.
-/
namespace Sys2Proof.Machine

section
variable (s : State)

/-! ### Completions (R284, R287) -/

theorem State.postComp_works (c : Comp) : s.Works (s.postComp c) := .ite (s.setRing_works ..) (s.writeComp_works c)

theorem State.complete_works (q : Req) (discard : Bool) (status gust r0 r1 : Nat) : s.Works (s.complete q discard status gust r0 r1) := .ite .rfl (s.postComp_works _)

theorem State.endCmd_works (c : Cmd) (status gust r0 r1 : Nat) : s.Works (s.endCmd c status gust r0 r1) := by
  have erased : s.Works { s with cmds := s.cmds.erase c } := .of rfl rfl
  exact erased.trans (State.complete_works _ c.q c.discard status gust r0 r1)

theorem State.endCmds_works (f : Cmd → Bool) (status : Nat) : s.Works (s.endCmds f status) := .foldl (fun t _ => t.endCmd_works ..) _ s

theorem State.startCmd_works (q : Req) (op : Nat) (k : CmdKind) : s.Works (s.startCmd q op k) := .of rfl rfl

theorem State.exitDone_works : s.Works s.exitDone := .ite .rfl (.foldl (fun t _ => t.endCmd_works ..) _ s)

/-- The only command in progress ended. -/
theorem State.endCmd_idle {c : Cmd} (only : s.cmds = [c]) (status gust r0 r1 : Nat) : (s.endCmd c status gust r0 r1).cmds = [] := by
  rw [State.endCmd_cmds, only, List.erase_cons_head]

theorem State.endCmd_always (c : Cmd) (status gust r0 r1 : Nat) : (s.endCmd c status gust r0 r1).always = s.always := by
  have erased : { s with cmds := s.cmds.erase c }.always = s.always := Eq.refl _
  obtain ⟨-, -, -, -, -, -, -, -, -, -, -, -, always, -⟩ := (State.complete_only { s with cmds := s.cmds.erase c } c.q c.discard status gust r0 r1).keeps
  exact always.trans erased

theorem State.cmds_cleared {s : State} (idle : s.cmds = []) : { s with cmds := [] } = s := by rw [← idle]

/-! ### Engines at their boundaries (R308) -/

theorem State.dmaOrders_works (e : Nat) : s.Works (s.dmaOrders e) := .ite (s.dmaBoundary_works e) .rfl

theorem State.dmaOrders_boots (e : Nat) : s.Boots (s.dmaOrders e) := .ite (s.dmaBoundary_boots e) .rfl

/-! ### Self-refresh (R113, R201) -/

/-- A slice's debts repaid. -/
def State.sliceRepaid (s : State) (c : Nat) : State := (List.range 128).foldl (fun t b => t.repay c b) s

theorem State.sliceRepaid_only (c : Nat) : s.sliceRepaid c = { s with flds := (s.sliceRepaid c).flds } :=
  (State.onlyFields_foldl (fun t b => t.onlyFields_put .FEN_BANK_CTL_DEBT (ix2 128 c b) 0) (List.range 128) s).1

/-- `t` differs from `s` only in the debts of the memories and in which of them refresh themselves. -/
structure State.Refreshes (s t : State) : Prop where
  leaves : s.Leaves [Fld.FEN_BANK_CTL_DEBT.id] t
  eq : t = { s with flds := t.flds, marshDebt := t.marshDebt, selfRefresh := t.selfRefresh }

theorem State.Refreshes.rfl {s : State} : s.Refreshes s := ⟨.rfl, Eq.refl _⟩

theorem State.Refreshes.trans {s t u : State} (h1 : s.Refreshes t) (h2 : t.Refreshes u) : s.Refreshes u := ⟨h1.leaves.seq h2.leaves, Eq.trans h2.eq (by rw [h1.eq])⟩

theorem State.Refreshes.foldl {α : Type} {f : State → α → State} (hf : ∀ (t : State) x, t.Refreshes (f t x)) (l : List α) (s : State) : s.Refreshes (l.foldl f s) := by
  induction l generalizing s with
  | nil => exact .rfl
  | cons x l ih => exact (hf s x).trans (ih _)

theorem State.fenSelfRefresh_refreshes (c : Nat) : s.Refreshes (s.fenSelfRefresh c) := by
  have repaid : s.Refreshes (s.sliceRepaid c) :=
    ⟨.foldl (fun t b => t.put_leaves (f := .FEN_BANK_CTL_DEBT) (by decide) (ix2 128 c b) 0) _ s, by rw [s.sliceRepaid_only c]⟩
  have marked (t : State) : t.Refreshes { t with selfRefresh := SMap.set t.selfRefresh c true false } := ⟨.same (Eq.refl _), Eq.refl _⟩
  unfold State.fenSelfRefresh
  exact repaid.trans (marked (s.sliceRepaid c))

theorem State.marshSelfRefresh_refreshes (m : Nat) : s.Refreshes (s.marshSelfRefresh m) := ⟨.same (Eq.refl _), Eq.refl _⟩

/-- Every memory whose die has its core domain, and every stack, refreshes itself. -/
def State.memoriesRest (s : State) : State :=
  (List.range 12).foldl State.marshSelfRefresh
    ((List.range 816).foldl (fun s c => if bitOf (s.get .PWR_STATE_CORES_OFF 0) (dieOf c) then s else s.fenSelfRefresh c) s)

theorem State.memoriesRest_refreshes : s.Refreshes s.memoriesRest := by
  have slices : s.Refreshes ((List.range 816).foldl (fun s c => if bitOf (s.get .PWR_STATE_CORES_OFF 0) (dieOf c) then s else s.fenSelfRefresh c) s) := by
    refine .foldl (fun t c => ?_) _ s
    split
    · exact .rfl
    · exact t.fenSelfRefresh_refreshes c
  exact slices.trans (.foldl State.marshSelfRefresh_refreshes _ _)

/-! ### Sleep (R366) -/

/-- The ports DOWN. -/
def State.portsDown (s : State) : State := (List.range 16).foldl (fun s k => s.put .XNI_PORT_STATUS_STATE k 0) s

theorem State.portsDown_leaves : s.Leaves [Fld.XNI_PORT_STATUS_STATE.id] s.portsDown := .foldl (fun t k => t.put_leaves (f := .XNI_PORT_STATUS_STATE) (by decide) k 0) _ s

theorem State.portsDown_only : s.portsDown = { s with flds := s.portsDown.flds } := (State.onlyFields_foldl (fun t k => t.onlyFields_put .XNI_PORT_STATUS_STATE k 0) _ s).1

/-- Fabric lock lost, and no lull. -/
def State.lockLost (s : State) : State := { s.put .GST_SYNC_STATUS_LOCKED 0 0 with sync := ⟨0, 0, false, 0, none⟩, phase := 0 }

theorem State.lockLost_leaves : s.Leaves [Fld.GST_SYNC_STATUS_LOCKED.id] s.lockLost := (s.put_leaves (f := .GST_SYNC_STATUS_LOCKED) (by decide) 0 0).seq (.same (Eq.refl _))

theorem State.lockLost_keeps : s.lockLost.cmds = s.cmds ∧ s.lockLost.engines = s.engines ∧ s.lockLost.flash = s.flash ∧ s.lockLost.always = s.always := ⟨Eq.refl _, Eq.refl _, Eq.refl _, Eq.refl _⟩

theorem State.lockLost_unlocked : s.lockLost.on .GST_SYNC_STATUS_LOCKED 0 = false := congrArg (· == 1) (State.get_put_same s .GST_SYNC_STATUS_LOCKED 0 0)

theorem State.sleepUnits_eq : s.sleepUnits = s.memoriesRest.portsDown.lockLost := Eq.refl _

theorem State.sleepUnits_leaves : s.Leaves ([Fld.FEN_BANK_CTL_DEBT.id] ++ [Fld.XNI_PORT_STATUS_STATE.id] ++ [Fld.GST_SYNC_STATUS_LOCKED.id]) s.sleepUnits := by
  rw [State.sleepUnits_eq]
  exact (s.memoriesRest_refreshes.leaves.trans (State.portsDown_leaves _)).trans (State.lockLost_leaves _)

theorem State.sleepUnits_unlocked : s.sleepUnits.on .GST_SYNC_STATUS_LOCKED 0 = false := by
  rw [State.sleepUnits_eq]
  exact State.lockLost_unlocked _

theorem State.Refreshes.keeps {s t : State} (h : s.Refreshes t) : t.cmds = s.cmds ∧ t.engines = s.engines ∧ t.flash = s.flash ∧ t.always = s.always ∧ t.mem = s.mem := by
  rw [h.eq]
  exact ⟨Eq.refl _, Eq.refl _, Eq.refl _, Eq.refl _, Eq.refl _⟩

theorem State.portsDown_keeps : s.portsDown.cmds = s.cmds ∧ s.portsDown.engines = s.engines ∧ s.portsDown.flash = s.flash ∧ s.portsDown.always = s.always := by
  rw [s.portsDown_only]
  exact ⟨Eq.refl _, Eq.refl _, Eq.refl _, Eq.refl _⟩

/-- Sleep keeps what is in progress, at the host as at the engines, and the flash. -/
theorem State.sleepUnits_keeps : s.sleepUnits.cmds = s.cmds ∧ s.sleepUnits.engines = s.engines ∧ s.sleepUnits.flash = s.flash ∧ s.sleepUnits.always = s.always := by
  obtain ⟨cmds, engines, flash, always, -⟩ := s.memoriesRest_refreshes.keeps
  obtain ⟨downCmds, downEngines, downFlash, downAlways⟩ := s.memoriesRest.portsDown_keeps
  obtain ⟨lastCmds, lastEngines, lastFlash, lastAlways⟩ := s.memoriesRest.portsDown.lockLost_keeps
  rw [State.sleepUnits_eq]
  exact ⟨lastCmds.trans (downCmds.trans cmds), lastEngines.trans (downEngines.trans engines), lastFlash.trans (downFlash.trans flash), lastAlways.trans (downAlways.trans always)⟩

end

end Sys2Proof.Machine
end

section
/-!
PROOFS. Power states (R366, R367, R369): a transition tried, its end, and the statement O36.
-/
namespace Sys2Proof.Machine

/-! ### A transition tried (R367) -/

section
variable {s : State} {c : Cmd} {t : Nat}

theorem State.powerNext_idle (idle : s.cmds = []) (n : Nat) : s.powerNext n = s := by
  cases n with
  | zero => rfl
  | succ n =>
    unfold State.powerNext
    split
    · rfl
    · rw [idle, List.find?_nil]

theorem State.powerTry_refused (state : powerFrom t (s.get .PWR_STATE_STATE 0) = false) : s.powerTry t = (some stBadPacket, s) := by
  unfold State.powerTry
  rw [state]
  exact if_pos rfl

/-- A transition to a state short of Off begun: shown, and the engines held at their boundaries on the way to Sleep and Deep. -/
def State.powerBegun (s : State) (t : Nat) : State :=
  if t ≥ 2 then (List.range 32).foldl State.dmaOrders (s.puts 0 [(.PWR_STATE_BUSY, 1), (.PWR_STATE_TARGET, t)]) else s.puts 0 [(.PWR_STATE_BUSY, 1), (.PWR_STATE_TARGET, t)]

theorem State.powerTry_begins (state : powerFrom t (s.get .PWR_STATE_STATE 0) = true) (unarmed : s.anyArmed = false) (short : t < 4) : s.powerTry t = (none, s.powerBegun t) := by
  have on : t ≠ 4 := Nat.ne_of_lt short
  unfold State.powerTry
  rw [state, unarmed]
  simp only [on, if_false, false_and, Bool.not_true, Bool.false_eq_true, and_false]
  rfl

theorem State.powerNext_refused {st : Nat} (only : s.cmds = [c]) (kind : c.kind = .powerState t) (free : s.on .PWR_STATE_BUSY 0 = false) (tried : s.powerTry t = (some st, s))
    (n : Nat) : s.powerNext (n + 1) = s.endCmd c st s.gust 0 0 := by
  unfold State.powerNext
  rw [if_neg (by simp [free]), only, List.find?_cons_of_pos (by simp [kind, CmdKind.powerTarget])]
  simp only [kind, CmdKind.powerTarget, Option.getD_some, tried]
  exact State.powerNext_idle (s.endCmd_idle only ..) n

theorem State.powerNext_begins {u : State} (only : s.cmds = [c]) (kind : c.kind = .powerState t) (free : s.on .PWR_STATE_BUSY 0 = false) (tried : s.powerTry t = (none, u))
    (n : Nat) : s.powerNext (n + 1) = u := by
  unfold State.powerNext
  rw [if_neg (by simp [free]), only, List.find?_cons_of_pos (by simp [kind, CmdKind.powerTarget])]
  simp only [kind, CmdKind.powerTarget, Option.getD_some, tried]

end

section
variable (s : State) (t : Nat)

theorem State.powerBegun_cmds : (s.powerBegun t).cmds = s.cmds := by
  have shown : (s.puts 0 [(.PWR_STATE_BUSY, 1), (.PWR_STATE_TARGET, t)]).cmds = s.cmds := by rw [State.puts_eq]
  unfold State.powerBegun
  split
  · exact (State.foldl_keeps State.cmds (fun u e => (u.dmaOrders_boots e).cmds) _ _).trans shown
  · exact shown

theorem State.powerBegun_shows (short : t < 4) : (s.powerBegun t).on .PWR_STATE_BUSY 0 = true ∧ (s.powerBegun t).get .PWR_STATE_TARGET 0 = t := by
  have shown : (s.puts 0 [(.PWR_STATE_BUSY, 1), (.PWR_STATE_TARGET, t)]).on .PWR_STATE_BUSY 0 = true ∧
      (s.puts 0 [(.PWR_STATE_BUSY, 1), (.PWR_STATE_TARGET, t)]).get .PWR_STATE_TARGET 0 = t := by
    rw [State.on]
    simp (disch := decide) only [State.puts_cons, State.puts_nil, State.get_put_of_id, State.get_put_same]
    exact ⟨rfl, Nat.mod_eq_of_lt (Nat.lt_trans short (by decide))⟩
  unfold State.powerBegun
  split
  · have held (u : State) := (State.Works.foldl State.dmaOrders_works (List.range 32) u).leaves
    exact ⟨(congrArg (· == 1) ((held _).get _ (by decide) (by decide +kernel) 0)).trans shown.1, ((held _).get _ (by decide) (by decide +kernel) 0).trans shown.2⟩
  · exact shown

theorem State.powerBegun_only (run : t < 2) : s.onlyFields (s.powerBegun t) [Fld.PWR_STATE_BUSY.key 0, Fld.PWR_STATE_TARGET.key 0] := by
  unfold State.powerBegun
  rw [if_neg (Nat.not_le.2 run)]
  exact State.onlyFields_puts ..

end

/-! ### A transition done (R366, R367) -/

section
variable {s : State}

/-- Sleep shown and no longer awaited. -/
def State.sleepShown (s : State) : State := ((s.puts 0 [(.PWR_STATE_BUSY, 0), (.PWR_STATE_TARGET, 0)]).powerEvent 70 0 2).put .PWR_STATE_STATE 0 2

theorem State.enterPower_sleep (s : State) : s.enterPower 2 = s.sleepShown.sleepUnits := rfl

theorem State.sleepShown_shows (s : State) : s.sleepShown.get .PWR_STATE_STATE 0 = 2 ∧ s.sleepShown.on .PWR_STATE_BUSY 0 = false ∧ s.sleepShown.get .PWR_STATE_TARGET 0 = 0 := by
  have event (u : State) (f : Fld) (hf : f.Unrecorded) : (u.powerEvent 70 0 2).get f 0 = u.get f 0 := State.event_get hf 0 u _
  unfold State.sleepShown
  rw [State.on, State.get_put_same, State.get_put_of_id _ _ _ _ (by decide) (by decide) (by decide), State.get_put_of_id _ _ _ _ (by decide) (by decide) (by decide),
    event _ _ ⟨by decide, by decide +kernel⟩, event _ _ ⟨by decide, by decide +kernel⟩]
  simp (disch := decide) only [State.puts_cons, State.puts_nil, State.get_put_of_id, State.get_put_same]
  exact ⟨rfl, rfl, rfl⟩

theorem State.sleepShown_keeps (s : State) : s.sleepShown.cmds = s.cmds ∧ s.sleepShown.always = s.always := by
  have event (u : State) := u.powerEvent_boots 70 0 2
  have shown (u : State) : (u.put .PWR_STATE_STATE 0 2).cmds = u.cmds ∧ (u.put .PWR_STATE_STATE 0 2).always = u.always := ⟨rfl, rfl⟩
  unfold State.sleepShown
  rw [(shown _).1, (shown _).2, (event _).cmds, (event _).always, State.puts_eq]
  exact ⟨rfl, rfl⟩

theorem State.enterPower_sleeps (s : State) : (s.enterPower 2).get .PWR_STATE_STATE 0 = 2 ∧ (s.enterPower 2).on .PWR_STATE_BUSY 0 = false ∧
    (s.enterPower 2).get .PWR_STATE_TARGET 0 = 0 ∧ (s.enterPower 2).on .GST_SYNC_STATUS_LOCKED 0 = false ∧ (s.enterPower 2).cmds = s.cmds ∧ (s.enterPower 2).always = s.always := by
  obtain ⟨state, busy, target⟩ := s.sleepShown_shows
  obtain ⟨cmds, -, -, always⟩ := s.sleepShown.sleepUnits_keeps
  have kept (f : Fld) (hf : f.id < 4096) (other : f.id ∉ [Fld.FEN_BANK_CTL_DEBT.id] ++ [Fld.XNI_PORT_STATUS_STATE.id] ++ [Fld.GST_SYNC_STATUS_LOCKED.id]) :=
    s.sleepShown.sleepUnits_leaves.get f hf other 0
  rw [s.enterPower_sleep]
  exact ⟨(kept _ (by decide) (by decide)).trans state, (congrArg (· == 1) (kept _ (by decide) (by decide))).trans busy, (kept _ (by decide) (by decide)).trans target,
    State.sleepUnits_unlocked _, cmds.trans s.sleepShown_keeps.1, always.trans s.sleepShown_keeps.2⟩

/-- The transition to Sleep done for the command in progress. -/
theorem State.powerDone_sleeps {c : Cmd} (only : s.cmds = [c]) (kind : c.kind = .powerState 2) (target : s.get .PWR_STATE_TARGET 0 = 2) (unarmed : s.anyArmed = false)
    (host : s.mgmt.effecter = false) : s.powerDone = State.enterPower ((s.setEffecter false).endCmd c stOk (s.setEffecter false).gust 0 0) 2 := by
  have ended : ((s.setEffecter false).endCmd c stOk (s.setEffecter false).gust 0 0).cmds = [] := State.endCmd_idle (s.setEffecter false) only stOk (s.setEffecter false).gust 0 0
  have found : s.cmds.find? (fun c => c.kind.powerTarget.isSome) = some c := by
    rw [only, List.find?_cons_of_pos (by simp [kind, CmdKind.powerTarget])]
  obtain ⟨-, -, -, -, cmds, -⟩ := State.enterPower_sleeps ((s.setEffecter false).endCmd c stOk (s.setEffecter false).gust 0 0)
  unfold State.powerDone
  simp only [target, unarmed, host, found, Bool.false_eq_true, if_false, Bool.and_false]
  exact State.powerNext_idle (cmds.trans ended) 1024

theorem powerEntered_sleeps (busy : s.on .PWR_STATE_BUSY 0 = true) (target : s.get .PWR_STATE_TARGET 0 = 2) (nand : s.nand = []) (engines : s.engines = []) :
    powerEntered s = s.powerDone := by
  have ready : s.powerReady 2 = true := by simp [State.powerReady, nand, engines]
  unfold powerEntered
  simp only [busy, target, ready, Bool.true_and, if_true]
  rfl

/-- The oldest command of a die whose power returns. -/
theorem powerEntered_die {c : Cmd} {scope d : Nat} (free : s.on .PWR_STATE_BUSY 0 = false) (only : s.cmds = [c]) (kind : c.kind = .diePower scope d true) :
    powerEntered s = (s.diePowered scope d true).endCmd c stOk s.gust 0 0 := by
  unfold powerEntered
  rw [only, List.find?_cons_of_pos (by simp [kind])]
  simp only [free, kind, Bool.false_and, Bool.false_eq_true, if_false]

/-- No wake is met while the state is entered. -/
theorem exec_powerStateEntered {u : State} (hc : s.clocked = true) (entered : powerEntered s = u) (asleep : u.always.wakePend = none) : exec .powerStateEntered s = .next u := by
  refine congrArg _ ((State.whenClocked_on _ hc).trans ?_)
  dsimp only
  rw [entered, asleep]

theorem bitOf_clearBit (n d : Nat) : bitOf (clearBit n d) d = false := by
  unfold clearBit
  split
  · next set =>
    have odd : n / 2 ^ d % 2 = 1 := of_decide_eq_true set
    have less : (n - 2 ^ d) / 2 ^ d = n / 2 ^ d - 1 := by rw [← Nat.sub_mul_div n (2 ^ d) 1, Nat.mul_one]
    refine decide_eq_false ?_
    omega
  · next off => exact Bool.eq_false_iff.2 off

/-- A die's cores powered. -/
theorem State.diePowered_cores (s : State) (d : Nat) (small : d < 12) : bitOf ((s.diePowered 1 d true).get .PWR_STATE_CORES_OFF 0) d = false ∧
    s.onlyFields (s.diePowered 1 d true) [Fld.PWR_STATE_CORES_OFF.key 0, Fld.ZYN_TRANSIT_STATE.key d] := by
  have shown (t : State) : t.onlyFields (t.refreshTransit d) [Fld.ZYN_TRANSIT_STATE.key d] := t.onlyFields_put .ZYN_TRANSIT_STATE d _
  have only : s.onlyFields (s.diePowered 1 d true) [Fld.PWR_STATE_CORES_OFF.key 0, Fld.ZYN_TRANSIT_STATE.key d] :=
    (s.onlyFields_put .PWR_STATE_CORES_OFF 0 (clearBit (s.get .PWR_STATE_CORES_OFF 0) d)).trans (shown _)
  have cleared : (s.diePowered 1 d true).get .PWR_STATE_CORES_OFF 0 = clearBit (s.get .PWR_STATE_CORES_OFF 0) d % 2 ^ Fld.PWR_STATE_CORES_OFF.width :=
    (State.get_put_of_id _ d 0 _ (by decide) (by decide) (by decide)).trans (State.get_put_same ..)
  have low : (clearBit (s.get .PWR_STATE_CORES_OFF 0) d % 2 ^ Fld.PWR_STATE_CORES_OFF.width).testBit d = (clearBit (s.get .PWR_STATE_CORES_OFF 0) d).testBit d := by
    rw [Nat.testBit_mod_two_pow, decide_eq_true (Nat.lt_of_lt_of_le small (by decide)), Bool.true_and]
  refine ⟨?_, only⟩
  rw [cleared, bitOf, ← Nat.testBit_eq_decide_div_mod_eq, low, Nat.testBit_eq_decide_div_mod_eq]
  exact bitOf_clearBit _ d

end

theorem State.diePowered_gust (s : State) (d : Nat) : (s.diePowered 1 d true).gust = s.gust :=
  (State.get_put_of_id _ d 0 _ (by decide) (by decide) (by decide)).trans (State.get_put_of_id _ 0 0 _ (by decide) (by decide) (by decide))

/-- Whether a command of a die waits for a boundary: cores that go off do. -/
theorem CmdKind.dieOff_diePower {scope : Nat} (named : scope = 1 ∨ scope = 2) (d : Nat) (on : Bool) : (CmdKind.diePower scope d on).dieOff.isSome = decide (scope = 1 ∧ on = false) := by
  obtain rfl | rfl := named <;> cases on <;> rfl

/-- A die's cores or its transit domain switched, no partition holding it (R369). -/
theorem diePower_starts {q : Req} {p0 : Word} {s : State} (named : fieldOf p0 5 4 = 1 ∨ fieldOf p0 5 4 = 2) (free : s.dieRefused (fieldOf p0 5 4) (fieldOf p0 11 8) = false)
    (target : fieldOf p0 2 0 = 0 ∨ fieldOf p0 2 0 = 4) :
    diePower q p0 s = if fieldOf p0 5 4 = 1 ∧ fieldOf p0 2 0 = 4 then s.waiting q 0x38 (.diePower (fieldOf p0 5 4) (fieldOf p0 11 8) false)
      else { s with cmds := s.cmdsWith q 0x38 (.diePower (fieldOf p0 5 4) (fieldOf p0 11 8) (fieldOf p0 2 0 == 0)) } := by
  have state : ¬(fieldOf p0 2 0 ≠ 0 ∧ fieldOf p0 2 0 ≠ 4) := fun other => target.elim other.1 other.2
  unfold diePower
  dsimp only
  rw [if_neg state, free]
  simp only [Bool.false_eq_true, if_false, CmdKind.dieOff_diePower named, decide_eq_true_eq]
  obtain run | off := target
  · rw [run, if_neg (by simp), if_neg (by simp)]
    rfl
  · rw [off]
    split
    · next cores =>
      rw [if_pos ⟨cores.1, rfl⟩]
      rfl
    · next transit =>
      rw [if_neg fun cores => transit ⟨cores.1, rfl⟩]
      rfl

/-- POWER_STATE of the module, accepted. -/
theorem exec_powerState {q : Req} {p0 : Word} {s : State} (h : s.Accepts opPowerState q [p0]) (small : fieldOf p0 2 0 ≤ 4) (module : fieldOf p0 5 4 = 0) :
    exec (.powerState q p0) s = .next ((s.startCmd q 0x38 (.powerState (fieldOf p0 2 0))).powerNext 1024) := by
  have valid : powerReason p0 s = 0 := by
    unfold powerReason
    rw [module, if_neg (by omega), if_neg (by simp)]
  have whole : ¬(fieldOf p0 5 4 = 1 ∨ fieldOf p0 5 4 = 2) := by rw [module]; decide
  exact (if_neg whole).trans (hostRow_accepted h valid _)

/-- POWER_STATE of a die, accepted. -/
theorem exec_diePowerState {q : Req} {p0 : Word} {s : State} (h : s.Accepts opPowerState q [p0]) (small : fieldOf p0 2 0 ≤ 4) (named : fieldOf p0 5 4 = 1 ∨ fieldOf p0 5 4 = 2)
    (die : fieldOf p0 11 8 < 12) : exec (.diePowerState q p0) s = .next (diePower q p0 s) := by
  have valid : powerReason p0 s = 0 := by
    unfold powerReason
    rw [if_neg (by omega), if_neg (by omega)]
  have part : ¬(fieldOf p0 5 4 = 0 ∨ fieldOf p0 5 4 = 3) := by omega
  exact (if_neg part).trans (hostRow_accepted h valid _)

end Sys2Proof.Machine

namespace Sys2Proof.Proofs
open Sys2Proof Sys2Proof.Machine

/-- Settles O36: POWER_STATE is tried at once where nothing else is in progress, and a transition ends as the state or the die that it names. -/
theorem powerStatesChange : Obligations.PowerStatesChange := by
  refine ⟨fun q p0 s => ?_, fun s c hc only wake nand engines => ?_⟩
  · intro t h small idle free engines unarmed
    let asked := s.startCmd q 0x38 (.powerState (fieldOf p0 2 0))
    have only : asked.cmds = [⟨q, s.get .HST_RING_CTL_OWNER q.ring.val, 0x38, .powerState (fieldOf p0 2 0), false⟩] := by
      dsimp only [asked]
      rw [State.startCmd, idle, List.nil_append]
    refine ⟨fun module state short => ?_, fun module state => ?_, fun scope d hs hd named die refused target => ?_⟩
    · have begins := State.powerNext_begins only rfl free (State.powerTry_begins (s := asked) (t := t) state unarmed short) 1023
      obtain ⟨busy, shown⟩ := asked.powerBegun_shows t short
      refine ⟨_, (exec_powerState h small module).trans (congrArg _ begins), busy, shown, asked.powerBegun_cmds t, fun run => ?_⟩
      have kept := asked.powerBegun_only t run
      have frame (u : State) (h : u = { asked with flds := u.flds }) : u = { s with flds := u.flds, cmds := u.cmds } := by
        rw [h]
        rfl
      exact ⟨frame _ kept.1, kept.2⟩
    · have refused := State.powerNext_refused only rfl free (State.powerTry_refused (s := asked) (t := t) state) 1023
      refine (exec_powerState h small module).trans (congrArg _ (refused.trans ?_))
      have erased : { asked with cmds := asked.cmds.erase ⟨q, s.get .HST_RING_CTL_OWNER q.ring.val, 0x38, .powerState (fieldOf p0 2 0), false⟩ } = s := by
        rw [only, List.erase_cons_head]
        exact State.cmds_cleared idle
      exact congrArg (fun u : State => u.complete q false stBadPacket s.gust 0 0) erased
    · subst hs hd
      exact (exec_diePowerState h small named die).trans (congrArg _ (diePower_starts named refused target))
  · refine ⟨fun busy target kind unarmed host => ?_, fun d free kind small => ?_⟩
    · have ended := (s.setEffecter false).endCmd_always c stOk (s.setEffecter false).gust 0 0
      have idle : ((s.setEffecter false).endCmd c stOk (s.setEffecter false).gust 0 0).cmds = [] := State.endCmd_idle (s.setEffecter false) only stOk (s.setEffecter false).gust 0 0
      have entered := (powerEntered_sleeps busy target nand engines).trans (State.powerDone_sleeps only kind target unarmed host)
      generalize (s.setEffecter false).endCmd c stOk (s.setEffecter false).gust 0 0 = t at ended idle entered
      obtain ⟨state, done, none, unlocked, cmds, always⟩ := t.enterPower_sleeps
      have asleep : (t.enterPower 2).always.wakePend = Option.none := by
        rw [always, ended]
        exact wake
      exact ⟨_, exec_powerStateEntered hc entered asleep, state, done, none, unlocked, cmds.trans idle⟩
    · obtain ⟨off, kept⟩ := s.diePowered_cores d small
      have entered := powerEntered_die free only kind
      rw [← s.diePowered_gust d] at entered
      have asleep : ((s.diePowered 1 d true).endCmd c stOk (s.diePowered 1 d true).gust 0 0).always.wakePend = none := by
        rw [State.endCmd_always, kept.1]
        exact wake
      exact ⟨s.diePowered 1 d true, exec_powerStateEntered hc entered asleep, off, kept.1, kept.2⟩

end Sys2Proof.Proofs
end

section
/-!
PROOFS. The entry into Doldrums mode whatever is in progress (R335): the registers that it leaves, and that no job runs after it.
-/
namespace Sys2Proof.Machine

/-- What every round of a loop may establish for its own item and keeps for the others holds for each item after the loop. -/
theorem State.foldl_reaches {α : Type} {f : State → α → State} {P : α → State → Prop} (own : ∀ t x, P x (f t x)) (keeps : ∀ t x y, P y t → P y (f t x)) {l : List α} {x : α}
    (mem : x ∈ l) (s : State) : P x (l.foldl f s) := by
  have kept (l : List α) : ∀ s, P x s → P x (l.foldl f s) := by
    induction l with
    | nil => exact fun _ h => h
    | cons y l ih => exact fun s h => ih _ (keeps s y x h)
  induction l generalizing s with
  | nil => cases mem
  | cons y l ih =>
    obtain rfl | later := List.mem_cons.1 mem
    · exact kept l _ (own s x)
    · exact ih later _

/-! ### What stops -/

/-- Every register apart from those numbered stays, no job starts, and with no command in progress none begins. -/
structure State.Halts (ids : List Nat) (s t : State) : Prop where
  leaves : s.Leaves ids t
  running : ∀ p, (s.part p).running = false → (t.part p).running = false
  idle : s.cmds = [] → t.cmds = []

section
variable {ids more : List Nat} {s t u : State}

theorem State.Halts.of (flds : t.flds = s.flds) (parts : t.parts = s.parts) (cmds : t.cmds = s.cmds) : s.Halts ids t :=
  ⟨.same flds, fun _ => by simp only [State.part, parts]; exact id, fun idle => cmds.trans idle⟩

theorem State.Halts.rfl : s.Halts ids s := .of (Eq.refl _) (Eq.refl _) (Eq.refl _)

theorem State.Halts.seq (h1 : s.Halts ids t) (h2 : t.Halts ids u) : s.Halts ids u := ⟨h1.leaves.seq h2.leaves, fun p => h2.running p ∘ h1.running p, h2.idle ∘ h1.idle⟩

theorem State.Halts.mono (h : s.Halts ids t) (sub : ids ⊆ more) : s.Halts more t := ⟨h.leaves.mono sub, h.running, h.idle⟩

theorem State.Halts.foldl {α : Type} {f : State → α → State} (hf : ∀ (t : State) x, t.Halts ids (f t x)) (l : List α) (s : State) : s.Halts ids (l.foldl f s) := by
  induction l generalizing s with
  | nil => exact .rfl
  | cons x l ih => exact (hf s x).seq (ih _)

theorem State.Halts.ite {c : Prop} [Decidable c] (ht : s.Halts ids t) (hu : s.Halts ids u) : s.Halts ids (if c then t else u) := by
  split
  exacts [ht, hu]

theorem State.Works.halts (works : s.Works t) (cmds : t.cmds = s.cmds) (sub : workIds ⊆ ids) : s.Halts ids t :=
  ⟨works.leaves.mono sub, fun p => (works.part p).1, fun idle => cmds.trans idle⟩

theorem State.put_halts (s : State) {f : Fld} (hf : f.id < 4096 ∧ f.id ∈ ids) (i v : Nat) : s.Halts ids (s.put f i v) := ⟨s.put_leaves hf i v, fun _ => id, id⟩

theorem State.puts_halts (s : State) {fs : List (Fld × Nat)} (hf : ∀ e ∈ fs, e.1.id < 4096 ∧ e.1.id ∈ ids) (i : Nat) : s.Halts ids (s.puts i fs) := by
  refine ⟨s.puts_leaves hf i, fun p => ?_, fun idle => ?_⟩ <;> rw [State.puts_eq]
  · exact id
  · exact idle

end

/-- Numbers of the fields that the entry into Doldrums mode writes once the mode is shown, apart from the ports' states. -/
def stopIds : List Nat :=
  workIds ++ (takenIds ++ [Fld.MRS_SPARE_STATE.id, Fld.MRS_SPARE_PROGRESS.id, Fld.PART_REPAIR_MIGRATING.id])

/-- With those of the ports. -/
def doldrumsIds : List Nat := Fld.XNI_PORT_STATUS_STATE.id :: stopIds

theorem stopIds_doldrums : stopIds ⊆ doldrumsIds := List.subset_cons_self ..

theorem workIds_stop : workIds ⊆ stopIds := List.subset_append_left ..

theorem takenIds_stop : takenIds ⊆ stopIds := fun _ mem => List.mem_append_right _ (List.mem_append_left _ mem)

section
variable (s : State)

theorem State.endCmd_halts (c : Cmd) (status gust r0 r1 : Nat) : s.Halts stopIds (s.endCmd c status gust r0 r1) :=
  ⟨(s.endCmd_works ..).leaves.mono workIds_stop, fun p => ((s.endCmd_works ..).part p).1, fun idle => by rw [State.endCmd_cmds, idle, List.erase_nil]⟩

theorem State.unmakePart_halts (p : Nat) : s.Halts stopIds (s.unmakePart p) := by
  refine ⟨(s.unmakePart_leaves p).mono takenIds_stop, fun j still => ?_, fun idle => ?_⟩
  · rw [State.part, (s.unmakePart_flds p).2, ← State.part]
    by_cases same : j = p
    · rw [same, State.part_set_same]
      rfl
    · rw [State.part_set_other _ _ same]
      exact still
  · rw [(s.unmakePart_only p).eq]
    exact idle

theorem State.leaveReset_halts (p : Nat) : s.Halts stopIds (s.leaveReset p) := .ite (s.put_halts (f := .GST_PART_STATE_STATE) (by decide +kernel) p _) .rfl

/-- A partition as it was before the reset that a command asked for. -/
theorem State.unreset_halts (p : Nat) : s.Halts stopIds ((s.put .PART_STATUS_STATE p (s.part p).prior).leaveReset p) :=
  (s.put_halts (f := .PART_STATUS_STATE) (by decide +kernel) p _).seq (State.leaveReset_halts _ p)

/-- What a command leaves of its partition when the entry ends it. -/
def State.cmdUndone (s : State) (c : Cmd) : State :=
  match c.kind with
  | .partCreate p _ => s.unmakePart p
  | .partReset p => if s.get .PART_STATUS_STATE p = 3 then (s.put .PART_STATUS_STATE p (s.part p).prior).leaveReset p else s
  | .migrateSite _ loc _ _ switched =>
    (match s.dieOwner (bitsOf loc 3 0) with
     | some p => if switched = 0 ∨ s.get .PART_STATUS_STATE p ≠ 3 then s else (s.put .PART_STATUS_STATE p (s.part p).prior).leaveReset p
     | none => s)
  | _ => s

theorem State.cmdUndone_halts (c : Cmd) : s.Halts stopIds (s.cmdUndone c) := by
  unfold State.cmdUndone
  split
  · exact s.unmakePart_halts _
  · exact .ite (s.unreset_halts _) .rfl
  · split
    · exact .ite .rfl (s.unreset_halts _)
    · exact .rfl
  · exact .rfl

theorem State.cutCmd_halts (c : Cmd) : s.Halts stopIds (s.cutCmd c) := (s.cmdUndone_halts c).seq (State.endCmd_halts _ ..)

/-! ### The entry -/

/-- Jobs stopped at their last commit. -/
def State.jobsStopped (s : State) : State := (List.range 12).foldl (fun s p => if (s.part p).running then (s.undoGust p).stopJob p stDoldrums else s) s

/-- The units of the cores emptied, and the engines' descriptors ended. -/
def State.unitsStopped (s : State) : State :=
  ((List.range 32).filter fun e => ((s.cores.map (·.1)).foldl State.dropUnits s).on .DMA_CH_CTL_ENABLE e || !((s.cores.map (·.1)).foldl State.dropUnits s).dmaIdle e).foldl
    (fun s e => s.dmaCut e stDoldrums) ((s.cores.map (·.1)).foldl State.dropUnits s)

/-- Commands in progress that the mode does not accept ended. -/
def State.cmdsCut (s : State) : State := (s.cmds.filter fun c => !doldrumsAccepts c.op).foldl State.cutCmd s

/-- Migrations of channels given up. -/
def State.sparesLeft (s : State) : State :=
  ((List.range 12).foldl (fun s m => if s.get .MRS_SPARE_STATE m = 1 then s.puts m [(.MRS_SPARE_STATE, 0), (.MRS_SPARE_PROGRESS, 0)] else s) s).put .PART_REPAIR_MIGRATING 0 0

theorem State.enterDoldrums_awake (awake : s.inDoldrums = false) (cause : Nat) :
    s.enterDoldrums cause = (s.doldrumsShown cause).jobsStopped.unitsStopped.portsDown.cmdsCut.sparesLeft.doldrumsEvent 1 cause := by
  unfold State.enterDoldrums
  extract_lets held marked shown jobs units engines ports cut spares
  rw [awake, if_neg (by decide)]
  rfl

theorem State.stopJob_halts (p : Nat) : s.Halts stopIds ((s.undoGust p).stopJob p stDoldrums) :=
  ((s.undoGust_works p).trans (State.stopJob_works _ p stDoldrums _)).halts (((s.undoGust_boots p).trans (State.stopJob_boots _ p stDoldrums _)).cmds) workIds_stop

theorem State.jobsStopped_halts : s.Halts stopIds s.jobsStopped := .foldl (fun t p => .ite (t.stopJob_halts p) .rfl) _ s

theorem State.stopJob_stops (p cause code : Nat) : ((s.stopJob p cause code).part p).running = false := by
  have stopped : ((s.stopRunning p).part p).running = false := by
    have marked : ((s.modPart p fun x => { x with running := false, flag := none, decision := none, refused := false, linkStop := false }).part p).running = false := by
      rw [State.part_modPart_same]
    have rest (t : State) : t.Works ((t.haltCores p).puts p [(.GST_PART_STATE_STATE, 4), (.GST_PART_STATE_RERUN, 0)]) :=
      (t.haltCores_works p).trans (State.puts_works _ (by simp only [List.forall_mem_cons]; decide) p)
    exact ((rest _).part p).1 marked
  exact (((State.jobEvent_works (s.stopRunning p) p 2 code).trans (State.notice_works _ p 1 cause 0 0)).part p).1 stopped

theorem State.jobsStopped_stopped {p : Nat} (hp : p < 12) : (s.jobsStopped.part p).running = false := by
  refine State.foldl_reaches (P := fun p t => (t.part p).running = false) (fun t p => ?_) (fun t x y still => ?_) (List.mem_range.2 hp) s
  · split
    · exact State.stopJob_stops ..
    · next idle => exact Bool.eq_false_iff.2 idle
  · exact (State.Halts.ite (t.stopJob_halts x) .rfl).running y still

theorem State.unitsStopped_halts : s.Halts stopIds s.unitsStopped := by
  have dropped : s.Halts stopIds ((s.cores.map (·.1)).foldl State.dropUnits s) := .foldl (fun t c => (t.dropUnits_works c).halts (t.dropUnits_boots c).cmds workIds_stop) _ s
  exact dropped.seq (.foldl (fun t e => (t.dmaCut_works e stDoldrums).halts (t.dmaCut_boots e stDoldrums).cmds workIds_stop) _ _)

theorem State.portsDown_halts : s.Halts doldrumsIds s.portsDown := .foldl (fun t k => t.put_halts (f := .XNI_PORT_STATUS_STATE) ⟨by decide, List.mem_cons_self⟩ k 0) _ s

theorem State.portsDown_down {k : Nat} (hk : k < 16) : s.portsDown.get .XNI_PORT_STATUS_STATE k = 0 := by
  refine State.foldl_reaches (P := fun k t => t.get .XNI_PORT_STATUS_STATE k = 0) (fun t k => State.get_put_same ..) (fun t x y down => ?_) (List.mem_range.2 hk) s
  by_cases same : y = x
  · rw [same, State.get_put_same]
    rfl
  · rw [State.get_put_other _ _ fun keys => same (Fld.key_inj (by decide) (by decide) keys).2, down]

theorem State.cmdsCut_halts : s.Halts stopIds s.cmdsCut := .foldl State.cutCmd_halts _ s

theorem State.sparesLeft_halts : s.Halts stopIds s.sparesLeft := by
  have spares : s.Halts stopIds ((List.range 12).foldl (fun s m => if s.get .MRS_SPARE_STATE m = 1 then s.puts m [(.MRS_SPARE_STATE, 0), (.MRS_SPARE_PROGRESS, 0)] else s) s) :=
    .foldl (fun t m => .ite (t.puts_halts (by simp only [List.forall_mem_cons]; decide +kernel) m) .rfl) _ s
  exact spares.seq (State.put_halts _ (f := .PART_REPAIR_MIGRATING) (by decide +kernel) 0 0)

theorem State.doldrumsEvent_halts (kind cause : Nat) : s.Halts stopIds (s.doldrumsEvent kind cause) := (s.event_works _).halts (s.event_boots _).cmds workIds_stop

/-- The last steps of an entry. -/
theorem State.entryEnd_halts (cause : Nat) : s.Halts stopIds (s.cmdsCut.sparesLeft.doldrumsEvent 1 cause) :=
  (s.cmdsCut_halts.seq (State.sparesLeft_halts _)).seq (State.doldrumsEvent_halts _ 1 cause)

variable {s} (awake : s.inDoldrums = false) (cause : Nat)
include awake

theorem State.enterDoldrums_halts : (s.doldrumsShown cause).Halts doldrumsIds (s.enterDoldrums cause) := by
  rw [s.enterDoldrums_awake awake]
  exact (((State.jobsStopped_halts _).seq (State.unitsStopped_halts _)).mono stopIds_doldrums).seq
    ((State.portsDown_halts _).seq ((State.entryEnd_halts _ cause).mono stopIds_doldrums))

theorem State.enterDoldrums_stopped {p : Nat} (hp : p < 12) : ((s.enterDoldrums cause).part p).running = false := by
  rw [s.enterDoldrums_awake awake]
  exact (((State.unitsStopped_halts _).mono stopIds_doldrums).seq ((State.portsDown_halts _).seq ((State.entryEnd_halts _ cause).mono stopIds_doldrums))).running p (State.jobsStopped_stopped _ hp)

theorem State.enterDoldrums_ports {k : Nat} (hk : k < 16) : (s.enterDoldrums cause).get .XNI_PORT_STATUS_STATE k = 0 := by
  rw [s.enterDoldrums_awake awake]
  exact ((State.entryEnd_halts _ cause).leaves.get _ (by decide) (by decide +kernel) k).trans (State.portsDown_down _ hk)

omit awake

/-- A further cause held (R337). -/
theorem State.enterDoldrums_again (mode : s.inDoldrums = true) : s.enterDoldrums cause =
    if bitOf (s.get .PART_DOLDRUMS_HELD 0) (cause - 1) then s
    else (s.put .PART_DOLDRUMS_HELD 0 (s.get .PART_DOLDRUMS_HELD 0 ||| 2 ^ (cause - 1))).doldrumsEvent 1 cause := by
  unfold State.enterDoldrums
  rw [mode, if_pos rfl]

/-- Numbers of all the fields that an entry into Doldrums mode, or a cause held in it, writes. -/
def enterIds : List Nat := [Fld.PART_DOLDRUMS_HELD, .PART_DOLDRUMS_ACTIVE, .PART_DOLDRUMS_CAUSE, .HST_CP_STATUS_DOLDRUMS, .PART_DOLDRUMS_ENTRIES].map Fld.id ++ doldrumsIds

/-- Whatever the mode. -/
theorem State.enterDoldrums_enters (s : State) (cause : Nat) : s.Halts enterIds (s.enterDoldrums cause) := by
  have late : doldrumsIds ⊆ enterIds := List.subset_append_right ..
  cases mode : s.inDoldrums
  · have shown : s.Halts enterIds (s.doldrumsShown cause) :=
      ⟨⟨fun f hf other i => s.doldrumsShown_get hf cause i fun mem => other (List.mem_append_left _ mem)⟩, fun _ => id, id⟩
    exact shown.seq ((State.enterDoldrums_halts mode cause).mono late)
  · rw [State.enterDoldrums_again cause mode]
    exact .ite .rfl ((s.put_halts (f := .PART_DOLDRUMS_HELD) ⟨by decide, List.mem_append_left _ (by decide)⟩ 0 _).seq
      ((State.doldrumsEvent_halts _ 1 cause).mono fun _ mem => late (stopIds_doldrums mem)))

theorem State.enterDoldrums_mode (s : State) (cause : Nat) : (s.enterDoldrums cause).inDoldrums = true := by
  have event (t : State) : (t.doldrumsEvent 1 cause).inDoldrums = t.inDoldrums := congrArg (· == 1) (State.event_get (f := .PART_DOLDRUMS_ACTIVE) ⟨by decide, by decide +kernel⟩ 0 t _)
  have held (v : Nat) : (s.put .PART_DOLDRUMS_HELD 0 v).inDoldrums = s.inDoldrums := congrArg (· == 1) (State.get_put_of_id s 0 0 v (by decide) (by decide) (by decide))
  cases mode : s.inDoldrums
  · have kept := (State.enterDoldrums_halts mode cause).leaves.get .PART_DOLDRUMS_ACTIVE (by decide) (by decide +kernel) 0
    exact (congrArg (· == 1) kept).trans (s.doldrumsShown_active cause).1
  · rw [State.enterDoldrums_again cause mode]
    split
    · exact mode
    · rw [event, held, mode]

/-- The cause is held after it, for each of the five. -/
theorem State.enterDoldrums_held (s : State) {cause : Nat} (small : cause - 1 < 5) : bitOf ((s.enterDoldrums cause).get .PART_DOLDRUMS_HELD 0) (cause - 1) = true := by
  have bit (n : Nat) : bitOf ((n ||| 2 ^ (cause - 1)) % 2 ^ Fld.PART_DOLDRUMS_HELD.width) (cause - 1) = true := by
    rw [bitOf, ← Nat.testBit_eq_decide_div_mod_eq, Nat.testBit_mod_two_pow, decide_eq_true (Nat.lt_of_lt_of_le small (by decide)), Nat.testBit_or, Nat.testBit_two_pow_self]
    simp
  have event (t : State) : (t.doldrumsEvent 1 cause).get .PART_DOLDRUMS_HELD 0 = t.get .PART_DOLDRUMS_HELD 0 := State.event_get ⟨by decide, by decide +kernel⟩ 0 t _
  cases mode : s.inDoldrums
  · have kept := (State.enterDoldrums_halts mode cause).leaves.get .PART_DOLDRUMS_HELD (by decide) (by decide +kernel) 0
    have shown : (s.doldrumsShown cause).get .PART_DOLDRUMS_HELD 0 = (s.get .PART_DOLDRUMS_HELD 0 ||| 2 ^ (cause - 1)) % 2 ^ Fld.PART_DOLDRUMS_HELD.width := by
      unfold State.doldrumsShown State.bump
      simp (disch := decide) only [State.puts_cons, State.puts_nil, State.get_put_of_id, State.get_put_same]
    rw [kept, shown, bit]
  · rw [State.enterDoldrums_again cause mode]
    split
    · assumption
    · rw [event, State.get_put_same, bit]

end

end Sys2Proof.Machine
end

section
/-!
PROOFS. The steps of a partition's reset (R317): what its beginning and its end leave of the registers, the partitions, the repair map and the commands in progress.
-/
namespace Sys2Proof.Machine

/-! ### The beginning -/

section
variable (s : State) (p : Nat)

/-- What the reset began from noted in the partition. -/
def State.resetNoted (s : State) (p : Nat) : State := s.modPart p fun x => { x with prior := s.get .PART_STATUS_STATE p, fwVersion := s.get .PART_FW_CURRENT 0 }

/-- A running job stopped at its last commit. -/
def State.jobLeft (s : State) (p : Nat) : State := if (s.part p).running then (s.stopRunning p).jobEvent p 2 stOk else s

def State.jobNoted (s : State) (p : Nat) : State := s.modPart p fun x => { x with priorJob := s.get .GST_PART_STATE_STATE p }

/-- What waits for the partition ended. -/
def State.workLeft (s : State) (p : Nat) : State := (s.dropWaiting p).endCmds (s.resetEnds p) stTargetResetting

def State.enginesCut (s : State) (p : Nat) : State := (s.partEngines p).foldl (fun s e => s.dmaCut e stTargetResetting) s.countMigrating

/-- All that a reset ends before it is shown. -/
def State.resetCut (s : State) (p : Nat) : State := (((((s.resetNoted p).undoGust p).jobLeft p).jobNoted p).workLeft p).enginesCut p

def State.resetShown (s : State) (p : Nat) : State := (s.puts p [(.PART_STATUS_STATE, 3), (.GST_PART_STATE_STATE, 5)]).refreshTransits (s.partDies p)

theorem State.beginReset_eq : s.beginReset p = (s.resetCut p).resetShown p := rfl

theorem State.dropWaiting_works : s.Works (s.dropWaiting p) := by
  have filtered : s.Works { s with atomHeld := s.atomHeld.filter fun e => e.1 != p, xniHeld := s.xniHeld.filter fun h => h.part != p } := .of rfl rfl
  have lost (t : State) (e st : Nat) : t.Works (t.writeLost e st) := .of (by rw [t.writeLost_frame]) (by rw [t.writeLost_frame])
  exact filtered.trans (.foldl (fun t h => lost t _ _) _ _)

theorem State.resetNoted_works : s.Works (s.resetNoted p) := s.modPart_works p fun _ => ⟨id, rfl⟩

theorem State.jobNoted_works : s.Works (s.jobNoted p) := s.modPart_works p fun _ => ⟨id, rfl⟩

theorem State.jobLeft_works : s.Works (s.jobLeft p) := .ite ((s.stopRunning_works p).trans (State.jobEvent_works ..)) .rfl

theorem State.workLeft_works : s.Works (s.workLeft p) := (s.dropWaiting_works p).trans (State.endCmds_works ..)

theorem State.enginesCut_leaves : s.Leaves ([Fld.PART_REPAIR_MIGRATING.id] ++ workIds) (s.enginesCut p) ∧ ∀ j, ((s.enginesCut p).part j).mapLost = (s.part j).mapLost := by
  have cut := State.Works.foldl (fun t e => State.dmaCut_works t e stTargetResetting) (s.partEngines p) s.countMigrating
  have counted (j : Nat) : (s.countMigrating.part j).mapLost = (s.part j).mapLost := rfl
  exact ⟨s.countMigrating_leaves.trans cut.leaves, fun j => (cut.part j).2.trans (counted j)⟩

/-- Numbers of the fields that the beginning of a reset writes before it is shown. -/
def resetIds : List Nat := workIds ++ ([Fld.PART_REPAIR_MIGRATING.id] ++ workIds)

theorem State.resetCut_leaves : s.Leaves resetIds (s.resetCut p) ∧ ∀ j, ((s.resetCut p).part j).mapLost = (s.part j).mapLost := by
  have work := (((s.resetNoted_works p).trans (State.undoGust_works _ p)).trans (State.jobLeft_works _ p)).trans ((State.jobNoted_works _ p).trans (State.workLeft_works _ p))
  obtain ⟨leaves, lost⟩ := (((((s.resetNoted p).undoGust p).jobLeft p).jobNoted p).workLeft p).enginesCut_leaves p
  exact ⟨work.leaves.trans leaves, fun j => (lost j).trans (work.part j).2⟩

theorem State.resetShown_leaves : s.Leaves [Fld.PART_STATUS_STATE.id, Fld.GST_PART_STATE_STATE.id, Fld.ZYN_TRANSIT_STATE.id] (s.resetShown p) := by
  have shown (t : State) (ds : List Nat) := (t.refreshTransits_leaves ds).mono (more := [Fld.PART_STATUS_STATE.id, Fld.GST_PART_STATE_STATE.id, Fld.ZYN_TRANSIT_STATE.id]) (by decide)
  exact (s.puts_leaves (by simp only [List.forall_mem_cons]; decide) p).seq (shown _ _)

theorem State.resetShown_shows : (s.resetShown p).get .PART_STATUS_STATE p = 3 ∧ (s.resetShown p).get .GST_PART_STATE_STATE p = 5 := by
  have shown (f : Fld) (hf : f.id < 4096) (other : f.id ∉ [Fld.ZYN_TRANSIT_STATE.id]) : (s.resetShown p).get f p = (s.puts p [(.PART_STATUS_STATE, 3), (.GST_PART_STATE_STATE, 5)]).get f p :=
    (State.refreshTransits_leaves _ _).get f hf other p
  rw [shown _ (by decide) (by decide), shown _ (by decide) (by decide)]
  simp (disch := decide) only [State.puts_cons, State.puts_nil, State.get_put_of_id, State.get_put_same]
  exact ⟨rfl, rfl⟩

theorem State.resetShown_keeps : (s.resetShown p).parts = s.parts ∧ (s.resetShown p).cmds = s.cmds ∧ (s.resetShown p).mem = s.mem := by
  have shown (t : State) (ds : List Nat) : (t.refreshTransits ds).parts = t.parts ∧ (t.refreshTransits ds).cmds = t.cmds ∧ (t.refreshTransits ds).mem = t.mem := by
    rw [(t.refreshTransits_only ds).1]
    exact ⟨rfl, rfl, rfl⟩
  obtain ⟨parts, cmds, mem⟩ := shown (s.puts p [(.PART_STATUS_STATE, 3), (.GST_PART_STATE_STATE, 5)]) (s.partDies p)
  rw [State.puts_eq] at parts cmds mem
  exact ⟨parts, cmds, mem⟩

theorem State.resetShown_other {j : Nat} (apart : j ≠ p) : (s.resetShown p).get .PART_STATUS_STATE j = s.get .PART_STATUS_STATE j := by
  have shown : (s.resetShown p).get .PART_STATUS_STATE j = (s.puts p [(.PART_STATUS_STATE, 3), (.GST_PART_STATE_STATE, 5)]).get .PART_STATUS_STATE j :=
    (State.refreshTransits_leaves _ _).get _ (by decide) (by decide) j
  exact shown.trans (State.puts_get_copy _ (by simp only [List.forall_mem_cons]; decide) (by decide) apart)

/-- A reset begun reaches the state of its partition alone. -/
theorem State.beginReset_other {j : Nat} (apart : j ≠ p) : (s.beginReset p).get .PART_STATUS_STATE j = s.get .PART_STATUS_STATE j := by
  rw [State.beginReset_eq, State.resetShown_other _ _ apart]
  exact (s.resetCut_leaves p).1.get _ (by decide) (by decide +kernel) j

theorem State.beginReset_mapLost (j : Nat) : ((s.beginReset p).part j).mapLost = (s.part j).mapLost := by
  rw [State.beginReset_eq, State.part, ((s.resetCut p).resetShown_keeps p).1, ← State.part]
  exact (s.resetCut_leaves p).2 j

theorem State.beginReset_leaves : s.Leaves (resetIds ++ [Fld.PART_STATUS_STATE.id, Fld.GST_PART_STATE_STATE.id, Fld.ZYN_TRANSIT_STATE.id]) (s.beginReset p) := by
  rw [State.beginReset_eq]
  exact (s.resetCut_leaves p).1.trans (State.resetShown_leaves _ p)

/-- With no command in progress, a reset begun leaves none. -/
theorem State.beginReset_idle (idle : s.cmds = []) : (s.beginReset p).cmds = [] := by
  have noted : (s.resetNoted p).cmds = s.cmds := rfl
  have again (t : State) : (t.jobNoted p).cmds = t.cmds := rfl
  have left (t : State) : t.Boots (t.jobLeft p) := .ite ((t.stopRunning_boots p).trans (State.jobEvent_boots ..)) .rfl
  have dropped (t : State) : (t.dropWaiting p).cmds = t.cmds := State.foldl_keeps State.cmds (fun u h => by rw [u.writeLost_frame]) _ _
  have counted (t : State) : t.countMigrating.cmds = t.cmds := rfl
  have work : ((((s.resetNoted p).undoGust p).jobLeft p).jobNoted p).cmds = [] := by
    rw [again, (left _).cmds, (State.undoGust_boots _ p).cmds, noted, idle]
  have ended : (((((s.resetNoted p).undoGust p).jobLeft p).jobNoted p).workLeft p).cmds = [] := by
    rw [State.workLeft, State.endCmds_idle ((dropped _).trans work), dropped, work]
  rw [State.beginReset_eq, (State.resetShown_keeps _ p).2.1, State.resetCut, State.enginesCut,
    State.foldl_keeps State.cmds (f := fun s e => s.dmaCut e stTargetResetting) (fun t e => (t.dmaCut_boots e stTargetResetting).cmds), counted, ended]

end

/-! ### The end -/

/-- `t` has the commands, partitions and repair map of `s`. -/
structure State.Holds (s t : State) : Prop where
  cmds : t.cmds = s.cmds
  parts : t.parts = s.parts
  map : t.repairMap = s.repairMap

section
variable {s t u : State}

theorem State.Holds.rfl : s.Holds s := ⟨Eq.refl _, Eq.refl _, Eq.refl _⟩

theorem State.Holds.trans (h1 : s.Holds t) (h2 : t.Holds u) : s.Holds u := ⟨h2.cmds.trans h1.cmds, h2.parts.trans h1.parts, h2.map.trans h1.map⟩

theorem State.Holds.part (h : s.Holds t) (p : Nat) : t.part p = s.part p := by rw [State.part, h.parts, ← State.part]

theorem State.Holds.foldl {α : Type} {f : State → α → State} (hf : ∀ (t : State) x, t.Holds (f t x)) (l : List α) (s : State) : s.Holds (l.foldl f s) := by
  induction l generalizing s with
  | nil => exact .rfl
  | cons x l ih => exact (hf s x).trans (ih _)

theorem State.Holds.ite {c : Prop} [Decidable c] (ht : s.Holds t) (hu : s.Holds u) : s.Holds (if c then t else u) := by
  split
  exacts [ht, hu]

theorem State.RecordsOnly.holds (h : s.RecordsOnly t) : s.Holds t := by
  obtain ⟨-, cmds, parts, -, -, -, -, map, -⟩ := h.keeps
  exact ⟨cmds, parts, map⟩

theorem State.onlyFields.holds {ks : List Nat} (h : s.onlyFields t ks) : s.Holds t := by
  rw [h.1]
  exact ⟨Eq.refl _, Eq.refl _, Eq.refl _⟩

end

section
variable (s : State) (p : Nat)

/-- The pools of the partition scratch, and its carried regions restored. -/
def State.memoryReset (s : State) (p : Nat) : State := (s.scratchPools p).restoreCarried p

/-- The partition with what outlives its reset. -/
def State.partRenewed (s : State) (p : Nat) : State := s.setPart p { Part.fresh with
  map := (s.part p).map, mapLost := (s.part p).mapLost, fwVersion := (s.part p).fwVersion, commitWord := (s.part p).commitWord, rewrites := (s.part p).rewrites,
  snapshot := (s.part p).snapshot }

/-- Its sites reset, its regulators refilled and its staged set discarded. -/
def State.sitesReset (s : State) (p : Nat) : State :=
  let t := (s.resetPartCores p).refillRegs p
  { t with stage := (t.partDies p).foldl (fun m d => m.erase d) t.stage }

/-- The end of one command for which a reset is awaited. -/
def State.endResetCmd (p st : Nat) (s : State) (c : Cmd) : State :=
  match c.kind with
  | .partReset n => if n = p then s.endCmd c st s.gust 0 0 else s
  | .migrateSite _ loc _ copied switched =>
    if switched ≠ 0 ∧ s.dieOwner (bitsOf loc 3 0) = some p then s.endCmd c st (if st = stOk then switched - 1 else s.gust) (copied.getD 0) 0 else s
  | _ => s

theorem State.endResetCmds_eq (st : Nat) : s.endResetCmds p st = s.cmds.foldl (State.endResetCmd p st) s := rfl

/-- The reset's record and the commands that waited for it, the firmware slots and the ports. -/
def State.resetTold (s : State) (p : Nat) : State := ((s.jobEvent p 4 stOk).endResetCmds p stOk).fwSlots.podLapse p

def State.readyShown (s : State) (p : Nat) : State :=
  let t := s.puts p [(.GST_PART_STATE_RERUN, 0), (.GST_PART_STATE_REWINDS_IN_WINDOW, 0), (.PART_STATUS_STATE, 2), (.GST_PART_STATE_STATE, 0)]
  t.refreshTransits (t.partDies p)

theorem State.endReset_eq : s.endReset p = (((((s.memoryReset p).partRenewed p).voteRepair.sitesReset p).resetTold p).readyShown p).loseByRepair.exitDone := rfl

theorem State.scratchPools_holds : s.Holds (s.scratchPools p) := by
  refine .foldl (fun t e => .ite ?_ .rfl) _ s
  exact ⟨rfl, rfl, rfl⟩

theorem State.restoreCarried_holds : s.Holds (s.restoreCarried p) := .foldl (fun t _ => (t.store_only ..).holds) _ s

theorem State.memoryReset_holds : s.Holds (s.memoryReset p) := (s.scratchPools_holds p).trans (State.restoreCarried_holds _ p)

theorem State.partRenewed_keeps : (s.partRenewed p).cmds = s.cmds ∧ (s.partRenewed p).repairMap = s.repairMap := ⟨rfl, rfl⟩

theorem State.partRenewed_part : ((s.partRenewed p).part p).map = (s.part p).map ∧ ((s.partRenewed p).part p).loaded = none ∧ ((s.partRenewed p).part p).armed = none ∧
    ((s.partRenewed p).part p).running = false := by
  rw [State.partRenewed, State.part_set_same]
  exact ⟨rfl, rfl, rfl, rfl⟩

theorem State.voteRepair_cmds : s.voteRepair.cmds = s.cmds := by
  have rounds (es : List (Tri (List Word) × Nat)) (acc : State × List (Tri (List Word))) : (es.foldl (fun acc e =>
      let (v, repaired, t) := e.1.vote
      (acc.1.voteOutcome 15 4 e.2 v.isSome repaired, acc.2 ++ [t])) acc).1.cmds = acc.1.cmds := by
    induction es generalizing acc with
    | nil => rfl
    | cons e es ih => exact (ih _).trans (State.voteOutcome_only ..).holds.cmds
  unfold State.voteRepair
  exact rounds s.repairMap.zipIdx (s, [])

theorem State.sitesReset_holds : s.Holds (s.sitesReset p) := by
  obtain ⟨cmds, parts, map⟩ := s.resetPartCores_keeps p
  obtain ⟨-, refillCmds, refillParts, refillMap, -⟩ := (s.resetPartCores p).refillRegs_keeps p
  exact ⟨refillCmds.trans cmds, refillParts.trans parts, refillMap.trans map⟩

theorem State.endCmd_holds (c : Cmd) (status gust r0 r1 : Nat) : (s.endCmd c status gust r0 r1).parts = s.parts ∧ (s.endCmd c status gust r0 r1).repairMap = s.repairMap := by
  obtain ⟨-, parts, map⟩ := (State.complete_only { s with cmds := s.cmds.erase c } c.q c.discard status gust r0 r1).holds
  exact ⟨parts, map⟩

theorem State.endResetCmd_keeps (st : Nat) (c : Cmd) : (State.endResetCmd p st s c).parts = s.parts ∧ (State.endResetCmd p st s c).repairMap = s.repairMap ∧
    s.Works (State.endResetCmd p st s c) := by
  have ended (gust r0 : Nat) : (s.endCmd c st gust r0 0).parts = s.parts ∧ (s.endCmd c st gust r0 0).repairMap = s.repairMap ∧ s.Works (s.endCmd c st gust r0 0) :=
    ⟨(s.endCmd_holds ..).1, (s.endCmd_holds ..).2, s.endCmd_works ..⟩
  have same : s.parts = s.parts ∧ s.repairMap = s.repairMap ∧ s.Works s := ⟨rfl, rfl, .rfl⟩
  unfold State.endResetCmd
  split
  · split
    · exact ended ..
    · exact same
  · split
    · exact ended ..
    · exact same
  · exact same

theorem State.endResetCmds_keeps (st : Nat) : (s.endResetCmds p st).parts = s.parts ∧ (s.endResetCmds p st).repairMap = s.repairMap ∧ s.Works (s.endResetCmds p st) := by
  rw [State.endResetCmds_eq]
  exact ⟨State.foldl_keeps State.parts (fun t c => (t.endResetCmd_keeps p st c).1) _ _, State.foldl_keeps State.repairMap (fun t c => (t.endResetCmd_keeps p st c).2.1) _ _,
    .foldl (fun t c => (t.endResetCmd_keeps p st c).2.2) _ _⟩

variable {s p}

/-- Where only resets of the partition are in progress, none is left. -/
theorem State.endResetCmds_none (all : ∀ c ∈ s.cmds, c.kind = .partReset p) (st : Nat) : (s.endResetCmds p st).cmds = [] := by
  have each (l : List Cmd) (all : ∀ c ∈ l, c.kind = .partReset p) (t : State) (cmds : t.cmds = l) : (l.foldl (State.endResetCmd p st) t).cmds = [] := by
    induction l generalizing t with
    | nil => exact cmds
    | cons c l ih =>
      have ended : State.endResetCmd p st t c = t.endCmd c st t.gust 0 0 := by
        unfold State.endResetCmd
        rw [all c List.mem_cons_self]
        exact if_pos rfl
      rw [List.foldl_cons, ended]
      exact ih (fun d hd => all d (List.mem_cons_of_mem _ hd)) _ (by rw [State.endCmd_cmds, cmds, List.erase_cons_head])
  exact each s.cmds all s rfl

theorem State.endResetCmds_idle (idle : s.cmds = []) (st : Nat) : s.endResetCmds p st = s := by
  rw [State.endResetCmds_eq, idle]
  rfl

variable (s p)

theorem State.putLater_holds (f : Fld) (i v : Nat) : s.Holds (s.putLater f i v) := ⟨rfl, rfl, rfl⟩

theorem State.podLapse_holds : s.Holds (s.podLapse p) := .ite .rfl (.foldl (fun t k => t.putLater_holds .XNI_PORT_CTL_ENABLE k 0) _ s)

/-- What the reset tells beside the commands that it ends. -/
theorem State.resetTold_keeps : (s.resetTold p).parts = s.parts ∧ (s.resetTold p).repairMap = s.repairMap ∧
    (s.resetTold p).cmds = ((s.jobEvent p 4 stOk).endResetCmds p stOk).cmds := by
  obtain ⟨parts, map, -⟩ := (s.jobEvent p 4 stOk).endResetCmds_keeps p stOk
  have event := (s.jobEvent_only p 4 stOk).holds
  have rest := ((s.jobEvent p 4 stOk).endResetCmds p stOk).fwSlots_only.holds.trans (State.podLapse_holds _ p)
  exact ⟨rest.parts.trans (parts.trans event.parts), rest.map.trans (map.trans event.map), rest.cmds⟩

theorem State.readyShown_holds : s.Holds (s.readyShown p) := (State.onlyFields_puts ..).holds.trans (State.refreshTransits_only _ _).holds

theorem State.readyShown_shows : (s.readyShown p).get .PART_STATUS_STATE p = 2 ∧ (s.readyShown p).get .GST_PART_STATE_STATE p = 0 ∧
    (s.readyShown p).get .GST_PART_STATE_REWINDS_IN_WINDOW p = 0 := by
  have shown (f : Fld) (hf : f.id < 4096) (other : f.id ∉ [Fld.ZYN_TRANSIT_STATE.id]) : (s.readyShown p).get f p =
      (s.puts p [(.GST_PART_STATE_RERUN, 0), (.GST_PART_STATE_REWINDS_IN_WINDOW, 0), (.PART_STATUS_STATE, 2), (.GST_PART_STATE_STATE, 0)]).get f p :=
    (State.refreshTransits_leaves _ _).get f hf other p
  rw [shown _ (by decide) (by decide), shown _ (by decide) (by decide), shown _ (by decide) (by decide)]
  simp (disch := decide) only [State.puts_cons, State.puts_nil, State.get_put_of_id, State.get_put_same]
  exact ⟨rfl, rfl, rfl⟩

/-! ### Partitions lost (R320, R327) -/

/-- Nothing is lost where every entry of the map is held in three equal copies. -/
theorem State.loseByRepair_whole {rs : List (List Word)} (map : s.repairMap = rs.map Tri.of) : s.loseByRepair = s := by
  have none (kind : Nat) : s.lostEntries kind = [] := by
    unfold State.lostEntries
    rw [map, List.filterMap_map, List.filterMap_eq_nil_iff]
    intro w _
    rw [Function.comp_apply, Tri.vote_of]
    rfl
  have round (l : List Nat) : l.foldl (fun s kind => (s.lostEntries kind).foldl (fun s loc => (s.holders (entryDies s kind loc)).foldl (fun s p => s.losePart p stVoteLost) s) s) s = s := by
    induction l with
    | nil => rfl
    | cons kind l ih =>
      rw [List.foldl_cons, none kind]
      exact ih
  exact round (List.range 10)

/-- The loss recorded and counted. -/
def State.lossNoted (s : State) (p code : Nat) : State := ((s.jobEvent p 7 code).leaveReset p).bump .PART_LOST_TOTAL 0 1

def State.lossShown (s : State) (p : Nat) : State :=
  ({ s with losses := s.msClock :: s.recentLosses }.put .PART_LOST_IN_WINDOW 0 (min 3 (s.msClock :: s.recentLosses).length)).put .PART_STATUS_STATE p 5

theorem State.losePart_eq (code : Nat) (present : s.get .PART_STATUS_STATE p ≠ 5 ∧ s.get .PART_STATUS_STATE p ≠ 0) :
    s.losePart p code = if ((s.lossNoted p code).msClock :: (s.lossNoted p code).recentLosses).length ≥ 3 then ((s.lossNoted p code).lossShown p).enterDoldrums 5
      else (s.lossNoted p code).lossShown p := by
  have there : ¬(s.get .PART_STATUS_STATE p = 5 ∨ s.get .PART_STATUS_STATE p = 0) := not_or.2 present
  unfold State.losePart
  exact if_neg there

theorem State.lossNoted_only (code : Nat) : s.RecordsOnly (s.lossNoted p code) := by
  have left (t : State) : t.RecordsOnly (t.leaveReset p) := by
    unfold State.leaveReset
    split
    · exact t.put_only ..
    · exact .rfl
  exact ((s.jobEvent_only p 7 code).trans (left _)).trans (State.put_only ..)

theorem State.lossShown_cmds : (s.lossShown p).cmds = s.cmds := rfl

theorem State.losePart_idle (idle : s.cmds = []) (code : Nat) : (s.losePart p code).cmds = [] := by
  have noted : ((s.lossNoted p code).lossShown p).cmds = [] := (State.lossShown_cmds _ p).trans ((s.lossNoted_only p code).holds.cmds.trans idle)
  by_cases present : s.get .PART_STATUS_STATE p ≠ 5 ∧ s.get .PART_STATUS_STATE p ≠ 0
  · rw [State.losePart_eq _ _ _ present]
    split
    · exact (State.enterDoldrums_enters _ 5).idle noted
    · exact noted
  · have gone : s.get .PART_STATUS_STATE p = 5 ∨ s.get .PART_STATUS_STATE p = 0 := by tauto
    unfold State.losePart
    rw [if_pos gone]
    exact idle

end

/-- What every round of a loop keeps of having no command in progress, the loop keeps. -/
theorem State.foldl_idle {α : Type} {f : State → α → State} (hf : ∀ (t : State) x, t.cmds = [] → (f t x).cmds = []) (l : List α) {s : State} (idle : s.cmds = []) :
    (l.foldl f s).cmds = [] := by
  induction l generalizing s with
  | nil => exact idle
  | cons x l ih => exact ih (hf s x idle)

theorem State.loseByRepair_idle {s : State} (idle : s.cmds = []) : s.loseByRepair.cmds = [] :=
  State.foldl_idle (fun _ _ h => State.foldl_idle (fun _ _ h => State.foldl_idle (fun t p h => t.losePart_idle p h stVoteLost) _ h) _ h) _ idle

/-- With no command in progress, the end of a reset leaves none. -/
theorem State.endReset_idle {s : State} (p : Nat) (idle : s.cmds = []) : (s.endReset p).cmds = [] := by
  have renewed : ((s.memoryReset p).partRenewed p).cmds = [] := (State.partRenewed_keeps _ p).1.trans ((s.memoryReset_holds p).cmds.trans idle)
  have sites : (((s.memoryReset p).partRenewed p).voteRepair.sitesReset p).cmds = [] := (State.sitesReset_holds _ p).cmds.trans ((State.voteRepair_cmds _).trans renewed)
  rw [s.endReset_eq]
  generalize (((s.memoryReset p).partRenewed p).voteRepair.sitesReset p) = t at sites ⊢
  have recorded : (t.jobEvent p 4 stOk).cmds = [] := (t.jobEvent_only p 4 stOk).holds.cmds.trans sites
  have told : (t.resetTold p).cmds = [] := (t.resetTold_keeps p).2.2.trans (by rw [State.endResetCmds_idle recorded, recorded])
  have lost := State.loseByRepair_idle ((State.readyShown_holds _ p).cmds.trans told)
  rw [State.exitDone_idle lost, lost]

end Sys2Proof.Machine
end

section
/-!
PROOFS. PART_RESET, its end and its time-out (R317, R320, R334): the statement O34.
-/
namespace Sys2Proof.Machine

/-! ### A reset begins with nothing to end -/

section
variable {s : State} {p : Nat}

theorem State.beginReset_shows (s : State) (p : Nat) : (s.beginReset p).get .PART_STATUS_STATE p = 3 ∧ (s.beginReset p).get .GST_PART_STATE_STATE p = 5 := by
  rw [State.beginReset_eq]
  exact State.resetShown_shows _ p

/-- Memory and what the reset began from, where no job runs and nothing is in progress. -/
theorem State.beginReset_rests (still : (s.part p).running = false) (undo : (s.part p).undo = []) (wrote : (s.part p).wrote = []) (carried : (s.part p).carried = [])
    (idle : s.cmds = []) (held : s.xniHeld = []) (engines : s.partEngines p = []) :
    ((s.beginReset p).part p).prior = s.get .PART_STATUS_STATE p ∧ (s.beginReset p).mem = s.mem := by
  have noted : (s.resetNoted p).part p = { s.part p with prior := s.get .PART_STATUS_STATE p, fwVersion := s.get .PART_FW_CURRENT 0 } := State.part_modPart_same ..
  have undone : (s.resetNoted p).Rests ((s.resetNoted p).undoGust p) := by
    refine State.undoGust_rests ?_ ?_ ?_ <;> rw [noted]
    exacts [undo, wrote, carried]
  have quiet : (((s.resetNoted p).undoGust p).part p).running = false := (undone.part p).2.trans (by rw [noted]; exact still)
  have left : ((s.resetNoted p).undoGust p).jobLeft p = (s.resetNoted p).undoGust p := if_neg (by simp [quiet])
  have again (t : State) : t.Rests (t.jobNoted p) := t.modPart_rests p fun _ => ⟨rfl, rfl⟩
  have before := undone.trans (again _)
  have dropped := before.trans (State.dropWaiting_rests (before.held.trans held) p)
  have none := dropped.cmds.trans idle
  have kept : (s.resetNoted p).Rests ((((s.resetNoted p).undoGust p).jobNoted p).workLeft p) := by
    rw [State.workLeft, State.endCmds_idle none]
    exact dropped
  generalize hu : (((s.resetNoted p).undoGust p).jobNoted p).workLeft p = u at kept
  have owned : u.partEngines p = [] := by
    have partition (e : Nat) : u.get .DMA_CH_CTL_PARTITION e = s.get .DMA_CH_CTL_PARTITION e := kept.get ..
    rw [← engines]
    simp only [State.partEngines, State.enginePart, partition]
  have cut : s.resetCut p = u.countMigrating := by
    rw [State.resetCut, left, hu, State.enginesCut, owned, List.foldl_nil]
  obtain ⟨parts, -, mem⟩ := u.countMigrating.resetShown_keeps p
  rw [State.beginReset_eq, cut, State.part, parts, mem]
  exact ⟨(kept.part p).1.trans (by rw [noted]), kept.mem⟩

/-! ### A reset ends -/

theorem State.endReset_whole {rs : List (List Word)} (map : s.repairMap = rs.map Tri.of) : s.endReset p = (((((s.memoryReset p).partRenewed p).sitesReset p).resetTold p).readyShown p).exitDone := by
  have start := (s.memoryReset_holds p).map.trans map
  have renewed : ((s.memoryReset p).partRenewed p).repairMap = rs.map Tri.of := (State.partRenewed_keeps _ p).2.trans start
  have sites := (State.sitesReset_holds ((s.memoryReset p).partRenewed p) p).map.trans renewed
  have told := (State.resetTold_keeps (((s.memoryReset p).partRenewed p).sitesReset p) p).2.1.trans sites
  have shown := (State.readyShown_holds ((((s.memoryReset p).partRenewed p).sitesReset p).resetTold p) p).map.trans told
  rw [State.endReset_eq, State.voteRepair_whole renewed, State.loseByRepair_whole _ shown]

theorem State.exitDone_parts (s : State) : s.exitDone.parts = s.parts := by
  unfold State.exitDone
  split
  · rfl
  · exact State.foldl_keeps State.parts (fun t c => (t.endCmd_holds ..).1) _ s

theorem State.exitDone_get {f : Fld} (hf : f.Unrecorded ∧ f.id ≠ Fld.HST_RING_STATUS_ERROR.id ∧ f.id ≠ Fld.HST_RING_STATUS_ERR_KIND.id) (s : State) (i : Nat) :
    s.exitDone.get f i = s.get f i := by
  unfold State.exitDone
  split
  · rfl
  · exact State.foldl_keeps (fun t : State => t.get f i) (fun t c => State.endCmd_get hf i t ..) _ s

theorem State.endReset_ready {rs : List (List Word)} (map : s.repairMap = rs.map Tri.of) : let t := s.endReset p
    t.get .PART_STATUS_STATE p = 2 ∧ t.get .GST_PART_STATE_STATE p = 0 ∧ t.get .GST_PART_STATE_REWINDS_IN_WINDOW p = 0 ∧ (t.part p).map = (s.part p).map ∧
      (t.part p).loaded = none ∧ (t.part p).armed = none ∧ (t.part p).running = false ∧ ((∀ c ∈ s.cmds, c.kind = .partReset p) → t.cmds = []) := by
  have held := s.memoryReset_holds p
  have sites := State.sitesReset_holds ((s.memoryReset p).partRenewed p) p
  obtain ⟨toldParts, -, toldCmds⟩ := State.resetTold_keeps (((s.memoryReset p).partRenewed p).sitesReset p) p
  have shown := State.readyShown_holds ((((s.memoryReset p).partRenewed p).sitesReset p).resetTold p) p
  have ready := State.readyShown_shows ((((s.memoryReset p).partRenewed p).sitesReset p).resetTold p) p
  have recorded := (State.jobEvent_only (((s.memoryReset p).partRenewed p).sitesReset p) p 4 stOk).holds
  have cmds : (((s.memoryReset p).partRenewed p).sitesReset p).cmds = s.cmds := sites.cmds.trans ((State.partRenewed_keeps _ p).1.trans held.cmds)
  rw [State.endReset_whole map]
  obtain ⟨entry, loaded, armed, still⟩ := (s.memoryReset p).partRenewed_part p
  rw [held.part p] at entry
  rw [← (sites.part p)] at entry loaded armed still
  generalize ((s.memoryReset p).partRenewed p).sitesReset p = t at *
  have part : ((t.resetTold p).readyShown p).exitDone.part p = t.part p := by
    rw [State.part, State.exitDone_parts, shown.parts, toldParts, ← State.part]
  dsimp only
  rw [part]
  obtain ⟨state, job, rewinds⟩ := ready
  refine ⟨?_, ?_, ?_, entry, loaded, armed, still, fun all => ?_⟩
  · exact (State.exitDone_get ⟨⟨by decide, by decide +kernel⟩, by decide, by decide⟩ _ p).trans state
  · exact (State.exitDone_get ⟨⟨by decide, by decide +kernel⟩, by decide, by decide⟩ _ p).trans job
  · exact (State.exitDone_get ⟨⟨by decide, by decide +kernel⟩, by decide, by decide⟩ _ p).trans rewinds
  · have none : ((t.resetTold p).readyShown p).cmds = [] := by
      rw [shown.cmds, toldCmds]
      exact State.endResetCmds_none (by rw [recorded.cmds, cmds]; exact all) stOk
    rw [State.exitDone_idle none, none]

/-! ### A reset that does not end -/

theorem State.endCmd_recentLosses (s : State) (c : Cmd) (status gust r0 r1 : Nat) : (s.endCmd c status gust r0 r1).recentLosses = s.recentLosses := by
  have only := State.complete_only { s with cmds := s.cmds.erase c } c.q c.discard status gust r0 r1
  have losses : (s.endCmd c status gust r0 r1).losses = s.losses := by rw [State.endCmd, only]
  have clock : (s.endCmd c status gust r0 r1).msClock = s.msClock := by rw [State.endCmd, only]
  rw [State.recentLosses, losses, clock, ← State.recentLosses]

theorem State.endResetCmds_recentLosses (s : State) (p st : Nat) : (s.endResetCmds p st).recentLosses = s.recentLosses := by
  rw [State.endResetCmds_eq]
  refine State.foldl_keeps State.recentLosses (fun t c => ?_) _ s
  unfold State.endResetCmd
  split
  · split
    · exact t.endCmd_recentLosses ..
    · rfl
  · split
    · exact t.endCmd_recentLosses ..
    · rfl
  · rfl

theorem partResetDone_eq (resetting : s.get .PART_STATUS_STATE p = 3) : partResetDone p s = s.endReset p := if_pos resetting

theorem partResetDone_other (other : s.get .PART_STATUS_STATE p ≠ 3) : partResetDone p s = s := if_neg other

theorem partResetTimeout_other (other : s.get .PART_STATUS_STATE p ≠ 3) : partResetTimeout p s = s := if_pos other

theorem partResetTimeout_eq (resetting : s.get .PART_STATUS_STATE p = 3) :
    partResetTimeout p s = (((s.endResetCmds p stTargetResetting).losePart p stTargetResetting).refreshTransits (s.partDies p)).exitDone := by
  unfold partResetTimeout
  rw [if_neg (not_not.2 resetting)]

theorem partResetTimeout_loses (resetting : s.get .PART_STATUS_STATE p = 3) : let t := partResetTimeout p s
    (s.recentLosses.length < 2 → t.get .PART_STATUS_STATE p = 5) ∧ (2 ≤ s.recentLosses.length → t.inDoldrums = true) ∧
      ((∀ c ∈ s.cmds, c.kind = .partReset p) → t.cmds = []) := by
  obtain ⟨-, -, ended⟩ := s.endResetCmds_keeps p stTargetResetting
  have state := ended.leaves.get .PART_STATUS_STATE (by decide) (by decide +kernel) p
  have none (all : ∀ c ∈ s.cmds, c.kind = .partReset p) := State.endResetCmds_none all stTargetResetting
  have same : (s.endResetCmds p stTargetResetting).recentLosses = s.recentLosses := State.endResetCmds_recentLosses ..
  dsimp only
  rw [partResetTimeout_eq resetting]
  generalize s.endResetCmds p stTargetResetting = u at *
  have present : u.get .PART_STATUS_STATE p ≠ 5 ∧ u.get .PART_STATUS_STATE p ≠ 0 := by
    rw [state, resetting]
    decide
  have lost := State.losePart_eq u p stTargetResetting present
  have counted : (u.lossNoted p stTargetResetting).recentLosses = u.recentLosses := by
    have only := u.lossNoted_only p stTargetResetting
    have losses : (u.lossNoted p stTargetResetting).losses = u.losses := by rw [only]
    have clock : (u.lossNoted p stTargetResetting).msClock = u.msClock := by rw [only]
    rw [State.recentLosses, losses, clock, ← State.recentLosses]
  rw [counted, same, List.length_cons] at lost
  have late (t : State) := (t.refreshTransits_leaves (s.partDies p)).trans (State.exitDone_works _).leaves
  refine ⟨fun few => ?_, fun many => ?_, fun all => ?_⟩
  · rw [if_neg (by omega)] at lost
    rw [lost, (late _).get _ (by decide) (by decide +kernel) p, State.lossShown, State.get_put_same]
    rfl
  · rw [if_pos (by omega)] at lost
    rw [lost]
    exact (congrArg (· == 1) ((late _).get .PART_DOLDRUMS_ACTIVE (by decide) (by decide +kernel) 0)).trans (State.enterDoldrums_mode _ 5)
  · have idle := u.losePart_idle p (none all) stTargetResetting
    have left : ((u.losePart p stTargetResetting).refreshTransits (s.partDies p)).cmds = [] := (State.refreshTransits_only _ _).holds.cmds.trans idle
    rw [State.exitDone_idle left, left]

end

end Sys2Proof.Machine

namespace Sys2Proof.Proofs
open Sys2Proof Sys2Proof.Machine

/-- Settles O34: what a reset ends leaves its partition's state to be shown, and its end and its time-out each show theirs last. -/
theorem partitionIsReset : Obligations.PartitionIsReset := by
  refine ⟨fun q s => ?_, fun p s hc => ?_⟩
  · intro p h small
    refine ⟨fun resetting => ?_, fun other => ?_⟩
    · exact (hostRow_accepted h (chk := noCheck) rfl _).trans (congrArg _ (congrArg (State.startCmd · q 0x31 (.partReset p)) (if_pos resetting)))
    · have runs : exec (.partReset q) s = .next ((s.beginReset p).startCmd q 0x31 (.partReset p)) :=
        (hostRow_accepted h (chk := noCheck) rfl _).trans (congrArg _ (congrArg (State.startCmd · q 0x31 (.partReset p)) (if_neg other)))
      obtain ⟨state, job⟩ := s.beginReset_shows p
      have kept (f : Fld) (hf : f.id < 4096) (apart : f.id ∉ resetIds ++ [Fld.PART_STATUS_STATE.id, Fld.GST_PART_STATE_STATE.id, Fld.ZYN_TRANSIT_STATE.id]) :=
        (s.beginReset_leaves p).get f hf apart p
      refine ⟨_, runs, ?_, ?_, ⟨s.beginReset p, rfl⟩, fun still undo wrote carried idle held engines => ?_⟩
      · rw [State.startCmd_get, state]
      · rw [State.startCmd_get, job]
      · obtain ⟨prior, mem⟩ := State.beginReset_rests still undo wrote carried idle held engines
        refine ⟨?_, ?_, prior, mem⟩
        · rw [State.startCmd_get, kept _ (by decide) (by decide +kernel)]
        · rw [State.startCmd_get, kept _ (by decide) (by decide +kernel)]
  · have ends : exec (.partResetDone p) s = .next (partResetDone p.val s) := congrArg _ (State.whenClocked_on _ hc)
    have fails : exec (.partResetTimeout p) s = .next (partResetTimeout p.val s) := congrArg _ (State.whenClocked_on _ hc)
    refine ⟨fun other => ⟨ends.trans (congrArg _ (partResetDone_other other)), fails.trans (congrArg _ (partResetTimeout_other other))⟩,
      fun resetting => ⟨fun rs map => ?_, _, fails, partResetTimeout_loses resetting⟩⟩
    exact ⟨_, ends.trans (congrArg _ (partResetDone_eq resetting)), State.endReset_ready map⟩

end Sys2Proof.Proofs
end

section
/-!
PROOFS. The freeze (R410, R411) and the loss of the rails (R352): what each shows.
-/
namespace Sys2Proof.Machine

section
variable (s : State) (source : Nat)

/-- The freeze shown, with its source and the gust at which it came. -/
def State.frozenShown (s : State) (source gust : Nat) : State :=
  (s.puts 0 [(.FRZ_STATUS_FROZEN, 1), (.FRZ_STATUS_SOURCE, source), (.FRZ_STATUS_GUST, gust), (.GST_SYNC_STATUS_LOCKED, 0)]).bump .FRZ_STATUS_COUNT 0 1

def State.frozeNoted (s : State) : State := { s with tapState := { s.tapState with froze := true } }

theorem State.freeze_eq : s.freeze source = (s.memoriesRest.hostDown.frozenShown source s.memoriesRest.gust).frozeNoted := rfl

theorem State.frozenShown_shows (gust : Nat) (small : source < 4) : (s.frozenShown source gust).on .FRZ_STATUS_FROZEN 0 = true ∧
    (s.frozenShown source gust).get .FRZ_STATUS_SOURCE 0 = source ∧ (s.frozenShown source gust).get .FRZ_STATUS_GUST 0 = gust % 2 ^ 48 ∧
    (s.frozenShown source gust).on .GST_SYNC_STATUS_LOCKED 0 = false := by
  unfold State.frozenShown State.bump State.on
  simp (disch := decide) only [State.puts_cons, State.puts_nil, State.get_put_of_id, State.get_put_same]
  exact ⟨rfl, Nat.mod_eq_of_lt small, rfl, rfl⟩

theorem State.frozenShown_mem (gust : Nat) : (s.frozenShown source gust).mem = s.mem := rfl

theorem State.frozeNoted_keeps : s.frozeNoted.flds = s.flds ∧ s.frozeNoted.mem = s.mem := ⟨rfl, rfl⟩

/-- A frozen module shows where it froze, its clocks stopped, and memory is as it was. -/
theorem State.freeze_shows (small : source < 4) : (s.freeze source).on .FRZ_STATUS_FROZEN 0 = true ∧ (s.freeze source).get .FRZ_STATUS_SOURCE 0 = source ∧
    (s.freeze source).get .FRZ_STATUS_GUST 0 = s.gust % 2 ^ 48 ∧ (s.freeze source).on .GST_SYNC_STATUS_LOCKED 0 = false ∧ (s.freeze source).clocked = false ∧
    (s.freeze source).mem = s.mem := by
  have rest := s.memoriesRest_refreshes
  have gust : s.memoriesRest.gust = s.gust := rest.leaves.get .GST_NUMBER_NUMBER (by decide) (by decide) 0
  obtain ⟨-, -, -, -, restMem⟩ := rest.keeps
  obtain ⟨frozen, shown, at_, unlocked⟩ := s.memoriesRest.hostDown.frozenShown_shows source s.memoriesRest.gust small
  have mem := s.memoriesRest.hostDown.frozenShown_mem source s.memoriesRest.gust
  rw [State.freeze_eq]
  generalize hu : s.memoriesRest.hostDown.frozenShown source s.memoriesRest.gust = u at *
  obtain ⟨flds, noted⟩ := u.frozeNoted_keeps
  have get (f : Fld) : u.frozeNoted.get f 0 = u.get f 0 := by rw [State.get, flds, ← State.get]
  have on (f : Fld) : u.frozeNoted.on f 0 = u.on f 0 := congrArg (· == 1) (get f)
  refine ⟨(on _).trans frozen, (get _).trans shown, (get _).trans (by rw [at_, gust]), (on _).trans unlocked, ?_, ?_⟩
  · rw [State.clocked, on, frozen]
    simp
  · rw [noted, mem, State.hostDown_mem, restMem]

/-! ### The rails lost (R352) -/

/-- The registers that show a loss of the rails. -/
def State.railsShown (s : State) : State :=
  { s with vfEnable := false }.puts 0 [(.HST_LINK_STATUS_UP, 0), (.HST_LINK_STATUS_WIDTH, 0), (.HST_LINK_STATUS_SPEED, 0), (.HST_LINK_STATUS_FLIT, 0), (.HST_LINK_STATUS_L0P, 0),
    (.HST_CP_STATUS_READY, 0), (.FRZ_STATUS_FROZEN, 0), (.FRZ_DUMP_ACTIVE, 0)]

def State.railsOff (s : State) (why : Nat) : State := { s with always := { s.always with shut := why }, tapState := { s.tapState with extest := false } }

theorem State.cutPower_eq (why : Nat) : s.cutPower why = s.railsShown.portsDown.railsOff why := rfl

/-- The restart from cold that follows a warm reset with retention lost. -/
def State.coldDue (s : State) : State :=
  { s.put .BOOT_STATUS_RETENTION_BAD 0 1 with always := { (s.put .BOOT_STATUS_RETENTION_BAD 0 1).always with source := (s.put .BOOT_STATUS_RETENTION_BAD 0 1).get .PWR_WAKE_SOURCE 0 } }

theorem State.warm_cold (start : Nat) : s.warm start false = (s.cutPower 3).coldDue := rfl

theorem State.railsShown_unfrozen : s.railsShown.on .FRZ_STATUS_FROZEN 0 = false := by
  unfold State.railsShown State.on
  simp (disch := decide) only [State.puts_cons, State.puts_nil, State.get_put_of_id, State.get_put_same]
  rfl

theorem State.cutPower_shows (why : Nat) : (s.cutPower why).on .FRZ_STATUS_FROZEN 0 = false ∧ (s.cutPower why).always.shut = why := by
  have off (t : State) : (t.railsOff why).get .FRZ_STATUS_FROZEN 0 = t.get .FRZ_STATUS_FROZEN 0 ∧ (t.railsOff why).always.shut = why := ⟨rfl, rfl⟩
  have ports := s.railsShown.portsDown_leaves.get .FRZ_STATUS_FROZEN (by decide) (by decide) 0
  rw [State.cutPower_eq]
  exact ⟨(congrArg (· == 1) ((off _).1.trans ports)).trans s.railsShown_unfrozen, (off _).2⟩

theorem State.cutPower_mctpOut (why : Nat) : (s.cutPower why).mctpOut = s.mctpOut := by
  have off (t : State) : (t.railsOff why).mctpOut = t.mctpOut := rfl
  have shown : s.railsShown.mctpOut = s.mctpOut := by rw [State.railsShown, State.puts_eq]
  rw [State.cutPower_eq, off, State.portsDown_only, shown]

theorem State.coldDue_shows : s.coldDue.on .BOOT_STATUS_RETENTION_BAD 0 = true ∧ s.coldDue.get .FRZ_STATUS_FROZEN 0 = s.get .FRZ_STATUS_FROZEN 0 ∧
    s.coldDue.always.shut = s.always.shut ∧ s.coldDue.mctpOut = s.mctpOut := by
  have marked : s.coldDue.get .BOOT_STATUS_RETENTION_BAD 0 = 1 := State.get_put_same s .BOOT_STATUS_RETENTION_BAD 0 1
  have kept : (s.put .BOOT_STATUS_RETENTION_BAD 0 1).get .FRZ_STATUS_FROZEN 0 = s.get .FRZ_STATUS_FROZEN 0 := State.get_put_of_id s 0 0 1 (by decide) (by decide) (by decide)
  exact ⟨beq_iff_eq.2 marked, kept, rfl, rfl⟩

/-- A warm reset with retention lost: a cold power-on is due. -/
theorem State.warm_cold_shows (start : Nat) : (s.warm start false).always.shut = 3 ∧ (s.warm start false).on .BOOT_STATUS_RETENTION_BAD 0 = true ∧
    (s.warm start false).on .FRZ_STATUS_FROZEN 0 = false ∧ (s.warm start false).clocked = false ∧ (s.warm start false).mctpOut = s.mctpOut := by
  obtain ⟨unfrozen, shut⟩ := s.cutPower_shows 3
  obtain ⟨marked, frozen, always, out⟩ := (s.cutPower 3).coldDue_shows
  rw [State.warm_cold]
  refine ⟨always.trans shut, marked, (congrArg (· == 1) frozen).trans unfrozen, ?_, out.trans (s.cutPower_mctpOut 3)⟩
  rw [State.clocked, always, shut]
  rfl

end

end Sys2Proof.Machine
end

section
/-!
PROOFS. The warm-reset path (R390): what it ends, what it shows, and that an authentic image reaches READY.
-/
namespace Sys2Proof.Machine

/-! ### What it keeps in progress: nothing -/

section
variable {s : State}

theorem partDestroyDone_idle (p : Nat) (idle : s.cmds = []) : (partDestroyDone p s).cmds = [] := by
  by_cases going : s.get .PART_STATUS_STATE p = 4
  · have cmds : (s.destroyed p).cmds = [] := (s.destroyed_shows p).1.trans idle
    rw [partDestroyDone_eq going, cmds]
    exact cmds
  · have same : partDestroyDone p s = s := if_pos going
    rw [same, idle]

theorem State.warmPart_idle (p : Nat) (idle : s.cmds = []) : (s.warmPart p).cmds = [] := by
  have begun : (if s.get .PART_STATUS_STATE p = 3 then s else s.beginReset p).cmds = [] := by
    split
    · exact idle
    · exact s.beginReset_idle p idle
  have ended := State.endReset_idle p begun
  have shown (t : State) (v : Nat) : (t.put .PART_STATUS_STATE p v).cmds = t.cmds := rfl
  unfold State.warmPart
  dsimp only
  split
  · exact idle
  · split
    · rw [(s.unmakePart_only p).eq]
      exact idle
    · split
      · exact partDestroyDone_idle p idle
      · split
        · rw [shown, ended]
        · exact ended

end

/-! ### The steps of the path -/

section
variable (s : State)

/-- The host's link and the NAND operations cut, the counters saved. -/
def State.linksCut (s : State) : State := s.linkReset.hostDown.nandCut.savePeat

def State.workDropped (s : State) : State := { s with cmds := [], flash := s.flashLeft }

/-- The sites and memories of the module cleared. -/
def State.sitesCleared (s : State) : State := (List.range 816).foldl State.resetCore s.zeroSram

/-- The registers that a warm reset returns whole, and all that are read to clear. -/
def State.regsCleared (s : State) : State := (s.resetFields rcIds).resetFields (warmRegs.flatMap fun r => r.fields.map Fld.id)

/-- What the units hold beside registers cleared. -/
def State.unitsCleared (s : State) : State :=
  { s with
    engines := [], eff := [], groups := [], badGroups := [], atomHeld := [], xniHeld := [], xniWait := [], xniIn := [], stage := [], commitSites := [], sync := ⟨0, 0, false, 0, none⟩,
    mgmt := Mgmt.fresh, tapState := { s.tapState with extest := false } }

/-- The engines with their partitions. -/
def State.enginesShown (s : State) : State := (List.range 12).foldl (fun s p => (setBits 32 (s.get .PART_DMA_MASK p)).foldl (fun s e => s.put .DMA_CH_CTL_PARTITION e p) s) s

/-- The module shown running. -/
def State.runShown (s : State) : State :=
  s.puts 0 [(.BOOT_STATUS_WARM_REFUSED, 0), (.BOOT_STATUS_RETENTION_BAD, 0), (.PWR_STATE_STATE, 0), (.PWR_STATE_TARGET, 0), (.PWR_STATE_BUSY, 0), (.FRZ_STATUS_FROZEN, 0),
    (.FRZ_DUMP_ACTIVE, 0)]

def State.linksTrained (s : State) : State := s.memoriesBack.linksBack.refreshTransits (List.range 12)

def State.portsCleared (s : State) : State := (List.range 16).foldl (fun s k => (s.setXport k XPort.down).put .XNI_PORT_STATUS_STATE k 0) s

/-- The module before it is READY, or held for want of an image. -/
def State.rerun (s : State) (ok : Bool) : State := ((List.range 12).foldl State.warmPart (if ok then s.startImage else s)).sitesCleared.regsCleared.unitsCleared.enginesShown.runShown.linksTrained

/-- READY or held, with every port disabled. -/
def State.restarted (s : State) (ok : Bool) : State := (if ok then (s.rerun ok).ready 1 else (s.rerun ok).bootStop 3 1).portsCleared

theorem State.warmPath_eq : s.warmPath 1 = s.linksCut.workDropped.restarted (s.linksCut.workDropped.imageOk s.linksCut.workDropped.flash.image) := by
  unfold State.warmPath
  extract_lets links work ok parts sites regs tap units engines shown trained ended ports
  have cut : links = s.linksCut := rfl
  clear_value links
  have dropped : work = links.workDropped := rfl
  clear_value work
  have tested : ok = work.imageOk work.flash.image := rfl
  clear_value ok
  have reset : parts = (List.range 12).foldl State.warmPart (if ok then work.startImage else work) := rfl
  clear_value parts
  have sitesEq : sites = parts.sitesCleared := rfl
  clear_value sites
  have regsEq : regs = sites.regsCleared := rfl
  clear_value regs
  have unitsEq : units = regs.unitsCleared := rfl
  clear_value tap units
  have enginesEq : engines = units.enginesShown := rfl
  clear_value engines
  have shownEq : shown = engines.runShown := rfl
  clear_value shown
  have trainedEq : trained = shown.linksTrained := rfl
  clear_value trained
  have endedEq : ended = if ok then trained.ready 1 else trained.bootStop 3 1 := rfl
  clear_value ended
  have portsEq : ports = ended.portsCleared := rfl
  clear_value ports
  rw [if_neg (by decide), State.restarted, State.rerun, portsEq, endedEq, trainedEq, shownEq, enginesEq, unitsEq, regsEq, sitesEq, reset, tested, dropped, cut]

/-- `t` has the commands and engines of `s`, and its registers but for those numbered. -/
structure State.Carries (ids : List Nat) (s t : State) : Prop where
  leaves : s.Leaves ids t
  cmds : t.cmds = s.cmds
  engines : t.engines = s.engines

section
variable {ids : List Nat} {s t u : State}

theorem State.Carries.rfl : s.Carries ids s := ⟨.rfl, Eq.refl _, Eq.refl _⟩

theorem State.Carries.seq (h1 : s.Carries ids t) (h2 : t.Carries ids u) : s.Carries ids u := ⟨h1.leaves.seq h2.leaves, h2.cmds.trans h1.cmds, h2.engines.trans h1.engines⟩

theorem State.Carries.foldl {α : Type} {f : State → α → State} (hf : ∀ (t : State) x, t.Carries ids (f t x)) (l : List α) (s : State) : s.Carries ids (l.foldl f s) := by
  induction l generalizing s with
  | nil => exact .rfl
  | cons x l ih => exact (hf s x).seq (ih _)

theorem State.Carries.ite {c : Prop} [Decidable c] (ht : s.Carries ids t) (hu : s.Carries ids u) : s.Carries ids (if c then t else u) := by
  split
  exacts [ht, hu]

theorem State.onlyFields.carries {ks : List Nat} (h : s.onlyFields t ks) (leaves : s.Leaves ids t) : s.Carries ids t := ⟨leaves, h.cmds, by rw [h.1]⟩

end

/-- Numbers of the fields that the training of the memories and links writes. -/
def trainIds : List Nat :=
  [Fld.FEN_BANK_CTL_DEBT, .XNI_PORT_STATUS_STATE, .GST_SYNC_STATUS_LOCKED, .ZYN_LINK_STATUS_STATE, .ZYN_LINK_STATUS_GROUP, .ZYN_TRANSIT_STATE].map Fld.id

theorem State.put_carries {f : Fld} (hf : f.id < 4096 ∧ f.id ∈ trainIds) (i v : Nat) : s.Carries trainIds (s.put f i v) := ⟨s.put_leaves hf i v, rfl, rfl⟩

theorem State.setLink_carries (l : Nat) (k : Link) : s.Carries trainIds (s.setLink l k) := ⟨.same rfl, rfl, rfl⟩

theorem State.refreshTransits_carries (ds : List Nat) : s.Carries trainIds (s.refreshTransits ds) :=
  (s.refreshTransits_only ds).carries ((s.refreshTransits_leaves ds).mono (by decide))

theorem State.startTraining_carries (u : Nat) : s.Carries trainIds (s.startTraining u) := by
  have asleep (t : State) (m : Nat) : t.Carries trainIds { t.repayMarsh m with selfRefresh := SMap.set (t.repayMarsh m).selfRefresh (816 + m) true false } := ⟨.same rfl, rfl, rfl⟩
  have clock (t : State) : t.Carries trainIds (t.puts u [(.ZYN_LINK_STATUS_STATE, 1), (.ZYN_LINK_STATUS_GROUP, 63)]) :=
    (State.onlyFields_puts ..).carries (t.puts_leaves (by simp only [List.forall_mem_cons]; decide) u)
  unfold State.startTraining
  dsimp only
  split
  · split
    · exact s.setLink_carries ..
    · exact ((s.setLink_carries u _).seq (clock _)).seq (State.refreshTransits_carries ..)
  · exact ((asleep s (u - 24)).seq (State.setLink_carries ..)).seq (State.refreshTransits_carries ..)

theorem State.retrainMoved_carries : s.Carries trainIds s.retrainMoved := .foldl (fun t l => .ite (t.startTraining_carries l) .rfl) _ s

/-- A link's lanes at rest before it trains again. -/
def State.linkRested (s : State) (l : Nat) : State := s.setLink l { s.link l with d0 := LinkDir.fresh, d1 := LinkDir.fresh, groups := [], fullDue := false, chLeft := 0 }

theorem State.linksBack_carries : s.Carries trainIds s.linksBack := by
  have rested (t : State) (l : Nat) : t.Carries trainIds (t.linkRested l) := t.setLink_carries ..
  unfold State.linksBack
  refine .seq (.foldl (fun t l => ?_) _ s) (State.retrainMoved_carries _)
  dsimp only
  split
  · exact ((rested t l).seq (State.put_carries _ (by decide) l 63)).seq (.ite (State.startTraining_carries _ l) .rfl)
  · exact (rested t l).seq (.ite (State.startTraining_carries _ l) .rfl)

theorem State.memoriesBack_carries : s.Carries trainIds s.memoriesBack := by
  have back (t : State) (m : SMap Bool) : t.Carries trainIds { t with selfRefresh := m } := ⟨.same rfl, rfl, rfl⟩
  obtain ⟨cmds, engines, -, -⟩ := s.sleepUnits_keeps
  have slept : s.Carries trainIds s.sleepUnits := ⟨s.sleepUnits_leaves.mono (by decide), cmds, engines⟩
  exact slept.seq (back s.sleepUnits _)

theorem State.linksTrained_carries : s.Carries trainIds s.linksTrained := (s.memoriesBack_carries.seq (State.linksBack_carries _)).seq (State.refreshTransits_carries _ _)

theorem State.portsCleared_carries : s.Carries [Fld.XNI_PORT_STATUS_STATE.id] s.portsCleared := by
  refine .foldl (fun t k => ?_) _ s
  have down : t.Carries [Fld.XNI_PORT_STATUS_STATE.id] (t.setXport k XPort.down) := ⟨.same rfl, rfl, rfl⟩
  exact down.seq ⟨State.put_leaves _ (f := .XNI_PORT_STATUS_STATE) (by decide) k 0, rfl, rfl⟩

theorem State.runShown_shows : s.runShown.get .PWR_STATE_STATE 0 = 0 ∧ s.runShown.on .FRZ_STATUS_FROZEN 0 = false := by
  unfold State.runShown State.on
  simp (disch := decide) only [State.puts_cons, State.puts_nil, State.get_put_of_id, State.get_put_same]
  exact ⟨rfl, rfl⟩

theorem State.runShown_keeps : s.runShown.cmds = s.cmds ∧ s.runShown.engines = s.engines := by
  rw [State.runShown, State.puts_eq]
  exact ⟨rfl, rfl⟩

theorem State.enginesShown_keeps : s.enginesShown.cmds = s.cmds ∧ s.enginesShown.engines = s.engines := by
  have named (p : Nat) (l : List Nat) (t : State) : (l.foldl (fun s e => s.put .DMA_CH_CTL_PARTITION e p) t).cmds = t.cmds ∧
      (l.foldl (fun s e => s.put .DMA_CH_CTL_PARTITION e p) t).engines = t.engines :=
    ⟨State.foldl_keeps State.cmds (f := fun s e => s.put .DMA_CH_CTL_PARTITION e p) (fun _ _ => rfl) l t,
      State.foldl_keeps State.engines (f := fun s e => s.put .DMA_CH_CTL_PARTITION e p) (fun _ _ => rfl) l t⟩
  exact ⟨State.foldl_keeps State.cmds (fun t p => (named p _ t).1) _ s, State.foldl_keeps State.engines (fun t p => (named p _ t).2) _ s⟩

theorem State.unitsCleared_keeps : s.unitsCleared.cmds = s.cmds ∧ s.unitsCleared.engines = [] := ⟨rfl, rfl⟩

theorem State.regsCleared_cmds : s.regsCleared.cmds = s.cmds := rfl

theorem State.zeroSram_cmds : s.zeroSram.cmds = s.cmds := by
  have all (t : State) : ((List.range 816).foldl (fun s c => s.zeroStore (.pool c) 0 0x400000) t).cmds = t.cmds := State.foldl_keeps State.cmds (fun u c => (u.zeroStore_keeps ..).2) _ t
  exact (all _).trans (s.zeroStore_keeps ..).2

theorem State.sitesCleared_cmds : s.sitesCleared.cmds = s.cmds := (State.foldl_keeps State.cmds (fun u c => (u.resetCore_keeps c).1) _ _).trans s.zeroSram_cmds

variable (ok : Bool)

/-- The module runs again in Run, not frozen, with nothing in progress. -/
theorem State.rerun_shows : (s.rerun ok).get .PWR_STATE_STATE 0 = 0 ∧ (s.rerun ok).on .FRZ_STATUS_FROZEN 0 = false ∧ (s.rerun ok).engines = [] ∧
    (s.cmds = [] → (s.rerun ok).cmds = []) := by
  unfold State.rerun
  have started : (if ok then s.startImage else s).cmds = s.cmds := by
    split
    · exact s.startImage_rest.1
    · rfl
  have parts (idle : s.cmds = []) := State.foldl_idle (fun t p h => State.warmPart_idle (s := t) p h) (List.range 12) (started.trans idle)
  generalize (List.range 12).foldl State.warmPart (if ok then s.startImage else s) = t at parts
  have before : t.sitesCleared.regsCleared.cmds = t.cmds := (State.regsCleared_cmds _).trans t.sitesCleared_cmds
  generalize t.sitesCleared.regsCleared = u at before
  obtain ⟨unitCmds, none⟩ := u.unitsCleared_keeps
  obtain ⟨namedCmds, named⟩ := u.unitsCleared.enginesShown_keeps
  obtain ⟨shownCmds, shown⟩ := u.unitsCleared.enginesShown.runShown_keeps
  obtain ⟨state, unfrozen⟩ := u.unitsCleared.enginesShown.runShown_shows
  have trained := u.unitsCleared.enginesShown.runShown.linksTrained_carries
  exact ⟨(trained.leaves.get _ (by decide) (by decide) 0).trans state, (congrArg (· == 1) (trained.leaves.get _ (by decide) (by decide) 0)).trans unfrozen,
    trained.engines.trans (shown.trans (named.trans none)), fun idle => trained.cmds.trans (shownCmds.trans (namedCmds.trans (unitCmds.trans (before.trans (parts idle)))))⟩

theorem State.ready_start (start : Nat) (small : start < 4) : (s.ready start).get .BOOT_STATUS_START 0 = start ∧ (s.ready start).cmds = s.cmds ∧ (s.ready start).engines = s.engines := by
  unfold State.ready
  dsimp only
  refine ⟨?_, by rw [State.puts_eq]; rfl, by rw [State.puts_eq]; rfl⟩
  simp (disch := decide) only [State.puts_cons, State.puts_nil, State.get_put_of_id, State.get_put_same]
  exact Nat.mod_eq_of_lt small

/-- Bring-up stopped for want of an image. -/
theorem State.bootStop_leaves (step start : Nat) : s.Leaves ([Fld.BOOT_STATUS_STEP.id, Fld.BOOT_STATUS_START.id, Fld.HST_CP_STATUS_READY.id] ++ enterIds) (s.bootStop step start) ∧
    (s.cmds = [] → (s.bootStop step start).cmds = []) := by
  have stopped : s.Leaves [Fld.BOOT_STATUS_STEP.id, Fld.BOOT_STATUS_START.id, Fld.HST_CP_STATUS_READY.id]
      (s.puts 0 [(.BOOT_STATUS_STEP, step), (.BOOT_STATUS_START, start), (.HST_CP_STATUS_READY, 0)]) := s.puts_leaves (by simp only [List.forall_mem_cons]; decide) 0
  have cmds : (s.puts 0 [(.BOOT_STATUS_STEP, step), (.BOOT_STATUS_START, start), (.HST_CP_STATUS_READY, 0)]).cmds = s.cmds := by rw [State.puts_eq]
  have entered := State.enterDoldrums_enters (s.puts 0 [(.BOOT_STATUS_STEP, step), (.BOOT_STATUS_START, start), (.HST_CP_STATUS_READY, 0)]) 2
  exact ⟨stopped.trans entered.leaves, fun idle => entered.idle (cmds.trans idle)⟩

/-- However the path ends. -/
theorem State.restarted_shows (idle : s.cmds = []) : (s.restarted ok).get .PWR_STATE_STATE 0 = 0 ∧ (s.restarted ok).on .FRZ_STATUS_FROZEN 0 = false ∧ (s.restarted ok).cmds = [] := by
  obtain ⟨state, unfrozen, -, none⟩ := s.rerun_shows ok
  unfold State.restarted
  generalize s.rerun ok = t at *
  have ended : (if ok then t.ready 1 else t.bootStop 3 1).get .PWR_STATE_STATE 0 = 0 ∧ (if ok then t.ready 1 else t.bootStop 3 1).on .FRZ_STATUS_FROZEN 0 = false ∧
      (if ok then t.ready 1 else t.bootStop 3 1).cmds = [] := by
    split
    · exact ⟨(t.ready_get (by decide) (by decide) 1 0).trans state, (congrArg (· == 1) (t.ready_get (by decide) (by decide) 1 0)).trans unfrozen,
        (t.ready_start 1 (by decide)).2.1.trans (none idle)⟩
    · obtain ⟨kept, still⟩ := t.bootStop_leaves 3 1
      exact ⟨(kept.get _ (by decide) (by decide +kernel) 0).trans state, (congrArg (· == 1) (kept.get _ (by decide) (by decide +kernel) 0)).trans unfrozen, still (none idle)⟩
  obtain ⟨run, thawed, still⟩ := ended
  have ports := State.portsCleared_carries (if ok then t.ready 1 else t.bootStop 3 1)
  exact ⟨(ports.leaves.get _ (by decide) (by decide) 0).trans run, (congrArg (· == 1) (ports.leaves.get _ (by decide) (by decide) 0)).trans thawed, ports.cmds.trans still⟩

/-- With an authentic image the module is READY again. -/
theorem State.restarted_ready : (s.restarted true).engines = [] ∧ (s.restarted true).on .HST_CP_STATUS_READY 0 = true ∧ (s.restarted true).get .BOOT_STATUS_START 0 = 1 := by
  obtain ⟨-, -, engines, -⟩ := s.rerun_shows true
  unfold State.restarted
  rw [if_pos rfl]
  generalize s.rerun true = t at *
  obtain ⟨start, -, same⟩ := t.ready_start 1 (by decide)
  have ports := (t.ready 1).portsCleared_carries
  exact ⟨ports.engines.trans (same.trans engines), (congrArg (· == 1) (ports.leaves.get _ (by decide) (by decide) 0)).trans (t.ready_shown 1).1,
    (ports.leaves.get _ (by decide) (by decide) 0).trans start⟩

/-! ### From its trigger -/

theorem State.warm_kept (start : Nat) : s.warm start true = s.warmPath start := by rw [State.warm, if_pos rfl]

theorem State.warm_shows : (s.warm 1 true).get .PWR_STATE_STATE 0 = 0 ∧ (s.warm 1 true).on .FRZ_STATUS_FROZEN 0 = false ∧ (s.warm 1 true).cmds = [] := by
  rw [State.warm_kept, State.warmPath_eq]
  exact State.restarted_shows _ _ rfl

theorem State.imageOk_of_same {t : State} (flash : t.flash = s.flash) (rev : t.get .HST_ID_REV 0 = s.get .HST_ID_REV 0) (b : List Byte) : t.imageOk b = s.imageOk b := by
  unfold State.imageOk State.svnFloor
  rw [flash, rev]

/-- The blocks of NAND operations in flight undefined. -/
def State.blocksLost (s : State) (e : Nat × NandOp) : State := e.2.blocks.foldl (fun s k => s.setBlock k { s.block k with undef := true, gaps := [(0, 1536)] }) s

theorem State.blocksLost_keeps (e : Nat × NandOp) : (s.blocksLost e).flash = s.flash ∧ (s.blocksLost e).mgmt = s.mgmt ∧ (s.blocksLost e).cmds = s.cmds ∧
    (s.blocksLost e).flds = s.flds := by
  have all (l : List Nat) (t : State) : (l.foldl (fun s k => s.setBlock k { s.block k with undef := true, gaps := [(0, 1536)] }) t).flash = t.flash ∧
      (l.foldl (fun s k => s.setBlock k { s.block k with undef := true, gaps := [(0, 1536)] }) t).mgmt = t.mgmt ∧
      (l.foldl (fun s k => s.setBlock k { s.block k with undef := true, gaps := [(0, 1536)] }) t).cmds = t.cmds ∧
      (l.foldl (fun s k => s.setBlock k { s.block k with undef := true, gaps := [(0, 1536)] }) t).flds = t.flds := by
    induction l generalizing t with
    | nil => exact ⟨rfl, rfl, rfl, rfl⟩
    | cons k l ih => exact ih (t.setBlock k { t.block k with undef := true, gaps := [(0, 1536)] })
  exact all e.2.blocks s

theorem State.nandCut_keeps : s.nandCut.flash = s.flash ∧ s.nandCut.mgmt = s.mgmt ∧ s.nandCut.cmds = s.cmds ∧ s.nandCut.flds = s.flds := by
  have ended (t : State) : { t with nand := [] }.flash = t.flash ∧ { t with nand := [] }.mgmt = t.mgmt ∧ { t with nand := [] }.cmds = t.cmds ∧ { t with nand := [] }.flds = t.flds :=
    ⟨rfl, rfl, rfl, rfl⟩
  obtain ⟨flash, mgmt, cmds, flds⟩ := ended (s.nand.foldl State.blocksLost s)
  exact ⟨flash.trans (State.foldl_keeps State.flash (fun t e => (t.blocksLost_keeps e).1) _ s), mgmt.trans (State.foldl_keeps State.mgmt (fun t e => (t.blocksLost_keeps e).2.1) _ s),
    cmds.trans (State.foldl_keeps State.cmds (fun t e => (t.blocksLost_keeps e).2.2.1) _ s), flds.trans (State.foldl_keeps State.flds (fun t e => (t.blocksLost_keeps e).2.2.2) _ s)⟩

theorem State.savePeat_keeps : s.savePeat.flash = s.flash ∧ s.savePeat.mgmt = s.mgmt ∧ s.savePeat.cmds = s.cmds ∧ s.savePeat.flds = s.flds := ⟨rfl, rfl, rfl, rfl⟩

theorem State.linksCut_same : s.linksCut.flash = s.flash ∧ s.linksCut.mgmt = s.mgmt ∧ s.linksCut.cmds = s.linkCmds ∧ s.linksCut.get .HST_ID_REV 0 = s.get .HST_ID_REV 0 := by
  have reset : s.linkReset.flash = s.flash ∧ s.linkReset.mgmt = s.mgmt ∧ s.linkReset.cmds = s.linkCmds := by
    rw [s.linkReset_frame]
    exact ⟨rfl, rfl, rfl⟩
  have down (t : State) : t.hostDown.flash = t.flash ∧ t.hostDown.mgmt = t.mgmt := by
    rw [t.hostDown_frame]
    exact ⟨rfl, rfl⟩
  obtain ⟨nandFlash, nandMgmt, nandCmds, nandFlds⟩ := s.linkReset.hostDown.nandCut_keeps
  obtain ⟨flash, mgmt, cmds, flds⟩ := s.linkReset.hostDown.nandCut.savePeat_keeps
  have rev : s.linkReset.hostDown.nandCut.savePeat.get .HST_ID_REV 0 = s.linkReset.hostDown.get .HST_ID_REV 0 := by rw [State.get, flds, nandFlds, ← State.get]
  unfold State.linksCut
  refine ⟨flash.trans (nandFlash.trans ((down _).1.trans reset.1)), mgmt.trans (nandMgmt.trans ((down _).2.trans reset.2.1)),
    cmds.trans (nandCmds.trans (s.linkReset.hostDown_cmds.trans reset.2.2)), rev.trans ?_⟩
  rw [State.hostDown_get _ (by decide) (by decide), State.linkReset_get _ (by decide) (by decide)]

theorem State.workDropped_keeps : s.workDropped.flash = s.flashLeft ∧ s.workDropped.get .HST_ID_REV 0 = s.get .HST_ID_REV 0 := ⟨rfl, rfl⟩

/-- A command kept by a link reset writes no image where none did. -/
theorem State.slotWriting_linksCut (free : s.slotWriting = false) : s.linksCut.slotWriting = false := by
  obtain ⟨-, mgmt, cmds, -⟩ := s.linksCut_same
  rw [State.slotWriting, Bool.or_eq_false_iff] at free
  obtain ⟨update, none⟩ := free
  have kept : s.linkCmds.any (fun c => c.kind.image.isSome) = false := by
    rw [List.any_eq_false] at none ⊢
    intro c mem
    obtain ⟨d, hd, rfl⟩ := List.mem_map.1 mem
    exact none d (List.mem_of_mem_filter hd)
  rw [State.slotWriting, mgmt, cmds, update, kept]
  rfl

/-- An authentic image in a slot that is not being written starts. -/
theorem State.warm_ready (image : s.imageOk s.flash.image = true) (free : s.slotWriting = false) :
    (s.warm 1 true).engines = [] ∧ (s.warm 1 true).on .HST_CP_STATUS_READY 0 = true ∧ (s.warm 1 true).get .BOOT_STATUS_START 0 = 1 := by
  obtain ⟨flash, -, -, rev⟩ := s.linksCut_same
  have idle := s.slotWriting_linksCut free
  have left : s.linksCut.workDropped.flash = s.flash := by
    rw [s.linksCut.workDropped_keeps.1, State.flashLeft, if_neg (by simp [idle]), flash]
  have shown : s.linksCut.workDropped.get .HST_ID_REV 0 = s.get .HST_ID_REV 0 := s.linksCut.workDropped_keeps.2.trans rev
  rw [State.warm_kept, State.warmPath_eq, State.imageOk_of_same s left shown, left, image]
  exact State.restarted_ready _

end

end Sys2Proof.Machine
end

section
/-!
PROOFS. Doldrums mode entered and left, the freeze and a warm reset (R334 to R337, R391, R410): the statement O51.
-/
namespace Sys2Proof.Machine

/-! ### The mode left (R337) -/

section
variable (s : State)

/-- The mode no longer shown, and nothing held. -/
def State.modeLeft (s : State) : State := s.puts 0 [(.PART_DOLDRUMS_ACTIVE, 0), (.PART_DOLDRUMS_HELD, 0), (.HST_CP_STATUS_DOLDRUMS, 0), (.PART_LOST_IN_WINDOW, 0)]

def State.lossesForgotten (s : State) : State := { s with losses := [], always := { s.always with fwAuth := false } }

theorem State.leaveDoldrums_eq : s.leaveDoldrums = s.modeLeft.lossesForgotten.doldrumsEvent 2 (s.modeLeft.get .PART_DOLDRUMS_CAUSE 0) := rfl

theorem State.modeLeft_shows : s.modeLeft.get .PART_DOLDRUMS_ACTIVE 0 = 0 ∧ s.modeLeft.get .PART_DOLDRUMS_HELD 0 = 0 := by
  unfold State.modeLeft
  simp (disch := decide) only [State.puts_cons, State.puts_nil, State.get_put_of_id, State.get_put_same]
  exact ⟨rfl, rfl⟩

theorem State.modeLeft_leaves : s.Leaves ([Fld.PART_DOLDRUMS_ACTIVE, .PART_DOLDRUMS_HELD, .HST_CP_STATUS_DOLDRUMS, .PART_LOST_IN_WINDOW].map Fld.id) s.modeLeft :=
  s.puts_leaves (by simp only [List.forall_mem_cons]; decide) 0

theorem State.modeLeft_parts : s.modeLeft.parts = s.parts := by rw [State.modeLeft, State.puts_eq]

theorem State.lossesForgotten_keeps : s.lossesForgotten.flds = s.flds ∧ s.lossesForgotten.parts = s.parts := ⟨rfl, rfl⟩

/-- What follows the registers of the mode, at its end. -/
theorem State.leaveDoldrums_works : s.modeLeft.Works s.leaveDoldrums := by
  obtain ⟨flds, parts⟩ := s.modeLeft.lossesForgotten_keeps
  rw [State.leaveDoldrums_eq]
  exact (State.Works.of flds parts).trans (State.event_works _ _)

/-- Every partition that can be reset is. -/
def State.partReset (s : State) (p : Nat) : State :=
  if (s.get .PART_STATUS_STATE p = 2 ∨ s.get .PART_STATUS_STATE p = 5) ∧ !(s.part p).mapLost then s.beginReset p else s

def State.partsReset (s : State) : State := (List.range 12).foldl State.partReset s

/-- Engines at rest take up their orders. -/
def State.enginesOrdered (s : State) : State := ((List.range 32).filter fun e => s.get .DMA_CH_STATUS_STATE e == 2).foldl State.dmaOrders s

def State.portsStarted (s : State) : State := (List.range 16).foldl State.startPort s

theorem State.enginesOrdered_works : s.Works s.enginesOrdered := .foldl State.dmaOrders_works _ s

theorem State.startPort_leaves (k : Nat) : s.Leaves [Fld.XNI_PORT_STATUS_STATE.id] (s.startPort k) := by
  cases may : s.portMay k
  · rw [State.startPort_mayNot may]
    exact .rfl
  · have down : s.Leaves [Fld.XNI_PORT_STATUS_STATE.id] (s.setXport k (s.xport k).untrained) := .same rfl
    rw [State.startPort_may may]
    exact down.seq (State.put_leaves _ (by decide) k 1)

theorem State.portsStarted_leaves : s.Leaves [Fld.XNI_PORT_STATUS_STATE.id] s.portsStarted := .foldl State.startPort_leaves _ s

/-- Numbers of the fields that the resets of an exit write. -/
def exitIds : List Nat := resetIds ++ [Fld.PART_STATUS_STATE.id, Fld.GST_PART_STATE_STATE.id, Fld.ZYN_TRANSIT_STATE.id]

theorem State.partReset_leaves (p : Nat) : s.Leaves exitIds (s.partReset p) := .ite (s.beginReset_leaves p) .rfl

theorem State.partsReset_leaves : s.Leaves exitIds s.partsReset := .foldl State.partReset_leaves _ s

theorem State.partReset_other {j p : Nat} (apart : j ≠ p) : (s.partReset p).get .PART_STATUS_STATE j = s.get .PART_STATUS_STATE j ∧
    ((s.partReset p).part j).mapLost = (s.part j).mapLost := by
  unfold State.partReset
  split
  · exact ⟨s.beginReset_other p apart, s.beginReset_mapLost p j⟩
  · exact ⟨rfl, rfl⟩

variable {s}

theorem State.partReset_resets {p : Nat} (ready : s.get .PART_STATUS_STATE p = 2 ∨ s.get .PART_STATUS_STATE p = 5) (known : (s.part p).mapLost = false) :
    (s.partReset p).get .PART_STATUS_STATE p = 3 := by
  unfold State.partReset
  rw [if_pos ⟨ready, by rw [known]; rfl⟩, State.beginReset_eq]
  exact (State.resetShown_shows _ p).1

/-- A partition that resets is left to its reset by the others. -/
theorem State.partResets_keep {p : Nat} (l : List Nat) (resetting : s.get .PART_STATUS_STATE p = 3) : (l.foldl State.partReset s).get .PART_STATUS_STATE p = 3 := by
  induction l generalizing s with
  | nil => exact resetting
  | cons q l ih =>
    refine ih ?_
    by_cases same : p = q
    · have kept : s.partReset q = s := if_neg fun ready => by
        rw [← same, resetting] at ready
        exact absurd ready.1 (by decide)
      rw [kept, resetting]
    · rw [(s.partReset_other same).1, resetting]

theorem State.partResets_reset {p : Nat} {l : List Nat} (mem : p ∈ l) (ready : s.get .PART_STATUS_STATE p = 2 ∨ s.get .PART_STATUS_STATE p = 5)
    (known : (s.part p).mapLost = false) : (l.foldl State.partReset s).get .PART_STATUS_STATE p = 3 := by
  induction l generalizing s with
  | nil => cases mem
  | cons q l ih =>
    by_cases same : p = q
    · exact State.partResets_keep l (same ▸ State.partReset_resets ready known)
    · obtain ⟨state, lost⟩ := s.partReset_other same
      exact ih ((List.mem_cons.1 mem).resolve_left same) (by rwa [state]) (by rwa [lost])

/-- An exit begun. -/
def State.exitBegun (s : State) (q : Req) : State := s.leaveDoldrums.startCmd q 0x51 .doldrumsExit

theorem doldrumsExit_leaves (q : Req) (mode : s.inDoldrums = true) (allowed : ∀ c, c < 5 → bitOf (s.get .PART_DOLDRUMS_HELD 0) c = true → s.causeAllows (c + 1) = true) :
    doldrumsExit q s = if !(s.exitBegun q).on .HST_CP_STATUS_READY 0 then (s.exitBegun q).put .BOOT_STATUS_STEP 0 4
      else (s.exitBegun q).enginesOrdered.partsReset.portsStarted.exitDone := by
  have all : ((setBits 5 (s.get .PART_DOLDRUMS_HELD 0)).all fun b => s.causeAllows (b + 1)) = true := by
    rw [List.all_eq_true]
    intro b mem
    obtain ⟨small, held⟩ := List.mem_filter.1 mem
    exact allowed b (List.mem_range.1 small) held
  unfold doldrumsExit
  rw [mode, all]
  rfl

theorem doldrumsExit_stays (q : Req) {c : Nat} (small : c < 5) (mode : s.inDoldrums = true) (held : bitOf (s.get .PART_DOLDRUMS_HELD 0) c = true) (persists : s.causeAllows (c + 1) = false) :
    doldrumsExit q s = s.done q stDoldrums := by
  have some : ((setBits 5 (s.get .PART_DOLDRUMS_HELD 0)).all fun b => s.causeAllows (b + 1)) = false := by
    rw [List.all_eq_false]
    exact ⟨c, List.mem_filter.2 ⟨List.mem_range.2 small, held⟩, by rw [persists]; decide⟩
  unfold doldrumsExit
  rw [mode, some]
  rfl

/-- What an exit shows, whichever way it goes on. -/
theorem doldrumsExit_shows (q : Req) (mode : s.inDoldrums = true) (allowed : ∀ c, c < 5 → bitOf (s.get .PART_DOLDRUMS_HELD 0) c = true → s.causeAllows (c + 1) = true) :
    (doldrumsExit q s).inDoldrums = false ∧ (doldrumsExit q s).get .PART_DOLDRUMS_HELD 0 = 0 := by
  obtain ⟨active, held⟩ := s.modeLeft_shows
  have begun : s.modeLeft.Works (s.exitBegun q) := s.leaveDoldrums_works.trans (State.startCmd_works _ q 0x51 .doldrumsExit)
  have step : (s.exitBegun q).Leaves ([Fld.BOOT_STATUS_STEP.id] ++ (workIds ++ exitIds ++ [Fld.XNI_PORT_STATUS_STATE.id] ++ workIds)) ((s.exitBegun q).put .BOOT_STATUS_STEP 0 4) :=
    (State.put_leaves _ (by decide) 0 4).mono (List.subset_append_left ..)
  have ready : (s.exitBegun q).Leaves ([Fld.BOOT_STATUS_STEP.id] ++ (workIds ++ exitIds ++ [Fld.XNI_PORT_STATUS_STATE.id] ++ workIds))
      (s.exitBegun q).enginesOrdered.partsReset.portsStarted.exitDone :=
    ((((State.enginesOrdered_works _).leaves.trans (State.partsReset_leaves _)).trans (State.portsStarted_leaves _)).trans (State.exitDone_works _).leaves).mono
      (List.subset_append_right ..)
  have leaves := begun.leaves.trans (State.Leaves.ite (c := (!(s.exitBegun q).on .HST_CP_STATUS_READY 0) = true) step ready)
  rw [doldrumsExit_leaves q mode allowed]
  exact ⟨congrArg (· == 1) ((leaves.get .PART_DOLDRUMS_ACTIVE (by decide) (by decide +kernel) 0).trans active), (leaves.get _ (by decide) (by decide +kernel) 0).trans held⟩

/-- On a module that is READY the exit resets each partition whose map is known. -/
theorem doldrumsExit_resets (q : Req) (mode : s.inDoldrums = true) (allowed : ∀ c, c < 5 → bitOf (s.get .PART_DOLDRUMS_HELD 0) c = true → s.causeAllows (c + 1) = true)
    (trained : s.on .HST_CP_STATUS_READY 0 = true) {p : Nat} (small : p < 12) (ready : s.get .PART_STATUS_STATE p = 2 ∨ s.get .PART_STATUS_STATE p = 5)
    (known : (s.part p).mapLost = false) : (doldrumsExit q s).get .PART_STATUS_STATE p = 3 := by
  have begun : s.modeLeft.Works (s.exitBegun q) := s.leaveDoldrums_works.trans (State.startCmd_works _ q 0x51 .doldrumsExit)
  have before := s.modeLeft_leaves.trans begun.leaves
  have up : (s.exitBegun q).on .HST_CP_STATUS_READY 0 = true := (congrArg (· == 1) (before.get .HST_CP_STATUS_READY (by decide) (by decide +kernel) 0)).trans trained
  have ordered := (s.exitBegun q).enginesOrdered_works
  have state : (s.exitBegun q).enginesOrdered.get .PART_STATUS_STATE p = s.get .PART_STATUS_STATE p :=
    (ordered.leaves.get _ (by decide) (by decide +kernel) p).trans (before.get _ (by decide) (by decide +kernel) p)
  have marked : s.modeLeft.part p = s.part p := by rw [State.part, s.modeLeft_parts, ← State.part]
  have lost : ((s.exitBegun q).enginesOrdered.part p).mapLost = false := by rw [(ordered.part p).2, (begun.part p).2, marked, known]
  have reset : (s.exitBegun q).enginesOrdered.partsReset.get .PART_STATUS_STATE p = 3 := State.partResets_reset (List.mem_range.2 small) (by rwa [state]) lost
  have late := (State.portsStarted_leaves (s.exitBegun q).enginesOrdered.partsReset).trans (State.exitDone_works _).leaves
  rw [doldrumsExit_leaves q mode allowed, if_neg (by rw [up]; decide)]
  exact (late.get _ (by decide) (by decide +kernel) p).trans reset

end

end Sys2Proof.Machine

namespace Sys2Proof.Proofs
open Sys2Proof Sys2Proof.Machine

/-- Settles O51: what each entry and exit leaves of the registers that it has shown. -/
theorem modesEntered : Obligations.ModesEntered := by
  refine ⟨fun q s => ⟨fun h => ?_, fun h => ?_, fun h => ?_⟩, fun v kept s hc => ?_⟩
  · have runs : exec (.doldrumsEnter q) s = .next ((s.enterDoldrums 1).done q stOk) := hostRow_accepted h (chk := noCheck) rfl _
    refine ⟨_, runs, s.enterDoldrums_mode 1, s.enterDoldrums_held (cause := 1) (by decide), fun awake => ⟨?_, fun p hp => State.enterDoldrums_stopped awake 1 hp,
      fun k hk => State.enterDoldrums_ports awake 1 hk⟩⟩
    exact ((State.enterDoldrums_halts awake 1).leaves.get _ (by decide) (by decide +kernel) 0).trans (s.doldrumsShown_active 1).2
  · have runs : exec (.doldrumsExit q) s = .next (doldrumsExit q s) := hostRow_accepted h (chk := noCheck) rfl _
    refine ⟨fun awake => ?_, fun c small mode held persists => ?_, fun mode allowed => ?_⟩
    · rw [runs, doldrumsExit, awake]
      rfl
    · rw [runs, doldrumsExit_stays q small mode held persists]
    · obtain ⟨left, none⟩ := doldrumsExit_shows q mode allowed
      exact ⟨_, runs, left, none, fun trained p hp ready known => doldrumsExit_resets q mode allowed trained hp ready known⟩
  · have runs : exec (.freeze q) s = .next ((s.done q stOk).freeze 2) := hostRow_accepted h (chk := noCheck) rfl _
    have gust : (s.done q stOk).gust = s.gust := State.done_get ⟨⟨by decide, by decide +kernel⟩, by decide, by decide⟩ 0 s q stOk 0 0
    obtain ⟨frozen, source, at_, unlocked, stopped, -⟩ := (s.done q stOk).freeze_shows 2 (by decide)
    exact ⟨_, runs, frozen, source, at_.trans (by rw [gust]), stopped, unlocked⟩
  · have runs : exec (.warmReset v kept) s = .next (warmWrite v kept s) := congrArg _ (State.whenClocked_on _ hc)
    intro refused
    refine ⟨fun unset => ?_, fun set no => ?_, fun set yes => ?_⟩
    · rw [runs, warmWrite, unset]
      rfl
    · have asked : (s.anyArmed || !s.on .HST_CP_STATUS_READY 0 || s.slotWriting) = true := by
        simpa [or_assoc, refused] using no
      rw [runs, warmWrite, set, asked]
      rfl
    · have free : (s.anyArmed || !s.on .HST_CP_STATUS_READY 0 || s.slotWriting) = false := by
        simpa [and_assoc, refused] using yes
      have resets : exec (.warmReset v kept) s = .next (s.warm 1 kept) := by
        rw [runs, warmWrite, set, free]
        rfl
      have idle : s.slotWriting = false := by
        simp only [Bool.or_eq_false_iff] at free
        exact free.2
      refine ⟨fun lost => ?_, fun held => ?_⟩
      · subst lost
        obtain ⟨shut, marked, -, stopped, -⟩ := s.warm_cold_shows 1
        exact ⟨_, resets, shut, marked, stopped⟩
      · subst held
        obtain ⟨state, unfrozen, none⟩ := s.warm_shows
        refine ⟨_, resets, state, unfrozen, fun image => ?_⟩
        obtain ⟨engines, ready, start⟩ := s.warm_ready image idle
        exact ⟨none, engines, ready, start⟩

end Sys2Proof.Proofs
end

section
/-!
PROOFS. The debug port (R410 to R413, R430) and the management path (R294 to R296, R368, R391, R398): the statement O60.
-/
namespace Sys2Proof.Machine

/-! ### The freeze and its read-out -/

section
variable {s : State}

theorem stillN_freezes (enabled : s.on .FRZ_CTL_PIN_EN 0 = true) (started : 4 < s.get .BOOT_STATUS_STEP 0) : stillN s = s.freeze 1 := if_pos (by simp [enabled, started])

theorem exec_stillN (s : State) : exec .stillN s = .next (s.whenClocked stillN) := rfl

theorem exec_dumpSel (s : State) : exec .dumpSel s = .next (if s.on .FRZ_STATUS_FROZEN 0 then dumpSel s else s) := rfl

theorem exec_freezeRelease (s : State) (kept : Bool) : exec (.freezeRelease kept) s = .next (freezeRelease kept s) := rfl

theorem exec_stillN_disabled (off : s.on .FRZ_CTL_PIN_EN 0 = false) : exec .stillN s = .next s := by
  have held : stillN s = s := if_neg (by simp [off])
  rw [exec_stillN, State.whenClocked, held, ite_self]

theorem exec_stillN_enabled (hc : s.clocked = true) (enabled : s.on .FRZ_CTL_PIN_EN 0 = true) (started : 4 < s.get .BOOT_STATUS_STEP 0) :
    exec .stillN s = .next (s.freeze 1) := by
  rw [exec_stillN, State.whenClocked_on _ hc, stillN_freezes enabled started]

theorem freezeRelease_thawed (thawed : s.on .FRZ_STATUS_FROZEN 0 = false) (kept : Bool) : freezeRelease kept s = s := if_neg (by simp [thawed])

theorem freezeRelease_frozen (frozen : s.on .FRZ_STATUS_FROZEN 0 = true) (kept : Bool) : freezeRelease kept s = (s.put .FRZ_STATUS_FROZEN 0 0).warm 1 kept := if_pos frozen

/-- A release leaves no module frozen. -/
theorem freezeRelease_thaws (s : State) (kept : Bool) : (freezeRelease kept s).on .FRZ_STATUS_FROZEN 0 = false := by
  cases frozen : s.on .FRZ_STATUS_FROZEN 0
  · rw [freezeRelease_thawed frozen, frozen]
  · rw [freezeRelease_frozen frozen]
    cases kept
    · exact (State.warm_cold_shows _ 1).2.2.1
    · exact (State.warm_shows _).2.1

/-- The registers of the read-out begun. -/
def State.dumpShown (s : State) : State := (s.frees 16).2.puts 0 [(.FRZ_DUMP_MIB, 6992), (.FRZ_DUMP_SEGMENTS, 9), (.FRZ_DUMP_ACTIVE, 0)]

theorem dumpSel_eq (s : State) : ∃ heads, dumpSel s = s.dumpShown.answer (.dump heads) ∧ heads.length = 9 := ⟨_, rfl, rfl⟩

theorem State.dumpShown_shows (s : State) : s.dumpShown.get .FRZ_DUMP_SEGMENTS 0 = 9 ∧ s.dumpShown.get .FRZ_STATUS_FROZEN 0 = s.get .FRZ_STATUS_FROZEN 0 := by
  unfold State.dumpShown
  simp (disch := decide) only [State.puts_cons, State.puts_nil, State.get_put_of_id, State.get_put_same]
  exact ⟨rfl, rfl⟩

theorem State.dumpShown_keeps (s : State) : s.dumpShown.answers = s.answers ∧ s.dumpShown.mem = s.mem := by
  rw [State.dumpShown, State.puts_eq]
  exact ⟨rfl, rfl⟩

theorem State.answer_keeps (s : State) (a : Answer) : (s.answer a).flds = s.flds ∧ (s.answer a).mem = s.mem ∧ (s.answer a).answers = a :: s.answers := ⟨rfl, rfl, rfl⟩

/-- The read-out of a frozen module. -/
theorem dumpSel_answers (frozen : s.on .FRZ_STATUS_FROZEN 0 = true) : ∃ heads, (dumpSel s).answers = .dump heads :: s.answers ∧ heads.length = 9 ∧
    (dumpSel s).get .FRZ_DUMP_SEGMENTS 0 = 9 ∧ (dumpSel s).on .FRZ_STATUS_FROZEN 0 = true ∧ (dumpSel s).mem = s.mem := by
  obtain ⟨heads, eq, nine⟩ := dumpSel_eq s
  obtain ⟨segments, kept⟩ := s.dumpShown_shows
  obtain ⟨answers, mem⟩ := s.dumpShown_keeps
  rw [eq]
  generalize s.dumpShown = t at *
  obtain ⟨flds, sameMem, answered⟩ := t.answer_keeps (.dump heads)
  have get (f : Fld) : (t.answer (.dump heads)).get f 0 = t.get f 0 := by rw [State.get, flds, ← State.get]
  exact ⟨heads, answered.trans (by rw [answers]), nine, (get _).trans segments, (congrArg (· == 1) ((get _).trans kept)).trans frozen, sameMem.trans mem⟩

/-! ### The TAP (R430) -/

theorem State.tapOn_iff (s : State) : s.tapOn = true ↔ s.get .PWR_STATE_STATE 0 < 3 := by simp [State.tapOn]

/-- Each instruction of the TAP acts while it is powered. -/
theorem exec_idcode (s : State) : exec .idcode s = .next (if s.tapOn then s.answer (.tap (placed (s.get .HST_ID_REV 0 % 16) 28 + 0x0127256B)) else s) := rfl

theorem exec_bypass (bits : List Bool) (s : State) : exec (.bypass bits) s = .next (if s.tapOn then s.bypassed bits else s) := rfl

/-- The cells loaded by a capture. -/
def State.preloaded (s : State) (bits : List Bool) : State := { s.captured with tapState := { s.captured.tapState with cells := bits } }

theorem exec_samplePreload (bits : List Bool) (s : State) : exec (.samplePreload bits) s = .next (if s.tapOn then s.preloaded bits else s) := rfl

theorem exec_extest (bits : List Bool) (s : State) : exec (.extest bits) s = .next (if s.tapOn then extest bits s else s) := rfl

/-- The cells driving the pins. -/
def State.driven (s : State) (bits : List Bool) : State := { s.captured with tapState := { s.captured.tapState with extest := true, cells := bits } }

theorem extest_frozen (frozen : s.on .FRZ_STATUS_FROZEN 0 = true) (bits : List Bool) : extest bits s = s.driven bits := if_pos frozen

/-- A boundary-scan instruction that moves no pin. -/
def State.scanned (s : State) : State := { s with tapState := { s.tapState with scanned := true } }

theorem extest_thawed (thawed : s.on .FRZ_STATUS_FROZEN 0 = false) (bits : List Bool) : extest bits s = s.scanned.bypassed bits := if_neg (by simp [thawed])

theorem State.preloaded_only (s : State) (bits : List Bool) : (s.preloaded bits).tapState.cells = bits ∧ (s.preloaded bits).tapState.extest = s.tapState.extest ∧
    s.preloaded bits = { s with freeCtr := (s.preloaded bits).freeCtr, tapState := (s.preloaded bits).tapState, answers := (s.preloaded bits).answers } := ⟨rfl, rfl, rfl⟩

theorem State.driven_only (s : State) (bits : List Bool) : (s.driven bits).tapState.cells = bits ∧ (s.driven bits).tapState.extest = true ∧
    s.driven bits = { s with freeCtr := (s.driven bits).freeCtr, tapState := (s.driven bits).tapState, answers := (s.driven bits).answers } := ⟨rfl, rfl, rfl⟩

theorem State.scanned_bypassed (s : State) (bits : List Bool) : (s.scanned.bypassed bits).tapState.extest = s.tapState.extest ∧
    (s.scanned.bypassed bits).answers = .tap (ofBits ((false :: bits).take bits.length)) :: s.answers := ⟨rfl, rfl⟩

theorem exec_regAccess_write (on : s.get .PWR_STATE_STATE 0 < 3) {off : Nat} {r : RegName} (reached : tapReg off = some r) (v : Word) :
    exec (.regAccess v true off) s = .next (tapWrite r v s) := by
  have powered : ¬(!s.tapOn) = true := by simp [s.tapOn_iff.2 on]
  show execRegAccess v true off s = _
  unfold execRegAccess
  rw [reached]
  exact congrArg _ ((if_neg powered).trans (if_pos rfl))

theorem exec_regAccess_read (on : s.get .PWR_STATE_STATE 0 < 3) {off : Nat} {r : RegName} (reached : tapReg off = some r) (v : Word) :
    exec (.regAccess v false off) s = .next ((s.readReg r 0).2.answer (.tap (s.readReg r 0).1)) := by
  have powered : ¬(!s.tapOn) = true := by simp [s.tapOn_iff.2 on]
  show execRegAccess v false off s = _
  unfold execRegAccess
  rw [reached]
  exact congrArg _ ((if_neg powered).trans (if_neg (by decide)))

/-- A write of FRZ_CTL sets its enable; RELEASE holds nothing. -/
theorem State.writeFields_frzCtl (s : State) (v : Word) : s.writeFields .FRZ_CTL 0 v.toNat (2 ^ 64 - 1) = s.put .FRZ_CTL_PIN_EN 0 (v.toNat % 2) := by
  have release : s.writeField .FRZ_CTL_RELEASE 0 v.toNat (2 ^ 64 - 1) = s := by
    unfold State.writeField
    split <;> rfl
  have enable : s.writeField .FRZ_CTL_PIN_EN 0 v.toNat (2 ^ 64 - 1) = s.put .FRZ_CTL_PIN_EN 0 (v.toNat % 2) := by
    have touched : ¬(!Fld.FRZ_CTL_PIN_EN.touched (2 ^ 64 - 1)) = true := by decide
    have merged : Fld.FRZ_CTL_PIN_EN.merged (s.get .FRZ_CTL_PIN_EN 0) v.toNat (2 ^ 64 - 1) = v.toNat % 2 := (Fld.merged_bit rfl (by decide) _ _).trans (by simp [Fld.FRZ_CTL_PIN_EN])
    unfold State.writeField
    rw [if_neg touched]
    dsimp only [Fld.FRZ_CTL_PIN_EN] at merged ⊢
    rw [merged]
    exact if_pos ⟨Nat.zero_le _, Nat.lt_succ_iff.1 (Nat.mod_lt _ (by decide))⟩
  unfold State.writeFields
  rw [RegName.fields, List.foldl_cons, List.foldl_cons, List.foldl_nil, release, enable]

theorem State.put_pinEnable (s : State) (v : Word) : (s.put .FRZ_CTL_PIN_EN 0 (v.toNat % 2)).on .FRZ_CTL_PIN_EN 0 = flagOf v 0 := by
  have one : v.toNat % 2 % 2 ^ Fld.FRZ_CTL_PIN_EN.width = v.toNat % 2 := Nat.mod_mod ..
  rw [State.on, State.get_put_same, one, flagOf, bitOf, Nat.pow_zero, Nat.div_one]
  rfl

end

/-! ### Management requests (R294, R295) -/

section
variable {s : State}

theorem State.whenManaged_on (on : s.get .PWR_STATE_STATE 0 < 3) (thawed : s.on .FRZ_STATUS_FROZEN 0 = false) (f : State → State) : s.whenManaged f = f s :=
  if_pos (by simp [on, thawed])

theorem State.whenManaged_off (off : 3 ≤ s.get .PWR_STATE_STATE 0 ∨ s.on .FRZ_STATUS_FROZEN 0 = true) (f : State → State) : s.whenManaged f = s := by
  refine if_neg ?_
  obtain asleep | frozen := off
  · simp [asleep]
  · simp [frozen]

/-- Deep asked for through the effecter. -/
theorem setEffecterState_begins (free : s.on .PWR_STATE_BUSY 0 = false) (rails : s.always.shut = 0) (unarmed : s.anyArmed = false) (on : s.get .PWR_STATE_STATE 0 < 3) :
    setEffecterState 3 s = ((s.powerBegun 3).setEffecter true).reply .done := by
  have tried : s.powerTry 3 = (none, s.powerBegun 3) := State.powerTry_begins (by simp [powerFrom, on]) unarmed (by decide)
  have may : ¬(s.on .PWR_STATE_BUSY 0 = true ∨ s.always.shut ≠ 0) := by simp [free, rails]
  unfold setEffecterState
  rw [if_neg (by decide), if_neg may, tried]

/-- The transition shown as the effecter's. -/
theorem State.effecterSet_shows (t : State) (f : Fld) : ((t.setEffecter true).reply .done).get f 0 = t.get f 0 ∧ ((t.setEffecter true).reply .done).mgmt.effecter = true := ⟨rfl, rfl⟩

theorem setEffecterState_invalid {v : Nat} (deep : v ≠ 3) (off : v ≠ 4) : setEffecterState v s = s.reply .invalidStateValue := if_pos ⟨deep, off⟩

theorem setEffecterState_busy {v : Nat} (named : v = 3 ∨ v = 4) (busy : s.on .PWR_STATE_BUSY 0 = true) : setEffecterState v s = s.reply .notReady := by
  unfold setEffecterState
  rw [if_neg fun other => named.elim other.1 other.2, if_pos (.inl busy)]

theorem requestUpdateOf_refused {image : List Byte} (bad : slotBytes < image.length ∨ s.imageOk image = false ∨ s.slotBusy = true) : requestUpdateOf image s = s.replyRefused := by
  refine if_pos ?_
  obtain large | unsigned | busy := bad
  · exact .inl large
  · exact .inr (.inl (by simp [unsigned]))
  · exact .inr (.inr (.inl busy))

theorem requestUpdateOf_taken {image : List Byte} (fits : image.length ≤ slotBytes) (signed : s.imageOk image = true) (free : s.slotBusy = false) (rails : s.always.shut = 0) :
    requestUpdateOf image s = { s with mgmt := { s.mgmt with update := some image } }.reply .done := if_neg (by simp [fits, signed, free, rails])

theorem activate_waits (kept : Bool) (waits : s.anyArmed = true ∨ s.slotWriting = true ∨ s.on .HST_CP_STATUS_READY 0 = false) : activate kept s = s.reply .notReady :=
  if_pos (by simpa [or_assoc] using waits)

theorem activate_restarts (kept : Bool) (unarmed : s.anyArmed = false) (free : s.slotWriting = false) (ready : s.on .HST_CP_STATUS_READY 0 = true) :
    activate kept s = (s.reply .done).warm 1 kept := if_neg (by simp [unarmed, free, ready])

/-! ### SPDM (R296, R398) -/

theorem spdmRequest_answers {k : Nat} (known : k ≤ 7) {req b : List Byte} {u : State} (served : s.spdmServe k req = (b, u)) : spdmRequest k req s =
    if 6 ≤ k ∧ s.on .BOOT_STATUS_PUF_FAIL 0 = true then u.reply .spdmUnspecified else u.reply (if k = 7 then .measurements s.measurements b else .spdm b) := by
  have late : (k = 6 ∨ k = 7) ↔ 6 ≤ k := by omega
  unfold spdmRequest
  rw [served]
  simp only [late]

/-- The last chunk taken: the whole request is served. -/
theorem takeChunk_last (s : State) (chunk : List Byte) : takeChunk chunk true s =
    spdmRequest (Config.spdmKind (s.mgmt.chunks ++ chunk)).val (s.mgmt.chunks ++ chunk) { s with mgmt := { s.mgmt with chunks := [] } } := rfl

theorem State.spdmServe_keeps (s : State) (k : Nat) (req : List Byte) : (s.spdmServe k req).2.mgmt.chunks = s.mgmt.chunks ∧ (s.spdmServe k req).2.mctpOut = s.mctpOut := by
  unfold State.spdmServe
  split <;> exact ⟨rfl, rfl⟩

/-- Any request of SPDM is answered once, and leaves the chunks taken. -/
theorem spdmRequest_once (s : State) (k : Nat) (req : List Byte) : (spdmRequest k req s).mgmt.chunks = s.mgmt.chunks ∧ ∃ r, (spdmRequest k req s).mctpOut = r :: s.mctpOut := by
  obtain ⟨chunks, out⟩ := s.spdmServe_keeps k req
  have replied (t : State) (r : Reply) : (t.reply r).mgmt.chunks = t.mgmt.chunks ∧ (t.reply r).mctpOut = r :: t.mctpOut := ⟨rfl, rfl⟩
  unfold spdmRequest
  generalize s.spdmServe k req = e at *
  obtain ⟨b, t⟩ := e
  dsimp only at *
  split
  · exact ⟨(replied _ _).1.trans chunks, _, (replied _ _).2.trans (by rw [out])⟩
  · exact ⟨(replied _ _).1.trans chunks, _, (replied _ _).2.trans (by rw [out])⟩

end

end Sys2Proof.Machine

namespace Sys2Proof.Proofs
open Sys2Proof Sys2Proof.Machine

/-- The freeze by its pin, the read-out and the release. -/
theorem freezes_and_releases (s : State) :
    (s.clocked = true → s.on .FRZ_CTL_PIN_EN 0 = true → 4 < s.get .BOOT_STATUS_STEP 0 → ∃ t : State, exec .stillN s = .next t ∧ t.on .FRZ_STATUS_FROZEN 0 = true ∧
      t.get .FRZ_STATUS_SOURCE 0 = 1 ∧ t.get .FRZ_STATUS_GUST 0 = s.gust % 2 ^ 48 ∧ t.clocked = false ∧ t.mem = s.mem) ∧
    (s.on .FRZ_STATUS_FROZEN 0 = true → (∃ t heads, exec .dumpSel s = .next t ∧ t.answers = .dump heads :: s.answers ∧ heads.length = 9 ∧ t.get .FRZ_DUMP_SEGMENTS 0 = 9 ∧
        t.on .FRZ_STATUS_FROZEN 0 = true ∧ t.mem = s.mem) ∧
      (∃ t : State, exec (.freezeRelease false) s = .next t ∧ t.on .FRZ_STATUS_FROZEN 0 = false ∧ t.always.shut = 3 ∧ t.on .BOOT_STATUS_RETENTION_BAD 0 = true) ∧
      ∃ t : State, exec (.freezeRelease true) s = .next t ∧ t.on .FRZ_STATUS_FROZEN 0 = false ∧ t.cmds = []) := by
  refine ⟨fun hc enabled started => ?_, fun frozen => ⟨?_, ?_, ?_⟩⟩
  · obtain ⟨frozen, source, gust, -, stopped, mem⟩ := s.freeze_shows 1 (by decide)
    exact ⟨s.freeze 1, exec_stillN_enabled hc enabled started, frozen, source, gust, stopped, mem⟩
  · obtain ⟨heads, answers, nine, segments, still, mem⟩ := dumpSel_answers frozen
    have runs : exec .dumpSel s = .next (dumpSel s) := by rw [exec_dumpSel, if_pos frozen]
    exact ⟨dumpSel s, heads, runs, answers, nine, segments, still, mem⟩
  · have runs := exec_freezeRelease s false
    rw [freezeRelease_frozen frozen] at runs
    obtain ⟨shut, marked, unfrozen, -, -⟩ := (s.put .FRZ_STATUS_FROZEN 0 0).warm_cold_shows 1
    exact ⟨_, runs, unfrozen, shut, marked⟩
  · have runs := exec_freezeRelease s true
    rw [freezeRelease_frozen frozen] at runs
    obtain ⟨-, unfrozen, none⟩ := (s.put .FRZ_STATUS_FROZEN 0 0).warm_shows
    exact ⟨_, runs, unfrozen, none⟩

/-- The TAP without power. -/
theorem tap_unpowered {s : State} (off : 3 ≤ s.get .PWR_STATE_STATE 0) : exec .idcode s = .next s ∧ ∀ bits, exec (.bypass bits) s = .next s ∧
    exec (.samplePreload bits) s = .next s ∧ exec (.extest bits) s = .next s := by
  have dark : ¬s.tapOn = true := fun on => Nat.not_lt.2 off (s.tapOn_iff.1 on)
  refine ⟨?_, fun bits => ⟨?_, ?_, ?_⟩⟩
  · rw [exec_idcode, if_neg dark]
  · rw [exec_bypass, if_neg dark]
  · rw [exec_samplePreload, if_neg dark]
  · rw [exec_extest, if_neg dark]

/-- The boundary-scan instructions with power. -/
theorem tap_scans {s : State} (on : s.get .PWR_STATE_STATE 0 < 3) (bits : List Bool) :
    (∃ t : State, exec (.samplePreload bits) s = .next t ∧ t.tapState.cells = bits ∧ t.tapState.extest = s.tapState.extest ∧
      t = { s with freeCtr := t.freeCtr, tapState := t.tapState, answers := t.answers }) ∧
    (s.on .FRZ_STATUS_FROZEN 0 = true → ∃ t : State, exec (.extest bits) s = .next t ∧ t.tapState.cells = bits ∧ t.tapState.extest = true ∧
      t = { s with freeCtr := t.freeCtr, tapState := t.tapState, answers := t.answers }) ∧
    (s.on .FRZ_STATUS_FROZEN 0 = false → ∃ t : State, exec (.extest bits) s = .next t ∧ t.tapState.extest = s.tapState.extest ∧
      t.answers = .tap (ofBits ((false :: bits).take bits.length)) :: s.answers) := by
  have lit := s.tapOn_iff.2 on
  refine ⟨⟨s.preloaded bits, ?_, s.preloaded_only bits⟩, fun frozen => ⟨s.driven bits, ?_, s.driven_only bits⟩,
    fun thawed => ⟨s.scanned.bypassed bits, ?_, s.scanned_bypassed bits⟩⟩
  · rw [exec_samplePreload, if_pos lit]
  · rw [exec_extest, if_pos lit, extest_frozen frozen]
  · rw [exec_extest, if_pos lit, extest_thawed thawed]

/-- FRZ_CTL written over the TAP. -/
theorem tap_writes {s : State} (on : s.get .PWR_STATE_STATE 0 < 3) {off : Nat} (reached : tapReg off = some .FRZ_CTL) (v : Word) :
    (flagOf v 1 = false → ∃ t : State, exec (.regAccess v true off) s = .next t ∧ t.on .FRZ_CTL_PIN_EN 0 = flagOf v 0 ∧ s.onlyFields t [Fld.FRZ_CTL_PIN_EN.key 0]) ∧
    (flagOf v 1 = true → ∃ t : State, exec (.regAccess v true off) s = .next t ∧ t.on .FRZ_STATUS_FROZEN 0 = false) := by
  have runs := exec_regAccess_write on reached v
  unfold tapWrite at runs
  rw [s.writeFields_frzCtl v] at runs
  refine ⟨fun held => ⟨_, runs.trans (congrArg _ (if_neg (by simp [held]))), s.put_pinEnable v, s.onlyFields_put ..⟩,
    fun released => ⟨_, runs.trans (congrArg _ (if_pos ⟨rfl, released⟩)), freezeRelease_thaws _ _⟩⟩

/-- Management requests without power, or while frozen. -/
theorem management_unserved {s : State} (off : 3 ≤ s.get .PWR_STATE_STATE 0 ∨ s.on .FRZ_STATUS_FROZEN 0 = true) : exec .getTid s = .next s ∧ exec .getPldmVersion s = .next s ∧
    exec .fruDataRead s = .next s ∧ exec .platformEventPoll s = .next s ∧ ∀ v, exec (.stateEffecterSet v) s = .next s := by
  have row (f : State → State) : manageRow f s = .next s := by rw [manageRow, State.whenManaged_off off]
  exact ⟨row _, row _, row _, row _, fun v => row _⟩

/-- Settles O60: each row of the two ports run with its power on, its answer read off, and the effects of a freeze and a restart from their own lemmas. -/
theorem debugAndManagement : Obligations.DebugAndManagement := by
  refine ⟨fun s => ?_, fun s => ⟨management_unserved, fun on thawed => ?_⟩⟩
  · obtain ⟨freezes, releases⟩ := freezes_and_releases s
    refine ⟨freezes, exec_stillN_disabled, fun thawed => ⟨?_, fun kept => ?_⟩, releases, tap_unpowered, fun on => ⟨?_, fun bits => ?_, fun bits => (tap_scans on bits).1,
      fun bits => (tap_scans on bits).2.1, fun bits => (tap_scans on bits).2.2, fun off r v reached => exec_regAccess_read on reached v, fun off v reached => tap_writes on reached v⟩⟩
    · rw [exec_dumpSel, if_neg (by simp [thawed])]
    · rw [exec_freezeRelease, freezeRelease_thawed thawed]
    · rw [exec_idcode, if_pos (s.tapOn_iff.2 on)]
      rfl
    · rw [exec_bypass, if_pos (s.tapOn_iff.2 on)]
      rfl
  · have row (f : State → State) : manageRow f s = .next (f s) := by rw [manageRow, State.whenManaged_on on thawed]
    have answers (req : List Byte) (k : Nat) (known : k ≤ 7) (b : List Byte) (u : State) (served : s.spdmServe k req = (b, u)) : manageRow (spdmRequest k req) s =
        .next (if 6 ≤ k ∧ s.on .BOOT_STATUS_PUF_FAIL 0 = true then u.reply .spdmUnspecified else u.reply (if k = 7 then .measurements s.measurements b else .spdm b)) := by
      rw [row, spdmRequest_answers known served]
    refine ⟨?_, fun v => row _, fun v => row _, fun i v read => ?_, fun i v read => ?_, fun h e read => ?_, row _, fun v deep off => ?_, fun v named busy => ?_, fun free rails unarmed _ => ?_,
      fun image bad => ?_, fun image fits signed free rails => ?_, fun kept waits => ?_, fun unarmed free ready => ?_, fun req => ?_, fun chunk => row _, fun chunk => ?_⟩
    · exact List.forall_mem_cons.2 ⟨row _, List.forall_mem_cons.2 ⟨row _, List.forall_mem_cons.2 ⟨row _, List.forall_mem_cons.2 ⟨row _, List.forall_mem_singleton.2 (row _)⟩⟩⟩⟩
    · exact (row (readNumeric i)).trans (congrArg _ (by rw [readNumeric, read]))
    · exact (row (readState i)).trans (congrArg _ (by rw [readState, read]))
    · exact (row (readPdr h)).trans (congrArg _ (by rw [readPdr, read]))
    · exact (row (setEffecterState v.val)).trans (congrArg _ (setEffecterState_invalid deep off))
    · exact (row (setEffecterState v.val)).trans (congrArg _ (setEffecterState_busy named busy))
    · obtain ⟨busy, target⟩ := s.powerBegun_shows 3 (by decide)
      have begun := (row (setEffecterState 3)).trans (congrArg _ (setEffecterState_begins free rails unarmed on))
      generalize s.powerBegun 3 = t at *
      exact ⟨_, begun, (congrArg (· == 1) (t.effecterSet_shows _).1).trans busy, (t.effecterSet_shows _).1.trans target, (t.effecterSet_shows .PWR_STATE_BUSY).2⟩
    · exact ⟨_, _, (row (requestUpdateOf image)).trans (congrArg _ (requestUpdateOf_refused bad)), rfl, rfl⟩
    · exact (row (requestUpdateOf image)).trans (congrArg _ (requestUpdateOf_taken fits signed free rails))
    · exact (row (activate kept)).trans (congrArg _ (activate_waits kept waits))
    · obtain ⟨shut, -, -, -, out⟩ := (s.reply .done).warm_cold_shows 1
      exact ⟨_, (row (activate false)).trans (congrArg _ (activate_restarts false unarmed free ready)), out, shut⟩
    · exact List.forall_mem_cons.2 ⟨answers req 1 (by decide), List.forall_mem_cons.2 ⟨answers req 2 (by decide), List.forall_mem_cons.2 ⟨answers req 3 (by decide),
        List.forall_mem_cons.2 ⟨answers req 4 (by decide), List.forall_mem_cons.2 ⟨answers req 5 (by decide), List.forall_mem_cons.2 ⟨answers req 6 (by decide),
        List.forall_mem_singleton.2 (answers req 7 (by decide))⟩⟩⟩⟩⟩⟩
    · obtain ⟨chunks, r, out⟩ := spdmRequest_once { s with mgmt := { s.mgmt with chunks := [] } } (Config.spdmKind (s.mgmt.chunks ++ chunk)).val (s.mgmt.chunks ++ chunk)
      exact ⟨_, r, (row (takeChunk chunk true)).trans (congrArg _ (takeChunk_last s chunk)), chunks, out⟩

end Sys2Proof.Proofs
end
